-- ==== Sys2Proof/Word.lean ====
section
/-! DEFINITION. The machine's words (R2, R4), the provenance set (R67), and their plainest arithmetic. -/

namespace Sys2Proof

/-- A double: the width of scalar registers, addresses in registers and instruction words (R2, R27, R65). -/
abbrev Word := BitVec 64

/-- A byte (R2). -/
abbrev Byte := BitVec 8

/-- A provenance set over the 16 party indices (R7, R67); union is bitwise or. -/
abbrev PvSet := BitVec 16

/-- `a` is a subset of `b`. -/
def pvSubset (a b : PvSet) : Bool := a &&& b == a

/-- The empty provenance set. -/
def pvEmpty : PvSet := 0#16

end Sys2Proof
end

