-- ==== Sys2Proof/Config.lean ====
section
/-! DEFINITION. Config: the values that the spec leaves open and what an implementation fixes. None has a body, so
nothing can be proved of them (log entries 1, 7, 9, 10). -/

namespace Sys2Proof.Config

/-- A free value, numbered by the counter of free values in the state (log entry 1). -/
opaque freeWord : Nat → Word

/-- A free byte of the `n`-th free area at offset `k`: the contents of an opaque frame or frozen area (R375, R378;
log entry 9). -/
opaque freeByte : Nat → Nat → Byte

/-- The free order of unordered accesses that meet at one address: the elements are performed by rising key; the
first argument is the counter of free values, the second the element (R129, R209, R210; log entry 7). -/
opaque orderKey : Nat → Nat → Nat

/-- The offset of BAR0 of physical function 0 within the host window (R470; log entry 10). -/
opaque bar0Base : Nat

/-- The fused 64-bit serial number (R490). -/
opaque serial : Word

/-- The fused hash of the firmware root key, as a 512-bit number (R490). -/
opaque rootHash : Nat

/-- The fused 256-bit device seed (R490). -/
opaque deviceSeed : Nat

/-- The 32-byte Ed25519 private key that boot derives from the device seed (R491): byte `i` of it. -/
opaque deriveKey : Nat → Nat → Byte

/-- The 32-byte Ed25519 private key with which Seluz certifies identity keys, which no package holds (R491): byte `i` of it. -/
opaque seluzSecret : Nat → Byte

/-- The LBA size of a namespace of an NVMe controller (R480). -/
opaque lbaSize : Nat → Nat → Nat

/-- A namespace is formatted with metadata or protection information (R480). -/
opaque lbaMeta : Nat → Nat → Bool

/-- The maximum data transfer size of an NVMe controller, in bytes (R480). -/
opaque maxTransfer : Nat → Nat

/-- Fields of a firmware image, whose layout R490 does not give: 0 its public key, 1 its signature, 2 header and body. -/
opaque imageField : Nat → List Byte → List Byte

/-- Which of the images of R490 an image is: 0 the security processor, 1 the dispatcher, 2 the breakwater, 3 the links, 4 the storage
engine; any other number is none. -/
opaque imageKind : List Byte → Nat

/-- The security version number of a firmware image (R490). -/
opaque imageSvn : List Byte → Nat

/-- The images of a firmware set, in load order (R490, R493). -/
opaque imageSet : List Byte → List (List Byte)

/-- The frame and freeze format numbers that a firmware set declares (R494). -/
opaque imageFormats : List (List Byte) → Word × Word

/-- CEIL and CUR of a frame of a peer package, as its home gives them (R434, R435, R477; log entry 76). -/
opaque peerCeil : Nat → BitVec 16
/-- CUR of a frame of a peer package; what of it CEIL holds. -/
opaque peerCur : Nat → BitVec 16

/-- The port, by its place in the route table's set, that the hash of a line number chooses (R476). -/
opaque portHash : Nat → Nat

/-- The Ethernet port that a queue pair uses (R479, R485). -/
opaque qpPort : Nat → Nat

/-- The DRAM bank of a physical address (R485). -/
opaque bankOf : Nat → Nat

/-- The group of 512 rows of an SRAM array in which a lasting fault lies, by the counter of free values (R485). -/
opaque sramGroup : Nat → Nat

/-- The delay depth that placement gives a data edge, by a number of the invocation and the edge; it is taken modulo 16
(R238). -/
opaque delayDepth : Nat → Nat → Nat

end Sys2Proof.Config
end

