-- ==== Sys2Proof/Syntax.lean ====
section
/-! DEFINITION. Syntax: the instruction formats of R30-R37 as records of fields, the data that the machine's own
steps and the arrivals from outside carry, and the one inductive `Instr` with a constructor for every row of the
opcode table. -/

namespace Sys2Proof

/-- The R format (R30). -/
structure RFmt where
  sd : BitVec 5
  sa : BitVec 5
  sb : BitVec 5
  sc : BitVec 5
deriving DecidableEq, Repr

/-- The I format (R31). -/
structure IFmt where
  sd : BitVec 5
  sa : BitVec 5
  imm : BitVec 32
deriving DecidableEq, Repr

/-- The M format (R32). -/
structure MFmt where
  sd : BitVec 5
  sa : BitVec 5
  sb : BitVec 5
  sc : BitVec 5
  scope : BitVec 3
  imm : BitVec 24
deriving DecidableEq, Repr

/-- The B format (R33). -/
structure BFmt where
  sd : BitVec 5
  sa : BitVec 5
  sb : BitVec 5
  imm : BitVec 32
deriving DecidableEq, Repr

/-- The V format (R34). -/
structure VFmt where
  cv : Bool
  vd : BitVec 5
  va : BitVec 5
  ca : Bool
  vb : BitVec 5
  cb : Bool
  vc : BitVec 5
  cc : Bool
  gm : BitVec 3
  dt : Bool
  zm : Bool
  md : BitVec 4
  ss : BitVec 5
  sb : Bool
  imm : BitVec 12
deriving DecidableEq, Repr

/-- The VM format (R35). -/
structure VMFmt where
  cv : Bool
  vd : BitVec 5
  sa : BitVec 5
  sb : BitVec 5
  ci : Bool
  scope : BitVec 3
  aqrl : Bool
  gm : BitVec 3
  dt : Bool
  zm : Bool
  imm : BitVec 22
deriving DecidableEq, Repr

/-- The X format (R36). -/
structure XFmt where
  slot : BitVec 4
  cw : Bool
  vo1 : BitVec 5
  vo2 : BitVec 5
  vi1 : BitVec 5
  c1 : Bool
  vi2 : BitVec 5
  c2 : Bool
  vi3 : BitVec 5
  c3 : Bool
  gm : BitVec 3
  dt : Bool
  sp : BitVec 5
  sd : BitVec 5
deriving DecidableEq, Repr

/-- The T format (R37). -/
structure TFmt where
  acc : BitVec 3
  slotA : BitVec 5
  slotB : BitVec 5
  h : Bool
  sa : BitVec 5
  sb : BitVec 5
  imm : BitVec 26
deriving DecidableEq, Repr

/-- A hart context, by the package-wide number of its core (R14) and its context number 0-7 (R15). -/
structure HartId where
  core : Nat
  hart : Nat
deriving DecidableEq, Repr

/-- Which register a write without behaviour of its own reaches: a control register by number (R68), or a
register of BAR0 by byte offset (R470). -/
inductive RegTarget where
  | csr (n : BitVec 12)
  | bar0 (off : BitVec 12)
deriving DecidableEq, Repr

/-- A management-queue entry (R471): where it stands in the ring, PART, and ARGS as the seven doubles at bytes
8 to 63; `zero` holds bytes 2-3, a zero field. -/
structure MqEntry where
  at_ : Nat
  part : Byte
  zero : BitVec 16
  w8 : Word
  w16 : Word
  w24 : Word
  w32 : Word
  w40 : Word
  w48 : Word
  w56 : Word
deriving DecidableEq, Repr

/-- A host request through CXL.mem (R466) at a local Ezmos address. -/
inductive CxlOp where
  | read (n : Nat)
  | write (bytes : List Byte)
deriving DecidableEq, Repr

/-- An operation packet on peer memory (R477), with the package that sent it. -/
structure PeerPacket where
  src : Nat
  op : Byte
  size : Byte
  pv : PvSet
  tag : BitVec 16
  addr : Nat
  opa : Word
  opb : Word
deriving DecidableEq, Repr

/-- Where an error was detected (R481). -/
inductive ErrorSite where
  /-- An Ezmos read, at a physical address. -/
  | ezmos (pa : Nat)
  /-- An SRAM word of a slice, register, tile or accumulator of a core; `pa` is the line's address or 0. -/
  | sram (core : Nat) (pa : Nat)
  /-- A flit on a port. -/
  | flit (port : Nat)
  /-- A residue check of a core's pipes or array. -/
  | residue (core : Nat)
deriving DecidableEq, Repr

/-- A value written to a control register with the set it carries (R87). -/
structure CsrValue where
  value : Word
  set : PvSet
deriving DecidableEq, Repr

/-- What the second read of a line gives (R425, R426): the data, or a failure, with the harts whose accesses were
waiting on the line. -/
inductive Reread where
  | good
  | failed (waiting : List HartId)
deriving DecidableEq, Repr

/-- What a repair replaces (R485). -/
inductive RepairUnit where
  | row (stack : Nat) (pa : Nat)
  | bank (stack : Nat) (pa : Nat)
  | lane (port : Nat)
  | hostLane
  | ethernetLane (port : Nat)
  | sramRow (core : Nat)
  | sliceWay (core : Nat) (bank : Nat)
deriving DecidableEq, Repr

/-- The instructions (rows 0 to 248 of the opcode table) and the machine's own steps and arrivals (rows 249 to
363). The named rule of each constructor is the table's. The forms without any field and the steps stand after the
other forms. -/
inductive Instr where
  /-- ADD (R73). -/
  | add (f : RFmt)
  /-- SUB (R73). -/
  | sub (f : RFmt)
  /-- AND (R73). -/
  | and (f : RFmt)
  /-- OR (R73). -/
  | or (f : RFmt)
  /-- XOR (R73). -/
  | xor (f : RFmt)
  /-- ANDN (R73). -/
  | andn (f : RFmt)
  /-- SLL (R73). -/
  | sll (f : RFmt)
  /-- SRL (R73). -/
  | srl (f : RFmt)
  /-- SRA (R73). -/
  | sra (f : RFmt)
  /-- MUL (R73). -/
  | mul (f : RFmt)
  /-- MULH (R73). -/
  | mulh (f : RFmt)
  /-- MULHU (R73). -/
  | mulhu (f : RFmt)
  /-- DIV (R74). -/
  | div (f : RFmt)
  /-- DIVU (R74). -/
  | divu (f : RFmt)
  /-- REM (R74). -/
  | rem (f : RFmt)
  /-- REMU (R74). -/
  | remu (f : RFmt)
  /-- MIN (R73). -/
  | min (f : RFmt)
  /-- MAX (R73). -/
  | max (f : RFmt)
  /-- MINU (R73). -/
  | minu (f : RFmt)
  /-- MAXU (R73). -/
  | maxu (f : RFmt)
  /-- SLT (R73). -/
  | slt (f : RFmt)
  /-- SLTU (R73). -/
  | sltu (f : RFmt)
  /-- CLZ (R73). -/
  | clz (f : RFmt)
  /-- CTZ (R73). -/
  | ctz (f : RFmt)
  /-- POPC (R73). -/
  | popc (f : RFmt)
  /-- SEL (R73). -/
  | sel (f : RFmt)
  /-- ADDI (R75). -/
  | addi (f : IFmt)
  /-- ANDI (R75). -/
  | andi (f : IFmt)
  /-- ORI (R75). -/
  | ori (f : IFmt)
  /-- XORI (R75). -/
  | xori (f : IFmt)
  /-- SLLI (R75). -/
  | slli (f : IFmt)
  /-- SRLI (R75). -/
  | srli (f : IFmt)
  /-- SRAI (R75). -/
  | srai (f : IFmt)
  /-- SLTI (R75). -/
  | slti (f : IFmt)
  /-- SLTIU (R75). -/
  | sltiu (f : IFmt)
  /-- LI (R75). -/
  | li (f : IFmt)
  /-- LIH (R75). -/
  | lih (f : IFmt)
  /-- LB (R78). -/
  | lb (f : MFmt) (o : Bool)
  /-- LBU (R78). -/
  | lbu (f : MFmt) (o : Bool)
  /-- LH (R78). -/
  | lh (f : MFmt) (o : Bool)
  /-- LHU (R78). -/
  | lhu (f : MFmt) (o : Bool)
  /-- LW (R78). -/
  | lw (f : MFmt) (o : Bool)
  /-- LWU (R78). -/
  | lwu (f : MFmt) (o : Bool)
  /-- LD (R78). -/
  | ld (f : MFmt) (o : Bool)
  /-- SB (R78). -/
  | sb (f : MFmt) (o : Bool)
  /-- SH (R78). -/
  | sh (f : MFmt) (o : Bool)
  /-- SW (R78). -/
  | sw (f : MFmt) (o : Bool)
  /-- SD (R78). -/
  | sd (f : MFmt) (o : Bool)
  /-- WLD_B (R80). -/
  | wldB (f : MFmt)
  /-- WLD_H (R80). -/
  | wldH (f : MFmt)
  /-- WLD_W (R80). -/
  | wldW (f : MFmt)
  /-- WLD_D (R80). -/
  | wldD (f : MFmt)
  /-- AMOADD (R357). -/
  | amoadd (f : MFmt) (d aq rl : Bool)
  /-- AMOAND (R357). -/
  | amoand (f : MFmt) (d aq rl : Bool)
  /-- AMOOR (R357). -/
  | amoor (f : MFmt) (d aq rl : Bool)
  /-- AMOXOR (R357). -/
  | amoxor (f : MFmt) (d aq rl : Bool)
  /-- AMOMIN (R357). -/
  | amomin (f : MFmt) (d aq rl : Bool)
  /-- AMOMAX (R357). -/
  | amomax (f : MFmt) (d aq rl : Bool)
  /-- AMOMINU (R357). -/
  | amominu (f : MFmt) (d aq rl : Bool)
  /-- AMOMAXU (R357). -/
  | amomaxu (f : MFmt) (d aq rl : Bool)
  /-- AMOSWAP (R357). -/
  | amoswap (f : MFmt) (d aq rl : Bool)
  /-- AMOCAS (R357). -/
  | amocas (f : MFmt) (d aq rl : Bool)
  /-- BEQ (R81). -/
  | beq (f : BFmt)
  /-- BNE (R81). -/
  | bne (f : BFmt)
  /-- BLT (R81). -/
  | blt (f : BFmt)
  /-- BGE (R81). -/
  | bge (f : BFmt)
  /-- BLTU (R81). -/
  | bltu (f : BFmt)
  /-- BGEU (R81). -/
  | bgeu (f : BFmt)
  /-- BMZ (R81). -/
  | bmz (f : BFmt)
  /-- BMNZ (R81). -/
  | bmnz (f : BFmt)
  /-- JAL (R82). -/
  | jal (f : BFmt)
  /-- JALR (R82). -/
  | jalr (f : BFmt)
  /-- SCALL (R84). -/
  | scall (f : IFmt)
  /-- BRK (R84). -/
  | brk (f : IFmt)
  /-- CSRRD (R87). -/
  | csrrd (f : IFmt)
  /-- CSRWR (R87). -/
  | csrwr (f : IFmt)
  /-- CSRSET (R87). -/
  | csrset (f : IFmt)
  /-- CSRCLR (R87). -/
  | csrclr (f : IFmt)
  /-- FENCE (R360). -/
  | fence (f : IFmt)
  /-- SETVL (R89). -/
  | setvl (f : IFmt)
  /-- VTAG (R94). -/
  | vtag (f : IFmt)
  /-- VRETAG (R94). -/
  | vretag (f : IFmt)
  /-- VTAGRD (R95). -/
  | vtagrd (f : RFmt)
  /-- FORK (R97). -/
  | fork (f : IFmt)
  /-- PVRD (R100). -/
  | pvrd (f : RFmt)
  /-- PVCTX (R101). -/
  | pvctx (f : RFmt)
  /-- WCHK (R103). -/
  | wchk (f : IFmt)
  /-- DISCARD (R105). -/
  | discard (f : RFmt)
  /-- TPPROBE (R107). -/
  | tpprobe (f : RFmt)
  /-- BAR (R264). -/
  | bar (f : IFmt)
  /-- WMPUB (R266). -/
  | wmpub (f : RFmt)
  /-- WMWAIT (R267). -/
  | wmwait (f : RFmt)
  /-- LAUNCH (R362). -/
  | launch (f : RFmt)
  /-- COPY (R368). -/
  | copy (f : RFmt)
  /-- DECOMP (R369). -/
  | decomp (f : RFmt)
  /-- SREAD (R370). -/
  | sread (f : RFmt)
  /-- GATE (R371). -/
  | gate (f : RFmt)
  /-- TWAIT (R372). -/
  | twait (f : RFmt)
  /-- TPOLL (R372). -/
  | tpoll (f : RFmt)
  /-- VSAVE (R376). -/
  | vsave (f : RFmt)
  /-- VRESTORE (R377). -/
  | vrestore (f : RFmt)
  /-- FRSAVE (R375). -/
  | frsave (f : RFmt)
  /-- FRLOAD (R375). -/
  | frload (f : RFmt)
  /-- XFREEZE (R378). -/
  | xfreeze (f : RFmt)
  /-- XTHAW (R378). -/
  | xthaw (f : RFmt)
  /-- RESERVE (R379). -/
  | reserve (f : RFmt)
  /-- MIGRATE (R380). -/
  | migrate (f : RFmt)
  /-- TLBINV (R381). -/
  | tlbinv (f : RFmt)
  /-- GATEINST (R382). -/
  | gateinst (f : RFmt)
  /-- PGFREE (R383). -/
  | pgfree (f : RFmt)
  /-- VADD (R114). -/
  | vadd (f : VFmt)
  /-- VSUB (R114). -/
  | vsub (f : VFmt)
  /-- VADC (R116). -/
  | vadc (f : VFmt)
  /-- VSBC (R116). -/
  | vsbc (f : VFmt)
  /-- VAND (R114). -/
  | vand (f : VFmt)
  /-- VOR (R114). -/
  | vor (f : VFmt)
  /-- VXOR (R114). -/
  | vxor (f : VFmt)
  /-- VANDN (R114). -/
  | vandn (f : VFmt)
  /-- VSLL (R114). -/
  | vsll (f : VFmt)
  /-- VSRL (R114). -/
  | vsrl (f : VFmt)
  /-- VSRA (R114). -/
  | vsra (f : VFmt)
  /-- VMIN (R114). -/
  | vmin (f : VFmt)
  /-- VMAX (R114). -/
  | vmax (f : VFmt)
  /-- VMINU (R114). -/
  | vminu (f : VFmt)
  /-- VMAXU (R114). -/
  | vmaxu (f : VFmt)
  /-- VABSD (R114). -/
  | vabsd (f : VFmt)
  /-- VSADD (R115). -/
  | vsadd (f : VFmt)
  /-- VSSUB (R115). -/
  | vssub (f : VFmt)
  /-- VMUL (R117). -/
  | vmul (f : VFmt)
  /-- VMULH (R117). -/
  | vmulh (f : VFmt)
  /-- VMULHU (R117). -/
  | vmulhu (f : VFmt)
  /-- VMAC (R118). -/
  | vmac (f : VFmt)
  /-- VDOT16 (R198). -/
  | vdot16 (f : VFmt)
  /-- VWMUL (R118). -/
  | vwmul (f : VFmt)
  /-- VCMP (R119). -/
  | vcmp (f : VFmt)
  /-- VSEL (R120). -/
  | vsel (f : VFmt)
  /-- VMV (R120). -/
  | vmv (f : VFmt)
  /-- VSPLAT (R120). -/
  | vsplat (f : VFmt)
  /-- VEXT (R121). -/
  | vext (f : VFmt)
  /-- VINS (R121). -/
  | vins (f : VFmt)
  /-- MAND (R122). -/
  | mand (f : VFmt)
  /-- MOR (R122). -/
  | mor (f : VFmt)
  /-- MXOR (R122). -/
  | mxor (f : VFmt)
  /-- MANDN (R122). -/
  | mandn (f : VFmt)
  /-- MNOT (R122). -/
  | mnot (f : VFmt)
  /-- MSHL (R123). -/
  | mshl (f : VFmt)
  /-- MSHR (R123). -/
  | mshr (f : VFmt)
  /-- MSET (R122). -/
  | mset (f : VFmt)
  /-- MPOPC (R122). -/
  | mpopc (f : VFmt)
  /-- MFIRST (R122). -/
  | mfirst (f : VFmt)
  /-- MLAST (R122). -/
  | mlast (f : VFmt)
  /-- MBIT (R122). -/
  | mbit (f : VFmt)
  /-- VFADD (R187). -/
  | vfadd (f : VFmt)
  /-- VFSUB (R187). -/
  | vfsub (f : VFmt)
  /-- VFMUL (R187). -/
  | vfmul (f : VFmt)
  /-- VFMA (R187). -/
  | vfma (f : VFmt)
  /-- VFMS (R187). -/
  | vfms (f : VFmt)
  /-- VFNMA (R187). -/
  | vfnma (f : VFmt)
  /-- VFNMS (R187). -/
  | vfnms (f : VFmt)
  /-- VFDIV (R188). -/
  | vfdiv (f : VFmt)
  /-- VFSQRT (R188). -/
  | vfsqrt (f : VFmt)
  /-- VFMIN (R189). -/
  | vfmin (f : VFmt)
  /-- VFMAX (R189). -/
  | vfmax (f : VFmt)
  /-- VFCMP (R190). -/
  | vfcmp (f : VFmt)
  /-- VFCLASS (R191). -/
  | vfclass (f : VFmt)
  /-- VFABS (R189). -/
  | vfabs (f : VFmt)
  /-- VFNEG (R189). -/
  | vfneg (f : VFmt)
  /-- VFRCP (R192). -/
  | vfrcp (f : VFmt)
  /-- VFRSQ (R192). -/
  | vfrsq (f : VFmt)
  /-- VFEXP2 (R192). -/
  | vfexp2 (f : VFmt)
  /-- VFLOG2 (R192). -/
  | vflog2 (f : VFmt)
  /-- VCVT (R194). -/
  | vcvt (f : VFmt)
  /-- VWIDEN (R195). -/
  | vwiden (f : VFmt)
  /-- VNARROW (R195). -/
  | vnarrow (f : VFmt)
  /-- VSCALE (R196). -/
  | vscale (f : VFmt)
  /-- VQUANT (R197). -/
  | vquant (f : VFmt)
  /-- VRED (R200). -/
  | vred (f : VFmt)
  /-- VFRED (R201). -/
  | vfred (f : VFmt)
  /-- VSCAN (R200). -/
  | vscan (f : VFmt)
  /-- VFSCAN (R201). -/
  | vfscan (f : VFmt)
  /-- VSEGPACK (R202). -/
  | vsegpack (f : VFmt)
  /-- VPERM (R205). -/
  | vperm (f : VFmt)
  /-- VSLIDEUP (R205). -/
  | vslideup (f : VFmt)
  /-- VSLIDEDN (R205). -/
  | vslidedn (f : VFmt)
  /-- VZIP (R205). -/
  | vzip (f : VFmt)
  /-- VUNZIP (R205). -/
  | vunzip (f : VFmt)
  /-- VCOMPRESS (R205). -/
  | vcompress (f : VFmt)
  /-- VBCAST (R205). -/
  | vbcast (f : VFmt)
  /-- VUNPK (R206). -/
  | vunpk (f : VFmt)
  /-- VPACKPX (R206). -/
  | vpackpx (f : VFmt)
  /-- VLD (R128). -/
  | vld (f : VMFmt)
  /-- VLDS (R128). -/
  | vlds (f : VMFmt)
  /-- VLDX (R208). -/
  | vldx (f : VMFmt)
  /-- VLDXO (R209). -/
  | vldxo (f : VMFmt)
  /-- VWLD (R131). -/
  | vwld (f : VMFmt)
  /-- VWLDS (R131). -/
  | vwlds (f : VMFmt)
  /-- VST (R128). -/
  | vst (f : VMFmt)
  /-- VSTS (R128). -/
  | vsts (f : VMFmt)
  /-- VSTX (R208). -/
  | vstx (f : VMFmt)
  /-- VSTXO (R209). -/
  | vstxo (f : VMFmt)
  /-- VAMOADD (R210). -/
  | vamoadd (f : VMFmt)
  /-- VAMOAND (R210). -/
  | vamoand (f : VMFmt)
  /-- VAMOOR (R210). -/
  | vamoor (f : VMFmt)
  /-- VAMOXOR (R210). -/
  | vamoxor (f : VMFmt)
  /-- VAMOMIN (R210). -/
  | vamomin (f : VMFmt)
  /-- VAMOMAX (R210). -/
  | vamomax (f : VMFmt)
  /-- VAMOMINU (R210). -/
  | vamominu (f : VMFmt)
  /-- VAMOMAXU (R210). -/
  | vamomaxu (f : VMFmt)
  /-- VAMOSWAP (R210). -/
  | vamoswap (f : VMFmt)
  /-- VAMOOADD (R210). -/
  | vamooadd (f : VMFmt)
  /-- VAMOOAND (R210). -/
  | vamooand (f : VMFmt)
  /-- VAMOOOR (R210). -/
  | vamooor (f : VMFmt)
  /-- VAMOOXOR (R210). -/
  | vamooxor (f : VMFmt)
  /-- VAMOOMIN (R210). -/
  | vamoomin (f : VMFmt)
  /-- VAMOOMAX (R210). -/
  | vamoomax (f : VMFmt)
  /-- VAMOOMINU (R210). -/
  | vamoominu (f : VMFmt)
  /-- VAMOOMAXU (R210). -/
  | vamoomaxu (f : VMFmt)
  /-- VAMOOSWAP (R210). -/
  | vamooswap (f : VMFmt)
  /-- KLD (R211). -/
  | kld (f : VMFmt)
  /-- KST (R211). -/
  | kst (f : VMFmt)
  /-- XOP (R138). -/
  | xop (f : XFmt)
  /-- BIND (R133). -/
  | bind (f : RFmt)
  /-- UNBIND (R135). -/
  | unbind (f : RFmt)
  /-- XSTAT (R136). -/
  | xstat (f : RFmt)
  /-- CHOPEN (R257). -/
  | chopen (f : RFmt)
  /-- CHCLOSE (R258). -/
  | chclose (f : RFmt)
  /-- CHSEND (R259). -/
  | chsend (f : RFmt)
  /-- CHRECV (R260). -/
  | chrecv (f : RFmt)
  /-- CHWAIT (R261). -/
  | chwait (f : RFmt)
  /-- CHSTAT (R261). -/
  | chstat (f : RFmt)
  /-- MMA (R311). -/
  | mma (f : TFmt)
  /-- MMAN (R311). -/
  | mman (f : TFmt)
  /-- MMAB (R311). -/
  | mmab (f : TFmt)
  /-- MACINIT (R309). -/
  | macinit (f : TFmt)
  /-- MDRAIN (R312). -/
  | mdrain (f : TFmt)
  /-- MZERO (R312). -/
  | mzero (f : TFmt)
  /-- MSTAT (R313). -/
  | mstat (f : TFmt)
  /-- MCLAIM (R299). -/
  | mclaim (f : TFmt)
  /-- MRELS (R300). -/
  | mrels (f : TFmt)
  /-- MLOAD (R303). -/
  | mload (f : TFmt)
  /-- MFILL (R304). -/
  | mfill (f : TFmt)
  /-- MHDR (R306). -/
  | mhdr (f : TFmt)
  /-- ILLEGAL_WORD (R50). -/
  | illegalWord (w : Word)
  /-- ERET (R85). -/
  | eret
  /-- WFE (R86). -/
  | wfe
  /-- IFENCE (R361). -/
  | ifence
  /-- NOP (R83). -/
  | nop
  /-- JOIN (R98). -/
  | join
  /-- PVCLR (R102). -/
  | pvclr
  /-- WCLR (R103). -/
  | wclr
  /-- HART_EXIT (R85). -/
  | hartExit
  /-- EVADDR_WRITE (R86). -/
  | evaddrWrite (v : Word) (pv : PvSet)
  /-- EVTIMER_WRITE (R86). -/
  | evtimerWrite (v : Word) (pv : PvSet)
  /-- PVCTX_CSR_WRITE (R101). -/
  | pvctxCsrWrite (v : CsrValue)
  /-- HFMASK_WRITE (R473). -/
  | hfmaskWrite (v : Word) (pv : PvSet)
  /-- HTVEC_WRITE (R474). -/
  | htvecWrite (v : Word) (pv : PvSet)
  /-- PARTID_WRITE (R473). -/
  | partidWrite (v : Word) (pv : PvSet)
  /-- TRAPSTATUS_WRITE (R411). -/
  | trapstatusWrite (hyp : Bool) (v : Word) (pv : PvSet)
  /-- REGISTER_WRITE (R70). -/
  | registerWrite (r : RegTarget) (v : Word) (pv : PvSet)
  /-- TIMER_EVENT (R86). -/
  | timerEvent (who : HartId)
  /-- EVADDR_LINE_WRITE (R86). -/
  | evaddrLineWrite (who : HartId)
  /-- LEVEL_CHANGE (R90). -/
  | levelChange (core : Nat) (code : BitVec 2)
  /-- VECTOR_POST (R148). -/
  | vectorPost (who : HartId)
  /-- ISSUE_CLK (R406). -/
  | issueClk
  /-- ELEMENT_GROUP_PROCESS (R152). -/
  | elementGroupProcess (who : HartId)
  /-- ELEMENT_GROUP_EMIT (R152). -/
  | elementGroupEmit (who : HartId)
  /-- LOAD_GROUP_RETURN (R153). -/
  | loadGroupReturn (who : HartId)
  /-- STORE_GROUP_PERFORM (R153). -/
  | storeGroupPerform (who : HartId)
  /-- DEFERRED_TRANSLATION_GROUP (R325). -/
  | deferredTranslationGroup (who : HartId)
  /-- DEFERRED_VECTOR_TRAP (R416). -/
  | deferredVectorTrap (who : HartId)
  /-- PAGE_TABLE_WALK (R322). -/
  | pageTableWalk (who : HartId) (va : Word) (acc : BitVec 2)
  /-- LINE_FILL (R330). -/
  | lineFill (core pa : Nat)
  /-- OWNERSHIP_GRANT (R328). -/
  | ownershipGrant (core pa : Nat)
  /-- ACQUIRE_MERGE (R347). -/
  | acquireMerge (core : Nat) (scope : BitVec 3)
  /-- LAZY_MERGE_TIMEOUT (R348). -/
  | lazyMergeTimeout (pa : Nat)
  /-- UNSCRUB_CLEAR_DONE (R336). -/
  | unscrubClearDone (frame : Nat)
  /-- WATERMARK_WAKE (R267). -/
  | watermarkWake (who : HartId)
  /-- WATCH_CHECK_SEND (R448). -/
  | watchCheckSend (who : HartId) (entry : Nat)
  /-- WATCH_CHECK_DECIDE (R449). -/
  | watchCheckDecide (check : Nat)
  /-- WATCH_REPLY_RECORD (R453). -/
  | watchReplyRecord (check : Nat)
  /-- WATCH_TIMEOUT_STRIKE (R452). -/
  | watchTimeoutStrike (who : HartId) (entry : Nat)
  /-- REEF_QUEUE_HEAD (R134). -/
  | reefQueueHead (core : Nat)
  /-- IMAGE_PLACEMENT (R238). -/
  | imagePlacement (core : Nat) (slot : BitVec 4)
  /-- NODE_FIRING (R220). -/
  | nodeFiring (core node : Nat)
  /-- M_NODE_LOAD_RETURN (R221). -/
  | mNodeLoadReturn (core node : Nat)
  /-- PORT_TOKEN_MOVE (R221). -/
  | portTokenMove (core port : Nat)
  /-- REEF_STALL_TIMEOUT (R245). -/
  | reefStallTimeout (core : Nat)
  /-- OPCODE_COMPLETE (R242). -/
  | opcodeComplete (core : Nat)
  /-- ISLAND_ORDER_ADMIT (R285). -/
  | islandOrderAdmit (core : Nat)
  /-- MATRIX_STEP_BEGIN (R286). -/
  | matrixStepBegin (core : Nat)
  /-- STEP_RESULT (R287). -/
  | stepResult (core : Nat)
  /-- ACCUMULATOR_DRAIN (R289). -/
  | accumulatorDrain (core : Nat)
  /-- DRAIN_WRITES_PERFORMED (R293). -/
  | drainWritesPerformed (core acc : Nat)
  /-- FILL_DATA_WRITE (R314). -/
  | fillDataWrite (core : Nat)
  /-- SLOT_PUBLISH (R263). -/
  | slotPublish (chan : Nat)
  /-- CHANNEL_COUNTER_ARRIVE (R263). -/
  | channelCounterArrive (chan branch : Nat)
  /-- ELASTIC_MOVE_START (R316). -/
  | elasticMoveStart (chan branch : Nat)
  /-- ELASTIC_MOVE_DONE (R253). -/
  | elasticMoveDone (chan branch : Nat)
  /-- ENGINE_COMPLETE (R365). -/
  | engineComplete (who : HartId) (tag : Nat)
  /-- NVME_COMPLETION (R370). -/
  | nvmeCompletion (who : HartId) (tag : Nat) (status : BitVec 16) (data : List Byte)
  /-- SREAD_QUEUE_SLOT (R480). -/
  | sreadQueueSlot (part controller : Nat)
  /-- BREAKWATER_REQUEST (R444). -/
  | breakwaterRequest (who : HartId) (tag : Nat)
  /-- BREAKWATER_DELIVERY_DONE (R445). -/
  | breakwaterDeliveryDone (who : HartId) (tag : Nat) (delivered : Nat)
  /-- EPOCH_TICK (R443). -/
  | epochTick
  /-- QUEUE_TAIL_OBSERVE (R392). -/
  | queueTailObserve (queue : Nat)
  /-- RECORD_TAKE (R393). -/
  | recordTake (queue : Nat)
  /-- DEPENDENCE_WATERMARK_MET (R398). -/
  | dependenceWatermarkMet (queue : Nat)
  /-- DISPATCH_DECISION (R399). -/
  | dispatchDecision (part : Nat)
  /-- LEVEL_PROMOTION (R400). -/
  | levelPromotion (queue : Nat)
  /-- HART_START (R353). -/
  | hartStart (who : HartId)
  /-- TASK_END (R403). -/
  | taskEnd (task : Nat)
  /-- COMPLETION_SIGNAL_WRITE (R397). -/
  | completionSignalWrite (task : Nat)
  /-- PREEMPT_HART_STOP (R498). -/
  | preemptHartStop (who : HartId)
  /-- HART_CONTEXT_SAVE (R418). -/
  | hartContextSave (who : HartId)
  /-- MARK_FILL_PUBLISH (R386). -/
  | markFillPublish (chan : Nat)
  /-- MARK_TAKE (R387). -/
  | markTake (chan branch : Nat)
  /-- MARK_WAIT_TIMEOUT (R387). -/
  | markWaitTimeout (who : HartId)
  /-- PREEMPTION_COMPLETE (R388). -/
  | preemptionComplete (task : Nat)
  /-- TIDEPOOL_SPILL_TRAP (R461). -/
  | tidepoolSpillTrap (frame : Nat)
  /-- TIDEPOOL_BACKING (R463). -/
  | tidepoolBacking (frame : Nat)
  /-- HOST_CXL_MEM_REQUEST (R466). -/
  | hostCxlMemRequest (pa : Nat) (op : CxlOp)
  /-- PRI_PAGE_REQUEST (R467). -/
  | priPageRequest (who : HartId) (off : Nat)
  /-- PRI_RESPONSE (R467). -/
  | priResponse (who : HartId) (ok : Bool)
  /-- ATOMICOP_COMPLETION (R358). -/
  | atomicopCompletion (who : HartId) (ok : Bool) (old : Word)
  /-- FUNCTION_LEVEL_RESET (R475). -/
  | functionLevelReset (vf : Nat)
  /-- FLIT_RECEIVE (R476). -/
  | flitReceive (port : Nat) (intact : Bool) (packets : List PeerPacket)
  /-- PEER_OPERATION_PACKET (R477). -/
  | peerOperationPacket (p : PeerPacket)
  /-- PEER_RESPONSE (R477). -/
  | peerResponse (who : HartId) (status : Byte) (cur : PvSet) (old : Word)
  /-- PEER_RESPONSE_TIMEOUT (R477). -/
  | peerResponseTimeout (who : HartId)
  /-- PACKAGE_UNREACHABLE (R489). -/
  | packageUnreachable (pkg : Nat)
  /-- ROCE_INCOMING_DATA (R479). -/
  | roceIncomingData (qp pa : Nat) (bytes : List Byte)
  /-- ROCE_READ_REQUEST (R479). -/
  | roceReadRequest (qp pa len : Nat)
  /-- HOST_WORK_REQUEST (R479). -/
  | hostWorkRequest (qp pa len : Nat)
  /-- ERROR_RETRY (R481). -/
  | errorRetry (site : ErrorSite) (retryOk : Bool)
  /-- UNCORRECTABLE_REREAD (R425). -/
  | uncorrectableReread (pa : Nat) (again : Reread)
  /-- LASTING_FAULT_REPAIR (R485). -/
  | lastingFaultRepair (u : RepairUnit)
  /-- CORE_SWAP (R486). -/
  | coreSwap (core : Nat)
  /-- THERMAL_LIMIT (R497). -/
  | thermalLimit (die : Nat)
  /-- THERMAL_STOP (R497). -/
  | thermalStop (die : Nat)
  /-- NEAP_EXIT (R497). -/
  | neapExit
  /-- BOOT (R490). -/
  | boot (images : List (List Byte))
  /-- MQTAIL_WRITE (R471). -/
  | mqtailWrite (v : Word)
  /-- PCREATE (R472). -/
  | pcreate (e : MqEntry)
  /-- PRESET (R472). -/
  | preset (e : MqEntry)
  /-- PDESTROY (R472). -/
  | pdestroy (e : MqEntry)
  /-- WAYS (R472). -/
  | ways (e : MqEntry)
  /-- BWSHARE (R472). -/
  | bwshare (e : MqEntry)
  /-- MEM (R472). -/
  | mem (e : MqEntry)
  /-- QTABLE (R472). -/
  | qtable (e : MqEntry)
  /-- CTXPOOL (R472). -/
  | ctxpool (e : MqEntry)
  /-- SPILLPOOL (R472). -/
  | spillpool (e : MqEntry)
  /-- ROSTER (R472). -/
  | roster (e : MqEntry)
  /-- PROV (R435). -/
  | prov (e : MqEntry)
  /-- NSBIND (R472). -/
  | nsbind (e : MqEntry)
  /-- QPBIND (R472). -/
  | qpbind (e : MqEntry)
  /-- FMASK (R473). -/
  | fmask (e : MqEntry)
  /-- HVEC (R474). -/
  | hvec (e : MqEntry)
  /-- ELOG (R484). -/
  | elog (e : MqEntry)
  /-- ATTEST (R492). -/
  | attest (e : MqEntry)
  /-- FWUPDATE (R493). -/
  | fwupdate (e : MqEntry)
  /-- FWUPDATE_ACTIVATE (R493). -/
  | fwupdateActivate
  /-- POWER (R496). -/
  | power (e : MqEntry)
  /-- SPRING_STATE_CHANGE (R496). -/
  | springStateChange (up : Bool)
  /-- DOMAIN_ASSEMBLY (R492). -/
  | domainAssembly (pkg : Nat) (ports : List Nat) (report : List Byte)
deriving DecidableEq, Repr

end Sys2Proof
end

