-- ==== Sys2Proof/WellFormed.lean ====
section
/-! DEFINITION. Which terms of `Instr` are instruction words: every zero field (R28, R29, R40-R42), scope code
(R38), MD value (R39) and field rule of the forms. The machine's own steps have no word. -/

namespace Sys2Proof

/-- A field that names a mask or scale register: the high two of five bits are zero (R42). -/
def low3 (x : BitVec 5) : Bool := x.extractLsb' 3 2 == 0

/-- A field that names an opcode slot: the fifth bit is zero (R132). -/
def low4 (x : BitVec 5) : Bool := !x.getLsbD 4

/-- The scope field (R38): a zero field of an unordered access, else a code 0-5. -/
def scopeOk (ordered : Bool) (s : BitVec 3) : Bool :=
  if ordered then decide (s.toNat <= 5) else s == 0

/-- R-format register fields that a form does not use are zero (R29). -/
def RFmt.only (f : RFmt) (sd sa sb sc : Bool) : Bool :=
  (sd || f.sd == 0) && (sa || f.sa == 0) && (sb || f.sb == 0) && (sc || f.sc == 0)

/-- I-format register fields that a form does not use are zero (R29). -/
def IFmt.only (f : IFmt) (sd sa : Bool) : Bool := (sd || f.sd == 0) && (sa || f.sa == 0)

/-- The bits of imm32 from `n` up are a zero field. -/
def IFmt.immBelow (f : IFmt) (n : Nat) : Bool := decide (f.imm.toNat < 2 ^ n)

/-- The legal kinds of FENCE: AQ, RL, AQ with RL, or FL alone (R359). -/
def fenceKindOk (imm : BitVec 32) : Bool :=
  let k := (imm.extractLsb' 3 3).toNat
  k == 1 || k == 2 || k == 3 || k == 4

/-- BAR takes CORE, DIE or PKG (R264). -/
def barScopeOk (s : BitVec 3) : Bool := decide (1 <= s.toNat) && decide (s.toNat <= 3)

/-- The sc field of WMPUB and WMWAIT: a scope code in sc[2:0], sc[4:3] zero (R265). -/
def scOk (sc : BitVec 5) : Bool := low3 sc && scopeOk true (sc.extractLsb' 0 3)

/-- The class code of PVRD and its limit on sa (R100). -/
def pvrdOk (sa sb : BitVec 5) : Bool :=
  sb == 0 || sb == 1 || ((sb == 2 || sb == 3) && low3 sa)

/-- A plain SMEM form: sb, sc unused, scope only when ordered (R32, R79). -/
def MFmt.plain (f : MFmt) (o : Bool) : Bool := f.sb == 0 && f.sc == 0 && scopeOk o f.scope

/-- With mk = 0, DT and ZM are zero (R40). -/
def VFmt.governed (f : VFmt) : Bool := f.gm != 0 || (!f.dt && !f.zm)
/-- mk, DT and ZM are zero fields. -/
def VFmt.ungoverned (f : VFmt) : Bool := f.gm == 0 && !f.dt && !f.zm
/-- va and Ca are zero fields. -/
def VFmt.noVa (f : VFmt) : Bool := f.va == 0 && !f.ca
/-- vb, Cb and SB are zero fields; ss is used. -/
def VFmt.noVb (f : VFmt) : Bool := f.vb == 0 && !f.cb && !f.sb
/-- No second source: vb, Cb, SB and ss are zero fields. -/
def VFmt.noSecond (f : VFmt) : Bool := f.vb == 0 && !f.cb && !f.sb && f.ss == 0
/-- The second source is a vector register: SB and ss are zero. -/
def VFmt.vecSecond (f : VFmt) : Bool := !f.sb && f.ss == 0
/-- The second source is vb, or ss under SB = 1 with vb and Cb zero (R41). -/
def VFmt.second (f : VFmt) : Bool := if f.sb then f.vb == 0 && !f.cb else f.ss == 0
/-- vc and Cc are zero fields. -/
def VFmt.noVc (f : VFmt) : Bool := f.vc == 0 && !f.cc
/-- vc names a mask or scale register. -/
def VFmt.vcLow (f : VFmt) : Bool := low3 f.vc && !f.cc
/-- A shift or index from imm12, or from ss under SB = 1 with imm12 zero; vb and Cb zero (R121, R205). -/
def VFmt.slotOrImm (f : VFmt) : Bool :=
  f.vb == 0 && !f.cb && (if f.sb then f.imm == 0 else f.ss == 0)
/-- The bits of imm12 from `n` up are a zero field. -/
def VFmt.immBelow (f : VFmt) (n : Nat) : Bool := decide (f.imm.toNat < 2 ^ n)
/-- MD as a rounding field with MD[3] a zero field: 0-6 (R39, R186). -/
def VFmt.mdRound (f : VFmt) : Bool := decide (f.md.toNat <= 6)
/-- MD as a rounding field with saturation (R39). -/
def VFmt.mdRoundSat (f : VFmt) : Bool := f.md.extractLsb' 0 3 != 7
/-- MD[3] saturates, MD[2:0] zero (R39). -/
def VFmt.mdSat (f : VFmt) : Bool := f.md.extractLsb' 0 3 == 0
/-- A MASK form: mk, DT, ZM, MD, SB, chain bits and vc zero; va names a mask (R122). -/
def VFmt.maskForm (f : VFmt) : Bool :=
  f.ungoverned && f.md == 0 && !f.sb && !f.ca && !f.cb && f.noVc && low3 f.va
/-- The immediate of VFRED and VFSCAN, and their start operand (R201). -/
def VFmt.startOk (f : VFmt) : Bool :=
  let op := (f.imm.extractLsb' 0 3).toNat
  let o := f.imm.getLsbD 3
  let st := f.imm.getLsbD 4
  f.immBelow 5 && decide (op <= 2) && (!o || op == 0) && (!st || o) &&
    (if st then f.second else f.noSecond)
/-- The immediate of MSHL and MSHR: a shift of 1-64 in [6:0], F in [7] (R123). -/
def shiftImmOk (imm : BitVec 12) : Bool :=
  let n := (imm.extractLsb' 0 7).toNat
  imm.extractLsb' 8 4 == 0 && decide (1 <= n) && decide (n <= 64)

/-- With mk = 0, DT and ZM are zero (R40). -/
def VMFmt.governed (f : VMFmt) : Bool := f.gm != 0 || (!f.dt && !f.zm)
/-- The scope field under AQRL (R38). -/
def VMFmt.ordered (f : VMFmt) : Bool := scopeOk f.aqrl f.scope
/-- AQRL and scope are zero (watched forms, R124). -/
def VMFmt.unordered (f : VMFmt) : Bool := !f.aqrl && f.scope == 0

/-- FP6 substitution of a type code (R54): 15 runs as 13, 16 as 14. -/
def fp6 (t : Nat) : Nat := if t == 15 then 13 else if t == 16 then 14 else t

/-- The fields of MACINIT by target (R307, R308). -/
def macinitOk (f : TFmt) : Bool :=
  let tgt := (f.imm.extractLsb' 0 2).toNat
  let int := f.imm.getLsbD 2
  let cf := fp6 (f.imm.extractLsb' 4 5).toNat
  let floatCf := cf == 10 || cf == 11 || cf == 12
  !f.imm.getLsbD 3 && (!f.imm.getLsbD 9 || cf == 14) && f.imm.extractLsb' 10 16 != 0 &&
    (match tgt with
     | 0 => !int && (cf == 11 || cf == 12 || cf == 13 || cf == 14) && f.sa == 0 && f.sb == 0
     | 1 => (if int then cf == 5 else floatCf) && f.slotB == 0 && !f.h
     | 2 => !int && cf == 10 && f.slotB == 0 && !f.h && f.sa == 0 && f.sb == 0
     | _ => (if int then cf == 5 else floatCf) && !f.h && f.sa == 0 && f.sb == 0)

/-- The selector of MCLAIM and MRELS: imm26[1:0], and the unused one of slotA and acc is zero (R299, R300). -/
def claimOk (claim : Bool) (f : TFmt) : Bool :=
  f.imm.extractLsb' 2 24 == 0 &&
    (match (f.imm.extractLsb' 0 2).toNat with
     | 0 => f.acc == 0
     | 1 => claim && f.acc == 0
     | 2 => f.slotA == 0
     | _ => false)

/-- The immediate of MLOAD (R301). -/
def mloadOk (f : TFmt) : Bool :=
  let kind := (f.imm.extractLsb' 0 3).toNat
  let fmt := fp6 (f.imm.extractLsb' 3 5).toNat
  let db := (f.imm.extractLsb' 8 2).toNat
  f.imm.extractLsb' 10 16 == 0 && (kind == 1 || kind == 3 || kind == 4 || kind == 5) &&
    (fmt == 1 || fmt == 2 || fmt == 11 || fmt == 12 || fmt == 13 || fmt == 14 || fmt == 17) &&
    (if kind == 3 then db == 1 || db == 2 else db == 0) && (!f.h || kind == 4)

/-- The term is an instruction word that breaks no rule of R28-R42 nor of its own form; a step of the machine
or an arrival from outside has no word. -/
def Instr.wf : Instr → Bool
  | .add f | .sub f | .and f | .or f | .xor f | .andn f | .sll f | .srl f | .sra f | .mul f | .mulh f 
  | .mulhu f | .div f | .divu f | .rem f | .remu f | .min f | .max f | .minu f | .maxu f | .slt f | .sltu f => f.only true true true false
  | .clz f | .ctz f | .popc f => f.only true true false false
  | .sel _ => true
  | .addi _ | .andi _ | .ori _ | .xori _ | .slti _ | .sltiu _ | .lih _ => true
  | .slli f | .srli f | .srai f => f.imm.extractLsb' 6 26 == 0
  | .li f => f.sa == 0
  | .lb f o | .lbu f o | .lh f o | .lhu f o | .lw f o | .lwu f o | .ld f o | .sb f o | .sh f o | .sw f o 
  | .sd f o => f.plain o
  | .wldB f | .wldH f | .wldW f | .wldD f => f.plain false
  | .amoadd f _ aq rl | .amoand f _ aq rl | .amoor f _ aq rl | .amoxor f _ aq rl | .amomin f _ aq rl 
  | .amomax f _ aq rl | .amominu f _ aq rl | .amomaxu f _ aq rl | .amoswap f _ aq rl => f.sc == 0 && scopeOk (aq || rl) f.scope
  | .amocas f _ aq rl => scopeOk (aq || rl) f.scope
  | .beq f | .bne f | .blt f | .bge f | .bltu f | .bgeu f => f.sd == 0
  | .bmz f | .bmnz f => f.sd == 0 && f.sa == 0 && low3 f.sb
  | .jal f => f.sa == 0 && f.sb == 0
  | .jalr f => f.sb == 0
  | .scall f | .brk f => f.only false false
  | .csrrd f => f.only true false && f.immBelow 12
  | .csrwr f | .csrset f | .csrclr f => f.immBelow 12
  | .fence f => f.only false false && f.immBelow 6 && fenceKindOk f.imm && scopeOk true (f.imm.extractLsb' 0 3)
  | .setvl f => f.immBelow 6
  | .vtag f | .vretag f => f.sa == 0 && f.immBelow 10
  | .fork f | .wchk f => f.sa == 0
  | .bar f => f.immBelow 8 && barScopeOk (f.imm.extractLsb' 0 3)
  | .eret | .wfe | .ifence | .nop | .join | .pvclr | .wclr => true
  | .vtagrd f | .pvctx f | .tpprobe f | .copy f | .decomp f | .sread f | .gate f | .twait f | .tpoll f 
  | .vsave f | .frsave f | .xfreeze f | .gateinst f => f.only true true false false
  | .pvrd f => f.only true true true false && pvrdOk f.sa f.sb
  | .discard f | .migrate f | .tlbinv f | .pgfree f => f.only false true true false
  | .vrestore f | .frload f | .xthaw f | .chclose f => f.only false true false false
  | .wmpub f => f.only false true true true && scOk f.sc
  | .wmwait f => scOk f.sc
  | .launch f | .reserve f | .chopen f | .chwait f | .chstat f | .chrecv f => f.only true true true false
  | .chsend f => f.only false true true true
  | .bind f => f.only true true false false && low4 f.sd
  | .unbind f => f.only true false false false && low4 f.sd
  | .xstat f => f.only true true true false && low4 f.sb
  | .vadd f | .vsub f | .vand f | .vor f | .vxor f | .vandn f | .vsll f | .vsrl f | .vsra f | .vmin f 
  | .vmax f | .vminu f | .vmaxu f | .vabsd f | .vsadd f | .vssub f | .vmulh f | .vmulhu f | .vwmul f => f.governed && f.second && f.noVc && f.imm == 0 && f.md == 0
  | .vadc f | .vsbc f => f.governed && f.second && f.vcLow && f.imm.extractLsb' 3 9 == 0 && f.md == 0
  | .vmul f | .vmac f | .vdot16 f => f.governed && f.second && f.noVc && f.imm == 0 && f.mdSat
  | .vcmp f => low3 f.vd && f.governed && f.second && f.noVc && f.imm == 0 && decide (f.md.toNat <= 9)
  | .vsel f => f.governed && f.vecSecond && f.vcLow && f.imm == 0 && f.md == 0
  | .vmv f | .vfclass f | .vfabs f | .vfneg f | .vwiden f => f.governed && f.noSecond && f.noVc && f.imm == 0 && f.md == 0
  | .vsplat f => f.governed && f.noVa && f.noVb && f.noVc && f.imm == 0 && f.md == 0
  | .vext f => f.ungoverned && f.slotOrImm && f.noVc && f.md == 0
  | .vins f => f.ungoverned && f.noVa && f.noVb && f.noVc && f.md == 0
  | .mand f | .mor f | .mxor f | .mandn f => f.maskForm && low3 f.vd && low3 f.vb && f.ss == 0 && f.imm == 0
  | .mnot f => f.maskForm && low3 f.vd && f.vb == 0 && f.ss == 0 && f.imm == 0
  | .mshl f | .mshr f => f.maskForm && low3 f.vd && f.vb == 0 && f.ss == 0 && shiftImmOk f.imm
  | .mset f => f.maskForm && low3 f.vd && f.va == 0 && f.vb == 0 && f.ss == 0 && f.imm.extractLsb' 1 11 == 0
  | .mpopc f | .mfirst f | .mlast f => f.maskForm && f.vb == 0 && f.ss == 0 && f.imm == 0
  | .mbit f => f.maskForm && f.vb == 0 && f.imm == 0
  | .vfadd f | .vfsub f | .vfmul f | .vfdiv f => f.governed && f.second && f.noVc && f.imm == 0 && f.mdRound
  | .vfma f | .vfms f | .vfnma f | .vfnms f => f.governed && f.second && f.imm == 0 && f.mdRound
  | .vfsqrt f | .vfrcp f | .vfrsq f | .vfexp2 f | .vflog2 f => f.governed && f.noSecond && f.noVc && f.imm == 0 && f.mdRound
  | .vfmin f | .vfmax f => f.governed && f.second && f.noVc && f.imm == 0 && f.md == 0
  | .vfcmp f => low3 f.vd && f.governed && f.second && f.noVc && f.imm == 0 && decide (f.md.toNat <= 7)
  | .vcvt f => f.governed && f.noSecond && f.noVc && f.immBelow 10 && f.mdRoundSat
  | .vnarrow f => f.governed && f.noSecond && f.noVc && f.immBelow 1 && f.mdRoundSat
  | .vscale f => f.governed && f.noSecond && f.vcLow && f.immBelow 10 && f.mdRound
  | .vquant f => f.governed && f.noSecond && f.vcLow && f.immBelow 10 && f.mdRoundSat
  | .vred f => f.governed && !f.zm && f.noSecond && f.noVc && f.immBelow 3 && f.mdSat
  | .vscan f => f.governed && f.noSecond && f.noVc && f.immBelow 3 && f.mdSat
  | .vfred f => f.governed && !f.zm && f.startOk && f.noVc && f.mdRound
  | .vfscan f => f.governed && f.startOk && f.noVc && f.mdRound
  | .vsegpack f => f.governed && !f.zm && f.noVa && f.noSecond && f.noVc && f.immBelow 1 && f.md == 0
  | .vperm f => f.governed && f.vecSecond && f.noVc && f.imm == 0 && f.md == 0
  | .vslideup f | .vslidedn f | .vbcast f => f.governed && f.slotOrImm && f.noVc && f.md == 0
  | .vzip f => f.ungoverned && f.vecSecond && f.noVc && f.imm == 0 && f.md == 0
  | .vunzip f => f.ungoverned && f.noSecond && f.noVc && f.immBelow 1 && f.md == 0
  | .vcompress f => !f.dt && !f.zm && f.noSecond && f.noVc && f.imm == 0 && f.md == 0
  | .vunpk f => f.governed && f.noSecond && f.noVc && f.immBelow 5 && f.md == 0
  | .vpackpx f => f.governed && f.noSecond && f.noVc && f.immBelow 5 && f.mdSat
  | .vld f => f.governed && f.ordered && f.sb == 0 && !f.ci
  | .vlds f => f.governed && f.ordered && !f.ci
  | .vldx f | .vldxo f => f.governed && f.ordered
  | .vwld f => f.governed && f.unordered && f.sb == 0 && !f.ci
  | .vwlds f => f.governed && f.unordered && !f.ci
  | .vst f => f.governed && !f.zm && f.ordered && f.sb == 0 && !f.ci
  | .vsts f => f.governed && !f.zm && f.ordered && !f.ci
  | .vstx f | .vstxo f | .vamoadd f | .vamoand f | .vamoor f | .vamoxor f | .vamomin f | .vamomax f 
  | .vamominu f | .vamomaxu f | .vamoswap f | .vamooadd f | .vamooand f | .vamooor f | .vamooxor f 
  | .vamoomin f | .vamoomax f | .vamoominu f | .vamoomaxu f | .vamooswap f => f.governed && !f.zm && f.ordered
  | .kld f | .kst f => low3 f.vd && f.sb == 0 && !f.ci && f.gm == 0 && !f.dt && !f.zm && f.ordered
  | .xop f => (f.gm != 0 || !f.dt) && (f.cw || f.sd == 0)
  | .mma f | .mmab f => f.sa == 0 && f.sb == 0 && f.imm == 0
  | .mman f => !f.h && f.sa == 0 && f.sb == 0 && f.imm == 0
  | .macinit f => f.slotA == 0 && macinitOk f
  | .mdrain f | .mzero f => f.slotA == 0 && f.slotB == 0 && !f.h && f.sa == 0 && f.sb == 0 && f.imm == 0
  | .mstat f => f.acc == 0 && f.slotA == 0 && f.slotB == 0 && !f.h && f.imm == 0
  | .mclaim f => f.slotB == 0 && !f.h && f.sa == 0 && f.sb == 0 && claimOk true f
  | .mrels f => f.slotB == 0 && !f.h && f.sa == 0 && f.sb == 0 && claimOk false f
  | .mload f => f.acc == 0 && f.slotB == 0 && mloadOk f
  | .mfill f => f.acc == 0 && f.slotB == 0 && !f.h && f.imm == 0
  | .mhdr f => f.acc == 0 && f.slotB == 0 && !f.h && f.sb == 0 && f.imm.extractLsb' 2 24 == 0 && f.imm != 3
  | .illegalWord _ | .hartExit | .evaddrWrite _ _ | .evtimerWrite _ _ | .pvctxCsrWrite _
  | .hfmaskWrite _ _ | .htvecWrite _ _ | .partidWrite _ _ | .trapstatusWrite _ _ _ | .registerWrite _ _ _
  | .timerEvent _ | .evaddrLineWrite _ | .levelChange _ _ | .vectorPost _ | .issueClk
  | .elementGroupProcess _ | .elementGroupEmit _ | .loadGroupReturn _ | .storeGroupPerform _ | .deferredTranslationGroup _
  | .deferredVectorTrap _ | .pageTableWalk _ _ _ | .lineFill _ _ | .ownershipGrant _ _ | .acquireMerge _ _
  | .lazyMergeTimeout _ | .unscrubClearDone _ | .watermarkWake _ | .watchCheckSend _ _ | .watchCheckDecide _
  | .watchReplyRecord _ | .watchTimeoutStrike _ _ | .reefQueueHead _ | .imagePlacement _ _ | .nodeFiring _ _
  | .mNodeLoadReturn _ _ | .portTokenMove _ _ | .reefStallTimeout _ | .opcodeComplete _ | .islandOrderAdmit _
  | .matrixStepBegin _ | .stepResult _ | .accumulatorDrain _ | .drainWritesPerformed _ _ | .fillDataWrite _
  | .slotPublish _ | .channelCounterArrive _ _ | .elasticMoveStart _ _ | .elasticMoveDone _ _ | .engineComplete _ _
  | .nvmeCompletion _ _ _ _ | .sreadQueueSlot _ _ | .breakwaterRequest _ _ | .breakwaterDeliveryDone _ _ _ | .epochTick
  | .queueTailObserve _ | .recordTake _ | .dependenceWatermarkMet _ | .dispatchDecision _ | .levelPromotion _
  | .hartStart _ | .taskEnd _ | .completionSignalWrite _ | .preemptHartStop _ | .hartContextSave _
  | .markFillPublish _ | .markTake _ _ | .markWaitTimeout _ | .preemptionComplete _ | .tidepoolSpillTrap _
  | .tidepoolBacking _ | .hostCxlMemRequest _ _ | .priPageRequest _ _ | .priResponse _ _ | .atomicopCompletion _ _ _
  | .functionLevelReset _ | .flitReceive _ _ _ | .peerOperationPacket _ | .peerResponse _ _ _ _ | .peerResponseTimeout _
  | .packageUnreachable _ | .roceIncomingData _ _ _ | .roceReadRequest _ _ _ | .hostWorkRequest _ _ _ | .errorRetry _ _
  | .uncorrectableReread _ _ | .lastingFaultRepair _ | .coreSwap _ | .thermalLimit _ | .thermalStop _
  | .neapExit | .boot _ | .mqtailWrite _ | .pcreate _ | .preset _
  | .pdestroy _ | .ways _ | .bwshare _ | .mem _ | .qtable _
  | .ctxpool _ | .spillpool _ | .roster _ | .prov _ | .nsbind _
  | .qpbind _ | .fmask _ | .hvec _ | .elog _ | .attest _
  | .fwupdate _ | .fwupdateActivate | .power _ | .springStateChange _ | .domainAssembly _ _ _
  => false

end Sys2Proof
end

