-- ==== Sys2Proof/Decode.lean ====
section
/-! DEFINITION. Decoding of instruction words (R27-R49), total on any bytes and rejecting by name, and the encoder.
`unpack` takes a word apart into the fields of its format, `build` chooses the form, `wf` applies the field rules;
`code` and `pack` go the other way. -/

namespace Sys2Proof

/-- Why a word is no instruction (R50). -/
inductive Reject where
  /-- The major opcode is 0x00 or reserved. -/
  | reservedMajor
  /-- The function code is not assigned. -/
  | unassignedFn
  /-- Bit 57 is set outside the V and VM formats (R28). -/
  | convoyBit
  /-- A zero field of the format is not zero (R30-R37). -/
  | formatZero
  /-- A field rule of the form is broken (R29, R38-R42). -/
  | fieldRule
  /-- Fewer than eight bytes. -/
  | short
deriving DecidableEq, Repr

/-- The formats (R30-R37). -/
inductive Fmt where
  | r | i | m | b | v | vm | x | t
deriving DecidableEq, Repr

/-- The fields of a word, by format. -/
inductive Fields where
  | r (f : RFmt) | i (f : IFmt) | m (f : MFmt) | b (f : BFmt) | v (f : VFmt) | vm (f : VMFmt) | x (f : XFmt)
  | t (f : TFmt)
deriving DecidableEq, Repr

/-- The I-format forms of the majors that hold both R and I forms (R45). -/
def isIForm (major fn : Nat) : Bool :=
  match major with
  | 0x07 => fn == 1 || fn == 3 || fn == 5 || fn == 6 || fn == 7 || fn == 8 || fn == 9
  | 0x08 => fn == 1 || fn == 2 || fn == 3 || fn == 5
  | 0x09 => fn == 4
  | 0x0A => fn == 1
  | _ => false

/-- The format of a major and function code (R44, R45); none for a reserved major. -/
def fmtOf (major fn : Nat) : Option Fmt :=
  match major with
  | 0x01 | 0x0B | 0x0C | 0x21 | 0x22 => some .r
  | 0x02 => some .i
  | 0x03 | 0x04 => some .m
  | 0x05 | 0x06 => some .b
  | 0x07 | 0x08 | 0x09 | 0x0A => some (if isIForm major fn then .i else .r)
  | 0x10 | 0x11 | 0x12 | 0x13 | 0x14 | 0x15 | 0x16 | 0x17 | 0x18 | 0x19 => some .v
  | 0x1A | 0x1B | 0x1C | 0x1D => some .vm
  | 0x20 => some .x
  | 0x28 | 0x29 => some .t
  | _ => none

/-- The field of `w` of `n` bits from bit `lo` up (R4). -/
def fld (w : Word) (lo n : Nat) : BitVec n := w.extractLsb' lo n

/-- The major opcode (R27). -/
def majorOf (w : Word) : Nat := (fld w 58 6).toNat

/-- The function code: FN in [56:50], cond in [56:54] for the B format (R33), 0 for the X format (R36). -/
def fnOf (w : Word) : Nat :=
  if majorOf w == 0x05 || majorOf w == 0x06 then (fld w 54 3).toNat
  else if majorOf w == 0x20 then 0 else (fld w 50 7).toNat

/-- The fields of a word in a format (R30-R37). -/
def unpack (k : Fmt) (w : Word) : Fields :=
  match k with
  | .r => .r ⟨fld w 45 5, fld w 40 5, fld w 35 5, fld w 30 5⟩
  | .i => .i ⟨fld w 45 5, fld w 40 5, fld w 0 32⟩
  | .m => .m ⟨fld w 45 5, fld w 40 5, fld w 35 5, fld w 30 5, fld w 27 3, fld w 0 24⟩
  | .b => .b ⟨fld w 45 5, fld w 40 5, fld w 35 5, fld w 0 32⟩
  | .v => .v ⟨w.getLsbD 57, fld w 45 5, fld w 40 5, w.getLsbD 39, fld w 34 5, w.getLsbD 33, fld w 28 5,
      w.getLsbD 27, fld w 24 3, w.getLsbD 23, w.getLsbD 22, fld w 18 4, fld w 13 5, w.getLsbD 12, fld w 0 12⟩
  | .vm => .vm ⟨w.getLsbD 57, fld w 45 5, fld w 40 5, fld w 35 5, w.getLsbD 34, fld w 31 3, w.getLsbD 30,
      fld w 24 3, w.getLsbD 23, w.getLsbD 22, fld w 0 22⟩
  | .x => .x ⟨fld w 53 4, w.getLsbD 52, fld w 47 5, fld w 42 5, fld w 37 5, w.getLsbD 36, fld w 31 5,
      w.getLsbD 30, fld w 25 5, w.getLsbD 24, fld w 21 3, w.getLsbD 20, fld w 15 5, fld w 10 5⟩
  | .t => .t ⟨fld w 47 3, fld w 42 5, fld w 37 5, w.getLsbD 36, fld w 31 5, fld w 26 5, fld w 0 26⟩

/-- The zero fields of a format itself (R30-R37), bit 57 apart. -/
def formatZeroOk (k : Fmt) (w : Word) : Bool :=
  match k with
  | .r => fld w 0 30 == 0
  | .i => fld w 32 8 == 0
  | .m => fld w 24 3 == 0
  | .b => fld w 50 4 == 0 && fld w 32 3 == 0
  | .v => true
  | .vm => fld w 27 3 == 0
  | .x => fld w 0 10 == 0
  | .t => true

/-- The forms that use no field (R83, R98, R102, R103) have every field zero. -/
def bareOk (major fn : Nat) (w : Word) : Bool :=
  let bare := match major with
    | 0x07 => fn == 2 || fn == 4 || fn == 10 || fn == 11
    | 0x08 => fn == 6
    | 0x09 => fn == 3 || fn == 5
    | _ => false
  !bare || fld w 0 50 == 0

/-- Bit 57 is the convoy bit in the V and VM formats and zero in every other (R28). -/
def convoyBitOk (k : Fmt) (w : Word) : Bool := k == .v || k == .vm || !w.getLsbD 57

/-- The RFmt form with function code `fn` of a major (R43-R49). -/
def buildRFmt (major fn : Nat) (f : RFmt) : Option Instr :=
  match major with
  | 0x01 =>
    match fn with
    | 1 => some (.add f)
    | 2 => some (.sub f)
    | 3 => some (.and f)
    | 4 => some (.or f)
    | 5 => some (.xor f)
    | 6 => some (.andn f)
    | 7 => some (.sll f)
    | 8 => some (.srl f)
    | 9 => some (.sra f)
    | 10 => some (.mul f)
    | 11 => some (.mulh f)
    | 12 => some (.mulhu f)
    | 13 => some (.div f)
    | 14 => some (.divu f)
    | 15 => some (.rem f)
    | 16 => some (.remu f)
    | 17 => some (.min f)
    | 18 => some (.max f)
    | 19 => some (.minu f)
    | 20 => some (.maxu f)
    | 21 => some (.slt f)
    | 22 => some (.sltu f)
    | 23 => some (.clz f)
    | 24 => some (.ctz f)
    | 25 => some (.popc f)
    | 26 => some (.sel f)
    | _ => none
  | 0x07 =>
    match fn with
    | 2 => some .eret
    | 4 => some .wfe
    | 10 => some .ifence
    | 11 => some .nop
    | _ => none
  | 0x08 =>
    match fn with
    | 4 => some (.vtagrd f)
    | 6 => some .join
    | _ => none
  | 0x09 =>
    match fn with
    | 1 => some (.pvrd f)
    | 2 => some (.pvctx f)
    | 3 => some .pvclr
    | 5 => some .wclr
    | 6 => some (.discard f)
    | 7 => some (.tpprobe f)
    | _ => none
  | 0x0A =>
    match fn with
    | 2 => some (.wmpub f)
    | 3 => some (.wmwait f)
    | 4 => some (.launch f)
    | _ => none
  | 0x0B =>
    match fn with
    | 1 => some (.copy f)
    | 2 => some (.decomp f)
    | 3 => some (.sread f)
    | 4 => some (.gate f)
    | 5 => some (.twait f)
    | 6 => some (.tpoll f)
    | _ => none
  | 0x0C =>
    match fn with
    | 1 => some (.vsave f)
    | 2 => some (.vrestore f)
    | 3 => some (.frsave f)
    | 4 => some (.frload f)
    | 5 => some (.xfreeze f)
    | 6 => some (.xthaw f)
    | 7 => some (.reserve f)
    | 8 => some (.migrate f)
    | 9 => some (.tlbinv f)
    | 10 => some (.gateinst f)
    | 11 => some (.pgfree f)
    | _ => none
  | 0x21 =>
    match fn with
    | 1 => some (.bind f)
    | 2 => some (.unbind f)
    | 3 => some (.xstat f)
    | _ => none
  | 0x22 =>
    match fn with
    | 1 => some (.chopen f)
    | 2 => some (.chclose f)
    | 3 => some (.chsend f)
    | 4 => some (.chrecv f)
    | 5 => some (.chwait f)
    | 6 => some (.chstat f)
    | _ => none
  | _ => none

/-- The IFmt form with function code `fn` of a major (R43-R49). -/
def buildIFmt (major fn : Nat) (f : IFmt) : Option Instr :=
  match major with
  | 0x02 =>
    match fn with
    | 1 => some (.addi f)
    | 2 => some (.andi f)
    | 3 => some (.ori f)
    | 4 => some (.xori f)
    | 5 => some (.slli f)
    | 6 => some (.srli f)
    | 7 => some (.srai f)
    | 8 => some (.slti f)
    | 9 => some (.sltiu f)
    | 10 => some (.li f)
    | 11 => some (.lih f)
    | _ => none
  | 0x07 =>
    match fn with
    | 1 => some (.scall f)
    | 3 => some (.brk f)
    | 5 => some (.csrrd f)
    | 6 => some (.csrwr f)
    | 7 => some (.csrset f)
    | 8 => some (.csrclr f)
    | 9 => some (.fence f)
    | _ => none
  | 0x08 =>
    match fn with
    | 1 => some (.setvl f)
    | 2 => some (.vtag f)
    | 3 => some (.vretag f)
    | 5 => some (.fork f)
    | _ => none
  | 0x09 =>
    match fn with
    | 4 => some (.wchk f)
    | _ => none
  | 0x0A =>
    match fn with
    | 1 => some (.bar f)
    | _ => none
  | _ => none

/-- The VFmt form with function code `fn` of a major (R43-R49). -/
def buildVFmt (major fn : Nat) (f : VFmt) : Option Instr :=
  match major with
  | 0x10 =>
    match fn with
    | 1 => some (.vadd f)
    | 2 => some (.vsub f)
    | 3 => some (.vadc f)
    | 4 => some (.vsbc f)
    | 5 => some (.vand f)
    | 6 => some (.vor f)
    | 7 => some (.vxor f)
    | 8 => some (.vandn f)
    | 9 => some (.vsll f)
    | 10 => some (.vsrl f)
    | 11 => some (.vsra f)
    | 12 => some (.vmin f)
    | 13 => some (.vmax f)
    | 14 => some (.vminu f)
    | 15 => some (.vmaxu f)
    | 16 => some (.vabsd f)
    | 17 => some (.vsadd f)
    | 18 => some (.vssub f)
    | _ => none
  | 0x11 =>
    match fn with
    | 1 => some (.vmul f)
    | 2 => some (.vmulh f)
    | 3 => some (.vmulhu f)
    | 4 => some (.vmac f)
    | 5 => some (.vdot16 f)
    | 6 => some (.vwmul f)
    | _ => none
  | 0x12 =>
    match fn with
    | 1 => some (.vcmp f)
    | 2 => some (.vsel f)
    | 3 => some (.vmv f)
    | 4 => some (.vsplat f)
    | 5 => some (.vext f)
    | 6 => some (.vins f)
    | _ => none
  | 0x13 =>
    match fn with
    | 1 => some (.mand f)
    | 2 => some (.mor f)
    | 3 => some (.mxor f)
    | 4 => some (.mandn f)
    | 5 => some (.mnot f)
    | 6 => some (.mshl f)
    | 7 => some (.mshr f)
    | 8 => some (.mset f)
    | 9 => some (.mpopc f)
    | 10 => some (.mfirst f)
    | 11 => some (.mlast f)
    | 12 => some (.mbit f)
    | _ => none
  | 0x14 =>
    match fn with
    | 1 => some (.vfadd f)
    | 2 => some (.vfsub f)
    | 3 => some (.vfmul f)
    | 4 => some (.vfma f)
    | 5 => some (.vfms f)
    | 6 => some (.vfnma f)
    | 7 => some (.vfnms f)
    | 8 => some (.vfdiv f)
    | 9 => some (.vfsqrt f)
    | 10 => some (.vfmin f)
    | 11 => some (.vfmax f)
    | 12 => some (.vfcmp f)
    | 13 => some (.vfclass f)
    | 14 => some (.vfabs f)
    | 15 => some (.vfneg f)
    | _ => none
  | 0x15 =>
    match fn with
    | 1 => some (.vfrcp f)
    | 2 => some (.vfrsq f)
    | 3 => some (.vfexp2 f)
    | 4 => some (.vflog2 f)
    | _ => none
  | 0x16 =>
    match fn with
    | 1 => some (.vcvt f)
    | 2 => some (.vwiden f)
    | 3 => some (.vnarrow f)
    | 4 => some (.vscale f)
    | 5 => some (.vquant f)
    | _ => none
  | 0x17 =>
    match fn with
    | 1 => some (.vred f)
    | 2 => some (.vfred f)
    | 3 => some (.vscan f)
    | 4 => some (.vfscan f)
    | 5 => some (.vsegpack f)
    | _ => none
  | 0x18 =>
    match fn with
    | 1 => some (.vperm f)
    | 2 => some (.vslideup f)
    | 3 => some (.vslidedn f)
    | 4 => some (.vzip f)
    | 5 => some (.vunzip f)
    | 6 => some (.vcompress f)
    | 7 => some (.vbcast f)
    | _ => none
  | 0x19 =>
    match fn with
    | 1 => some (.vunpk f)
    | 2 => some (.vpackpx f)
    | _ => none
  | _ => none

/-- The VMFmt form with function code `fn` of a major (R43-R49). -/
def buildVMFmt (major fn : Nat) (f : VMFmt) : Option Instr :=
  match major with
  | 0x1A =>
    match fn with
    | 1 => some (.vld f)
    | 2 => some (.vlds f)
    | 3 => some (.vldx f)
    | 4 => some (.vldxo f)
    | 5 => some (.vwld f)
    | 6 => some (.vwlds f)
    | _ => none
  | 0x1B =>
    match fn with
    | 1 => some (.vst f)
    | 2 => some (.vsts f)
    | 3 => some (.vstx f)
    | 4 => some (.vstxo f)
    | _ => none
  | 0x1C =>
    match fn with
    | 8 => some (.vamoadd f)
    | 12 => some (.vamooadd f)
    | 16 => some (.vamoand f)
    | 20 => some (.vamooand f)
    | 24 => some (.vamoor f)
    | 28 => some (.vamooor f)
    | 32 => some (.vamoxor f)
    | 36 => some (.vamooxor f)
    | 40 => some (.vamomin f)
    | 44 => some (.vamoomin f)
    | 48 => some (.vamomax f)
    | 52 => some (.vamoomax f)
    | 56 => some (.vamominu f)
    | 60 => some (.vamoominu f)
    | 64 => some (.vamomaxu f)
    | 68 => some (.vamoomaxu f)
    | 72 => some (.vamoswap f)
    | 76 => some (.vamooswap f)
    | _ => none
  | 0x1D =>
    match fn with
    | 1 => some (.kld f)
    | 2 => some (.kst f)
    | _ => none
  | _ => none

/-- The TFmt form with function code `fn` of a major (R43-R49). -/
def buildTFmt (major fn : Nat) (f : TFmt) : Option Instr :=
  match major with
  | 0x28 =>
    match fn with
    | 1 => some (.mma f)
    | 2 => some (.mman f)
    | 3 => some (.mmab f)
    | 4 => some (.macinit f)
    | 5 => some (.mdrain f)
    | 6 => some (.mzero f)
    | 7 => some (.mstat f)
    | _ => none
  | 0x29 =>
    match fn with
    | 1 => some (.mclaim f)
    | 2 => some (.mrels f)
    | 3 => some (.mload f)
    | 4 => some (.mfill f)
    | 5 => some (.mhdr f)
    | _ => none
  | _ => none

/-- The BFmt form with function code `fn` of a major (R43-R49). -/
def buildBFmt (major fn : Nat) (f : BFmt) : Option Instr :=
  match major with
  | 0x05 =>
    match fn with
    | 0 => some (.beq f)
    | 1 => some (.bne f)
    | 2 => some (.blt f)
    | 3 => some (.bge f)
    | 4 => some (.bltu f)
    | 5 => some (.bgeu f)
    | 6 => some (.bmz f)
    | 7 => some (.bmnz f)
    | _ => none
  | 0x06 =>
    match fn with
    | 1 => some (.jal f)
    | 2 => some (.jalr f)
    | _ => none
  | _ => none

/-- The MFmt form with function code `fn` of a major (R43-R49). -/
def buildMFmt (major fn : Nat) (f : MFmt) : Option Instr :=
  match major with
  | 0x03 =>
    match fn with
    | 16 => some (.lb f false)
    | 17 => some (.lb f true)
    | 18 => some (.lbu f false)
    | 19 => some (.lbu f true)
    | 20 => some (.lh f false)
    | 21 => some (.lh f true)
    | 22 => some (.lhu f false)
    | 23 => some (.lhu f true)
    | 24 => some (.lw f false)
    | 25 => some (.lw f true)
    | 26 => some (.lwu f false)
    | 27 => some (.lwu f true)
    | 28 => some (.ld f false)
    | 29 => some (.ld f true)
    | 32 => some (.sb f false)
    | 33 => some (.sb f true)
    | 36 => some (.sh f false)
    | 37 => some (.sh f true)
    | 40 => some (.sw f false)
    | 41 => some (.sw f true)
    | 44 => some (.sd f false)
    | 45 => some (.sd f true)
    | 48 => some (.wldB f)
    | 52 => some (.wldH f)
    | 56 => some (.wldW f)
    | 60 => some (.wldD f)
    | _ => none
  | 0x04 =>
    match fn with
    | 8 => some (.amoadd f false false false)
    | 9 => some (.amoadd f false false true)
    | 10 => some (.amoadd f false true false)
    | 11 => some (.amoadd f false true true)
    | 12 => some (.amoadd f true false false)
    | 13 => some (.amoadd f true false true)
    | 14 => some (.amoadd f true true false)
    | 15 => some (.amoadd f true true true)
    | 16 => some (.amoand f false false false)
    | 17 => some (.amoand f false false true)
    | 18 => some (.amoand f false true false)
    | 19 => some (.amoand f false true true)
    | 20 => some (.amoand f true false false)
    | 21 => some (.amoand f true false true)
    | 22 => some (.amoand f true true false)
    | 23 => some (.amoand f true true true)
    | 24 => some (.amoor f false false false)
    | 25 => some (.amoor f false false true)
    | 26 => some (.amoor f false true false)
    | 27 => some (.amoor f false true true)
    | 28 => some (.amoor f true false false)
    | 29 => some (.amoor f true false true)
    | 30 => some (.amoor f true true false)
    | 31 => some (.amoor f true true true)
    | 32 => some (.amoxor f false false false)
    | 33 => some (.amoxor f false false true)
    | 34 => some (.amoxor f false true false)
    | 35 => some (.amoxor f false true true)
    | 36 => some (.amoxor f true false false)
    | 37 => some (.amoxor f true false true)
    | 38 => some (.amoxor f true true false)
    | 39 => some (.amoxor f true true true)
    | 40 => some (.amomin f false false false)
    | 41 => some (.amomin f false false true)
    | 42 => some (.amomin f false true false)
    | 43 => some (.amomin f false true true)
    | 44 => some (.amomin f true false false)
    | 45 => some (.amomin f true false true)
    | 46 => some (.amomin f true true false)
    | 47 => some (.amomin f true true true)
    | 48 => some (.amomax f false false false)
    | 49 => some (.amomax f false false true)
    | 50 => some (.amomax f false true false)
    | 51 => some (.amomax f false true true)
    | 52 => some (.amomax f true false false)
    | 53 => some (.amomax f true false true)
    | 54 => some (.amomax f true true false)
    | 55 => some (.amomax f true true true)
    | 56 => some (.amominu f false false false)
    | 57 => some (.amominu f false false true)
    | 58 => some (.amominu f false true false)
    | 59 => some (.amominu f false true true)
    | 60 => some (.amominu f true false false)
    | 61 => some (.amominu f true false true)
    | 62 => some (.amominu f true true false)
    | 63 => some (.amominu f true true true)
    | 64 => some (.amomaxu f false false false)
    | 65 => some (.amomaxu f false false true)
    | 66 => some (.amomaxu f false true false)
    | 67 => some (.amomaxu f false true true)
    | 68 => some (.amomaxu f true false false)
    | 69 => some (.amomaxu f true false true)
    | 70 => some (.amomaxu f true true false)
    | 71 => some (.amomaxu f true true true)
    | 72 => some (.amoswap f false false false)
    | 73 => some (.amoswap f false false true)
    | 74 => some (.amoswap f false true false)
    | 75 => some (.amoswap f false true true)
    | 76 => some (.amoswap f true false false)
    | 77 => some (.amoswap f true false true)
    | 78 => some (.amoswap f true true false)
    | 79 => some (.amoswap f true true true)
    | 80 => some (.amocas f false false false)
    | 81 => some (.amocas f false false true)
    | 82 => some (.amocas f false true false)
    | 83 => some (.amocas f false true true)
    | 84 => some (.amocas f true false false)
    | 85 => some (.amocas f true false true)
    | 86 => some (.amocas f true true false)
    | 87 => some (.amocas f true true true)
    | _ => none
  | _ => none

/-- The XFmt form with function code `fn` of a major (R43-R49). -/
def buildXFmt (major fn : Nat) (f : XFmt) : Option Instr :=
  match major with
  | 0x20 =>
    match fn with
    | 0 => some (.xop f)
    | _ => none
  | _ => none

/-- The form of a major and function code with the given fields. -/
def build (major fn : Nat) (f : Fields) : Option Instr :=
  match f with
  | .r f => buildRFmt major fn f
  | .i f => buildIFmt major fn f
  | .m f => buildMFmt major fn f
  | .b f => buildBFmt major fn f
  | .v f => buildVFmt major fn f
  | .vm f => buildVMFmt major fn f
  | .x f => buildXFmt major fn f
  | .t f => buildTFmt major fn f

/-- Decoding of one instruction word; the rejection names why the word is no instruction (R50). -/
def decode (w : Word) : Except Reject Instr :=
  match fmtOf (majorOf w) (fnOf w) with
  | none => .error .reservedMajor
  | some k =>
    match build (majorOf w) (fnOf w) (unpack k w) with
    | none => .error .unassignedFn
    | some i =>
      if !convoyBitOk k w then .error .convoyBit
      else if !formatZeroOk k w then .error .formatZero
      else if bareOk (majorOf w) (fnOf w) w && i.wf then .ok i else .error .fieldRule

/-- A little-endian number from bytes, the lowest first (R2). -/
def leBytes : List Byte → Nat
  | [] => 0
  | b :: bs => b.toNat + 256 * leBytes bs

/-- The `n` bytes of a number, the lowest first (R2). -/
def toLeBytes : Nat → Nat → List Byte
  | 0, _ => []
  | n + 1, x => BitVec.ofNat 8 x :: toLeBytes n (x / 256)

/-- Decoding of the bytes at the program counter: one word of eight bytes, and the rest (R27). -/
def decodeBytes (bs : List Byte) : Except Reject (Instr × List Byte) :=
  if bs.length < 8 then .error .short
  else
    match decode (BitVec.ofNat 64 (leBytes (bs.take 8))) with
    | .ok i => .ok (i, bs.drop 8)
    | .error e => .error e

/-- The instruction that the decoder reads from a word numbered as the opcode table numbers it. -/
def decodeTableWord (nbits w : Nat) : Option Instr :=
  match decodeBytes (toLeBytes 8 (w % 2 ^ max nbits 64)) with
  | .ok (i, _) => some i
  | .error _ => none

/-- Major, function code and fields of an instruction; a step of the machine has none. -/
def Instr.code : Instr → Option (Nat × Nat × Fields)
  | .add f => some (0x01, 1, .r f)
  | .sub f => some (0x01, 2, .r f)
  | .and f => some (0x01, 3, .r f)
  | .or f => some (0x01, 4, .r f)
  | .xor f => some (0x01, 5, .r f)
  | .andn f => some (0x01, 6, .r f)
  | .sll f => some (0x01, 7, .r f)
  | .srl f => some (0x01, 8, .r f)
  | .sra f => some (0x01, 9, .r f)
  | .mul f => some (0x01, 10, .r f)
  | .mulh f => some (0x01, 11, .r f)
  | .mulhu f => some (0x01, 12, .r f)
  | .div f => some (0x01, 13, .r f)
  | .divu f => some (0x01, 14, .r f)
  | .rem f => some (0x01, 15, .r f)
  | .remu f => some (0x01, 16, .r f)
  | .min f => some (0x01, 17, .r f)
  | .max f => some (0x01, 18, .r f)
  | .minu f => some (0x01, 19, .r f)
  | .maxu f => some (0x01, 20, .r f)
  | .slt f => some (0x01, 21, .r f)
  | .sltu f => some (0x01, 22, .r f)
  | .clz f => some (0x01, 23, .r f)
  | .ctz f => some (0x01, 24, .r f)
  | .popc f => some (0x01, 25, .r f)
  | .sel f => some (0x01, 26, .r f)
  | .addi f => some (0x02, 1, .i f)
  | .andi f => some (0x02, 2, .i f)
  | .ori f => some (0x02, 3, .i f)
  | .xori f => some (0x02, 4, .i f)
  | .slli f => some (0x02, 5, .i f)
  | .srli f => some (0x02, 6, .i f)
  | .srai f => some (0x02, 7, .i f)
  | .slti f => some (0x02, 8, .i f)
  | .sltiu f => some (0x02, 9, .i f)
  | .li f => some (0x02, 10, .i f)
  | .lih f => some (0x02, 11, .i f)
  | .scall f => some (0x07, 1, .i f)
  | .eret => some (0x07, 2, .r ⟨0, 0, 0, 0⟩)
  | .brk f => some (0x07, 3, .i f)
  | .wfe => some (0x07, 4, .r ⟨0, 0, 0, 0⟩)
  | .csrrd f => some (0x07, 5, .i f)
  | .csrwr f => some (0x07, 6, .i f)
  | .csrset f => some (0x07, 7, .i f)
  | .csrclr f => some (0x07, 8, .i f)
  | .fence f => some (0x07, 9, .i f)
  | .ifence => some (0x07, 10, .r ⟨0, 0, 0, 0⟩)
  | .nop => some (0x07, 11, .r ⟨0, 0, 0, 0⟩)
  | .setvl f => some (0x08, 1, .i f)
  | .vtag f => some (0x08, 2, .i f)
  | .vretag f => some (0x08, 3, .i f)
  | .vtagrd f => some (0x08, 4, .r f)
  | .fork f => some (0x08, 5, .i f)
  | .join => some (0x08, 6, .r ⟨0, 0, 0, 0⟩)
  | .pvrd f => some (0x09, 1, .r f)
  | .pvctx f => some (0x09, 2, .r f)
  | .pvclr => some (0x09, 3, .r ⟨0, 0, 0, 0⟩)
  | .wchk f => some (0x09, 4, .i f)
  | .wclr => some (0x09, 5, .r ⟨0, 0, 0, 0⟩)
  | .discard f => some (0x09, 6, .r f)
  | .tpprobe f => some (0x09, 7, .r f)
  | .bar f => some (0x0A, 1, .i f)
  | .wmpub f => some (0x0A, 2, .r f)
  | .wmwait f => some (0x0A, 3, .r f)
  | .launch f => some (0x0A, 4, .r f)
  | .copy f => some (0x0B, 1, .r f)
  | .decomp f => some (0x0B, 2, .r f)
  | .sread f => some (0x0B, 3, .r f)
  | .gate f => some (0x0B, 4, .r f)
  | .twait f => some (0x0B, 5, .r f)
  | .tpoll f => some (0x0B, 6, .r f)
  | .vsave f => some (0x0C, 1, .r f)
  | .vrestore f => some (0x0C, 2, .r f)
  | .frsave f => some (0x0C, 3, .r f)
  | .frload f => some (0x0C, 4, .r f)
  | .xfreeze f => some (0x0C, 5, .r f)
  | .xthaw f => some (0x0C, 6, .r f)
  | .reserve f => some (0x0C, 7, .r f)
  | .migrate f => some (0x0C, 8, .r f)
  | .tlbinv f => some (0x0C, 9, .r f)
  | .gateinst f => some (0x0C, 10, .r f)
  | .pgfree f => some (0x0C, 11, .r f)
  | .vadd f => some (0x10, 1, .v f)
  | .vsub f => some (0x10, 2, .v f)
  | .vadc f => some (0x10, 3, .v f)
  | .vsbc f => some (0x10, 4, .v f)
  | .vand f => some (0x10, 5, .v f)
  | .vor f => some (0x10, 6, .v f)
  | .vxor f => some (0x10, 7, .v f)
  | .vandn f => some (0x10, 8, .v f)
  | .vsll f => some (0x10, 9, .v f)
  | .vsrl f => some (0x10, 10, .v f)
  | .vsra f => some (0x10, 11, .v f)
  | .vmin f => some (0x10, 12, .v f)
  | .vmax f => some (0x10, 13, .v f)
  | .vminu f => some (0x10, 14, .v f)
  | .vmaxu f => some (0x10, 15, .v f)
  | .vabsd f => some (0x10, 16, .v f)
  | .vsadd f => some (0x10, 17, .v f)
  | .vssub f => some (0x10, 18, .v f)
  | .vmul f => some (0x11, 1, .v f)
  | .vmulh f => some (0x11, 2, .v f)
  | .vmulhu f => some (0x11, 3, .v f)
  | .vmac f => some (0x11, 4, .v f)
  | .vdot16 f => some (0x11, 5, .v f)
  | .vwmul f => some (0x11, 6, .v f)
  | .vcmp f => some (0x12, 1, .v f)
  | .vsel f => some (0x12, 2, .v f)
  | .vmv f => some (0x12, 3, .v f)
  | .vsplat f => some (0x12, 4, .v f)
  | .vext f => some (0x12, 5, .v f)
  | .vins f => some (0x12, 6, .v f)
  | .mand f => some (0x13, 1, .v f)
  | .mor f => some (0x13, 2, .v f)
  | .mxor f => some (0x13, 3, .v f)
  | .mandn f => some (0x13, 4, .v f)
  | .mnot f => some (0x13, 5, .v f)
  | .mshl f => some (0x13, 6, .v f)
  | .mshr f => some (0x13, 7, .v f)
  | .mset f => some (0x13, 8, .v f)
  | .mpopc f => some (0x13, 9, .v f)
  | .mfirst f => some (0x13, 10, .v f)
  | .mlast f => some (0x13, 11, .v f)
  | .mbit f => some (0x13, 12, .v f)
  | .vfadd f => some (0x14, 1, .v f)
  | .vfsub f => some (0x14, 2, .v f)
  | .vfmul f => some (0x14, 3, .v f)
  | .vfma f => some (0x14, 4, .v f)
  | .vfms f => some (0x14, 5, .v f)
  | .vfnma f => some (0x14, 6, .v f)
  | .vfnms f => some (0x14, 7, .v f)
  | .vfdiv f => some (0x14, 8, .v f)
  | .vfsqrt f => some (0x14, 9, .v f)
  | .vfmin f => some (0x14, 10, .v f)
  | .vfmax f => some (0x14, 11, .v f)
  | .vfcmp f => some (0x14, 12, .v f)
  | .vfclass f => some (0x14, 13, .v f)
  | .vfabs f => some (0x14, 14, .v f)
  | .vfneg f => some (0x14, 15, .v f)
  | .vfrcp f => some (0x15, 1, .v f)
  | .vfrsq f => some (0x15, 2, .v f)
  | .vfexp2 f => some (0x15, 3, .v f)
  | .vflog2 f => some (0x15, 4, .v f)
  | .vcvt f => some (0x16, 1, .v f)
  | .vwiden f => some (0x16, 2, .v f)
  | .vnarrow f => some (0x16, 3, .v f)
  | .vscale f => some (0x16, 4, .v f)
  | .vquant f => some (0x16, 5, .v f)
  | .vred f => some (0x17, 1, .v f)
  | .vfred f => some (0x17, 2, .v f)
  | .vscan f => some (0x17, 3, .v f)
  | .vfscan f => some (0x17, 4, .v f)
  | .vsegpack f => some (0x17, 5, .v f)
  | .vperm f => some (0x18, 1, .v f)
  | .vslideup f => some (0x18, 2, .v f)
  | .vslidedn f => some (0x18, 3, .v f)
  | .vzip f => some (0x18, 4, .v f)
  | .vunzip f => some (0x18, 5, .v f)
  | .vcompress f => some (0x18, 6, .v f)
  | .vbcast f => some (0x18, 7, .v f)
  | .vunpk f => some (0x19, 1, .v f)
  | .vpackpx f => some (0x19, 2, .v f)
  | .vld f => some (0x1A, 1, .vm f)
  | .vlds f => some (0x1A, 2, .vm f)
  | .vldx f => some (0x1A, 3, .vm f)
  | .vldxo f => some (0x1A, 4, .vm f)
  | .vwld f => some (0x1A, 5, .vm f)
  | .vwlds f => some (0x1A, 6, .vm f)
  | .vst f => some (0x1B, 1, .vm f)
  | .vsts f => some (0x1B, 2, .vm f)
  | .vstx f => some (0x1B, 3, .vm f)
  | .vstxo f => some (0x1B, 4, .vm f)
  | .kld f => some (0x1D, 1, .vm f)
  | .kst f => some (0x1D, 2, .vm f)
  | .bind f => some (0x21, 1, .r f)
  | .unbind f => some (0x21, 2, .r f)
  | .xstat f => some (0x21, 3, .r f)
  | .chopen f => some (0x22, 1, .r f)
  | .chclose f => some (0x22, 2, .r f)
  | .chsend f => some (0x22, 3, .r f)
  | .chrecv f => some (0x22, 4, .r f)
  | .chwait f => some (0x22, 5, .r f)
  | .chstat f => some (0x22, 6, .r f)
  | .mma f => some (0x28, 1, .t f)
  | .mman f => some (0x28, 2, .t f)
  | .mmab f => some (0x28, 3, .t f)
  | .macinit f => some (0x28, 4, .t f)
  | .mdrain f => some (0x28, 5, .t f)
  | .mzero f => some (0x28, 6, .t f)
  | .mstat f => some (0x28, 7, .t f)
  | .mclaim f => some (0x29, 1, .t f)
  | .mrels f => some (0x29, 2, .t f)
  | .mload f => some (0x29, 3, .t f)
  | .mfill f => some (0x29, 4, .t f)
  | .mhdr f => some (0x29, 5, .t f)
  | .beq f => some (0x05, 0, .b f)
  | .bne f => some (0x05, 1, .b f)
  | .blt f => some (0x05, 2, .b f)
  | .bge f => some (0x05, 3, .b f)
  | .bltu f => some (0x05, 4, .b f)
  | .bgeu f => some (0x05, 5, .b f)
  | .bmz f => some (0x05, 6, .b f)
  | .bmnz f => some (0x05, 7, .b f)
  | .jal f => some (0x06, 1, .b f)
  | .jalr f => some (0x06, 2, .b f)
  | .lb f o => some (0x03, 16 + o.toNat, .m f)
  | .lbu f o => some (0x03, 18 + o.toNat, .m f)
  | .lh f o => some (0x03, 20 + o.toNat, .m f)
  | .lhu f o => some (0x03, 22 + o.toNat, .m f)
  | .lw f o => some (0x03, 24 + o.toNat, .m f)
  | .lwu f o => some (0x03, 26 + o.toNat, .m f)
  | .ld f o => some (0x03, 28 + o.toNat, .m f)
  | .sb f o => some (0x03, 32 + o.toNat, .m f)
  | .sh f o => some (0x03, 36 + o.toNat, .m f)
  | .sw f o => some (0x03, 40 + o.toNat, .m f)
  | .sd f o => some (0x03, 44 + o.toNat, .m f)
  | .wldB f => some (0x03, 48, .m f)
  | .wldH f => some (0x03, 52, .m f)
  | .wldW f => some (0x03, 56, .m f)
  | .wldD f => some (0x03, 60, .m f)
  | .amoadd f d aq rl => some (0x04, 8 + 4 * d.toNat + 2 * aq.toNat + rl.toNat, .m f)
  | .amoand f d aq rl => some (0x04, 16 + 4 * d.toNat + 2 * aq.toNat + rl.toNat, .m f)
  | .amoor f d aq rl => some (0x04, 24 + 4 * d.toNat + 2 * aq.toNat + rl.toNat, .m f)
  | .amoxor f d aq rl => some (0x04, 32 + 4 * d.toNat + 2 * aq.toNat + rl.toNat, .m f)
  | .amomin f d aq rl => some (0x04, 40 + 4 * d.toNat + 2 * aq.toNat + rl.toNat, .m f)
  | .amomax f d aq rl => some (0x04, 48 + 4 * d.toNat + 2 * aq.toNat + rl.toNat, .m f)
  | .amominu f d aq rl => some (0x04, 56 + 4 * d.toNat + 2 * aq.toNat + rl.toNat, .m f)
  | .amomaxu f d aq rl => some (0x04, 64 + 4 * d.toNat + 2 * aq.toNat + rl.toNat, .m f)
  | .amoswap f d aq rl => some (0x04, 72 + 4 * d.toNat + 2 * aq.toNat + rl.toNat, .m f)
  | .amocas f d aq rl => some (0x04, 80 + 4 * d.toNat + 2 * aq.toNat + rl.toNat, .m f)
  | .vamoadd f => some (0x1C, 8, .vm f)
  | .vamooadd f => some (0x1C, 12, .vm f)
  | .vamoand f => some (0x1C, 16, .vm f)
  | .vamooand f => some (0x1C, 20, .vm f)
  | .vamoor f => some (0x1C, 24, .vm f)
  | .vamooor f => some (0x1C, 28, .vm f)
  | .vamoxor f => some (0x1C, 32, .vm f)
  | .vamooxor f => some (0x1C, 36, .vm f)
  | .vamomin f => some (0x1C, 40, .vm f)
  | .vamoomin f => some (0x1C, 44, .vm f)
  | .vamomax f => some (0x1C, 48, .vm f)
  | .vamoomax f => some (0x1C, 52, .vm f)
  | .vamominu f => some (0x1C, 56, .vm f)
  | .vamoominu f => some (0x1C, 60, .vm f)
  | .vamomaxu f => some (0x1C, 64, .vm f)
  | .vamoomaxu f => some (0x1C, 68, .vm f)
  | .vamoswap f => some (0x1C, 72, .vm f)
  | .vamooswap f => some (0x1C, 76, .vm f)
  | .xop f => some (0x20, 0, .x f)
  | .illegalWord _ | .hartExit | .evaddrWrite _ _ | .evtimerWrite _ _ | .pvctxCsrWrite _
  | .hfmaskWrite _ _ | .htvecWrite _ _ | .partidWrite _ _ | .trapstatusWrite _ _ _ | .registerWrite _ _ _
  | .timerEvent _ | .evaddrLineWrite _ | .levelChange _ _ | .vectorPost _ | .issueClk
  | .elementGroupProcess _ | .elementGroupEmit _ | .loadGroupReturn _ | .storeGroupPerform _ | .deferredTranslationGroup _
  | .deferredVectorTrap _ | .pageTableWalk _ _ _ | .lineFill _ _ | .ownershipGrant _ _ | .acquireMerge _ _
  | .lazyMergeTimeout _ | .unscrubClearDone _ | .watermarkWake _ | .watchCheckSend _ _ | .watchCheckDecide _
  | .watchReplyRecord _ | .watchTimeoutStrike _ _ | .reefQueueHead _ | .imagePlacement _ _ | .nodeFiring _ _
  | .mNodeLoadReturn _ _ | .portTokenMove _ _ | .reefStallTimeout _ | .opcodeComplete _ | .islandOrderAdmit _
  | .matrixStepBegin _ | .stepResult _ | .accumulatorDrain _ | .drainWritesPerformed _ _ | .fillDataWrite _
  | .slotPublish _ | .channelCounterArrive _ _ | .elasticMoveStart _ _ | .elasticMoveDone _ _ | .engineComplete _ _
  | .nvmeCompletion _ _ _ _ | .sreadQueueSlot _ _ | .breakwaterRequest _ _ | .breakwaterDeliveryDone _ _ _ | .epochTick
  | .queueTailObserve _ | .recordTake _ | .dependenceWatermarkMet _ | .dispatchDecision _ | .levelPromotion _
  | .hartStart _ | .taskEnd _ | .completionSignalWrite _ | .preemptHartStop _ | .hartContextSave _
  | .markFillPublish _ | .markTake _ _ | .markWaitTimeout _ | .preemptionComplete _ | .tidepoolSpillTrap _
  | .tidepoolBacking _ | .hostCxlMemRequest _ _ | .priPageRequest _ _ | .priResponse _ _ | .atomicopCompletion _ _ _
  | .functionLevelReset _ | .flitReceive _ _ _ | .peerOperationPacket _ | .peerResponse _ _ _ _ | .peerResponseTimeout _
  | .packageUnreachable _ | .roceIncomingData _ _ _ | .roceReadRequest _ _ _ | .hostWorkRequest _ _ _ | .errorRetry _ _
  | .uncorrectableReread _ _ | .lastingFaultRepair _ | .coreSwap _ | .thermalLimit _ | .thermalStop _
  | .neapExit | .boot _ | .mqtailWrite _ | .pcreate _ | .preset _
  | .pdestroy _ | .ways _ | .bwshare _ | .mem _ | .qtable _
  | .ctxpool _ | .spillpool _ | .roster _ | .prov _ | .nsbind _
  | .qpbind _ | .fmask _ | .hvec _ | .elog _ | .attest _
  | .fwupdate _ | .fwupdateActivate | .power _ | .springStateChange _ | .domainAssembly _ _ _
  => none

/-- The word of a bit. -/
def bit (b : Bool) : BitVec 1 := if b then 1 else 0

/-- The word with the given major, function code and fields (R30-R37). -/
def pack (major fn : Nat) (f : Fields) : Word :=
  let j : BitVec 6 := BitVec.ofNat 6 major
  let n : BitVec 7 := BitVec.ofNat 7 fn
  match f with
  | .r f => j ++ 0#1 ++ n ++ f.sd ++ f.sa ++ f.sb ++ f.sc ++ 0#30
  | .i f => j ++ 0#1 ++ n ++ f.sd ++ f.sa ++ 0#8 ++ f.imm
  | .m f => j ++ 0#1 ++ n ++ f.sd ++ f.sa ++ f.sb ++ f.sc ++ f.scope ++ 0#3 ++ f.imm
  | .b f => j ++ 0#1 ++ BitVec.ofNat 3 fn ++ 0#4 ++ f.sd ++ f.sa ++ f.sb ++ 0#3 ++ f.imm
  | .v f => j ++ bit f.cv ++ n ++ f.vd ++ f.va ++ bit f.ca ++ f.vb ++ bit f.cb ++ f.vc ++ bit f.cc ++ f.gm
      ++ bit f.dt ++ bit f.zm ++ f.md ++ f.ss ++ bit f.sb ++ f.imm
  | .vm f => j ++ bit f.cv ++ n ++ f.vd ++ f.sa ++ f.sb ++ bit f.ci ++ f.scope ++ bit f.aqrl ++ 0#3 ++ f.gm
      ++ bit f.dt ++ bit f.zm ++ f.imm
  | .x f => j ++ 0#1 ++ f.slot ++ bit f.cw ++ f.vo1 ++ f.vo2 ++ f.vi1 ++ bit f.c1 ++ f.vi2 ++ bit f.c2
      ++ f.vi3 ++ bit f.c3 ++ f.gm ++ bit f.dt ++ f.sp ++ f.sd ++ 0#10
  | .t f => j ++ 0#1 ++ n ++ f.acc ++ f.slotA ++ f.slotB ++ bit f.h ++ f.sa ++ f.sb ++ f.imm

/-- The word of an instruction (R27-R49); the all-zero word, which is no instruction, for a machine's step. -/
def encode (i : Instr) : Word :=
  match i.code with
  | some (major, fn, f) => pack major fn f
  | none => 0

end Sys2Proof
end

