-- ==== Sys2Proof/Machine/State.lean ====
section
/-! DEFINITION. The state of the package: plain data, everything the spec gives the machine (INVENTORY.md lists each
field with its rule), the reasons a step can stop, and the state after reset. -/

namespace Sys2Proof.Machine

/-- The modes of a hart (R66). -/
inductive Mode where
  | user | supervisor | hypervisor
deriving DecidableEq, Repr

/-- A register's type tag (R92, R93): type code, grouping code, block-length code. -/
structure Tag where
  ty : BitVec 5
  g : BitVec 2
  bl : BitVec 3
deriving DecidableEq, Repr

/-- A vector register: its byte image as a number whose bit i is image bit i, tag, dirty bit and set (R94, R108). -/
structure VReg where
  img : Nat
  tag : Tag
  dirty : Bool
  pv : PvSet
deriving DecidableEq, Repr

/-- A mask register (R111) or a scale register (256 containers of 16 bits, R171): bits as a number, and the set. -/
structure BReg where
  bits : Nat
  pv : PvSet
deriving DecidableEq, Repr

/-- The vector side of a hart: v0-v31, m0-m7, k0-k7. -/
structure VecFile where
  v : Vector VReg 32
  m : Vector BReg 8
  k : Vector BReg 8
deriving DecidableEq, Repr

/-- The four trap registers of one handler mode (R410). -/
structure TrapRegs where
  cause : Word
  info : Word
  pc : Word
  status : Word
deriving DecidableEq, Repr

/-- The control registers held per hart (R68, R70), and the set of each, indexed by `csrIx`. -/
structure Csrs where
  vl : Nat
  sew : BitVec 2
  g : BitVec 2
  vlcut : Bool
  fstat : BitVec 6
  frm : BitVec 3
  srstate : Word
  segmask : BitVec 3
  mshout : Word
  xcnt2 : Word
  wstruck : BitVec 32
  wfull : Word
  tplost : Bool
  evaddr : Word
  evline : Option Nat
  argaddr : Word
  evtimer : Word
  timerArmed : Bool
  instret : Word
  tvec : Word
  sscratch : Word
  ptroot : Word
  partSel : Nat
  tr : TrapRegs
  htr : TrapRegs
  pv : Vector PvSet 40
deriving DecidableEq, Repr

/-- A recorded sector of a watch entry: its number (physical address / 32) and the version it was read at (R448). -/
structure WatchSector where
  sector : Nat
  ver : Nat
deriving DecidableEq, Repr

/-- How far the check of a line has come (R448, R449, R453). -/
inductive CheckPhase where
  | unsent | sent | decided (confirm : Bool) (pv : PvSet) | recorded
deriving DecidableEq, Repr

/-- The check of one line of a watch entry. -/
structure WatchLine where
  line : Nat
  sectors : List WatchSector
  stamp : Nat
  filled : Word
  phase : CheckPhase
deriving DecidableEq, Repr

/-- STATE of a watch entry (R447). -/
inductive WatchState where
  | pending | confirmed | struck
deriving DecidableEq, Repr

/-- A watch entry (R447), with its checks, the set it carries once struck (R454), and the clk it was made in. -/
structure WatchEntry where
  base : Word
  stride : Word
  count : Nat
  width : Nat
  state : WatchState
  pv : PvSet
  lines : List WatchLine
  made : Word
deriving DecidableEq, Repr

/-- A trap to be delivered: cause, TRAPINFO, DETAIL and ACC (R410, R411). -/
structure TrapRec where
  cause : Nat
  info : Word
  detail : Nat
  acc : Nat
deriving DecidableEq, Repr

/-- Why a hart does not issue (R86, R98, R264, R267, R498 and the other waits). -/
inductive Wait where
  /-- WFE, until the event flag is set. -/
  | wfe
  /-- Entries of the watch table are not all resolved (R103, R104). -/
  | watch
  /-- Posted vector, reef, matrix or engine work has not completed. -/
  | drain
  /-- BAR, until its episode completes (R264). -/
  | bar
  /-- WMWAIT (R267). -/
  | watermark
  /-- JOIN, until the youngest live child has ended (R98). -/
  | join
  /-- ERET with EXIT, until every live child has ended (R85). -/
  | exit
  /-- TWAIT on a tag (R372). -/
  | tag
  /-- CHSEND, CHRECV or CHWAIT (R256-R262). -/
  | chan
  /-- The matrix queue or another queue is full (R285). -/
  | queue
  /-- A reef opcode is running (R138). -/
  | reef
  /-- An access outside the package is under way (R358, R467, R477). -/
  | remote
  /-- The frame accessed is PENDING or MOVING (R457). -/
  | frame
  /-- A spill or backing that RESERVE waits for (R379). -/
  | reserve
  /-- The hart posted behind a held frame (R416). -/
  | held
  /-- The instruction waits for vector work posted before it (R71, R113, R130, R290). -/
  | hazard
  /-- The fetch of the next word, or the delivery of its trap, waits (R27, R415). -/
  | fetch
  /-- A change of the storage level that was first tried when `n` was the next number in the order of posting (R90). -/
  | level (n : Nat)
  /-- The hart has been placed and has not issued its first instruction (R402). -/
  | start
  /-- The hart is stopped for pre-emption and waits for its save (R386, R387). -/
  | stopped
deriving DecidableEq, Repr

/-- A token of a stream: its kind, 0 DATA, 1-4 STOP0-STOP3, 5 END, 6 MARK, and its payload (R251). -/
structure Tok where
  kind : Nat
  pay : Word
deriving DecidableEq, Repr

/-- What an unfinished convoy puts back when it traps (R160): its scalar operands, the vector side, the control registers and the
number of entries of the watch table as they stood when it issued. -/
structure Undo where
  s : Vector Word 32
  sp : Vector PvSet 32
  vec : VecFile
  csr : Csrs
  watch : Nat
deriving DecidableEq, Repr

/-- A CHSEND under way (R259): the tokens that it has not yet published, and their set. -/
structure Sending where
  toks : List Tok
  set : PvSet
deriving DecidableEq, Repr

/-- The translation structures of a core (R324). -/
inductive TlbUnit where
  /-- The instruction TLB. -/
  | instr
  /-- The scalar data TLB. -/
  | scalar
  /-- The unit-stride register of a hart. -/
  | unitStride (hart : Nat)
  /-- A bank of the gather TLB. -/
  | gather (bank : Nat)
  /-- The large-page array. -/
  | large
  /-- The second-level TLB. -/
  | second
deriving DecidableEq, Repr

/-- A TLB entry (R324): the address-space identifier, the first virtual and physical address of the page, the bits
of its offset, the low twelve bits of the leaf (R321), and the structure that holds it. -/
structure TlbEntry where
  asid : Nat
  va : Nat
  pa : Nat
  bits : Nat
  flags : BitVec 12
  unit : TlbUnit
deriving DecidableEq, Repr

/-- A vector-class item of a hart's vector queue or opaque frame: address of its first word, its words, and the scalar registers
with their sets, the context set, FRM and SEGMASK that were in force when it was posted (R71, R72, R199, R416); how far a CHRECV has
come (`prog`), the scalar registers that later instructions have written (R113), a CHSEND under way, what the item waits for,
whether it is only being checked (R160), the members of a convoy that have run, with what they put back, the translations that the
check of a convoy has found (R325), and its number in the order of posting (R351). -/
structure Item where
  at_ : Word
  words : List Word
  s : Vector Word 32
  sp : Vector PvSet 32
  ctx : PvSet
  frm : BitVec 3
  segmask : BitVec 3
  prog : Nat
  dead : List Nat
  send : Option Sending
  wait : Option Wait
  dry : Bool
  ran : Nat
  undo : Option Undo
  pins : List TlbEntry
  seq : Nat
deriving DecidableEq, Repr

/-- What a hart context is doing (R406, R409). -/
inductive HartStatus where
  | free | running | waiting (w : Wait) | halted
deriving DecidableEq, Repr

/-- An atomic operation that a request asks for (R47, R210, R266, R358): its number (10 compare-and-swap), the bytes of the
location, the operands, and the data set. -/
structure AmoReq where
  op : Nat
  n : Nat
  b : Word
  c : Word
  pv : PvSet
deriving DecidableEq, Repr

/-- A request of a hart to an agent outside the package, and the answer once it has come (R358, R467, R477). The operation is
performed at its home when the answer arrives (R339). `sent` is the clk at which the request left. -/
structure Remote where
  addr : Nat
  req : AmoReq
  answer : Option Word
  failed : Option Nat
  cur : PvSet
  sent : Word
deriving DecidableEq, Repr

/-- An element of a vector atomic (R210): the address that a trap reports, the location, and the operand. -/
structure VElem where
  info : Word
  pa : Nat
  val : Word
deriving DecidableEq, Repr

/-- A request of one element of a vector atomic, with the address that a trap reports (R210, R478). -/
structure Flight where
  info : Word
  r : Remote
deriving DecidableEq, Repr

/-- A vector atomic under way, some of whose elements lie outside the package (R210, R424, R478): its word, its operation, the bytes of
an element, its data set, how many elements are active, the elements still to be performed, in order, and the requests sent. -/
structure VReq where
  word : Word
  op : Nat
  n : Nat
  pv : PvSet
  total : Nat
  todo : List VElem
  out : List Flight
deriving DecidableEq, Repr

/-- A word of the matrix queue (R285): the posting hart, the word's address, the word, the operands read and the context
set when it was posted, PTROOT and mode, the addresses translated for a fill (R302, R304), the header that an MFILL has read
(R304), and the word's number in the order of posting (R351). -/
structure MqItem where
  who : HartId
  at_ : Word
  word : Word
  a : Word
  b : Word
  pa : PvSet
  ctx : PvSet
  ptroot : Word
  mode : Mode
  pages : List (Nat × Nat)
  hdr : Nat
  seq : Nat
deriving DecidableEq, Repr

/-- A claim on a tile slot (0-31) or an accumulator (32-39) (R273, R274). -/
structure Claim where
  num : Nat
  asid : Nat
  disc : Bool
deriving DecidableEq, Repr

/-- A tile slot (R272, R274, R275, R299): whether a claim makes it reachable in island order, and for which process, whether it is
discardable, its header, operand memory and index area as numbers, and its set. -/
structure TileSlot where
  num : Nat
  live : Bool
  asid : Nat
  disc : Bool
  hdr : Nat
  mem : Nat
  idx : Nat
  pv : PvSet
deriving DecidableEq, Repr

/-- A MACINIT configuration (R288, R307, R308): AF, CF, SAT, K, TGT, the target slot or first vector register, H, the
target's address and pitch, and the posting hart. -/
structure AccConf where
  int : Bool
  cf : Nat
  sat : Bool
  k : Nat
  tgt : Nat
  reg : Nat
  half : Bool
  addr : Word
  pitch : Word
  owner : HartId
deriving DecidableEq, Repr

/-- An accumulator (R273, R288): whether a claim makes it reachable, and for which process, its 8,192 elements as one
number, the count, the configuration, its set, the instruction that set off its pending drain, and whether a drain's
writes are still to be performed (R293). -/
structure Accum where
  num : Nat
  live : Bool
  asid : Nat
  elems : Nat
  count : Nat
  conf : Option AccConf
  pv : PvSet
  drain : Option MqItem
  writing : Bool
deriving DecidableEq, Repr

/-- The matrix island of a core (R272, R285-R291): claims, slots and accumulators that were claimed, the island order
not yet begun, the step in the array, fills begun, the accumulators with a pending drain in order, and the round-robin
pointer. -/
structure Island where
  claims : List Claim
  slots : List TileSlot
  accs : List Accum
  order : List MqItem
  step : Option MqItem
  fills : List MqItem
  drains : List Nat
  ptr : Nat
deriving DecidableEq, Repr

/-- The state of an engine tag (R364-R366): free, running, or complete with a status. -/
inductive TagState where
  | free
  | running
  | done (status : Word)
deriving DecidableEq, Repr

/-- The output of a DECOMP into a channel (R369), decoded once: the tokens still to be sent, the completion code, the bytes, and S. -/
structure Decoded where
  toks : List Tok
  code : Nat
  len : Nat
  pv : PvSet
deriving DecidableEq, Repr

/-- An engine job (R365): its number, its engine (1 COPY, 2 DECOMP, 3 SREAD, 4 GATE), the issuing hart, partition and
level, the control block's address, its operand words and CTL, the context set at issue with the namespace's set (R367),
PTROOT and mode for its translations, the channel of DECOMP's output, the controller and namespace of SREAD, and how far
it has come: the output still to be sent, or the destination pieces of an SREAD under way; its tag; and where the two words that the
engine writes stand, once the checks of its start have passed (R365, R366). -/
structure EngJob where
  uid : Nat
  tag : Nat
  kind : Nat
  who : HartId
  part : Nat
  level : Nat
  block : Word
  ops : List Word
  pv : PvSet
  ptroot : Word
  mode : Mode
  chan : Nat
  ctl : Nat
  nsid : Nat
  out : Option Decoded
  pieces : Option (List (Nat × Nat))
  place : Option Nat
deriving DecidableEq, Repr

/-- An engine tag of a hart: its number, its state, its job, and the engine's set S (R367, R372). -/
structure EngTag where
  num : Nat
  state : TagState
  uid : Nat
  pv : PvSet
deriving DecidableEq, Repr

/-- A barrier of a task in a scope unit (R264): the task, or 512 and the core's number where a core runs no task, the scope
code, the unit, the id, the number of completed episodes, and the count and arrivals of the open one. -/
structure Barrier where
  task : Nat
  scope : Nat
  unit : Nat
  id : Nat
  episodes : Nat
  count : Nat
  arrived : Nat
deriving DecidableEq, Repr

/-- An arrival of a hart at a barrier (R264). -/
structure Arrival where
  task : Nat
  scope : Nat
  unit : Nat
  id : Nat
  episode : Nat
  index : Nat
deriving DecidableEq, Repr

/-- A forked child (R97, R98): its context number, the lane groups it took, and its final context set once it has
ended. -/
structure Child where
  ix : Nat
  lo : Nat
  n : Nat
  done : Option PvSet
deriving DecidableEq, Repr

/-- A hart context (R65): its registers and control registers; the vector side and the items that wait for it; the watch
table, with those set aside; the engine tags; the matrix queue; the traps that wait for its next instruction; what its instruction in
hand waits for, how far it has come and what a CHSEND has still to send, the arrivals at barriers set aside at a trap to either
handler (R461, R498), the words that it has posted in this clk (R148), the first number in the order of posting that a held frame
does not precede (R416), and the tidepool frames whose spill trap it has taken or is to take, with the handler's mode once it has
(R461). -/
structure Hart where
  core : Nat
  ix : Nat
  status : HartStatus
  s : Vector Word 32
  sp : Vector PvSet 32
  pc : Word
  mode : Mode
  ctx : PvSet
  csr : Csrs
  vec : VecFile
  laneLo : Nat
  laneN : Nat
  parent : Option Nat
  children : List Child
  event : Bool
  watch : List WatchEntry
  asideS : List WatchEntry
  asideH : List WatchEntry
  tags : List EngTag
  queue : List Item
  heldBy : Option Mode
  resume : Word
  cur : Option Item
  mq : List MqItem
  mstat : BitVec 9
  mset : PvSet
  deferred : List TrapRec
  remote : Option Remote
  vreq : Option VReq
  prog : Nat
  send : Option Sending
  arrival : Option Arrival
  asideBarS : Option Arrival
  asideBarH : Option Arrival
  fetchTaken : Bool
  posted : Nat
  heldSeq : Nat
  spills : List (Nat × Option Mode)
  lastTrap : Option TrapRec
deriving DecidableEq, Repr

/-- The state of a copy of a line (R327). -/
inductive CopyState where
  | valid | ghost | remote
deriving DecidableEq, Repr

/-- A copy of a line in a core's slice (R326, R327, R436, R448): the line number (physical address / 128), which gives its bank
and set, its way there, its data (for ghost and remote copies), sector versions, stamp, set, and the clk it was filled in
(R451). -/
structure Copy where
  line : Nat
  way : Nat
  state : CopyState
  data : Nat
  vers : List Nat
  stamp : Nat
  pv : PvSet
  filled : Word
deriving DecidableEq, Repr

/-- An entry of a core's channel-end table (R255): index, the channel's descriptor address, END, the process, and the
hart that opened the end. -/
structure EndEntry where
  idx : Nat
  chan : Nat
  end_ : Nat
  asid : Nat
  hart : Nat
deriving DecidableEq, Repr

/-- A node record of a reef image (R234). -/
structure RNode where
  kind : Nat
  op : Nat
  ty : Nat
  lvl : Nat
  len : Bool
  sp : Bool
  sat : Bool
  rnd : Nat
  param : Word
deriving DecidableEq, Repr

/-- An edge record (R235): kind, source endpoint and output, destination endpoint and input. -/
structure REdge where
  ek : Nat
  src : Nat
  srcP : Nat
  dst : Nat
  dstP : Nat
deriving DecidableEq, Repr

/-- A validated reef image (R233). -/
structure RImage where
  iar : Nat
  oar : Nat
  seg : Nat
  freeze : Nat
  nodes : List RNode
  edges : List REdge
deriving DecidableEq, Repr

/-- A binding of an opcode slot for a process (R132, R133). -/
structure Binding where
  part : Nat
  asid : Nat
  slot : Nat
  addr : Word
  img : RImage
  pv : PvSet
deriving DecidableEq, Repr

/-- What a node holds (R220, R223, R226-R229): a count, a phase, the inputs still to be discarded, the table of a K node,
tokens held inside (those of a load node: kind 0 the address of a load that has issued, kind 8 the value of one that has been
performed), and accesses performed. -/
structure RNodeSt where
  cnt : Nat
  mode : Nat
  drain : List Nat
  table : List (Nat × Nat)
  held : List Tok
  perf : Nat
deriving DecidableEq, Repr

/-- A vector port (R216, R217): the next element or the count written, whether the boundary before it has been sent or the
stop bits set so far, and whether it has ended. -/
structure RVec where
  n : Nat
  seg : Nat
  ended : Bool
deriving DecidableEq, Repr

/-- A channel port in use (R218): its channel and branch, whether it is an input, tokens collected for a slot, tokens moved,
and whether it has ended or met a MARK. -/
structure RChan where
  key : Nat
  branch : Nat
  inp : Bool
  buf : List Tok
  moved : Nat
  ended : Bool
  marked : Bool
deriving DecidableEq, Repr

/-- The matrix port (R219): the elements of the drain taken, and the tokens delivered. -/
structure RMat where
  elems : Option Nat
  pos : Nat
  ended : Bool
deriving DecidableEq, Repr

/-- How an opcode stands (R140, R242-R247). -/
inductive RPhase where
  | running
  | complete
  | more
  | fault (t : TrapRec)
deriving DecidableEq, Repr

/-- The opcode stands at a fault (R244). -/
def RPhase.isFault : RPhase → Bool
  | .fault _ => true
  | _ => false

/-- A reef invocation (R138, R220, R240, R244): the hart, process and slot, the image, the effective parameters, the
instruction, the element bound, the masks read at issue, the nodes, the tokens on each edge, the ports, the running set,
the flags, the clk without progress, whether it is frozen, and the node, or the endpoint code of the port, whose access or firing has
faulted and is tried first. -/
structure RRun where
  hart : Nat
  asid : Nat
  slot : Nat
  img : RImage
  ps : List Word
  f : XFmt
  bound : Nat
  gov : Nat
  segIn : Nat
  segReg : Nat
  nodes : List RNodeSt
  edges : List (List Tok)
  vi : List RVec
  vo : List RVec
  ch : List (Option RChan)
  mx : RMat
  set : PvSet
  flags : Nat
  idle : Nat
  frozen : Bool
  phase : RPhase
  first : Option Nat
deriving DecidableEq, Repr

/-- A placed form on a core (R238): process, slot, and when it was last invoked. -/
structure Placed where
  asid : Nat
  slot : Nat
  used : Nat
deriving DecidableEq, Repr

/-- The reef of a core (R132-R140, R238, R246): placed forms, slots with EVICTED and with MISMATCH, the harts that wait for
the reef in order, the running opcode, the continuations, and a count of invocations. -/
structure Reef where
  placed : List Placed
  evicted : List (Nat × Nat)
  mism : List (Nat × Nat)
  queue : List Nat
  run : Option RRun
  conts : List RRun
  clock : Nat
deriving DecidableEq, Repr

/-- A line of the instruction cache (R15, R361): the line number and the bytes it was fetched with, as a number. -/
structure ILine where
  line : Nat
  data : Nat
deriving DecidableEq, Repr

/-- A core (R15): number, storage level, task, the round-robin pointers, the issue slots that this clk has used (the hart and instruction
of the first scalar issue, whether there was a second, whether a vector-class item has issued, R406), whether its watch unit has sent a
check in this clk (R448), the TLBs, the instruction cache, the copies of its slice, the channel-end table, the island, the reef, whether
it is in service, and whether a step or group has failed its residue check twice there and it waits for its swap (R482). -/
structure Core where
  num : Nat
  level : Nat
  task : Option Nat
  scalarPtr : Nat
  vectorPtr : Nat
  firstIssue : Option (Nat × Instr)
  secondIssue : Bool
  vectorIssue : Bool
  checkSent : Bool
  tlb : List TlbEntry
  icache : List ILine
  copies : List Copy
  ends : List EndEntry
  isl : Island
  reef : Reef
  inService : Bool
  failing : Bool
deriving DecidableEq, Repr

/-- A sector's directory entry at its home (R327, R348, R450): owner core, whether the owner's copy is dirty, version, and the
clk from which it has been dirty. -/
structure Sector where
  sector : Nat
  owner : Option Nat
  dirty : Bool
  ver : Nat
  since : Word
deriving DecidableEq, Repr

/-- The provenance word of a 64 KiB frame (R434), by frame number (physical address / 65,536). -/
structure ProvWord where
  frame : Nat
  ceil : PvSet
  cur : PvSet
deriving DecidableEq, Repr

/-- The state of a tidepool frame (R457). -/
inductive TideState where
  | resident | pending (by_ : HartId) | moving | backed (spill : Nat)
deriving DecidableEq, Repr

/-- A tidepool frame (R332, R457-R463): frame number, state, HELD lines and zero map as bit sets of 512, GEN, attributes
last recorded, last accessor, the first such record (R458), the channel whose ring or elastic buffer it holds, and the partition that held
its slot when it was backed. -/
structure TideFrame where
  frame : Nat
  state : TideState
  held : Nat
  zmap : Nat
  gen : BitVec 32
  d : Bool
  pol : Bool
  task : Option Nat
  first : Option (Bool × Bool × Option Nat)
  chan : Option Nat
  elastic : Bool
  backer : Option Nat
deriving DecidableEq, Repr

/-- A tidepool slot of a die held by a partition (R332). -/
structure TideSlot where
  die : Nat
  slot : Nat
  part : Nat
deriving DecidableEq, Repr

/-- An open page request of a host-window access (R467): the hart, the 4 KiB page of the window, whether the
host has answered with failure, and the clk at which it was sent. -/
structure PriReq where
  who : HartId
  page : Nat
  failed : Bool
  since : Word
deriving DecidableEq, Repr

/-- A partition (R468): coves, tenant class, way masks by die, bandwidth shares by stack, Ezmos frame ranges, context
and spill pools, roster, namespace bindings (index, controller, NSID, set), queue pairs with sets, HFMASK, HTVEC. -/
structure Part where
  num : Nat
  coves : BitVec 40
  cls : Nat
  ways : List (Nat × BitVec 16)
  shares : List (Nat × Nat)
  frames : List (Nat × Nat)
  ctxPool : Option (Nat × Nat)
  spillPool : Option Nat
  roster : List Nat
  ns : List (Nat × Nat × Nat × PvSet)
  qps : List (Nat × PvSet)
  hfmask : BitVec 7
  hfmaskPv : PvSet
  htvec : Word
  htvecPv : PvSet
deriving DecidableEq, Repr

/-- A branch of a channel (R248, R252, R253, R316): its core, window and elastic depth; whether its receive end has been opened, is
open, and has been closed; slots filled for it, counted at the receive end, freed there, and counted as freed at the send end; fills
taken out of the ring, there and as counted at the send end; the elastic buffer, each slot as its lines; the fill that a move is
bringing there; the line and the token of the oldest slot that comes next; elastic frames; slots recorded at pre-emption (R387), slots
to be published for it again after a restore, and fills in the ring that are other branches' such slots (R389, R421). -/
structure Branch where
  core : Nat
  wc : Nat
  edepth : Nat
  opened : Bool
  isOpen : Bool
  closed : Bool
  filled : Nat
  seen : Nat
  freed : Nat
  freedSeen : Nat
  ringTaken : Nat
  takenSeen : Nat
  buf : List (List (List Tok))
  moving : Option Nat
  line : Nat
  pos : Nat
  frames : List Nat
  recorded : List (List Tok)
  inject : List (List Tok)
  skip : List Nat
deriving DecidableEq, Repr

/-- A channel record (R250): the physical address of its descriptor, the descriptor's copy as a number, the fields of its
header, the frames of its ring, the translation it was opened under, its set, fills written and published, the state of
its send end, the fill of the MARK of a pre-emption under way (R386), and its branches. -/
structure Chan where
  key : Nat
  desc : Nat
  ring : Word
  nslot : Nat
  slotl : Nat
  prod : Nat
  ringFrames : List Nat
  ptroot : Word
  pv : PvSet
  fills : Nat
  published : Nat
  sendOpen : Bool
  sendClosed : Bool
  mark : Option Nat
  branches : List Branch
deriving DecidableEq, Repr

/-- A destination of a policy (R441), with its cursor (R442). -/
structure Dest where
  didx : Nat
  kind : Nat
  addr : Nat
  limit : Nat
  ns : Nat
  cursor : Nat
deriving DecidableEq, Repr

/-- An installed policy (R440, R442). -/
structure Policy where
  part : Nat
  id : Nat
  parties : PvSet
  expiry : Nat
  remain : Nat
  dests : List Dest
deriving DecidableEq, Repr

/-- A request that the breakwater has accepted and whose delivery runs (R444, R445): the job, the policy's id, the
destination and the offset in it, the bytes, S, the record's physical address, and EPOCH at acceptance. -/
structure Delivery where
  job : EngJob
  policy : Nat
  dest : Dest
  off : Nat
  bytes : List Byte
  set : PvSet
  record : Nat
  epoch : Nat
deriving DecidableEq, Repr

/-- The record at the head of a launch queue once taken (R393, R398, R400): its eight doubles, the set of its page, the
clk from which it waits at its level, its level, and whether it is eligible. -/
structure QHead where
  record : List Word
  pv : PvSet
  since : Word
  level : Nat
  eligible : Bool
deriving DecidableEq, Repr

/-- What the dispatcher holds of a launch queue (R392, R399): the TAIL it has observed of a host-fed queue, its credit,
and the record at its head once taken. -/
structure QState where
  num : Nat
  tail : Word
  credit : Nat
  head : Option QHead
deriving DecidableEq, Repr

/-- Where a task stands (R397, R403, R404). -/
inductive TaskState where
  /-- Its harts run. -/
  | running
  /-- A pre-emption request has reached it. -/
  | stopping
  /-- It is saved and waits. -/
  | saved
  /-- Its last hart has ended, or it has been stopped, and its completion signal is to be written. -/
  | ended
deriving DecidableEq, Repr

/-- A task of the dispatcher (R394-R404, R418): number, partition, queue, level, PTROOT, its cores in order and the dies
that they had at the first placement, DONE, completion code, the order of placement, when it began to wait, its state, the
clk of the request, the frames that have trapped, whether pages were dropped (R459), the cores to swap (R486) and whether the pre-emption
is for their sake alone, so that the task is restored after it (R488), and what was saved of its harts and cores. -/
structure Task where
  num : Nat
  part : Nat
  queue : Nat
  level : Nat
  ptroot : Word
  cores : List Nat
  dies : List Nat
  tiles : Nat
  accs : Nat
  done : Word
  code : Nat
  placed : Nat
  since : Word
  state : TaskState
  asked : Word
  spilled : List Nat
  dropped : Bool
  swap : List Nat
  back : Bool
  harts : List Hart
  saves : List Core
deriving DecidableEq, Repr

/-- The last queue served at a level of a partition, plus one (R399). -/
structure Served where
  part : Nat
  level : Nat
  queue : Nat
deriving DecidableEq, Repr

/-- A firmware set (R490, R493): its version, measurement, and the frame and freeze format numbers it declares (R494). -/
structure Firmware where
  svn : Nat
  measure : Nat
  frameFmt : Word
  freezeFmt : Word
deriving DecidableEq, Repr

/-- Boot as R490 leaves it. -/
inductive BootState where
  | notBooted | booted | failed
deriving DecidableEq, Repr

/-- The states of the core clock (R496). -/
inductive PowerState where
  | nominal | neap | spring
deriving DecidableEq, Repr

/-- What an area written by FRSAVE holds: its bytes, its package session, and the items and addresses it stands for
(R375), or the reef state that XFREEZE read out (R378; log entry 9). `lanes` is the partial lane state of an item: the low bytes of a
register, their count and the register (R416). -/
structure SavedFrame where
  bytes : List Byte
  items : List Item
  mq : List MqItem
  resume : Word
  asid : Nat
  addrs : List Word
  run : Option RRun
  conts : List RRun
  lanes : List (Nat × Nat × Nat)
deriving DecidableEq, Repr

/-- A spare-using unit that has been repaired, by kind and place, with how often (R485). -/
structure Repair where
  kind : Nat
  place : Nat
  used : Nat
deriving DecidableEq, Repr

/-- What the package has sent over its links (R466, R476-R479): the data of a host read, with whether it is poisoned; an operation packet or
its response on a port to a peer; the data or the refusal of an RDMA READ of a queue pair; and what a host-posted work request sends, or
the error with which it completes. -/
inductive Outgoing where
  | hostData (bytes : List Byte) (poisoned : Bool)
  | packet (port : Nat) (bytes : List Byte)
  | readAnswer (qp : Nat) (bytes : List Byte)
  | remoteAccessError (qp : Nat)
  | workData (qp : Nat) (bytes : List Byte)
  | localProtectionError (qp : Nat)
  | transportError (qp : Nat)
deriving DecidableEq, Repr

/-- Why a step stops. Safe: the hardware's behaviour is not given there, so nothing is claimed of it. -/
inductive Fault where
  /-- An arrival from outside names a physical address that the spec reserves (R319); raised by the event rows that
  carry a physical address. Safe. -/
  | reservedAddress
deriving DecidableEq, Repr

/-- Why an instruction has no meaning in the model. -/
inductive Refusal where
  /-- The instruction is not modelled yet; raised by the arms of Dispatch alone. Safe. -/
  | notModelled (mnemonic : String)
deriving DecidableEq, Repr

/-- The package. -/
structure State where
  clk : Word
  pkg : Nat
  hart : Hart
  core : Core
  harts : List Hart
  cores : List Core
  grants : List HartId
  vgrants : List HartId
  pending : List Instr
  mem : List Host.Cell
  prov : List ProvWord
  sectors : List Sector
  stamps : List (Nat × Nat)
  /-- How often the directory entry of a line has been evicted (R449, R450, R452). -/
  remade : List (Nat × Nat)
  poison : List Nat
  retired : List Nat
  /-- Accesses that were waiting on a line whose second read failed, and have not trapped yet (R426): the hart and the line. -/
  rereads : List (HartId × Nat)
  unscrubbed : List (Nat × Nat)
  clearing : List Nat
  tide : List TideFrame
  slots : List TideSlot
  parts : List Part
  unreachable_ : List Nat
  zone : List Nat
  pri : List PriReq
  /-- The translation caches of the virtual functions (R465, R467): the partition and the 4 KiB page of the host window. -/
  ats : List (Nat × Nat)
  /-- What has left the package, the latest first. -/
  sent : List Outgoing
  recorded : List (Nat × Nat)
  binds : List Binding
  chans : List Chan
  barriers : List Barrier
  jobSeq : Nat
  engq : List EngJob
  sreads : List EngJob
  gateq : List EngJob
  deliveries : List Delivery
  policies : List Policy
  epoch : Nat
  recSeq : Nat
  qtable : Option Nat
  queues : List QState
  served : List Served
  tasks : List Task
  taskSeq : Nat
  chosen : List (Nat × Bool × Nat)
  mqBase : Nat
  mqSize : Nat
  mqTail : Word
  mqHead : Word
  elog : Option (Nat × Nat)
  elogSeq : Nat
  boot : BootState
  fw : Firmware
  staged : Option Firmware
  activate : Bool
  fusedSvn : Nat
  power : PowerState
  powerCmd : Nat
  forcedNeap : Bool
  /-- When a die was last at the thermal limit (R497). -/
  limitAt : Word
  stopped : Bool
  repairs : List Repair
  routes : List (Nat × List Nat)
  savedFrames : List SavedFrame
  freeCtr : Nat
deriving DecidableEq, Repr

/-- The outcome of a meaning. -/
abbrev Out := Host.Outcome State Fault Refusal

/-- The empty tag: code 0 (R92). -/
def Tag.none : Tag := ⟨0, 0, 0⟩

/-- A vector register of zeros, untagged, with the empty set (R97, R102). -/
def VReg.zero : VReg := ⟨0, Tag.none, false, pvEmpty⟩

/-- A mask or scale register of zeros with the empty set. -/
def BReg.zero : BReg := ⟨0, pvEmpty⟩

/-- The vector side zeroed and untagged (R97, R98, R102). -/
def VecFile.zero : VecFile :=
  ⟨Vector.replicate 32 VReg.zero, Vector.replicate 8 BReg.zero, Vector.replicate 8 BReg.zero⟩

/-- Trap registers of zero (R97). -/
def TrapRegs.zero : TrapRegs := ⟨0, 0, 0, 0⟩

/-- The per-hart control registers before any task runs (log entry 4). -/
def Csrs.zero : Csrs :=
  { vl := 0, sew := 0, g := 0, vlcut := false, fstat := 0, frm := 0, srstate := 0, segmask := 0, mshout := 0,
    xcnt2 := 0, wstruck := 0, wfull := 0, tplost := false, evaddr := 0, evline := none, argaddr := 0, evtimer := 0,
    timerArmed := false, instret := 0, tvec := 0, sscratch := 0, ptroot := 0, partSel := 0, tr := TrapRegs.zero,
    htr := TrapRegs.zero, pv := Vector.replicate 40 pvEmpty }

/-- Hart context `ix` of core `core` that no task holds (log entry 4). -/
def Hart.initial (core ix : Nat) : Hart :=
  { core := core, ix := ix, status := .free, s := Vector.replicate 32 0, sp := Vector.replicate 32 pvEmpty, pc := 0,
    mode := .user, ctx := pvEmpty, csr := Csrs.zero, vec := VecFile.zero, laneLo := 0, laneN := 0, parent := none,
    children := [], event := false, watch := [], asideS := [], asideH := [], tags := [], queue := [],
    heldBy := none, resume := 0, cur := none, mq := [], mstat := 0, mset := pvEmpty, deferred := [],
    remote := none, vreq := none, prog := 0, send := none, arrival := none,
    asideBarS := none, asideBarH := none, fetchTaken := true, posted := 0, heldSeq := 0, spills := [], lastTrap := none }

/-- A matrix island without claims. -/
def Island.empty : Island :=
  { claims := [], slots := [], accs := [], order := [], step := none, fills := [], drains := [], ptr := 0 }

/-- A reef without placed forms. -/
def Reef.empty : Reef := ⟨[], [], [], [], none, [], 0⟩

/-- A core that holds no task (R15, R90). -/
def Core.initial (num : Nat) : Core :=
  { num := num, level := 1, task := none, scalarPtr := 0, vectorPtr := 0, firstIssue := none, secondIssue := false,
    vectorIssue := false, checkSent := false, tlb := [], icache := [], copies := [], ends := [], isl := Island.empty, reef := Reef.empty,
    inService := true, failing := false }

/-- The package right after reset (INVENTORY.md gives the rule or the log entry of each value). -/
def State.reset : State :=
  { clk := 0, pkg := 0, hart := Hart.initial 0 0, core := Core.initial 0, harts := [], cores := [], grants := [], vgrants := [],
    pending := [], mem := [], prov := [], sectors := [], stamps := [], remade := [], poison := [], retired := [], rereads := [],
    unscrubbed := [], clearing := [], tide := [], slots := [], parts := [], unreachable_ := [],
    zone := [], pri := [], ats := [], sent := [], recorded := [],
    binds := [], chans := [], barriers := [], jobSeq := 0, engq := [], sreads := [], gateq := [], deliveries := [], policies := [], epoch := 0,
    recSeq := 0, qtable := none, queues := [], served := [], tasks := [], taskSeq := 0, chosen := [], mqBase := 0, mqSize := 0,
    mqTail := 0, mqHead := 0, elog := none, elogSeq := 0, boot := .notBooted, fw := ⟨0, 0, 0, 0⟩, staged := none, activate := false,
    fusedSvn := 0, power := .nominal, powerCmd := 0, forcedNeap := false, limitAt := 0, stopped := false, repairs := [],
    routes := [], savedFrames := [], freeCtr := 0 }

end Sys2Proof.Machine
end

