-- ==== Sys2Proof/Machine/Ops.lean ====
section
/-! DEFINITION. The named operations over registers, harts, memory, translation, provenance and traps. -/

namespace Sys2Proof.Machine

/-! ### Keyed lists -/

/-- The entry of a keyed list. -/
def findBy (key : α → Nat) (k : Nat) (l : List α) : Option α := l.find? (fun x => key x == k)

/-- A keyed list with one entry put in, by rising key. -/
def putBy (key : α → Nat) (x : α) : List α → List α
  | [] => [x]
  | y :: ys =>
    if key x < key y then x :: y :: ys
    else if key x == key y then x :: ys
    else y :: putBy key x ys

/-- A keyed list without the entry of a key. -/
def eraseBy (key : α → Nat) (k : Nat) (l : List α) : List α := l.filter (fun x => key x != k)

/-! ### Numbers -/

/-- Bits `off` to `off + w - 1` of a bit image (R4, R7). -/
def bitsAt (x off w : Nat) : Nat := (x >>> off) % 2 ^ w

/-- The image with those bits replaced by the low `w` bits of `v`, every other bit unchanged (R7). -/
def setBitsAt (x off w v : Nat) : Nat := x ^^^ ((bitsAt x off w ^^^ (v % 2 ^ w)) <<< off)

/-- The signed reading of a `w`-bit number. -/
def sint (w x : Nat) : Int := if x % 2 ^ w < 2 ^ (w - 1) then ((x % 2 ^ w : Nat) : Int) else ((x % 2 ^ w : Nat) : Int) - (2 ^ w : Nat)

/-- An exact integer modulo 2^w. -/
def intMod (w : Nat) (x : Int) : Nat := (x % ((2 ^ w : Nat) : Int)).toNat

/-- Sign extension of an offset field to 64 bits. -/
def sext64 (x : BitVec n) : Word := x.signExtend 64

/-! ### The hart in focus -/

/-- Changes the current hart. -/
def State.mapHart (s : State) (f : Hart → Hart) : State := { s with hart := f s.hart }
/-- Changes the current core. -/
def State.mapCore (s : State) (f : Core → Core) : State := { s with core := f s.core }
/-- Changes the control registers of the current hart. -/
def State.mapCsr (s : State) (f : Csrs → Csrs) : State := s.mapHart fun h => { h with csr := f h.csr }

/-- The package-wide key of a hart context. -/
def Hart.key (h : Hart) : Nat := h.core * 8 + h.ix
/-- The package-wide key of a hart identity. -/
def hidKey (i : HartId) : Nat := i.core * 8 + i.hart
/-- The identity of a hart context. -/
def Hart.id (h : Hart) : HartId := ⟨h.core, h.ix⟩

/-- A hart context of the package, the current one included. -/
def State.hartAt (s : State) (i : HartId) : Hart :=
  if s.hart.core == i.core && s.hart.ix == i.hart then s.hart
  else (findBy Hart.key (hidKey i) s.harts).getD (Hart.initial i.core i.hart)

/-- A core of the package, the current one included. -/
def State.coreAt (s : State) (n : Nat) : Core :=
  if s.core.num == n then s.core else (findBy Core.num n s.cores).getD (Core.initial n)

/-- Makes a core the current one. -/
def focusCore (n : Nat) (s : State) : State :=
  if s.core.num == n then s
  else { s with core := s.coreAt n, cores := putBy Core.num s.core (eraseBy Core.num n s.cores) }

/-- Makes a hart context, and its core, the current one. -/
def focus (i : HartId) (s : State) : State :=
  let s := if s.hart.core == i.core && s.hart.ix == i.hart then s
    else { s with hart := s.hartAt i, harts := putBy Hart.key s.hart (eraseBy Hart.key (hidKey i) s.harts) }
  focusCore i.core s

/-- Acts on another hart as though it were current, and comes back. -/
def onHart (i : HartId) (f : State → State) (s : State) : State := focus s.hart.id (f (focus i s))

/-- Acts on the current core as though another of its harts were current, and comes back to the hart and core in focus. -/
def asHart (i : HartId) (f : State → State) (s : State) : State := focusCore s.core.num (onHart i f s)

/-- Acts on another core, with the current hart kept. -/
def onCore (n : Nat) (f : State → State) (s : State) : State := focusCore s.core.num (f (focusCore n s))

/-- Replaces a hart context wherever it stands. -/
def State.setHart (s : State) (h : Hart) : State :=
  if s.hart.core == h.core && s.hart.ix == h.ix then { s with hart := h } else { s with harts := putBy Hart.key h s.harts }

/-- Every hart context the state lists, the current one included. -/
def State.allHarts (s : State) : List Hart := putBy Hart.key s.hart s.harts

/-- Changes every listed hart context. -/
def State.mapHarts (s : State) (f : Hart → Hart) : State := { s with hart := f s.hart, harts := s.harts.map f }

/-- Changes every listed core. -/
def State.mapCores (s : State) (f : Core → Core) : State := { s with core := f s.core, cores := s.cores.map f }

/-- Replaces a core wherever it stands. -/
def State.setCore (s : State) (c : Core) : State :=
  if s.core.num == c.num then { s with core := c } else { s with cores := putBy Core.num c s.cores }

/-- The partition that owns a core's cove (R14, R468). -/
def State.partOfCore (s : State) (core : Nat) : Option Part := s.parts.find? fun p => p.coves.getLsbD (core / 8)
/-- The partition of the current hart. -/
def State.part (s : State) : Option Part := s.partOfCore s.hart.core
/-- The number of the current hart's partition; 0 where the core is in none. -/
def State.partNum (s : State) : Nat := match s.part with | some p => p.num | none => 0

/-! ### Scalar registers -/

/-- A scalar register; s0 reads as zero (R65). -/
def Hart.getS (h : Hart) (r : BitVec 5) : Word := if r == 0 then 0 else h.s.get r.toFin
/-- The set of a scalar register; that of s0 is empty (R65). -/
def Hart.getP (h : Hart) (r : BitVec 5) : PvSet := if r == 0 then pvEmpty else h.sp.get r.toFin

/-- Writes a scalar register and its set; writes to s0 are dropped (R65). -/
def Hart.setS (h : Hart) (r : BitVec 5) (v : Word) (p : PvSet) : Hart :=
  if r == 0 then h else { h with s := h.s.set r.toFin v, sp := h.sp.set r.toFin p }

/-- A scalar register of the current hart. -/
def State.getS (s : State) (r : BitVec 5) : Word := s.hart.getS r
/-- The set of a scalar register of the current hart. -/
def State.getP (s : State) (r : BitVec 5) : PvSet := s.hart.getP r
/-- Writes a scalar register of the current hart with its set. -/
def State.setS (s : State) (r : BitVec 5) (v : Word) (p : PvSet) : State := s.mapHart (·.setS r v p)
/-- The context set of the current hart (R67). -/
def State.ctx (s : State) : PvSet := s.hart.ctx
/-- Adds to the context set (R438). -/
def State.addCtx (s : State) (p : PvSet) : State := s.mapHart fun h => { h with ctx := h.ctx ||| p }

/-- Moves past an instruction that completed: the pc advances by 8, unless the item came from the vector queue, and
INSTRET counts it (R27, R68). -/
def retire (s : State) : State := s.mapHart fun h =>
  { h with pc := if h.cur.isSome then h.pc else h.pc + 8, fetchTaken := false, status := .running,
           csr := { h.csr with instret := h.csr.instret + 1 } }

/-- The hart waits at the instruction, which has had no effect yet. -/
def waitFor (w : Wait) (s : State) : State := s.mapHart fun h => { h with status := .waiting w }

/-- The next free value of the counter, and the state with the counter advanced (log entry 1). -/
def State.nextFree (s : State) : Nat × State := (s.freeCtr, { s with freeCtr := s.freeCtr + 1 })

/-! ### Memory by physical address -/

/-- A byte of memory; an unlisted byte reads as zero (log entry 3). -/
def memRead (a : Nat) : List Host.Cell → Byte
  | [] => 0
  | (b, v) :: m => if a == b then v else if a < b then 0 else memRead a m

/-- Memory with one byte written, in the canonical form. -/
def memWrite (a : Nat) (v : Byte) : List Host.Cell → List Host.Cell
  | [] => if v == 0 then [] else [(a, v)]
  | (b, w) :: m =>
    if a < b then (if v == 0 then (b, w) :: m else (a, v) :: (b, w) :: m)
    else if a == b then (if v == 0 then m else (a, v) :: m)
    else (b, w) :: memWrite a v m

/-- Memory with a run of bytes written. -/
def memWriteList (a : Nat) : List Byte → List Host.Cell → List Host.Cell
  | [], m => m
  | v :: vs, m => memWriteList (a + 1) vs (memWrite a v m)

/-- A run of bytes. -/
def memReadList (a : Nat) : Nat → List Host.Cell → List Byte
  | 0, _ => []
  | n + 1, m => memRead a m :: memReadList (a + 1) n m

/-- Memory without the bytes of a range. -/
def memErase (lo n : Nat) (m : List Host.Cell) : List Host.Cell := m.filter fun c => c.1 < lo || lo + n <= c.1

/-- The canonical form: addresses strictly rise, and no listed byte is zero. -/
def memWf : List Host.Cell → Bool
  | [] => true
  | [c] => c.2 != 0
  | c :: d :: m => c.2 != 0 && c.1 < d.1 && memWf (d :: m)

/-- The address spaces of R319. -/
inductive Space where
  | ezmos | host | tide | reserved
deriving DecidableEq, Repr

/-- The package of a physical address (R318). -/
def paPkg (pa : Nat) : Nat := pa / 2 ^ 43
/-- The package-local address (R318). -/
def paLocal (pa : Nat) : Nat := pa % 2 ^ 43

/-- The space of a package-local address (R319); tidepool frames end at 1,919. -/
def spaceOf (a : Nat) : Space :=
  if a < 0x12000000000 then .ezmos
  else if a < 0x40000000000 then .reserved
  else if a < 0x60000000000 then .host
  else if a < 0x60800000000 then (if a / 2 ^ 16 % 2 ^ 16 < 1920 then .tide else .reserved)
  else .reserved

/-- The address is in the package's own host window. -/
def State.inHost (s : State) (pa : Nat) : Bool := spaceOf (paLocal pa) == .host && paPkg pa == s.pkg
/-- The address is in the package's own tidepool window. -/
def State.inTide (s : State) (pa : Nat) : Bool := spaceOf (paLocal pa) == .tide && paPkg pa == s.pkg
/-- The address is in the Ezmos memory of a peer package. -/
def State.inPeer (s : State) (pa : Nat) : Bool := paPkg pa != s.pkg
/-- The address exists: own Ezmos memory, host window or tidepool window, or a peer's Ezmos memory (R319). -/
def State.paExists (s : State) (pa : Nat) : Bool :=
  decide (pa < 2 ^ 52) && decide (paPkg pa < 432) &&
    (if paPkg pa == s.pkg then spaceOf (paLocal pa) != .reserved else spaceOf (paLocal pa) == .ezmos)

/-- A valid page-table entry is malformed (R319, R321). -/
def State.malformed (s : State) (level e : Nat) : Bool :=
  let leaf := e.testBit 8
  let pa := bitsAt e 16 36 * 65536
  let t := e.testBit 9
  bitsAt e 52 12 != 0
    || (!leaf && bitsAt e 1 11 != 0)
    || (leaf && level >= 3) || (!leaf && level == 0)
    || (leaf && (bitsAt e 12 4 != 0
        || (level == 1 && bitsAt e 16 5 != 0) || (level == 2 && bitsAt e 16 14 != 0)
        || !s.paExists pa || t != s.inTide pa
        || (t && level != 0)
        || ((e.testBit 10 || e.testBit 11) && !t)
        || (e.testBit 2 && !e.testBit 1)))

/-- The compute die that owns a local Ezmos address (R319). -/
def dieOfEzmos (a : Nat) : Nat := a / 0x2400000000
/-- The home core of an Ezmos line of the package (R326). -/
def homeOfEzmos (a : Nat) : Nat :=
  let l := a / 128
  40 * dieOfEzmos a + (l % 4096 + l / 4096 % 4096 + l / 2 ^ 24 % 4096) % 40
/-- The die of a tidepool address (R319). -/
def dieOfTide (a : Nat) : Nat := a / 2 ^ 32 % 8
/-- The home core of a tidepool line (R333). -/
def homeOfTide (a : Nat) : Nat :=
  let n := a / 2 ^ 16 % 2 ^ 16
  let j := a % 2 ^ 16 / 128
  40 * dieOfTide a + (160 * j + n % 160) / 2048

/-- The tidepool frame of a physical address, as recorded or as before its first touch (R457). -/
def State.tideAt (s : State) (frame : Nat) : TideFrame :=
  (findBy TideFrame.frame frame s.tide).getD
    { frame := frame, state := .resident, held := 0, zmap := 0, gen := 0, d := false, pol := false, task := none,
      first := none, chan := none, elastic := false, backer := none }
/-- Records a tidepool frame. -/
def State.setTide (s : State) (t : TideFrame) : State := { s with tide := putBy TideFrame.frame t s.tide }

/-- Where the bytes of a physical address lie: a backed tidepool frame is redirected to its spill frame (R463). -/
def State.place (s : State) (pa : Nat) : Nat :=
  if s.inTide pa then
    match (s.tideAt (pa / 65536)).state with
    | .backed f => f * 65536 + pa % 65536
    | _ => pa
  else pa

/-- The line of a physical address as the slices, the directory and the watch unit know it: that of its place (R334, R463). -/
def State.lineOf (s : State) (pa : Nat) : Nat := s.place pa / 128

/-- A line of a backed tidepool frame whose bit is set in the zero map reads zero (R463). -/
def State.zeroLine (s : State) (pa : Nat) : Bool :=
  s.inTide pa &&
    (let t := s.tideAt (pa / 65536)
     match t.state with
     | .backed _ => t.zmap.testBit (pa % 65536 / 128)
     | _ => false)

/-- A byte at its home. -/
def State.homeByte (s : State) (pa : Nat) : Byte := if s.zeroLine pa then 0 else memRead (s.place pa) s.mem

/-- A byte of MQBASE, MQSIZE, MQTAIL and MQHEAD, which stand in this order at the start of BAR0, in the host-window image of the package's own
function 0 (R470; log entry 10). -/
def barRead (pkg base size : Nat) (tail head : Word) (pa : Nat) : Option Byte :=
  let a := pkg * 2 ^ 43 + 0x40000000000 + Config.bar0Base % 2 ^ 41
  if decide (a <= pa) && decide (pa < a + 32) then
    let r : Nat := match (pa - a) / 8 with | 0 => base | 1 => size | 2 => tail.toNat | _ => head.toNat
    some (BitVec.ofNat 8 (r >>> ((pa - a) % 8 * 8)))
  else none

/-- A byte of a register of BAR0 as a hart in hypervisor mode reads it (R470). -/
def State.barByte (s : State) (pa : Nat) : Option Byte :=
  if s.hart.mode == .hypervisor then barRead s.pkg s.mqBase s.mqSize s.mqTail s.mqHead pa else none

/-- The remote copy of a line in the current core's slice that ordinary loads hit (R329); one filled more than 2^20 clk ago is
passed over, so that every write reaches a plain load within that time (R348; log entry 6). -/
def State.remoteCopy (s : State) (pa : Nat) : Option Copy :=
  s.core.copies.find? fun c => c.line == pa / 128 && c.state == .remote && decide ((s.clk - c.filled).toNat <= 2 ^ 20)

/-- A byte as an ordinary load of the current hart reads it: a register of BAR0 for a hypervisor, a remote copy of a peer line, else the
home (R329, R470). -/
def State.loadByte (s : State) (pa : Nat) : Byte :=
  if s.inPeer pa then
    match s.remoteCopy pa with
    | some c => BitVec.ofNat 8 (bitsAt c.data (pa % 128 * 8) 8)
    | none => s.homeByte pa
  else (s.barByte pa).getD (s.homeByte pa)

/-- `n` bytes at their home, as a little-endian number. -/
def State.homeNum (s : State) (pa : Nat) : Nat → Nat
  | 0 => 0
  | n + 1 => (s.homeByte pa).toNat + 256 * s.homeNum (pa + 1) n

/-- `n` bytes as an ordinary load reads them, as a little-endian number. -/
def State.loadNum (s : State) (pa : Nat) : Nat → Nat
  | 0 => 0
  | n + 1 => (s.loadByte pa).toNat + 256 * s.loadNum (pa + 1) n

/-! ### Provenance words (R434-R436) -/

/-- The word of a frame that the state does not list: of two empty sets for the package's own; that of a peer's frame is the peer's to give,
with CUR within CEIL (R434, R435; log entry 76). -/
def State.provBase (s : State) (frame : Nat) : ProvWord :=
  if s.inPeer (frame * 65536) then ⟨frame, Config.peerCeil frame, Config.peerCur frame &&& Config.peerCeil frame⟩
  else ⟨frame, pvEmpty, pvEmpty⟩

/-- The provenance word of the frame of a physical address; a backed tidepool frame uses its spill frame's (R463). -/
def State.provAt (s : State) (pa : Nat) : ProvWord :=
  let f := s.place pa / 65536
  (findBy ProvWord.frame f s.prov).getD (s.provBase f)

/-- The current set of the page of an address; the host window carries none (R428). -/
def State.curAt (s : State) (pa : Nat) : PvSet := if s.inHost pa then pvEmpty else (s.provAt pa).cur

/-- Sets the provenance word of a frame; the word that an unlisted frame has is not listed. -/
def State.setProv (s : State) (w : ProvWord) : State :=
  { s with prov := if w == s.provBase w.frame then eraseBy ProvWord.frame w.frame s.prov else putBy ProvWord.frame w s.prov }

/-- Strikes a watch entry directly, with the set of its cause, when `hit` meets a sector of its footprint (R452, R454). -/
def WatchEntry.strikeIf (hit : Nat → Bool) (p : PvSet) (e : WatchEntry) : WatchEntry :=
  if e.state == .pending && e.lines.any (fun l => l.sectors.any fun x => hit x.sector)
  then { e with state := .struck, pv := p } else e

/-- Strikes every pending entry of the package whose footprint meets a sector, in each hart's tables (R452, R456). -/
def strikeSectors (hit : Nat → Bool) (p : PvSet) (s : State) : State :=
  s.mapHarts fun h => { h with watch := h.watch.map (·.strikeIf hit p), asideS := h.asideS.map (·.strikeIf hit p),
                               asideH := h.asideH.map (·.strikeIf hit p) }

/-- The sets of the valid copies of a frame's lines gain a set (R436). -/
def Core.orCopies (frame : Nat) (p : PvSet) (c : Core) : Core :=
  { c with copies := c.copies.map fun k =>
      if k.line / 512 == frame && k.state == .valid then { k with pv := k.pv ||| p } else k }

/-- The count of a frame's direct strikes that left its copies standing: with it a copy's stamp tells whether the frame has been struck
since the copy was filled (R449). -/
def State.stampOf (s : State) (frame : Nat) : Nat := ((findBy Prod.fst frame s.stamps).getD (frame, 0)).2

/-- Strikes every pending entry that meets a frame, and every later check of a copy filled before (R435, R436, R449). -/
def strikeFrame (frame : Nat) (p : PvSet) (s : State) : State :=
  strikeSectors (fun x => x / 2048 == frame) p { s with stamps := putBy Prod.fst (frame, s.stampOf frame + 1) s.stamps }

/-- Grows the current set of the frame of an address; a growth reaches every valid copy and strikes the watch entries
that meet the frame (R436). -/
def growCur (pa : Nat) (p : PvSet) (s : State) : State :=
  if s.inHost pa then s
  else
    let w := s.provAt pa
    let cur := w.cur ||| p
    if cur == w.cur then s
    else strikeFrame w.frame cur ((s.setProv { w with cur := cur }).mapCores (Core.orCopies w.frame cur))

/-! ### Writes at their homes (R327-R329, R450, R483) -/

/-- The directory entry of a sector (R327). -/
def State.sectorAt (s : State) (n : Nat) : Sector := (findBy Sector.sector n s.sectors).getD ⟨n, none, false, 0, 0⟩
/-- Records a directory entry. -/
def State.setSector (s : State) (x : Sector) : State := { s with sectors := putBy Sector.sector x s.sectors }
/-- How often the directory entry of a line has been evicted and remade (R449, R450). -/
def State.remadeOf (s : State) (line : Nat) : Nat := ((findBy Prod.fst line s.remade).getD (line, 0)).2
/-- The stamp of a line (R449): it changes with each eviction of its directory entry and each direct strike of its frame (log entry 69). -/
def State.stampAt (s : State) (line : Nat) : Nat := s.stampOf (line / 512) + s.remadeOf line

/-- The versions of the sectors of a line (R448, R450). -/
def State.lineVers (s : State) (line : Nat) : List Nat := (List.range 4).map fun k => (s.sectorAt (line * 4 + k)).ver

/-- Another core's copies of a line become ghosts (R327, R345): a valid one keeps the data and versions of the home as they stand
before the write, a remote one those that it was filled with. -/
def ghostOthers (except_ : Option Nat) (line : Nat) (s : State) : State :=
  s.mapCores fun c =>
    if some c.num == except_ then c
    else { c with copies := c.copies.map fun k =>
      if k.line != line then k
      else match k.state with
        | .valid => { k with state := .ghost, data := s.homeNum (line * 128) 128, vers := s.lineVers line }
        | .remote => { k with state := .ghost }
        | .ghost => k }

/-- The home decides a check: every recorded version and the stamp are current (R449), else a strike with the frame's
current set (R454). -/
def decideLine (s : State) (l : WatchLine) : CheckPhase :=
  if l.sectors.all (fun x => (s.sectorAt x.sector).ver == x.ver) && s.stampAt l.line == l.stamp
  then .decided true pvEmpty else .decided false (s.curAt (l.line * 128))

/-- The checks that a core has made for a line are processed before its next write to it (R448). -/
def settleEntry (s : State) (line : Nat) (e : WatchEntry) : WatchEntry :=
  { e with lines := e.lines.map fun l =>
      if l.line == line && (l.phase == .unsent || l.phase == .sent) then { l with phase := decideLine s l } else l }

/-- The checks of the current core for a line are sent and processed (R448). -/
def settleChecks (line : Nat) (s : State) : State :=
  let n := s.core.num
  s.mapHarts fun h =>
    if h.core == n then { h with watch := h.watch.map (settleEntry s line), asideS := h.asideS.map (settleEntry s line),
                                 asideH := h.asideH.map (settleEntry s line) } else h

/-- The owners of some sectors give them up; what is dirty merges into the home (R328). -/
def endOwners (p : Nat → Bool) (s : State) : State :=
  { s with sectors := s.sectors.map fun x => if p x.sector then { x with owner := none, dirty := false } else x }

/-- Acts on each number of a range in turn. -/
def forRange (f : Nat → State → State) (lo : Nat) : Nat → State → State
  | 0, s => s
  | n + 1, s => forRange f (lo + 1) n (f lo s)

/-- The numbers of the units of size `u` that `n` bytes from `a` meet: the first and how many. -/
def units (u a n : Nat) : Nat × Nat := if n == 0 then (a / u, 0) else (a / u, (a + n - 1) / u - a / u + 1)

/-! ### Slices (R15, R165, R326, R331, R333) -/

/-- The place of a line's copies in a slice: bank L[2:0] and set L[10:3], as one number (R326). -/
def linePlace (line : Nat) : Nat := line % 2048

/-- The place of a tidepool line in its home slice: bank (G div 256) mod 8 and set G mod 256, as one number (R333). -/
def tidePlace (line : Nat) : Nat :=
  let g := 160 * (line % 512) + line / 512 % 65536 % 160
  g / 256 % 8 + 8 * (g % 256)

/-- The ways of each bank that a storage level borrows: the highest ones (R165). -/
def borrowedWays (level : Nat) : Nat := level - 1

/-- The tidepool line of slot `way` whose home place is a place of a core's slice (R332, R333): the lines of slot s take way s of
their sets, which no storage level borrows (log entry 66). -/
def State.tideLineAt (s : State) (core place way : Nat) : Nat :=
  let g := core % 40 * 2048 + place % 8 * 256 + place / 8
  (s.pkg * 2 ^ 43 + 0x60000000000 + core / 40 * 2 ^ 32 + (160 * way + g % 160) * 65536) / 128 + g / 160

/-- A way of a bank of a core's slice has been lost (R485); kind 6 of `Repair` names the bank, and the way in `used`. -/
def State.wayLost (s : State) (core place way : Nat) : Bool :=
  s.repairs.any fun r => r.kind == 6 && r.place == core * 8 + place % 8 && r.used == way

/-- The way in which the lines of a slot stand at a place of a core's slice: that of a lost way is way 12 (R485, log entry 66). -/
def State.slotWay (s : State) (core place slot : Nat) : Nat := if s.wayLost core place slot then 12 else slot

/-- A HELD tidepool line stands in a way of a place of a core's slice (R333, R334, R457). -/
def State.tideHolds (s : State) (core place way : Nat) : Bool :=
  (List.range 12).any fun slot => s.slotWay core place slot == way &&
    (let l := s.tideLineAt core place slot
     let t := s.tideAt (l / 512)
     match t.state with
     | .backed _ => false
     | _ => t.held.testBit (l % 512))

/-- The way mask of the partition of a core in the slices of the core's die (R331). -/
def State.wayMask (s : State) (core : Nat) : BitVec 16 :=
  match s.partOfCore core with
  | some p => ((findBy Prod.fst (core / 40) p.ways).getD (0, 0)).2
  | none => 0

/-- The current core may allocate a line in a way of a place: the way is in its partition's mask, no storage level has borrowed it, it has not
been lost, and it holds no home tidepool line (R165, R331, R333, R485). -/
def State.wayOk (s : State) (place way : Nat) : Bool :=
  decide (way < 16 - borrowedWays s.core.level) && (s.wayMask s.core.num).getLsbD way && !s.wayLost s.core.num place way &&
    !s.tideHolds s.core.num place way

/-- The current core gives up the sectors of a line that it owns; what is dirty merges into the home (R328). -/
def disown (line : Nat) (s : State) : State :=
  endOwners (fun n => n / 4 == line && (s.sectorAt n).owner == some s.core.num) s

/-- The current core's copies that `p` picks are written back and replaced (R90, R327, R331). -/
def evictCopies (p : Copy → Bool) (s : State) : State :=
  ((s.core.copies.filter p).foldl (fun s k => disown k.line s) s).mapCore fun c => { c with copies := c.copies.filter fun k => !p k }

/-- Puts a copy in the current core's slice (R326, R331): in the way that the line has where it may be kept there, else in a way
without a copy, else in the place of a line that a free value chooses; nowhere where no way may be allocated. -/
def installCopy (k : Copy) (s : State) : Bool × State :=
  let p := linePlace k.line
  let put (w : Nat) (s : State) : Bool × State := (true, s.mapCore fun c => { c with copies := { k with way := w } :: c.copies })
  let old := s.core.copies.find? fun c => c.line == k.line
  let s := s.mapCore fun c => { c with copies := c.copies.filter fun c => c.line != k.line }
  let at_ (w : Nat) (c : Copy) : Bool := linePlace c.line == p && c.way == w
  match old.bind fun c => if s.wayOk p c.way then some c.way else none with
  | some w => put w s
  | none =>
    let ws := (List.range 16).filter fun w => s.wayOk p w
    match ws.find? fun w => !s.core.copies.any (at_ w) with
    | some w => put w s
    | none =>
      if ws.isEmpty then (false, s)
      else
        let w := (ws[Config.orderKey s.freeCtr 0 % ws.length]?).getD 0
        put w (evictCopies (at_ w) { s with freeCtr := s.freeCtr + 1 })

/-- The copy of a line as its home fills it now (R327, R329, R436, R448). -/
def State.fillOf (s : State) (line : Nat) : Copy :=
  let pa := line * 128
  { line := line, way := 0, state := if s.inPeer pa then .remote else .valid, data := s.homeNum pa 128,
    vers := s.lineVers line, stamp := s.stampAt line, pv := s.curAt pa, filled := s.clk }

/-- The line's home place is in the current core's own slice, where it needs no copy (R333). -/
def State.atOwnHome (s : State) (line : Nat) : Bool :=
  s.inTide (line * 128) && homeOfTide (paLocal (line * 128)) == s.core.num

/-- The current core's slice holds a line for a store (R327, R331): `false` where it may allocate no way for it. -/
def holdForStore (line : Nat) (s : State) : Bool × State :=
  if s.atOwnHome line then (true, s)
  else if s.core.copies.any fun c => c.line == line && c.state == .valid && s.wayOk (linePlace line) c.way then (true, s)
  else installCopy (s.fillOf line) s

/-- Some copy of a line stands outside a core's slice, or is a ghost in it. -/
def State.sharedLine (s : State) (core line : Nat) : Bool :=
  (s.core :: s.cores).any fun c => c.copies.any fun k => k.line == line && (c.num != core || k.state != .valid)

/-- Ownership of a sector by a core for a store (R328, R450): the home grants it, with a new version, where another core owned the
sector or holds a copy of its line (log entry 6); an owner alone stores without a grant. The sector is dirty once `dirty_`. -/
def grantSector (core : Nat) (dirty_ : Bool) (n : Nat) (s : State) : State :=
  let x := s.sectorAt n
  let since := if x.dirty && x.owner == some core then x.since else s.clk
  if x.owner == some core && !s.sharedLine core (n / 4) then s.setSector { x with dirty := x.dirty || dirty_, since := since }
  else
    (ghostOthers (some core) (n / 4) s).setSector
      { x with owner := some core, dirty := dirty_ || (x.dirty && x.owner == some core), ver := (x.ver + 1) % 2 ^ 32, since := since }

/-- A write performed at the home raises the sector's version, merges and ends its ownership, and invalidates copies, but for a
remote copy of the writing core, which the write updates (R329, R450). -/
def homeSector (writer : Option Nat) (n : Nat) (s : State) : State :=
  let x := s.sectorAt n
  (ghostOthers writer (n / 4) s).setSector { x with owner := none, dirty := false, ver := (x.ver + 1) % 2 ^ 32 }

/-- The current core takes one line for a store: its slice holds the line and it owns the sectors written, or the write is
performed at the home where the slice may hold none (R328, R331). `x0` and `xn` are the sectors of the write. -/
def ownLine (x0 xn line : Nat) (s : State) : State :=
  let lo := max x0 (line * 4)
  let n := min (x0 + xn) (line * 4 + 4) - lo
  match holdForStore line s with
  | (true, s) => forRange (grantSector s.core.num true) lo n s
  | (false, s) => forRange (homeSector none) lo n s

/-- A write reaches the harts, other than the writing one, that watch its line (R86). -/
def wakeLine (writer : Option HartId) (line : Nat) (s : State) : State :=
  s.mapHarts fun h =>
    if h.csr.evline.any (fun l => s.lineOf (l * 128) == line) && h.csr.evaddr != 0 && some h.id != writer then { h with event := true } else h

/-- Poison marks after a write of `n` bytes at `pa`: a mark goes when its whole sector is written (R483). -/
def clearPoison (pa n : Nat) (s : State) : State :=
  { s with poison := s.poison.filter fun x => !(pa <= x * 32 && x * 32 + 32 <= pa + n) }

/-- The lines of a write to a backed tidepool frame leave its zero map (R463). -/
def unzero (pa n : Nat) (s : State) : State :=
  if s.place pa == pa then s
  else
    let (lo, k) := units 128 pa n
    forRange (fun l s =>
      let t := s.tideAt (l / 512)
      if t.zmap.testBit (l % 512) then
        ({ s with mem := memErase (s.place (l * 128)) 128 s.mem }).setTide { t with zmap := t.zmap - 2 ^ (l % 512) }
      else s) lo k s

/-- The tidepool lines of a write become HELD, each in its way of its home place, whose copy is replaced (R333, R457). -/
def holdLines (pa n : Nat) (s : State) : State :=
  if s.inTide pa then
    let (lo, k) := units 128 pa n
    forRange (fun l s =>
      let t := s.tideAt (l / 512)
      let b := 2 ^ (l % 512)
      match t.state with
      | .backed _ => s
      | _ =>
        let core := homeOfTide (paLocal (l * 128))
        let way := s.slotWay core (tidePlace l) (l / 512 % 65536 / 160)
        let s := if t.held.testBit (l % 512) then s
          else onCore core (evictCopies fun k => linePlace k.line == tidePlace l && k.way == way) s
        s.setTide { t with held := t.held ||| b }) lo k s
  else s

/-- The bytes of a write land in memory, wherever their page lies. -/
def landBytes (pa : Nat) : List Byte → State → State
  | [], s => s
  | v :: vs, s => landBytes (pa + 1) vs { s with mem := memWrite (s.place pa) v s.mem }

/-- The data of a line with the bytes of a write that fall in it. -/
def overlay (line pa : Nat) (bytes : List Byte) (data : Nat) : Nat :=
  let lo := max pa (line * 128)
  let l := (bytes.drop (lo - pa)).take (line * 128 + 128 - lo)
  setBitsAt data (lo % 128 * 8) (8 * l.length) (leBytes l)

/-- The remote copies of the peer lines of a write in the storing core's slice take its bytes and its set (R329). -/
def updateRemote (pa : Nat) (bytes : List Byte) (p : PvSet) (s : State) : State :=
  let (l0, ln) := units 128 pa bytes.length
  s.mapCore fun c => { c with copies := c.copies.map fun k =>
    if k.state == .remote && l0 <= k.line && k.line < l0 + ln then { k with data := overlay k.line pa bytes k.data, pv := k.pv ||| p }
    else k }

/-- The set of the storing core's own copy of a line gains the write's data set (R436). -/
def orOwnCopy (line : Nat) (p : PvSet) (s : State) : State :=
  s.mapCore fun c => { c with copies := c.copies.map fun k =>
    if k.line == line && k.state == .valid then { k with pv := k.pv ||| p } else k }

/-- The address of MQTAIL in the package's host-window image of its own function 0 (R470; log entry 10). -/
def State.atMqtail (s : State) (pa : Nat) : Bool := pa == s.pkg * 2 ^ 43 + 0x40000000000 + Config.bar0Base % 2 ^ 41 + 0x10

/-- The first access to an unscrubbed frame starts its background clear (R336). -/
def startClear (pa : Nat) (s : State) : State :=
  let frame := s.place pa / 65536
  if s.unscrubbed.any (fun r => r.1 <= frame && frame < r.1 + r.2) && !s.clearing.contains frame
  then { s with clearing := frame :: s.clearing } else s

/-- Reads of a range start the clears of its frames (R336). -/
def clearRange (pa n : Nat) (s : State) : State :=
  let (f, k) := units 65536 pa n
  forRange (fun x s => startClear (x * 65536) s) f k s

/-- The entries that a walk reads from a table at a level on, whether it ends in a leaf or not (R320, R321). -/
def State.tableReads (s : State) (va : Nat) : Nat → Nat → List Nat
  | 0, table => [table + 8 * (va / 2 ^ 16 % 32)]
  | n + 1, table =>
    let a := table + 8 * (va / 2 ^ (21 + 9 * n) % 512)
    let e := s.homeNum a 8
    a :: if e.testBit 0 && !e.testBit 8 && !s.malformed (n + 1) e then s.tableReads va n (bitsAt e 12 40 * 4096) else []

/-- The reads of a walk that fails start the clears of its tables' frames (R336). -/
def walkClear (ptroot va : Word) (s : State) : State :=
  if (va.extractLsb' 0 57).signExtend 64 != va || s.unscrubbed.isEmpty then s
  else (s.tableReads (va.extractLsb' 0 57).toNat 4 ((ptroot.extractLsb' 12 40).toNat * 4096)).foldl (fun s a => startClear a s) s

/-- A store of the current hart at a physical address: the page's current set has been checked by the caller and
grows first (R436), the checks of the core for the lines are sent (R448), ownership is granted sector by sector
(R328) or the write goes through to the peer's home (R329), where other cores' remote copies end, and the bytes land; a double stored at MQTAIL by a hart in
hypervisor mode writes that register (R470). The lines of a backed tidepool frame are those of its spill frame (R334). -/
def storePa (pa : Nat) (bytes : List Byte) (p : PvSet) (s : State) : State :=
  let n := bytes.length
  let s := unzero pa n s
  let pa := s.place pa
  let (l0, ln) := units 128 pa n
  let (x0, xn) := units 32 pa n
  let s := growCur pa p (startClear pa s)
  let s := forRange settleChecks l0 ln s
  let s := if s.inHost pa then s
    else if s.inPeer pa then forRange (homeSector (some s.core.num)) x0 xn s
    else forRange (ownLine x0 xn) l0 ln s
  let s := forRange (fun l => orOwnCopy l p) l0 ln s
  let s := if s.inPeer pa then updateRemote pa bytes p s else s
  let s := holdLines pa n s
  let s := landBytes pa bytes s
  let s := clearPoison pa n s
  let s := if s.hart.mode == .hypervisor && n == 8 && s.atMqtail pa then { s with mqTail := BitVec.ofNat 64 (leBytes bytes) } else s
  forRange (wakeLine (some s.hart.id)) l0 ln s

/-- A write of an engine, the dispatcher, the host or another agent, performed at the home (R450, R86). -/
def storeHome (pa : Nat) (bytes : List Byte) (p : PvSet) (s : State) : State :=
  let n := bytes.length
  let s := unzero pa n s
  let pa := s.place pa
  let (l0, ln) := units 128 pa n
  let (x0, xn) := units 32 pa n
  let s := growCur pa p (startClear pa s)
  let s := if s.inHost pa then s else forRange (homeSector none) x0 xn s
  let s := holdLines pa n s
  let s := landBytes pa bytes s
  let s := clearPoison pa n s
  forRange (wakeLine none) l0 ln s

/-- The write of an atomic of the current hart, performed at the home, which has taken ownership of every sector touched (R358,
R450); with no bytes, the atomic reads only. -/
def storeAtomic (pa n : Nat) (bytes : Option (List Byte)) (p : PvSet) (s : State) : State :=
  let s := if bytes.isSome then unzero pa n s else s
  let pa := s.place pa
  let (l0, ln) := units 128 pa n
  let (x0, xn) := units 32 pa n
  let s := growCur pa p s
  let s := forRange settleChecks l0 ln s
  let s := if s.inHost pa then s else forRange (homeSector none) x0 xn s
  match bytes with
  | none => s
  | some bytes =>
    let s := holdLines pa n s
    let s := landBytes pa bytes s
    let s := clearPoison pa n s
    forRange (wakeLine (some s.hart.id)) l0 ln s

/-! ### Releases and acquires (R104, R347) -/

/-- The bits of the struck entries of a watch table (R103, R410). -/
def struckBits : Nat → List WatchEntry → Nat
  | _, [] => 0
  | i, e :: es => (if e.state == .struck then 2 ^ i else 0) + struckBits (i + 1) es

/-- Every entry of the table is resolved (R447). -/
def resolved (t : List WatchEntry) : Bool := t.all fun e => e.state != .pending

/-- A core's dirty sectors merge into their homes (R328, R347). -/
def mergeCore (n : Nat) (s : State) : State :=
  { s with sectors := s.sectors.map fun x => if x.owner == some n then { x with dirty := false } else x,
           recorded := s.recorded.filter fun r => r.2 != n }

/-- What a release does at its scope, beyond order, for the location it writes (R347). -/
def releaseAt (scope : Nat) (line : Nat) (s : State) : State :=
  let line := s.lineOf (line * 128)
  if scope <= 1 then s
  else if scope == 2 then { s with recorded := (line, s.core.num) :: s.recorded.filter (· != (line, s.core.num)) }
  else mergeCore s.core.num s

/-- A release fence drains the core's dirty sectors at once from DIE scope on (R347). -/
def releaseFence (scope : Nat) (s : State) : State := if scope <= 1 then s else mergeCore s.core.num s

/-- Every remote copy in the core's slice becomes a ghost copy (R329). -/
def dropRemote (s : State) : State :=
  s.mapCore fun c => { c with copies := c.copies.map fun k => if k.state == .remote then { k with state := .ghost } else k }

/-- What an acquire does at its scope for the location it reads: the recorded cores merge, and at DOMAIN and SYS the
remote copies become ghosts (R347). -/
def acquireAt (scope : Nat) (line : Nat) (s : State) : State :=
  if scope <= 1 then s
  else
    let s := (s.recorded.filter fun r => r.1 == s.lineOf (line * 128)).foldl (fun s r => mergeCore r.2 s) s
    if scope >= 4 then dropRemote s else s

/-- An acquire fence (R344, R347). -/
def acquireFence (scope : Nat) (s : State) : State :=
  if scope <= 1 then s
  else
    let s := s.recorded.foldl (fun s r => mergeCore r.2 s) s
    if scope >= 4 then dropRemote s else s

/-! ### Traps (R409-R417) -/

/-- The provenance set of a control register, by its place in `Csrs.pv` (R70): the three ranges of R68 in turn. -/
def csrIx (n : Nat) : Nat := if n < 0x100 then n % 24 else if n < 0x200 then 24 + n % 8 else 32 + n % 8

theorem csrIx_lt (n : Nat) : csrIx n < 40 := by
  unfold csrIx; split
  · omega
  · split <;> omega

/-- The set of a control register. -/
def Hart.csrPv (h : Hart) (n : Nat) : PvSet := h.csr.pv.get ⟨csrIx n, csrIx_lt n⟩
/-- Gives a control register a set. -/
def Hart.setCsrPv (h : Hart) (n : Nat) (p : PvSet) : Hart :=
  { h with csr := { h.csr with pv := h.csr.pv.set (csrIx n) p (csrIx_lt n) } }

/-- The code of a mode in PM (R411). -/
def Mode.code : Mode → Nat
  | .user => 0 | .supervisor => 1 | .hypervisor => 2

/-- The mode of a PM code (R411); 3 is never held. -/
def Mode.ofCode (n : Nat) : Mode := if n == 0 then .user else if n == 1 then .supervisor else .hypervisor

/-- Bit 3 of a status word: NEST (R411). -/
def nestOf (w : Word) : Bool := w.getLsbD 3
/-- Bit 4 of a status word: EXIT (R411). -/
def exitOf (w : Word) : Bool := w.getLsbD 4

/-- The handler mode a trap is delivered to, and whether it goes as a double trap (R409). -/
def route (h : Hart) (cause : Nat) : Mode × Bool :=
  if h.mode == .hypervisor then (.hypervisor, false)
  else if cause == 3 then (.hypervisor, false)
  else if h.mode == .supervisor && (cause == 4 || cause == 5) then (.hypervisor, false)
  else if h.mode == .supervisor && nestOf h.csr.tr.status then (.hypervisor, true)
  else (.supervisor, false)

/-- A status word on entry to a handler: ACC, DETAIL, NEST set, EXIT clear, FR, PM (R411). -/
def statusWord (acc detail : Nat) (fr : Bool) (pm : Mode) : Word :=
  BitVec.ofNat 64 (acc % 16 * 2 ^ 20 + detail % 256 * 256 + 8 + (if fr then 4 else 0) + pm.code)

/-- HTVEC of the current hart's partition (R474). -/
def State.htvec (s : State) : Word := match s.part with | some p => p.htvec | none => 0
/-- HFMASK of the current hart's partition (R55, R473). -/
def State.hfmask (s : State) : BitVec 7 := match s.part with | some p => p.hfmask | none => 0

/-- The current hart leaves the reef queue of its core. -/
def leaveReef (s : State) : State :=
  s.mapCore fun c => { c with reef := { c.reef with queue := c.reef.queue.filter (· != s.hart.ix) } }

/-- The spill traps of the current hart that `p` picks are over, and their frames resident again (R461). -/
def endSpills (p : Option Mode → Bool) (s : State) : State :=
  let id := s.hart.id
  let l := (s.hart.spills.filter fun (x : Nat × Option Mode) => p x.2).map Prod.fst
  { s with tide := s.tide.map fun t => if l.contains t.frame && t.state == .pending id then { t with state := .resident } else t
           hart := { s.hart with spills := s.hart.spills.filter fun (x : Nat × Option Mode) => !p x.2 } }

/-- Delivers a trap with the given TRAPPC (R409, R410, R411, R456, R473, R474): the trap registers and their sets are
written, the watch table is set aside, the mode rises and the pc goes to the handler; a trap in hypervisor mode under
NEST, or to an HTVEC of 0, halts the hart. An instruction that has not run is no longer in the reef queue. -/
def deliver (t : TrapRec) (pc : Word) (s : State) : State :=
  let s := leaveReef s
  let s := if t.cause == 8 then walkClear s.hart.csr.ptroot t.info s else s
  let h := s.hart
  let ht : Word := s.htvec
  let (m, dbl) := route h t.cause
  let fr := h.heldBy.isSome
  let cause := if dbl then 23 else t.cause
  let detail := if dbl then t.cause else t.detail
  let r : TrapRegs := ⟨BitVec.ofNat 64 cause, t.info, pc, statusWord t.acc detail fr h.mode⟩
  let h := { h with lastTrap := some t, spills := if t.cause == 21 then h.spills.map fun (x : Nat × Option Mode) =>
    if x.1 == (t.info.extractLsb' 16 36).toNat then (x.1, some m) else x else h.spills }
  let s := { s with pri := s.pri.filter fun x => !(t.cause == 20 && x.failed && x.who == h.id)
                    rereads := match s.rereads.find? fun (x : HartId × Nat) => t.cause == 20 && t.detail == 1 && x.1 == h.id with
                      | some x => s.rereads.erase x
                      | none => s.rereads }
  match m with
  | .hypervisor =>
    if (h.mode == .hypervisor && nestOf h.csr.htr.status) || ht == 0#64 then endSpills (fun _ => true) { s with hart := { h with status := .halted } }
    else
      let h := { h with csr := { h.csr with htr := r, partSel := s.partNum }, mode := .hypervisor, pc := ht,
                        asideH := h.watch, watch := [], status := .running, fetchTaken := true,
                        asideBarH := h.arrival, arrival := none }
      { s with hart := (((h.setCsrPv 0x201 h.ctx).setCsrPv 0x202 h.ctx).setCsrPv 0x203 h.ctx).setCsrPv 0x204 h.ctx }
  | _ =>
    let h := { h with csr := { h.csr with tr := r }, mode := .supervisor, pc := h.csr.tvec,
                      asideS := h.watch, watch := [], status := .running, fetchTaken := true,
                      asideBarS := h.arrival, arrival := none }
    { s with hart := (((h.setCsrPv 0x100 h.ctx).setCsrPv 0x101 h.ctx).setCsrPv 0x102 h.ctx).setCsrPv 0x103 h.ctx }

/-- A precise scalar-side trap at the instruction (R77, R415). -/
def trapAt (t : TrapRec) (s : State) : State := deliver t s.hart.pc s

/-- The item of words at the pc, with the operands in force (R72, R416). -/
def Hart.mkItem (h : Hart) (words : List Word) : Item :=
  { at_ := h.pc, words := words, s := h.s, sp := h.sp, ctx := h.ctx, frm := h.csr.frm, segmask := h.csr.segmask, prog := h.prog,
    dead := [], send := h.send, wait := none, dry := false, ran := 0, undo := none, pins := [], seq := 0 }

/-- The instruction in hand is a member of a convoy that is only being checked (R160). -/
def State.dry (s : State) : Bool := match s.hart.cur with | some it => it.dry | none => false

/-- An item holds a watched vector load (R131). -/
def Item.watches (it : Item) : Bool := it.words.any fun w => majorOf w == 0x1A && (fnOf w == 5 || fnOf w == 6)

/-- What an unfinished convoy has done is put back (R160): of the watch table, the entries that its own members have made, since no other
instruction changes the table's length meanwhile; the older entries stay as strikes and replies have left them. -/
def Item.rollBack (it : Item) (h : Hart) : Hart :=
  match it.undo with
  | none => h
  | some u =>
    let h := { h with vec := u.vec, watch := if it.watches then h.watch.take u.watch else h.watch, csr := { h.csr with
      vl := u.csr.vl, sew := u.csr.sew, g := u.csr.g, vlcut := u.csr.vlcut, fstat := u.csr.fstat, srstate := u.csr.srstate,
      mshout := u.csr.mshout, xcnt2 := u.csr.xcnt2, wfull := u.csr.wfull, instret := h.csr.instret - BitVec.ofNat 64 it.ran } }
    [0x001, 0x002, 0x003, 0x005, 0x007, 0x008, 0x00A].foldl (fun h n => h.setCsrPv n (u.csr.pv.get ⟨csrIx n, csrIx_lt n⟩)) h

/-- An item of which nothing has run: what an unfinished convoy has done to its own operands is put back (R160). -/
def Item.rested (it : Item) : Item :=
  { it with s := it.undo.elim it.s Undo.s, sp := it.undo.elim it.sp Undo.sp, wait := none, dry := false, ran := 0, undo := none, pins := [] }

/-- An item in its place in the order of posting. -/
def insertItem (it : Item) (l : List Item) : List Item :=
  l.takeWhile (fun x => x.seq < it.seq) ++ it :: l.dropWhile fun x => x.seq < it.seq

/-- A vector-side trap (R416): the faulting item and the others that the hart keeps become the opaque frame, the scalar unit
resumes after what it has committed, and TRAPPC holds the item's address; the event flag is set (R86). -/
def vtrapItem (t : TrapRec) (it : Item) (resume : Word) (s : State) : State :=
  let m := (route s.hart t.cause).1
  let s := s.mapHart fun h =>
    { h with queue := insertItem it.rested h.queue, heldBy := some m, heldSeq := s.jobSeq, resume := resume, cur := none, prog := 0, send := none,
             remote := none, vreq := none, event := true }
  deliver t it.at_ s

/-- The trap of an item of the vector queue, which the sequencer delivers (R416). -/
def raiseTrap (t : TrapRec) (s : State) : State := s.mapHart fun h => { h with lastTrap := some t }

/-- A vector-side trap of the instruction in hand, given as its word (R416). -/
def vtrap (t : TrapRec) (w : Word) (s : State) : State :=
  match s.hart.cur with
  | some _ => raiseTrap t s
  | none => vtrapItem t (s.hart.mkItem [w]) (s.hart.pc + 8) s

/-- The illegal-instruction trap of a word (R50, R410). -/
def illegal (w : Word) : TrapRec := ⟨1, w, 0, 0⟩
/-- The privilege trap of a word (R50). -/
def privilege (w : Word) : TrapRec := ⟨4, w, 0, 0⟩

/-- The instruction of an item of the matrix queue. -/
def MqItem.instr (x : MqItem) : Option Instr := match decode x.word with | .ok i => some i | .error _ => none

/-- The slot that a fill writes. -/
def MqItem.fillSlot (x : MqItem) : Option (BitVec 5) :=
  match x.instr with
  | some (.mload f) => some f.slotA
  | some (.mfill f) => some f.slotA
  | _ => none

/-- The accumulator that a step or MDRAIN names: it may set off a drain there (R288). -/
def MqItem.intoAcc (x : MqItem) : Option Nat :=
  match x.instr with
  | some (.mma f) | some (.mman f) | some (.mmab f) | some (.mdrain f) => some f.acc.toNat
  | _ => none

/-- A slot as it stands, or one that no claim has reached. -/
def Island.slot (i : Island) (q : Nat) : TileSlot := (findBy TileSlot.num q i.slots).getD ⟨q, false, 0, false, 0, 0, 0, pvEmpty⟩
/-- Records a slot. -/
def Island.setSlot (i : Island) (x : TileSlot) : Island := { i with slots := putBy TileSlot.num x i.slots }
/-- An accumulator as it stands, or one that no claim has reached. -/
def Island.acc (i : Island) (a : Nat) : Accum := (findBy Accum.num a i.accs).getD ⟨a, false, 0, 0, 0, none, pvEmpty, none, false⟩
/-- Records an accumulator. -/
def Island.setAcc (i : Island) (x : Accum) : Island := { i with accs := putBy Accum.num x i.accs }
/-- Changes every word that the island holds: not begun, in the array, a fill, and those that have set off a pending drain. -/
def Island.mapWords (f : MqItem → MqItem) (i : Island) : Island :=
  { i with order := i.order.map f, step := i.step.map f, fills := i.fills.map f,
           accs := i.accs.map fun a => { a with drain := a.drain.map f } }
/-- The tile slots of a step that name it: A, B, half, long (R310). -/
def stepForm : Instr → Option (TFmt × Nat × Bool)
  | .mma f => some (f, 1, false)
  | .mman f => some (f, 2, true)
  | .mmab f => some (f, 3, false)
  | _ => none

/-- The slots that an item names: operands, and the slot that a drain it may set off, or that a MACINIT aims at, writes (R286). -/
def MqItem.slots (x : MqItem) (i : Island) : List Nat :=
  let target (a : BitVec 3) : List Nat :=
    match (i.acc a.toNat).conf with | some c => if c.tgt == 0 then [c.reg] else [] | none => []
  match x.instr with
  | some (.mma f) | some (.mman f) | some (.mmab f) => [f.slotA.toNat, f.slotB.toNat] ++ target f.acc
  | some (.mdrain f) => target f.acc
  | some (.macinit f) => if f.imm.toNat % 4 == 0 then [f.slotB.toNat] else []
  | some (.mload f) | some (.mfill f) | some (.mhdr f) => [f.slotA.toNat]
  | some (.mclaim f) | some (.mrels f) => if f.imm.getLsbD 1 then [] else [f.slotA.toNat]
  | _ => []

/-- The accumulator that an item names (R286). -/
def MqItem.accNamed (x : MqItem) : Option Nat :=
  match x.instr with
  | some (.mma f) | some (.mman f) | some (.mmab f) | some (.mdrain f) | some (.macinit f) | some (.mzero f) => some f.acc.toNat
  | some (.mclaim f) | some (.mrels f) => if f.imm.getLsbD 1 then some f.acc.toNat else none
  | _ => none

/-- Two items are performed in island order (R286, R312): they name a common slot or accumulator, or both may set off a drain, as
steps, which the array performs one at a time, do. -/
def MqItem.clashes (i : Island) (x y : MqItem) : Bool :=
  (x.slots i).any (fun q => (y.slots i).contains q) || (x.accNamed.isSome && x.accNamed == y.accNamed) ||
  (x.intoAcc.isSome && y.intoAcc.isSome)

/-- The accumulator's pending drain waits for the reef (R312). -/
def Accum.toReef (a : Accum) : Bool := match a.conf with | some c => c.tgt == 2 | none => false

/-- The pending drain of an accumulator stands still: it waits for an XOP (R312), or for vector items of a hart that issues none of them now,
because they are held or a trap waits for its next instruction (R290, R298, R416; log entry 13). -/
def State.stuckDrain (s : State) (n : Nat) : Bool :=
  let a := s.core.isl.acc n
  match a.conf, a.drain with
  | some c, some x =>
    c.tgt == 2 || (c.tgt == 3 &&
      (let o := s.hartAt c.owner
       (o.heldBy.isSome || !o.deferred.isEmpty) && o.queue.any fun it => decide (it.seq < x.seq)))
  | _, _ => false

/-- The pending drains that can go on: those before the first that stands still. -/
def State.goingDrains (s : State) : List Nat := s.core.isl.drains.takeWhile fun n => !s.stuckDrain n

/-- The words of island order that can go on: none that names what a drain which stands still holds, or that clashes with one such. -/
def State.goingOrder (s : State) : List MqItem :=
  let i := s.core.isl
  let stuck := i.drains.drop s.goingDrains.length
  let fills (q : Nat) : Bool := stuck.any fun n => (i.acc n).conf.any fun c => c.tgt == 0 && c.reg == q
  let blocked (x : MqItem) : Bool := x.accNamed.any (stuck.contains ·) || (x.slots i).any fills
  (i.order.foldl (fun (r : List MqItem × List MqItem) x =>
    if blocked x || r.1.any (fun y => y.clashes i x) then (r.1 ++ [x], r.2) else (r.1, r.2 ++ [x])) ([], [])).2

/-- Work in the island, among some words, that can go on (log entry 13): not begun, in the array, a fill, or what a drain was set off
by. -/
def State.worksOf (s : State) (mine : MqItem → Bool) : Bool :=
  let i := s.core.isl
  s.goingOrder.any mine || i.fills.any mine || i.step.any mine || s.goingDrains.any fun n => (i.acc n).drain.any mine

/-- Work of a hart that is in the island. -/
def State.worksFor (s : State) (h : HartId) : Bool := s.worksOf fun x => x.who == h

/-- Fills among some words that have not been performed (R343, R359). -/
def Island.fillsOf (i : Island) (mine : MqItem → Bool) : Bool :=
  i.fills.any mine || i.order.any fun x => mine x && x.fillSlot.isSome

/-- An accumulator drains to memory, or a word in island order will make it do so (R289, R307). -/
def Island.toMemory (i : Island) (n : Nat) : Bool :=
  i.accs.any (fun a => a.num == n && (match a.conf with | some c => c.tgt == 1 | none => false)) ||
  i.order.any fun x => match x.instr with | some (.macinit f) => f.acc.toNat == n && f.imm.toNat % 4 == 1 | _ => false

/-- Memory drains, among what some words set off, that have not been performed, and work of theirs that may set one off (R293,
R359). -/
def Island.writesOf (i : Island) (mine : MqItem → Bool) : Bool :=
  i.accs.any (fun a => a.drain.any mine && i.toMemory a.num) ||
  (i.order ++ i.step.toList).any fun x => mine x && x.intoAcc.any i.toMemory

/-- Every vector, reef and matrix instruction that the current hart posted has completed (R97, R415); the items of a held
frame do not count. -/
def State.postedDone (s : State) : Bool :=
  !s.worksFor s.hart.id &&
    (s.hart.heldBy.isSome || (s.hart.mq.isEmpty && (s.hart.queue.isEmpty || s.hart.cur.isSome)))

/-- Every matrix instruction that the current hart posted before the instruction in hand, but those of a held frame, has entered island
order (R285, R360). -/
def State.mqEntered (s : State) : Bool :=
  s.hart.heldBy.isSome ||
    (match s.hart.cur with | some it => s.hart.mq.all fun x => decide (it.seq <= x.seq) | none => s.hart.mq.isEmpty)

/-- A hart has been saved by a pre-emption that is under way (R387, R418). -/
def State.isSaved (s : State) (who : HartId) : Bool :=
  s.tasks.any fun t => t.state == .stopping && t.harts.any fun h => h.id == who

/-! ### What the items of a queue access (R130, R231, R262) -/

/-- The members of an item; its words passed the decoder when they were posted. -/
def itemMembers : List Word → List (Word × Instr)
  | [] => []
  | w :: l => match decode w with | .ok i => (w, i) :: itemMembers l | .error _ => itemMembers l

/-- The instructions of an item. -/
def Item.instrs (it : Item) : List Instr := (itemMembers it.words).map Prod.snd

/-- The data edges of an image. -/
def dataEdges (es : List REdge) : List REdge := es.filter fun e => e.ek == 0
/-- A channel port's code. -/
def isCh (e : Nat) : Bool := e == 0x90 || e == 0x91
/-- An image holds an M node. -/
def RImage.hasM (i : RImage) : Bool := i.nodes.any fun n => n.kind == 4
/-- The image uses a channel port. -/
def RImage.hasCh (i : RImage) : Bool := (dataEdges i.edges).any fun e => isCh e.src || isCh e.dst

/-- The identifier in a PTROOT value (R413). -/
def asidOf (ptroot : Word) : Nat := (ptroot.extractLsb' 52 12).toNat
/-- The binding of a slot for a process of the current partition. -/
def State.bindOf (s : State) (asid slot : Nat) : Option Binding :=
  s.binds.find? fun b => b.part == s.partNum && b.asid == asid && b.slot == slot

/-- The address-space identifier of the current hart. -/
def State.asid (s : State) : Nat := asidOf s.hart.csr.ptroot

/-- An opcode whose image has M nodes or channel ports, or is not known: it is a fence on either side (R231). -/
def isFence (f : XFmt) (s : State) : Bool :=
  match s.bindOf s.asid f.slot.toNat with | some b => b.img.hasM || b.img.hasCh | none => false

/-- A queued instruction accesses no memory (R130); CHRECV accesses its ring and orders every later access (R262). -/
def isSilent (i : Instr) (s : State) : Bool :=
  match i with
  | .setvl _ | .vtag _ | .vretag _ => true
  | .xop f => !isFence f s
  | i => match i.code with | some (_, _, .v _) => true | _ => false

/-- An item accesses no memory. -/
def Item.silent (it : Item) (s : State) : Bool := it.instrs.all fun i => isSilent i s

/-- The earlier vector-queue items of the current hart that access memory have been performed; the items of a held frame do not count
(R360). -/
def State.queueDone (s : State) : Bool := s.hart.heldBy.isSome || s.hart.cur.isSome || s.hart.queue.all fun it => it.silent s

/-- The accesses of every vector item that precedes number `n` in a hart's order of posting have been performed: an engine's or a fill's
come after them (R293, R351). The items of a held frame precede nothing that the handler has posted (R416). -/
def State.performedTo (s : State) (who : HartId) (n : Nat) : Bool :=
  let h := s.hartAt who
  (h.heldBy.isSome && decide (h.heldSeq <= n)) || h.queue.all fun it => decide (n <= it.seq) || it.silent (focus who s)

/-- No engine of the hart is in flight (R85, R102). -/
def Hart.enginesDone (h : Hart) : Bool := h.tags.all fun t => t.state != .running

/-- A trap of the scalar unit, which is delivered only once every vector, reef and matrix instruction that the hart posted earlier has
completed (R415), and waits as `w` until then; that of an item of the vector queue is the sequencer's. -/
def trapBehind (w : Wait) (t : TrapRec) (s : State) : State :=
  if s.hart.cur.isSome then raiseTrap t s else if s.postedDone then trapAt t s else waitFor w s

/-- The scalar-side trap of an instruction that the decoder has passed. -/
def scalarTrap (t : TrapRec) (s : State) : State := trapBehind .drain t s

/-- The trap of a fetch or of the decoder's checks: while it waits, the word is not past decode (R473). -/
def decodeTrap (t : TrapRec) (s : State) : State := trapBehind .fetch t s

/-- An instruction that releases waits until the hart's matrix words have entered island order (R285) and the watch
table is resolved, and raises the unchecked-strike trap when an entry was struck (R104). -/
def watchGate (f : State → State) (s : State) : State :=
  if !s.mqEntered then waitFor .drain s
  else if !resolved s.hart.watch then waitFor .watch s
  else
    let b := struckBits 0 s.hart.watch
    if b != 0 then scalarTrap ⟨14, BitVec.ofNat 64 b, 0, 0⟩ s else f s

/-- Behind the watch gate when a release is named; in the check of a convoy the gate stands open (R104, R160). -/
def watchGateIf (rel : Bool) (f : State → State) (s : State) : State := if rel && !s.dry then watchGate f s else f s

/-- A fence waits until the hart's earlier accesses of its kind have been performed (R343, R344, R359-R361): the vector unit's, and
the island's reads or writes or both, of words that have entered island order. -/
def fenceGate (reads writes : Bool) (f : State → State) (s : State) : State :=
  let i := s.core.isl
  let mine (x : MqItem) : Bool := x.who == s.hart.id && (match s.hart.cur with | some it => decide (x.seq < it.seq) | none => true)
  if !s.mqEntered || !s.queueDone || (reads && i.fillsOf mine) || (writes && i.writesOf mine) then waitFor .drain s else f s

/-- The HFMASK bit that masks an instruction (R55). -/
def Instr.group : Instr → Option Nat
  | .fork _ | .join => some 6
  | .launch _ => some 5
  | .copy _ | .decomp _ | .sread _ | .gate _ | .twait _ | .tpoll _ => some 4
  | .wldB _ | .wldH _ | .wldW _ | .wldD _ | .vwld _ | .vwlds _ | .wchk _ | .wclr => some 3
  | .chopen _ | .chclose _ | .chsend _ | .chrecv _ | .chwait _ | .chstat _ => some 2
  | .mma _ | .mman _ | .mmab _ | .macinit _ | .mdrain _ | .mzero _ | .mstat _ | .mclaim _ | .mrels _ | .mload _
  | .mfill _ | .mhdr _ => some 1
  | .xop _ | .bind _ | .unbind _ | .xstat _ => some 0
  | _ => none

/-- The forms of the SUP major, which user mode may not run (R50, R373). -/
def Instr.isSup : Instr → Bool
  | .vsave _ | .vrestore _ | .frsave _ | .frload _ | .xfreeze _ | .xthaw _ | .reserve _ | .migrate _ | .tlbinv _
  | .gateinst _ | .pgfree _ => true
  | _ => false

/-- An instruction that waits so has passed the decoder. -/
def Wait.decoded : Wait → Bool
  | .fetch | .start | .stopped => false
  | _ => true

/-- The hart's instruction in hand is past decode: an item of its queue, or the word at the pc that it has tried and that waits (R473). -/
def Hart.pastDecode (h : Hart) : Bool :=
  h.cur.isSome || (match h.status with | .waiting w => w.decoded | _ => false)

/-- The decoder's checks of a legal word, in order: the feature mask, which an instruction past decode no longer meets (R473), then
privilege (R51). -/
def gate (i : Instr) (s : State) : Option TrapRec :=
  match Instr.group i with
  | some b =>
    if s.hart.mode != .hypervisor && s.hfmask.getLsbD b && !s.hart.pastDecode then some ⟨3, encode i, b, 0⟩
    else if Instr.isSup i && s.hart.mode == .user then some (privilege (encode i)) else none
  | none => if Instr.isSup i && s.hart.mode == .user then some (privilege (encode i)) else none

/-- Runs a meaning behind the decoder's checks; an item of the vector queue is past decode and always runs (R473). -/
def gated (i : Instr) (f : State → State) (s : State) : State :=
  if s.hart.cur.isSome then f s
  else
    match gate i s with
    | some t => decodeTrap t s
    | none => f s

end Sys2Proof.Machine
end

