-- ==== Sys2Proof/Machine/Translate.lean ====
section
/-! DEFINITION. Translation (R318-R324), the checks of an access at its physical place, and the ceiling and egress
checks of a write (R78, R428, R435). -/

namespace Sys2Proof.Machine

/-- What an access needs of its page (R322). -/
inductive Perm where
  | read | write | exec
deriving DecidableEq, Repr

/-- Why a translation stopped: a page fault of a kind at a level (R412), or a data error of a table read (R410). -/
inductive WalkErr where
  | fault (kind level : Nat)
  | data (detail : Nat)
deriving DecidableEq, Repr

/-- A leaf entry that a walk found: where the entry stands, its value, and its level. -/
structure Leaf where
  at_ : Nat
  pte : Nat
  level : Nat
deriving DecidableEq, Repr

/-- An address is canonical when bits 63:57 all equal bit 56 (R318). -/
def canonical (va : Word) : Bool := (va.extractLsb' 0 57).signExtend 64 == va

/-- A frame that may not be read at all: retired, or with an access of this hart, of `n` bytes, that was waiting on a line whose second
read failed (R426), or of an unreachable package (R489); the DETAIL of the data error. -/
def State.deadFrame (s : State) (pa : Nat) (n : Nat := 1) : Option Nat :=
  let (l0, k) := units 128 (s.place pa) n
  if s.rereads.any fun x => x.1 == s.hart.id && l0 <= x.2 && x.2 < l0 + k then some 1
  else if s.retired.contains (s.place pa / 65536) then some 3
  else if s.unreachable_.contains (paPkg pa) then some 1 else none

/-- The sectors of a read carry a poison mark (R483). -/
def State.poisoned (s : State) (pa n : Nat) : Bool :=
  let (x0, k) := units 32 (s.place pa) n
  s.poison.any fun x => x0 <= x && x < x0 + k

/-- Bits of the offset within a page of a leaf at a level (R320). -/
def pageBits (level : Nat) : Nat := if level == 0 then 16 else if level == 1 then 21 else 30

/-- Reads one entry and says what it is: a fault, a leaf, or the next table. -/
def State.readEntry (s : State) (at_ level : Nat) : Except WalkErr (Sum Leaf Nat) :=
  match s.deadFrame at_ with
  | some d => .error (.data d)
  | none =>
    if s.poisoned at_ 8 then .error (.data 1)
    else
      let e := s.homeNum at_ 8
      if !e.testBit 0 then .error (.fault 1 level)
      else if s.malformed level e then .error (.fault 2 level)
      else if e.testBit 8 then .ok (.inl ⟨at_, e, level⟩)
      else .ok (.inr (bitsAt e 12 40 * 4096))

/-- The walk from a table at a level (R320). -/
def State.walkFrom (s : State) (va : Nat) : Nat → Nat → Except WalkErr Leaf
  | 0, table =>
    match s.readEntry (table + 8 * (va / 2 ^ 16 % 32)) 0 with
    | .error e => .error e
    | .ok (.inl l) => .ok l
    | .ok (.inr _) => .error (.fault 2 0)
  | n + 1, table =>
    match s.readEntry (table + 8 * (va / 2 ^ (21 + 9 * n) % 512)) (n + 1) with
    | .error e => .error e
    | .ok (.inl l) => .ok l
    | .ok (.inr t) => s.walkFrom va n t

/-- A page's leaf bits permit an access in a mode (R322). -/
def permits (mode : Mode) (p : Perm) (flags : Nat) : Bool :=
  let u := flags.testBit 4
  match p with
  | .read => flags.testBit 1 && (mode != .user || u)
  | .write => flags.testBit 1 && flags.testBit 2 && (mode != .user || u)
  | .exec => flags.testBit 3 && (if mode == .user then u else !u)

/-- The slot of a tidepool frame is held by a partition, or the frame is backed and the partition held its slot then (R332, R463); a
frame that an elastic buffer holds is not reached (R253, R412). -/
def State.slotOk (s : State) (part : Option Nat) (pa : Nat) : Bool :=
  if s.inTide pa then
    let t := s.tideAt (pa / 65536)
    let held := match t.state with
      | .backed _ => t.backer.isSome && t.backer == part
      | _ => s.slots.any fun x => x.die == dieOfTide (paLocal pa) && x.slot == pa / 65536 % 65536 / 160 && some x.part == part
    held && !t.elastic
  else true

/-- The table in a PTROOT value (R413). -/
def rootOf (ptroot : Word) : Nat := (ptroot.extractLsb' 12 40).toNat * 4096

/-- A TLB entry serves an address for an identifier (R321, R324). -/
def TlbEntry.serves (e : TlbEntry) (asid va : Nat) : Bool :=
  (e.asid == asid || e.flags.getLsbD 5) && e.va / 2 ^ e.bits == va / 2 ^ e.bits

/-- The 57-bit number of a virtual address. -/
def vaNum (va : Word) : Nat := (va.extractLsb' 0 57).toNat

/-! ### The translation structures of a core (R324) -/

/-- Who translates: fetch, the scalar unit with its engines, the unit-stride forms, and every other vector access with the reef's
M nodes (R324). -/
inductive Via where
  | instr | scalar | unit | gather
deriving DecidableEq, Repr

/-- The structure that an access of the scalar unit's kinds uses: fetch its own, matrix fills the unit-stride register, reef M nodes
the gather TLB, and all else the scalar data TLB. -/
def Via.ofAcc (p : Perm) (acc : Nat) : Via :=
  if p == .exec then .instr else if acc == 6 then .unit else if acc == 7 then .gather else .scalar

/-- The entries that a structure holds (R324). -/
def TlbUnit.capacity : TlbUnit → Nat
  | .instr | .scalar | .gather _ => 64
  | .unitStride _ => 1
  | .large => 32
  | .second => 4096

/-- Where the gather TLB keeps a page of `bits` offset bits: in the bank of its address, or in the large-page array. -/
def gatherUnit (va bits : Nat) : TlbUnit := if bits == 16 then .gather (va / 2 ^ 16 % 8) else .large

/-- The first structures that an access looks at, for a page of `bits` offset bits (R324). -/
def Via.firsts (v : Via) (hart va bits : Nat) : List TlbUnit :=
  match v with
  | .instr => [.instr]
  | .scalar => [.scalar]
  | .unit => [.unitStride hart, gatherUnit va bits]
  | .gather => [gatherUnit va bits]

/-- The structures that an access looks at, in order (R324). -/
def Via.looks (v : Via) (hart va : Nat) : List TlbUnit :=
  match v with
  | .instr => [.instr, .second]
  | .scalar => [.scalar, .second]
  | .unit => [.unitStride hart, .gather (va / 2 ^ 16 % 8), .large, .second]
  | .gather => [.gather (va / 2 ^ 16 % 8), .large, .second]

/-- The first of some TLB entries that serves an access, in the order of the structures. -/
def firstServing (ok : TlbEntry → Bool) (l : List TlbEntry) : List TlbUnit → Option TlbEntry
  | [] => none
  | u :: us =>
    match l.find? fun e => e.unit == u && ok e with
    | some e => some e
    | none => firstServing ok l us

/-- Puts an entry into a structure of the current core; in a full one it replaces an entry that a free value chooses (log
entry 67). -/
def tlbPut (e : TlbEntry) (u : TlbUnit) (s : State) : State :=
  let l := s.core.tlb.filter fun x => !(x.unit == u && x.asid == e.asid && x.va == e.va && x.bits == e.bits)
  let mine := l.filter fun x => x.unit == u
  if mine.length < u.capacity then s.mapCore fun c => { c with tlb := { e with unit := u } :: l }
  else
    match mine[Config.orderKey s.freeCtr 0 % mine.length]? with
    | some x => { s with core := { s.core with tlb := { e with unit := u } :: l.erase x }, freeCtr := s.freeCtr + 1 }
    | none => s

/-- Puts an entry into the structures that an access looks at first. -/
def tlbFill (v : Via) (va : Nat) (e : TlbEntry) (s : State) : State :=
  (v.firsts s.hart.ix va e.bits).foldl (fun s u => tlbPut e u s) s

/-- The entry of a leaf. -/
def Leaf.entry (l : Leaf) (asid va want : Nat) : TlbEntry :=
  let bits := pageBits l.level
  ⟨asid, va / 2 ^ bits * 2 ^ bits, bitsAt l.pte 16 36 * 65536, bits, BitVec.ofNat 12 want, .second⟩

/-- A walk that ends in a leaf: A is set, and M for a write, and the leaf enters the second-level TLB and the structures that the
access looks at first, in place of what the core held of the page (R322, R324). -/
def installLeaf (v : Via) (asid va : Nat) (p : Perm) (l : Leaf) (s : State) : State × TlbEntry :=
  let want := l.pte ||| 64 ||| (if p == .write then 128 else 0)
  let s := if want == l.pte then s else storeHome l.at_ (toLeBytes 8 want) pvEmpty s
  let e := l.entry asid va want
  let s := s.mapCore fun c => { c with tlb := c.tlb.filter fun x => !(x.asid == asid && x.va == e.va && x.bits == e.bits) }
  (tlbFill v va e (tlbPut e .second s), e)

/-- The physical address of an address within a page. -/
def TlbEntry.addr (e : TlbEntry) (va : Nat) : Nat := e.pa + va % 2 ^ e.bits

/-- Translation of an address for an access (R318-R324, R332), on behalf of an address space and mode. -/
def xlatWith (v : Via) (ptroot : Word) (mode : Mode) (va : Word) (p : Perm) (s : State) : Except WalkErr (Nat × TlbEntry × State) :=
  if !canonical va then .error (.fault 4 0)
  else
    let n := vaNum va
    let asid := asidOf ptroot
    let part := (s.part.map Part.num)
    let ok (e : TlbEntry) : Bool :=
      e.serves asid n && (p != .write || e.flags.getLsbD 7 || !permits mode p e.flags.toNat) && s.slotOk part (e.addr n)
    match firstServing ok s.core.tlb (v.looks s.hart.ix n) with
    | some e =>
      if permits mode p e.flags.toNat then
        .ok (e.addr n, e, if (v.looks s.hart.ix n).head? == some e.unit then s else tlbFill v n e s)
      else .error (.fault 3 (if e.bits == 16 then 0 else if e.bits == 21 then 1 else 2))
    | none =>
      match s.walkFrom n 4 (rootOf ptroot) with
      | .error e => .error e
      | .ok l =>
        let pa := bitsAt l.pte 16 36 * 65536 + n % 2 ^ pageBits l.level
        if !s.slotOk part pa then .error (.fault 5 0)
        else if !permits mode p l.pte then .error (.fault 3 l.level)
        else
          let (s, e) := installLeaf v asid n p l s
          .ok (e.addr n, e, s)

/-- The translation that the check of the convoy in hand has found for an address (R160, R325). -/
def State.pinned (s : State) (va : Word) (p : Perm) : Option TlbEntry :=
  s.hart.cur.bind fun it => if it.dry then none
    else it.pins.find? fun e => e.serves (asidOf s.hart.csr.ptroot) (vaNum va) && permits s.hart.mode p e.flags.toNat

/-- In the check of a convoy, the item in hand keeps a translation. -/
def keepPin (e : TlbEntry) (s : State) : State :=
  if s.dry then s.mapHart fun h => { h with cur := h.cur.map fun it => if it.pins.contains e then it else { it with pins := it.pins ++ [e] } } else s

/-- Translation for the current hart through the structures of a kind of access. The members of a convoy use the translations of its check,
whatever the tables say by then (R325). -/
def xlatVia (v : Via) (va : Word) (p : Perm) (s : State) : Except WalkErr (Nat × TlbEntry × State) :=
  match s.pinned va p, xlatWith v s.hart.csr.ptroot s.hart.mode va p s with
  | some e, .ok (_, _, t) => .ok (e.addr (vaNum va), e, t)
  | some e, .error _ => .ok (e.addr (vaNum va), e, s)
  | none, .ok (pa, e, t) => .ok (pa, e, keepPin e t)
  | none, .error e => .error e

/-- Translation for the scalar unit of the current hart. -/
def xlat (va : Word) (p : Perm) (s : State) : Except WalkErr (Nat × TlbEntry × State) := xlatVia (Via.ofAcc p 0) va p s

/-- The trap of a failed translation (R410-R412); a table read that fails reports ACC 8. -/
def walkTrap (va : Word) (acc : Nat) : WalkErr → TrapRec
  | .fault k l => ⟨8, va, k + 16 * l, acc⟩
  | .data d => ⟨20, va, d, 8⟩

/-- A tidepool access records the attributes of its leaf and its task, and keeps the first such record (R458). -/
def recordTide (pa : Nat) (e : TlbEntry) (s : State) : State :=
  if s.inTide pa then
    let t := s.tideAt (pa / 65536)
    let d := e.flags.getLsbD 10
    let pol := e.flags.getLsbD 11
    s.setTide { t with d := d, pol := pol, task := s.core.task, first := some (t.first.getD (d, pol, s.core.task)) }
  else s

/-- An access of the partition's virtual function in the host window leaves the page's translation in its cache (R465, R467). -/
def fillAts (pa : Nat) (s : State) : State :=
  let x := (s.partNum, pa / 4096)
  if s.inHost pa && !s.ats.contains x then { s with ats := x :: s.ats } else s

/-- The marks that the walker leaves (A, M and the TLB entry, R322) on the pages that an instruction which then traps has
translated. -/
def touch (va : Word) (p : Perm) (s : State) : State :=
  match xlat va p s with
  | .ok (_, _, t) => t
  | .error _ => s

/-- What an access meets: it goes ahead at a physical address, it traps, or it waits (R457). -/
inductive Acc where
  | ok (pa : Nat) (s : State)
  | trap (t : TrapRec)
  | wait (w : Wait)

/-- A frame that is PENDING or MOVING makes the access wait, except that of the handler's hart (R457, R461). -/
def State.frameBusy (s : State) (pa : Nat) : Bool :=
  s.inTide pa &&
    (match (s.tideAt (pa / 65536)).state with
     | .pending h => !(h == s.hart.id)
     | .moving => true
     | _ => false)

/-- A package outside the zone, reached by a store whose data set is not empty, meets the egress check (R439). -/
def State.outsideZone (s : State) (pa : Nat) : Bool := s.inPeer pa && !s.zone.contains (paPkg pa)

/-- An access of `n` bytes that lie in one page, translated through the structures of its kind and checked at its place; `reads`
says whether a poison mark traps (R483). -/
def accessVia (v : Via) (va : Word) (n : Nat) (p : Perm) (acc : Nat) (reads : Bool) (s : State) : Acc :=
  match xlatVia v va p s with
  | .error e => .trap (walkTrap va acc e)
  | .ok (pa, e, s) =>
    if s.frameBusy pa then .wait .frame
    else if s.inHost pa && s.pri.any (fun x => x.who == s.hart.id && x.page == pa / 4096 && x.failed) then
      .trap ⟨20, va, 2, acc⟩
    else if s.inHost pa && s.pri.any (fun x => x.page == pa / 4096 && !x.failed) then .wait .remote
    else
      match s.deadFrame pa n with
      | some d => .trap ⟨20, va, d, acc⟩
      | none =>
        if reads && s.poisoned pa n then .trap ⟨20, va, 1, acc⟩
        else .ok pa (fillAts pa (startClear pa (recordTide pa e s)))

/-- An access of the scalar unit, of a matrix fill or of a reef M node (R324). -/
def access (va : Word) (n : Nat) (p : Perm) (acc : Nat) (reads : Bool) (s : State) : Acc :=
  accessVia (Via.ofAcc p acc) va n p acc reads s

/-- The ceiling check of a write of data set `p` at a physical address, or the egress check in the host window and at
a package outside the zone (R78, R428, R435, R439); the trap it raises. -/
def writeCheck (va : Word) (pa : Nat) (p : PvSet) (acc : Nat) (s : State) : Option TrapRec :=
  if s.inHost pa || s.outsideZone pa then (if p == 0 then none else some ⟨22, va, 0, acc⟩)
  else
    let w := s.provAt pa
    if pvSubset (w.cur ||| p) w.ceil then none else some ⟨9, va, 1, acc⟩

end Sys2Proof.Machine
end

