-- ==== Sys2Proof/Machine/Scalar.lean ====
section
/-! DEFINITION. Scalar arithmetic: SALU (R73, R74) and SIMM (R75). -/

namespace Sys2Proof.Machine

/-- A SALU form of two sources: the result with the union of the sources' sets and ctx (R67, R73). -/
def alu2 (f : RFmt) (op : Word → Word → Word) (s : State) : State :=
  retire (s.setS f.sd (op (s.getS f.sa) (s.getS f.sb)) (s.getP f.sa ||| s.getP f.sb ||| s.ctx))

/-- A SALU form of one source (R73). -/
def alu1 (f : RFmt) (op : Word → Word) (s : State) : State :=
  retire (s.setS f.sd (op (s.getS f.sa)) (s.getP f.sa ||| s.ctx))

/-- A SIMM form of one source and the immediate (R75). -/
def aluImm (f : IFmt) (op : Word → Word) (s : State) : State :=
  retire (s.setS f.sd (op (s.getS f.sa)) (s.getP f.sa ||| s.ctx))

/-- A truth value as a double. -/
def ofBool (b : Bool) : Word := if b then 1 else 0

/-- The shift amount b[5:0] (R73). -/
def shamt (b : Word) : Nat := b.toNat % 64

/-- The high 64 bits of the signed product (R73). -/
def mulHigh (a b : Word) : Word := (a.signExtend 128 * b.signExtend 128).extractLsb' 64 64
/-- The high 64 bits of the unsigned product (R73). -/
def mulHighU (a b : Word) : Word := (a.zeroExtend 128 * b.zeroExtend 128).extractLsb' 64 64

/-- Signed division rounded towards zero; all ones for b = 0, and -2^63 for -2^63 / -1 (R74). -/
def divS (a b : Word) : Word := if b == 0 then BitVec.allOnes 64 else a.sdiv b
/-- Unsigned division; all ones for b = 0 (R74). -/
def divU (a b : Word) : Word := if b == 0 then BitVec.allOnes 64 else a / b
/-- Signed remainder with the sign of a; a for b = 0, and 0 for -2^63 rem -1 (R74). -/
def remS (a b : Word) : Word := if b == 0 then a else a.srem b
/-- Unsigned remainder; a for b = 0 (R74). -/
def remU (a b : Word) : Word := if b == 0 then a else a % b

/-- Leading zeros; 64 for 0 (R73). -/
def clz64 (a : Word) : Word := if a == 0 then 64 else BitVec.ofNat 64 (63 - a.toNat.log2)
/-- Trailing zeros; 64 for 0 (R73). -/
def ctz64 (a : Word) : Word := if a == 0 then 64 else BitVec.ofNat 64 (a &&& (-a)).toNat.log2
/-- The set bits among the low `n` bits of a number. -/
def popCount (x : Nat) : Nat → Nat
  | 0 => 0
  | n + 1 => popCount x n + (if x.testBit n then 1 else 0)

/-- ADD (R73). -/
def execAdd (f : RFmt) (s : State) : Out := .next (alu2 f (fun a b => a + b) s)
/-- SUB (R73). -/
def execSub (f : RFmt) (s : State) : Out := .next (alu2 f (fun a b => a - b) s)
/-- AND (R73). -/
def execAnd (f : RFmt) (s : State) : Out := .next (alu2 f (fun a b => a &&& b) s)
/-- OR (R73). -/
def execOr (f : RFmt) (s : State) : Out := .next (alu2 f (fun a b => a ||| b) s)
/-- XOR (R73). -/
def execXor (f : RFmt) (s : State) : Out := .next (alu2 f (fun a b => a ^^^ b) s)
/-- ANDN (R73). -/
def execAndn (f : RFmt) (s : State) : Out := .next (alu2 f (fun a b => a &&& ~~~b) s)
/-- SLL (R73). -/
def execSll (f : RFmt) (s : State) : Out := .next (alu2 f (fun a b => a <<< shamt b) s)
/-- SRL (R73). -/
def execSrl (f : RFmt) (s : State) : Out := .next (alu2 f (fun a b => a >>> shamt b) s)
/-- SRA (R73). -/
def execSra (f : RFmt) (s : State) : Out := .next (alu2 f (fun a b => a.sshiftRight (shamt b)) s)
/-- MUL (R73). -/
def execMul (f : RFmt) (s : State) : Out := .next (alu2 f (fun a b => a * b) s)
/-- MULH (R73). -/
def execMulh (f : RFmt) (s : State) : Out := .next (alu2 f mulHigh s)
/-- MULHU (R73). -/
def execMulhu (f : RFmt) (s : State) : Out := .next (alu2 f mulHighU s)
/-- DIV (R73, R74). -/
def execDiv (f : RFmt) (s : State) : Out := .next (alu2 f divS s)
/-- DIVU (R73, R74). -/
def execDivu (f : RFmt) (s : State) : Out := .next (alu2 f divU s)
/-- REM (R73, R74). -/
def execRem (f : RFmt) (s : State) : Out := .next (alu2 f remS s)
/-- REMU (R73, R74). -/
def execRemu (f : RFmt) (s : State) : Out := .next (alu2 f remU s)
/-- MIN (R73). -/
def execMin (f : RFmt) (s : State) : Out := .next (alu2 f (fun a b => if b.slt a then b else a) s)
/-- MAX (R73). -/
def execMax (f : RFmt) (s : State) : Out := .next (alu2 f (fun a b => if a.slt b then b else a) s)
/-- MINU (R73). -/
def execMinu (f : RFmt) (s : State) : Out := .next (alu2 f (fun a b => if b.ult a then b else a) s)
/-- MAXU (R73). -/
def execMaxu (f : RFmt) (s : State) : Out := .next (alu2 f (fun a b => if a.ult b then b else a) s)
/-- SLT (R73). -/
def execSlt (f : RFmt) (s : State) : Out := .next (alu2 f (fun a b => ofBool (a.slt b)) s)
/-- SLTU (R73). -/
def execSltu (f : RFmt) (s : State) : Out := .next (alu2 f (fun a b => ofBool (a.ult b)) s)
/-- CLZ (R73). -/
def execClz (f : RFmt) (s : State) : Out := .next (alu1 f clz64 s)
/-- CTZ (R73). -/
def execCtz (f : RFmt) (s : State) : Out := .next (alu1 f ctz64 s)
/-- POPC (R73). -/
def execPopc (f : RFmt) (s : State) : Out := .next (alu1 f (fun a => BitVec.ofNat 64 (popCount a.toNat 64)) s)
/-- SEL (R73): a if c is not 0, else b; all three sets join (R67). -/
def execSel (f : RFmt) (s : State) : Out :=
  .next (retire (s.setS f.sd (if s.getS f.sc != 0 then s.getS f.sa else s.getS f.sb)
    (s.getP f.sa ||| s.getP f.sb ||| s.getP f.sc ||| s.ctx)))

/-- ADDI (R75). -/
def execAddi (f : IFmt) (s : State) : Out := .next (aluImm f (fun a => a + sext64 f.imm) s)
/-- ANDI (R75). -/
def execAndi (f : IFmt) (s : State) : Out := .next (aluImm f (fun a => a &&& sext64 f.imm) s)
/-- ORI (R75). -/
def execOri (f : IFmt) (s : State) : Out := .next (aluImm f (fun a => a ||| sext64 f.imm) s)
/-- XORI (R75). -/
def execXori (f : IFmt) (s : State) : Out := .next (aluImm f (fun a => a ^^^ sext64 f.imm) s)
/-- SLLI (R75). -/
def execSlli (f : IFmt) (s : State) : Out := .next (aluImm f (fun a => a <<< (f.imm.toNat % 64)) s)
/-- SRLI (R75). -/
def execSrli (f : IFmt) (s : State) : Out := .next (aluImm f (fun a => a >>> (f.imm.toNat % 64)) s)
/-- SRAI (R75). -/
def execSrai (f : IFmt) (s : State) : Out := .next (aluImm f (fun a => a.sshiftRight (f.imm.toNat % 64)) s)
/-- SLTI (R75). -/
def execSlti (f : IFmt) (s : State) : Out := .next (aluImm f (fun a => ofBool (a.slt (sext64 f.imm))) s)
/-- SLTIU (R75): the extended immediate read unsigned. -/
def execSltiu (f : IFmt) (s : State) : Out := .next (aluImm f (fun a => ofBool (a.ult (sext64 f.imm))) s)
/-- LI (R75): the set is ctx. -/
def execLi (f : IFmt) (s : State) : Out := .next (retire (s.setS f.sd (sext64 f.imm) s.ctx))
/-- LIH (R75): the immediate above a[31:0]. -/
def execLih (f : IFmt) (s : State) : Out :=
  .next (aluImm f (fun a => f.imm ++ a.extractLsb' 0 32) s)

end Sys2Proof.Machine
end

