-- ==== Sys2Proof/Machine/ScalarMem.lean ====
section
/-! DEFINITION. Scalar loads, stores and watched loads (R77-R80), and scalar atomics (R356-R358). -/

namespace Sys2Proof.Machine

/-- The address of an SMEM or SAMO access (R77, R356). -/
def memAddr (f : MFmt) (s : State) : Word := s.getS f.sa + sext64 f.imm

/-- A loaded number of `n` bytes, sign- or zero-extended (R78). -/
def extendLoad (n : Nat) (signed : Bool) (x : Nat) : Word :=
  if signed then BitVec.ofInt 64 (sint (8 * n) x) else BitVec.ofNat 64 x

/-- The set that a load from an address carries: that of the remote copy it hits, else the page's current set (R436). -/
def State.loadPv (s : State) (pa : Nat) : PvSet :=
  if s.inPeer pa then (match s.remoteCopy pa with | some c => c.pv | none => s.curAt pa) else s.curAt pa

/-- A load of `n` bytes (R77-R79). -/
def loadScalar (f : MFmt) (n : Nat) (signed acq : Bool) (s : State) : State :=
  let ea := memAddr f s
  if ea.toNat % n != 0 then scalarTrap ⟨7, ea, 0, 2⟩ s
  else
    match access ea n .read 2 true s with
    | .trap t => scalarTrap t (touch ea .read s)
    | .wait w => waitFor w s
    | .ok pa t =>
      let t := t.addCtx (s.getP f.sa)
      let t := if acq then acquireAt f.scope.toNat (pa / 128) t else t
      retire (t.setS f.sd (extendLoad n signed (t.loadNum pa n)) (t.loadPv pa ||| t.ctx))

/-- A store of `n` bytes (R77-R79); a release first waits for the watch table (R104). -/
def storeScalar (f : MFmt) (n : Nat) (rel : Bool) (s : State) : State :=
  watchGateIf rel (fun s =>
    let ea := memAddr f s
    if ea.toNat % n != 0 then scalarTrap ⟨7, ea, 0, 3⟩ s
    else
      match access ea n .write 3 false s with
      | .trap t => scalarTrap t (touch ea .write s)
      | .wait w => waitFor w s
      | .ok pa t =>
        let t := t.addCtx (s.getP f.sa)
        let p := s.getP f.sd ||| t.ctx
        match writeCheck ea pa p 3 t with
        | some e => scalarTrap e (touch ea .write s)
        | none =>
          let t := if rel then releaseAt f.scope.toNat (pa / 128) t else t
          retire (storePa pa (toLeBytes n (s.getS f.sd).toNat) p t)) s

/-- LB (R78). -/
def execLb (f : MFmt) (o : Bool) (s : State) : Out := .next (loadScalar f 1 true o s)
/-- LBU (R78). -/
def execLbu (f : MFmt) (o : Bool) (s : State) : Out := .next (loadScalar f 1 false o s)
/-- LH (R78). -/
def execLh (f : MFmt) (o : Bool) (s : State) : Out := .next (loadScalar f 2 true o s)
/-- LHU (R78). -/
def execLhu (f : MFmt) (o : Bool) (s : State) : Out := .next (loadScalar f 2 false o s)
/-- LW (R78). -/
def execLw (f : MFmt) (o : Bool) (s : State) : Out := .next (loadScalar f 4 true o s)
/-- LWU (R78). -/
def execLwu (f : MFmt) (o : Bool) (s : State) : Out := .next (loadScalar f 4 false o s)
/-- LD (R78). -/
def execLd (f : MFmt) (o : Bool) (s : State) : Out := .next (loadScalar f 8 true o s)
/-- SB (R78). -/
def execSb (f : MFmt) (o : Bool) (s : State) : Out := .next (storeScalar f 1 o s)
/-- SH (R78). -/
def execSh (f : MFmt) (o : Bool) (s : State) : Out := .next (storeScalar f 2 o s)
/-- SW (R78). -/
def execSw (f : MFmt) (o : Bool) (s : State) : Out := .next (storeScalar f 4 o s)
/-- SD (R78). -/
def execSd (f : MFmt) (o : Bool) (s : State) : Out := .next (storeScalar f 8 o s)

/-! ### Watched loads (R80, R131, R447, R448, R451) -/

/-- The copy in the core's slice that a watched load takes: a ghost or a remote copy filled at most 2^24 clk ago
(R80, R451); otherwise it reads the home. -/
def State.watchCopy (s : State) (pa : Nat) : Option Copy :=
  s.core.copies.find? fun c => c.line == s.lineOf pa && (c.state == .ghost || c.state == .remote) &&
    decide ((s.clk - c.filled).toNat <= 2 ^ 24)

/-- A byte as a watched load reads it. -/
def State.watchByte (s : State) (pa : Nat) : Byte :=
  match s.watchCopy pa with
  | some c => BitVec.ofNat 8 (bitsAt c.data (pa % 128 * 8) 8)
  | none => s.homeByte pa

/-- `n` bytes as a watched load reads them. -/
def State.watchNum (s : State) (pa : Nat) : Nat → Nat
  | 0 => 0
  | n + 1 => (s.watchByte pa).toNat + 256 * s.watchNum (pa + 1) n

/-- The set that a watched load's data carries (R454). -/
def State.watchPv (s : State) (pa : Nat) : PvSet :=
  match s.watchCopy pa with
  | some c => c.pv
  | none => s.curAt pa

/-- The check of one line over its footprint sectors, with the versions and stamp of the copy that supplied the data,
or of the home (R448); a valid copy's versions are the home's (R327, log entry 69). -/
def State.lineCheck (s : State) (line : Nat) (sectors : List Nat) : WatchLine :=
  match s.watchCopy (line * 128) with
  | some c => ⟨line, sectors.map fun x => ⟨x, (c.vers[x % 4]?).getD 0⟩, c.stamp, c.filled, .unsent⟩
  | none =>
    let own (x : Nat) : WatchSector := ⟨x, (s.sectorAt x).ver⟩
    match s.core.copies.find? fun c => c.line == line && c.state == .valid with
    | some c => ⟨line, sectors.map own, c.stamp, c.filled, .unsent⟩
    | none => ⟨line, sectors.map own, s.stampAt line, s.clk, .unsent⟩

/-- The sectors of a footprint gathered by line, lines rising (R447, R448). -/
def gatherLines (l : List Nat) : List (Nat × List Nat) :=
  l.foldl (fun acc x =>
    let line := x / 4
    let old := ((findBy Prod.fst line acc).getD (line, [])).2
    putBy Prod.fst (line, if old.contains x then old else old ++ [x]) acc) []

/-- The watch entry of a footprint of sectors (R447). -/
def State.makeEntry (s : State) (base stride : Word) (count width : Nat) (sectors : List Nat) : WatchEntry :=
  { base := base, stride := stride, count := count, width := width, state := .pending, pv := pvEmpty,
    lines := (gatherLines sectors).map fun l => s.lineCheck l.1 l.2, made := s.clk }

/-- WFULL counts one more watched load without an entry, up to its maximum (R68, R80). -/
def countFull (s : State) : State :=
  s.mapCsr fun c => { c with wfull := if c.wfull == BitVec.allOnes 64 then c.wfull else c.wfull + 1 }

/-- A watched load of `n` bytes (R80). -/
def watchScalar (i : Instr) (f : MFmt) (n : Nat) (s : State) : State :=
  gated i (fun s =>
    let ea := memAddr f s
    if ea.toNat % n != 0 then scalarTrap ⟨7, ea, 0, 5⟩ s
    else
      match access ea n .read 5 true s with
      | .trap t => scalarTrap t (touch ea .read s)
      | .wait w => waitFor w s
      | .ok pa t =>
        let t := t.addCtx (s.getP f.sa)
        if t.inHost pa then retire (t.setS f.sd (extendLoad n true (t.loadNum pa n)) (t.loadPv pa ||| t.ctx))
        else if t.hart.watch.length >= 32 then
          retire (countFull (t.setS f.sd (extendLoad n true (t.loadNum pa n)) (t.loadPv pa ||| t.ctx)))
        else
          let e := t.makeEntry ea 0 1 n [t.place pa / 32]
          let v := extendLoad n true (t.watchNum pa n)
          let p := t.watchPv pa
          let t := t.mapHart fun h => { h with watch := h.watch ++ [e] }
          retire (t.setS f.sd v (p ||| t.ctx))) s

/-- WLD.b (R80). -/
def execWldB (f : MFmt) (s : State) : Out := .next (watchScalar (.wldB f) f 1 s)
/-- WLD.h (R80). -/
def execWldH (f : MFmt) (s : State) : Out := .next (watchScalar (.wldH f) f 2 s)
/-- WLD.w (R80). -/
def execWldW (f : MFmt) (s : State) : Out := .next (watchScalar (.wldW f) f 4 s)
/-- WLD.d (R80). -/
def execWldD (f : MFmt) (s : State) : Out := .next (watchScalar (.wldD f) f 8 s)

/-! ### Scalar atomics (R357, R358) -/

/-- The atomic operations of the SAMO numbering (R47), 10 being compare-and-swap. -/
def amoNew (op w old b c : Nat) : Option Nat :=
  let b := b % 2 ^ w
  match op with
  | 1 => some ((old + b) % 2 ^ w)
  | 2 => some (old &&& b)
  | 3 => some (old ||| b)
  | 4 => some (old ^^^ b)
  | 5 => some (if sint w b < sint w old then b else old)
  | 6 => some (if sint w old < sint w b then b else old)
  | 7 => some (if b < old then b else old)
  | 8 => some (if old < b then b else old)
  | 9 => some b
  | _ => if old == b then some (c % 2 ^ w) else none

/-- Host memory takes FetchAdd, Swap and CAS only (R358). -/
def hostAmo (op : Nat) : Bool := op == 1 || op == 9 || op == 10

/-- What an atomic does beyond its location, at its scope (R347, R357): a release where it writes, a release fence where a
compare-and-swap does not, and an acquire. -/
def orderAmo (writes aq rl : Bool) (scope line : Nat) (s : State) : State :=
  let s := if rl then (if writes then releaseAt scope line s else releaseFence scope s) else s
  if aq then acquireAt scope line s else s

/-- The result of an atomic whose location held `old` (R357). -/
def finishAmo (f : MFmt) (n pa old : Nat) (p : PvSet) (s : State) : State :=
  retire (s.setS f.sd (extendLoad n true old) (s.curAt pa ||| p))

/-- An atomic on the package's own memory (R357, R358). -/
def localAmo (f : MFmt) (r : AmoReq) (aq rl : Bool) (pa : Nat) (s : State) : State :=
  let old := s.homeNum pa r.n
  let m := amoNew r.op (8 * r.n) old r.b.toNat r.c.toNat
  let s := orderAmo m.isSome aq rl f.scope.toNat (pa / 128) s
  finishAmo f r.n pa old r.pv (storeAtomic pa r.n (m.map (toLeBytes r.n)) r.pv s)

/-- The Mladzar port by which a packet for a line reaches a peer: one of the set in the route table, which a hash of the line chooses (R476). -/
def State.portTo (s : State) (pkg line : Nat) : Nat :=
  let l := ((findBy Prod.fst pkg s.routes).getD (pkg, [])).2
  (l[Config.portHash line % l.length]?).getD 0

/-- The operation packet of a request to a peer (R477). Its tag is the key of the hart (log entry 77). -/
def amoPacket (who : HartId) (r : AmoReq) (pa : Nat) : List Byte :=
  toLeBytes 1 3 ++ toLeBytes 1 r.op ++ toLeBytes 1 (if r.n == 8 then 3 else 2) ++ toLeBytes 1 0 ++ toLeBytes 2 r.pv.toNat
    ++ toLeBytes 2 (hidKey who) ++ toLeBytes 8 pa ++ toLeBytes 8 r.b.toNat ++ toLeBytes 8 (if r.op == 10 then r.c.toNat else 0)

/-- The packet of a request to a peer leaves on its port (R476, R477); one to the host window is the host link's own. -/
def sendPacket (r : AmoReq) (pa : Nat) (s : State) : State :=
  if s.inPeer pa then { s with sent := .packet (s.portTo (paPkg pa) (pa / 128)) (amoPacket s.hart.id r pa) :: s.sent } else s

/-- A request for an atomic outside the package leaves: what its release does comes first, and the hart waits (R347, R358). -/
def sendAmo (r : AmoReq) (rl : Bool) (scope pa : Nat) (s : State) : State :=
  let s := if rl then releaseAt scope (pa / 128) (if r.op == 10 then releaseFence scope s else s) else s
  waitFor .remote ((sendPacket r pa s).mapHart fun h => { h with remote := some ⟨pa, r, none, none, pvEmpty, s.clk⟩ })

/-- The operation of a request is performed at its home, whose location held `old` (R339, R358, R477): every copy of the line in the
package ends, and the location holds the new value, or what the home answered. -/
def performRemote (r : Remote) (old : Word) (s : State) : State :=
  let v := old.toNat % 2 ^ (8 * r.req.n)
  let s := growCur r.addr r.cur s
  match amoNew r.req.op (8 * r.req.n) v r.req.b.toNat r.req.c.toNat with
  | some m => storeAtomic r.addr r.req.n (some (toLeBytes r.req.n m)) r.req.pv s
  | none => landBytes r.addr (toLeBytes r.req.n v) (storeAtomic r.addr r.req.n none r.req.pv s)

/-- A request without an answer has been performed at its home or not, as the free order chooses, and whether it has (R423, R477; log
entry 7). -/
def remoteMaybe (r : Remote) (s : State) : Bool × State :=
  let (k, s) := s.nextFree
  if Config.orderKey k 0 % 2 == 1 then (true, performRemote r (BitVec.ofNat 64 (s.homeNum r.addr r.req.n)) s) else (false, s)

/-- A compare-and-swap with a release that does not write is a release fence, and waits as one does (R357, R359, R360); one outside the
package, whose outcome is not known yet, waits too. -/
def casGate (on : Bool) (f : State → State) (s : State) : State := if on then fenceGate true true f s else f s

/-- An atomic of the scalar unit has been answered (R357, R358): it completes without another translation, or raises the data-error trap at
`ea` once the posted work is done. -/
def amoAnswered (ea : Word) (acc : Nat) (q : Remote) (done : Word → State → State) (s : State) : State :=
  match q.failed, q.answer with
  | some x, _ => if s.postedDone then trapAt ⟨20, ea, x, acc⟩ (s.mapHart fun h => { h with remote := none }) else waitFor .drain s
  | none, some old => done old (s.mapHart fun h => { h with remote := none })
  | none, none => waitFor .remote s

/-- A scalar atomic (R356-R358): on own memory at once; on a peer's memory or the host window the request goes out,
the hart waits, and the answer, at which the home has performed it, completes it or raises the data-error trap. -/
def amoScalar (i : Instr) (f : MFmt) (op : Nat) (d aq rl : Bool) (s : State) : State :=
  let n := if d then 8 else 4
  let ea := memAddr f s
  match s.hart.remote with
  | some q =>
    amoAnswered ea 4 q (fun old t =>
      finishAmo f n q.addr (old.toNat % 2 ^ (8 * n)) q.req.pv
        (orderAmo true aq false f.scope.toNat (q.addr / 128) (t.addCtx (s.getP f.sa)))) s
  | none =>
    watchGateIf rl (fun s =>
      if ea.toNat % n != 0 then scalarTrap ⟨7, ea, 0, 4⟩ s
      else
        match access ea n .write 4 true s with
        | .trap t => scalarTrap t (touch ea .write s)
        | .wait w => waitFor w s
        | .ok pa t =>
          let t := t.addCtx (s.getP f.sa)
          let p := s.getP f.sb ||| (if op == 10 then s.getP f.sc else pvEmpty) ||| t.ctx
          if t.inHost pa && !hostAmo op then scalarTrap ⟨17, encode i, 3, 4⟩ s
          else
            match writeCheck ea pa p 4 t with
            | some e => scalarTrap e (touch ea .write s)
            | none =>
              let r : AmoReq := ⟨op, n, s.getS f.sb, s.getS f.sc, p⟩
              let far := t.inHost pa || t.inPeer pa
              let writes := (amoNew op (8 * n) (t.homeNum pa n) r.b.toNat r.c.toNat).isSome
              casGate (op == 10 && rl && (far || !writes))
                (fun t => if far then sendAmo r rl f.scope.toNat pa t else localAmo f r aq rl pa t) t) s

/-- AMOADD (R357). -/
def execAmoadd (f : MFmt) (d aq rl : Bool) (s : State) : Out := .next (amoScalar (.amoadd f d aq rl) f 1 d aq rl s)
/-- AMOAND (R357). -/
def execAmoand (f : MFmt) (d aq rl : Bool) (s : State) : Out := .next (amoScalar (.amoand f d aq rl) f 2 d aq rl s)
/-- AMOOR (R357). -/
def execAmoor (f : MFmt) (d aq rl : Bool) (s : State) : Out := .next (amoScalar (.amoor f d aq rl) f 3 d aq rl s)
/-- AMOXOR (R357). -/
def execAmoxor (f : MFmt) (d aq rl : Bool) (s : State) : Out := .next (amoScalar (.amoxor f d aq rl) f 4 d aq rl s)
/-- AMOMIN (R357). -/
def execAmomin (f : MFmt) (d aq rl : Bool) (s : State) : Out := .next (amoScalar (.amomin f d aq rl) f 5 d aq rl s)
/-- AMOMAX (R357). -/
def execAmomax (f : MFmt) (d aq rl : Bool) (s : State) : Out := .next (amoScalar (.amomax f d aq rl) f 6 d aq rl s)
/-- AMOMINU (R357). -/
def execAmominu (f : MFmt) (d aq rl : Bool) (s : State) : Out := .next (amoScalar (.amominu f d aq rl) f 7 d aq rl s)
/-- AMOMAXU (R357). -/
def execAmomaxu (f : MFmt) (d aq rl : Bool) (s : State) : Out := .next (amoScalar (.amomaxu f d aq rl) f 8 d aq rl s)
/-- AMOSWAP (R357). -/
def execAmoswap (f : MFmt) (d aq rl : Bool) (s : State) : Out := .next (amoScalar (.amoswap f d aq rl) f 9 d aq rl s)
/-- AMOCAS (R357). -/
def execAmocas (f : MFmt) (d aq rl : Bool) (s : State) : Out := .next (amoScalar (.amocas f d aq rl) f 10 d aq rl s)

end Sys2Proof.Machine
end

