-- ==== Sys2Proof/Machine/Control.lean ====
section
/-! DEFINITION. Branches and jumps (R81, R82, R27). -/

namespace Sys2Proof.Machine

/-- The offset field in bytes: imm32 x 8, signed (R33). -/
def offset8 (imm : BitVec 32) : Word := sext64 imm * 8

/-- A transfer: the pc takes the target, or, when the target is not a multiple of 8, the instruction-misaligned trap
is raised after the instruction's other effects, with the pc unchanged (R27); the instruction has completed and is
counted. `s0` is the state before the instruction, in which it waits for earlier matrix work (R415). -/
def jumpTo (target : Word) (s0 s : State) : State :=
  if target.toNat % 8 != 0 then
    if !s0.postedDone then waitFor .drain s0 else trapAt ⟨2, target, 0, 0⟩ (s.mapCsr fun c => { c with instret := c.instret + 1 })
  else (retire s).mapHart fun h => { h with pc := target, fetchTaken := true }

/-- A branch on a condition over two scalar registers (R81); ctx gains both sets, taken or not. -/
def branch (f : BFmt) (c : Word → Word → Bool) (s : State) : State :=
  let t := s.addCtx (s.getP f.sa ||| s.getP f.sb)
  if c (s.getS f.sa) (s.getS f.sb) then jumpTo (s.hart.pc + offset8 f.imm) s t else retire t

/-- The mask register of a 3-bit field. -/
def Hart.mreg (h : Hart) (r : Nat) : BReg := h.vec.m.get ⟨r % 8, Nat.mod_lt _ (by decide)⟩

/-- A branch on the bits of a mask below vl (R49, R81); ctx gains the sets of the mask and of VL. -/
def maskBranch (f : BFmt) (onSet : Bool) (s : State) : State :=
  let m := s.hart.mreg (f.sb.toNat % 8)
  let t := s.addCtx (m.pv ||| s.hart.csrPv 1)
  let any := m.bits % 2 ^ s.hart.csr.vl != 0
  if any == onSet then jumpTo (s.hart.pc + offset8 f.imm) s t else retire t

/-- BEQ (R81). -/
def execBeq (f : BFmt) (s : State) : Out := .next (branch f (fun a b => a == b) s)
/-- BNE (R81). -/
def execBne (f : BFmt) (s : State) : Out := .next (branch f (fun a b => a != b) s)
/-- BLT (R81). -/
def execBlt (f : BFmt) (s : State) : Out := .next (branch f (fun a b => a.slt b) s)
/-- BGE (R81). -/
def execBge (f : BFmt) (s : State) : Out := .next (branch f (fun a b => !a.slt b) s)
/-- BLTU (R81). -/
def execBltu (f : BFmt) (s : State) : Out := .next (branch f (fun a b => a.ult b) s)
/-- BGEU (R81). -/
def execBgeu (f : BFmt) (s : State) : Out := .next (branch f (fun a b => !a.ult b) s)
/-- BMZ (R81). -/
def execBmz (f : BFmt) (s : State) : Out := .next (maskBranch f false s)
/-- BMNZ (R81). -/
def execBmnz (f : BFmt) (s : State) : Out := .next (maskBranch f true s)

/-- JAL (R82): the link carries ctx. -/
def execJal (f : BFmt) (s : State) : Out :=
  .next (jumpTo (s.hart.pc + offset8 f.imm) s (s.setS f.sd (s.hart.pc + 8) s.ctx))

/-- JALR (R82): the target is computed, and ctx grows, before the link write. -/
def execJalr (f : BFmt) (s : State) : Out :=
  let target := s.getS f.sa + offset8 f.imm
  let t := s.addCtx (s.getP f.sa)
  .next (jumpTo target s (t.setS f.sd (s.hart.pc + 8) t.ctx))

end Sys2Proof.Machine
end

