-- ==== Sys2Proof/Machine/System.lean ====
section
/-! DEFINITION. System instructions (R83-R87), control registers (R68-R70), returns and ends of harts (R85), and the
writes of control registers as steps of their own. -/

namespace Sys2Proof.Machine

/-! ### Control registers -/

/-- Access of a mode to a control register (R68). -/
inductive CsrAccess where
  | none | ro | rw
deriving DecidableEq, Repr

/-- The access columns of R68: user, supervisor, hypervisor; no entry for a number that is not listed. -/
def csrAccess (n : Nat) : Option (CsrAccess × CsrAccess × CsrAccess) :=
  match n with
  | 0x001 | 0x002 | 0x008 | 0x009 | 0x010 | 0x011 | 0x012 | 0x013 | 0x014 | 0x015 => some (.ro, .ro, .ro)
  | 0x003 | 0x004 | 0x005 | 0x006 | 0x007 | 0x00A | 0x00B | 0x00D => some (.rw, .rw, .rw)
  | 0x00C => some (.ro, .rw, .rw)
  | 0x100 | 0x101 | 0x102 | 0x103 | 0x104 | 0x105 | 0x106 | 0x107 => some (.none, .rw, .rw)
  | 0x200 | 0x201 | 0x202 | 0x203 | 0x204 | 0x205 => some (.none, .none, .rw)
  | 0x206 => some (.none, .ro, .rw)
  | _ => none

/-- The fate of an access (R69): illegal instruction, privilege, or permitted. -/
def csrCheck (n : Nat) (m : Mode) (write : Bool) : Option Nat :=
  match csrAccess n with
  | none => some 1
  | some (u, v, h) =>
    let a := match m with | .user => u | .supervisor => v | .hypervisor => h
    if a == .none then some 4
    else if write && a == .ro then (if h == .rw || v == .rw then some 4 else some 1)
    else none

/-- The storage-level code of VSTAT and SETVL: 1, 2, 3 for levels 1, 2, 4 (R70, R88). -/
def levelCode (level : Nat) : Nat := if level == 4 then 3 else level
/-- The storage level of a code (R88). -/
def levelOf (code : Nat) : Nat := if code == 3 then 4 else code

/-- The VSTAT word (R70). -/
def State.vstat (s : State) : Word :=
  let c := s.hart.csr
  BitVec.ofNat 64 ((if c.vlcut then 128 else 0) + levelCode s.core.level * 16 + c.g.toNat * 4 + c.sew.toNat)

/-- The HARTID word (R70). -/
def State.hartid (s : State) : Word := BitVec.ofNat 64 (s.pkg * 4096 + s.hart.core * 8 + s.hart.ix)

/-- The number of parties in the roster of the hart's partition (R433). -/
def State.roster (s : State) : Nat := match s.part with | some p => p.roster.length | none => 0

/-- The partition that the selector of a hypervisor hart names (R473). -/
def State.selPart (s : State) : Option Part := findBy Part.num s.hart.csr.partSel s.parts

/-- Reads a control register (R68, R70, R473). -/
def csrRead (n : Nat) (s : State) : Word :=
  let h := s.hart
  let c := h.csr
  match n with
  | 0x001 => BitVec.ofNat 64 c.vl
  | 0x002 => s.vstat
  | 0x003 => c.fstat.zeroExtend 64
  | 0x004 => c.frm.zeroExtend 64
  | 0x005 => c.srstate
  | 0x006 => c.segmask.zeroExtend 64
  | 0x007 => c.mshout
  | 0x008 => c.xcnt2
  | 0x009 => c.wstruck.zeroExtend 64
  | 0x00A => c.wfull
  | 0x00B => ofBool c.tplost
  | 0x00C => h.ctx.zeroExtend 64
  | 0x00D => c.evaddr
  | 0x010 => s.hartid
  | 0x011 => BitVec.ofNat 64 (4 * h.laneN)
  | 0x012 => c.argaddr
  | 0x013 => s.clk
  | 0x014 => c.instret
  | 0x015 => BitVec.ofNat 64 s.roster
  | 0x100 => c.tr.cause
  | 0x101 => c.tr.info
  | 0x102 => c.tr.pc
  | 0x103 => c.tr.status
  | 0x104 => c.tvec
  | 0x105 => c.sscratch
  | 0x106 => c.ptroot
  | 0x107 => c.evtimer
  | 0x200 => match s.selPart with | some p => p.hfmask.zeroExtend 64 | none => 0
  | 0x201 => c.htr.cause
  | 0x202 => c.htr.info
  | 0x203 => c.htr.pc
  | 0x204 => c.htr.status
  | 0x205 => match s.selPart with | some p => p.htvec | none => 0
  | 0x206 => BitVec.ofNat 64 (if h.mode == .hypervisor then c.partSel else s.partNum)
  | _ => 0

/-- The set that a read of a control register carries, before ctx (R70). -/
def csrReadPv (n : Nat) (s : State) : PvSet :=
  match n with
  | 0x200 => match s.selPart with | some p => p.hfmaskPv | none => pvEmpty
  | 0x205 => match s.selPart with | some p => p.htvecPv | none => pvEmpty
  | _ => s.hart.csrPv n

/-- A write of EVADDR (R86): a nonzero value is translated as a load, and its physical line is watched. -/
def writeEvaddr (v : Word) (s : State) : Except TrapRec State :=
  if v == 0 then .ok (s.mapCsr fun c => { c with evaddr := 0, evline := none })
  else
    match xlat v .read s with
    | .error e => .error (walkTrap v 2 e)
    | .ok (pa, _, t) => .ok (t.mapCsr fun c => { c with evaddr := v, evline := some (pa / 128) })

/-- A write of EVTIMER (R86): a nonzero value arms a one-shot event, raised at once when CLK has reached it. -/
def writeEvtimer (v : Word) (s : State) : State :=
  let due := v != 0 && v.ule s.clk
  s.mapHart fun h => { h with csr := { h.csr with evtimer := v, timerArmed := v != 0 && !due }, event := h.event || due }

/-- A write of the PVCTX control register (R101): a party at or above ROSTER raises the provenance trap. The set that the
register carries is kept apart from the context set it holds, as of every control register (R70). -/
def writePvctx (v : Word) (info : Word) (s : State) : Except TrapRec State :=
  let c : PvSet := v.extractLsb' 0 16
  if c.toNat / 2 ^ s.roster != 0 then .error ⟨9, info, 2, 0⟩
  else .ok (s.mapHart fun h => { h with ctx := c })

/-- A write of HFMASK reaches the partition that the selector names (R473). -/
def writeHfmask (v : Word) (p : PvSet) (s : State) : State :=
  match s.selPart with
  | some q => { s with parts := putBy Part.num { q with hfmask := v.extractLsb' 0 7, hfmaskPv := p } s.parts }
  | none => s

/-- A write of HTVEC reaches the partition that the selector names (R474). -/
def writeHtvec (v : Word) (p : PvSet) (s : State) : State :=
  match s.selPart with
  | some q => { s with parts := putBy Part.num { q with htvec := v &&& ~~~7, htvecPv := p } s.parts }
  | none => s

/-- A write of PARTID selects a partition that exists (R473). -/
def writePartid (v : Word) (s : State) : State :=
  if (findBy Part.num v.toNat s.parts).isSome then s.mapCsr fun c => { c with partSel := v.toNat } else s

/-- A write of TRAPSTATUS or HTRAPSTATUS (R411): zero fields ignored, FR kept, an illegal PM kept. -/
def statusWrite (hyp : Bool) (byHyp : Bool) (old v : Word) : Word :=
  let pm := v.extractLsb' 0 2
  let keep := pm == 3 || (!hyp && !byHyp && pm == 2)
  let mask : Word := 0xF0FF18
  (v &&& mask) ||| (old &&& 4) ||| (if keep then old &&& 3 else v &&& 3)

/-- Writes TRAPSTATUS or HTRAPSTATUS (R411). -/
def writeStatus (hyp : Bool) (v : Word) (s : State) : State :=
  let byHyp := s.hart.mode == .hypervisor
  s.mapCsr fun c =>
    if hyp then { c with htr := { c.htr with status := statusWrite true byHyp c.htr.status v } }
    else { c with tr := { c.tr with status := statusWrite false byHyp c.tr.status v } }

/-- Writes a control register that has no behaviour of its own (R70). -/
def writePlain (n : Nat) (v : Word) (s : State) : State :=
  s.mapCsr fun c =>
    match n with
    | 0x003 => { c with fstat := v.extractLsb' 0 6 }
    | 0x004 => if 6 <= (v.extractLsb' 0 3).toNat then c else { c with frm := v.extractLsb' 0 3 }
    | 0x005 => { c with srstate := v }
    | 0x006 => { c with segmask := v.extractLsb' 0 3 }
    | 0x007 => { c with mshout := v }
    | 0x00A => { c with wfull := v }
    | 0x00B => if v.getLsbD 0 then c else { c with tplost := false }
    | 0x100 => { c with tr := { c.tr with cause := v &&& 0xFF } }
    | 0x101 => { c with tr := { c.tr with info := v } }
    | 0x102 => { c with tr := { c.tr with pc := v } }
    | 0x104 => { c with tvec := v &&& ~~~7 }
    | 0x105 => { c with sscratch := v }
    | 0x106 => { c with ptroot := v &&& ~~~0xFFF }
    | 0x201 => { c with htr := { c.htr with cause := v &&& 0xFF } }
    | 0x202 => { c with htr := { c.htr with info := v } }
    | 0x203 => { c with htr := { c.htr with pc := v } }
    | _ => c

/-- Writes a control register with its set (R70, R86, R101, R411, R473, R474); `info` is what a refused PVCTX write
reports. -/
def csrWrite (n : Nat) (v info : Word) (p : PvSet) (s : State) : Except TrapRec State :=
  let put (t : State) : State := t.mapHart (·.setCsrPv n p)
  match n with
  | 0x00C => match writePvctx v info s with | .error e => .error e | .ok t => .ok (put t)
  | 0x00D => match writeEvaddr v s with | .error e => .error e | .ok t => .ok (put t)
  | 0x103 => .ok (put (writeStatus false v s))
  | 0x107 => .ok (put (writeEvtimer v s))
  | 0x200 => .ok (writeHfmask v p s)
  | 0x204 => .ok (put (writeStatus true v s))
  | 0x205 => .ok (writeHtvec v p s)
  | 0x206 => .ok (put (writePartid v s))
  | _ => .ok (put (writePlain n v s))

/-- A CSR form (R87): the old value to s[sd], then the new value, if it writes. Where sd = sa, the register takes the set that
s[sa] had before the instruction (log entry 65). -/
def csrForm (i : Instr) (f : IFmt) (write : Bool) (new : Word → Word → Word) (s : State) : State :=
  let n := f.imm.toNat % 4096
  match csrCheck n s.hart.mode write with
  | some c => scalarTrap ⟨c, encode i, 0, 0⟩ s
  | none =>
    let old := csrRead n s
    let t := s.setS f.sd old (csrReadPv n s ||| s.ctx)
    if write then
      match csrWrite n (new old (s.getS f.sa)) (s.getS f.sa) (s.getP f.sa ||| s.ctx) t with
      | .ok t => retire t
      | .error e => scalarTrap e s
    else retire t

/-- CSRRD (R87). -/
def execCsrrd (f : IFmt) (s : State) : Out := .next (csrForm (.csrrd f) f false (fun o _ => o) s)
/-- CSRWR (R87). -/
def execCsrwr (f : IFmt) (s : State) : Out := .next (csrForm (.csrwr f) f true (fun _ a => a) s)
/-- CSRSET (R87); with sa = s0 it performs no write (R69). -/
def execCsrset (f : IFmt) (s : State) : Out := .next (csrForm (.csrset f) f (f.sa != 0) (fun o a => o ||| a) s)
/-- CSRCLR (R87); with sa = s0 it performs no write (R69). -/
def execCsrclr (f : IFmt) (s : State) : Out := .next (csrForm (.csrclr f) f (f.sa != 0) (fun o a => o &&& ~~~a) s)

/-- A step that is a control-register write of the current hart: its effect, or the trap it raises at the pc once the work that the hart has
posted is done (R415). -/
def writeStep (n : Nat) (v : Word) (p : PvSet) (s : State) : State :=
  match csrWrite n v v p s with
  | .ok t => t
  | .error e => if s.postedDone then trapAt e s else s.mapHart fun h => { h with deferred := h.deferred ++ [e] }

/-- EVADDR_WRITE (R86). -/
def execEvaddrWrite (v : Word) (p : PvSet) (s : State) : Out := .next (writeStep 0x00D v p s)
/-- EVTIMER_WRITE (R86). -/
def execEvtimerWrite (v : Word) (p : PvSet) (s : State) : Out := .next (writeStep 0x107 v p s)
/-- PVCTX_CSR_WRITE (R70, R101). -/
def execPvctxCsrWrite (v : CsrValue) (s : State) : Out := .next (writeStep 0x00C v.value v.set s)
/-- HFMASK_WRITE (R473). -/
def execHfmaskWrite (v : Word) (p : PvSet) (s : State) : Out := .next (writeStep 0x200 v p s)
/-- HTVEC_WRITE (R474). -/
def execHtvecWrite (v : Word) (p : PvSet) (s : State) : Out := .next (writeStep 0x205 v p s)
/-- PARTID_WRITE (R473). -/
def execPartidWrite (v : Word) (p : PvSet) (s : State) : Out := .next (writeStep 0x206 v p s)
/-- TRAPSTATUS_WRITE (R411). -/
def execTrapstatusWrite (hyp : Bool) (v : Word) (p : PvSet) (s : State) : Out :=
  .next (writeStep (if hyp then 0x204 else 0x103) v p s)

/-- TIMER_EVENT (R86): CLK has reached the armed EVTIMER, and the flag is set once. -/
def execTimerEvent (who : HartId) (s : State) : Out :=
  .next (onHart who (fun s => s.mapHart fun h =>
    if h.csr.timerArmed && h.csr.evtimer.ule s.clk then
      { h with event := true, csr := { h.csr with timerArmed := false } } else h) s)

/-- EVADDR_LINE_WRITE (R86): another agent has written the watched line. -/
def execEvaddrLineWrite (who : HartId) (s : State) : Out :=
  .next (onHart who (fun s => s.mapHart fun h => if h.csr.evaddr != 0 then { h with event := true } else h) s)

/-! ### Calls, breakpoints, waits -/

/-- SCALL (R84): the system-call trap with the address + 8 saved; in hypervisor mode an illegal instruction. INSTRET does not
count it (log entry 65). -/
def execScall (f : IFmt) (s : State) : Out :=
  .next (if s.hart.mode == .hypervisor then scalarTrap (illegal (encode (.scall f))) s
    else if s.postedDone then deliver ⟨5, f.imm.zeroExtend 64, 0, 0⟩ (s.hart.pc + 8) s else waitFor .drain s)

/-- BRK (R84). -/
def execBrk (f : IFmt) (s : State) : Out := .next (scalarTrap ⟨6, f.imm.zeroExtend 64, 0, 0⟩ s)

/-- WFE (R86): completes when the event flag is set, clearing it. -/
def execWfe (s : State) : Out :=
  .next (if s.hart.event then retire (s.mapHart fun h => { h with event := false }) else waitFor .wfe s)

/-- NOP (R83). -/
def execNop (s : State) : Out := .next (retire s)

/-- FENCE (R344, R359, R360): an acquire fence orders the hart's earlier reads, a release or full one every earlier access, fills
and memory drains among them. -/
def execFence (f : IFmt) (s : State) : Out :=
  let scope := f.imm.toNat % 8
  let aq := f.imm.getLsbD 3
  let rl := f.imm.getLsbD 4
  let fl := f.imm.getLsbD 5
  .next (watchGateIf (rl || fl) (fenceGate true (rl || fl) (fun s =>
    let s := if rl || fl then releaseFence scope s else s
    let s := if aq || fl then acquireFence scope s else s
    retire s)) s)

/-- The lines of an instruction cache whose bytes are still those of memory. -/
def State.freshLines (s : State) (l : List ILine) : List ILine := l.filter fun x => x.data == s.homeNum (x.line * 128) 128

/-- IFENCE (R361): once the hart's earlier stores have been performed, memory drains among them, the core's instruction lines with a
byte written since go. -/
def execIfence (s : State) : Out :=
  .next (fenceGate false true (fun s => retire (s.mapCore fun c => { c with icache := s.freshLines c.icache })) s)

/-! ### ERET and the end of a hart (R85, R98, R141) -/

/-- Frames that waited for the spill handler that returns become resident again (R461): those of the traps that its mode has taken. -/
def settleFrames (s : State) : State := let m := s.hart.mode; endSpills (fun x => x == some m) s

/-- The handler's trap registers. -/
def State.handlerRegs (s : State) : TrapRegs :=
  if s.hart.mode == .hypervisor then s.hart.csr.htr else s.hart.csr.tr

/-- An ordinary return from the handler (R85, R411, R416, R456, R461, R473): the mode and the pc as recorded, NEST
cleared, the set-aside watch table reinstated, a held frame released to issue first. -/
def returnFrom (s : State) : State :=
  let r := s.handlerRegs
  let st := r.status &&& ~~~12
  let s := settleFrames s
  let h := s.hart
  let h := match h.mode with
    | .hypervisor => { h with csr := { h.csr with htr := { r with status := st }, partSel := s.partNum },
                              watch := h.asideH, asideH := [], arrival := h.asideBarH, asideBarH := none }
    | _ => { h with csr := { h.csr with tr := { r with status := st } }, watch := h.asideS, asideS := [],
                    arrival := h.asideBarS, asideBarS := none }
  let h := { h with heldBy := if h.heldBy == some h.mode then none else h.heldBy,
                    mode := Mode.ofCode (r.status.toNat % 4), pc := r.pc, fetchTaken := true, status := .running,
                    csr := { h.csr with instret := h.csr.instret + 1 } }
  { s with hart := h }

/-- An ordinary ERET, and the misaligned target's trap in the mode entered (R85). Where the hart still has posted work, the items
of a frame included, the trap waits for it (R415): the fetch at the target then raises it. -/
def eretOrdinary (s : State) : State :=
  let t := returnFrom s
  if t.hart.pc.toNat % 8 != 0 && t.postedDone then deliver ⟨2, t.hart.pc, 0, 0⟩ t.hart.pc t else t

/-- A child's end reaches its parent: the final context set is kept until the parent joins (R98). -/
def tellParent (s : State) : State :=
  let h := s.hart
  match h.parent with
  | none => s
  | some p =>
    let q := s.hartAt ⟨h.core, p⟩
    s.setHart { q with children := q.children.map fun c => if c.ix == h.ix then { c with done := some h.ctx } else c }

/-- A context that its hart has left (R85, R98, R403): free, with no queued work, watch table, tag or child, and with the
register values that it held, LANES among them, which stand until it is placed or forked again (R97, R271, R402; log entry 74). -/
def Hart.freed (h : Hart) : Hart :=
  { Hart.initial h.core h.ix with
    s := h.s, sp := h.sp, pc := h.pc, mode := h.mode, ctx := h.ctx, vec := h.vec, laneLo := h.laneLo, laneN := h.laneN, mstat := h.mstat, mset := h.mset,
    csr := { h.csr with evline := none, timerArmed := false } }

/-- A core without a hart's reef continuations (R246). -/
def Core.dropConts (ix : Nat) (c : Core) : Core :=
  { c with reef := { c.reef with conts := c.reef.conts.filter fun r => r.hart != ix } }

/-- The hart ends: a child releases at CORE scope and tells its parent, and the context is freed (R85, R98). -/
def endHart (s : State) : State :=
  let s := endSpills (fun _ => true) (tellParent s)
  { s with hart := s.hart.freed, core := s.core.dropConts s.hart.ix }

/-- The items that a hart holds in an opaque frame are discarded without effect, with the opcode that stood in the middle of one of them:
every continuation of the hart but one whose XOP has completed with MORE (R85, R246, R416, R417). -/
def discardHeld (s : State) : State :=
  let ix := s.hart.ix
  if s.hart.heldBy.isNone then s
  else
    (s.mapHart fun h => { h with queue := [], mq := [], heldBy := none }).mapCore fun c =>
      { c with reef := { c.reef with conts := c.reef.conts.filter fun r => !(r.hart == ix && r.phase != .more) } }

/-- The set-aside table of the handler in hand. -/
def Hart.aside (h : Hart) : List WatchEntry := if h.mode == .hypervisor then h.asideH else h.asideS

/-- ERET with EXIT set (R85): discards a held frame, waits for posted work, resolves the set-aside watch table as a release does, waits for
the live children, and ends the hart; an unexamined strike makes it return, and the instruction returned to raises
the unchecked-strike trap. -/
def exitHart (s : State) : State :=
  let s := discardHeld s
  if !s.postedDone || !s.hart.enginesDone then waitFor .drain s
  else if !resolved s.hart.aside then waitFor .watch s
  else
    let b := struckBits 0 s.hart.aside
    if b != 0 then
      let t := returnFrom s
      let t := t.mapCsr fun c =>
        if s.hart.mode == .hypervisor then { c with htr := { c.htr with status := c.htr.status &&& ~~~16 } }
        else { c with tr := { c.tr with status := c.tr.status &&& ~~~16 } }
      trapAt ⟨14, BitVec.ofNat 64 b, 0, 0⟩ t
    else if s.hart.children.any (fun c => c.done.isNone) then waitFor .exit s
    else endHart s

/-- ERET (R85): privilege trap in user mode; EXIT ends the hart; otherwise an ordinary return. -/
def execEret (s : State) : Out :=
  .next (if s.hart.mode == .user then scalarTrap (privilege (encode .eret)) s
    else if exitOf s.handlerRegs.status then exitHart s
    else eretOrdinary s)

/-- HART_EXIT (R85): the ending of a hart whose handler has set EXIT. -/
def execHartExit (s : State) : Out :=
  .next (if s.hart.mode != .user && exitOf s.handlerRegs.status then exitHart s else s)

/-- ILLEGAL_WORD (R50, R27, R53): the fate of the fetched word: misaligned pc, no instruction or a convoy bit out
of place, feature disabled, privilege, in that order. -/
def execIllegalWord (w : Word) (s : State) : Out :=
  .next (if s.hart.pc.toNat % 8 != 0 then decodeTrap ⟨2, s.hart.pc, 0, 1⟩ s
    else
      match decode w with
      | .error _ => decodeTrap (illegal w) s
      | .ok i =>
        if w.getLsbD 57 then decodeTrap (illegal w) s
        else
          match gate i s with
          | some t => decodeTrap t s
          | none => decodeTrap (illegal w) s)

end Sys2Proof.Machine
end

