-- ==== Sys2Proof/Machine/Configure.lean ====
section
/-! DEFINITION. Vector length, storage level and tags (R88-R95), FORK and JOIN (R96-R98). -/

namespace Sys2Proof.Machine

/-- Width of a width code: 8, 16, 32, 64 (R88). -/
def widthOf (c : Nat) : Nat := 8 * 2 ^ c
/-- Grouping of a grouping code: 1, 2, 4, 8 (R88). -/
def groupOf (c : Nat) : Nat := 2 ^ c
/-- The maximum vector length (R89). -/
def vlmax (sew g level : Nat) : Nat := 128 * level * (64 / widthOf sew) * groupOf g

/-- A hart's registers at a storage level: bits beyond the register size are lost (R91). -/
def VecFile.fit (level : Nat) (x : VecFile) : VecFile :=
  { x with v := x.v.map fun r => { r with img := r.img % 2 ^ (8192 * level) },
           m := x.m.map fun r => { r with bits := r.bits % 2 ^ (8192 * level) } }

/-- A fall of the level cuts a hart's vl and sets VLCUT (R91); the set of VL stays (log entry 74). -/
def Hart.cutVl (level : Nat) (h : Hart) : Hart :=
  let m := vlmax h.csr.sew.toNat h.csr.g.toNat level
  if m < h.csr.vl then { h with csr := { h.csr with vl := m, vlcut := true } } else h

/-- The copies in the ways that a storage level borrows are written back and invalidated (R90, R165). -/
def clearBorrowed (level : Nat) (s : State) : State := evictCopies (fun k => decide (16 - borrowedWays level <= k.way)) s

/-- The storage level of the current core changes (R90, R91); `self` is the hart whose SETVL changes it. On a rise the copies in the
ways to be borrowed are written back and invalidated (R165); tidepool lines stand in ways that are never borrowed (log entry 66). -/
def changeLevel (level : Nat) (self : Option Nat) (s : State) : State :=
  let n := s.core.num
  let s := clearBorrowed level s
  let s := s.mapHarts fun h =>
    if h.core == n then
      let h := { h with vec := h.vec.fit level }
      if some h.ix == self then h else h.cutVl level
    else h
  s.mapCore fun c => { c with level := level }

/-- Every vector, reef and matrix instruction that a hart of the core posted before number `n` has completed (R90); what a halted hart
holds, and what waits in the island for an XOP, does not count (log entry 13). -/
def State.coreDone (s : State) (n : Nat) : Bool :=
  !s.worksOf (fun x => decide (x.seq < n)) && s.allHarts.all fun h => h.core != s.core.num || h.status == .halted ||
    (h.mq.all (fun x => decide (n <= x.seq)) && h.queue.all fun x => decide (n <= x.seq))

/-- The number that a hart's waiting change of the storage level has (R90). -/
def Hart.levelSeq (h : Hart) : Option Nat := match h.status with | .waiting (.level n) => some n | _ => none

/-- Changes of the storage level that wait on the current core, by their numbers: those of other harts than `except_` (R90). -/
def State.levelWaits (s : State) (except_ : Option Nat) : List Nat :=
  s.allHarts.filterMap fun h => if h.core == s.core.num && some h.ix != except_ then h.levelSeq else none

/-- A change of the storage level may be made (R90): the work posted before it is done, and no other hart's change came first. -/
def State.levelReady (s : State) (n : Nat) : Bool :=
  s.coreDone n && (s.levelWaits (some s.hart.ix)).all fun k => decide (n < k)

/-- SETVL (R88-R90). A change of the level takes its number in the order of posting when it is first tried, and its hart stalls until the
change has been made. -/
def execSetvl (f : IFmt) (s : State) : Out :=
  let lc := f.imm.toNat / 16 % 4
  let level := if lc == 0 then s.core.level else levelOf lc
  let n := (s.hart.cur.map Item.seq).getD (s.hart.levelSeq.getD s.jobSeq)
  .next (if level != s.core.level && !s.levelReady n then
      waitFor (.level n) { s with jobSeq := if n == s.jobSeq then s.jobSeq + 1 else s.jobSeq }
    else
      let s := if level != s.core.level then changeLevel level (some s.hart.ix) s else s
      let vl := min (s.getS f.sa).toNat (vlmax (f.imm.toNat % 4) (f.imm.toNat / 4 % 4) level)
      let p := s.getP f.sa ||| s.ctx
      let s := s.mapHart fun h =>
        { h with csr := { h.csr with vl := vl, sew := f.imm.extractLsb' 0 2, g := f.imm.extractLsb' 2 2, vlcut := false } }
      let s := s.mapHart (·.setCsrPv 1 p)
      retire (s.setS f.sd (BitVec.ofNat 64 vl) p))

/-- LEVEL_CHANGE (R90): the level of a core whose vector work has drained takes the code's value. -/
def execLevelChange (core : Nat) (code : BitVec 2) (s : State) : Out :=
  .next (onCore core (fun s =>
    if code == 0 || levelOf code.toNat == s.core.level then s else changeLevel (levelOf code.toNat) none s) s)

/-- The width of a type code in bits (R92); 0 for codes without a width. -/
def typeWidth (t : Nat) : Nat :=
  match t with
  | 1 | 2 | 13 | 14 => 8
  | 3 | 4 | 11 | 12 => 16
  | 5 | 6 | 10 => 32
  | 7 | 8 | 9 => 64
  | 17 => 4
  | 18 => 10
  | 19 => 12
  | 20 => 14
  | _ => 0

/-- A scaled type: E4M3, E5M2, E2M1 (R92). -/
def isScaled (t : Nat) : Bool := t == 13 || t == 14 || t == 17

/-- The fields of a tag immediate (R93): type as substituted (R54), grouping code, block-length code, and whether a
substitution was made. -/
structure TagImm where
  ty : Nat
  g : Nat
  bl : Nat
  sub : Bool

/-- Reads a tag immediate (R93, R54). -/
def tagImm (imm : Nat) : TagImm :=
  let t := imm % 32
  ⟨fp6 t, imm / 32 % 4, imm / 128 % 8, t == 15 || t == 16⟩

/-- The tag of a tag immediate. -/
def TagImm.tag (t : TagImm) : Tag := ⟨BitVec.ofNat 5 t.ty, BitVec.ofNat 2 t.g, BitVec.ofNat 3 t.bl⟩

/-- A vector register. -/
def Hart.vreg (h : Hart) (r : Nat) : VReg := h.vec.v.get ⟨r % 32, Nat.mod_lt _ (by decide)⟩
/-- Replaces a vector register. -/
def Hart.setV (h : Hart) (r : Nat) (x : VReg) : Hart :=
  { h with vec := { h.vec with v := h.vec.v.set (r % 32) x (Nat.mod_lt _ (by decide)) } }
/-- Changes `n` vector registers from `r` on. -/
def Hart.mapV (f : VReg → VReg) (r : Nat) : Nat → Hart → Hart
  | 0, h => h
  | n + 1, h => Hart.mapV f (r + 1) n (h.setV r (f (h.vreg r)))

/-- The tag trap of an instruction with its reason (R109, R410). -/
def tagTrap (i : Instr) (reason : Nat) (s : State) : State := vtrap ⟨10, encode i, reason, 0⟩ (encode i) s

/-- FSTAT.FSUB is set when a substituted form executes (R54). -/
def setFsub (b : Bool) (s : State) : State :=
  if b then s.mapCsr fun c => { c with fstat := c.fstat ||| 32 } else s

/-- VTAG and VRETAG (R94). -/
def tagForm (i : Instr) (f : IFmt) (clear : Bool) (s : State) : State :=
  let t := tagImm f.imm.toNat
  if t.ty >= 21 || (t.bl != 0 && !isScaled t.ty) then tagTrap i 5 s
  else if f.sd.toNat % groupOf t.g != 0 then tagTrap i 3 s
  else
    let s := setFsub t.sub s
    retire (s.mapHart fun h =>
      Hart.mapV (fun r : VReg => if clear then VReg.mk 0 t.tag false h.ctx else { r with tag := t.tag, pv := r.pv ||| h.ctx })
        f.sd.toNat (groupOf t.g) h)

/-- VTAG (R94). -/
def execVtag (f : IFmt) (s : State) : Out := .next (tagForm (.vtag f) f true s)
/-- VRETAG (R94). -/
def execVretag (f : IFmt) (s : State) : Out := .next (tagForm (.vretag f) f false s)

/-- A tag as bits [9:0] of the VTAG immediate (R93, R95). -/
def Tag.num (t : Tag) : Nat := t.bl.toNat * 128 + t.g.toNat * 32 + t.ty.toNat

/-- VTAGRD (R95): the tag and the dirty bit, with set ctx. -/
def execVtagrd (f : RFmt) (s : State) : Out :=
  let r := s.hart.vreg f.sa.toNat
  .next (retire (s.setS f.sd (BitVec.ofNat 64 (r.tag.num + (if r.dirty then 1024 else 0))) s.ctx))

/-! ### FORK and JOIN -/

/-- One step of the stochastic-rounding generator: the new state and the output (R180). -/
def srStep (x : Word) : Word × Word :=
  let x := x ^^^ (x >>> 12)
  let x := x ^^^ (x <<< 25)
  let x := x ^^^ (x >>> 27)
  (x, x * 0x2545F4914F6CDD1D)

/-- The FORK/JOIN trap (R97, R98, R410). -/
def forkTrap (i : Instr) (reason : Nat) (s : State) : State := scalarTrap ⟨13, encode i, reason, 0⟩ s

/-- The lowest-numbered free hart context of the core (R97). -/
def State.freeHart (s : State) : Option Nat :=
  (List.range 8).find? fun i => (s.hartAt ⟨s.core.num, i⟩).status == .free && i != s.hart.ix

/-- The control registers of a forked child (R97); the set of its SRSTATE is the parent's (log entry 74). -/
def Csrs.child (c : Csrs) (sr : Word) : Csrs :=
  let z := Csrs.zero
  let keep (l : List Nat) (v : Vector PvSet 40) : Vector PvSet 40 :=
    l.foldl (fun v n => v.set (csrIx n) (c.pv.get ⟨csrIx n, csrIx_lt n⟩) (csrIx_lt n)) v
  { z with frm := c.frm, segmask := c.segmask, argaddr := c.argaddr, ptroot := c.ptroot, tvec := c.tvec,
           sscratch := c.sscratch, srstate := sr, partSel := c.partSel,
           pv := keep [0x004, 0x005, 0x006, 0x012, 0x104, 0x105, 0x106] z.pv }

/-- The vector side of a hart after FORK or JOIN: zero, untagged, vl 0 with the empty set (R97, R98; for VL after both, and for
every register after a parent's JOIN, the empty set is the model's choice: log entry 65). -/
def Hart.clearVec (h : Hart) : Hart :=
  ({ h with vec := VecFile.zero, csr := { h.csr with vl := 0 } }).setCsrPv 1 pvEmpty

/-- FORK's effect with a free context `h` (R97). -/
def forkTo (f : IFmt) (c : Nat) (s : State) : State :=
  let p := s.hart
  let (x, out) := srStep p.csr.srstate
  let half := p.laneN / 2
  let child : Hart := { Hart.initial p.core c with
    status := .running, s := p.s, sp := p.sp, pc := p.pc + offset8 f.imm, mode := p.mode, ctx := p.ctx,
    csr := p.csr.child (if out == 0 then 1 else out), laneLo := p.laneLo + half, laneN := half,
    parent := some p.ix, fetchTaken := true }
  let child := child.setS f.sd 1 p.ctx
  let p := { p with csr := { p.csr with srstate := x }, laneN := half,
                    children := p.children ++ [Child.mk c child.laneLo half none] }
  let p := (p.clearVec).setS f.sd 0 p.ctx
  retire (({ s with hart := p }).setHart child)

/-- FORK (R96, R97). -/
def execFork (f : IFmt) (s : State) : Out :=
  .next (gated (.fork f) (fun s =>
    if !s.postedDone then waitFor .drain s
    else watchGate (fun s =>
      if s.hart.laneN <= 1 then forkTrap (.fork f) 1 s
      else
        match s.freeHart with
        | none => forkTrap (.fork f) 2 s
        | some c => forkTo f c s) s) s)

/-- JOIN by a parent whose youngest live child has ended (R98): lane groups and the child's context set come back. -/
def joinChild (c : Child) (p : PvSet) (s : State) : State :=
  retire (s.mapHart fun h =>
    ({ h with laneN := h.laneN + c.n, ctx := h.ctx ||| p, children := h.children.dropLast }).clearVec)

/-- JOIN (R96, R98). -/
def execJoin (s : State) : Out :=
  .next (gated .join (fun s =>
    if !s.postedDone then waitFor .drain s
    else watchGate (fun s =>
      match s.hart.children.getLast? with
      | some c =>
        match c.done with
        | some (p : PvSet) => joinChild c p s
        | none => waitFor .join s
      | none => if s.hart.parent.isSome then endHart s else forkTrap .join 3 s) s) s)

end Sys2Proof.Machine
end

