-- ==== Sys2Proof/Machine/Flags.lean ====
section
/-! DEFINITION. Numbers (R167-R185): the floating-point formats, exact values, rounding with its flags, conversion, and
the orders of summation. Flags are the bits of FSTAT (R70): NV 16, DZ 8, OF 4, UF 2, NX 1. -/

namespace Sys2Proof.Machine

/-- A floating-point format (R167, R168): width, exponent and mantissa bits, bias, whether it has a sign, infinities
and NaNs, and its largest finite value as a significand and the exponent of its unit. -/
structure FFmt where
  w : Nat
  eb : Nat
  mb : Nat
  bias : Nat
  sign : Bool
  inf : Bool
  nan : Bool
  maxN : Nat
  maxQ : Int
  cnan : Nat

/-- FP64. -/
def fp64 : FFmt := ⟨64, 11, 52, 1023, true, true, true, 2 ^ 53 - 1, 971, 0x7FF8000000000000⟩
/-- FP32. -/
def fp32 : FFmt := ⟨32, 8, 23, 127, true, true, true, 2 ^ 24 - 1, 104, 0x7FC00000⟩
/-- BF16. -/
def bf16 : FFmt := ⟨16, 8, 7, 127, true, true, true, 2 ^ 8 - 1, 120, 0x7FC0⟩
/-- FP16. -/
def fp16 : FFmt := ⟨16, 5, 10, 15, true, true, true, 2 ^ 11 - 1, 5, 0x7E00⟩
/-- E4M3: no infinity, one NaN code per sign, largest finite 448. -/
def e4m3 : FFmt := ⟨8, 4, 3, 7, true, false, true, 14, 5, 0x7F⟩
/-- E5M2. -/
def e5m2 : FFmt := ⟨8, 5, 2, 15, true, true, true, 7, 13, 0x7E⟩
/-- E2M1: neither infinity nor NaN, largest finite 6; a NaN that enters it becomes +0 (R178). -/
def e2m1 : FFmt := ⟨4, 2, 1, 1, true, false, false, 3, 1, 0⟩
/-- E4M5, the unsigned format of block scales (R170), largest finite 496. -/
def e4m5 : FFmt := ⟨9, 4, 5, 7, false, false, true, 62, 3, 0x1FF⟩

/-- The format of a floating-point or scaled type code (R92). -/
def fmtOf (t : Nat) : Option FFmt :=
  match t with
  | 9 => some fp64
  | 10 => some fp32
  | 11 => some bf16
  | 12 => some fp16
  | 13 => some e4m3
  | 14 => some e5m2
  | 17 => some e2m1
  | _ => none

/-- An exact value: NaN, infinity, or a finite number of the given sign and magnitude m x 2^e; with `st`, the
magnitude lies strictly between m x 2^e and (m + 1) x 2^e. -/
inductive FVal where
  | nan
  | inf (neg : Bool)
  | fin (neg : Bool) (m : Nat) (e : Int) (st : Bool)
deriving DecidableEq, Repr

/-- A field of all ones in the exponent is a NaN or an infinity of the format. -/
def FFmt.special (f : FFmt) (x : Nat) : Bool :=
  let e := bitsAt x f.mb f.eb
  let m := bitsAt x 0 f.mb
  e == 2 ^ f.eb - 1 && (f.inf || (f.nan && m == 2 ^ f.mb - 1))

/-- Decodes an encoding (R167, R170). -/
def FFmt.decode (f : FFmt) (x : Nat) : FVal :=
  let neg := f.sign && x.testBit (f.w - 1)
  let e := bitsAt x f.mb f.eb
  let m := bitsAt x 0 f.mb
  if f.special x then (if f.inf && m == 0 then .inf neg else .nan)
  else if e == 0 then .fin neg m (1 - (f.bias : Int) - f.mb) false
  else .fin neg (2 ^ f.mb + m) ((e : Int) - f.bias - f.mb) false

/-- A signalling NaN (R167); the NaNs of E4M3 and E4M5 are quiet. -/
def FFmt.isSig (f : FFmt) (x : Nat) : Bool :=
  f.inf && f.special x && bitsAt x 0 f.mb != 0 && !x.testBit (f.mb - 1)

/-- The value is a NaN. -/
def FVal.isNan : FVal → Bool
  | .nan => true
  | _ => false
/-- The value is an infinity. -/
def FVal.isInf : FVal → Bool
  | .inf _ => true
  | _ => false
/-- The value is a zero. -/
def FVal.isZero : FVal → Bool
  | .fin _ m _ st => m == 0 && !st
  | _ => false
/-- The sign bit of a value; a NaN has none. -/
def FVal.neg : FVal → Bool
  | .nan => false
  | .inf n => n
  | .fin n _ _ _ => n
/-- The value with the sign turned. -/
def FVal.negate : FVal → FVal
  | .nan => .nan
  | .inf n => .inf (!n)
  | .fin n m e st => .fin (!n) m e st
/-- The value with a sign. -/
def FVal.withSign (b : Bool) : FVal → FVal
  | .nan => .nan
  | .inf _ => .inf b
  | .fin _ m e st => .fin b m e st
/-- A zero of a sign. -/
def fzero (neg : Bool) : FVal := .fin neg 0 0 false
/-- An integer as an exact value; zero is +0. -/
def fint (x : Int) : FVal := .fin (decide (x < 0)) x.natAbs 0 false

/-- The invalid-operation flag. -/
def flagNV : Nat := 16
/-- The division-by-zero flag. -/
def flagDZ : Nat := 8
/-- The overflow flag. -/
def flagOF : Nat := 4
/-- The underflow flag. -/
def flagUF : Nat := 2
/-- The inexact flag. -/
def flagNX : Nat := 1

/-- How a value is rounded: the mode 0 RNE, 1 RTZ, 2 RDN, 3 RUP, 4 RMM, 5 SR (R39), the 32 random bits of SR (R181),
and whether an E5M2 target saturates (R176). -/
structure RMode where
  mode : Nat
  r : Nat
  sat : Bool

/-- Whether the magnitude n + (rem + sticky)/2^k rounds up to n + 1 (R176, R181). -/
def roundUp (md : RMode) (neg : Bool) (n rem k : Nat) (st : Bool) : Bool :=
  let inexact := rem != 0 || st
  let half := 2 ^ (k - 1)
  match md.mode with
  | 0 => decide (half < rem) || (rem == half && (st || n % 2 == 1))
  | 1 => false
  | 2 => neg && inexact
  | 3 => !neg && inexact
  | 4 => decide (half <= rem)
  | _ =>
    let frac := if 32 <= k then rem >>> (k - 32) else rem <<< (32 - k)
    inexact && decide (2 ^ 32 <= frac + md.r)

/-- A magnitude rounded to a multiple of 2^q: the multiple and whether it differs. -/
def roundAt (md : RMode) (neg : Bool) (m : Nat) (e : Int) (st : Bool) (q : Int) : Nat × Bool :=
  if q <= e then (m <<< (e - q).toNat, st)
  else
    let k := (q - e).toNat
    let n := m >>> k
    let rem := m % 2 ^ k
    (n + (if roundUp md neg n rem k st then 1 else 0), rem != 0 || st)

/-- The sign bit of a format. -/
def FFmt.signBit (f : FFmt) (neg : Bool) : Nat := if f.sign && neg then 2 ^ (f.w - 1) else 0
/-- The encoding of infinity. -/
def FFmt.infBits (f : FFmt) : Nat := (2 ^ f.eb - 1) * 2 ^ f.mb
/-- The exponent of the unit of the smallest normal. -/
def FFmt.minQ (f : FFmt) : Int := 1 - (f.bias : Int) - f.mb
/-- The encoding of the largest finite magnitude. -/
def FFmt.maxBits (f : FFmt) : Nat := (f.maxQ - f.minQ).toNat * 2 ^ f.mb + f.maxN

/-- The target saturates in every mode (R176). -/
def FFmt.saturates (f : FFmt) (sat : Bool) : Bool := !f.inf || (f.w == 8 && sat)

/-- The encoding that an overflow gives (R176, R181; under SR with SRSTATE 0 too, log entry 78). -/
def FFmt.overflow (f : FFmt) (md : RMode) (neg : Bool) : Nat :=
  f.signBit neg +
    (if f.saturates md.sat then f.maxBits
     else
       match md.mode with
       | 1 => f.maxBits
       | 2 => if neg then f.infBits else f.maxBits
       | 3 => if neg then f.maxBits else f.infBits
       | _ => f.infBits)

/-- round(x, fmt, mode) with its flags (R176-R178). -/
def FFmt.round (f : FFmt) (md : RMode) (x : FVal) : Nat × Nat :=
  match x with
  | .nan => (f.cnan, if f.nan then 0 else flagNV)
  | .inf neg =>
    if !f.sign && neg then (0, flagNV)
    else if f.saturates md.sat then (f.signBit neg + f.maxBits, flagOF + flagNX) else (f.signBit neg + f.infBits, 0)
  | .fin neg m e st =>
    if m == 0 && !st then (f.signBit neg, 0)
    else if !f.sign && neg then (0, flagNV)
    else
      let top : Int := (m.log2 : Int) + e
      let q := max (top - f.mb) f.minQ
      let (n, ne) := roundAt md neg m e st q
      let big := if f.maxQ <= q then decide (f.maxN < n <<< (q - f.maxQ).toNat)
        else decide (f.maxN <<< (f.maxQ - q).toNat < n)
      if big then (f.overflow md neg, flagOF + flagNX)
      else
        let bits := (q - f.minQ).toNat * 2 ^ f.mb + n
        let tiny := ne && n != 0 && decide (bits < 2 ^ f.mb)
        (f.signBit neg + bits, (if ne then flagNX else 0) + (if tiny then flagUF else 0))

/-- An exact value rounded to an integer of a type, with its flags (R178). -/
def roundToInt (t w : Nat) (md : RMode) (x : FVal) : Nat × Nat :=
  let (lo, hi) : Int × Int :=
    if t % 2 == 1 then (-((2 ^ (w - 1) : Nat) : Int), ((2 ^ (w - 1) : Nat) : Int) - 1) else (0, ((2 ^ w : Nat) : Int) - 1)
  match x with
  | .nan => (0, flagNV)
  | .inf neg => (intMod w (if neg then lo else hi), flagNV)
  | .fin neg m e st =>
    let (n, ne) := roundAt md neg m e st 0
    let v : Int := if neg then -(n : Int) else n
    if v < lo then (intMod w lo, flagNV) else if hi < v then (intMod w hi, flagNV)
    else (intMod w v, if ne then flagNX else 0)

/-! ### Exact arithmetic -/

/-- An exact finite number as a signed significand at the exponent `q`, which does not exceed its own. -/
def atExp (neg : Bool) (m : Nat) (e q : Int) : Int :=
  let x : Int := ((m <<< (e - q).toNat : Nat) : Int)
  if neg then -x else x

/-- The sum of two exact finite numbers; an exact zero has the sign of R175. -/
def addFin (rdn : Bool) (a b : FVal) : FVal :=
  match a, b with
  | .fin na ma ea _, .fin nb mb eb _ =>
    let q := min ea eb
    let x := atExp na ma ea q + atExp nb mb eb q
    if x == 0 then (if ma == 0 && mb == 0 && na == nb then fzero na else fzero rdn)
    else .fin (decide (x < 0)) x.natAbs q false
  | _, _ => .nan

/-- a + b with its flags (R188): NaN operands have been set aside. -/
def addVal (rdn : Bool) (a b : FVal) : FVal × Nat :=
  match a, b with
  | .nan, _ => (.nan, 0)
  | _, .nan => (.nan, 0)
  | .inf x, .inf y => if x == y then (.inf x, 0) else (.nan, flagNV)
  | .inf x, _ => (.inf x, 0)
  | _, .inf y => (.inf y, 0)
  | a, b => (addFin rdn a b, 0)

/-- a x b with its flags (R188). -/
def mulVal (a b : FVal) : FVal × Nat :=
  let n := a.neg != b.neg
  match a, b with
  | .nan, _ => (.nan, 0)
  | _, .nan => (.nan, 0)
  | .inf _, y => if y.isZero then (.nan, flagNV) else (.inf n, 0)
  | x, .inf _ => if x.isZero then (.nan, flagNV) else (.inf n, 0)
  | .fin _ ma ea _, .fin _ mb eb _ => (.fin n (ma * mb) (ea + eb) false, 0)

/-- A quotient of two magnitudes, to more bits than any format and SR need. -/
def divMag (n : Bool) (ma : Nat) (ea : Int) (mb : Nat) (eb : Int) : FVal :=
  let k := 160 + mb.log2
  let x := ma <<< k
  .fin n (x / mb) (ea - eb - k) (x % mb != 0)

/-- a / b with its flags (R188). -/
def divVal (a b : FVal) : FVal × Nat :=
  let n := a.neg != b.neg
  match a, b with
  | .nan, _ => (.nan, 0)
  | _, .nan => (.nan, 0)
  | .inf _, .inf _ => (.nan, flagNV)
  | .inf _, _ => (.inf n, 0)
  | _, .inf _ => (fzero n, 0)
  | .fin _ ma ea _, .fin _ mb eb _ =>
    if mb == 0 then (if ma == 0 then (.nan, flagNV) else (.inf n, flagDZ))
    else if ma == 0 then (fzero n, 0)
    else (divMag n ma ea mb eb, 0)

/-- The integer square root, bit by bit from bit `k - 1` down. -/
def isqrt (n : Nat) : Nat → Nat → Nat
  | 0, r => r
  | k + 1, r => if (r + 2 ^ k) * (r + 2 ^ k) <= n then isqrt n k (r + 2 ^ k) else isqrt n k r

/-- The square root of m x 2^e for e even, with 160 more bits. -/
def sqrtMag (m : Nat) (e : Int) : FVal :=
  let x := m <<< 320
  let r := isqrt x (x.log2 / 2 + 1) 0
  .fin false r (e / 2 - 160) (r * r != x)

/-- A magnitude with an even exponent. -/
def evenExp (m : Nat) (e : Int) : Nat × Int := if e % 2 == 0 then (m, e) else (2 * m, e - 1)

/-- The square root of a value with its flags (R188). -/
def sqrtVal (a : FVal) : FVal × Nat :=
  match a with
  | .nan => (.nan, 0)
  | .inf n => if n then (.nan, flagNV) else (.inf false, 0)
  | .fin n m e _ =>
    if m == 0 then (fzero n, 0)
    else if n then (.nan, flagNV)
    else
      let (m, e) := evenExp m e
      (sqrtMag m e, 0)

/-- 1 / sqrt(a) with its flags (R192). -/
def rsqrtVal (a : FVal) : FVal × Nat :=
  match a with
  | .nan => (.nan, 0)
  | .inf n => if n then (.nan, flagNV) else (fzero false, 0)
  | .fin n m e _ =>
    if m == 0 then (.inf n, flagDZ)
    else if n then (.nan, flagNV)
    else
      let (m, e) := evenExp m e
      let x := 2 ^ 480 / m
      let r := isqrt x (x.log2 / 2 + 1) 0
      (.fin false r (-(e / 2) - 240) (r * r * m != 2 ^ 480), 0)

/-- Bits of the fixed-point evaluation of 2^a. -/
def expBits : Nat := 320

/-- The product of 2^(2^-i) over the set bits of a fraction: `r` holds 2^(2^-i) at the start, `acc` the product so far;
the fraction's bits are taken from bit `k - 1` down. -/
def expFrac (frac : Nat) : Nat → Nat → Nat → Nat
  | 0, _, acc => acc
  | k + 1, r, acc =>
    let r := isqrt (r <<< expBits) (expBits + 1) 0
    expFrac frac k r (if frac.testBit k then (acc * r) >>> expBits else acc)

/-- 2^a (R192). -/
def exp2Val (a : FVal) : FVal × Nat :=
  match a with
  | .nan => (.nan, 0)
  | .inf n => (if n then fzero false else .inf false, 0)
  | .fin n m e _ =>
    if m == 0 then (.fin false 1 0 false, 0)
    else if (m.log2 : Int) + e >= 13 then (if n then .fin false 1 (-9000) true else .fin false 1 9000 false, 0)
    else if 0 <= e then
      let x : Int := ((m <<< e.toNat : Nat) : Int)
      (.fin false 1 (if n then -x else x) false, 0)
    else
      let k := (-e).toNat
      let x : Int := if n then -(m : Int) else m
      let i := x.ediv ((2 ^ k : Nat) : Int)
      let frac := (x.emod ((2 ^ k : Nat) : Int)).toNat
      if frac == 0 then (.fin false 1 i false, 0)
      else
        let k' := min k expBits
        let y := expFrac (frac >>> (k - k')) k' (2 <<< expBits) (1 <<< expBits)
        (.fin false (y >>> (expBits - 200)) (i - 200) true, 0)

/-- Bits of the fraction of a logarithm. -/
def logBits : Nat := 220

/-- The first `k` bits of log2 of y / 2^600, for y from 2^600 up to below 2^601, by repeated squaring. -/
def logFrac : Nat → Nat → Nat → Nat
  | 0, _, acc => acc
  | k + 1, y, acc =>
    let z := (y * y) >>> 600
    if 2 ^ 601 <= z then logFrac k (z >>> 1) (2 * acc + 1) else logFrac k z (2 * acc)

/-- log2(a) with its flags (R192). -/
def log2Val (a : FVal) : FVal × Nat :=
  match a with
  | .nan => (.nan, 0)
  | .inf n => if n then (.nan, flagNV) else (.inf false, 0)
  | .fin n m e _ =>
    if m == 0 then (.inf true, flagDZ)
    else if n then (.nan, flagNV)
    else
      let top := m.log2
      let i : Int := (top : Int) + e
      if m == 2 ^ top then (fint i, 0)
      else
        let y := m <<< (600 - top)
        let v : Int := i * ((2 ^ logBits : Nat) : Int) + (logFrac logBits y 0 : Nat)
        if 0 <= v then (.fin false v.toNat (-220) true, 0) else (.fin true (-v - 1).toNat (-220) true, 0)

/-! ### Comparison -/

/-- a < b of two values that are no NaN, with -0 equal to +0. -/
def ltVal (a b : FVal) : Bool :=
  match a, b with
  | .inf x, .inf y => x && !y
  | .inf x, _ => x
  | _, .inf y => !y
  | .fin na ma ea _, .fin nb mb eb _ =>
    let q := min ea eb
    decide (atExp na ma ea q < atExp nb mb eb q)
  | _, _ => false

/-- a < b with -0 below +0 (R189). -/
def ltZero (a b : FVal) : Bool :=
  if a.isZero && b.isZero then a.neg && !b.neg else ltVal a b

/-- The lesser of two values (R189); NaN when either is one. -/
def minVal (a b : FVal) : FVal := if a.isNan || b.isNan then .nan else if ltZero b a then b else a
/-- The greater of two values (R189); NaN when either is one. -/
def maxVal (a b : FVal) : FVal := if a.isNan || b.isNan then .nan else if ltZero a b then b else a

end Sys2Proof.Machine
end

