-- ==== Sys2Proof/Machine/Prov.lean ====
section
/-! DEFINITION. Provenance, watch and tidepool instructions (R99-R107). -/

namespace Sys2Proof.Machine

/-- PVRD (R100): the set of a register by class, with set ctx. -/
def execPvrd (f : RFmt) (s : State) : Out :=
  let h := s.hart
  let p := match f.sb.toNat with
    | 0 => s.getP f.sa
    | 1 => (h.vreg f.sa.toNat).pv
    | 2 => (h.mreg f.sa.toNat).pv
    | _ => (h.vec.k.get ⟨f.sa.toNat % 8, Nat.mod_lt _ (by decide)⟩).pv
  .next (retire (s.setS f.sd (p.zeroExtend 64) s.ctx))

/-- PVCTX (R101): ctx grows by s[sa][15:0]; a party at or above ROSTER, or a bit above 15, traps. -/
def execPvctx (f : RFmt) (s : State) : Out :=
  let v := s.getS f.sa
  .next (if v.toNat / 2 ^ (min s.roster 16) != 0 then scalarTrap ⟨9, v, 2, 0⟩ s
    else
      let s := s.addCtx (v.extractLsb' 0 16)
      retire (s.setS f.sd (s.ctx.zeroExtend 64) s.ctx))

/-- What PVCLR leaves of a hart (R102). -/
def Hart.pvclr (h : Hart) : Hart :=
  let h := { h with s := Vector.replicate 32 0, sp := Vector.replicate 32 pvEmpty, vec := VecFile.zero,
                    csr := { h.csr with vl := 0, fstat := 0, mshout := 0, xcnt2 := 0, wstruck := 0 } }
  let h := [0x001, 0x003, 0x007, 0x008, 0x009].foldl (fun h n => h.setCsrPv n pvEmpty) h
  { h with ctx := pvEmpty }

/-- PVCLR (R102); the hart's reef continuation is discarded (R246). -/
def execPvclr (s : State) : Out :=
  .next (if !s.postedDone || !s.hart.enginesDone then waitFor .drain s
    else watchGate (fun s =>
      let s := s.mapCore fun c => { c with reef := { c.reef with conts := c.reef.conts.filter fun r => r.hart != s.hart.ix } }
      retire (s.mapHart Hart.pvclr)) s)

/-- The union of the sets that struck entries carry (R103, R454). -/
def struckPv (t : List WatchEntry) : PvSet :=
  t.foldl (fun p e => if e.state == .struck then p ||| e.pv else p) pvEmpty

/-- WCHK (R103). -/
def execWchk (f : IFmt) (s : State) : Out :=
  .next (gated (.wchk f) (fun s =>
    if !resolved s.hart.watch then waitFor .watch s
    else
      let b := struckBits 0 s.hart.watch
      let here := s.hart.pc
      let t := if b != 0 then s.addCtx (struckPv s.hart.watch) else s
      let t := t.mapHart fun h => { h with watch := [], csr := { h.csr with wstruck := BitVec.ofNat 32 b } }
      let t := t.mapHart fun h => h.setCsrPv 0x009 h.ctx
      if b != 0 then jumpTo (here + offset8 f.imm) s (t.setS f.sd (here + 8) t.ctx) else retire t) s)

/-- WCLR (R103). -/
def execWclr (s : State) : Out :=
  .next (gated .wclr (fun s => retire (s.mapHart fun h => { h with watch := [] })) s)

/-! ### DISCARD and TPPROBE -/

/-- Copies of a line leave every slice. -/
def dropCopies (line : Nat) (s : State) : State :=
  s.mapCores fun c => { c with copies := c.copies.filter fun k => k.line != line }

/-- A tidepool line is dropped with every copy of it, in the slices and in the instruction caches (R105, R459): it becomes ZERO, or its bit is set in the zero map of a backed frame. No hart that
watches the line by EVADDR is woken (R86, R106; log entry 65). -/
def dropLine (line : Nat) (s : State) : State :=
  let t := s.tideAt (line / 512)
  let j := line % 512
  let at_ := s.lineOf (line * 128)
  let s := (endOwners (fun x => x / 4 == at_) (dropCopies at_ s)).mapCores fun c =>
    { c with icache := c.icache.filter fun k => k.line != line && k.line != at_ }
  let s := { s with poison := s.poison.filter fun x => x / 4 != at_ }
  match t.state with
  | .backed f => ({ s with mem := memErase (f * 65536 + j * 128) 128 s.mem }).setTide { t with zmap := t.zmap ||| 2 ^ j }
  | _ => ({ s with mem := memErase (line * 128) 128 s.mem }).setTide { t with held := if t.held.testBit j then t.held - 2 ^ j else t.held }

/-- GEN of a frame rises by 1 (R460). -/
def bumpGen (frame : Nat) (s : State) : State :=
  let t := s.tideAt frame
  s.setTide { t with gen := t.gen + 1 }

/-- The part of a DISCARD range that lies in one page: physical address and length in bytes. -/
structure DiscardPart where
  pa : Nat
  len : Nat

/-- Translates the pages of a DISCARD range in turn (R105): each must be a mapped, writable tidepool page. Its traps report ACC 3, a store
(log entry 75). -/
def discardParts (va : Word) (len : Nat) (s : State) : Nat → Except (Sum TrapRec Wait) (List DiscardPart × State)
  | 0 => .ok ([], s)
  | n + 1 =>
    if len == 0 then .ok ([], s)
    else
      let k := min len (65536 - va.toNat % 65536)
      match xlat va .write s with
      | .error e => .error (.inl (walkTrap va 3 e))
      | .ok (pa, e, t) =>
        if !e.flags.getLsbD 9 then
          .error (.inl ⟨8, va, 3 + 16 * (if e.bits == 16 then 0 else if e.bits == 21 then 1 else 2), 3⟩)
        else if t.frameBusy pa then .error (.inr .frame)
        else
          match discardParts (va + BitVec.ofNat 64 k) (len - k) (recordTide pa e t) n with
          | .error x => .error x
          | .ok (l, t) => .ok (⟨pa, k⟩ :: l, t)

/-- The frames that the parts of a DISCARD touch, each once (R105, R460). -/
def discardFrames (l : List DiscardPart) : List Nat :=
  l.foldl (fun r p => if r.contains (p.pa / 65536) then r else p.pa / 65536 :: r) []

/-- Drops the lines of one part, and strikes the entries that meet a dropped line. -/
def discardPart (p : DiscardPart) (s : State) : State :=
  let cur := s.curAt p.pa
  let s := forRange dropLine (p.pa / 128) (p.len / 128) s
  let lo := s.place p.pa
  strikeSectors (fun x => lo / 32 <= x && x < (lo + p.len) / 32) cur s

/-- DISCARD (R105, R106): each frame touched counts one generation. With s[sb] = 0 it still adds the sets of its operands to ctx
(log entry 65). -/
def execDiscard (f : RFmt) (s : State) : Out :=
  let a := s.getS f.sa
  let n := (s.getS f.sb).toNat
  .next (if a.toNat % 128 != 0 || n % 128 != 0 then scalarTrap ⟨7, a, 0, 3⟩ s
    else
      match discardParts a n s (n / 65536 + 2) with
      | .error (.inl t) => scalarTrap t s
      | .error (.inr w) => waitFor w s
      | .ok (l, t) =>
        let t := t.addCtx (s.getP f.sa ||| s.getP f.sb)
        retire ((discardFrames l).foldl (fun t n => bumpGen n t) (l.foldl (fun t p => discardPart p t) t)))

/-- The word of TPPROBE for a tidepool frame (R107). -/
def tideWord (t : TideFrame) : Word :=
  let backed := match t.state with | .backed _ => true | _ => false
  BitVec.ofNat 64 (t.gen.toNat * 2 ^ 32 + t.frame * 65536 / 2 ^ 32 % 8 * 256 + (if backed then 16 else 0)
    + (if t.pol then 8 else 0) + (if t.d then 4 else 0) + (if backed then 0 else 2) + 1)

/-- TPPROBE (R107, R458); it waits for a frame that is PENDING or MOVING as a load does (R457; log entry 65). -/
def execTpprobe (f : RFmt) (s : State) : Out :=
  let a := s.getS f.sa
  .next (match xlat a .read s with
    | .error e => scalarTrap (walkTrap a 2 e) s
    | .ok (pa, e, t) =>
      if t.frameBusy pa then waitFor .frame s
      else
        let t := recordTide pa e t
        let v := if t.inTide pa then tideWord (t.tideAt (pa / 65536)) else 0
        retire (t.setS f.sd v (s.getP f.sa ||| s.ctx)))

end Sys2Proof.Machine
end

