-- ==== Sys2Proof/Machine/Operands.lean ====
section
/-! DEFINITION. The operand forms of vector instructions: register groups and their images (R108), tag checks (R109),
scalar stand-ins (R110), masks (R111), element groups (R145, R151), overlap (R163), and the element-wise effect
(R112). -/

namespace Sys2Proof.Machine

/-- Registers of a group of grouping code `g`. -/
def Tag.count (t : Tag) : Nat := groupOf t.g.toNat
/-- Element width of a tag. -/
def Tag.width (t : Tag) : Nat := typeWidth t.ty.toNat
/-- Type code of a tag as a number. -/
def Tag.code (t : Tag) : Nat := t.ty.toNat

/-- The capacity of a group (R108). -/
def capacity (w g level : Nat) : Nat := 8192 * level * g / w

/-- The byte image of `n` registers from `r` on, as one number (R108). -/
def Hart.groupImg (h : Hart) (level r : Nat) : Nat → Nat
  | 0 => 0
  | n + 1 => (h.vreg r).img + h.groupImg level (r + 1) n * 2 ^ (8192 * level)

/-- The union of the sets of `n` registers from `r` on. -/
def Hart.groupPv (h : Hart) (r : Nat) : Nat → PvSet
  | 0 => pvEmpty
  | n + 1 => (h.vreg r).pv ||| h.groupPv (r + 1) n

/-- Writes a group's image, tag and set; every register of the group becomes dirty (R112). -/
def Hart.putGroup (level : Nat) (tag : Tag) (pv : PvSet) (r img : Nat) : Nat → Hart → Hart
  | 0, h => h
  | n + 1, h =>
    Hart.putGroup level tag pv (r + 1) (img / 2 ^ (8192 * level)) n
      (h.setV r ⟨img % 2 ^ (8192 * level), tag, true, pv⟩)

/-- The storage level of the current core. -/
def State.level (s : State) : Nat := s.core.level
/-- vl of the current hart. -/
def State.vl (s : State) : Nat := s.hart.csr.vl
/-- The set of VL. -/
def State.vlPv (s : State) : PvSet := s.hart.csrPv 1

/-- The tag of a vector register of the current hart. -/
def State.tagOf (s : State) (r : BitVec 5) : Tag := (s.hart.vreg r.toNat).tag
/-- The image of the group that starts at a register, under its own tag. -/
def State.imgOf (s : State) (r : BitVec 5) : Nat := s.hart.groupImg s.level r.toNat (s.tagOf r).count
/-- The set of the group that starts at a register, under its own tag. -/
def State.pvOf (s : State) (r : BitVec 5) : PvSet := s.hart.groupPv r.toNat (s.tagOf r).count

/-! ### Tag checks (R109) -/

/-- The facts that R109 checks of an instruction. -/
structure TagCheck where
  /-- Registers whose groups are read. -/
  reads : List (BitVec 5)
  /-- The sources that must agree do (reason 2). -/
  agree : Bool := true
  /-- Groups written under the tag that they carry, without being read (reasons 3 and 4). -/
  tagged : List (BitVec 5) := []
  /-- Element counts that groups must hold, beside vl (reason 4). -/
  holds : List (BitVec 5 × Nat) := []
  /-- Groups whose element count the form's own rule gives instead of vl (R201). -/
  short : List (BitVec 5) := []
  /-- A scale register has no container for the last active element (R171; reason 4). -/
  unscaled : Bool := false
  /-- The types and groupings are ones the form accepts (reason 5). -/
  accept : Bool := true
  /-- A group written without being read: first register, grouping, width and count it must hold. -/
  dst : Option (BitVec 5 × Nat × Nat × Nat) := none

/-- The members of a group carry identical tags, and it starts at a multiple of its size (reason 3). -/
def State.groupOk (s : State) (r : BitVec 5) : Bool :=
  let t := s.tagOf r
  r.toNat % t.count == 0 && (List.range t.count).all fun j => (s.hart.vreg (r.toNat + j)).tag == t

/-- A group of the current hart holds `n` elements of its own width (reason 4). -/
def State.holdsElems (s : State) (r : BitVec 5) (n : Nat) : Bool :=
  let t := s.tagOf r
  t.width == 0 || n <= capacity t.width t.count s.level

/-- The group that a form writes without reading starts at a multiple of its size (reason 3). -/
def TagCheck.dstStart (c : TagCheck) : Bool := match c.dst with | some (r, g, _, _) => r.toNat % g == 0 | none => true

/-- The group that a form writes without reading holds the elements asked of it (reason 4). -/
def TagCheck.dstHolds (c : TagCheck) (level : Nat) : Bool :=
  match c.dst with | some (_, g, w, n) => w == 0 || decide (n <= capacity w g level) | none => true

/-- The first failing check, by reason in the table's order over every group read or written (R109; log entry 14). -/
def tagReason (c : TagCheck) (s : State) : Option Nat :=
  let groups := c.reads ++ c.tagged
  if c.reads.any fun r => (s.tagOf r).code == 0 then some 1
  else if !c.agree then some 2
  else if (groups.any fun r => !s.groupOk r) || !c.dstStart then some 3
  else if groups.any (fun r => !c.short.contains r && !s.holdsElems r s.vl) || c.holds.any (fun x => !s.holdsElems x.1 x.2)
    || c.unscaled || !c.dstHolds s.level then some 4
  else if !c.accept then some 5
  else none

/-! ### Overlap (R163) -/

/-- Two register groups share a register. -/
def overlaps (a ga b gb : Nat) : Bool := decide (a < b + gb) && decide (b < a + ga)

/-- Element-wise rule: destination and source overlap without being identical (R163). -/
def overlapElem (a ga wa b gb wb : Nat) : Bool := overlaps a ga b gb && !(a == b && ga == gb && wa == wb)

/-- The overlap of a destination of a tag with a source register group, under the rule for its widths (R163). -/
def State.overlapSrc (s : State) (vd : BitVec 5) (dt : Tag) (r : BitVec 5) : Bool :=
  let t := s.tagOf r
  if dt.width == t.width then overlapElem vd.toNat dt.count dt.width r.toNat t.count t.width
  else overlaps vd.toNat dt.count r.toNat t.count

/-- Any overlap of a destination of a tag with a source group (R163). -/
def State.overlapAny (s : State) (vd : BitVec 5) (dt : Tag) (r : BitVec 5) : Bool :=
  overlaps vd.toNat dt.count r.toNat (s.tagOf r).count

/-- Runs a vector form: the tag checks, the overlap check, then the effect and the pc (R109, R164). -/
def vecForm (i : Instr) (c : TagCheck) (ovl : Bool) (eff : State → State) (s : State) : State :=
  match tagReason c s with
  | some r => tagTrap i r s
  | none => if ovl then vtrap ⟨11, encode i, 0, 0⟩ (encode i) s else retire (eff s)

/-! ### Sources and masks -/

/-- A source read element by element. -/
structure Src where
  get : Nat → Nat
  pv : PvSet

/-- A vector source under its own tag (R7). -/
def State.vecSrc (s : State) (r : BitVec 5) : Src :=
  let img := s.imgOf r
  let w := (s.tagOf r).width
  ⟨fun i => bitsAt img (i * w) w, s.pvOf r⟩

/-- A scalar stand-in of width `w` (R110, R186). -/
def State.scalarSrc (s : State) (r : BitVec 5) (w : Nat) : Src :=
  let x := (s.getS r).toNat % 2 ^ w
  ⟨fun _ => x, s.getP r⟩

/-- The second source: vb, or ss under SB = 1 (R41). -/
def State.second (s : State) (f : VFmt) (w : Nat) : Src :=
  if f.sb then s.scalarSrc f.ss w else s.vecSrc f.vb

/-- The registers that a form with an optional scalar stand-in reads. -/
def vsrcs (f : VFmt) : List (BitVec 5) := if f.sb then [f.va] else [f.va, f.vb]

/-- The governing mask: which of the `vl` elements are active, as bits, and the mask's set (R111). -/
def State.govern (s : State) (gm : BitVec 3) : Nat × PvSet :=
  if gm == 0 then (2 ^ s.vl - 1, pvEmpty)
  else
    let m := s.hart.mreg gm.toNat
    (m.bits % 2 ^ s.vl, m.pv)

/-- The bits of an element group: 64 per lane (R145). -/
def Hart.groupBits (h : Hart) : Nat := 256 * h.laneN

/-- The element group of an element of widest width `wg` (R151). -/
def elemGroup (wg bits i : Nat) : Nat := i * wg / bits

/-- The governing bits of the element group of element `i` are all clear (R112, R161). -/
def groupClear (mask vl wg bits i : Nat) : Bool :=
  let g := elemGroup wg bits i
  let lo := (g * bits + wg - 1) / wg
  let hi := if bits == 0 then vl else min vl (((g + 1) * bits + wg - 1) / wg)
  bitsAt mask lo (hi - lo) == 0

/-- How a form is governed: active bits, the mask's set, DT, ZM, vl, widest width, bits of an element group. -/
structure Gov where
  act : Nat
  pv : PvSet
  dt : Bool
  zm : Bool
  vl : Nat
  wg : Nat
  bits : Nat

/-- The governing fields of a V-format form with widest width `wg`. -/
def State.gov (s : State) (f : VFmt) (wg : Nat) : Gov :=
  let (a, p) := s.govern f.gm
  ⟨a, p, f.dt, f.zm, s.vl, wg, s.hart.groupBits⟩

/-- Element `i` is masked off and written as zero (R112). -/
def Gov.zeroes (g : Gov) (i : Nat) : Bool := g.zm && !(g.dt && groupClear g.act g.vl g.wg g.bits i)

/-- The element-wise effect over elements `i` to `i + n - 1` of an image, in ascending order, threading what the
results carry along (flags, generator state) (R112). -/
def elemRun (g : Gov) (wd : Nat) (f : Nat → σ → Nat × σ) : Nat → Nat → Nat × σ → Nat × σ
  | 0, _, x => x
  | n + 1, i, (img, t) =>
    elemRun g wd f n (i + 1)
      (if g.act.testBit i then
        let (v, t) := f i t
        (setBitsAt img (i * wd) wd v, t)
      else if g.zeroes i then (setBitsAt img (i * wd) wd 0, t)
      else (img, t))

/-- The element-wise effect of a form without flags on the destination's image. -/
def elemwise (g : Gov) (wd : Nat) (f : Nat → Nat) (img : Nat) : Nat :=
  (elemRun g wd (fun i (u : Unit) => (f i, u)) g.vl 0 (img, ())).1

/-- Writes the destination group of a form: image, result tag, set S = old set, the given sets, VL's set, ctx (R112). -/
def State.writeDst (s : State) (vd : BitVec 5) (t : Tag) (img : Nat) (p : PvSet) : State :=
  let old := s.hart.groupPv vd.toNat t.count
  s.mapHart fun h => h.putGroup s.level t (old ||| p ||| s.vlPv ||| s.ctx) vd.toNat img t.count

/-- The image of a destination group under a result tag. -/
def State.dstImg (s : State) (vd : BitVec 5) (t : Tag) : Nat := s.hart.groupImg s.level vd.toNat t.count

/-- Replaces a mask register. -/
def Hart.setM (h : Hart) (r : Nat) (x : BReg) : Hart :=
  { h with vec := { h.vec with m := h.vec.m.set (r % 8) x (Nat.mod_lt _ (by decide)) } }
/-- A scale register. -/
def Hart.kreg (h : Hart) (r : Nat) : BReg := h.vec.k.get ⟨r % 8, Nat.mod_lt _ (by decide)⟩
/-- Replaces a scale register. -/
def Hart.setK (h : Hart) (r : Nat) (x : BReg) : Hart :=
  { h with vec := { h.vec with k := h.vec.k.set (r % 8) x (Nat.mod_lt _ (by decide)) } }

/-- Writes a mask destination element-wise: its bits, and the set S of R112 (R116, R119). -/
def State.writeMask (s : State) (md : Nat) (bits : Nat) (p : PvSet) : State :=
  s.mapHart fun h => h.setM md ⟨bits, (h.mreg md).pv ||| p ||| s.vlPv ||| s.ctx⟩

/-! ### Types -/

/-- The integer types, codes 1-8 (R114). -/
def isInt (t : Nat) : Bool := decide (1 <= t) && decide (t <= 8)
/-- A signed integer type: I8, I16, I32, I64. -/
def isSigned (t : Nat) : Bool := isInt t && t % 2 == 1
/-- The floating-point types of VFP: FP64, FP32, BF16, FP16 (R186). -/
def isFloat (t : Nat) : Bool := decide (9 <= t) && decide (t <= 12)
/-- An element read per tag: signed for I types, unsigned for UI types (R114). -/
def perTag (t w x : Nat) : Int := if isSigned t then sint w x else ((x % 2 ^ w : Nat) : Int)
/-- The range of a tag's type (R115). -/
def satRange (t w : Nat) : Int × Int :=
  if isSigned t then (-((2 ^ (w - 1) : Nat) : Int), ((2 ^ (w - 1) : Nat) : Int) - 1) else (0, ((2 ^ w : Nat) : Int) - 1)
/-- Clamps an exact value to the range of a type, as a `w`-bit pattern (R115). -/
def saturate (t w : Nat) (x : Int) : Nat :=
  let (lo, hi) := satRange t w
  intMod w (if x < lo then lo else if hi < x then hi else x)

/-- The rounding mode of a form: MD[2:0], or FRM as it was when the form was posted (R39, R72). -/
def State.rmode (s : State) (md : BitVec 4) : Nat :=
  let m := md.toNat % 8
  if m == 6 then (match s.hart.cur with | some it => it.frm.toNat | none => s.hart.csr.frm.toNat) else m

/-- SEGMASK as it was when the form was posted (R199). -/
def State.segmaskReg (s : State) : Nat :=
  match s.hart.cur with | some it => it.segmask.toNat | none => s.hart.csr.segmask.toNat

end Sys2Proof.Machine
end

