-- ==== Sys2Proof/Machine/VFloat.lean ====
section
/-! DEFINITION. Vector floating point (R186-R192) and conversion (R193-R197). -/

namespace Sys2Proof.Machine

/-- What a floating-point instruction threads through its elements: the flags raised and SRSTATE. -/
structure FpSt where
  flags : Nat
  sr : Word

/-- The start of a floating-point instruction. -/
def State.fpStart (s : State) : FpSt := ⟨0, s.hart.csr.srstate⟩

/-- Raises flags. -/
def FpSt.raise (t : FpSt) (f : Nat) : FpSt := { t with flags := t.flags ||| f }

/-- The rounding mode of one call of round(): SR steps the generator (R180). -/
def FpSt.step (t : FpSt) (mode : Nat) (sat : Bool) : RMode × FpSt :=
  if mode == 5 then
    let (x, out) := srStep t.sr
    (⟨5, out.toNat % 2 ^ 32, sat⟩, { t with sr := x })
  else (⟨mode, 0, sat⟩, t)

/-- One rounded result. -/
def FpSt.round (t : FpSt) (f : FFmt) (mode : Nat) (sat : Bool) (x : FVal) : Nat × FpSt :=
  let (m, t) := t.step mode sat
  let (v, fl) := f.round m x
  (v, t.raise fl)

/-- Reads an operand; a signalling NaN raises NV (R173). -/
def FpSt.operand (t : FpSt) (f : FFmt) (x : Nat) : FVal × FpSt :=
  (f.decode x, if f.isSig x then t.raise flagNV else t)

/-- The end of a floating-point instruction (R179): the flags join FSTAT, the set S joins that of FSTAT, and SRSTATE is
as stepped. -/
def State.fpEnd (s : State) (t : FpSt) (p : PvSet) : State :=
  let s := s.mapCsr fun c => { c with fstat := c.fstat ||| BitVec.ofNat 6 t.flags, srstate := t.sr }
  s.mapHart fun h => h.setCsrPv 0x003 (h.csrPv 0x003 ||| p)

/-- The set S that the destination group has just taken. -/
def State.setOfDst (s : State) (vd : BitVec 5) : PvSet := (s.hart.vreg vd.toNat).pv

/-- An element-wise floating-point form over the destination tag `d` (R112, R186): `eff` gives a result. -/
def fpEffect (f : VFmt) (d : Tag) (wg : Nat) (p : PvSet) (eff : Nat → FpSt → Nat × FpSt) (s : State) : State :=
  let g := s.gov f wg
  let (img, t) := elemRun g d.width eff g.vl 0 (s.dstImg f.vd d, s.fpStart)
  let s := s.writeDst f.vd d img (p ||| g.pv)
  s.fpEnd t (s.setOfDst f.vd)

/-- The format of a vector register's type. -/
def State.fmtAt (s : State) (r : BitVec 5) : FFmt := (fmtOf (s.tagOf r).code).getD fp64

/-- A floating-point form of one to three sources (R187, R192): `op` gives the exact result from the decoded operands and
rounds it where the form does. -/
def fpForm (i : Instr) (f : VFmt) (three two : Bool)
    (op : FFmt → FVal → FVal → FVal → FpSt → Nat × FpSt) (s : State) : State :=
  let t := s.tagOf f.va
  let regs := (if two then vsrcs f else [f.va]) ++ (if three then [f.vc] else [])
  vecForm i
    { reads := regs, agree := regs.all fun r => s.tagOf r == t, accept := isFloat t.code,
      dst := some (f.vd, t.count, t.width, s.vl) }
    (regs.any fun r => s.overlapSrc f.vd t r)
    (fun s =>
      let fm := s.fmtAt f.va
      let a := s.vecSrc f.va
      let b := if two then s.second f t.width else ⟨fun _ => 0, pvEmpty⟩
      let c := if three then s.vecSrc f.vc else ⟨fun _ => 0, pvEmpty⟩
      fpEffect f t t.width (a.pv ||| b.pv ||| c.pv)
        (fun k st =>
          let (x, st) := st.operand fm (a.get k)
          let (y, st) := st.operand fm (b.get k)
          let (z, st) := st.operand fm (c.get k)
          op fm x y z st) s) s

/-- An exact value with its flags, rounded into the format (R186). -/
def fpRound (fm : FFmt) (mode : Nat) (x : FVal × Nat) (st : FpSt) : Nat × FpSt :=
  (st.raise x.2).round fm mode false x.1

/-- a x b + c with the product not rounded (R187, R188). -/
def fmaVal (rdn : Bool) (a b c : FVal) : FVal × Nat :=
  let (p, f) := mulVal a b
  if f != 0 then (.nan, f)
  else addVal rdn p c

/-- A rounding form. -/
def fpRounding (i : Instr) (f : VFmt) (three two : Bool) (op : Bool → FVal → FVal → FVal → FVal × Nat) (s : State) : State :=
  let m := s.rmode f.md
  fpForm i f three two (fun fm a b c st => fpRound fm m (op (m == 2) a b c) st) s

/-- VFADD (R187). -/
def execVfadd (f : VFmt) (s : State) : Out := .next (fpRounding (.vfadd f) f false true (fun r a b _ => addVal r a b) s)
/-- VFSUB (R187). -/
def execVfsub (f : VFmt) (s : State) : Out :=
  .next (fpRounding (.vfsub f) f false true (fun r a b _ => addVal r a b.negate) s)
/-- VFMUL (R187). -/
def execVfmul (f : VFmt) (s : State) : Out := .next (fpRounding (.vfmul f) f false true (fun _ a b _ => mulVal a b) s)
/-- VFMA (R187). -/
def execVfma (f : VFmt) (s : State) : Out := .next (fpRounding (.vfma f) f true true (fun r a b c => fmaVal r a b c) s)
/-- VFMS (R187). -/
def execVfms (f : VFmt) (s : State) : Out :=
  .next (fpRounding (.vfms f) f true true (fun r a b c => fmaVal r a b c.negate) s)
/-- VFNMA (R187). -/
def execVfnma (f : VFmt) (s : State) : Out :=
  .next (fpRounding (.vfnma f) f true true (fun r a b c => fmaVal r a.negate b c) s)
/-- VFNMS (R187). -/
def execVfnms (f : VFmt) (s : State) : Out :=
  .next (fpRounding (.vfnms f) f true true (fun r a b c => fmaVal r a.negate b c.negate) s)
/-- VFDIV (R187, R188). -/
def execVfdiv (f : VFmt) (s : State) : Out := .next (fpRounding (.vfdiv f) f false true (fun _ a b _ => divVal a b) s)
/-- VFSQRT (R187, R188). -/
def execVfsqrt (f : VFmt) (s : State) : Out := .next (fpRounding (.vfsqrt f) f false false (fun _ a _ _ => sqrtVal a) s)
/-- VFRCP (R192). -/
def execVfrcp (f : VFmt) (s : State) : Out :=
  .next (fpRounding (.vfrcp f) f false false (fun _ a _ _ => divVal (fint 1) a) s)
/-- VFRSQ (R192). -/
def execVfrsq (f : VFmt) (s : State) : Out := .next (fpRounding (.vfrsq f) f false false (fun _ a _ _ => rsqrtVal a) s)
/-- VFEXP2 (R192). -/
def execVfexp2 (f : VFmt) (s : State) : Out := .next (fpRounding (.vfexp2 f) f false false (fun _ a _ _ => exp2Val a) s)
/-- VFLOG2 (R192). -/
def execVflog2 (f : VFmt) (s : State) : Out := .next (fpRounding (.vflog2 f) f false false (fun _ a _ _ => log2Val a) s)

/-- A value that is representable, encoded without rounding (R189). -/
def FFmt.exact (f : FFmt) (x : FVal) : Nat := (f.round ⟨0, 0, false⟩ x).1

/-- VFMIN (R189). -/
def execVfmin (f : VFmt) (s : State) : Out :=
  .next (fpForm (.vfmin f) f false true (fun fm a b _ st => (fm.exact (minVal a b), st)) s)
/-- VFMAX (R189). -/
def execVfmax (f : VFmt) (s : State) : Out :=
  .next (fpForm (.vfmax f) f false true (fun fm a b _ st => (fm.exact (maxVal a b), st)) s)
/-- VFABS (R189). -/
def execVfabs (f : VFmt) (s : State) : Out :=
  .next (fpForm (.vfabs f) f false false (fun fm a _ _ st => (fm.exact (a.withSign false), st)) s)
/-- VFNEG (R189). -/
def execVfneg (f : VFmt) (s : State) : Out :=
  .next (fpForm (.vfneg f) f false false (fun fm a _ _ st => (fm.exact a.negate, st)) s)

/-- The condition of VFCMP (R190). -/
def fcmpCond (c : Nat) (a b : FVal) : Bool :=
  let uo := a.isNan || b.isNan
  match c with
  | 0 => !uo && !ltVal a b && !ltVal b a
  | 1 => uo || ltVal a b || ltVal b a
  | 2 => !uo && ltVal a b
  | 3 => !uo && !ltVal b a
  | 4 => !uo && ltVal b a
  | 5 => !uo && !ltVal a b
  | 6 => uo
  | _ => !uo

/-- VFCMP (R190). -/
def execVfcmp (f : VFmt) (s : State) : Out :=
  let t := s.tagOf f.va
  .next (vecForm (.vfcmp f) { reads := vsrcs f, agree := f.sb || s.tagOf f.vb == t, accept := isFloat t.code } false
    (fun s =>
      let fm := s.fmtAt f.va
      let a := s.vecSrc f.va
      let b := s.second f t.width
      let g := s.gov f t.width
      let md := f.vd.toNat % 8
      let (bits, st) := elemRun g 1 (fun k (st : FpSt) =>
        let (x, st) := st.operand fm (a.get k)
        let (y, st) := st.operand fm (b.get k)
        let quiet := 2 <= f.md.toNat && f.md.toNat <= 5 && (x.isNan || y.isNan)
        (if fcmpCond f.md.toNat x y then 1 else 0, if quiet then st.raise flagNV else st)) g.vl 0
        ((s.hart.mreg md).bits, s.fpStart)
      let s := s.writeMask md bits (a.pv ||| b.pv ||| g.pv)
      s.fpEnd st (s.hart.mreg md).pv) s)

/-- The class number of an encoding (R191). -/
def FFmt.classOf (f : FFmt) (x : Nat) : Nat :=
  match f.decode x with
  | .nan => if f.isSig x then 8 else 9
  | .inf n => if n then 0 else 7
  | .fin n m _ _ =>
    if m == 0 then (if n then 3 else 4)
    else if bitsAt x f.mb f.eb == 0 then (if n then 2 else 5)
    else (if n then 1 else 6)

/-- VFCLASS (R191): an unsigned result of the source's width. -/
def execVfclass (f : VFmt) (s : State) : Out :=
  let t := s.tagOf f.va
  let d : Tag := { t with ty := if t.width == 16 then 4 else if t.width == 32 then 6 else 8, bl := 0 }
  .next (vecForm (.vfclass f)
    { reads := [f.va], accept := isFloat t.code, dst := some (f.vd, t.count, t.width, s.vl) } (s.overlapSrc f.vd d f.va)
    (fun s =>
      let fm := s.fmtAt f.va
      let a := s.vecSrc f.va
      fpEffect f d t.width a.pv (fun k st => (2 ^ fm.classOf (a.get k), st)) s) s)

/-! ### Conversion (R193-R197) -/

/-- Type codes that VCVT takes as source and target (R194). -/
def isCvt (t : Nat) : Bool := (decide (1 <= t) && decide (t <= 14)) || t == 17

/-- The target of a conversion is well formed (R193): a type code, and a block length only on a scaled type. -/
def TagImm.ok (t : TagImm) : Bool := t.ty != 0 && decide (t.ty < 21) && (t.bl == 0 || isScaled t.ty)

/-- One converted element (R178, R194): source type and width, target type and width. -/
def convert (ts ws td wd : Nat) (mode : Nat) (sat : Bool) (x : Nat) (st : FpSt) : Nat × FpSt :=
  match fmtOf ts, fmtOf td with
  | none, none => (if sat && decide (wd <= ws) then saturate td wd (perTag ts ws x) else intMod wd (perTag ts ws x), st)
  | none, some fd => st.round fd mode sat (fint (perTag ts ws x))
  | some fs, none =>
    let (v, st) := st.operand fs x
    let (m, st) := st.step mode sat
    let (r, fl) := roundToInt td wd m v
    (r, st.raise fl)
  | some fs, some fd =>
    let (v, st) := st.operand fs x
    st.round fd mode sat v

/-- A conversion form whose target tag is `d`; `has` says that the source has a target, whose group is then checked. -/
def convertForm (i : Instr) (f : VFmt) (d : Tag) (has accept : Bool) (sub : Bool) (mode : Nat) (sat : Bool) (s : State) : State :=
  let t := s.tagOf f.va
  vecForm i { reads := [f.va], accept := accept, dst := if has then some (f.vd, d.count, d.width, s.vl) else none } (s.overlapSrc f.vd d f.va)
    (fun s =>
      let a := s.vecSrc f.va
      fpEffect f d (max t.width d.width) a.pv
        (fun k st => convert t.code t.width d.code d.width mode sat (a.get k) st) (setFsub sub s)) s

/-- VCVT (R193, R194). -/
def execVcvt (f : VFmt) (s : State) : Out :=
  let t := s.tagOf f.va
  let d := tagImm f.imm.toNat
  let sat := f.md.getLsbD 3
  .next (convertForm (.vcvt f) f d.tag true
    (isCvt t.code && d.ok && isCvt d.ty && (!sat || isInt d.ty || d.ty == 14)) d.sub (s.rmode f.md) sat s)

/-- The target type of VWIDEN (R195). -/
def widenType (t : Nat) : Nat :=
  match t with
  | 1 => 3 | 2 => 4 | 3 => 5 | 4 => 6 | 5 => 7 | 6 => 8
  | 17 => 13 | 13 => 12 | 14 => 12 | 12 => 10 | 11 => 10 | 10 => 9
  | _ => 0

/-- The target type of VNARROW (R195). -/
def narrowType (t : Nat) (alt : Bool) : Nat :=
  match alt, t with
  | false, 3 => 1 | false, 4 => 2 | false, 5 => 3 | false, 6 => 4 | false, 7 => 5 | false, 8 => 6
  | false, 13 => 17 | false, 12 => 13 | false, 11 => 13 | false, 10 => 12 | false, 9 => 10
  | true, 12 => 14 | true, 11 => 14 | true, 10 => 11
  | _, _ => 0

/-- VWIDEN (R195): exact, and without a step of SRSTATE (R180). -/
def execVwiden (f : VFmt) (s : State) : Out :=
  let t := s.tagOf f.va
  let d := widenType t.code
  .next (convertForm (.vwiden f) f ⟨BitVec.ofNat 5 d, t.g + 1, 0⟩ (d != 0 && t.g != 3) (d != 0 && t.g != 3) false 0 false s)

/-- VNARROW (R195). -/
def execVnarrow (f : VFmt) (s : State) : Out :=
  let t := s.tagOf f.va
  let d := narrowType t.code (f.imm.getLsbD 0)
  let sat := f.md.getLsbD 3
  .next (convertForm (.vnarrow f) f ⟨BitVec.ofNat 5 d, if t.g == 0 then 0 else t.g - 1, 0⟩ (d != 0)
    (d != 0 && (!sat || isInt d || d == 14)) false (s.rmode f.md) sat s)

/-- A container of a scale register, as its E4M5 code (R171). -/
def container (k : BReg) (c : Nat) : Nat := bitsAt k.bits (16 * c) 9

/-- The last active element of a mask lies beyond the containers of a scale register (R171). -/
def beyondScale (act bl : Nat) : Bool := act != 0 && decide (256 <= act.log2 >>> bl)

/-- An element of a scaled type read under a scale (R171), with its flags. -/
def scaled (f : FFmt) (x : Nat) (scale : Nat) : FVal × Nat :=
  let (v, fl) := mulVal (f.decode x) (e4m5.decode scale)
  (v, if f.isSig x then fl ||| flagNV else fl)

/-- VSCALE (R196). -/
def execVscale (f : VFmt) (s : State) : Out :=
  let t := s.tagOf f.va
  let d := tagImm f.imm.toNat
  let mode := s.rmode f.md
  .next (vecForm (.vscale f)
    { reads := [f.va], unscaled := beyondScale (s.govern f.gm).1 t.bl.toNat,
      accept := isScaled t.code && d.ok && isFloat d.ty, dst := some (f.vd, d.tag.count, d.tag.width, s.vl) }
    (s.overlapSrc f.vd d.tag f.va)
    (fun s =>
      let fs := s.fmtAt f.va
      let fd := (fmtOf d.ty).getD fp64
      let a := s.vecSrc f.va
      let k := s.hart.kreg f.vc.toNat
      fpEffect f d.tag (max t.width d.tag.width) (a.pv ||| k.pv)
        (fun i st => fpRound fd mode (scaled fs (a.get i) (container k (i >>> t.bl.toNat))) st) s) s)

/-- The scale of a block (R197): the code for its largest active finite magnitude, and the flags of clamping. -/
def blockScale (q : Nat) (amax : FVal) : Nat × Nat :=
  if amax.isZero then (0x0E0, 0)
  else
    let (c, fl) := e4m5.round ⟨3, 0, false⟩ (divVal amax (fint q)).1
    (c, if fl &&& flagOF != 0 then flagOF + flagNX else 0)

/-- The largest active finite magnitude of the elements `lo` to `lo + n - 1` (R197). -/
def blockMax (fs : FFmt) (a : Nat → Nat) (act : Nat) : Nat → Nat → FVal → FVal
  | _, 0, m => m
  | lo, n + 1, m =>
    let x := (fs.decode (a lo)).withSign false
    blockMax fs a act (lo + 1) n (if act.testBit lo && !x.isNan && !x.isInf && ltVal m x then x else m)

/-- The scales of the blocks `c` to `c + n - 1` that hold an active element (R197). -/
def quantScales (fs : FFmt) (a : Nat → Nat) (act q bl vl : Nat) : Nat → Nat → Nat × Nat → Nat × Nat
  | _, 0, x => x
  | c, n + 1, (k, fl) =>
    let lo := c <<< bl
    let len := min (2 ^ bl) (vl - lo)
    if bitsAt act lo len == 0 then quantScales fs a act q bl vl (c + 1) n (k, fl)
    else
      let (sc, f) := blockScale q (blockMax fs a act lo len (fzero false))
      quantScales fs a act q bl vl (c + 1) n (setBitsAt k (16 * c) 16 sc, fl ||| f)

/-- VQUANT (R197). -/
def execVquant (f : VFmt) (s : State) : Out :=
  let t := s.tagOf f.va
  let d := tagImm f.imm.toNat
  let sat := f.md.getLsbD 3
  let mode := s.rmode f.md
  let act := (s.govern f.gm).1
  .next (vecForm (.vquant f)
    { reads := [f.va], unscaled := d.ok && beyondScale act d.bl,
      accept := isFloat t.code && d.ok && isScaled d.ty && (!sat || d.ty == 14),
      dst := some (f.vd, d.tag.count, d.tag.width, s.vl) }
    (s.overlapSrc f.vd d.tag f.va)
    (fun s =>
      let s := setFsub d.sub s
      let fs := s.fmtAt f.va
      let fd := (fmtOf d.ty).getD e2m1
      let q := if d.ty == 13 then 448 else if d.ty == 14 then 57344 else 6
      let a := s.vecSrc f.va
      let kn := f.vc.toNat
      let k := s.hart.kreg kn
      let (bits, fl) := quantScales fs a.get act q d.bl s.vl 0 (s.vl / 2 ^ d.bl + 1) (k.bits, 0)
      let k' : BReg := ⟨bits, k.pv⟩
      let g := s.gov f (max t.width d.tag.width)
      let (img, st) := elemRun g d.tag.width (fun i (st : FpSt) =>
        let (x, st) := st.operand fs (a.get i)
        let (v, e) := divVal x (e4m5.decode (container k' (i >>> d.bl)))
        (st.raise e).round fd mode sat v) g.vl 0 (s.dstImg f.vd d.tag, s.fpStart.raise fl)
      let s := s.writeDst f.vd d.tag img (a.pv ||| g.pv)
      let p := s.setOfDst f.vd
      let s := s.mapHart fun h => h.setK kn ⟨bits, k.pv ||| p⟩
      s.fpEnd st p) s)

end Sys2Proof.Machine
end

