-- ==== Sys2Proof/Machine/VReduce.lean ====
section
/-! DEFINITION. Segments, reductions and scans (R199-R203), permutation (R204, R205), packed pixels (R206). -/

namespace Sys2Proof.Machine

/-- The segments of the elements below vl, as first elements and lengths (R199): `mask` holds the bits that open one. -/
def segmentsFrom (mask vl : Nat) : Nat → Nat → Nat → List (Nat × Nat)
  | 0, first, i => if i == first then [] else [(first, i - first)]
  | n + 1, first, i =>
    if i != first && mask.testBit i then (first, i - first) :: segmentsFrom mask vl n i (i + 1)
    else segmentsFrom mask vl n first (i + 1)

/-- The segment mask of the hart: its bits, 0 when SEGMASK is 0, and its set (R199). -/
def State.segBits (s : State) : Nat × PvSet :=
  let m := s.segmaskReg
  if m == 0 then (0, pvEmpty) else ((s.hart.mreg m).bits, (s.hart.mreg m).pv)

/-- The segments in force (R199). -/
def State.segments (s : State) : List (Nat × Nat) := segmentsFrom s.segBits.1 s.vl s.vl 0 0

/-- The number of segments (R199). -/
def State.nseg (s : State) : Nat := s.segments.length

/-- The inactive value of an integer reduction (R200). -/
def redInit (op w : Nat) : Int :=
  match op with
  | 1 => ((2 ^ w : Nat) : Int) - 1
  | 4 => ((2 ^ (w - 1) : Nat) : Int) - 1
  | 5 => -((2 ^ (w - 1) : Nat) : Int)
  | 6 => ((2 ^ w : Nat) : Int) - 1
  | _ => 0

/-- An element as an integer reduction reads it. -/
def redElem (op t w x : Nat) : Int :=
  match op with
  | 0 => perTag t w x
  | 4 => sint w x
  | 5 => sint w x
  | _ => ((x % 2 ^ w : Nat) : Int)

/-- One step of an integer reduction (R200). -/
def redStep (op : Nat) (a b : Int) : Int :=
  match op with
  | 0 => a + b
  | 1 => ((a.toNat &&& b.toNat : Nat) : Int)
  | 2 => ((a.toNat ||| b.toNat : Nat) : Int)
  | 3 => ((a.toNat ^^^ b.toNat : Nat) : Int)
  | 4 => min a b
  | 5 => max a b
  | 6 => min a b
  | _ => max a b

/-- The result of an integer reduction: add saturates under MD[3] (R200). -/
def redOut (op t w : Nat) (sat : Bool) (x : Int) : Nat := if op == 0 && sat then saturate t w x else intMod w x

/-- An integer reduction over the active elements of `n` elements from `i` on. -/
def redOver (op t w : Nat) (get : Nat → Nat) (act : Nat) : Nat → Nat → Int → Int
  | _, 0, x => x
  | i, n + 1, x => redOver op t w get act (i + 1) n (if act.testBit i then redStep op x (redElem op t w (get i)) else x)

/-- Writes elements 0, 1, ... of an image. -/
def putElems (w : Nat) : Nat → List Nat → Nat → Nat
  | _, [], img => img
  | j, x :: xs, img => putElems w (j + 1) xs (setBitsAt img (j * w) w x)

/-- VRED (R200). -/
def execVred (f : VFmt) (s : State) : Out :=
  let t := s.tagOf f.va
  let op := f.imm.toNat % 8
  .next (vecForm (.vred f) { reads := [f.va], agree := s.tagOf f.vd == t, tagged := [f.vd], accept := isInt t.code }
    (s.overlapAny f.vd t f.va)
    (fun s =>
      let w := t.width
      let a := s.vecSrc f.va
      let (act, p) := s.govern f.gm
      let out := s.segments.map fun g =>
        redOut op t.code w (f.md.getLsbD 3) (redOver op t.code w a.get act g.1 g.2 (redInit op w))
      s.writeDst f.vd t (putElems w 0 out (s.dstImg f.vd t)) (a.pv ||| p ||| s.segBits.2)) s)

/-- The segment number of an element: segments opened up to it (R199). -/
def segOf (mask i : Nat) : Nat := bitsAt mask 1 i |> fun x => popCount x i

/-- VSCAN (R200). -/
def execVscan (f : VFmt) (s : State) : Out :=
  let t := s.tagOf f.va
  let op := f.imm.toNat % 8
  .next (vecForm (.vscan f) { reads := [f.va], agree := s.tagOf f.vd == t, tagged := [f.vd], accept := isInt t.code }
    (s.overlapSrc f.vd t f.va)
    (fun s =>
      let w := t.width
      let a := s.vecSrc f.va
      let g := s.gov f w
      let (mask, mp) := s.segBits
      let (img, _) := elemRun g w (fun i (st : Nat × Int) =>
        let j := segOf mask i
        let x := redStep op (if st.1 == j + 1 then st.2 else redInit op w) (redElem op t.code w (a.get i))
        (redOut op t.code w (f.md.getLsbD 3) x, (j + 1, x))) g.vl 0 (s.dstImg f.vd t, (0, 0))
      s.writeDst f.vd t img (a.pv ||| g.pv ||| mp)) s)

/-! ### Floating-point reductions and scans (R182, R183, R201) -/

/-- One rounded addition in an accumulation format. -/
def fpAdd (fm : FFmt) (mode : Nat) (a b : Nat) (st : FpSt) : Nat × FpSt :=
  fpRound fm mode (addVal (mode == 2) (fm.decode a) (fm.decode b)) st

/-- One level of the tree order (R182). -/
def treeLevel (fm : FFmt) (mode : Nat) : List Nat → FpSt → List Nat × FpSt
  | a :: b :: l, st =>
    let (x, st) := fpAdd fm mode a b st
    let (r, st) := treeLevel fm mode l st
    (x :: r, st)
  | l, st => (l, st)

/-- The encoding of -0.0. -/
def FFmt.negZero (f : FFmt) : Nat := f.signBit true

/-- The tree-order sum (R182); the first argument bounds the number of levels. -/
def treeSum (fm : FFmt) (mode : Nat) : Nat → List Nat → FpSt → Nat × FpSt
  | _, [], st => (fm.negZero, st)
  | _, [x], st => (x, st)
  | 0, x :: _, st => (x, st)
  | n + 1, l, st =>
    let (l, st) := treeLevel fm mode l st
    treeSum fm mode n l st

/-- An element converted exactly into the accumulation format (R201). -/
def toAcc (fs fd : FFmt) (x : Nat) (st : FpSt) : Nat × FpSt :=
  let (v, st) := st.operand fs x
  (fd.exact v, st)

/-- The elements `i` to `i + n - 1` in the accumulation format, masked-off ones as -0.0 (R182). -/
def accList (fs fd : FFmt) (get : Nat → Nat) (act : Nat) : Nat → Nat → FpSt → List Nat × FpSt
  | _, 0, st => ([], st)
  | i, n + 1, st =>
    let (x, st) := if act.testBit i then toAcc fs fd (get i) st else (fd.negZero, st)
    let (l, st) := accList fs fd get act (i + 1) n st
    (x :: l, st)

/-- One element joins a running value (R183, R201): ascending sum, minimum or maximum. -/
def runStep (fd : FFmt) (op mode : Nat) (acc : Option Nat) (x : Nat) (st : FpSt) : Nat × FpSt :=
  match acc with
  | none => (x, st)
  | some a =>
    match op with
    | 0 => fpAdd fd mode a x st
    | 1 => (fd.exact (minVal (fd.decode a) (fd.decode x)), st)
    | _ => (fd.exact (maxVal (fd.decode a) (fd.decode x)), st)

/-- The running value over the active elements of `n` elements from `i` on. -/
def runOver (fs fd : FFmt) (op mode : Nat) (get : Nat → Nat) (act : Nat) : Nat → Nat → Option Nat × FpSt → Option Nat × FpSt
  | _, 0, x => x
  | i, n + 1, (acc, st) =>
    if act.testBit i then
      let (x, st) := toAcc fs fd (get i) st
      let (v, st) := runStep fd op mode acc x st
      runOver fs fd op mode get act (i + 1) n (some v, st)
    else runOver fs fd op mode get act (i + 1) n (acc, st)

/-- The value of a segment with no active element and no start (R201). -/
def redNone (fd : FFmt) (op : Nat) : Nat :=
  match op with
  | 0 => fd.negZero
  | 1 => fd.infBits
  | _ => fd.signBit true + fd.infBits

/-- How a floating-point reduction or scan works: source and accumulation formats, op, ascending order, rounding mode,
the source's elements and the starting operand of a segment (R201). -/
structure FRed where
  fs : FFmt
  fd : FFmt
  op : Nat
  asc : Bool
  mode : Nat
  get : Nat → Nat
  start : Nat → Option Nat

/-- The starting operand of a segment, read as an operand of its format is (R173, R186, R201). -/
def FRed.starts (r : FRed) (j : Nat) (st : FpSt) : Option Nat × FpSt :=
  match r.start j with
  | none => (none, st)
  | some x => let (x, st) := toAcc r.fd r.fd x st; (some x, st)

/-- The value of the `n` elements from `i` on, in segment `j` (R201). -/
def FRed.value (r : FRed) (act j i n : Nat) (st : FpSt) : Nat × FpSt :=
  if r.op == 0 && !r.asc then
    let (l, st) := accList r.fs r.fd r.get act i n st
    treeSum r.fd r.mode n l st
  else
    let (v, st) := runOver r.fs r.fd r.op r.mode r.get act i n (r.starts j st)
    (v.getD (redNone r.fd r.op), st)

/-- The values of the segments, in ascending order (R180). -/
def FRed.segs (r : FRed) (act : Nat) : Nat → List (Nat × Nat) → FpSt → List Nat × FpSt
  | _, [], st => ([], st)
  | j, g :: l, st =>
    let (x, st) := r.value act j g.1 g.2 st
    let (xs, st) := r.segs act (j + 1) l st
    (x :: xs, st)

/-- The reduction that the fields and tags of VFRED and VFSCAN name; a starting operand is converted from `vb`, which
carries vd's tag, or from s[ss] (R201). -/
def State.fred (s : State) (f : VFmt) : FRed :=
  let fd := s.fmtAt f.vd
  let w := (s.tagOf f.vd).width
  let b := s.second f w
  { fs := s.fmtAt f.va, fd := fd, op := f.imm.toNat % 8, asc := f.imm.getLsbD 3, mode := s.rmode f.md,
    get := (s.vecSrc f.va).get, start := fun j => if f.imm.getLsbD 4 then some (b.get j) else none }

/-- vd's format is the source format or a wider one among FP32 and FP64 (R201). -/
def accOk (ts td : Nat) : Bool := isFloat ts && isFloat td && (td == ts || td == 9 || (td == 10 && ts != 9))

/-- The tag checks of VFRED and VFSCAN (R201). A starting group holds one element per segment. -/
def State.fredCheck (s : State) (f : VFmt) : TagCheck :=
  let t := s.tagOf f.va
  let d := s.tagOf f.vd
  let vecStart := f.imm.getLsbD 4 && !f.sb
  { reads := [f.va], agree := !vecStart || s.tagOf f.vb == d, tagged := f.vd :: (if vecStart then [f.vb] else []),
    holds := if vecStart then [(f.vb, s.nseg)] else [], short := if vecStart && f.vb != f.vd then [f.vb] else [],
    accept := accOk t.code d.code }

/-- A starting operand that is a vector register and untagged is read (R109). -/
def State.fredReads (s : State) (f : VFmt) : TagCheck :=
  let c := s.fredCheck f
  if f.imm.getLsbD 4 && !f.sb then { c with reads := [f.va, f.vb], tagged := [f.vd] } else c

/-- The set of the starting operand (R201). -/
def State.startPv (s : State) (f : VFmt) : PvSet :=
  if f.imm.getLsbD 4 then (if f.sb then s.getP f.ss else s.pvOf f.vb) else pvEmpty

/-- VFRED writes one element per segment, so vd holds that many (R201; DEDUCED from R315). -/
def State.vfredCheck (s : State) (f : VFmt) : TagCheck :=
  let c := s.fredReads f
  { c with holds := (f.vd, s.nseg) :: c.holds, short := f.vd :: c.short }

/-- VFRED (R201). -/
def execVfred (f : VFmt) (s : State) : Out :=
  let d := s.tagOf f.vd
  .next (vecForm (.vfred f) (s.vfredCheck f)
    (s.overlapAny f.vd d f.va || (f.imm.getLsbD 4 && !f.sb && s.overlapAny f.vd d f.vb))
    (fun s =>
      let (act, p) := s.govern f.gm
      let (out, st) := (s.fred f).segs act 0 s.segments s.fpStart
      let q := s.pvOf f.va ||| p ||| s.segBits.2 ||| s.startPv f
      let s := s.writeDst f.vd d (putElems d.width 0 out (s.dstImg f.vd d)) q
      s.fpEnd st (s.setOfDst f.vd)) s)

/-- The first element of the segment of an element. -/
def segFirst (mask : Nat) : Nat → Nat
  | 0 => 0
  | n + 1 => if mask.testBit (n + 1) then n + 1 else segFirst mask n

/-- VFSCAN (R201). -/
def execVfscan (f : VFmt) (s : State) : Out :=
  let t := s.tagOf f.va
  let d := s.tagOf f.vd
  .next (vecForm (.vfscan f) (s.fredReads f)
    (s.overlapSrc f.vd d f.va || (f.imm.getLsbD 4 && !f.sb && s.overlapSrc f.vd d f.vb))
    (fun s =>
      let r := s.fred f
      let g := s.gov f (max t.width d.width)
      let (mask, mp) := s.segBits
      let (img, st) := elemRun g d.width (fun i (x : FpSt × Nat × Option Nat) =>
        let j := segOf mask i
        if r.op == 0 && !r.asc then
          let lo := segFirst mask i
          let (v, st) := r.value g.act j lo (i + 1 - lo) x.1
          (v, (st, x.2))
        else
          let (acc, st) := if x.2.1 == j + 1 then (x.2.2, x.1) else r.starts j x.1
          let (y, st) := toAcc r.fs r.fd (r.get i) st
          let (v, st) := runStep r.fd r.op r.mode acc y st
          (v, (st, j + 1, some v))) g.vl 0 (s.dstImg f.vd d, (s.fpStart, 0, none))
      let s := s.writeDst f.vd d img (s.pvOf f.va ||| g.pv ||| mp ||| s.startPv f)
      s.fpEnd st.1 (s.setOfDst f.vd)) s)

/-- VSEGPACK (R202). -/
def execVsegpack (f : VFmt) (s : State) : Out :=
  let d := s.tagOf f.vd
  .next (vecForm (.vsegpack f) { reads := [], tagged := [f.vd], accept := isInt d.code } false
    (fun s =>
      let (act, p) := s.govern f.gm
      let out := s.segments.map fun g => if f.imm.getLsbD 0 then popCount (bitsAt act g.1 g.2) g.2 else g.1
      s.writeDst f.vd d (putElems d.width 0 out (s.dstImg f.vd d)) (p ||| s.segBits.2)) s)

/-! ### Permutation (R204, R205) -/

/-- VPERM-major forms accept every type but 0 and the packed pixels (R204). -/
def isPerm (t : Nat) : Bool := t != 0 && !(decide (18 <= t) && decide (t <= 20))

/-- A permuting form (R204): vd keeps its tag, which must match va's type and block length. -/
def permForm (i : Instr) (f : VFmt) (reads : List (BitVec 5)) (agree accept : Bool) (holds : List (BitVec 5 × Nat))
    (eff : State → State) (s : State) : State :=
  let t := s.tagOf f.va
  let d := s.tagOf f.vd
  vecForm i
    { reads := reads, tagged := [f.vd], agree := agree && d.ty == t.ty && d.bl == t.bl, holds := holds,
      accept := isPerm t.code && accept }
    (reads.any fun r => s.overlapAny f.vd d r) eff s

/-- An element of a group, or 0 beyond its capacity (R205). -/
def State.elemOr0 (s : State) (r : BitVec 5) (i : Nat) : Nat :=
  let t := s.tagOf r
  if i < capacity t.width t.count s.level then bitsAt (s.imgOf r) (i * t.width) t.width else 0

/-- VPERM (R205). -/
def execVperm (f : VFmt) (s : State) : Out :=
  .next (permForm (.vperm f) f [f.va, f.vb] true (isInt (s.tagOf f.vb).code) []
    (fun s =>
      let d := s.tagOf f.vd
      let b := s.vecSrc f.vb
      let g := s.gov f (max d.width (s.tagOf f.vb).width)
      let img := elemwise g d.width (fun i => s.elemOr0 f.va (b.get i)) (s.dstImg f.vd d)
      s.writeDst f.vd d img (s.pvOf f.va ||| b.pv ||| g.pv)) s)

/-- The shift or index operand: imm12, or s[ss] under SB (R205), with its set. -/
def State.shiftArg (s : State) (f : VFmt) : Nat × PvSet :=
  if f.sb then ((s.getS f.ss).toNat, s.getP f.ss) else (f.imm.toNat, pvEmpty)

/-- VSLIDEUP (R205): elements below n are unchanged, even under ZM. -/
def execVslideup (f : VFmt) (s : State) : Out :=
  .next (permForm (.vslideup f) f [f.va] true true []
    (fun s =>
      let d := s.tagOf f.vd
      let a := s.vecSrc f.va
      let (n, p) := s.shiftArg f
      let g := s.gov f d.width
      let old := s.dstImg f.vd d
      let k := min n s.vl * d.width
      let img := elemwise g d.width (fun i => a.get (i - n)) old
      s.writeDst f.vd d (setBitsAt img 0 k old) (a.pv ||| p ||| g.pv)) s)

/-- VSLIDEDN (R205). -/
def execVslidedn (f : VFmt) (s : State) : Out :=
  .next (permForm (.vslidedn f) f [f.va] true true []
    (fun s =>
      let d := s.tagOf f.vd
      let a := s.vecSrc f.va
      let (n, p) := s.shiftArg f
      let g := s.gov f d.width
      let img := elemwise g d.width (fun i => if i + n < s.vl then a.get (i + n) else 0) (s.dstImg f.vd d)
      s.writeDst f.vd d img (a.pv ||| p ||| g.pv)) s)

/-- VZIP (R205). -/
def execVzip (f : VFmt) (s : State) : Out :=
  .next (permForm (.vzip f) f [f.va, f.vb] (s.tagOf f.vb == s.tagOf f.va) true [(f.vd, 2 * s.vl)]
    (fun s =>
      let d := s.tagOf f.vd
      let a := s.vecSrc f.va
      let b := s.vecSrc f.vb
      let out := (List.range (2 * s.vl)).map fun k => if k % 2 == 0 then a.get (k / 2) else b.get (k / 2)
      s.writeDst f.vd d (putElems d.width 0 out (s.dstImg f.vd d)) (a.pv ||| b.pv)) s)

/-- VUNZIP (R205). -/
def execVunzip (f : VFmt) (s : State) : Out :=
  .next (permForm (.vunzip f) f [f.va] true true []
    (fun s =>
      let d := s.tagOf f.vd
      let a := s.vecSrc f.va
      let p := f.imm.toNat % 2
      let out := (List.range ((s.vl + 1 - p) / 2)).map fun i => a.get (2 * i + p)
      s.writeDst f.vd d (putElems d.width 0 out (s.dstImg f.vd d)) a.pv) s)

/-- VCOMPRESS (R205). -/
def execVcompress (f : VFmt) (s : State) : Out :=
  .next (permForm (.vcompress f) f [f.va] true true []
    (fun s =>
      let d := s.tagOf f.vd
      let a := s.vecSrc f.va
      let (act, p) := s.govern f.gm
      let out := ((List.range s.vl).filter fun i => act.testBit i).map a.get
      s.writeDst f.vd d (putElems d.width 0 out (s.dstImg f.vd d)) (a.pv ||| p)) s)

/-- VBCAST (R205). -/
def execVbcast (f : VFmt) (s : State) : Out :=
  .next (permForm (.vbcast f) f [f.va] true true []
    (fun s =>
      let d := s.tagOf f.vd
      let (n, p) := s.shiftArg f
      let g := s.gov f d.width
      let x := s.elemOr0 f.va n
      s.writeDst f.vd d (elemwise g d.width (fun _ => x) (s.dstImg f.vd d)) (s.pvOf f.va ||| p ||| g.pv)) s)

/-! ### Packed pixels (R206) -/

/-- A packed-pixel type: PX10, PX12, PX14. -/
def isPixel (t : Nat) : Bool := decide (18 <= t) && decide (t <= 20)
/-- A wide type of the pixel forms: UI16, UI32. -/
def isPixWide (t : Nat) : Bool := t == 4 || t == 6

/-- A pixel form with its type condition and result. -/
def pixForm (i : Instr) (f : VFmt) (accept : Bool) (op : Nat → Nat) (s : State) : State :=
  let t := s.tagOf f.va
  let d := s.tagOf f.vd
  vecForm i { reads := [f.va], tagged := [f.vd], accept := accept } (s.overlapAny f.vd d f.va)
    (fun s =>
      let a := s.vecSrc f.va
      let g := s.gov f (max t.width d.width)
      s.writeDst f.vd d (elemwise g d.width (fun k => op (a.get k)) (s.dstImg f.vd d)) (a.pv ||| g.pv)) s

/-- VUNPK (R206). -/
def execVunpk (f : VFmt) (s : State) : Out :=
  let t := s.tagOf f.va
  let d := s.tagOf f.vd
  let sh := f.imm.toNat % 32
  .next (pixForm (.vunpk f) f (isPixel t.code && isPixWide d.code && decide (sh <= d.width - t.width)) (fun a => a <<< sh) s)

/-- VPACKPX (R206). -/
def execVpackpx (f : VFmt) (s : State) : Out :=
  let t := s.tagOf f.va
  let d := s.tagOf f.vd
  let sh := f.imm.toNat % 32
  .next (pixForm (.vpackpx f) f (isPixWide t.code && isPixel d.code && decide (sh <= t.width - 1))
    (fun a =>
      let x := a >>> sh
      if f.md.getLsbD 3 && decide (2 ^ d.width <= x) then 2 ^ d.width - 1 else x % 2 ^ d.width) s)

end Sys2Proof.Machine
end

