-- ==== Sys2Proof/Machine/VMem.lean ====
section
/-! DEFINITION. Vector memory: contiguous, strided and indexed loads and stores (R124-R131, R207-R209), vector atomics
(R210), scale loads and stores (R211). -/

namespace Sys2Proof.Machine

/-- A run of bytes that an element accesses: the element, the address that a trap reports, where the run starts, its
place in the register image in bytes, and its length. -/
structure MRun where
  ix : Nat
  info : Word
  at_ : Word
  off : Nat
  n : Nat

/-- A run of bytes with its physical address. -/
structure PRun where
  ix : Nat
  info : Word
  pa : Nat
  off : Nat
  n : Nat

/-- The active elements of a mask below `vl`, rising. -/
def activeOf (act vl : Nat) : List Nat := (List.range vl).filter fun i => act.testBit i

/-- The runs of elements of a byte-multiple width (R125, R208). -/
def elemRuns (w : Nat) (addr : Nat → Word) (l : List Nat) : List MRun := l.map fun i => ⟨i, addr i, addr i, i * w / 8, w / 8⟩

/-- The bytes of elements of a packed width (R125, R126), each once, under the first listed element that touches it;
the second argument is the first byte not yet listed. -/
def packedRuns (w : Nat) (base : Word) : List Nat → Nat → List MRun
  | [], _ => []
  | i :: l, from_ =>
    let lo := max from_ (i * w / 8)
    let hi := (i * w + w + 7) / 8
    ((List.range (hi - lo)).map fun k =>
      ⟨i, base + BitVec.ofNat 64 (i * w / 8), base + BitVec.ofNat 64 (lo + k), lo + k, 1⟩) ++ packedRuns w base l hi

/-- The runs of a unit-stride access. -/
def unitRuns (w : Nat) (base : Word) (l : List Nat) : List MRun :=
  if w % 8 == 0 then elemRuns w (fun i => base + BitVec.ofNat 64 (i * w / 8)) l else packedRuns w base l 0

/-- Translates every run before any is performed (R127). -/
def translateRuns (v : Via) (p : Perm) (acc : Nat) (reads : Bool) : List MRun → State → Except (Sum TrapRec Wait) (List PRun × State)
  | [], s => .ok ([], s)
  | r :: l, s =>
    match accessVia v r.at_ r.n p acc reads s with
    | .trap t => .error (.inl { t with info := r.info })
    | .wait w => .error (.inr w)
    | .ok pa s =>
      match translateRuns v p acc reads l s with
      | .error e => .error e
      | .ok (ps, s) => .ok (⟨r.ix, r.info, pa, r.off, r.n⟩ :: ps, s)

/-- The walker's marks of the runs translated up to the first that fails (R127, R322). -/
def touchRuns (v : Via) (p : Perm) : List MRun → State → State
  | [], s => s
  | r :: l, s =>
    match xlatVia v r.at_ p s with
    | .ok (_, _, t) => touchRuns v p l t
    | .error _ => s

/-- The governing fields of a VM-format form with widest width `wg`. -/
def State.govM (s : State) (f : VMFmt) (wg : Nat) : Gov :=
  let (a, p) := s.govern f.gm
  ⟨a, p, f.dt, f.zm, s.vl, wg, s.hart.groupBits⟩

/-- base = s[sa] + sext(imm22) (R125). -/
def vbase (f : VMFmt) (s : State) : Word := s.getS f.sa + sext64 f.imm

/-- Two runs of a list share a physical address. -/
def meets : List PRun → Bool
  | [] => false
  | r :: l => l.any (fun q => q.pa == r.pa) || meets l

/-- Puts a run in order of a key. -/
def insertRun (key : Nat → Nat) (r : PRun) : List PRun → List PRun
  | [] => [r]
  | q :: l => if key q.ix < key r.ix then q :: insertRun key r l else r :: q :: l

/-- The order in which the elements of a store or atomic are performed: ascending, or, where an unordered form has
elements that meet, the free order of number `n` (R129, R209, R210; log entry 7). -/
def orderRuns (ordered : Bool) (n : Nat) (l : List PRun) : List PRun :=
  if ordered || !meets l then l else l.foldr (insertRun (Config.orderKey n)) []

/-- The acquire side of a load for every line it reads (R129, R347). -/
def acquireRuns (scope : Nat) (l : List PRun) (s : State) : State :=
  l.foldl (fun s r => acquireAt scope (r.pa / 128) s) s

/-- The release side of a store for every line it writes (R129, R347). -/
def releaseRuns (scope : Nat) (l : List PRun) (s : State) : State :=
  l.foldl (fun s r => releaseAt scope (r.pa / 128) s) s

/-- The union of the sets of the pages read (R128). -/
def runsPv (pv : Nat → PvSet) (l : List PRun) : PvSet := l.foldl (fun p r => p ||| pv r.pa) pvEmpty

/-- The bytes read, each run at its place in the register image. -/
def gather (read : Nat → Nat → Nat) (l : List PRun) : Nat :=
  l.foldl (fun x r => setBitsAt x (8 * r.off) (8 * r.n) (read r.pa r.n)) 0

/-- The result of a load: the destination's elements, its set and the pc (R112, R128). -/
def finishLoad (f : VMFmt) (wg : Nat) (read : Nat → Nat → Nat) (pv : Nat → PvSet) (l : List PRun) (s : State) : State :=
  let t := s.tagOf f.vd
  let g := s.govM f wg
  let big := gather read l
  let img := elemwise g t.width (fun i => bitsAt big (i * t.width) t.width) (s.dstImg f.vd t)
  s.writeDst f.vd t img (g.pv ||| runsPv pv l)

/-- The stored bytes of a run, from a register image. -/
def runBytes (img : Nat) (r : PRun) : List Byte := toLeBytes r.n (bitsAt img (8 * r.off) (8 * r.n))

/-- Checks every page that the runs write against its ceiling, or the egress rule (R128). -/
def checkRuns (p : PvSet) (acc : Nat) (s : State) : List PRun → Option TrapRec
  | [] => none
  | r :: l => match writeCheck r.info r.pa p acc s with | some t => some t | none => checkRuns p acc s l

/-- A memory form past its tag checks: alignment of the active elements, then translation of every run, then the effect
on the translated runs, in a state whose ctx has gained the address flow (R125-R128, R208). -/
def memForm (i : Instr) (v : Via) (bad : Option Word) (p : Perm) (acc : Nat) (reads : Bool) (runs : List MRun) (flow : PvSet)
    (eff : List PRun → State → State) (s : State) : State :=
  match bad with
  | some a => vtrap ⟨7, a, 0, acc⟩ (encode i) s
  | none =>
    match translateRuns v p acc reads runs s with
    | .error (.inl t) => vtrap t (encode i) (touchRuns v p runs s)
    | .error (.inr w) => waitFor w s
    | .ok (l, t) => eff l (t.addCtx flow)

/-- The tag checks and overlap of a memory form (R109, R163). -/
def memChecks (i : Instr) (c : TagCheck) (ovl : Bool) (eff : State → State) (s : State) : State :=
  match tagReason c s with
  | some r => tagTrap i r s
  | none => if ovl then vtrap ⟨11, encode i, 0, 0⟩ (encode i) s else eff s

/-- The address that the misalignment of a contiguous form reports: that of the first active element, when the base or
the stride is no multiple of the element's bytes (R125). -/
def badUnit (w : Nat) (base stride : Word) (addr : Nat → Word) (els : List Nat) : Option Word :=
  match els with
  | [] => none
  | i :: _ => if w % 8 == 0 && (base.toNat % (w / 8) != 0 || stride.toNat % (w / 8) != 0) then some (addr i) else none

/-- The widths of the strided and indexed forms (R125, R208). -/
def isByteWidth (w : Nat) : Bool := w == 8 || w == 16 || w == 32 || w == 64

/-- How a contiguous or indexed form addresses memory: element addresses, the runs of a list of elements, the address of
a misalignment among the active elements, the address flow, the widest width, and the translation structures that it uses (R324). -/
structure Shape where
  addr : Nat → Word
  runs : List Nat → List MRun
  bad : List Nat → Option Word
  flow : PvSet
  wg : Nat
  via : Via

/-- Unit stride (R125). -/
def State.unitShape (s : State) (f : VMFmt) : Shape :=
  let w := (s.tagOf f.vd).width
  let base := vbase f s
  let addr := fun i => base + BitVec.ofNat 64 (i * w / 8)
  ⟨addr, unitRuns w base, badUnit w base 0 addr, s.getP f.sa, w, .unit⟩

/-- A byte stride in s[sb] (R125). -/
def State.strideShape (s : State) (f : VMFmt) : Shape :=
  let w := (s.tagOf f.vd).width
  let base := vbase f s
  let st := s.getS f.sb
  let addr := fun i => base + BitVec.ofNat 64 i * st
  ⟨addr, elemRuns w addr, badUnit w base st addr, s.getP f.sa ||| s.getP f.sb, w, .gather⟩

/-- The index register of an indexed form: the sb field names vb (R35, R207). -/
def State.indexShape (s : State) (f : VMFmt) : Shape :=
  let w := (s.tagOf f.vd).width
  let base := vbase f s
  let t := s.tagOf f.sb
  let x := s.vecSrc f.sb
  let addr := fun i => base + BitVec.ofInt 64 (perTag t.code t.width (x.get i))
  ⟨addr, elemRuns w addr, fun l => (l.find? fun i => (addr i).toNat % (w / 8) != 0).map addr, s.getP f.sa ||| x.pv, max w t.width, .gather⟩

/-- A vector load of a shape (R128). -/
def vload (i : Instr) (f : VMFmt) (sh : Shape) (s : State) : State :=
  let els := activeOf (s.govern f.gm).1 s.vl
  memForm i sh.via (sh.bad els) .read 2 true (sh.runs els) sh.flow
    (fun l t =>
      let t := if f.aqrl then acquireRuns f.scope.toNat l t else t
      retire (finishLoad f sh.wg t.loadNum t.loadPv l t)) s

/-- A vector store of a shape (R128); `ordered` is ascending element order. -/
def vstore (i : Instr) (f : VMFmt) (sh : Shape) (ordered : Bool) (s : State) : State :=
  let els := activeOf (s.govern f.gm).1 s.vl
  memForm i sh.via (sh.bad els) .write 3 false (sh.runs els) sh.flow
    (fun l t =>
      let p := t.pvOf f.vd ||| (t.govern f.gm).2 ||| t.vlPv ||| t.ctx
      match checkRuns p 3 t l with
      | some e => vtrap e (encode i) (touchRuns sh.via .write (sh.runs els) s)
      | none =>
        let (n, t) := if ordered || !meets l then (0, t) else t.nextFree
        let t := if f.aqrl then releaseRuns f.scope.toNat l t else t
        let img := t.imgOf f.vd
        retire ((orderRuns ordered n l).foldl (fun t r => storePa r.pa (runBytes img r) p t) t)) s

/-- The tag checks of unit stride, strided and indexed forms (R109, R125, R208). -/
def State.unitCheck (_ : State) (f : VMFmt) : TagCheck := { reads := [f.vd] }
/-- The tag checks of strided forms (R125). -/
def State.strideCheck (s : State) (f : VMFmt) : TagCheck := { reads := [f.vd], accept := isByteWidth (s.tagOf f.vd).width }
/-- The tag checks of indexed forms (R208). -/
def State.indexCheck (s : State) (f : VMFmt) : TagCheck :=
  { reads := [f.vd, f.sb], accept := isByteWidth (s.tagOf f.vd).width && isInt (s.tagOf f.sb).code }

/-- VLD (R124-R130). -/
def execVld (f : VMFmt) (s : State) : Out :=
  .next (memChecks (.vld f) (s.unitCheck f) false (fun s => vload (.vld f) f (s.unitShape f) s) s)
/-- VLDS (R124-R130). -/
def execVlds (f : VMFmt) (s : State) : Out :=
  .next (memChecks (.vlds f) (s.strideCheck f) false (fun s => vload (.vlds f) f (s.strideShape f) s) s)
/-- VLDX (R207-R209). -/
def execVldx (f : VMFmt) (s : State) : Out :=
  .next (memChecks (.vldx f) (s.indexCheck f) (s.overlapSrc f.vd (s.tagOf f.vd) f.sb)
    (fun s => vload (.vldx f) f (s.indexShape f) s) s)
/-- VLDXO (R207-R209): the model performs the elements in ascending order. -/
def execVldxo (f : VMFmt) (s : State) : Out :=
  .next (memChecks (.vldxo f) (s.indexCheck f) (s.overlapSrc f.vd (s.tagOf f.vd) f.sb)
    (fun s => vload (.vldxo f) f (s.indexShape f) s) s)

/-- VST (R124-R130): a masked store of a packed width raises reason 5. Elements that meet through aliased pages are performed in
ascending order (R129; log entry 65). -/
def execVst (f : VMFmt) (s : State) : Out :=
  .next (watchGateIf f.aqrl (fun s =>
    let w := (s.tagOf f.vd).width
    memChecks (.vst f) { s.unitCheck f with accept := w % 8 == 0 || f.gm == 0 } false
      (fun s => vstore (.vst f) f (s.unitShape f) true s) s) s)
/-- VSTS (R124-R130). -/
def execVsts (f : VMFmt) (s : State) : Out :=
  .next (watchGateIf f.aqrl (fun s =>
    memChecks (.vsts f) (s.strideCheck f) false (fun s => vstore (.vsts f) f (s.strideShape f) false s) s) s)
/-- VSTX (R207-R209). -/
def execVstx (f : VMFmt) (s : State) : Out :=
  .next (watchGateIf f.aqrl (fun s =>
    memChecks (.vstx f) (s.indexCheck f) false (fun s => vstore (.vstx f) f (s.indexShape f) false s) s) s)
/-- VSTXO (R207-R209). -/
def execVstxo (f : VMFmt) (s : State) : Out :=
  .next (watchGateIf f.aqrl (fun s =>
    memChecks (.vstxo f) (s.indexCheck f) false (fun s => vstore (.vstxo f) f (s.indexShape f) true s) s) s)

/-! ### Watched vector loads (R131, R447) -/

/-- The physical sectors of a footprint: every position, those that fail translation or read permission left out, and those in the
host window too (log entry 65); the translations leave their marks (R131, R447). -/
def footprint (v : Via) : List MRun → State → List Nat × State
  | [], s => ([], s)
  | r :: l, s =>
    match xlatVia v r.at_ .read s with
    | .error _ => footprint v l s
    | .ok (pa, _, t) =>
      let (xs, t) := footprint v l t
      if t.inHost pa then (xs, t)
      else
        let (x0, k) := units 32 (t.place pa) r.n
        ((List.range k).map (x0 + ·) ++ xs, t)

/-- A watched vector load (R131). Where an active element lies in the host window it makes no entry; a position there that is masked
off is left out of the footprint (log entry 65). -/
def watchVector (i : Instr) (f : VMFmt) (c : TagCheck) (sh : State → Shape) (stride : State → Word) (s : State) : State :=
  gated i (fun s =>
    memChecks i c false (fun s =>
      let sh := sh s
      let els := activeOf (s.govern f.gm).1 s.vl
      let w := (s.tagOf f.vd).width
      memForm i sh.via (sh.bad els) .read 5 true (sh.runs els) sh.flow
        (fun l t =>
          if t.vl == 0 || l.any (fun r => t.inHost r.pa) then retire (finishLoad f sh.wg t.loadNum t.loadPv l t)
          else if t.hart.watch.length >= 32 then retire (countFull (finishLoad f sh.wg t.loadNum t.loadPv l t))
          else
            let (xs, t) := footprint sh.via (sh.runs (List.range t.vl)) t
            let e := t.makeEntry (sh.addr 0) (stride s) t.vl ((w + 7) / 8) xs
            let t := finishLoad f sh.wg t.watchNum t.watchPv l t
            retire (t.mapHart fun h => { h with watch := h.watch ++ [e] })) s) s) s

/-- VWLD (R131). STRIDE of an entry of a packed width, where w/8 is no integer, is recorded as its floor (log entry 65). -/
def execVwld (f : VMFmt) (s : State) : Out :=
  .next (watchVector (.vwld f) f (s.unitCheck f) (fun s => s.unitShape f)
    (fun s => BitVec.ofNat 64 ((s.tagOf f.vd).width / 8)) s)
/-- VWLDS (R131). -/
def execVwlds (f : VMFmt) (s : State) : Out :=
  .next (watchVector (.vwlds f) f (s.strideCheck f) (fun s => s.strideShape f) (fun s => s.getS f.sb) s)

/-! ### Vector atomics (R210) -/

/-- An element of a vector atomic lies outside the package and needs an answer (R210, R358). -/
def State.isRemote (s : State) (pa : Nat) : Bool := s.inHost pa || s.inPeer pa

/-- An element of a vector atomic on own memory (R210, R358). -/
def VElem.perform (e : VElem) (q : VReq) (s : State) : State :=
  match amoNew q.op (8 * q.n) (s.homeNum e.pa q.n) e.val.toNat 0 with
  | some m => storeAtomic e.pa q.n (some (toLeBytes q.n m)) q.pv s
  | none => s

/-- The request of an element leaves. -/
def VElem.flight (e : VElem) (q : VReq) (clk : Word) : Flight := ⟨e.info, ⟨e.pa, ⟨q.op, q.n, e.val, 0, q.pv⟩, none, none, pvEmpty, clk⟩⟩

/-- The packet of an element leaves (R477, R478). -/
def VElem.send (e : VElem) (q : VReq) (s : State) : State := sendPacket ⟨q.op, q.n, e.val, 0, q.pv⟩ e.pa s

/-- The elements of an ordered vector atomic (R210, R478): one on own memory at once, one outside the package by a request, and the
next after its answer. -/
def runElems (q : VReq) : List VElem → State → State
  | [], s => retire (s.mapHart fun h => { h with vreq := none })
  | e :: l, s =>
    if s.isRemote e.pa then
      waitFor .remote ((e.send q s).mapHart fun h => { h with vreq := some { q with todo := l, out := [e.flight q s.clk] } })
    else runElems q l (e.perform q s)

/-- The elements of an unordered vector atomic (R210, R478): the requests of those outside the package leave together, and each of the
others is performed at once or after the answers, as the free order chooses (log entry 7). -/
def sendElems (q : VReq) (es : List VElem) (s : State) : State :=
  let far := es.filter fun e => s.isRemote e.pa
  if far.isEmpty then es.foldl (fun s e => e.perform q s) s |> retire
  else
    let (c, s) := s.nextFree
    let near := (es.filter fun e => !s.isRemote e.pa).zipIdx
    let now (x : VElem × Nat) : Bool := Config.orderKey c x.2 % 2 == 1
    let s := far.foldl (fun s e => e.send q s) ((near.filter now).foldl (fun s x => x.1.perform q s) s)
    waitFor .remote (s.mapHart fun h =>
      { h with vreq := some { q with todo := (near.filter fun x => !now x).map Prod.fst, out := far.map (·.flight q s.clk) } })

/-- A request that has no answer yet. -/
def Remote.open_ (r : Remote) : Bool := r.answer.isNone && r.failed.isNone

/-- A vector atomic goes on (R210, R478): a refused element raises the data-error trap, and each of the requests without an answer has been
performed or not, as the free order chooses; once all have been answered, what is left is performed. -/
def moreElems (q : VReq) (ordered : Bool) (s : State) : State :=
  match q.out.find? fun x => x.r.failed.isSome with
  | some x =>
    let s := (q.out.filter fun x => x.r.open_).foldl (fun s x => (remoteMaybe x.r s).2) s
    vtrap ⟨20, x.info, x.r.failed.getD 0, 4⟩ q.word (s.mapHart fun h => { h with vreq := none })
  | none =>
    if q.out.any fun x => x.r.open_ then waitFor .remote s
    else if ordered then runElems { q with out := [] } q.todo s
    else retire ((q.todo.foldl (fun s e => e.perform q s) s).mapHart fun h => { h with vreq := none })

/-- A vector atomic whose elements have been translated and checked (R210): the current set of every page grows before any element
acts, and the elements act in ascending order, or in the free order of an unordered form whose elements meet. In the check of a
convoy nothing acts (R160, R325). -/
def amoRuns (i : Instr) (f : VMFmt) (op : Nat) (ordered : Bool) (l : List PRun) (p : PvSet) (t : State) : State :=
  if t.dry then retire t
  else
    let w := (t.tagOf f.vd).width
    let img := t.imgOf f.vd
    let (n, t) := if ordered || !meets l then (0, t) else t.nextFree
    let t := l.foldl (fun t r => growCur r.pa p t) t
    let t := if f.aqrl then releaseRuns f.scope.toNat l t else t
    let es := (orderRuns ordered n l).map fun r => (⟨r.info, r.pa, BitVec.ofNat 64 (bitsAt img (r.ix * w) w)⟩ : VElem)
    let q : VReq := ⟨encode i, op, w / 8, p, es.length, [], []⟩
    if ordered then runElems q es t else sendElems q es t

/-- A vector atomic (R210). -/
def vamo (i : Instr) (f : VMFmt) (op : Nat) (ordered : Bool) (s : State) : State :=
  match s.hart.vreq with
  | some q => moreElems q ordered s
  | none =>
    watchGateIf f.aqrl (fun s =>
      let d := (s.tagOf f.vd).code
      memChecks i { reads := [f.vd, f.sb], accept := decide (5 <= d) && decide (d <= 8) && isInt (s.tagOf f.sb).code } false
        (fun s =>
          let sh := s.indexShape f
          let els := activeOf (s.govern f.gm).1 s.vl
          memForm i sh.via (sh.bad els) .write 4 true (sh.runs els) sh.flow
            (fun l t =>
              if l.any (fun r => t.inHost r.pa) && !hostAmo op then vtrap ⟨17, encode i, 3, 4⟩ (encode i) s
              else
                let p := t.pvOf f.vd ||| t.pvOf f.sb ||| (t.govern f.gm).2 ||| t.vlPv ||| t.ctx
                match checkRuns p 4 t l with
                | some e => vtrap e (encode i) (touchRuns sh.via .write (sh.runs els) s)
                | none => amoRuns i f op ordered l p t) s) s) s

/-- VAMOADD (R210). -/
def execVamoadd (f : VMFmt) (s : State) : Out := .next (vamo (.vamoadd f) f 1 false s)
/-- VAMOAND (R210). -/
def execVamoand (f : VMFmt) (s : State) : Out := .next (vamo (.vamoand f) f 2 false s)
/-- VAMOOR (R210). -/
def execVamoor (f : VMFmt) (s : State) : Out := .next (vamo (.vamoor f) f 3 false s)
/-- VAMOXOR (R210). -/
def execVamoxor (f : VMFmt) (s : State) : Out := .next (vamo (.vamoxor f) f 4 false s)
/-- VAMOMIN (R210). -/
def execVamomin (f : VMFmt) (s : State) : Out := .next (vamo (.vamomin f) f 5 false s)
/-- VAMOMAX (R210). -/
def execVamomax (f : VMFmt) (s : State) : Out := .next (vamo (.vamomax f) f 6 false s)
/-- VAMOMINU (R210). -/
def execVamominu (f : VMFmt) (s : State) : Out := .next (vamo (.vamominu f) f 7 false s)
/-- VAMOMAXU (R210). -/
def execVamomaxu (f : VMFmt) (s : State) : Out := .next (vamo (.vamomaxu f) f 8 false s)
/-- VAMOSWAP (R210). -/
def execVamoswap (f : VMFmt) (s : State) : Out := .next (vamo (.vamoswap f) f 9 false s)
/-- VAMOOADD (R210). -/
def execVamooadd (f : VMFmt) (s : State) : Out := .next (vamo (.vamooadd f) f 1 true s)
/-- VAMOOAND (R210). -/
def execVamooand (f : VMFmt) (s : State) : Out := .next (vamo (.vamooand f) f 2 true s)
/-- VAMOOOR (R210). -/
def execVamooor (f : VMFmt) (s : State) : Out := .next (vamo (.vamooor f) f 3 true s)
/-- VAMOOXOR (R210). -/
def execVamooxor (f : VMFmt) (s : State) : Out := .next (vamo (.vamooxor f) f 4 true s)
/-- VAMOOMIN (R210). -/
def execVamoomin (f : VMFmt) (s : State) : Out := .next (vamo (.vamoomin f) f 5 true s)
/-- VAMOOMAX (R210). -/
def execVamoomax (f : VMFmt) (s : State) : Out := .next (vamo (.vamoomax f) f 6 true s)
/-- VAMOOMINU (R210). -/
def execVamoominu (f : VMFmt) (s : State) : Out := .next (vamo (.vamoominu f) f 7 true s)
/-- VAMOOMAXU (R210). -/
def execVamoomaxu (f : VMFmt) (s : State) : Out := .next (vamo (.vamoomaxu f) f 8 true s)
/-- VAMOOSWAP (R210). -/
def execVamooswap (f : VMFmt) (s : State) : Out := .next (vamo (.vamooswap f) f 9 true s)

/-! ### Scale loads and stores (R211) -/

/-- The 256 containers of a scale access, two bytes each. -/
def scaleRuns (base : Word) : List MRun :=
  (List.range 256).map fun c => ⟨c, base + BitVec.ofNat 64 (2 * c), base + BitVec.ofNat 64 (2 * c), 2 * c, 2⟩

/-- Bits 15:9 of every container read as zero (R171, R211). -/
def scaleMask : Nat := (List.range 256).foldl (fun x c => x + 0x1FF * 2 ^ (16 * c)) 0

/-- The number of the scale register of KLD and KST: bits [47:45], that is the low bits of vd. -/
def scaleReg (f : VMFmt) : Nat := f.vd.toNat % 8

/-- The address of a misaligned scale access (R211). -/
def badScale (base : Word) : Option Word := if base.toNat % 2 != 0 then some base else none

/-- KLD (R211). -/
def execKld (f : VMFmt) (s : State) : Out :=
  let base := vbase f s
  .next (memForm (.kld f) .unit (badScale base) .read 2 true (scaleRuns base) (s.getP f.sa)
    (fun l t =>
      let t := if f.aqrl then acquireRuns f.scope.toNat l t else t
      let p := runsPv t.loadPv l ||| s.getP f.sa ||| t.ctx
      retire (t.mapHart fun h => h.setK (scaleReg f) ⟨gather t.loadNum l &&& scaleMask, p⟩)) s)

/-- KST (R211). -/
def execKst (f : VMFmt) (s : State) : Out :=
  let base := vbase f s
  .next (watchGateIf f.aqrl (fun s =>
    memForm (.kst f) .unit (badScale base) .write 3 false (scaleRuns base) (s.getP f.sa)
      (fun l t =>
        let k := t.hart.kreg (scaleReg f)
        let p := k.pv ||| s.getP f.sa ||| t.ctx
        match checkRuns p 3 t l with
        | some e => vtrap e (encode (.kst f)) (touchRuns .unit .write (scaleRuns base) s)
        | none =>
          let t := if f.aqrl then releaseRuns f.scope.toNat l t else t
          retire (l.foldl (fun t r => storePa r.pa (runBytes (k.bits &&& scaleMask) r) p t) t)) s) s)

end Sys2Proof.Machine
end

