-- ==== Sys2Proof/Machine/Channel.lean ====
section
/-! DEFINITION. Channels (R248-R263): descriptors, ends, slots in the ring, branches, and the CHAN forms. -/

namespace Sys2Proof.Machine

/-! ### Records, counters and windows -/

/-- A channel by its descriptor's physical address (log entry 73). -/
def State.chanAt (s : State) (key : Nat) : Option Chan := findBy Chan.key key s.chans
/-- Records a channel. -/
def State.setChan (s : State) (c : Chan) : State := { s with chans := putBy Chan.key c s.chans }
/-- Branch `b` of a channel. -/
def Chan.branch (c : Chan) (b : Nat) : Option Branch := c.branches[b]?
/-- Replaces branch `b`. -/
def Chan.setBranch (c : Chan) (b : Nat) (x : Branch) : Chan := { c with branches := c.branches.set b x }

/-- A branch counts towards sending until its receive end, once opened, is closed (R252). -/
def Branch.counts (b : Branch) : Bool := !b.closed
/-- OUT_b (R252, R259): slots filled for the branch that the send end does not know to be freed. -/
def Branch.out (b : Branch) : Nat := b.filled - b.freedSeen
/-- E_b (R252). -/
def Branch.elastic (b : Branch) : Nat := if b.isOpen then b.edepth else 0
/-- W_b, as an integer (R252). -/
def Branch.window (b : Branch) : Int := (b.wc : Int) + b.elastic - b.out
/-- The ring slot that the next fill uses has been taken by the branch, as counted at the send end (R252, R316). -/
def Chan.slotFree (c : Chan) (b : Branch) : Bool := decide (c.fills < b.takenSeen + c.nslot)
/-- Slots recorded at a pre-emption are still to be published (R389). -/
def Chan.injecting (c : Chan) : Bool := c.branches.any fun b => !b.inject.isEmpty
/-- The sender may fill the next slot (R252), after the slots recorded at a pre-emption (R389). -/
def Chan.maySend (c : Chan) : Bool :=
  !c.injecting && c.branches.all fun b => !b.counts || (decide (1 <= b.window) && c.slotFree b)
/-- A slot is filled: it counts in OUT of every counting branch (R252, R259). -/
def Chan.fill (c : Chan) : Chan :=
  { c with fills := c.fills + 1, branches := c.branches.map fun b => if b.counts then { b with filled := b.filled + 1 } else b }
/-- A MARK fill may be published (R386). -/
def Chan.mayMark (c : Chan) : Bool := !c.injecting && c.branches.all fun b => !b.counts || c.slotFree b
/-- A branch goes past fills in the ring that are not for it (R421). -/
def Branch.skipOver (b : Branch) : Branch :=
  b.skip.foldl (fun b f => if b.ringTaken == f then { b with ringTaken := f + 1, skip := b.skip.filter (· != f) } else b) b
/-- Slots of the branch that have been counted at the receive end and not freed there (R261). -/
def Branch.holds (b : Branch) : Nat :=
  b.buf.length + ((List.range (b.seen - b.ringTaken)).filter fun k => !b.skip.contains (b.ringTaken + k)).length

/-- The scope of a channel (R262). -/
def Chan.scope (c : Chan) : Nat :=
  if c.branches.all fun b => b.core == c.prod then 1
  else if c.branches.all fun b => b.core / 40 == c.prod / 40 then 2 else 3

/-- The counters travel (R263): a written slot is published, a published slot is counted at the receive ends, and a freed
slot at the send end. -/
def Chan.publish (c : Chan) : Chan := { c with published := c.fills }
/-- A branch's counters arrive at both ends (R263, R316). -/
def Chan.count (c : Chan) (b : Nat) : Chan :=
  match c.branch b with
  | some x => c.setBranch b
      { x with seen := if x.closed then x.seen else c.published, freedSeen := x.freed, takenSeen := x.ringTaken }
  | none => c

/-! ### Slots -/

/-- A slot's tokens of one line (R251), from its 1,024 bits. -/
def lineToks (x : Nat) : List Tok :=
  (List.range (bitsAt x 1016 4)).map fun t => ⟨bitsAt x (960 + 3 * t) 3, BitVec.ofNat 64 (bitsAt x (64 * t) 64)⟩

/-- One line holding up to 15 tokens (R251). -/
def toksLine (l : List Tok) : Nat :=
  let rec go : Nat → List Tok → Nat → Nat
    | _, [], x => x
    | t, k :: ks, x => go (t + 1) ks (setBitsAt (setBitsAt x (64 * t) 64 k.pay.toNat) (960 + 3 * t) 3 k.kind)
  setBitsAt (go 0 l 0) 1016 4 l.length

/-- The lines of a slot: the tokens in order, 15 to a line, and lines without a token (R251). -/
def slotLines : Nat → List Tok → List Nat
  | 0, _ => []
  | n + 1, l => toksLine (l.take 15) :: slotLines n (l.drop 15)

/-- The virtual address of line `k` of the slot of fill `f` (R251). -/
def Chan.lineVa (c : Chan) (f k : Nat) : Word := c.ring + BitVec.ofNat 64 (128 * (c.slotl * (f % c.nslot) + k))

/-- Reads the tokens of line `k` of the slot of fill `f` as a load of the current hart (R251); none past the slot's last line. -/
def readLine (c : Chan) (f k : Nat) (s : State) : Except (Sum TrapRec Wait) (List Tok × State) :=
  if c.slotl <= k then .ok ([], s)
  else
    match access (c.lineVa f k) 128 .read 2 true s with
    | .trap t => .error (.inl t)
    | .wait w => .error (.inr w)
    | .ok pa t => .ok (lineToks (t.loadNum pa 128), t)

/-- Writes the lines of the slot of fill `f` as stores of the current hart, from line `k` on. -/
def writeSlot (c : Chan) (f : Nat) (p : PvSet) : Nat → List Nat → State → Except (Sum TrapRec Wait) State
  | _, [], s => .ok s
  | k, x :: xs, s =>
    match access (c.lineVa f k) 128 .write 3 false s with
    | .trap t => .error (.inl t)
    | .wait w => .error (.inr w)
    | .ok pa t =>
      match writeCheck (c.lineVa f k) pa p 3 t with
      | some e => .error (.inl e)
      | none => writeSlot c f p (k + 1) xs (storePa pa (toLeBytes 128 x) p t)

/-- The union of the current sets of the ring's pages. -/
def State.ringPv (s : State) (c : Chan) : PvSet := c.ringFrames.foldl (fun p f => p ||| s.curAt (f * 65536)) pvEmpty

/-- The first ring page whose ceiling does not hold a set: its provenance trap (R259). -/
def ringCheck (c : Chan) (p : PvSet) (s : State) : Option TrapRec :=
  let base := c.ring.toNat / 65536 * 65536
  let rec go : Nat → List Nat → Option TrapRec
    | _, [] => none
    | k, f :: fs =>
      match writeCheck (if k == 0 then c.ring else BitVec.ofNat 64 (base + 65536 * k)) (f * 65536) p 3 s with
      | some t => some t
      | none => go (k + 1) fs
  go 0 c.ringFrames

/-- Every ring page's current set grows (R259). -/
def growRing (c : Chan) (p : PvSet) (s : State) : State := c.ringFrames.foldl (fun s f => growCur (f * 65536) p s) s

/-! ### Taking tokens (R251-R253, R260) -/

/-- The branch frees its oldest slot. -/
def Branch.free (b : Branch) : Branch :=
  match b.buf with
  | _ :: r => { b with buf := r, freed := b.freed + 1, line := 0, pos := 0 }
  | [] => ({ b with ringTaken := b.ringTaken + 1, freed := b.freed + 1, line := 0, pos := 0 } : Branch).skipOver

/-- The token before a receive end. -/
inductive Peek where
  | tok (t : Tok) (last : Bool) (s : State)
  | empty
  | closed
  | fail (e : Sum TrapRec Wait)

/-- Line `k` of the branch's oldest slot: in its buffer, else in the ring once counted (R253); `none` where it holds no slot. -/
def headLine (c : Chan) (x : Branch) (k : Nat) (s : State) : Option (Except (Sum TrapRec Wait) (List Tok × State)) :=
  match x.buf with
  | l :: _ => some (.ok ((l[k]?).getD [], s))
  | [] => if x.ringTaken < x.seen then some (readLine c x.ringTaken k s) else none

/-- Looks at the next token of branch `b`, each line taken as it is found, and frees oldest slots without one (R251); the first
argument bounds the lines looked at. -/
def peekTok (key b : Nat) : Nat → State → Peek × State
  | 0, s => (.empty, s)
  | n + 1, s =>
    match s.chanAt key with
    | none => (.closed, s)
    | some c =>
      match c.branch b with
      | none => (.closed, s)
      | some x =>
        match headLine c x x.line s with
        | none => if c.sendClosed && (x.closed || (x.seen == c.fills && x.inject.isEmpty)) then (.closed, s) else (.empty, s)
        | some (.error e) => (.fail e, s)
        | some (.ok (l, t)) =>
          if l.isEmpty then peekTok key b n (t.setChan (c.setBranch b x.free))
          else
            match l[x.pos]? with
            | none => peekTok key b n (t.setChan (c.setBranch b { x with line := x.line + 1, pos := 0 }))
            | some k =>
              if x.pos + 1 < l.length then (.tok k false t, t)
              else
                match headLine c x (x.line + 1) t with
                | some (.error e) => (.fail e, t)
                | some (.ok (m, u)) => (.tok k m.isEmpty u, u)
                | none => (.tok k true t, t)

/-- Takes the token that `peekTok` showed: the slot is freed with its last token (R252). -/
def takeTok (key b : Nat) (last : Bool) (s : State) : State :=
  match s.chanAt key with
  | none => s
  | some c =>
    match c.branch b with
    | none => s
    | some x => s.setChan (c.setBranch b (if last then x.free else { x with pos := x.pos + 1 }))

/-- The lines that a look at the next token may meet: those of every slot of the ring and of a buffer. -/
def peekBound : Nat := 131072

/-! ### Elastic moves (R253, R316) -/

/-- The receive end of branch `b` is held by a hart that has not been saved: a saved end's slots stay in the ring (R420). -/
def State.endLive (s : State) (key b : Nat) (x : Branch) : Bool :=
  (s.coreAt x.core).ends.any fun e => e.chan == key && e.end_ == b + 1 && !s.isSaved ⟨x.core, e.hart⟩

/-- The buffer has room, and the branch's oldest slot in the ring has not been moved (R253). -/
def Branch.mayMove (b : Branch) : Bool :=
  b.isOpen && b.moving.isNone && decide (b.buf.length < b.edepth) && decide (b.ringTaken < b.seen)

/-- An elastic move begins. -/
def startMove (key b : Nat) (s : State) : State :=
  match s.chanAt key with
  | none => s
  | some c => match c.branch b with
    | none => s
    | some x => if x.mayMove && s.endLive key b x then s.setChan (c.setBranch b { x with moving := some x.ringTaken }) else s

/-- The physical address of line `k` of the slot of fill `f`. -/
def Chan.linePa (c : Chan) (f k : Nat) : Nat :=
  let va := (c.lineVa f k).toNat
  ((c.ringFrames[va / 65536 - c.ring.toNat / 65536]?).getD 0) * 65536 + va % 65536

/-- The lines of a ring slot from line `k` on, read at their home, as the machine's own agents read them, up to one without a token; those
before line `k` have been taken, and are empty here. -/
def State.slotAt (s : State) (c : Chan) (f k : Nat) : List (List Tok) :=
  List.replicate k [] ++
    (((List.range c.slotl).drop k).map fun k => lineToks (s.homeNum (c.linePa f k) 128)).takeWhile fun l => !l.isEmpty

/-- The first line of the branch's oldest ring slot that has not been taken whole. -/
def Branch.ringLine (x : Branch) : Nat := if x.buf.isEmpty then x.line else 0

/-- The branch's oldest ring slot comes into its buffer and counts as taken from the ring. -/
def Branch.move (s : State) (c : Chan) (x : Branch) : Branch :=
  ({ x with moving := none, buf := x.buf ++ [s.slotAt c x.ringTaken x.ringLine], ringTaken := x.ringTaken + 1 } : Branch).skipOver

/-- An elastic move completes (R253); one whose slot has been freed meanwhile, or whose end has been saved, has no
effect. -/
def finishMove (key b : Nat) (s : State) : State :=
  match s.chanAt key with
  | none => s
  | some c => match c.branch b with
    | none => s
    | some x =>
      if x.moving == some x.ringTaken && decide (x.ringTaken < x.seen) && s.endLive key b x then s.setChan (c.setBranch b (x.move s c))
      else s.setChan (c.setBranch b { x with moving := none })

/-- Writes the lines of the slot of a fill as stores of the machine's own agents with the empty set, from line `k` on (R367, R389). -/
def engSlot (c : Chan) (f : Nat) : Nat → List Nat → State → State
  | _, [], s => s
  | k, x :: xs, s => engSlot c f (k + 1) xs (storeHome (c.linePa f k) (toLeBytes 128 x) pvEmpty s)

/-- The next slot recorded at a pre-emption is published again, as a fill for its branch alone (R389, R421), once every branch has
taken the ring slot. -/
def injectNext (key : Nat) (s : State) : State :=
  match s.chanAt key with
  | none => s
  | some c =>
    if !c.branches.all (fun b => !b.counts || c.slotFree b) then s
    else
      match c.branches.zipIdx.find? fun (b, _) => !b.inject.isEmpty with
      | none => s
      | some (x, k) =>
        let l := x.inject.headD []
        let f := c.fills
        let branches := c.branches.zipIdx.map fun (b, j) =>
          if j == k then { b with inject := b.inject.drop 1, filled := b.filled + 1 } else ({ b with skip := b.skip ++ [f] } : Branch).skipOver
        (engSlot c f 0 (slotLines c.slotl l) s).setChan { c with fills := f + 1, branches := branches }

/-- Every recorded slot that the ring has room for is published again (R389); the first argument bounds them. -/
def injectAll (key : Nat) : Nat → State → State
  | 0, s => s
  | n + 1, s =>
    match s.chanAt key with
    | some c => if c.injecting then injectAll key n (injectNext key s) else s
    | none => s

/-- One clk of every channel: moves end and begin, and counters travel (R253, R263). -/
def channelClk (s : State) : State :=
  s.chans.foldl (fun s c =>
    let n := c.branches.length
    let s := (List.range n).foldl (fun s b =>
      match (s.chanAt c.key).bind (·.branch b) with
      | some x => if x.moving.isSome then finishMove c.key b s else startMove c.key b s
      | none => s) s
    let s := injectNext c.key s
    match s.chanAt c.key with
    | some c => s.setChan ((List.range n).foldl Chan.count c.publish)
    | none => s) s

/-! ### Handles and traps (R255, R256) -/

/-- The channel trap of a scalar-side form. -/
def chanTrap (i : Instr) (reason : Nat) (s : State) : State := scalarTrap ⟨16, encode i, reason, 0⟩ s
/-- The channel trap of CHSEND and CHRECV, which are posted to the vector queue. -/
def chanVTrap (i : Instr) (reason : Nat) (s : State) : State := vtrap ⟨16, encode i, reason, 0⟩ (encode i) s

/-- An open end by its handle: the entry, the channel and END (R255). -/
def State.handle (s : State) (h : Word) : Option (EndEntry × Chan) :=
  if (h &&& ~~~0xF03F) != 0 then none
  else
    match s.core.ends.find? fun e => e.idx == h.toNat % 64 with
    | none => none
    | some e =>
      if e.end_ == h.toNat / 4096 % 16 && e.asid == asidOf s.hart.csr.ptroot then (s.chanAt e.chan).map fun c => (e, c) else none

/-- A handle's word (R255). -/
def handleWord (idx end_ : Nat) : Word := BitVec.ofNat 64 (end_ * 4096 + idx)

/-! ### Opening and closing (R248-R250, R253, R257, R258) -/

/-- A descriptor's fields (R248), from its 512 bits. -/
structure Descr where
  num : Nat
  prod : Nat
  pv : PvSet
  nbr : Nat
  slotl : Nat
  nslot : Nat
  ring : Word
  brs : List (Nat × Nat × Nat)

/-- Reads a descriptor: window count, elastic depth and core of each branch. -/
def Descr.of (x : Nat) : Descr :=
  let nbr := bitsAt x 88 8
  { num := x, prod := bitsAt x 112 9, pv := BitVec.ofNat 16 (bitsAt x 96 16), nbr := nbr, slotl := bitsAt x 80 8,
    nslot := bitsAt x 64 16, ring := BitVec.ofNat 64 (bitsAt x 0 64),
    brs := (List.range (min nbr 8)).map fun b =>
      let r := bitsAt x (128 + 48 * b) 48
      (bitsAt r 32 16, bitsAt r 24 8, bitsAt r 0 9) }

/-- The ranges and zero fields of a descriptor (R249), with ROSTER and the partition's coves. -/
def Descr.ok (d : Descr) (roster : Nat) (inPart : Nat → Bool) : Bool :=
  let x := d.num
  bitsAt x 121 7 == 0 && bitsAt x 0 7 == 0 && decide (d.prod < 320) && decide (1 <= d.nbr) && decide (d.nbr <= 8)
    && decide (1 <= d.slotl) && decide (d.slotl <= 16) && decide (1 <= d.nslot) && decide (d.nslot <= 4096)
    && d.pv.toNat / 2 ^ roster == 0 && inPart d.prod
    && ((List.range 8).all fun b =>
      let r := bitsAt x (128 + 48 * b) 48
      if b < d.nbr then
        let wc := bitsAt r 32 16
        bitsAt r 9 15 == 0 && decide (1 <= wc) && decide (wc <= d.nslot) && decide (bitsAt r 24 8 <= 64)
          && decide (bitsAt r 0 9 < 320) && inPart (bitsAt r 0 9)
      else r == 0)

/-- The die on which the lines of a tidepool page are homed: those of a backed page in its spill frame (R107, R326, R333). -/
def State.homeDie (s : State) (pa : Nat) : Nat :=
  let a := paLocal (s.place pa)
  if s.inTide (s.place pa) then dieOfTide a else dieOfEzmos a

/-- The frames of the ring: each page a writable tidepool page without the D attribute, all homed on one die (R249). -/
def ringPages (base : Word) : Nat → State → Option (List Nat × State)
  | 0, s => some ([], s)
  | n + 1, s =>
    match xlat base .write s with
    | .error _ => none
    | .ok (pa, e, t) =>
      if !t.inTide pa || e.flags.getLsbD 10 then none
      else
        match ringPages (BitVec.ofNat 64 ((base.toNat / 65536 + 1) * 65536)) n t with
        | none => none
        | some (l, t) =>
          if l.all fun f => t.homeDie (f * 65536) == t.homeDie pa then some (pa / 65536 :: l, t) else none

/-- A core lies in the current hart's partition (R249). -/
def State.coreInPart (s : State) (core : Nat) : Bool :=
  match s.part with | some p => p.coves.getLsbD (core / 8) | none => false

/-- Line places of a tidepool frame in a core's slice (R253, R333). -/
def placesIn (core frame : Nat) : Nat :=
  let n := frame % 65536
  ((List.range 512).filter fun j => (160 * j + n % 160) / 2048 == core % 40).length

/-- The tidepool frames of a die that the partition holds, highest first (R253, R332). -/
def State.heldFrames (s : State) (die : Nat) : List Nat :=
  let part := s.part.map Part.num
  ((List.range 12).reverse.filter fun k => s.slots.any fun x => x.die == die && x.slot == k && some x.part == part).flatMap fun k =>
    (List.range 160).reverse.map fun j => (s.pkg * 2 ^ 43 + 0x60000000000 + die * 2 ^ 32) / 65536 + 160 * k + j

/-- Frames for an elastic buffer of `need` line places (R253): without a HELD line, not backed and in no other buffer. -/
def takeFrames (core : Nat) (s : State) : Nat → List Nat → Option (List Nat)
  | 0, _ => some []
  | _ + 1, [] => none
  | need + 1, f :: fs =>
    let t := s.tideAt f
    let backed := match t.state with | .backed _ => true | _ => false
    if t.held != 0 || backed || t.elastic then takeFrames core s (need + 1) fs
    else (takeFrames core s (need + 1 - placesIn core f) fs).map (f :: ·)
termination_by structural _ l => l

/-- Marks or frees the frames of an elastic buffer (R253). -/
def setElastic (on : Bool) (key : Nat) (l : List Nat) (s : State) : State :=
  l.foldl (fun s f =>
    let t := s.tideAt f
    if on then s.setTide { t with elastic := true, chan := some key }
    else { s with mem := memErase (f * 65536) 65536 s.mem }.setTide { t with elastic := false, chan := none, held := 0 }) s

/-- The record that the first CHOPEN makes (R250). -/
def Descr.chan (d : Descr) (key : Nat) (frames : List Nat) (ptroot : Word) : Chan :=
  { key := key, desc := d.num, ring := d.ring, nslot := d.nslot, slotl := d.slotl, prod := d.prod, ringFrames := frames,
    ptroot := ptroot, pv := d.pv, fills := 0, published := 0, sendOpen := false, sendClosed := false, mark := none,
    branches := d.brs.map fun b =>
      { core := b.2.2, wc := b.1, edepth := b.2.1, opened := false, isOpen := false, closed := false, filled := 0, seen := 0,
        freed := 0, freedSeen := 0, ringTaken := 0, takenSeen := 0, buf := [], moving := none, line := 0, pos := 0, frames := [],
        recorded := [], inject := [], skip := [] } }

/-- The lowest free index of the core's channel-end table (R255). -/
def State.freeEnd (s : State) : Option Nat := (List.range 64).find? fun i => s.core.ends.all fun e => e.idx != i

/-- Opens an end of a valid channel: the reason it cannot, or the handle and the new state (R256, R257). -/
def openEnd (c : Chan) (sel : Nat) (s : State) : Except Nat (Word × State) :=
  let put (idx : Nat) (c : Chan) (s : State) : Word × State :=
    let e : EndEntry := ⟨idx, c.key, sel, asidOf s.hart.csr.ptroot, s.hart.ix⟩
    (handleWord idx sel, (s.setChan c).mapCore fun k => { k with ends := putBy EndEntry.idx e k.ends })
  if sel == 0 then
    if c.prod != s.core.num || c.sendOpen then .error 2
    else match s.freeEnd with
      | none => .error 3
      | some i => .ok (put i { c with sendOpen := true } s)
  else
    match c.branch (sel - 1) with
    | none => .error 2
    | some b =>
      if b.core != s.core.num || b.isOpen then .error 2
      else match s.freeEnd, takeFrames b.core s (b.edepth * c.slotl) (s.heldFrames (b.core / 40)) with
        | some i, some l =>
          let c := c.setBranch (sel - 1) { b with opened := true, isOpen := true, frames := l }
          .ok (put i c (setElastic true c.key l s))
        | _, _ => .error 3

/-- CHOPEN (R248-R250, R256, R257). -/
def execChopen (f : RFmt) (s : State) : Out :=
  let i : Instr := .chopen f
  let a := s.getS f.sa
  .next (gated i (fun s =>
    if a.toNat % 64 != 0 then scalarTrap ⟨7, a, 0, 2⟩ s
    else
      match access a 64 .read 2 true s with
      | .trap t => scalarTrap t (touch a .read s)
      | .wait w => waitFor w s
      | .ok pa t =>
        let d := Descr.of (t.loadNum pa 64)
        let page := t.loadPv pa
        let t := t.addCtx (s.getP f.sa)
        if !d.ok s.roster s.coreInPart then chanTrap i 1 s
        else
          let bytes := d.nslot * d.slotl * 128
          match ringPages d.ring ((d.ring.toNat % 65536 + bytes + 65535) / 65536) t with
          | none => chanTrap i 1 s
          | some (l, t) =>
            let rec? := t.chanAt pa
            let same := match rec? with | some c => c.desc == d.num | none => true
            if !same then chanTrap i 1 s
            else
              let c := rec?.getD (d.chan pa l s.hart.csr.ptroot)
              let sel := (s.getS f.sb).toNat
              if d.nbr < sel then chanTrap i 2 s
              else
                match openEnd c sel t with
                | .error r => chanTrap i r s
                | .ok (h, t) => retire (t.setS f.sd h (s.getP f.sa ||| s.getP f.sb ||| t.ctx ||| page))) s)

/-- The record goes when its last open end closes (R250). -/
def dropIfClosed (key : Nat) (s : State) : State :=
  match s.chanAt key with
  | some c => if !c.sendOpen && c.branches.all (fun b => !b.isOpen) then { s with chans := eraseBy Chan.key key s.chans } else s
  | none => s

/-- Closes the receive end of a branch (R252, R258): its slots are freed, its tokens dropped, its buffer returned, and nothing is
delivered to it any more. -/
def closeReceive (key b : Nat) (s : State) : State :=
  match s.chanAt key with
  | none => s
  | some c =>
    match c.branch b with
    | none => s
    | some x =>
      let s := setElastic false key x.frames s
      dropIfClosed key (s.setChan (c.setBranch b
        { x with isOpen := false, closed := true, freed := x.filled, ringTaken := x.filled, seen := x.filled, buf := [],
                 moving := none, line := 0, pos := 0, frames := [], recorded := [], inject := [], skip := [] }))

/-- Closes the send end (R258). -/
def closeSend (key : Nat) (s : State) : State :=
  match s.chanAt key with
  | none => s
  | some c => dropIfClosed key (s.setChan { c with sendOpen := false, sendClosed := true })

/-- Closes the end of a table entry of the current core. -/
def closeEntry (e : EndEntry) (s : State) : State :=
  let s := s.mapCore fun k => { k with ends := eraseBy EndEntry.idx e.idx k.ends }
  if e.end_ == 0 then closeSend e.chan s else closeReceive e.chan (e.end_ - 1) s

/-- CHCLOSE (R258). -/
def execChclose (f : RFmt) (s : State) : Out :=
  let i : Instr := .chclose f
  .next (gated i (fun s =>
    match s.handle (s.getS f.sa) with
    | none => chanTrap i 4 s
    | some (e, c) =>
      if e.end_ == 0 && c.published != c.fills then waitFor .chan s else retire (closeEntry e s)) s)

/-! ### CHSEND and CHRECV (R259, R260) -/

/-- The tokens of CHSEND (R259). -/
def sendToks (s : State) (vs : BitVec 5) (closing : Nat) : List Tok :=
  let t := s.tagOf vs
  let v := s.vecSrc vs
  let (mask, _) := s.segBits
  let data := (List.range s.vl).flatMap fun i =>
    let d : Tok := ⟨0, BitVec.ofInt 64 (perTag t.code t.width (v.get i))⟩
    if i != 0 && mask.testBit i then [⟨1, 0⟩, d] else [d]
  if closing == 0 then data else data ++ [⟨closing, 0⟩]

/-- Sends tokens as slots while the window allows (R252, R259); what is still to be sent stands in the hart. The first argument
bounds the slots. -/
def sendRuns (key : Nat) (p : PvSet) : Nat → List Tok → State → Option (Sum TrapRec Wait) × State
  | 0, _, s => (none, s)
  | n + 1, toks, s =>
    match s.chanAt key, toks with
    | none, _ => (none, s)
    | _, [] => (none, s)
    | some c, toks =>
      if !c.maySend then (some (.inr .chan), s)
      else
        match writeSlot c c.fills p 0 (slotLines c.slotl (toks.take (15 * c.slotl))) s with
        | .error e => (some e, s)
        | .ok t =>
          let rest := toks.drop (15 * c.slotl)
          sendRuns key p n rest ((t.setChan c.fill).mapHart fun h => { h with send := some ⟨rest, p⟩ })

/-- A CHSEND past its checks goes on with the tokens that it has still to send (R259). -/
def sendOn (i : Instr) (key : Nat) (q : Sending) (s : State) : State :=
  match sendRuns key q.set (q.toks.length + 1) q.toks s with
  | (some (.inl e), u) => vtrap e (encode i) u
  | (some (.inr w), u) => waitFor w u
  | (none, u) =>
    match u.chanAt key with
    | some c => retire (((growRing c q.set u).setChan { c with pv := c.pv ||| q.set }).mapHart fun h => { h with send := none })
    | none => retire (u.mapHart fun h => { h with send := none })

/-- CHSEND (R256, R259); its release is recorded at the channel (R262, R347). -/
def execChsend (f : RFmt) (s : State) : Out :=
  let i : Instr := .chsend f
  .next (gated i (fun s =>
    match s.handle (s.getS f.sa) with
    | none => chanVTrap i 4 s
    | some (e, c) =>
      let k := s.getS f.sc
      if e.end_ != 0 then chanVTrap i 4 s
      else
        match s.hart.send with
        | some q => sendOn i c.key q s
        | none =>
          if k.toNat / 8 != 0 || 6 <= k.toNat % 8 then chanVTrap i 5 s
          else
            match tagReason { reads := [f.sb], accept := isPerm (s.tagOf f.sb).code } s with
            | some r => tagTrap i r s
            | none =>
              let t := s.addCtx (s.getP f.sa)
              let p := t.pvOf f.sb ||| t.vlPv ||| t.getP f.sc ||| t.segBits.2 ||| t.ctx
              match ringCheck c p t with
              | some e => vtrap e (encode i) s
              | none =>
                watchGate (fun _ =>
                  let q : Sending := ⟨sendToks t f.sb (k.toNat % 8), p⟩
                  sendOn i c.key q ((releaseAt c.scope (c.key / 128) t).mapHart fun h => { h with send := some q })) s) s)

/-- The tokens of CHRECV taken one by one (R260): the destination's image and the elements written; ends with a status, a
trap, or a wait. -/
def recvToks (key b cap w : Nat) : Nat → Nat → State → Except (Sum TrapRec Wait × Nat × State) (Nat × Nat × Nat × State)
  | 0, img, s => .ok (0, s.hart.prog, img, s)
  | fuel + 1, img, s =>
    match peekTok key b peekBound s with
    | (.closed, s) => .ok (8, s.hart.prog, img, s)
    | (.empty, s) => .error (.inr .chan, img, s)
    | (.fail e, s) => .error (e, img, s)
    | (.tok t last s, _) =>
      let n := s.hart.prog
      if t.kind == 0 then
        if n < cap then
          recvToks key b cap w fuel (setBitsAt img (n * w) w t.pay.toNat)
            ((takeTok key b last s).mapHart fun h => { h with prog := n + 1 })
        else .ok (0, n, img, s)
      else if t.kind == 7 then .ok (7, n, img, s)
      else .ok (t.kind, n, img, takeTok key b last s)

/-- CHRECV (R256, R260); its acquire is of the channel (R262, R347). -/
def execChrecv (f : RFmt) (s : State) : Out :=
  let i : Instr := .chrecv f
  .next (gated i (fun s =>
    match s.handle (s.getS f.sa) with
    | none => chanVTrap i 4 s
    | some (e, c) =>
      if e.end_ == 0 then chanVTrap i 4 s
      else
        match tagReason { reads := [f.sd], accept := isPerm (s.tagOf f.sd).code } s with
        | some r => tagTrap i r s
        | none =>
          let t := s.tagOf f.sd
          let cap := capacity t.width t.count s.level
          let put (img : Nat) (u : State) : State :=
            let p := u.hart.groupPv f.sd.toNat t.count ||| s.getP f.sa ||| c.pv ||| u.ringPv c ||| u.ctx
            u.mapHart fun h => h.putGroup u.level t p f.sd.toNat img t.count
          match recvToks c.key (e.end_ - 1) cap t.width (cap + 2) (s.imgOf f.sd) s with
          | .error (.inl e, img, u) => vtrap e (encode i) (put img u)
          | .error (.inr w, img, u) => waitFor w (put img u)
          | .ok (kind, n, img, u) =>
            let u := put img u
            let p := u.setOfDst f.sd
            let u := u.mapHart fun h => ({ h with prog := 0, csr := { h.csr with vl := n } }).setCsrPv 1 p
            retire (acquireAt c.scope (c.key / 128) (u.setS f.sb (BitVec.ofNat 64 kind) p))) s)

/-! ### CHWAIT and CHSTAT (R261) -/

/-- The least of a list of integers. -/
def leastInt : List Int → Option Int
  | [] => none
  | x :: xs => some (xs.foldl min x)

/-- The count of an end: slots held, or the least window over the counting branches (R261). -/
def Chan.countOf (c : Chan) (end_ : Nat) : Option Int :=
  if end_ == 0 then leastInt ((c.branches.filter Branch.counts).map Branch.window)
  else (c.branch (end_ - 1)).map fun b => (b.holds : Int)

/-- The greatest count that an end can reach (R261). -/
def Chan.limitOf (c : Chan) (end_ : Nat) : Option Int :=
  if end_ == 0 then leastInt ((c.branches.filter Branch.counts).map fun b => ((b.wc + b.edepth : Nat) : Int))
  else (c.branch (end_ - 1)).map fun b => ((b.wc + b.edepth : Nat) : Int)

/-- CHWAIT (R256, R261); with no counting branch left the count of a send end is a free value (log entry 1). -/
def execChwait (f : RFmt) (s : State) : Out :=
  let i : Instr := .chwait f
  .next (gated i (fun s =>
    match s.handle (s.getS f.sa) with
    | none => chanTrap i 4 s
    | some (e, c) =>
      let want : Int := ((s.getS f.sb).toNat : Int)
      let finish (v : Word) (t : State) : State :=
        let t := t.addCtx c.pv
        retire (t.setS f.sd v (s.getP f.sa ||| s.getP f.sb ||| t.ctx))
      match c.limitOf e.end_, c.countOf e.end_ with
      | some lim, some n =>
        if lim < want then chanTrap i 6 s
        else if want <= n || (e.end_ != 0 && c.sendClosed && want != 0) || want == 0 then finish (BitVec.ofInt 64 n) s
        else waitFor .chan s
      | _, _ =>
        let (k, t) := s.nextFree
        finish (Config.freeWord k) t) s)

/-- CHSTAT (R50, R256, R261): on a receive end sb is a zero field, which is known once the mask and the handle have passed (log entry
73). -/
def execChstat (f : RFmt) (s : State) : Out :=
  let i : Instr := .chstat f
  .next (gated i (fun s =>
    match s.handle (s.getS f.sa) with
    | none => chanTrap i 4 s
    | some (e, c) =>
      let b := if e.end_ == 0 then (s.getS f.sb).toNat else e.end_ - 1
      if e.end_ != 0 && f.sb != 0 then scalarTrap (illegal (encode i)) s
      else
        match c.branch b with
        | none => chanTrap i 6 s
        | some x =>
          let v : Word :=
            BitVec.ofNat 64 (x.out % 2 ^ 16 * 2 ^ 48 + intMod 16 x.window * 2 ^ 32 + c.fills % 2 ^ 16 * 2 ^ 16
              + c.branches.length * 2 ^ 12 + (if c.sendClosed then 4 else 0) + (if x.closed && !x.isOpen then 2 else 0)
              + (if x.isOpen then 1 else 0))
          retire (s.setS f.sd v (s.getP f.sa ||| s.getP f.sb ||| c.pv ||| s.ctx))) s)

/-! ### Their steps as arrivals (R253, R263) -/

/-- SLOT_PUBLISH (R263). -/
def execSlotPublish (chan : Nat) (s : State) : Out :=
  .next (match s.chanAt chan with | some c => s.setChan c.publish | none => s)
/-- CHANNEL_COUNTER_ARRIVE (R263). -/
def execChannelCounterArrive (chan branch : Nat) (s : State) : Out :=
  .next (match s.chanAt chan with | some c => s.setChan (c.count branch) | none => s)
/-- ELASTIC_MOVE_START (R253). -/
def execElasticMoveStart (chan branch : Nat) (s : State) : Out := .next (startMove chan branch s)
/-- ELASTIC_MOVE_DONE (R253). -/
def execElasticMoveDone (chan branch : Nat) (s : State) : Out := .next (finishMove chan branch s)

end Sys2Proof.Machine
end

