-- ==== Sys2Proof/Machine/Codec.lean ====
section
/-! DEFINITION. The formats that DECOMP reads (R369): LZ4 block, DEFLATE (RFC 1951) and Zstandard (RFC 8878), which the
spec takes from outside (log entry 12). A decoder answers the bytes it wrote and a code: 0, 16 malformed, 17 capacity,
18 checksum, 19 a feature outside R369's limits. -/

namespace Sys2Proof.Machine

/-- A decoder's outcome: a value, or a failing code with the output decoded before the failing point. -/
abbrev Dec (α : Type) := Except (Nat × Array Byte) α

/-- A byte of the input as a number; 0 beyond its end. -/
def inAt (a : Array Byte) (i : Nat) : Nat := ((a[i]?).getD 0).toNat

/-- Appends a byte within the capacity. -/
def emit (cap : Nat) (out : Array Byte) (b : Nat) : Dec (Array Byte) :=
  if out.size < cap then .ok (out.push (BitVec.ofNat 8 b)) else .error (17, out)

/-- Appends `n` bytes of the input. -/
def emitFrom (cap : Nat) (a : Array Byte) : Nat → Nat → Array Byte → Dec (Array Byte)
  | 0, _, out => .ok out
  | n + 1, i, out =>
    if a.size <= i then .error (16, out)
    else
      match emit cap out (inAt a i) with
      | .error e => .error e
      | .ok out => emitFrom cap a n (i + 1) out

/-- Appends a byte `n` times. -/
def emitRun (cap : Nat) (b : Nat) : Nat → Array Byte → Dec (Array Byte)
  | 0, out => .ok out
  | n + 1, out => match emit cap out b with | .error e => .error e | .ok out => emitRun cap b n out

/-- Copies `n` bytes from `d` bytes back. -/
def emitMatch (cap d : Nat) : Nat → Array Byte → Dec (Array Byte)
  | 0, out => .ok out
  | n + 1, out =>
    if d == 0 || out.size < d then .error (16, out)
    else match emit cap out (inAt out (out.size - d)) with | .error e => .error e | .ok out => emitMatch cap d n out

/-- The 32-bit or shorter little-endian number of `n` bytes. -/
def leAt (a : Array Byte) (i : Nat) : Nat → Nat
  | 0 => 0
  | n + 1 => inAt a i + 256 * leAt a (i + 1) n

/-! ### LZ4 -/

/-- A length continued by bytes of 255. -/
def lz4Len (a : Array Byte) (out : Array Byte) : Nat → Nat → Nat → Dec (Nat × Nat)
  | 0, _, _ => .error (16, out)
  | n + 1, i, x =>
    if a.size <= i then .error (16, out)
    else if inAt a i == 255 then lz4Len a out n (i + 1) (x + 255) else .ok (x + inAt a i, i + 1)

/-- The sequences of a block. -/
def lz4Seq (cap : Nat) (a : Array Byte) : Nat → Nat → Array Byte → Dec (Array Byte)
  | 0, _, out => .error (16, out)
  | n + 1, i, out =>
    if a.size <= i then .error (16, out)
    else do
      let t := inAt a i
      let (l, i) ← if t / 16 == 15 then lz4Len a out a.size (i + 1) 15 else .ok (t / 16, i + 1)
      let out ← emitFrom cap a l i out
      let i := i + l
      if i == a.size then .ok out
      else if a.size < i + 2 then .error (16, out)
      else
        let d := leAt a i 2
        let (m, i) ← if t % 16 == 15 then lz4Len a out a.size (i + 2) 15 else .ok (t % 16, i + 2)
        let out ← emitMatch cap d (m + 4) out
        lz4Seq cap a n i out

/-! ### DEFLATE -/

/-- `n` bits from bit `p` on, the lowest first. -/
def bitsFrom (a : Array Byte) (p : Nat) : Nat → Nat
  | 0 => 0
  | n + 1 => (inAt a (p / 8) >>> (p % 8)) % 2 + 2 * bitsFrom a (p + 1) n

/-- A canonical Huffman code: how many codes of each length 0-15, and the symbols in order of code. -/
structure Huff where
  counts : Array Nat
  symbols : Array Nat

/-- The Huffman code of a list of lengths. -/
def Huff.of (lens : Array Nat) : Huff :=
  { counts := ((List.range 16).map fun l => (lens.toList.filter (· == l)).length).toArray,
    symbols := (((List.range 15).flatMap fun l => (List.range lens.size).filter fun s => (lens[s]?).getD 0 == l + 1)).toArray }

/-- Codes left over: negative when the lengths ask for too many. -/
def Huff.left (h : Huff) : Int :=
  (List.range 15).foldl (fun (x : Int) l => if x < 0 then x else 2 * x - ((h.counts[l + 1]?).getD 0 : Nat)) 1

/-- Decodes one symbol from bit `p`. -/
def Huff.read (h : Huff) (a : Array Byte) : Nat → Nat → Nat → Int → Nat → Nat → Option (Nat × Nat)
  | 0, _, _, _, _, _ => none
  | n + 1, len, p, code, first, index =>
    if 8 * a.size <= p then none
    else
      let code := code + bitsFrom a p 1
      let count := (h.counts[len]?).getD 0
      if code - count < first then
        (h.symbols[index + (code - first).toNat]?).map fun s => (s, p + 1)
      else Huff.read h a n (len + 1) (p + 1) (2 * code) (2 * (first + count)) (index + count)

/-- Base values of the length codes 257-285. -/
def lenBase : Array Nat :=
  #[3, 4, 5, 6, 7, 8, 9, 10, 11, 13, 15, 17, 19, 23, 27, 31, 35, 43, 51, 59, 67, 83, 99, 115, 131, 163, 195, 227, 258]
/-- Extra bits of the length codes. -/
def lenExtra : Array Nat := #[0, 0, 0, 0, 0, 0, 0, 0, 1, 1, 1, 1, 2, 2, 2, 2, 3, 3, 3, 3, 4, 4, 4, 4, 5, 5, 5, 5, 0]
/-- Base values of the distance codes. -/
def distBase : Array Nat :=
  #[1, 2, 3, 4, 5, 7, 9, 13, 17, 25, 33, 49, 65, 97, 129, 193, 257, 385, 513, 769, 1025, 1537, 2049, 3073, 4097, 6145, 8193,
    12289, 16385, 24577]
/-- Extra bits of the distance codes. -/
def distExtra : Array Nat :=
  #[0, 0, 0, 0, 1, 1, 2, 2, 3, 3, 4, 4, 5, 5, 6, 6, 7, 7, 8, 8, 9, 9, 10, 10, 11, 11, 12, 12, 13, 13]

/-- The symbols of a compressed block. -/
def inflateCodes (cap : Nat) (a : Array Byte) (hl hd : Huff) : Nat → Nat → Array Byte → Dec (Nat × Array Byte)
  | 0, _, out => .error (16, out)
  | n + 1, p, out =>
    match hl.read a 15 1 p 0 0 0 with
    | none => .error (16, out)
    | some (s, p) =>
      if s < 256 then do
        let out ← emit cap out s
        inflateCodes cap a hl hd n p out
      else if s == 256 then .ok (p, out)
      else
        match lenBase[s - 257]?, lenExtra[s - 257]? with
        | some b, some e =>
          let len := b + bitsFrom a p e
          match hd.read a 15 1 (p + e) 0 0 0 with
          | none => .error (16, out)
          | some (d, p) =>
            match distBase[d]?, distExtra[d]? with
            | some b, some e => do
              if 8 * a.size < p + e then .error (16, out)
              else
                let out ← emitMatch cap (b + bitsFrom a p e) len out
                inflateCodes cap a hl hd n (p + e) out
            | _, _ => .error (16, out)
        | _, _ => .error (16, out)

/-- The order of the code length codes. -/
def clOrder : List Nat := [16, 17, 18, 0, 8, 7, 9, 6, 10, 5, 11, 4, 12, 3, 13, 2, 14, 1, 15]

/-- The code lengths of a dynamic block, `k` in all. -/
def readLens (a : Array Byte) (h : Huff) (k : Nat) : Nat → Nat → Array Nat → Option (Nat × Array Nat)
  | 0, _, _ => none
  | n + 1, p, l =>
    if k <= l.size then (if l.size == k then some (p, l) else none)
    else
      match h.read a 7 1 p 0 0 0 with
      | none => none
      | some (s, p) =>
        if s < 16 then readLens a h k n p (l.push s)
        else
          let (v, c, p) :=
            if s == 16 then (l.back?, 3 + bitsFrom a p 2, p + 2)
            else if s == 17 then (some 0, 3 + bitsFrom a p 3, p + 3) else (some 0, 11 + bitsFrom a p 7, p + 7)
          match v with
          | none => none
          | some v => readLens a h k n p (l ++ (List.replicate c v).toArray)

/-- The fixed literal and distance codes. -/
def fixedLit : Huff :=
  Huff.of (List.replicate 144 8 ++ List.replicate 112 9 ++ List.replicate 24 7 ++ List.replicate 8 8).toArray
/-- The fixed distance code. -/
def fixedDist : Huff := Huff.of (List.replicate 30 5).toArray

/-- A code is usable: complete, or a lone code of length 1. -/
def Huff.usable (h : Huff) : Bool := h.left == 0 || (decide (0 < h.left) && h.symbols.size <= 1)

/-- The tables of a dynamic block. -/
def dynamicTables (a : Array Byte) (p : Nat) : Option (Nat × Huff × Huff) :=
  let nl := 257 + bitsFrom a p 5
  let nd := 1 + bitsFrom a (p + 5) 5
  let nc := 4 + bitsFrom a (p + 10) 4
  if 286 < nl || 30 < nd then none
  else
    let cl := (List.range 19).foldl (fun (l : Array Nat) k =>
      l.set! ((clOrder[k]?).getD 0) (if k < nc then bitsFrom a (p + 14 + 3 * k) 3 else 0)) (Array.replicate 19 0)
    let h := Huff.of cl
    if h.left != 0 then none
    else
      match readLens a h (nl + nd) 330 (p + 14 + 3 * nc) #[] with
      | none => none
      | some (p, l) =>
        let hl := Huff.of (l.extract 0 nl)
        let hd := Huff.of (l.extract nl (nl + nd))
        if (l[256]?).getD 0 == 0 || !hl.usable || !hd.usable then none else some (p, hl, hd)

/-- The blocks of a DEFLATE stream. -/
def inflate (cap : Nat) (a : Array Byte) : Nat → Nat → Array Byte → Dec (Array Byte)
  | 0, _, out => .error (16, out)
  | n + 1, p, out =>
    if 8 * a.size < p + 3 then .error (16, out)
    else do
      let last := bitsFrom a p 1 == 1
      let (p, out) ←
        match bitsFrom a (p + 1) 2 with
        | 0 =>
          let i := (p + 3 + 7) / 8
          let len := leAt a i 2
          if a.size < i + 4 || leAt a (i + 2) 2 != 65535 - len then .error (16, out)
          else (emitFrom cap a len (i + 4) out).map fun out => (8 * (i + 4 + len), out)
        | 1 => inflateCodes cap a fixedLit fixedDist (8 * a.size + 1) (p + 3) out
        | 2 =>
          match dynamicTables a (p + 3) with
          | none => .error (16, out)
          | some (p, hl, hd) => inflateCodes cap a hl hd (8 * a.size + 1) p out
        | _ => .error (16, out)
      if last then .ok out else inflate cap a n p out

/-! ### Zstandard: bit streams read from their end -/

/-- A stream read backwards: its bytes and the bits left; bits before its start read as zeros. -/
structure Back where
  a : Array Byte
  left : Int

/-- Opens the bytes `lo` to `hi - 1`: the bits below the highest set bit of the last byte. -/
def Back.open_ (a : Array Byte) (lo hi : Nat) : Option Back :=
  let b := inAt a (hi - 1)
  if hi <= lo || b == 0 then none else some ⟨a.extract lo hi, (8 * (hi - lo - 1) + b.log2 : Nat)⟩

/-- The next `n` bits without taking them. -/
def Back.peek (s : Back) (n : Nat) : Nat :=
  if (n : Int) <= s.left then bitsFrom s.a (s.left - n).toNat n
  else if 0 < s.left then bitsFrom s.a 0 s.left.toNat <<< (n - s.left.toNat) else 0
/-- Takes `n` bits. -/
def Back.take (s : Back) (n : Nat) : Nat × Back := (s.peek n, { s with left := s.left - n })

/-! ### Zstandard: FSE -/

/-- A state of an FSE table: symbol, bits to read, base of the next state. -/
structure FseCell where
  sym : Nat
  bits : Nat
  base : Nat

/-- An FSE table. -/
structure Fse where
  log : Nat
  cells : Array FseCell

/-- A table of one symbol. -/
def Fse.rle (s : Nat) : Fse := ⟨0, #[⟨s, 0, 0⟩]⟩

/-- A cell of a table. -/
def Fse.at_ (t : Fse) (i : Nat) : FseCell := (t.cells[i]?).getD ⟨0, 0, 0⟩

/-- Probabilities read from bit `p` (forward): the remaining points, the symbols so far; -1 stands for "less than one". -/
def fseProbs (a : Array Byte) : Nat → Nat → Int → List Int → Option (Nat × List Int)
  | 0, _, _, _ => none
  | n + 1, p, rem, l =>
    if rem <= 0 then (if rem == 0 then some (p, l) else none)
    else
      let k := (rem + 1).toNat.log2 + 1
      let lo := 2 ^ k - 1 - (rem + 1).toNat
      let v := bitsFrom a p k
      let small := v % 2 ^ (k - 1)
      let (x, p) := if small < lo then (small, p + k - 1) else (if 2 ^ (k - 1) <= v then v - lo else v, p + k)
      let pr : Int := (x : Int) - 1
      let rem := rem - (if pr == -1 then 1 else pr)
      if pr == 0 then
        let rec zeros : Nat → Nat → List Int → Nat × List Int
          | 0, p, l => (p, l)
          | m + 1, p, l =>
            let z := bitsFrom a p 2
            let l := l ++ List.replicate z 0
            if z == 3 then zeros m (p + 2) l else (p + 2, l)
        let (p, l) := zeros 100 p (l ++ [0])
        fseProbs a n p rem l
      else fseProbs a n p rem (l ++ [pr])

/-- Places the symbols of a probability list in the table. -/
def fseSpread (size : Nat) (probs : List Int) : Array Nat :=
  let low := ((List.range probs.length).filter fun i => (probs[i]?).getD 0 == -1)
  let hi := size - low.length
  let t := (List.range low.length).foldl (fun (t : Array Nat) k => t.set! (size - 1 - k) ((low[k]?).getD 0)) (Array.replicate size 0)
  let step := size / 2 + size / 8 + 3
  let next (p : Nat) : Nat :=
    let rec go : Nat → Nat → Nat
      | 0, p => p
      | n + 1, p => if p < hi then p else go n ((p + step) % size)
    go size ((p + step) % size)
  let place := (List.range probs.length).foldl (fun (x : Array Nat × Nat) s =>
    (List.range (((probs[s]?).getD 0).toNat)).foldl (fun (x : Array Nat × Nat) _ => (x.1.set! x.2 s, next x.2)) x) (t, 0)
  place.1

/-- The table of a probability list. -/
def Fse.of (log : Nat) (probs : List Int) : Fse :=
  let size := 2 ^ log
  let syms := fseSpread size probs
  let start := (probs.map fun p => if p == -1 then 1 else p.toNat).toArray
  let cells := (List.range size).foldl (fun (x : Array FseCell × Array Nat) i =>
    let s := (syms[i]?).getD 0
    let k := (x.2[s]?).getD 1
    let b := log - k.log2
    (x.1.push ⟨s, b, k * 2 ^ b - size⟩, x.2.set! s (k + 1))) (#[], start)
  ⟨log, cells.1⟩

/-- Reads a table description at byte `i`: the table and the byte after it. -/
def readFse (a : Array Byte) (i maxLog maxSym : Nat) : Option (Fse × Nat) :=
  let log := bitsFrom a (8 * i) 4 + 5
  if maxLog < log then none
  else
    match fseProbs a 300 (8 * i + 4) (2 ^ log : Nat) [] with
    | none => none
    | some (p, l) => if maxSym + 1 < l.length || 8 * a.size < p then none else some (Fse.of log l, (p + 7) / 8)

/-! ### Zstandard: Huffman -/

/-- A Huffman table of literals: its depth, and for each pattern a symbol and its bits. -/
structure ZHuff where
  depth : Nat
  cells : Array (Nat × Nat)

/-- The weights of an FSE-compressed description, two states in turn, until the stream is spent. -/
def fseWeights (t : Fse) : Nat → Nat → Nat → Back → List Nat → Option (List Nat)
  | 0, _, _, _, _ => none
  | n + 1, x, y, s, l =>
    let c := t.at_ x
    let l := l ++ [c.sym]
    if s.left < c.bits then some (l ++ [(t.at_ y).sym])
    else
      let (v, s) := s.take c.bits
      fseWeights t n y (c.base + v) s l

/-- The table of a list of weights, whose last is implied. -/
def ZHuff.of (w : List Nat) : Option ZHuff :=
  let total := w.foldl (fun x k => x + (if k == 0 then 0 else 2 ^ (k - 1))) 0
  if total == 0 then none
  else
    let depth := total.log2 + 1
    let rest := 2 ^ depth - total
    if rest != 2 ^ rest.log2 || 11 < depth then none
    else
      let w := w ++ [rest.log2 + 1]
      let cells := (List.range depth).flatMap fun k =>
        ((List.range w.length).filter fun s => (w[s]?).getD 0 == k + 1).flatMap fun s =>
          List.replicate (2 ^ k) (s, depth - k)
      some ⟨depth, cells.toArray⟩

/-- Reads a Huffman description at byte `i`: the table and the byte after it. -/
def readZHuff (a : Array Byte) (i : Nat) : Option (ZHuff × Nat) :=
  let h := inAt a i
  if 128 <= h then
    let n := h - 127
    let w := (List.range n).map fun k => let b := inAt a (i + 1 + k / 2); if k % 2 == 0 then b / 16 else b % 16
    (ZHuff.of w).map fun t => (t, i + 1 + (n + 1) / 2)
  else
    match readFse a (i + 1) 6 12 with
    | none => none
    | some (t, j) =>
      match Back.open_ a j (i + 1 + h) with
      | none => none
      | some s =>
        let (x, s) := s.take t.log
        let (y, s) := s.take t.log
        match fseWeights t 256 x y s [] with
        | none => none
        | some w => if 255 < w.length then none else (ZHuff.of w).map fun t => (t, i + 1 + h)

/-- `n` literals of one stream, which must end with its last bit. -/
def huffLits (t : ZHuff) : Nat → Back → Array Byte → Option (Array Byte)
  | 0, s, l => if s.left == 0 then some l else none
  | n + 1, s, l =>
    let (sym, b) := (t.cells[s.peek t.depth]?).getD (0, 1)
    if s.left < b then none else huffLits t n { s with left := s.left - b } (l.push (BitVec.ofNat 8 sym))

/-! ### Zstandard: blocks -/

/-- What carries from block to block: the Huffman table, the three FSE tables, the repeat offsets. -/
structure ZState where
  huff : Option ZHuff
  ll : Option Fse
  off : Option Fse
  ml : Option Fse
  rep : Nat × Nat × Nat

/-- Base and extra bits of the literal length codes. -/
def llCode (c : Nat) : Nat × Nat :=
  if c < 16 then (c, 0)
  else (#[(16, 1), (18, 1), (20, 1), (22, 1), (24, 2), (28, 2), (32, 3), (40, 3), (48, 4), (64, 6), (128, 7), (256, 8), (512, 9),
    (1024, 10), (2048, 11), (4096, 12), (8192, 13), (16384, 14), (32768, 15), (65536, 16)][c - 16]?).getD (0, 0)
/-- Base and extra bits of the match length codes. -/
def mlCode (c : Nat) : Nat × Nat :=
  if c < 32 then (c + 3, 0)
  else (#[(35, 1), (37, 1), (39, 1), (41, 1), (43, 2), (47, 2), (51, 3), (59, 3), (67, 4), (83, 4), (99, 5), (131, 7), (259, 8),
    (515, 9), (1027, 10), (2051, 11), (4099, 12), (8195, 13), (16387, 14), (32771, 15), (65539, 16)][c - 32]?).getD (0, 0)

/-- The default literal length table. -/
def llDefault : Fse := Fse.of 6
  [4, 3, 2, 2, 2, 2, 2, 2, 2, 2, 2, 2, 2, 1, 1, 1, 2, 2, 2, 2, 2, 2, 2, 2, 2, 3, 2, 1, 1, 1, 1, 1, -1, -1, -1, -1]
/-- The default match length table. -/
def mlDefault : Fse := Fse.of 6
  ([1, 4, 3, 2, 2, 2, 2, 2, 2] ++ List.replicate 37 1 ++ List.replicate 7 (-1))
/-- The default offset table. -/
def ofDefault : Fse := Fse.of 5 ([1, 1, 1, 1, 1, 1, 2, 2, 2] ++ List.replicate 15 1 ++ List.replicate 5 (-1))

/-- The literals of a block at byte `i`: the literals, the byte after the section, and the Huffman table in force. -/
def zLiterals (a : Array Byte) (i : Nat) (hi : Nat) (old : Option ZHuff) : Option (Array Byte × Nat × Option ZHuff) :=
  let h := inAt a i
  let ty := h % 4
  let sf := h / 4 % 4
  if ty <= 1 then
    let (n, k) := if sf % 2 == 0 then (h / 8, 1) else if sf == 1 then (leAt a i 2 / 16, 2) else (leAt a i 3 / 16, 3)
    if ty == 0 then (if hi < i + k + n then none else some (a.extract (i + k) (i + k + n), i + k + n, old))
    else if hi < i + k + 1 then none else some (Array.replicate n (BitVec.ofNat 8 (inAt a (i + k))), i + k + 1, old)
  else
    let (w, k) := if sf <= 1 then (10, 3) else if sf == 2 then (14, 4) else (18, 5)
    let x := leAt a i k / 16
    let n := x % 2 ^ w
    let c := x / 2 ^ w % 2 ^ w
    let j := i + k
    let stop := j + c
    if hi < stop then none
    else
      match (if ty == 2 then readZHuff (a.extract 0 stop) j else old.map fun t => (t, j)) with
      | none => none
      | some (t, j) =>
        if sf == 0 then
          ((Back.open_ a j stop).bind fun s => huffLits t n s #[]).map fun l => (l, stop, some t)
        else
          let s1 := leAt a j 2
          let s2 := leAt a (j + 2) 2
          let s3 := leAt a (j + 4) 2
          let j := j + 6
          let m := (n + 3) / 4
          let one (lo hi n : Nat) (l : Array Byte) : Option (Array Byte) := (Back.open_ a lo hi).bind fun s => huffLits t n s l
          if stop < j + s1 + s2 + s3 || n < 3 * m then none
          else
            ((((one j (j + s1) m #[]).bind (one (j + s1) (j + s1 + s2) m)).bind
              (one (j + s1 + s2) (j + s1 + s2 + s3) m)).bind (one (j + s1 + s2 + s3) stop (n - 3 * m))).map
              fun l => (l, stop, some t)

/-- A table of the sequences section by its mode at byte `i`. -/
def zTable (a : Array Byte) (i mode maxLog maxSym : Nat) (dflt : Fse) (old : Option Fse) : Option (Fse × Nat) :=
  match mode with
  | 0 => some (dflt, i)
  | 1 => if maxSym < inAt a i then none else some (Fse.rle (inAt a i), i + 1)
  | 2 => readFse a i maxLog maxSym
  | _ => old.map fun t => (t, i)

/-- The offset of a sequence and the repeat offsets after it. -/
def zOffset (v ll : Nat) (r : Nat × Nat × Nat) : Nat × (Nat × Nat × Nat) :=
  if 3 < v then (v - 3, (v - 3, r.1, r.2.1))
  else
    let k := if ll == 0 then v + 1 else v
    if k == 1 then (r.1, r)
    else if k == 2 then (r.2.1, (r.2.1, r.1, r.2.2))
    else if k == 3 then (r.2.2, (r.2.2, r.1, r.2.1))
    else (r.1 - 1, (r.1 - 1, r.1, r.2.1))

/-- The sequences of a block: literals from `li` on, then a match within the window and the frame, which starts at output byte `o0`,
`n` times. -/
def zSeqs (cap o0 window : Nat) (lits : Array Byte) (tl tfs tm : Fse) : Nat → Nat → Nat × Nat × Nat → Back → Nat × Nat × Nat → Array Byte →
    Dec (Nat × (Nat × Nat × Nat) × Array Byte)
  | 0, li, _, s, rep, out => if s.left == 0 then .ok (li, rep, out) else .error (16, out)
  | n + 1, li, (xl, xo, xm), s, rep, out => do
    let cl := tl.at_ xl
    let co := tfs.at_ xo
    let cm := tm.at_ xm
    let (ob, s) := s.take co.sym
    let (mb, me) := mlCode cm.sym
    let (mx, s) := s.take me
    let (lb, le) := llCode cl.sym
    let (lx, s) := s.take le
    let ll := lb + lx
    let (off, rep) := zOffset (2 ^ co.sym + ob) ll rep
    if s.left < 0 || lits.size < li + ll then .error (16, out)
    else
      let out ← emitFrom cap lits ll li out
      let out ← if min window (out.size - o0) < off then .error (16, out) else emitMatch cap off (mb + mx) out
      if n == 0 then zSeqs cap o0 window lits tl tfs tm n (li + ll) (xl, xo, xm) s rep out
      else
        let (a, s) := s.take cl.bits
        let (b, s) := s.take cm.bits
        let (c, s) := s.take co.bits
        zSeqs cap o0 window lits tl tfs tm n (li + ll) (cl.base + a, co.base + c, cm.base + b) s rep out

/-- A compressed block of the bytes `i` to `hi - 1`. -/
def zBlock (cap o0 window : Nat) (a : Array Byte) (i hi : Nat) (z : ZState) (out : Array Byte) : Dec (ZState × Array Byte) :=
  match zLiterals a i hi z.huff with
  | none => .error (16, out)
  | some (lits, j, h) =>
    let z := { z with huff := h }
    let b := inAt a j
    let (n, j) := if b < 128 then (b, j + 1) else if b < 255 then ((b - 128) * 256 + inAt a (j + 1), j + 2)
      else (leAt a (j + 1) 2 + 0x7F00, j + 3)
    if hi < j then .error (16, out)
    else if n == 0 then (if j == hi then (emitFrom cap lits lits.size 0 out).map fun o => (z, o) else .error (16, out))
    else
      let m := inAt a j
      if m % 4 != 0 then .error (16, out)
      else
        let a' := a.extract 0 hi
        match zTable a' (j + 1) (m / 64) 9 35 llDefault z.ll with
        | none => .error (16, out)
        | some (tl, j) =>
          match zTable a' j (m / 16 % 4) 8 31 ofDefault z.off with
          | none => .error (16, out)
          | some (tfs, j) =>
            match zTable a' j (m / 4 % 4) 9 52 mlDefault z.ml with
            | none => .error (16, out)
            | some (tm, j) =>
              match Back.open_ a j hi with
              | none => .error (16, out)
              | some s => do
                let (xl, s) := s.take tl.log
                let (xo, s) := s.take tfs.log
                let (xm, s) := s.take tm.log
                let (li, rep, out) ← zSeqs cap o0 window lits tl tfs tm n 0 (xl, xo, xm) s z.rep out
                let out ← emitFrom cap lits (lits.size - li) li out
                .ok (⟨h, some tl, some tfs, some tm, rep⟩, out)

/-- The blocks of a frame whose content starts at output byte `o0`. -/
def zBlocks (cap o0 window : Nat) (a : Array Byte) (maxBlock : Nat) : Nat → Nat → ZState → Array Byte → Dec (Nat × Array Byte)
  | 0, _, _, out => .error (16, out)
  | n + 1, i, z, out =>
    if a.size < i + 3 then .error (16, out)
    else do
      let h := leAt a i 3
      let size := h / 8
      let i := i + 3
      let (i, z, out) ←
        match h / 2 % 4 with
        | 0 => if maxBlock < size then .error (16, out) else (emitFrom cap a size i out).map fun o => (i + size, z, o)
        | 1 =>
          if a.size <= i || maxBlock < size then .error (16, out)
          else (emitRun cap (inAt a i) size out).map fun o => (i + 1, z, o)
        | 2 =>
          if a.size < i + size || maxBlock < size || size < 2 then .error (16, out)
          else (zBlock cap o0 window a i (i + size) z out).map fun x => (i + size, x.1, x.2)
        | _ => .error (16, out)
      if h % 2 == 1 then .ok (i, out) else zBlocks cap o0 window a maxBlock n i z out

/-! ### Zstandard: checksum and frames -/

/-- xxHash64's round. -/
def xxRound (acc x : Word) : Word := (acc + x * 0xC2B2AE3D27D4EB4F).rotateLeft 31 * 0x9E3779B185EBCA87
/-- xxHash64's merge. -/
def xxMerge (acc x : Word) : Word := (acc ^^^ xxRound 0 x) * 0x9E3779B185EBCA87 + 0x85EBCA77C2B2AE63
/-- A little-endian double of an array. -/
def w64At (a : Array Byte) (i : Nat) : Word := BitVec.ofNat 64 (leAt a i 8)

/-- The stripes of 32 bytes. -/
def xxStripes (a : Array Byte) : Nat → Nat → Word × Word × Word × Word → Nat × (Word × Word × Word × Word)
  | 0, i, x => (i, x)
  | n + 1, i, (p, q, r, s) =>
    xxStripes a n (i + 32) (xxRound p (w64At a i), xxRound q (w64At a (i + 8)), xxRound r (w64At a (i + 16)), xxRound s (w64At a (i + 24)))

/-- The rest after the stripes: doubles, a word, bytes. -/
def xxTail (a : Array Byte) (stop : Nat) : Nat → Nat → Word → Word
  | 0, _, h => h
  | n + 1, i, h =>
    if i + 8 <= stop then
      xxTail a stop n (i + 8) ((h ^^^ xxRound 0 (w64At a i)).rotateLeft 27 * 0x9E3779B185EBCA87 + 0x85EBCA77C2B2AE63)
    else if i + 4 <= stop then
      xxTail a stop n (i + 4) ((h ^^^ BitVec.ofNat 64 (leAt a i 4) * 0x9E3779B185EBCA87).rotateLeft 23 * 0xC2B2AE3D27D4EB4F
        + 0x165667B19E3779F9)
    else if i < stop then
      xxTail a stop n (i + 1) ((h ^^^ BitVec.ofNat 64 (inAt a i) * 0x27D4EB2F165667C5).rotateLeft 11 * 0x9E3779B185EBCA87)
    else h

/-- xxHash64 with seed 0 of the bytes `lo` to `hi - 1`. -/
def xxHash (a : Array Byte) (lo hi : Nat) : Word :=
  let n := hi - lo
  let p1 : Word := 0x9E3779B185EBCA87
  let p2 : Word := 0xC2B2AE3D27D4EB4F
  let (i, h) :=
    if 32 <= n then
      let (i, (p, q, r, s)) := xxStripes a (n / 32) lo (p1 + p2, p2, 0, 0 - p1)
      let h := p.rotateLeft 1 + q.rotateLeft 7 + r.rotateLeft 12 + s.rotateLeft 18
      (i, xxMerge (xxMerge (xxMerge (xxMerge h p) q) r) s)
    else (lo, (0x27D4EB2F165667C5 : Word))
  let h := xxTail a hi (n + 1) i (h + BitVec.ofNat 64 n)
  let h := (h ^^^ (h >>> 33)) * p2
  let h := (h ^^^ (h >>> 29)) * 0x165667B19E3779F9
  h ^^^ (h >>> 32)

/-- The frames of a Zstandard input (R369): skippable frames are skipped; a dictionary, or a window above 8 MiB, is
outside the limits. -/
def zFrames (cap : Nat) (a : Array Byte) : Nat → Nat → Array Byte → Dec (Array Byte)
  | 0, _, out => .error (16, out)
  | n + 1, i, out =>
    if i == a.size then .ok out
    else if a.size < i + 4 then .error (16, out)
    else
      let magic := leAt a i 4
      if magic / 16 == 0x184D2A5 then
        let j := i + 8 + leAt a (i + 4) 4
        if a.size < j || a.size < i + 8 then .error (16, out) else zFrames cap a n j out
      else if magic != 0xFD2FB528 || a.size < i + 5 then .error (16, out)
      else do
        let d := inAt a (i + 4)
        let single := d / 32 % 2 == 1
        let i := i + 5
        let wb := inAt a i
        let i := if single then i else i + 1
        let dl := (#[0, 1, 2, 4][d % 4]?).getD 0
        let dict := leAt a i dl
        let i := i + dl
        let fl := if d / 64 == 0 then (if single then 1 else 0) else 2 ^ (d / 64)
        let fcs := leAt a i fl + (if fl == 2 then 256 else 0)
        let i := i + fl
        let base := 2 ^ (10 + wb / 8)
        let window := if single then fcs else base + base / 8 * (wb % 8)
        if a.size < i || d / 8 % 2 == 1 then .error (16, out)
        else if dict != 0 || 2 ^ 23 < window then .error (19, out)
        else
          let o0 := out.size
          let (i, out) ← zBlocks cap o0 window a (min window (2 ^ 17)) a.size i ⟨none, none, none, none, (1, 4, 8)⟩ out
          if fl != 0 && out.size - o0 != fcs then .error (16, out)
          else if d / 4 % 2 == 1 then
            if a.size < i + 4 then .error (16, out)
            else if leAt a i 4 != (xxHash out o0 out.size).toNat % 2 ^ 32 then .error (18, out)
            else zFrames cap a n (i + 4) out
          else zFrames cap a n i out

/-- DECOMP's decoder (R369): format 0 DEFLATE, 1 Zstandard, 2 LZ4; the output and the code. -/
def decompress (fmt cap : Nat) (inp : List Byte) : List Byte × Nat :=
  let a := inp.toArray
  let r := match fmt with
    | 0 => inflate cap a (8 * a.size + 1) 0 #[]
    | 1 => zFrames cap a (a.size + 1) 0 #[]
    | _ => lz4Seq cap a (a.size + 1) 0 #[]
  match r with
  | .ok out => (out.toList, 0)
  | .error (c, out) => (out.toList, c)

end Sys2Proof.Machine
end

