-- ==== Sys2Proof/Machine/Crypto.lean ====
section
/-! DEFINITION. SHA-512 and Ed25519, which the spec takes from outside (R433, R442, R446, R490-R492: RFC 8032, pure Ed25519; log
entry 11), and the keys of the package. -/

namespace Sys2Proof.Machine

/-! ### SHA-512 -/

/-- Round constants 0 to 19 of SHA-512 (FIPS 180-4). -/
def shaK0 : List Word :=
  [
   0x428A2F98D728AE22, 0x7137449123EF65CD, 0xB5C0FBCFEC4D3B2F, 0xE9B5DBA58189DBBC, 0x3956C25BF348B538,
   0x59F111F1B605D019, 0x923F82A4AF194F9B, 0xAB1C5ED5DA6D8118, 0xD807AA98A3030242, 0x12835B0145706FBE,
   0x243185BE4EE4B28C, 0x550C7DC3D5FFB4E2, 0x72BE5D74F27B896F, 0x80DEB1FE3B1696B1, 0x9BDC06A725C71235,
   0xC19BF174CF692694, 0xE49B69C19EF14AD2, 0xEFBE4786384F25E3, 0x0FC19DC68B8CD5B5, 0x240CA1CC77AC9C65]

/-- Round constants 20 to 39 of SHA-512 (FIPS 180-4). -/
def shaK1 : List Word :=
  [
   0x2DE92C6F592B0275, 0x4A7484AA6EA6E483, 0x5CB0A9DCBD41FBD4, 0x76F988DA831153B5, 0x983E5152EE66DFAB,
   0xA831C66D2DB43210, 0xB00327C898FB213F, 0xBF597FC7BEEF0EE4, 0xC6E00BF33DA88FC2, 0xD5A79147930AA725,
   0x06CA6351E003826F, 0x142929670A0E6E70, 0x27B70A8546D22FFC, 0x2E1B21385C26C926, 0x4D2C6DFC5AC42AED,
   0x53380D139D95B3DF, 0x650A73548BAF63DE, 0x766A0ABB3C77B2A8, 0x81C2C92E47EDAEE6, 0x92722C851482353B]

/-- Round constants 40 to 59 of SHA-512 (FIPS 180-4). -/
def shaK2 : List Word :=
  [
   0xA2BFE8A14CF10364, 0xA81A664BBC423001, 0xC24B8B70D0F89791, 0xC76C51A30654BE30, 0xD192E819D6EF5218,
   0xD69906245565A910, 0xF40E35855771202A, 0x106AA07032BBD1B8, 0x19A4C116B8D2D0C8, 0x1E376C085141AB53,
   0x2748774CDF8EEB99, 0x34B0BCB5E19B48A8, 0x391C0CB3C5C95A63, 0x4ED8AA4AE3418ACB, 0x5B9CCA4F7763E373,
   0x682E6FF3D6B2B8A3, 0x748F82EE5DEFB2FC, 0x78A5636F43172F60, 0x84C87814A1F0AB72, 0x8CC702081A6439EC]

/-- Round constants 60 to 79 of SHA-512 (FIPS 180-4). -/
def shaK3 : List Word :=
  [
   0x90BEFFFA23631E28, 0xA4506CEBDE82BDE9, 0xBEF9A3F7B2C67915, 0xC67178F2E372532B, 0xCA273ECEEA26619C,
   0xD186B8C721C0C207, 0xEADA7DD6CDE0EB1E, 0xF57D4F7FEE6ED178, 0x06F067AA72176FBA, 0x0A637DC5A2C898A6,
   0x113F9804BEF90DAE, 0x1B710B35131C471B, 0x28DB77F523047D84, 0x32CAAB7B40C72493, 0x3C9EBE0A15C9BEBC,
   0x431D67C49C100D4C, 0x4CC5D4BECB3E42B6, 0x597F299CFC657E2A, 0x5FCB6FAB3AD6FAEC, 0x6C44198C4A475817]

/-- The round constants. -/
def shaK : List Word := shaK0 ++ shaK1 ++ shaK2 ++ shaK3

/-- The eight words of the running hash. -/
structure Sha where
  a : Word
  b : Word
  c : Word
  d : Word
  e : Word
  f : Word
  g : Word
  h : Word

/-- The initial hash value. -/
def Sha.start : Sha :=
  ⟨0x6A09E667F3BCC908, 0xBB67AE8584CAA73B, 0x3C6EF372FE94F82B, 0xA54FF53A5F1D36F1,
   0x510E527FADE682D1, 0x9B05688C2B3E6C1F, 0x1F83D9ABFB41BD6B, 0x5BE0CD19137E2179⟩

/-- One round with its constant and message word. -/
def Sha.round (x : Sha) (k w : Word) : Sha :=
  let s1 := x.e.rotateRight 14 ^^^ x.e.rotateRight 18 ^^^ x.e.rotateRight 41
  let ch := (x.e &&& x.f) ^^^ (~~~x.e &&& x.g)
  let t1 := x.h + s1 + ch + k + w
  let s0 := x.a.rotateRight 28 ^^^ x.a.rotateRight 34 ^^^ x.a.rotateRight 39
  let mj := (x.a &&& x.b) ^^^ (x.a &&& x.c) ^^^ (x.b &&& x.c)
  ⟨t1 + (s0 + mj), x.a, x.b, x.c, x.d + t1, x.e, x.f, x.g⟩

/-- The rounds over the constants left; `w` holds the next sixteen message words. -/
def Sha.rounds : List Word → List Word → Sha → Sha
  | [], _, x => x
  | k :: ks, w, x =>
    let at_ (i : Nat) : Word := (w[i]?).getD 0
    let w1 := at_ 1
    let w14 := at_ 14
    let s0 := w1.rotateRight 1 ^^^ w1.rotateRight 8 ^^^ (w1 >>> 7)
    let s1 := w14.rotateRight 19 ^^^ w14.rotateRight 61 ^^^ (w14 >>> 6)
    Sha.rounds ks (w.drop 1 ++ [at_ 0 + s0 + at_ 9 + s1]) (x.round k (at_ 0))

/-- Adds two hash values word by word. -/
def Sha.add (x y : Sha) : Sha :=
  ⟨x.a + y.a, x.b + y.b, x.c + y.c, x.d + y.d, x.e + y.e, x.f + y.f, x.g + y.g, x.h + y.h⟩

/-- A big-endian number from bytes. -/
def beNum (l : List Byte) : Nat := l.foldl (fun x b => x * 256 + b.toNat) 0
/-- The `n` bytes of a number, the highest first. -/
def beBytes (n x : Nat) : List Byte := ((List.range n).map fun i => BitVec.ofNat 8 (x >>> (8 * i))).reverse
/-- The big-endian words of a block. -/
def blockWords : Nat → List Byte → List Word
  | 0, _ => []
  | n + 1, l => BitVec.ofNat 64 (beNum (l.take 8)) :: blockWords n (l.drop 8)

/-- The padding of a message. -/
def shaPad (l : List Byte) : List Byte :=
  l ++ [0x80] ++ List.replicate ((239 - l.length % 128) % 128) 0 ++ beBytes 16 (8 * l.length)

/-- The blocks of a padded message. -/
def shaBlocks : Nat → List Byte → Sha → Sha
  | 0, _, x => x
  | n + 1, l, x => shaBlocks n (l.drop 128) (x.add (Sha.rounds shaK (blockWords 16 (l.take 128)) x))

/-- SHA-512 of a message. -/
def sha512 (l : List Byte) : List Byte :=
  let p := shaPad l
  let x := shaBlocks (p.length / 128) p Sha.start
  [x.a, x.b, x.c, x.d, x.e, x.f, x.g, x.h].flatMap fun w => beBytes 8 w.toNat

/-! ### Ed25519 -/

/-- The prime of the field. -/
def edP : Nat := 2 ^ 255 - 19
/-- The order of the base point. -/
def edL : Nat := 2 ^ 252 + 27742317777372353535851937790883648493
/-- x ^ e mod m over the lowest `n` bits of e. -/
def powMod (m : Nat) : Nat → Nat → Nat → Nat
  | 0, _, _ => 1
  | n + 1, x, e => (if e % 2 == 1 then x else 1) * powMod m n (x * x % m) (e / 2) % m
/-- The inverse in the field. -/
def edInv (x : Nat) : Nat := powMod edP 255 x (edP - 2)
/-- The curve's constant d. -/
def edD : Nat := (edP - 121665) * edInv 121666 % edP
/-- A square root of -1. -/
def edI : Nat := powMod edP 255 2 ((edP - 1) / 4)

/-- A point in extended coordinates. -/
structure EdPoint where
  x : Nat
  y : Nat
  z : Nat
  t : Nat

/-- The neutral point. -/
def EdPoint.zero : EdPoint := ⟨0, 1, 1, 0⟩

/-- The sum of two points. -/
def EdPoint.add (a b : EdPoint) : EdPoint :=
  let p := edP
  let q := (a.y + p - a.x) * (b.y + p - b.x) % p
  let r := (a.y + a.x) * (b.y + b.x) % p
  let s := 2 * a.t * b.t * edD % p
  let u := 2 * a.z * b.z % p
  let e := r + p - q
  let f := u + p - s
  let g := u + s
  let h := r + q
  ⟨e * f % p, g * h % p, f * g % p, e * h % p⟩

/-- A multiple of a point by the lowest `n` bits of a scalar. -/
def EdPoint.mul : Nat → Nat → EdPoint → EdPoint
  | 0, _, _ => EdPoint.zero
  | n + 1, k, q => if k % 2 == 1 then q.add (EdPoint.mul n (k / 2) (q.add q)) else EdPoint.mul n (k / 2) (q.add q)

/-- The x coordinate of a y coordinate and sign (RFC 8032, 5.1.3). -/
def edRecover (y sign : Nat) : Option Nat :=
  let u := (y * y + edP - 1) % edP
  let v := (edD * (y * y % edP) + 1) % edP
  let w := u * edInv v % edP
  let x := powMod edP 255 w ((edP + 3) / 8)
  let x := if x * x % edP == w then some x else
    let x' := x * edI % edP
    if x' * x' % edP == w then some x' else none
  match x with
  | none => none
  | some x => if x == 0 && sign == 1 then none else some (if x % 2 == sign then x else edP - x)

/-- A little-endian number from bytes. -/
def leNum : List Byte → Nat
  | [] => 0
  | b :: bs => b.toNat + 256 * leNum bs

/-- Decodes a point. -/
def EdPoint.decode (l : List Byte) : Option EdPoint :=
  let n := leNum (l.take 32)
  let y := n % 2 ^ 255
  if edP <= y then none
  else (edRecover y (n / 2 ^ 255 % 2)).map fun x => ⟨x, y, 1, x * y % edP⟩

/-- The base point. -/
def EdPoint.base : EdPoint :=
  let y := 4 * edInv 5 % edP
  match edRecover y 0 with
  | some x => ⟨x, y, 1, x * y % edP⟩
  | none => EdPoint.zero

/-- Two points are one. -/
def EdPoint.same (a b : EdPoint) : Bool :=
  (a.x * b.z + edP * edP - b.x * a.z) % edP == 0 && (a.y * b.z + edP * edP - b.y * a.z) % edP == 0

/-- Ed25519 verification (RFC 8032, 5.1.7): key, signature of 64 bytes, message. -/
def edVerify (key sig msg : List Byte) : Bool :=
  match EdPoint.decode key, EdPoint.decode (sig.take 32) with
  | some a, some r =>
    let s := leNum ((sig.drop 32).take 32)
    if edL <= s then false
    else
      let k := leNum (sha512 (sig.take 32 ++ key.take 32 ++ msg)) % edL
      let l := EdPoint.mul 4 8 (EdPoint.mul 256 s EdPoint.base)
      let q := EdPoint.mul 4 8 (r.add (EdPoint.mul 256 k a))
      l.same q
  | _, _ => false

/-- The `n` bytes of a number, the lowest first. -/
def edBytes (n x : Nat) : List Byte := (List.range n).map fun i => BitVec.ofNat 8 (x >>> (8 * i))

/-- Encodes a point (RFC 8032, 5.1.2). -/
def EdPoint.encode (a : EdPoint) : List Byte :=
  let z := edInv a.z
  edBytes 32 (a.y * z % edP + a.x * z % edP % 2 * 2 ^ 255)

/-- The secret scalar of a private key (RFC 8032, 5.1.5). -/
def edScalar (key : List Byte) : Nat := leNum ((sha512 key).take 32) % 2 ^ 254 / 8 * 8 + 2 ^ 254

/-- The public key of a private key (RFC 8032, 5.1.5). -/
def edPublic (key : List Byte) : List Byte := (EdPoint.mul 256 (edScalar key) EdPoint.base).encode

/-- The Ed25519 signature of a message (RFC 8032, 5.1.6). -/
def edSign (key msg : List Byte) : List Byte :=
  let r := leNum (sha512 ((sha512 key).drop 32 ++ msg)) % edL
  let big := (EdPoint.mul 256 r EdPoint.base).encode
  let k := leNum (sha512 (big ++ edPublic key ++ msg)) % edL
  big ++ edBytes 32 ((r + k * edScalar key) % edL)

/-! ### The package's keys (R491) -/

/-- The device identity key's private half, derived from the device seed (R491); how is the firmware's (log entry 11). -/
def deviceSecret : List Byte := (List.range 32).map (Config.deriveKey Config.deviceSeed)
/-- The public identity key (R491, R492). -/
def deviceKey : List Byte := edPublic deviceSecret
/-- A signature with the identity key (R446, R492). -/
def deviceSign (msg : List Byte) : List Byte := edSign deviceSecret msg
/-- The private key with which Seluz certifies identity keys. -/
def seluzSecret : List Byte := (List.range 32).map Config.seluzSecret
/-- The public key that certificates verify under (R491). -/
def seluzKey : List Byte := edPublic seluzSecret
/-- The certificate: Seluz's signature over SHA-512 of the public key followed by the serial (R491). -/
def certificate : List Byte := edSign seluzSecret (sha512 (deviceKey ++ edBytes 8 Config.serial.toNat))

end Sys2Proof.Machine
end

