-- ==== Sys2Proof/Machine/Engines.lean ====
section
/-! DEFINITION. The asynchronous engines (R363-R371, R384): issue, COPY, DECOMP, SREAD, GATE, and the breakwater
(R443-R446). -/

namespace Sys2Proof.Machine

/-! ### Tags and completion -/

/-- A tag of a job takes its final status and S. -/
def Hart.endTag (uid : Nat) (status : Word) (p : PvSet) (h : Hart) : Hart :=
  { h with tags := h.tags.map fun t => if t.uid == uid && t.state == .running then { t with state := .done status, pv := p } else t }

/-- The tag of a job completes wherever its hart's context stands (R364). -/
def endJob (uid : Nat) (status : Word) (p : PvSet) (s : State) : State :=
  let s := s.mapHarts (·.endTag uid status p)
  { s with tasks := s.tasks.map fun t => { t with harts := t.harts.map (·.endTag uid status p) } }

/-- An engine's translation of an address on behalf of its job, through the scalar data TLB of the core in hand (R324; log entry 67). -/
def engXlat (j : EngJob) (va : Word) (p : Perm) (s : State) : Except WalkErr (Nat × TlbEntry × State) :=
  xlatWith .scalar j.ptroot j.mode va p s

/-- Why an engine stops before it writes: a status code with a RESULT, or a frame that it waits for. -/
inductive EngStop where
  | code (c : Nat) (result : Word)
  | wait

/-- A part of a range that lies in one page: virtual address, physical address, length. -/
structure Span where
  va : Word
  pa : Nat
  len : Nat

/-- The pages of a range, translated in order (R366); the first address that fails, or whose page of the host window the host has refused
(R467; log entry 51), ends with code 1. -/
def spans (j : EngJob) (p : Perm) : Nat → Word → Nat → State → Except EngStop (List Span × State)
  | 0, _, _, s => .ok ([], s)
  | n + 1, va, len, s =>
    if len == 0 then .ok ([], s)
    else
      let k := min len (65536 - va.toNat % 65536)
      match engXlat j va p s with
      | .error _ => .error (.code 1 va)
      | .ok (pa, e, t) =>
        if t.inHost pa && t.pri.any (fun x => x.who == j.who && x.page == pa / 4096 && x.failed) then .error (.code 1 va)
        else if t.frameBusy pa || (t.inHost pa && t.pri.any fun x => x.page == pa / 4096 && !x.failed) then .error .wait
        else
          match spans j p n (va + BitVec.ofNat 64 k) (len - k) (fillAts pa (startClear pa (recordTide pa e t))) with
          | .error x => .error x
          | .ok (l, t) => .ok (⟨va, pa, k⟩ :: l, t)

/-- The pages of a range of `len` bytes. -/
def rangeSpans (j : EngJob) (p : Perm) (va : Word) (len : Nat) (s : State) : Except EngStop (List Span × State) :=
  spans j p (len / 65536 + 2) va len s

/-- The union of the current sets of the pages of a range. -/
def spansPv (l : List Span) (s : State) : PvSet := l.foldl (fun p x => p ||| s.curAt x.pa) pvEmpty

/-- The status with which a page refuses a write of data set `p`: 2 for its ceiling, 3 for an egress (R366, R428). -/
def refusal (va : Word) (pa : Nat) (p : PvSet) (s : State) : Option Nat :=
  (writeCheck va pa p 6 s).map fun t => if t.cause == 22 then 3 else 2

/-- The first refusal among the pages of a destination. -/
def spansRefuse (l : List Span) (p : PvSet) (s : State) : Option Nat := l.findSome? fun x => refusal x.va x.pa p s

/-- A page of a range that cannot be read at all, or a poisoned sector (R483). -/
def spansBad (l : List Span) (s : State) : Bool := l.any fun x => (s.deadFrame x.pa).isSome || s.poisoned x.pa x.len

/-- The bytes of a range at their homes. -/
def spansRead (l : List Span) (s : State) : List Byte :=
  l.flatMap fun x => (List.range x.len).map fun i => s.homeByte (x.pa + i)

/-- Writes bytes over the pages of a range as an engine does, with data set `p`. -/
def spansWrite (p : PvSet) : List Span → List Byte → State → State
  | [], _, s => s
  | x :: xs, l, s =>
    if l.isEmpty then s else spansWrite p xs (l.drop x.len) (storeHome x.pa (l.take x.len) p s)

/-- The physical address of byte `i` of a range. -/
def spanAddr : List Span → Nat → Nat
  | [], _ => 0
  | x :: xs, i => if i < x.len then x.pa + i else spanAddr xs (i - x.len)

/-- Writes any subset of the bytes, as the free order chooses (R366 code 4, R370 code 32; log entry 7). -/
def spansWriteSome (p : PvSet) (l : List Span) (bytes : List Byte) (s : State) : State :=
  let (c, s) := s.nextFree
  (List.range bytes.length).foldl (fun s i =>
    if Config.orderKey c i % 2 == 1 then storeHome (spanAddr l i) (bytes.drop i |>.take 1) p s else s) s

/-- Where a job's block stands for its two words, with the refusal of set `p` there (R365); a block that cannot be written
ends the engine with code 1. -/
def blockPlace (j : EngJob) (p : PvSet) (s : State) : Except Nat Nat :=
  match engXlat j (j.block + 48) .write s with
  | .error _ => .error 1
  | .ok (pa, _, _) => match refusal (j.block + 48) pa p s with | some c => .error c | none => .ok pa

/-- Where the two words of a job's block go: as the start of the job found it, else as it is now (R365, R366). -/
def jobPlace (j : EngJob) (p : PvSet) (s : State) : Except Nat Nat :=
  match j.place with
  | some pa => .ok pa
  | none => blockPlace j p s

/-- The job ends: RESULT and STATUS are written where the block's page takes S, then the tag completes (R365). That page has been checked at
the start, once a job has begun to write (R366). -/
def finishJob (j : EngJob) (status result : Word) (p : PvSet) (s : State) : State :=
  match jobPlace j p s with
  | .error c => endJob j.uid (BitVec.ofNat 64 c) p s
  | .ok pa => endJob j.uid status p (storeHome pa (toLeBytes 8 result.toNat ++ toLeBytes 8 status.toNat) p s)

/-- The saved hart of a task, other than one given, whose tag a job runs for (R418). -/
def State.savedOwner (s : State) (not_ : Option Nat) (j : EngJob) : Option Hart :=
  s.tasks.findSome? fun t => if some t.num == not_ then none else t.harts.find? fun h => h.tags.any fun g => g.uid == j.uid

/-- The accesses of the hart that precede a job have been performed (R351), also where the hart has been saved meanwhile (R418). -/
def State.jobReady (s : State) (j : EngJob) : Bool :=
  match s.savedOwner none j with
  | some h => (h.heldBy.isSome && decide (h.heldSeq <= j.uid)) || h.queue.all fun it => decide (j.uid <= it.seq) || it.silent s
  | none => s.performedTo j.who j.uid

/-! ### Issue (R363-R365, R384) -/

/-- The engine trap (R384). -/
def engTrap (i : Instr) (reason : Nat) (s : State) : State := scalarTrap ⟨19, encode i, reason, 0⟩ s

/-- The lowest engine tag that is not in use (R364). -/
def Hart.freeTag (h : Hart) : Option Nat := (List.range 64).find? fun n => h.tags.all fun t => t.num != n

/-- The level of the task that holds the current core (R408); 0 for none. -/
def State.levelOfTask (s : State) : Nat :=
  match s.core.task.bind fun n => findBy Task.num n s.tasks with | some t => t.level | none => 0

/-- The namespace bound at an index for the current partition: controller, NSID and set (R472, R480). -/
def State.nsAt (s : State) (n : Nat) : Option (Nat × Nat × PvSet) :=
  s.part.bind fun p => (findBy (fun x : Nat × Nat × Nat × PvSet => x.1) n p.ns).map fun x => (x.2.1, x.2.2.1, x.2.2.2)

/-- A control block within its limits (R365, R368-R371, R444), but for what depends on a binding. -/
def blockOk (kind : Nat) (ops : List Word) (s : State) : Bool :=
  let op (k : Nat) : Nat := (ops[k]?.getD 0).toNat
  let ctl := op 5
  decide (ctl % 8 <= 5) &&
  match kind with
  | 1 => ctl / 8 == 0 && decide (op 2 <= 2 ^ 32)
  | 2 => ctl / 16 == 0 && decide (1 <= op 2) && decide (op 2 <= 2 ^ 32) && decide (op 3 <= 2 ^ 32) && decide (op 4 <= 2)
      && (!(ctl.testBit 3) || (match s.handle (BitVec.ofNat 64 (op 0)) with | some (e, _) => e.end_ == 0 | none => false))
  | 3 => ctl / 8 == 0 && op 0 % 4 == 0 && decide (op 1 < 64) && decide (1 <= op 3) && decide (op 3 <= 65536)
  | _ => ctl / 8 == 0 && decide (op 1 <= 2 ^ 24) && op 4 % 256 == 0

/-- The maximum data transfer size of a controller in blocks of a namespace (R480). -/
def maxBlocks (ctl nsid : Nat) : Nat := Config.maxTransfer ctl / Config.lbaSize ctl nsid

/-- The queue of a new job: COPY and DECOMP in issue order, SREAD at the storage engine, GATE at the breakwater. -/
def enqueueJob (j : EngJob) (s : State) : State :=
  match j.kind with
  | 3 => { s with sreads := s.sreads ++ [j] }
  | 4 => { s with gateq := s.gateq ++ [j] }
  | _ => { s with engq := s.engq ++ [j] }

/-- Issues an engine instruction (R364, R365, R367): the block is read as a load, the checks of R384 are made in order,
the lowest free tag is taken and the job handed over. -/
def engIssue (i : Instr) (kind : Nat) (f : RFmt) (s : State) : State :=
  let a := s.getS f.sa
  if a.toNat % 64 != 0 then scalarTrap ⟨7, a, 0, 2⟩ s
  else
    match access a 64 .read 2 true s with
    | .trap t => scalarTrap t (touch a .read s)
    | .wait w => waitFor w s
    | .ok pa t =>
      let x := t.loadNum pa 64
      let ops := (List.range 6).map fun k => BitVec.ofNat 64 (bitsAt x (64 * k) 64)
      let op (k : Nat) : Nat := (ops[k]?.getD 0).toNat
      let t := t.addCtx (s.getP f.sa ||| t.loadPv pa)
      let ns := t.nsAt (op 1)
      if !blockOk kind ops s then engTrap i 2 s
      else if kind == 3 && ns.isNone then engTrap i 3 s
      else
        let (ctl, nsid, bound) := ns.getD (0, 0, pvEmpty)
        if kind == 3 && decide (min 65536 (maxBlocks ctl nsid) < op 3) then engTrap i 2 s
        else
          match s.hart.freeTag with
          | none => engTrap i 1 s
          | some n =>
            let chan := if kind == 2 && (op 5).testBit 3 then
                (match s.handle (BitVec.ofNat 64 (op 0)) with | some (_, c) => c.key | none => 0) else 0
            let j : EngJob :=
              { uid := s.jobSeq, tag := n, kind := kind, who := s.hart.id, part := s.partNum, level := s.levelOfTask, block := a,
                ops := ops, pv := if kind == 3 then t.ctx ||| bound else t.ctx, ptroot := s.hart.csr.ptroot,
                mode := s.hart.mode, chan := chan, ctl := ctl, nsid := nsid, out := none, pieces := none, place := none }
            let t := t.mapHart fun h => { h with tags := putBy EngTag.num ⟨n, .running, s.jobSeq, j.pv⟩ h.tags }
            let t := enqueueJob j { t with jobSeq := s.jobSeq + 1 }
            retire (t.setS f.sd (BitVec.ofNat 64 n) t.ctx)

/-- COPY (R363-R368). -/
def execCopy (f : RFmt) (s : State) : Out :=
  let i : Instr := .copy f
  .next (gated i (engIssue i 1 f) s)
/-- DECOMP (R363-R367, R369). -/
def execDecomp (f : RFmt) (s : State) : Out :=
  let i : Instr := .decomp f
  .next (gated i (engIssue i 2 f) s)
/-- SREAD (R363-R367, R370, R480). -/
def execSread (f : RFmt) (s : State) : Out :=
  let i : Instr := .sread f
  .next (gated i (engIssue i 3 f) s)
/-- GATE (R363-R367, R371): a release at SYS scope, after watch resolution, then the issue. -/
def execGate (f : RFmt) (s : State) : Out :=
  let i : Instr := .gate f
  .next (gated i (watchGate (fun s =>
    let t := engIssue i 4 f s
    if t.jobSeq != s.jobSeq then releaseFence 5 t else t)) s)

/-! ### COPY and DECOMP at work -/

/-- An operand of a job. -/
def EngJob.op (j : EngJob) (k : Nat) : Word := j.ops[k]?.getD 0

/-- A walk that fails for an engine starts the clears of its tables' frames (R336). -/
def stopClear (j : EngJob) (e : EngStop) (s : State) : State :=
  match e with | .code 1 va => walkClear j.ptroot va s | _ => s

/-- The source and destination of a job, translated and checked (R366, R367): the pages of both, S, the job with the place of its block, and
the state; a stop carries the part of S known by then. -/
def engStart (j : EngJob) (srcLen dstLen : Nat) (s : State) :
    Except (EngStop × PvSet × State) (List Span × List Span × PvSet × EngJob × State) :=
  match rangeSpans j .read (j.op 1) srcLen s with
  | .error e => .error (e, j.pv, stopClear j e s)
  | .ok (src, s) =>
    let p := j.pv ||| spansPv src s
    match rangeSpans j .write (j.op 0) dstLen s with
    | .error e => .error (e, p, stopClear j e s)
    | .ok (dst, s) =>
      match blockPlace j p s with
      | .error c => .error (.code c 0, p, s)
      | .ok pa =>
        match spansRefuse dst p s with
        | some c => .error (.code c 0, p, s)
        | none => .ok (src, dst, p, { j with place := some pa }, s)

/-- What becomes of a job that stopped before it wrote: it ends, or it waits (none). -/
def engStopped (j : EngJob) (e : EngStop) (p : PvSet) (s : State) : Option State :=
  match e with
  | .code c r =>
    let s := if c == 1 then { s with pri := s.pri.filter fun x => !(x.failed && x.who == j.who) } else s
    some (finishJob j (BitVec.ofNat 64 c) r p s)
  | .wait => none

/-- The two ranges share a byte. -/
def spansMeet (a b : List Span) : Bool := a.any fun x => b.any fun y => x.pa < y.pa + y.len && y.pa < x.pa + x.len

/-- The aligned elements of 8 bytes or fewer of a range of `n` bytes, as offset and length (R351). -/
def elemCuts (va n : Nat) : List (Nat × Nat) :=
  (List.range ((va % 8 + n + 7) / 8)).map fun k =>
    let lo := 8 * k - va % 8
    (lo, min n (8 * k + 8 - va % 8) - lo)

/-- One element of the source of an overlapping COPY is read whole, as it was before or as it then stands, and each element of the
destination that has all its bytes by then is written whole (R351, R368). -/
def copyElem (p : PvSet) (src dst : List Span) (cuts : List (Nat × Nat)) (old : List Byte) (c : Nat) (x : List (Nat × Byte) × State)
    (e : Nat × Nat) : List (Nat × Byte) × State :=
  let got := (List.range e.2).map fun i =>
    let n := e.1 + i
    (n, if Config.orderKey c e.1 % 2 == 1 then old[n]?.getD 0 else x.2.homeByte (spanAddr src n))
  let buf := got ++ x.1
  let full := cuts.filter fun d => decide (d.1 < e.1 + e.2) && decide (e.1 < d.1 + d.2) &&
    (List.range d.2).all fun i => buf.any fun b => b.1 == d.1 + i
  (buf, full.foldl (fun s d => storeHome (spanAddr dst d.1)
    ((List.range d.2).map fun i => ((findBy Prod.fst (d.1 + i) buf).getD (0, 0)).2) p s) x.2)

/-- An overlapping COPY (R351, R368): element by element, rising or falling as a free value says, each element of the source as it was
before or as it then stands (log entry 7). -/
def copyOverlap (j : EngJob) (p : PvSet) (src dst : List Span) (old : List Byte) (s : State) : State :=
  let (c, s) := s.nextFree
  let n := old.length
  let cuts := elemCuts (j.op 1).toNat n
  let order := if Config.orderKey c n % 2 == 1 then cuts.reverse else cuts
  (order.foldl (copyElem p src dst (elemCuts (j.op 0).toNat n) old c) ([], s)).2

/-- COPY's engine (R366-R368); none while a frame makes it wait. -/
def runCopy (j : EngJob) (s : State) : Option State :=
  let n := (j.op 2).toNat
  match engStart j n n s with
  | .error (e, p, s) => engStopped j e p s
  | .ok (src, dst, p, j, s) =>
    let bytes := spansRead src s
    if spansBad src s || spansBad (dst.map fun x => { x with len := 0 }) s then
      let s := spansWriteSome p dst bytes s
      let (k, s) := s.nextFree
      some (finishJob j 4 (Config.freeWord k) p s)
    else
      let s := if spansMeet src dst then copyOverlap j p src dst bytes s else spansWrite p dst bytes s
      some (finishJob j 0 (j.op 2) p s)

/-- The DATA tokens of a channel's output (R369): 8 bytes each, the last padded with zeros. -/
def dataToks : Nat → List Byte → List Tok
  | 0, _ => []
  | _ + 1, [] => []
  | n + 1, l => ⟨0, BitVec.ofNat 64 (leBytes (l.take 8))⟩ :: dataToks n (l.drop 8)

/-- Sends tokens as slots while the window allows (R252, R369); what is still to be sent. The first argument bounds the slots. -/
def engSend (key : Nat) : Nat → List Tok → State → List Tok × State
  | 0, l, s => (l, s)
  | n + 1, l, s =>
    match s.chanAt key with
    | none => ([], s)
    | some c =>
      if l.isEmpty || !c.maySend then (l, s)
      else engSend key n (l.drop (15 * c.slotl)) ((engSlot c c.fills 0 (slotLines c.slotl (l.take (15 * c.slotl))) s).setChan c.fill)

/-- A DECOMP with its output in a channel goes on sending: what is left of the job, if anything (R369). -/
def sendDecoded (j : EngJob) (d : Decoded) (s : State) : Option EngJob × State :=
  match engSend j.chan (d.toks.length + 1) d.toks s with
  | ([], s) => (none, finishJob j (BitVec.ofNat 64 d.code) (BitVec.ofNat 64 d.len) d.pv s)
  | (l, s) => (some { j with out := some { d with toks := l } }, s)

/-- A DECOMP with its output in a channel begins (R366, R367, R369): the ring's pages are checked, the source is decoded, and the
channel's set takes S. -/
def startDecoded (j : EngJob) (src : List Span) (p : PvSet) (s : State) : Option EngJob × State :=
  match s.chanAt j.chan with
  | none => (none, finishJob j 0 0 p s)
  | some c =>
    match ringCheck c p s with
    | some t => (none, finishJob j (if t.cause == 22 then 3 else 2) 0 p s)
    | none =>
      let (out, code) := decompress (j.op 4).toNat (j.op 3).toNat (spansRead src s)
      sendDecoded j ⟨dataToks (out.length + 1) out ++ [⟨5, 0⟩], code, out.length, p⟩ (s.setChan { c with pv := c.pv ||| p })

/-- DECOMP's engine (R366, R367, R369): what is left of the job, if anything, and the state. -/
def runDecomp (j : EngJob) (s : State) : Option EngJob × State :=
  match j.out with
  | some d => sendDecoded j d s
  | none =>
    let ch := (j.op 5).toNat.testBit 3
    match engStart j (j.op 2).toNat (if ch then 0 else (j.op 3).toNat) s with
    | .error (e, p, t) => match engStopped j e p t with | some t => (none, t) | none => (some j, s)
    | .ok (src, dst, p, j, t) =>
      if ch && !spansBad src t then startDecoded j src p t
      else
        let (out, code) := decompress (j.op 4).toNat (j.op 3).toNat (spansRead src t)
        if spansBad src t then
          let t := if ch then t else spansWriteSome p dst out t
          let (k, t) := t.nextFree
          (none, finishJob j 4 (Config.freeWord k) p t)
        else (none, finishJob j (BitVec.ofNat 64 code) (BitVec.ofNat 64 out.length) p (spansWrite p dst out t))

/-- The engine that serves a job: the copy engine of the core, or the decompression island of the cove (R368, R369). -/
def EngJob.engine (j : EngJob) : Nat := if j.kind == 1 then j.who.core else 1000 + j.who.core / 8

/-- The job that its engine serves next among those waiting: the lowest level number first at the island of a cove, else
in issue order (R368, R369, R408). -/
def nextJob (e : Nat) (l : List EngJob) : Option EngJob :=
  let mine := l.filter fun j => j.engine == e
  let best := if e < 1000 then 0 else mine.foldl (fun m j => min m j.level) 99
  mine.find? fun j => e < 1000 || j.level == best || j.out.isSome

/-- Serves a COPY or DECOMP job, once the hart's earlier vector items have been performed (R351). -/
def serveJob (j : EngJob) (s : State) : State :=
  if !s.jobReady j then s
  else
  let drop (s : State) : State := { s with engq := s.engq.filter fun x => x.uid != j.uid }
  if j.kind == 1 then
    match (let h := s.hart.id; (runCopy j (focus j.who s)).map (focus h)) with
    | some s => drop s
    | none => s
  else
    let h := s.hart.id
    match runDecomp j (focus j.who s) with
    | (none, s) => drop (focus h s)
    | (some j', s) => (fun s : State => { s with engq := s.engq.map fun x => if x.uid == j.uid then j' else x }) (focus h s)

/-- The engines of the package each serve one job in a clk. -/
def enginesClk (s : State) : State :=
  let es := s.engq.foldl (fun l j => if l.contains j.engine then l else l ++ [j.engine]) []
  es.foldl (fun s e => match nextJob e s.engq with | some j => serveJob j s | none => s) s

/-- The job of a hart's tag: that of the hart as it stands, else of one that has been saved or has ended since (R418, R475). -/
def State.jobOf (s : State) (who : HartId) (tag : Nat) (l : List EngJob) : Option EngJob :=
  let mine := l.filter fun j => j.who == who && j.tag == tag
  match mine.find? fun j => (s.hartAt who).tags.any fun t => t.uid == j.uid with
  | some j => some j
  | none => mine.head?

/-- ENGINE_COMPLETE (R365-R369): a COPY or DECOMP job that its engine serves next runs to completion. -/
def execEngineComplete (who : HartId) (tag : Nat) (s : State) : Out :=
  .next (match s.jobOf who tag s.engq with
    | some j => if nextJob j.engine s.engq == some j then serveJob j s else s
    | none => s)

/-! ### SREAD (R370, R480) -/

/-- The commands of a partition's queue at a controller (R480): reads, and the write of a GATE whose destination is storage. -/
def State.sreadBusy (s : State) (part ctl : Nat) : Nat :=
  (s.sreads.filter fun j => j.part == part && j.ctl == ctl && j.pieces.isSome).length +
    (s.deliveries.filter fun d => d.job.part == part && d.dest.kind == 2 && d.job.ctl == ctl).length

/-- Starts an SREAD (R366, R370): its destination pages are translated and checked, then the command enters the queue. -/
def startSread (j : EngJob) (s : State) : State :=
  let drop (s : State) : State := { s with sreads := s.sreads.filter fun x => x.uid != j.uid }
  let n := (j.op 3).toNat * Config.lbaSize j.ctl j.nsid
  let h := s.hart.id
  let t := focus j.who s
  let fin (c : Nat) (r : Word) (t : State) : State := drop (focus h (finishJob j (BitVec.ofNat 64 c) r j.pv t))
  match rangeSpans j .write (j.op 0) n t with
  | .error (.code c r) => fin c r (stopClear j (.code c r) { t with pri := t.pri.filter fun x => !(x.failed && x.who == j.who) })
  | .error .wait => s
  | .ok (dst, t) =>
    match blockPlace j j.pv t with
    | .error c => fin c 0 t
    | .ok pa =>
      match (if dst.any fun x => t.inHost x.pa then some 3 else spansRefuse dst j.pv t) with
      | some c => fin c 0 t
      | none =>
        let j' := { j with pieces := some (dst.map fun x => (x.pa, x.len)), place := some pa }
        let t := focus h t
        { t with sreads := t.sreads.map fun x => if x.uid == j.uid then j' else x }

/-- The waiting SREAD that enters a queue next (R408, R480). -/
def State.nextSread (s : State) (part ctl : Nat) : Option EngJob :=
  let l := s.sreads.filter fun j => j.part == part && j.ctl == ctl && j.pieces.isNone
  let best := l.foldl (fun m j => min m j.level) 99
  l.find? fun j => j.level == best

/-- SREAD_QUEUE_SLOT (R480): the next waiting SREAD takes a free entry, once its hart's earlier vector items have been performed
(R351). -/
def sreadSlot (part ctl : Nat) (s : State) : State :=
  if s.sreadBusy part ctl < 1024 then
    match s.nextSread part ctl with
    | some j => if s.jobReady j then startSread j s else s
    | none => s
  else s

/-- SREAD_QUEUE_SLOT (R480). -/
def execSreadQueueSlot (part controller : Nat) (s : State) : Out := .next (sreadSlot part controller s)

/-- Every waiting SREAD whose queue has room starts. -/
def sreadsClk (s : State) : State :=
  (s.sreads.filter fun j => j.pieces.isNone).foldl (fun s j => sreadSlot j.part j.ctl s) s

/-- A controller's completion of a read (R370): success writes every byte; another status gives code 32 with the NVMe
status field, the bytes any subset of what arrived. -/
def completeSread (j : EngJob) (status : BitVec 16) (data : List Byte) (s : State) : State :=
  match j.pieces with
  | none => s
  | some ps =>
    let n := (j.op 3).toNat * Config.lbaSize j.ctl j.nsid
    let dst : List Span := ps.map fun x => ⟨0, x.1, x.2⟩
    if status == 0 && data.length != n then s
    else
      let h := s.hart.id
      let t := focus j.who { s with sreads := s.sreads.filter fun x => x.uid != j.uid }
      let t := if status == 0 then spansWrite j.pv dst data t else spansWriteSome j.pv dst (data.take n) t
      let st := if status == 0 then 0 else 32 + status.toNat * 65536
      focus h (finishJob j (BitVec.ofNat 64 st) (BitVec.ofNat 64 n) j.pv t)

/-- NVME_COMPLETION (R370, R480). -/
def execNvmeCompletion (who : HartId) (tag : Nat) (status : BitVec 16) (data : List Byte) (s : State) : Out :=
  .next (match s.jobOf who tag s.sreads with | some j => completeSread j status data s | none => s)

/-! ### The breakwater (R443-R446) -/

/-- EPOCH_TICK (R443). -/
def execEpochTick (s : State) : Out := .next { s with epoch := (s.epoch + 1) % 2 ^ 64 }

/-- A policy in the tables of the partitions. -/
def State.policy (s : State) (part id : Nat) : Option Policy := s.policies.find? fun p => p.part == part && p.id == id

/-- Replaces an installed policy. -/
def State.setPolicy (s : State) (p : Policy) : State :=
  { s with policies := s.policies.map fun q => if q.part == p.part && q.id == p.id then p else q }

/-- The bytes of a signed output record (R446). -/
def recordBytes (d : Delivery) (partial_ : Bool) (seq : Nat) (pkg : Nat) : List Byte :=
  let body := toLeBytes 4 0x43455242 ++ toLeBytes 2 1 ++ toLeBytes 1 (if partial_ then 1 else 0) ++ toLeBytes 1 d.dest.didx
    ++ toLeBytes 4 d.policy ++ toLeBytes 2 d.set.toNat ++ toLeBytes 2 0 ++ toLeBytes 8 d.bytes.length ++ toLeBytes 8 d.off
    ++ toLeBytes 8 seq ++ toLeBytes 8 d.epoch ++ sha512 d.bytes
    ++ toLeBytes 8 (pkg * 4096 + d.job.who.core * 8 + d.job.who.hart) ++ toLeBytes 8 0
  body ++ deviceSign (sha512 body) ++ toLeBytes 64 0

/-- The end of a delivery (R445, R446): `n` bytes have been delivered, the record is written and the job ends. A job of kind 0
is one whose partition was reset meanwhile: its record and its block are dropped (R423, R475). -/
def endDelivery (d : Delivery) (n : Nat) (s : State) : State :=
  let len := d.bytes.length
  let n := min n len
  let s := { s with deliveries := s.deliveries.filter fun x => x.job.uid != d.job.uid, recSeq := s.recSeq + 1 }
  let s := if d.dest.kind == 1 then storeHome (s.pkg * 2 ^ 43 + d.dest.addr + d.off) (d.bytes.take n) pvEmpty s else s
  if d.job.kind == 0 then s
  else
    let s := storeHome d.record (recordBytes d (n != len) s.recSeq s.pkg) pvEmpty s
    let h := s.hart.id
    focus h (finishJob d.job (if n == len then 0 else 52) (BitVec.ofNat 64 n) d.set (focus d.job.who s))

/-- What the checks of R444 make of a request: a status with RESULT and S, a wait, or an accepted delivery. -/
inductive GateEnd where
  | status (c : Nat) (result : Word) (p : PvSet)
  | wait
  | accept (pol : Policy) (d : Delivery)

/-- The lowest failing address of a GATE's source: a page that fails or lies in the host window (R444). -/
def gateSource (j : EngJob) (s : State) : Except EngStop (List Span × State) :=
  match rangeSpans j .read (j.op 0) (j.op 1).toNat s with
  | .error (.code c va) =>
    let before := match rangeSpans j .read (j.op 0) (va - j.op 0).toNat s with | .ok (l, _) => l | .error _ => []
    match before.find? fun x => s.inHost x.pa with
    | some x => .error (.code 1 x.va)
    | none => .error (.code c va)
  | .error .wait => .error .wait
  | .ok (l, t) => match l.find? fun x => s.inHost x.pa with | some x => .error (.code 1 x.va) | none => .ok (l, t)

/-- The breakwater's checks of a request, in the order of R444, in the focus of the issuing hart. -/
def gateCheck (j : EngJob) (s : State) : GateEnd × State :=
  match s.policy j.part (j.op 2).toNat with
  | none => (.status 48 0 j.pv, s)
  | some pol =>
    if pol.expiry <= s.epoch then (.status 48 0 j.pv, s)
    else
      match gateSource j s, rangeSpans j .write (j.op 4) 256 s with
      | .error .wait, _ => (.wait, s)
      | _, .error .wait => (.wait, s)
      | .error (.code c a), .error (.code _ b) =>
        (.status c (if a.ule b then a else b) j.pv, stopClear j (.code c a) (stopClear j (.code 1 b) s))
      | .error (.code c a), _ => (.status c a j.pv, stopClear j (.code c a) s)
      | _, .error (.code c a) => (.status c a j.pv, stopClear j (.code c a) s)
      | .ok (src, s), .ok (rec_, _) =>
        let len := (j.op 1).toNat
        let set := j.pv ||| spansPv src s
        if spansBad src s then (.status 4 0 set, s)
        else if !pvSubset set pol.parties then (.status 49 0 set, s)
        else
          match blockPlace j set s with
          | .error c => (.status c 0 set, s)
          | .ok pa =>
            match pol.dests.find? fun d => d.didx == (j.op 3).toNat % 256 with
            | none => (.status 50 0 set, s)
            | some d =>
              let lba := match s.nsAt d.ns with | some (c, n, _) => Config.lbaSize c n | none => 0
              if d.limit < d.cursor + len || (d.kind == 2 && (lba == 0 || len % lba != 0)) then (.status 50 0 set, s)
              else if pol.remain < len then (.status 51 0 set, s)
              else if d.kind == 2 && decide (1024 <= s.sreadBusy j.part (match s.nsAt d.ns with | some (c, _, _) => c | none => 0)) then (.wait, s)
              else
                let j := { j with place := some pa, ctl := match s.nsAt d.ns with | some (c, _, _) => c | none => 0 }
                let pol' := { pol with remain := pol.remain - len,
                                       dests := pol.dests.map fun x => if x.didx == d.didx then { x with cursor := x.cursor + len } else x }
                (.accept pol' ⟨j, pol.id, d, d.cursor, spansRead src s, set, (rec_.head?.elim 0 Span.pa), s.epoch⟩, s)

/-- The request that the breakwater takes next (R408): the lowest level number, then arrival. -/
def State.nextGate (s : State) : Option EngJob :=
  let best := s.gateq.foldl (fun m j => min m j.level) 99
  s.gateq.find? fun j => j.level == best

/-- BREAKWATER_REQUEST (R444): the breakwater takes one request, while no delivery runs. -/
def takeGate (j : EngJob) (s : State) : State :=
  if !s.jobReady j then s
  else
  let h := s.hart.id
  let drop (s : State) : State := focus h { s with gateq := s.gateq.filter fun x => x.uid != j.uid }
  match gateCheck j (focus j.who s) with
  | (.status c r p, t) => drop (finishJob j (BitVec.ofNat 64 c) r p t)
  | (.wait, _) => s
  | (.accept pol d, t) => drop { t.setPolicy pol with deliveries := t.deliveries ++ [d] }

/-- BREAKWATER_REQUEST (R408, R444). -/
def execBreakwaterRequest (who : HartId) (tag : Nat) (s : State) : Out :=
  .next (match s.jobOf who tag s.gateq with
    | some j => if s.deliveries.isEmpty && s.nextGate == some j then takeGate j s else s
    | none => s)

/-- BREAKWATER_DELIVERY_DONE (R445, R446): the destination has taken `delivered` bytes. -/
def execBreakwaterDeliveryDone (who : HartId) (tag delivered : Nat) (s : State) : Out :=
  .next (match s.jobOf who tag (s.deliveries.map Delivery.job) with
    | some j => match s.deliveries.find? fun d => d.job.uid == j.uid with | some d => endDelivery d delivered s | none => s
    | none => s)

/-- The breakwater's progress in a clk: a delivery to host memory ends in full, and with none running the next request is
taken. -/
def breakwaterClk (s : State) : State :=
  match s.deliveries with
  | d :: _ => if d.dest.kind == 1 then endDelivery d d.bytes.length s else s
  | [] => match s.nextGate with | some j => takeGate j s | none => s

end Sys2Proof.Machine
end

