-- ==== Sys2Proof/Machine/Convoy.lean ====
section
/-! DEFINITION. What the members of a convoy use (R147, R159): pipes, and the registers, mask registers and scale
registers that a form reads and writes. -/

namespace Sys2Proof.Machine

/-- The pipes of a hart (R146). -/
inductive Pipe where
  | ma | al | ld | st | pm
deriving DecidableEq, Repr

/-- What a member uses: its pipe, and the registers read and written, numbered 0-31 for v0-v31, 32-39 for m0-m7 and
40-47 for k0-k7. -/
structure Use where
  pipe : Pipe
  reads : List Nat
  writes : List Nat

/-- The pipe of a V- or VM-format form (R147). -/
def pipeOf (major fn : Nat) : Pipe :=
  match major with
  | 0x11 => .ma
  | 0x12 => if fn <= 4 then .al else .pm
  | 0x14 => if fn <= 9 then .ma else .al
  | 0x15 => .ma
  | 0x17 => .pm
  | 0x18 => .pm
  | 0x1A => .ld
  | 0x1B => .st
  | 0x1C => .st
  | 0x1D => if fn == 1 then .ld else .st
  | _ => .al

/-- The registers of a group of `n` from `r` on. -/
def groupIds (r n : Nat) : List Nat := (List.range n).map (r + ·)
/-- The registers of a group under its own tag. -/
def State.ownGroup (s : State) (r : BitVec 5) : List Nat := groupIds r.toNat (s.tagOf r).count
/-- A mask register's number. -/
def maskId (r : Nat) : Nat := 32 + r % 8
/-- A scale register's number. -/
def scaleId (r : Nat) : Nat := 40 + r % 8
/-- The governing mask, read where it governs. -/
def govIds (gm : BitVec 3) : List Nat := if gm == 0 then [] else [maskId gm.toNat]
/-- The segment mask, read where SEGMASK names one. -/
def State.segIds (s : State) : List Nat := if s.segmaskReg == 0 then [] else [maskId s.segmaskReg]

/-- The registers that a V-format form reads and writes. -/
def useV (s : State) (major fn : Nat) (f : VFmt) : List Nat × List Nat :=
  let va := s.ownGroup f.va
  let src := va ++ (if f.sb then [] else s.ownGroup f.vb)
  let like := groupIds f.vd.toNat (s.tagOf f.va).count
  let own := s.ownGroup f.vd
  let gm := govIds f.gm
  match major with
  | 0x10 => if fn == 3 || fn == 4 then (src ++ gm ++ [maskId f.vc.toNat], like ++ [maskId f.imm.toNat]) else (src ++ gm, like)
  | 0x11 =>
    if fn == 4 || fn == 5 then (src ++ own ++ gm, own)
    else if fn == 6 then (src ++ gm, groupIds f.vd.toNat (2 * (s.tagOf f.va).count))
    else (src ++ gm, like)
  | 0x12 =>
    match fn with
    | 1 => (src ++ gm, [maskId f.vd.toNat])
    | 2 => (src ++ gm ++ [maskId f.vc.toNat], like)
    | 3 => (va ++ gm, like)
    | 4 => (gm, own)
    | 5 => (va, [])
    | _ => (own, own)
  | 0x13 =>
    let a := maskId f.va.toNat
    let d := maskId f.vd.toNat
    if fn <= 4 then ([a, maskId f.vb.toNat], [d])
    else if fn <= 7 then ([a], [d])
    else if fn == 8 then ([], [d])
    else ([a], [])
  | 0x14 =>
    if fn == 12 then (src ++ gm, [maskId f.vd.toNat])
    else if 4 <= fn && fn <= 7 then (src ++ s.ownGroup f.vc ++ gm, like)
    else if fn == 9 || 13 <= fn then (va ++ gm, like)
    else (src ++ gm, like)
  | 0x15 => (va ++ gm, like)
  | 0x16 =>
    let imm := groupIds f.vd.toNat (tagImm f.imm.toNat).tag.count
    match fn with
    | 1 => (va ++ gm, imm)
    | 2 => (va ++ gm, groupIds f.vd.toNat (2 * (s.tagOf f.va).count))
    | 3 => (va ++ gm, groupIds f.vd.toNat (max 1 ((s.tagOf f.va).count / 2)))
    | 4 => (va ++ gm ++ [scaleId f.vc.toNat], imm)
    | _ => (va ++ gm, imm ++ [scaleId f.vc.toNat])
  | 0x17 =>
    let start := if (fn == 2 || fn == 4) && f.imm.getLsbD 4 && !f.sb then s.ownGroup f.vb else []
    ((if fn == 5 then [] else va) ++ start ++ gm ++ s.segIds, own)
  | 0x18 => ((if fn == 1 || fn == 4 then va ++ s.ownGroup f.vb else va) ++ gm, own)
  | _ => (va ++ gm, own)

/-- The registers that a VM-format form reads and writes. -/
def useVM (s : State) (major fn : Nat) (f : VMFmt) : List Nat × List Nat :=
  let own := s.ownGroup f.vd
  let ix := if major == 0x1C || ((fn == 3 || fn == 4) && major != 0x1D) then s.ownGroup f.sb else []
  let gm := govIds f.gm
  match major with
  | 0x1A => (ix ++ gm, own)
  | 0x1D => if fn == 1 then ([], [scaleId (scaleReg f)]) else ([scaleId (scaleReg f)], [])
  | _ => (own ++ ix ++ gm, [])

/-- What a V- or VM-format instruction uses; none for the other formats. -/
def Use.of (i : Instr) (s : State) : Option Use :=
  match i.code with
  | some (major, fn, .v f) =>
    let (r, w) := useV s major fn f
    some ⟨pipeOf major fn, r, w⟩
  | some (major, fn, .vm f) =>
    let (r, w) := useVM s major fn f
    some ⟨pipeOf major fn, r, w⟩
  | _ => none

/-- The convoy conflict that a member meets against the earlier members (R159); where it meets two, the lowest reason counts
(log entry 65). -/
def conflict (earlier : List Use) (u : Use) : Option Nat :=
  if 4 <= earlier.length then some 1
  else if earlier.any fun e => e.pipe == u.pipe then some 2
  else if u.writes.any fun r => earlier.any fun e => e.reads.contains r || e.writes.contains r then some 3
  else none

/-- The V and VM formats, which may form convoys (R158). -/
def inConvoyFormat (i : Instr) : Bool :=
  match i.code with
  | some (_, _, .v _) => true
  | some (_, _, .vm _) => true
  | _ => false

/-- A word's convoy bit (R28). -/
def convoyBit (w : Word) : Bool := w.getLsbD 57

/-- The words that go to a hart's vector, reef and matrix queues (R148, R259, R260, R296, R416). -/
def isPosted (i : Instr) : Bool :=
  match i.code with
  | some (major, fn, _) =>
    (decide (0x10 <= major) && decide (major <= 0x20)) || (major == 0x22 && (fn == 3 || fn == 4)) || (major == 0x28 && fn != 7) ||
      major == 0x29 || (major == 0x08 && fn != 4)
  | none => false

/-! ### The registers that queued items touch (R71, R113, R150) -/

/-- The current hart with the operands of an item in force. -/
def State.asItem (s : State) (it : Item) : State := s.mapHart fun h => { h with cur := some it, s := it.s, sp := it.sp }

/-- What a form reads and writes of the vector, mask and scale registers, numbered as in `Use`. -/
def regsOf (i : Instr) (s : State) : List Nat × List Nat :=
  match i with
  | .xop f =>
    (s.ownGroup f.vi1 ++ s.ownGroup f.vi2 ++ s.ownGroup f.vi3 ++ govIds f.gm ++ s.segIds,
     s.ownGroup f.vo1 ++ s.ownGroup f.vo2 ++ s.segIds)
  | .chsend f => (s.ownGroup f.sb ++ s.segIds, [])
  | .chrecv f => (s.ownGroup f.sd, s.ownGroup f.sd)
  | .vtag f | .vretag f => ([], groupIds f.sd.toNat (groupOf (tagImm f.imm.toNat).g))
  | .vtagrd f => ([f.sa.toNat], [])
  | .pvrd f =>
    (match f.sb.toNat with
     | 1 => [f.sa.toNat]
     | 2 => [maskId f.sa.toNat]
     | 3 => [scaleId f.sa.toNat]
     | _ => [], [])
  | .bmz f | .bmnz f => ([maskId f.sb.toNat], [])
  | i => match Use.of i s with | some u => (u.reads, u.writes) | none => ([], [])

/-- A form touches one of some registers. -/
def touchesAny (i : Instr) (l : List Nat) (s : State) : Bool :=
  let (r, w) := regsOf i s
  (r ++ w).any fun x => l.contains x

/-- A vector item of a hart, posted before number `n`, touches one of some registers and has not completed (R290). -/
def State.queueTouches (s : State) (who : HartId) (n : Nat) (l : List Nat) : Bool :=
  let h := s.hartAt who
  h.queue.any fun it => decide (it.seq < n) &&
    it.instrs.any fun i => touchesAny i l ((focus who s).asItem it)

end Sys2Proof.Machine
end

