-- ==== Sys2Proof/Machine/Matrix.lean ====
section
/-! DEFINITION. The matrix island (R272-R294): tiles, steps, accumulators, drains and fills. -/

namespace Sys2Proof.Machine

/-! ### Images -/

/-- Numbers of `w` bits side by side, the first lowest. -/
def packBits (w : Nat) : List Nat → Nat
  | [] => 0
  | x :: xs => x % 2 ^ w + packBits w xs * 2 ^ w

/-- A run of `n` fields of `w` bits written at bit `off`, one after another. -/
def putBits (img off w : Nat) (l : List Nat) : Nat := setBitsAt img off (w * l.length) (packBits w l)

/-! ### Slots and accumulators -/

/-- Changes the island of the current core. -/
def State.mapIsl (s : State) (f : Island → Island) : State := s.mapCore fun c => { c with isl := f c.isl }
/-- The island of the current core. -/
def State.isl (s : State) : Island := s.core.isl

/-- The claim on a slot or accumulator (R273). -/
def Island.claimOf (i : Island) (n : Nat) : Option Claim := findBy Claim.num n i.claims

/-! ### The tile header (R275, R276) -/

/-- KIND. -/
def tileKind (h : Nat) : Nat := bitsAt h 0 8
/-- FMT. -/
def tileFmt (h : Nat) : Nat := bitsAt h 8 8
/-- FILL bit `b`. -/
def tileFill (h : Nat) (b : Nat) : Bool := h.testBit (16 + b)
/-- DB. -/
def tileDb (h : Nat) : Nat := bitsAt h 24 2
/-- V: vectors of eight rows. -/
def tileV (h : Nat) : Bool := h.testBit 26
/-- DENSED. -/
def tileDensed (h : Nat) : Bool := h.testBit 27
/-- NOVF. -/
def tileNovf (h : Nat) : Nat := bitsAt h 32 16
/-- The header without DROPPED. -/
def clearDropped (h : Nat) : Nat := setBitsAt h 28 1 0

/-- The element formats of tiles (R275). -/
def tileFmtOk (f : Nat) : Bool := f == 1 || f == 2 || f == 11 || f == 12 || f == 13 || f == 14 || f == 17
/-- The formats to which band scales apply (R276). -/
def isBanded (f : Nat) : Bool := f == 13 || f == 14 || f == 17

/-- A header that MFILL may install (R275, R276). -/
def hdrOk (h : Nat) : Bool :=
  let k := tileKind h
  let f := tileFmt h
  if k == 0 then clearDropped h == 0
  else
    decide (k <= 5) && tileFmtOk f
      && bitsAt h 18 6 == 0 && (!tileFill h 1 || k == 4)
      && bitsAt h 29 3 == 0 && (k == 3 || tileDb h == 0) && tileDb h != 3
      && (!tileV h || k == 2) && (!tileDensed h || k == 3)
      && decide (tileNovf h <= 64) && bitsAt h 48 16 == 0 && bitsAt h 96 32 == 0 && bitsAt h 256 256 == 0
      && (isBanded f || (bitsAt h 64 32 == 0 && bitsAt h 128 128 == 0))

/-- Every band field of a header at one value (R303). -/
def setBands (h v : Nat) : Nat := putBits (putBits h 64 16 [v, v]) 128 16 (List.replicate 8 v)

/-- Width of an element format in bits. -/
def tileW (f : Nat) : Nat := if f == 17 then 4 else if f == 11 || f == 12 then 16 else 8

/-- Logical K of a step (R277). -/
def logicalK (f : Nat) : Nat := if f == 11 || f == 12 then 128 else 256

/-! ### Reading operands (R278-R283) -/

/-- The value of a code under its scales (R171, R172): the code, the E4M5 block scale where the format has one, and the
BF16 band scale. -/
def tileVal (f code : Nat) (block : Option Nat) (band : Option Nat) : FVal :=
  match fmtOf f with
  | none => fint (if f == 1 then sint 8 code else ((code % 256 : Nat) : Int))
  | some g =>
    let x := g.decode code
    let x := match block with | some b => (mulVal x (e4m5.decode b)).1 | none => x
    match band with | some b => (mulVal x (bf16.decode b)).1 | none => x

/-- A block-scale container at a byte offset (R171). -/
def containerAt (mem off : Nat) : Nat := bitsAt mem (8 * off) 9

/-- The band scale of A row `m`. -/
def bandA (h m : Nat) : Nat := bitsAt h (64 + 16 * (m / 64)) 16
/-- The band scale of k-row `k` of a B tile: half 0 or a long tile, or half 1. -/
def bandB (h k : Nat) (half : Bool) : Nat := bitsAt h ((if half then 192 else 128) + 16 * (k / 64)) 16

/-- A[m, k] of a dense A tile, by stored k-row (R278). -/
def denseA (t : TileSlot) (m k : Nat) : FVal :=
  let f := tileFmt t.hdr
  let w := tileW f
  tileVal f (bitsAt t.mem (128 * w * k + w * m) w)
    (if f == 17 then some (containerAt t.mem (16384 + 256 * (k / 8) + 2 * m)) else none)
    (if isBanded f then some (bandA t.hdr m) else none)

/-- B[k, n] of a half or of a long B tile (R279). -/
def tileB (t : TileSlot) (long half : Bool) (k n : Nat) : FVal :=
  let f := tileFmt t.hdr
  let w := tileW f
  let base := if half && !long then 16384 else 0
  let scale := if long then 16384 else base + 8192
  tileVal f (bitsAt t.mem (8 * base + 64 * w * k + w * n) w)
    (if f == 17 then some (containerAt t.mem (scale + 128 * (k / 8) + 2 * n)) else none)
    (if isBanded f then some (bandB t.hdr k (half && !long)) else none)

/-- The kept elements of row `m` of a vector-sparse A tile, with their logical k (R280). -/
def sparseRow (t : TileSlot) (m : Nat) : List (Nat × FVal) :=
  let gt := 2 * logicalK (tileFmt t.hdr) / 4
  let u := m / (if tileV t.hdr then 8 else 4)
  (List.range gt).flatMap fun g =>
    let code := bitsAt t.idx (4 * (u * gt + g)) 4
    [(4 * g + code % 4, denseA t m (2 * g)), (4 * g + code / 4, denseA t m (2 * g + 1))]

/-- The set positions of a 64-bit bitmap, ascending. -/
def setBits64 (x : Nat) : List Nat := (List.range 64).filter fun i => x.testBit i

/-- The overflow entry of group `g` of row `m`, if one is in use (R282). -/
def overflowEntry (t : TileSlot) (m g : Nat) : Option Nat :=
  (List.range (tileNovf t.hdr)).find? fun e => bitsAt t.mem (8 * (20480 + 4 * e)) 10 == m + 256 * g

/-- The stored elements of row `m` of a bitmap A tile, with their logical k (R282); an overflow value without an entry is
not stored. -/
def bitmapRow (t : TileSlot) (m : Nat) : List (Nat × FVal) :=
  let f := tileFmt t.hdr
  let w := tileW f
  let d := 16 * tileDb t.hdr
  let ng := logicalK f / 64
  (List.range ng).flatMap fun g =>
    let pos := setBits64 (bitsAt t.mem (8 * (16384 + 8 * (ng * m + g))) 64)
    let val (k code : Nat) : FVal :=
      tileVal f code (if f == 17 then some (containerAt t.mem (8192 + 256 * (k / 8) + 2 * m)) else none)
        (if isBanded f then some (bandA t.hdr m) else none)
    let inArray := (pos.take d).mapIdx fun j i =>
      let k := 64 * g + i
      (k, val k (bitsAt t.mem (128 * w * (g * d + j) + w * m) w))
    let extra := match overflowEntry t m g with
      | some e => (pos.drop d).mapIdx fun j i =>
          let k := 64 * g + i
          (k, val k (bitsAt t.mem (8 * 20736 + 64 * w * e + w * j) w))
      | none => []
    inArray ++ extra

/-- Row `m` of the A operand of a step, with logical k (R310, R311). -/
def rowOfA (t : TileSlot) (m : Nat) : List (Nat × FVal) :=
  let k := tileKind t.hdr
  if k == 2 then sparseRow t m
  else if k == 3 && !tileDensed t.hdr then bitmapRow t m
  else (List.range (logicalK (tileFmt t.hdr))).map fun k => (k, denseA t m k)

/-! ### One step (R184, R311) -/

/-- What a sum of products has met: a NaN or 0 x infinity, infinities of either sign, and the exact sum. -/
structure StepSum where
  bad : Bool
  pos : Bool
  neg : Bool
  sum : FVal

/-- Adds one product to the sum. -/
def StepSum.add (a b : FVal) (x : StepSum) : StepSum :=
  match mulVal a b with
  | (.nan, _) => { x with bad := true }
  | (.inf true, _) => { x with neg := true }
  | (.inf false, _) => { x with pos := true }
  | (p, _) => { x with sum := addFin false x.sum p }

/-- One step of R184 on an FP32 element: the new element and the flags. -/
def stepFloat (c : Nat) (ps : List (FVal × FVal)) : Nat × Nat :=
  let cv := fp32.decode c
  let start : StepSum := match cv with
    | .inf true => ⟨false, false, true, fzero false⟩
    | .inf false => ⟨false, true, false, fzero false⟩
    | .nan => ⟨false, false, false, fzero false⟩
    | v => ⟨false, false, false, v⟩
  let r := ps.foldl (fun x p => x.add p.1 p.2) start
  if r.bad || (r.pos && r.neg) then (0x7FC00000, flagNV)
  else if r.pos then (fp32.infBits, 0)
  else if r.neg then (2 ^ 31 + fp32.infBits, 0)
  else if cv.isNan then (0x7FC00000, 0)
  else fp32.round ⟨0, 0, false⟩ r.sum

/-- One step on an INT32 element: the exact sum modulo 2^32. -/
def stepInt (c : Nat) (ps : List (FVal × FVal)) : Nat :=
  let v : FVal → Int := fun x => match x with | .fin n m _ _ => if n then -(m : Int) else (m : Int) | _ => 0
  intMod 32 (ps.foldl (fun t p => t + v p.1 * v p.2) ((c : Nat) : Int))

/-- A step over the whole accumulator: the elements, and the union of the flags (R311). -/
def stepAll (int : Bool) (a b : TileSlot) (long half : Bool) (elems : Nat) : Nat × Nat :=
  let r := (List.range 128).flatMap fun m =>
    let row := rowOfA a m
    (List.range 64).map fun n =>
      let ps := row.map fun x => (x.2, tileB b long half x.1 n)
      let c := bitsAt elems (32 * (64 * m + n)) 32
      if int then (stepInt c ps, 0) else stepFloat c ps
  (packBits 32 (r.map Prod.fst), r.foldl (fun f x => f ||| x.2) 0)

/-- The formats of a step pair under R277: whether the accumulator is INT32. -/
def pairing (fa fb : Nat) : Option Bool :=
  if fa == fb && (fa == 11 || fa == 12 || fa == 17) then some false
  else if (fa == 13 || fa == 14) && (fb == 13 || fb == 14) then some false
  else if (fa == 1 || fa == 2) && (fb == 1 || fb == 2) then some true
  else none

/-! ### Flags and the hart's MSTAT (R294, R313) -/

/-- A hart's MSTAT gains bits, and MSET the set of the accumulator (R313). -/
def raiseMstat (who : HartId) (bits : Nat) (p : PvSet) (s : State) : State :=
  if bits == 0 then s
  else
    let h := s.hartAt who
    s.setHart { h with mstat := h.mstat ||| BitVec.ofNat 9 bits, mset := h.mset ||| p }

/-! ### Drains (R288-R293) -/

/-- An accumulator cleared after its drain: zero elements, count 0, no set (R288). -/
def Accum.cleared (a : Accum) : Accum := { a with elems := 0, count := 0, pv := pvEmpty, drain := none }

/-- An element converted for the drain, with flags (R289). -/
def drainElem (c : AccConf) (x : Nat) : Nat × Nat :=
  if c.int || c.cf == 10 then (x, 0)
  else match fmtOf c.cf with
    | some f => f.round ⟨0, 0, c.sat⟩ (fp32.decode x)
    | none => (x, 0)

/-- The elements of an accumulator converted, with flags. -/
def drainElems (c : AccConf) (n elems : Nat) : List Nat × Nat :=
  let r := (List.range n).map fun i =>
    let x := bitsAt elems (32 * i) 32
    let y := drainElem c x
    (y.1, if fp32.isSig x && !c.int && c.cf != 10 then y.2 ||| flagNV else y.2)
  (r.map Prod.fst, r.foldl (fun f x => f ||| x.2) 0)

/-- Bytes of an element that a drain writes. -/
def AccConf.bytes (c : AccConf) : Nat := if c.int || c.cf == 10 then 4 else if c.cf == 11 || c.cf == 12 then 2 else 1

/-- How a drain ends: done with flags of MSTAT, failed, or to be tried again. -/
inductive DrainEnd where
  | done (flags : Nat) (s : State)
  | fail
  | wait

/-- The step in the array reads a slot. -/
def Island.stepReads (i : Island) (q : BitVec 5) : Bool :=
  match i.step.bind MqItem.instr with
  | some j => match stepForm j with | some (f, _, _) => f.slotA == q || f.slotB == q | none => false
  | none => false

/-- The step in the array is into an accumulator. -/
def Island.stepInto (i : Island) (a : BitVec 3) : Bool :=
  match i.step.bind MqItem.instr with
  | some j => match stepForm j with | some (f, _, _) => f.acc == a | none => false
  | none => false

/-- A fill of a slot has begun and not ended. -/
def Island.filling (i : Island) (q : BitVec 5) : Bool := i.fills.any fun x => x.fillSlot == some q

/-- A drain into a tile slot (R289, R292), once no step that has begun reads it and no fill writes it (R286). -/
def drainTile (a : Accum) (c : AccConf) (ctx : PvSet) (s : State) : DrainEnd :=
  let t := s.isl.slot c.reg
  let q := BitVec.ofNat 5 c.reg
  if s.isl.stepReads q || s.isl.filling q then .wait
  else if !t.live || t.asid != a.asid then .fail
  else
    let (l, fl) := drainElems c 8192 a.elems
    let h := t.hdr
    let fill := 2 ^ c.half.toNat ||| (if tileKind h == 4 then bitsAt h 16 2 else 0)
    let h' := setBitsAt (setBitsAt h 0 16 (4 + 256 * c.cf)) 16 8 fill
    let t' := { t with hdr := clearDropped h', pv := t.pv ||| a.pv ||| ctx,
                       mem := putBits t.mem (if c.half then 8 * 16384 else 0) (8 * c.bytes) l }
    .done fl (s.mapIsl (·.setSlot t'))

/-- The parts of a range of bytes that lie in one page each: address and length. -/
def pageParts : Nat → Word → Nat → List (Word × Nat)
  | 0, _, _ => []
  | n + 1, va, len =>
    if len == 0 then []
    else
      let k := min len (65536 - va.toNat % 65536)
      (va, k) :: pageParts n (va + BitVec.ofNat 64 k) (len - k)

/-- The pages of a drain's rows, translated and checked in order (R291). -/
def drainPages (x : MqItem) (p : PvSet) : List (Word × Nat) → State → Except Bool (List Nat × State)
  | [], s => .ok ([], s)
  | (va, _) :: l, s =>
    match xlatWith .unit x.ptroot x.mode va .write s with
    | .error _ => .error false
    | .ok (pa, e, t) =>
      if t.frameBusy pa then .error true
      else if (t.deadFrame pa).isSome || (writeCheck va pa p 6 t).isSome then .error false
      else
        match drainPages x p l (recordTide pa e t) with
        | .error b => .error b
        | .ok (r, t) => .ok (pa :: r, t)

/-- A drain into memory, row by row (R289, R291, R292), as stores of the hart that set it off (R337). -/
def drainMem (a : Accum) (c : AccConf) (x : MqItem) (s : State) : DrainEnd :=
  let p := a.pv ||| x.ctx
  let n := 64 * c.bytes
  let parts := (List.range 128).flatMap fun m => pageParts 2 (c.addr + BitVec.ofNat 64 m * c.pitch) n
  match drainPages x p parts s with
  | .error true => .wait
  | .error false => .fail
  | .ok (pas, s) =>
    let (l, fl) := drainElems c 8192 a.elems
    let bytes := toLeBytes (8192 * c.bytes) (packBits (8 * c.bytes) l)
    let r := (pas.zip parts).foldl (fun (r : List Byte × State) y =>
      (r.1.drop y.2.2, storePa y.1 (r.1.take y.2.2) p r.2)) (bytes, s)
    .done fl r.2

/-- A drain into the owner's vector registers (R290), with the context set of the owner at the instruction that set it off, once the
owner's earlier vector items have read and written the group. -/
def drainVec (a : Accum) (c : AccConf) (x : MqItem) (s : State) : DrainEnd :=
  let o := s.hartAt c.owner
  let ctx := if x.who == c.owner then x.ctx else o.ctx
  let t := (o.vreg c.reg).tag
  let grp := (List.range t.count).all fun j => (o.vreg (c.reg + j)).tag == t
  if s.queueTouches c.owner x.seq (groupIds c.reg t.count) then .wait
  else if t.code != c.cf || c.reg % t.count != 0 || !grp then .fail
  else
    let cap := capacity t.width t.count s.core.level
    let n := min 8192 cap
    let (l, fl) := drainElems c n a.elems
    let img := putBits (o.groupImg s.core.level c.reg t.count) 0 t.width l
    .done (fl ||| (if cap < 8192 then 128 else 0)) (s.setHart (o.putGroup s.core.level t (a.pv ||| ctx) c.reg img t.count))

/-- The drain of an accumulator to its target, as the hart that set it off acts (R291, R337). -/
def drainTo (a : Accum) (c : AccConf) (x : MqItem) (s : State) : DrainEnd :=
  match c.tgt with
  | 0 => drainTile a c x.ctx s
  | 1 => drainMem a c x s
  | 2 => .wait
  | _ => drainVec a c x s

/-- The oldest pending drain proceeds (R288, R291, R312); a drain to the reef stays until an XOP takes it, and one whose hart, or whose
owner, has been saved stays pending and is offered again after the restore (R418). -/
def runDrain (s : State) : State :=
  match s.isl.drains with
  | [] => s
  | n :: rest =>
    let a := s.isl.acc n
    match a.conf, a.drain with
    | some c, some x =>
      if s.isSaved x.who || (c.tgt == 3 && s.isSaved c.owner) then s
      else asHart x.who (fun s =>
        match drainTo a c x s with
        | .wait => s
        | .fail => raiseMstat x.who 256 a.pv (s.mapIsl fun i => { i.setAcc { a with drain := none } with drains := rest })
        | .done fl t =>
          raiseMstat x.who fl a.pv (t.mapIsl fun i => { i.setAcc { a.cleared with writing := c.tgt == 1 } with drains := rest })) s
    | _, _ => s.mapIsl fun i => { i with drains := rest }

/-- A drain is set off (R288, R311, R312). -/
def Island.startDrain (n : Nat) (x : MqItem) (i : Island) : Island :=
  { i.setAcc { i.acc n with drain := some x } with drains := i.drains ++ [n] }

/-! ### Island order (R285, R286, R297-R300) -/

/-- The refusal of a step at the head of island order (R297, R310). -/
def stepRefusal (i : Island) (x : MqItem) (f : TFmt) (kindA : Nat) (long : Bool) : Option Nat :=
  let a := i.slot f.slotA.toNat
  let b := i.slot f.slotB.toNat
  let c := i.acc f.acc.toNat
  let kindB := if long then 5 else 4
  let pr := pairing (tileFmt a.hdr) (tileFmt b.hdr)
  if f.slotA == f.slotB || !a.live || !b.live || tileKind a.hdr != kindA || !tileFill a.hdr 0 || tileKind b.hdr != kindB
      || !tileFill b.hdr (if f.h && !long then 1 else 0) || pr.isNone then some 3
  else
    match c.conf with
    | none => some 4
    | some k =>
      if some k.int != pr then some 4
      else if k.tgt == 3 && k.owner != x.who then some 5 else none

/-- The refusal of the item at the head of island order (R297). -/
def headRefusal (x : MqItem) (s : State) : Option Nat :=
  let i := s.isl
  match x.instr with
  | some (.mma f) => stepRefusal i x f 1 false
  | some (.mman f) => stepRefusal i x f 2 true
  | some (.mmab f) => stepRefusal i x f 3 false
  | some (.mdrain f) => if (i.acc f.acc.toNat).conf.isNone then some 4 else none
  | some (.mfill _) => if hdrOk x.hdr then none else some 6
  | some (.mhdr f) =>
    let h := (i.slot f.slotA.toNat).hdr
    let k := tileKind h
    let a := f.imm.extractLsb' 0 2 == 0
    if !isBanded (tileFmt h) || (if a then k == 0 || 3 < k else k != 4 && k != 5) then some 3 else none
  | _ => none

/-- A refused item (R298): the hart's items that have not begun are discarded, and it takes the matrix trap at its next
instruction boundary, after a trap that already waits for it. -/
def refuse (x : MqItem) (reason : Nat) (s : State) : State :=
  let s := s.mapIsl fun i => { i with order := i.order.filter fun y => y.who != x.who }
  let h := s.hartAt x.who
  s.setHart { h with mq := [], event := true, deferred := h.deferred ++ [⟨18, x.at_ ||| BitVec.ofNat 64 reason, reason, 0⟩] }

/-- A pending drain writes a slot. -/
def Island.drainInto (i : Island) (q : BitVec 5) : Bool :=
  i.accs.any fun a => a.drain.isSome && (match a.conf with | some c => c.tgt == 0 && c.reg == q.toNat | none => false)

/-- An accumulator is free for the next instruction on it (R286). -/
def Island.accIdle (i : Island) (a : BitVec 3) : Bool := !i.stepInto a && (i.acc a.toNat).drain.isNone

/-- The item at the head may begin (R286, R300, R306, R309, R312). -/
def headReady (x : MqItem) (i : Island) : Bool :=
  match x.instr with
  | some j =>
    match stepForm j with
    | some (f, _, _) =>
      i.step.isNone && !i.filling f.slotA && !i.filling f.slotB && !i.drainInto f.slotA && !i.drainInto f.slotB && i.accIdle f.acc
    | none =>
      match j with
      | .macinit f | .mzero f => i.accIdle f.acc
      | .mdrain f => i.step.isNone && i.accIdle f.acc
      | .mload f | .mfill f => !i.stepReads f.slotA && !i.filling f.slotA && !i.drainInto f.slotA
      | .mhdr f => !i.stepReads f.slotA && !i.drainInto f.slotA
      | .mclaim f | .mrels f =>
        if f.imm.getLsbD 1 then i.accIdle f.acc
        else !i.stepReads f.slotA && !i.filling f.slotA && !i.drainInto f.slotA
      | _ => true
  | none => true

/-- An instruction of the reef or of a channel, which may wait for what later words of its hart do. -/
def waitsOutside : Instr → Bool
  | .xop _ | .chsend _ | .chrecv _ => true
  | _ => false

/-- The context set of a matrix word is known (R292): no vector memory form that the hart posted before it, and that no XOP, CHSEND or
CHRECV stands before, is still to add to it. What an item adds later reaches the word wherever it stands (`leaveItem`; log entry 71). -/
def State.ctxKnown (s : State) (who : HartId) (n : Nat) : Bool :=
  let l := (s.hartAt who).queue.filter fun it => decide (it.seq < n)
  (l.takeWhile fun it => !it.instrs.any waitsOutside).all fun it => it.instrs.all fun i =>
    match i.code with | some (_, _, .vm _) => false | _ => true

/-- A vector-queue item that every later access of its hart follows stands before number `n` in the hart's order of posting: an opcode with
M nodes or channel ports, or CHRECV (R231, R262). -/
def State.fenceBefore (s : State) (who : HartId) (n : Nat) : Bool :=
  (s.hartAt who).queue.any fun it => decide (it.seq < n) && it.instrs.any fun i =>
    match i with | .xop f => isFence f (focus who s) | .chrecv _ => true | _ => false

/-- A hart's queue head may enter island order: its context set is known, a fill comes after the accesses of the vector items posted
before it, and what may set off a memory drain after those that later accesses follow (R231, R262, R292, R293; log entry 71). -/
def State.mayAdmit (s : State) (x : MqItem) : Bool :=
  s.ctxKnown x.who x.seq && (x.fillSlot.isNone || s.performedTo x.who x.seq) &&
    !(x.intoAcc.any s.isl.toMemory && s.fenceBefore x.who x.seq)

/-- The configuration that MACINIT installs (R307-R309). -/
def confOf (f : TFmt) (x : MqItem) : AccConf :=
  { int := f.imm.getLsbD 2, cf := fp6 (f.imm.toNat / 16 % 32), sat := f.imm.getLsbD 9, k := f.imm.toNat / 1024,
    tgt := f.imm.toNat % 4, reg := f.slotB.toNat, half := f.h, addr := x.a, pitch := x.b, owner := x.who }

/-- The header that MLOAD installs when it begins (R303). -/
def mloadHdr (old : Nat) (f : TFmt) : Nat :=
  let kind := f.imm.toNat % 8
  let fmt := fp6 (f.imm.toNat / 8 % 32)
  let same := tileKind old == kind && tileFmt old == fmt
  let fill := if kind == 4 then 2 ^ f.h.toNat ||| (if same then bitsAt old 16 2 else 0) else 1
  let h := setBitsAt old 0 64 (kind + 256 * fmt + 65536 * fill + 2 ^ 24 * (f.imm.toNat / 256 % 4))
  if same then h else setBands h (if isBanded fmt then 0x3F80 else 0)

/-- MHDR's write of a band field (R306). -/
def mhdrPut (old : Nat) (f : TFmt) (a : Word) : Nat :=
  match f.imm.toNat % 4 with
  | 0 => setBitsAt old 64 32 a.toNat
  | 1 => setBitsAt old 128 64 a.toNat
  | _ => setBitsAt old 192 64 a.toNat

/-- The item at the head begins (R286-R309): steps enter the array, fills install their header, the rest take effect. -/
def beginItem (x : MqItem) (s : State) : State :=
  match x.instr with
  | some (.mma _) | some (.mman _) | some (.mmab _) => s.mapIsl fun i => { i with step := some x }
  | some (.macinit f) =>
    s.mapIsl fun i => i.setAcc { i.acc f.acc.toNat with conf := some (confOf f x), count := 0 }
  | some (.mdrain f) => s.mapIsl (Island.startDrain f.acc.toNat x)
  | some (.mzero f) => s.mapIsl fun i => i.setAcc (i.acc f.acc.toNat).cleared
  | some (.mclaim f) =>
    s.mapIsl fun i =>
      let asid := asidOf x.ptroot
      if f.imm.getLsbD 1 then i.setAcc ⟨f.acc.toNat, true, asid, 0, 0, none, pvEmpty, none, false⟩
      else i.setSlot ⟨f.slotA.toNat, true, asid, f.imm.getLsbD 0, 0, 0, 0, pvEmpty⟩
  | some (.mrels f) =>
    s.mapIsl fun i =>
      if f.imm.getLsbD 1 then { i with accs := eraseBy Accum.num f.acc.toNat i.accs }
      else { i with slots := eraseBy TileSlot.num f.slotA.toNat i.slots }
  | some (.mload f) =>
    s.mapIsl fun i =>
      let t := i.slot f.slotA.toNat
      { (if t.live then i.setSlot { t with hdr := mloadHdr t.hdr f } else i) with fills := i.fills ++ [x] }
  | some (.mfill f) =>
    s.mapIsl fun i =>
      let t := i.slot f.slotA.toNat
      { (if t.live then i.setSlot { t with hdr := clearDropped x.hdr } else i) with fills := i.fills ++ [x] }
  | some (.mhdr f) =>
    s.mapIsl fun i =>
      let t := i.slot f.slotA.toNat
      if t.live then i.setSlot { t with hdr := mhdrPut t.hdr f x.a, pv := t.pv ||| x.pa ||| x.ctx } else i
  | _ => s

/-- Whether a later item may begin while an earlier one waits in island order (R286): they do not clash, and the earlier one, where
it is of the same hart, is one that will not be refused (R298). -/
def mayPass (s : State) (x y : MqItem) : Bool :=
  !x.clashes s.isl y &&
    (x.who != y.who || ((headRefusal x s).isNone && (x.slots s.isl).all fun q => !s.isl.drainInto (BitVec.ofNat 5 q)))

/-- The first item of island order that may begin past those that wait before it (R286). -/
def passing (s : State) : List MqItem → List MqItem → Option MqItem
  | _, [] => none
  | before, y :: l =>
    if headReady y s.isl && (headRefusal y s).isNone && before.all (fun x => mayPass s x y) then some y
    else passing s (before ++ [y]) l

/-- The head of island order is refused or begins; while it waits, work that shares nothing with it proceeds (R286). Nothing begins on a core
whose step has failed its residue check twice (R482). -/
def runHead (s : State) : State :=
  if s.core.failing then s
  else
  match s.isl.order with
  | [] => s
  | x :: rest =>
    if headReady x s.isl then
      match headRefusal x s with
      | some r => refuse x r s
      | none => beginItem x (s.mapIsl fun i => { i with order := rest })
    else
      match passing s [x] rest with
      | some y => beginItem y (s.mapIsl fun i => { i with order := i.order.erase y })
      | none => s

/-- The hart whose queue head enters island order next (R285): one whose head may. -/
def State.nextMq (s : State) : Option HartId :=
  ((List.range 8).map fun k => (s.isl.ptr + k) % 8).findSome? fun n =>
    let h := s.hartAt ⟨s.core.num, n⟩
    if h.heldBy.isNone && (h.mq.head?.any s.mayAdmit) then some ⟨s.core.num, n⟩ else none

/-- ISLAND_ORDER_ADMIT on the current core (R285): one hart's queue head enters island order. -/
def admitted (s : State) : State :=
  match s.nextMq with
  | none => s
  | some w =>
    let h := s.hartAt w
    match h.mq with
    | [] => s
    | x :: q =>
      (s.setHart { h with mq := q }).mapIsl fun i => { i with order := i.order ++ [x], ptr := (w.hart + 1) % 8 }

/-- The array's step completes (R287, R311). -/
def finishStep (s : State) : State :=
  match s.isl.step with
  | none => s
  | some x =>
    let s := s.mapIsl fun i => { i with step := none }
    match x.instr.bind stepForm with
    | none => s
    | some (f, _, long) =>
      let i := s.isl
      let a := i.slot f.slotA.toNat
      let b := i.slot f.slotB.toNat
      let c := i.acc f.acc.toNat
      let int := match c.conf with | some k => k.int | none => false
      let (elems, fl) := stepAll int a b long f.h c.elems
      let ovf := tileKind a.hdr == 3 && !tileDensed a.hdr && tileNovf a.hdr != 0
      let p := c.pv ||| a.pv ||| b.pv ||| x.ctx
      let c := { c with elems := elems, pv := p, count := c.count + 1 }
      let s := s.mapIsl (·.setAcc c)
      let s := raiseMstat x.who (fl ||| (if ovf then 64 else 0)) p s
      match c.conf with
      | some k => if k.k <= c.count then s.mapIsl (Island.startDrain f.acc.toNat x) else s
      | none => s

/-! ### Fills (R301-R305) -/

/-- The rows and the bytes of a row that MLOAD reads (R302): kind and format. -/
def mloadRows (kind fmt : Nat) : Nat := if kind == 4 then logicalK fmt else if kind == 5 then 2 * logicalK fmt else 128

/-- The byte runs of row `r` that MLOAD reads: offset and length (R302). -/
def mloadRuns (kind fmt r : Nat) : List (Nat × Nat) :=
  if kind == 1 || kind == 3 then
    (if fmt == 17 then [(0, 192)] else [(0, 256)])
  else if fmt == 17 then (if r % 8 == 0 then [(0, 160)] else [(0, 32)])
  else if fmt == 11 || fmt == 12 then [(0, 128)] else [(0, 64)]

/-- The addresses that an MLOAD touches, row by row. -/
def mloadParts (kind fmt : Nat) (a b : Word) : List (Word × Nat) :=
  (List.range (mloadRows kind fmt)).flatMap fun r =>
    (mloadRuns kind fmt r).flatMap fun x => pageParts 2 (a + BitVec.ofNat 64 r * b + BitVec.ofNat 64 x.1) x.2

/-- The bytes at translated places, as they stand, in order. -/
def partsBytes (l : List (Nat × Nat)) (s : State) : Array Byte :=
  (l.flatMap fun x => (List.range x.2).map fun i => s.homeByte (x.1 + i)).toArray

/-- Bytes of a row in the stream of MLOAD's bytes: where row `r` starts. -/
def rowStart (kind fmt r : Nat) : Nat :=
  if (kind == 4 || kind == 5) && fmt == 17 then 32 * r + 128 * ((r + 7) / 8)
  else match mloadRuns kind fmt r with | x :: _ => r * x.2 | [] => 0

/-- The code of the matrix element at row `r`, place `j` of its row. -/
def elemAt (kind fmt : Nat) (a : Array Byte) (r j : Nat) : Nat :=
  let o := rowStart kind fmt r
  let byte (i : Nat) : Nat := (a[o + i]?.getD 0).toNat
  if fmt == 17 then bitsAt (byte (j / 2)) (4 * (j % 2)) 4
  else if fmt == 11 || fmt == 12 then byte (2 * j) + 256 * byte (2 * j + 1) else byte j

/-- The container after a row's elements: `j`-th of row `r` (R302), bits 15:9 zero (R171). -/
def scaleAt (kind fmt : Nat) (a : Array Byte) (r j : Nat) : Nat :=
  let o := rowStart kind fmt r + (if kind == 1 || kind == 3 then 128 else 32) + 2 * j
  ((a[o]?.getD 0).toNat + 256 * (a[o + 1]?.getD 0).toNat) % 512

/-- Code of a zero element (R303). -/
def isZeroCode (fmt code : Nat) : Bool :=
  if fmt == 1 || fmt == 2 then code == 0 else code % 2 ^ (tileW fmt - 1) == 0

/-- A dense A layout of the loaded matrix (R278, R303). -/
def layDense (fmt : Nat) (kind : Nat) (a : Array Byte) (mem : Nat) : Nat :=
  let w := tileW fmt
  let k := logicalK fmt
  let mem := if fmt == 17 then
      putBits mem (8 * 16384) 16 ((List.range 32).flatMap fun b => (List.range 128).map fun m => scaleAt kind fmt a m b) else mem
  putBits mem 0 w ((List.range k).flatMap fun k => (List.range 128).map fun m => elemAt kind fmt a m k)

/-- A B layout of the loaded matrix (R279, R303). -/
def layB (fmt kind : Nat) (half : Bool) (a : Array Byte) (mem : Nat) : Nat :=
  let w := tileW fmt
  let base := if half then 16384 else 0
  let k := mloadRows kind fmt
  let mem := if fmt == 17 then
      putBits mem (8 * (if kind == 5 then 16384 else base + 8192)) 16
        ((List.range (k / 8)).flatMap fun b => (List.range 64).map fun n => scaleAt kind fmt a (8 * b) n)
    else mem
  putBits mem (8 * base) w ((List.range k).flatMap fun k => (List.range 64).map fun n => elemAt kind fmt a k n)

/-- A bitmap layout (R282, R283): the memory, NOVF and whether the tile was stored dense. -/
def layBitmap (fmt d : Nat) (a : Array Byte) (mem : Nat) : Nat × Nat × Bool :=
  let w := tileW fmt
  let ng := logicalK fmt / 64
  let groups := (List.range 128).flatMap fun m => (List.range ng).map fun g => (m, g)
  let stored (m g : Nat) : List Nat := (List.range 64).filter fun i => !isZeroCode fmt (elemAt 3 fmt a m (64 * g + i))
  let ovs := groups.filter fun x => d < (stored x.1 x.2).length
  if 64 < ovs.length then (layDense fmt 3 a mem, 0, true)
  else
    let mem := if fmt == 17 then
        putBits mem (8 * 8192) 16 ((List.range 32).flatMap fun b => (List.range 128).map fun m => scaleAt 3 fmt a m b) else mem
    let mem := putBits mem 0 w ((List.range (ng * d)).flatMap fun j => (List.range 128).map fun m =>
      match (stored m (j / d))[j % d]? with
      | some i => elemAt 3 fmt a m (64 * (j / d) + i)
      | none => 0)
    let mem := putBits mem (8 * 16384) 64 (groups.map fun x => (stored x.1 x.2).foldl (fun b i => b + 2 ^ i) 0)
    let mem := (ovs.zip (List.range 64)).foldl (fun mem y =>
      let ((m, g), e) := y
      let mem := setBitsAt mem (8 * (20480 + 4 * e)) 32 (m + 256 * g)
      putBits mem (8 * 20736 + 64 * w * e) w ((stored m g).drop d |>.map fun i => elemAt 3 fmt a m (64 * g + i))) mem
    (mem, ovs.length, false)

/-- The union of the current sets of the pages that a fill read. -/
def partsPv (l : List (Nat × Nat)) (s : State) : PvSet := l.foldl (fun p x => p ||| s.curAt x.1) pvEmpty

/-- The regions of E2M1 block scales in a slot with a header: first byte and containers (R278, R279, R282). -/
def scaleRegions (h : Nat) : List (Nat × Nat) :=
  if tileFmt h != 17 then []
  else
    let k := tileKind h
    if k == 4 then [(8192, 2048), (24576, 2048)]
    else if k == 3 && !tileDensed h then [(8192, 4096)]
    else [(16384, 4096)]

/-- Operand memory with bits 15:9 of every block-scale container zero (R171, R279). -/
def maskScales (h mem : Nat) : Nat :=
  (scaleRegions h).foldl (fun m x => m - (m &&& packBits 16 (List.replicate x.2 0xFE00) <<< (8 * x.1))) mem

/-- FILL_DATA_WRITE on the current core (R303-R305): the oldest fill writes its data and its tag completes. -/
def finishFill (s : State) : State :=
  match s.isl.fills with
  | [] => s
  | x :: rest =>
    let s := s.mapIsl fun i => { i with fills := rest }
    match x.instr with
    | some (.mload f) =>
      let t := s.isl.slot f.slotA.toNat
      if !t.live then s
      else
        let kind := f.imm.toNat % 8
        let fmt := fp6 (f.imm.toNat / 8 % 32)
        let a := partsBytes x.pages s
        let t := { t with pv := t.pv ||| partsPv x.pages s ||| x.ctx }
        if kind == 3 then
          let (mem, novf, densed) := layBitmap fmt (if f.imm.toNat / 256 % 4 == 1 then 16 else 32) a t.mem
          let h := setBitsAt (setBitsAt t.hdr 32 16 novf) 27 1 densed.toNat
          let s := s.mapIsl (·.setSlot { t with mem := mem, hdr := h })
          if densed then raiseMstat x.who 32 t.pv s else s
        else s.mapIsl (·.setSlot { t with mem := if kind == 1 then layDense fmt 1 a t.mem else layB fmt kind f.h a t.mem })
    | some (.mfill f) =>
      let t := s.isl.slot f.slotA.toNat
      if !t.live then s
      else
        let l := x.pages.drop 1
        let b := (partsBytes l s).toList
        let t := { t with pv := t.pv ||| partsPv x.pages s ||| x.ctx, mem := maskScales t.hdr (leBytes (b.take 32768)) }
        s.mapIsl (·.setSlot (if tileKind t.hdr == 2 then { t with idx := leBytes (b.drop 32768 |>.take 2048) } else t))
    | _ => s

/-- A begun fill is due, or the whole island of the current core advances one clk. -/
def islandClk (s : State) : State :=
  let s := s.mapIsl fun i => { i with accs := i.accs.map fun a => { a with writing := false } }
  let s := runDrain s
  let s := finishStep s
  let s := finishFill s
  let s := runHead s
  admitted s

/-! ### The island's steps as arrivals -/

/-- ISLAND_ORDER_ADMIT (R285, R297, R298): one queue head enters island order; at the head of the order it is checked. -/
def execIslandOrderAdmit (core : Nat) (s : State) : Out :=
  .next (onCore core (fun s =>
    let t := admitted s
    match t.isl.order with
    | [x] => (match headRefusal x t with | some r => if headReady x t.isl then refuse x r t else t | none => t)
    | _ => t) s)
/-- MATRIX_STEP_BEGIN (R286): the head of island order begins when its rule lets it. -/
def execMatrixStepBegin (core : Nat) (s : State) : Out := .next (onCore core runHead s)
/-- STEP_RESULT (R287, R311). -/
def execStepResult (core : Nat) (s : State) : Out := .next (onCore core finishStep s)
/-- ACCUMULATOR_DRAIN (R289-R292). -/
def execAccumulatorDrain (core : Nat) (s : State) : Out := .next (onCore core runDrain s)
/-- DRAIN_WRITES_PERFORMED (R293). -/
def execDrainWritesPerformed (core acc : Nat) (s : State) : Out :=
  .next (onCore core (fun s => s.mapIsl fun i =>
    { i with accs := i.accs.map fun a => if a.num == acc then { a with writing := false } else a }) s)
/-- FILL_DATA_WRITE (R303-R305). -/
def execFillDataWrite (core : Nat) (s : State) : Out := .next (onCore core finishFill s)

/-! ### The forms (R295-R313) -/

/-- The matrix trap at commit (R296-R298). -/
def matrixTrap (reason : Nat) (s : State) : State :=
  scalarTrap ⟨18, s.hart.pc ||| BitVec.ofNat 64 reason, reason, 0⟩ s

/-- A slot or accumulator is claimed by the process of the current hart (R297). -/
def State.claims (s : State) (n : Nat) : Bool :=
  match s.isl.claimOf n with | some c => c.asid == asidOf s.hart.csr.ptroot | none => false

/-- Posts a word to the matrix queue (R285), or waits while it is full. -/
def postMatrix (i : Instr) (a b : Word) (p : PvSet) (pages : List (Nat × Nat)) (hdr : Nat) (s : State) : State :=
  if 64 <= s.hart.mq.length then waitFor .queue s
  else
    let x : MqItem := ⟨s.hart.id, s.hart.pc, encode i, a, b, p, s.ctx, s.hart.csr.ptroot, s.hart.mode, pages, hdr, s.jobSeq⟩
    retire (({ s with jobSeq := s.jobSeq + 1 } : State).mapHart fun h => { h with mq := h.mq ++ [x] })

/-- Posts a word whose named slots and accumulators are claimed (R296, R297). -/
def postClaimed (i : Instr) (names : List Nat) (s : State) : State :=
  if names.all s.claims then postMatrix i 0 0 pvEmpty [] 0 s else matrixTrap 2 s

/-- MMA (R295-R297, R310, R311). -/
def execMma (f : TFmt) (s : State) : Out :=
  .next (gated (.mma f) (postClaimed (.mma f) [32 + f.acc.toNat, f.slotA.toNat, f.slotB.toNat]) s)
/-- MMAN (R295-R297, R310, R311). -/
def execMman (f : TFmt) (s : State) : Out :=
  .next (gated (.mman f) (postClaimed (.mman f) [32 + f.acc.toNat, f.slotA.toNat, f.slotB.toNat]) s)
/-- MMAB (R295-R297, R310, R311). -/
def execMmab (f : TFmt) (s : State) : Out :=
  .next (gated (.mmab f) (postClaimed (.mmab f) [32 + f.acc.toNat, f.slotA.toNat, f.slotB.toNat]) s)
/-- MDRAIN (R312). -/
def execMdrain (f : TFmt) (s : State) : Out :=
  .next (gated (.mdrain f) (postClaimed (.mdrain f) [32 + f.acc.toNat]) s)
/-- MZERO (R312). -/
def execMzero (f : TFmt) (s : State) : Out :=
  .next (gated (.mzero f) (postClaimed (.mzero f) [32 + f.acc.toNat]) s)

/-- The FP6 substitution of a format field sets FSUB (R54). -/
def isFp6 (t : Nat) : Bool := t == 15 || t == 16

/-- MACINIT (R307-R309). -/
def execMacinit (f : TFmt) (s : State) : Out :=
  .next (gated (.macinit f) (fun s =>
    let c := f.imm.toNat / 16 % 32
    let a := s.getS f.sa
    let b := s.getS f.sb
    let sz := if f.imm.getLsbD 2 || c == 10 then 4 else 2
    if !s.claims (32 + f.acc.toNat) then matrixTrap 2 s
    else if f.imm.toNat % 4 == 1 && (a.toNat % sz != 0 || b.toNat % sz != 0) then scalarTrap ⟨7, a, 0, 3⟩ s
    else if 64 <= s.hart.mq.length then waitFor .queue s
    else
      let t := (setFsub (isFp6 c) s).addCtx (s.getP f.sa ||| s.getP f.sb)
      postMatrix (.macinit f) a b pvEmpty [] 0 t) s)

/-- MHDR (R306). -/
def execMhdr (f : TFmt) (s : State) : Out :=
  .next (gated (.mhdr f) (fun s =>
    if !s.claims f.slotA.toNat then matrixTrap 2 s
    else postMatrix (.mhdr f) (s.getS f.sa) 0 (s.getP f.sa) [] 0 s) s)

/-- The accumulator that a step, MACINIT, MDRAIN or MZERO names (R429). -/
def MqItem.worksOn (x : MqItem) : Option Nat :=
  match x.instr with
  | some (.macinit f) | some (.mzero f) => some f.acc.toNat
  | _ => x.intoAcc

/-- The word of MSTAT of the current hart (R294, R429). -/
def State.mstatWord (s : State) : Word :=
  let i := s.isl
  let posted := s.allHarts.foldl (fun l h => if h.core == s.core.num then l ++ h.mq else l) i.order
  let busy (n : Nat) : Bool :=
    i.stepInto (BitVec.ofNat 3 n) || (i.acc n).drain.isSome || (i.acc n).writing || posted.any fun x => x.worksOn == some n
  BitVec.ofNat 64 ((List.range 8).foldl (fun b n => if busy n then b + 2 ^ (16 + n) else b) 0
    + 512 * s.hart.mq.length + s.hart.mstat.toNat)

/-- MSTAT (R313). -/
def execMstat (f : TFmt) (s : State) : Out :=
  .next (gated (.mstat f) (fun s =>
    let v := s.mstatWord
    let p := s.hart.mset ||| s.getP f.sb ||| s.ctx
    let b := s.getS f.sb
    let t := s.mapHart fun h =>
      let m := h.mstat &&& ~~~ (b.extractLsb' 0 9)
      { h with mstat := m, mset := if m == 0 then pvEmpty else h.mset }
    retire (t.setS f.sa v p)) s)

/-- The limits of the task record on a process's claims (R297, R395); a core without a task has none but the island's. -/
def State.claimLimit (s : State) (acc : Bool) : Nat :=
  match s.core.task.bind fun n => findBy Task.num n s.tasks with
  | some t => if acc then t.accs else t.tiles
  | none => if acc then 8 else 32

/-- MCLAIM (R273, R299). -/
def execMclaim (f : TFmt) (s : State) : Out :=
  .next (gated (.mclaim f) (fun s =>
    let acc := f.imm.getLsbD 1
    let n := if acc then 32 + f.acc.toNat else f.slotA.toNat
    let asid := asidOf s.hart.csr.ptroot
    let mine := (s.isl.claims.filter fun c => c.asid == asid && (decide (32 <= c.num) == acc)).length
    if (s.isl.claimOf n).isSome || s.claimLimit acc <= mine then matrixTrap 1 s
    else if 64 <= s.hart.mq.length then waitFor .queue s
    else
      let t := s.mapIsl fun i => { i with claims := putBy Claim.num ⟨n, asid, f.imm.getLsbD 0⟩ i.claims }
      postMatrix (.mclaim f) 0 0 pvEmpty [] 0 t) s)

/-- MRELS (R300). -/
def execMrels (f : TFmt) (s : State) : Out :=
  .next (gated (.mrels f) (fun s =>
    let n := if f.imm.getLsbD 1 then 32 + f.acc.toNat else f.slotA.toNat
    if !s.claims n then matrixTrap 2 s
    else if 64 <= s.hart.mq.length then waitFor .queue s
    else
      let t := s.mapIsl fun i => { i with claims := eraseBy Claim.num n i.claims }
      postMatrix (.mrels f) 0 0 pvEmpty [] 0 t) s)

/-- The pages of a fill, translated at commit (R302, R304). -/
def fillPages : List (Word × Nat) → State → Except (Sum TrapRec Wait) (List (Nat × Nat) × State)
  | [], s => .ok ([], s)
  | (va, n) :: l, s =>
    match access va n .read 6 true s with
    | .trap t => .error (.inl t)
    | .wait w => .error (.inr w)
    | .ok pa t =>
      match fillPages l t with
      | .error e => .error e
      | .ok (r, t) => .ok ((pa, n) :: r, t)

/-- Posts a fill (R296, R305); `header` says that the first part is a header, which is read now (R304; log entry 68). -/
def postFill (i : Instr) (f : TFmt) (parts : List (Word × Nat)) (fsub header : Bool) (s : State) : State :=
  match fillPages parts s with
  | .error (.inl t) => scalarTrap t s
  | .error (.inr w) => waitFor w s
  | .ok (l, t) =>
    if 64 <= s.hart.mq.length then waitFor .queue s
    else
      let p := s.getP f.sa ||| s.getP f.sb
      let hdr := match header, l with | true, x :: _ => t.homeNum x.1 64 | _, _ => 0
      postMatrix i (s.getS f.sa) (s.getS f.sb) p l hdr ((setFsub fsub t).addCtx p)

/-- MLOAD (R301-R303, R305). -/
def execMload (f : TFmt) (s : State) : Out :=
  .next (gated (.mload f) (fun s =>
    let raw := f.imm.toNat / 8 % 32
    let fmt := fp6 raw
    let a := s.getS f.sa
    let b := s.getS f.sb
    if !s.claims f.slotA.toNat then matrixTrap 2 s
    else if (fmt == 11 || fmt == 12 || fmt == 17) && (a.toNat % 2 != 0 || b.toNat % 2 != 0) then scalarTrap ⟨7, a, 0, 6⟩ s
    else postFill (.mload f) f (mloadParts (f.imm.toNat % 8) fmt a b) (isFp6 raw) false s) s)

/-- MFILL (R304, R305): the header's 64 bytes, the 32 KiB image, and for a vector-sparse tile the index area. -/
def execMfill (f : TFmt) (s : State) : Out :=
  .next (gated (.mfill f) (fun s =>
    let a := s.getS f.sa
    let b := s.getS f.sb
    if !s.claims f.slotA.toNat then matrixTrap 2 s
    else if a.toNat % 64 != 0 then scalarTrap ⟨7, a, 0, 6⟩ s
    else if b.toNat % 64 != 0 then scalarTrap ⟨7, b, 0, 6⟩ s
    else
      let kind := match access b 64 .read 6 true s with | .ok pa t => bitsAt (t.homeNum pa 1) 0 8 | _ => 0
      postFill (.mfill f) f ((b, 64) :: pageParts 2 a 32768 ++ (if kind == 2 then pageParts 2 (a + 32768) 2048 else [])) false true s) s)

end Sys2Proof.Machine
end

