-- ==== Sys2Proof/Machine/ReefImage.lean ====
section
/-! DEFINITION. Reef images (R233-R236): reading and validating. -/

namespace Sys2Proof.Machine

/-- A node record of 128 bits (R234). -/
def RNode.of (x : Nat) : RNode :=
  { kind := bitsAt x 0 3, op := bitsAt x 8 8, ty := bitsAt x 32 5, lvl := bitsAt x 40 2, len := x.testBit 42,
    sp := x.testBit 43, sat := x.testBit 44, rnd := bitsAt x 45 3, param := BitVec.ofNat 64 (bitsAt x 64 64) }

/-- The zero fields of a node record hold zero (R234). -/
def nodeZeros (x : Nat) : Bool := bitsAt x 3 5 == 0 && bitsAt x 16 16 == 0 && bitsAt x 37 3 == 0 && bitsAt x 48 16 == 0

/-- An edge record of 64 bits (R235). -/
def REdge.of (x : Nat) : REdge :=
  { ek := bitsAt x 32 8, src := bitsAt x 0 8, srcP := bitsAt x 8 3, dst := bitsAt x 16 8, dstP := bitsAt x 24 3 }

/-- The zero fields of an edge record hold zero (R235). -/
def edgeZeros (x : Nat) : Bool := bitsAt x 11 5 == 0 && bitsAt x 27 5 == 0 && bitsAt x 40 24 == 0

/-- The inputs that an operation reads (a 0, b 1, s 2, x 3, y 4), and those that it may have (R223-R229). -/
def RNode.inputs (n : RNode) : List Nat :=
  match n.kind with
  | 0 =>
    if n.op == 5 then [0, 2] else if n.op == 6 || n.op == 7 || n.op == 25 then [0, 1, 2]
    else if n.op == 4 || (8 <= n.op && n.op <= 24) || (26 <= n.op && n.op <= 28) then [0, 1] else [0]
  | 1 => [0, 1]
  | 2 => [0, 3]
  | 3 => [0]
  | _ => if n.op == 2 then [1] else if n.op == 3 then [0, 1] else [0]

/-- The inputs that an operation has, optional companions included (R226). -/
def RNode.ports (n : RNode) : List Nat := if n.kind == 1 then [0, 1, 3, 4] else n.inputs

/-- The outputs of an operation: c 0, d 1, e 2. -/
def RNode.outputs (n : RNode) : List Nat :=
  match n.kind with
  | 1 => [0, 1, 2]
  | 2 => [0, 1]
  | 4 => if n.op <= 1 then [0] else []
  | _ => [0]

/-- The operation is element-wise (R223, R224, R229). -/
def RNode.elementwise (n : RNode) : Bool :=
  (n.kind == 0 && (n.op == 5 || n.op == 7 || (8 <= n.op && n.op <= 28))) || (n.kind == 4 && n.op == 3)

/-- The operation uses its parameter (R234). -/
def RNode.usesP (n : RNode) : Bool :=
  (n.kind == 0 && (n.op == 1 || n.op == 2 || n.op == 21 || n.op == 28 || n.op == 29)) || n.kind == 3 || n.kind == 4

/-- A type code that VCVT inside the reef takes as source or target (R223). -/
def isReefCvt (t : Nat) : Bool := t == 0 || (5 <= t && t <= 8) || (10 <= t && t <= 12)

/-- A parameter is in its operation's range (R138, R228, R236). -/
def RNode.paramOk (n : RNode) (p : Word) : Bool :=
  match n.kind with
  | 0 =>
    if n.op == 21 then p.toNat % 16 <= 9 else if n.op == 28 then p.toNat % 16 <= 7
    else if n.op == 29 then isReefCvt (p.toNat % 32) else true
  | 3 => 1 <= p.toNat && p.toNat <= 64
  | _ => true

/-- The TYPE of a node is one that its operation accepts (R222, R223, R226-R229). -/
def RNode.typeOk (n : RNode) : Bool :=
  let int := n.ty == 0 || (5 <= n.ty && n.ty <= 8)
  let flt := 10 <= n.ty && n.ty <= 12
  match n.kind with
  | 0 => if n.op <= 7 then n.ty == 0 else if n.op <= 21 then int else if n.op <= 28 then flt else int || flt
  | 1 => int
  | 2 => flt
  | 3 => n.ty == 0
  | _ => 1 <= n.ty && n.ty <= 14

/-- A node record passes code 3 of R236. -/
def RNode.ok (n : RNode) : Bool :=
  let opOk := match n.kind with
    | 0 => n.op <= 29
    | 1 => n.op <= 2
    | 2 => n.op == 0
    | 3 => n.op == 0
    | 4 => n.op <= 3
    | _ => false
  let rounds := (n.kind == 0 && ((22 <= n.op && n.op <= 25) || n.op == 29)) || n.kind == 2
  let sats := n.kind == 0 && ((8 <= n.op && n.op <= 10) || n.op == 29)
  opOk && n.typeOk && n.rnd <= 4 && (rounds || n.rnd == 0) && (sats || !n.sat) && (n.elementwise || !n.len)
    && (n.kind == 2 || n.lvl == 0)
    && (if n.usesP then n.sp || n.paramOk n.param else !n.sp && n.param == 0)

/-- A vector input port's code. -/
def isVi (e : Nat) : Bool := 0x80 <= e && e <= 0x82
/-- A vector output port's code. -/
def isVo (e : Nat) : Bool := e == 0x88 || e == 0x89

/-- An edge record passes code 5 of R236. -/
def REdge.ok (nodes : List RNode) (e : REdge) : Bool :=
  let node (k : Nat) := nodes[k]?
  if e.ek == 1 then
    let endOk (x : Nat) : Bool := if x < 60 then (node x).isSome else isVi x || isVo x || isCh x || x == 0x98
    endOk e.src && endOk e.dst && e.srcP == 0 && e.dstP == 0
  else
    e.ek == 0
      && (if e.src < 60 then (match node e.src with | some n => n.outputs.contains e.srcP | none => false)
          else (isVi e.src || isCh e.src || e.src == 0x98) && e.srcP == 0)
      && (if e.dst < 60 then (match node e.dst with | some n => n.ports.contains e.dstP | none => false)
          else (isVo e.dst || isCh e.dst || e.dst == 0x98) && e.dstP == 0)


/-- Data edges into an input. -/
def edgesInto (es : List REdge) (k p : Nat) : List REdge := (dataEdges es).filter fun e => e.dst == k && e.dstP == p
/-- Data edges from an output. -/
def edgesFrom (es : List REdge) (k p : Nat) : List REdge := (dataEdges es).filter fun e => e.src == k && e.srcP == p

/-- The first index of a list at which a property fails. -/
def firstBad (f : α → Bool) (l : List α) : Option Nat := (l.zipIdx.find? fun x => !f x.1).map fun x => x.2

/-- The nodes that can be removed because nothing that is left feeds them, over and over; what stays lies on or behind a
cycle. -/
def acyclicRest (es : List REdge) : Nat → List Nat → List Nat
  | 0, l => l
  | n + 1, l => acyclicRest es n (l.filter fun k => (dataEdges es).any fun e => e.dst == k && l.contains e.src)

/-- The limits of a core (R238, R236 code 4). -/
def kindLimit (k : Nat) : Nat := if k == 0 then 40 else if k == 1 then 8 else 4

/-- Nodes of a kind. -/
def kindCount (l : List RNode) (k : Nat) : Nat := (l.filter fun n => n.kind == k).length

/-- Used vector ports run from the first without gaps and number `n` (R236 code 8). -/
def portsRun (used : Nat → Bool) (m n : Nat) : Bool := decide (n <= m) && (List.range m).all fun k => used k == decide (k < n)

/-- The nodes that data edges lead to from some nodes, those included, in up to `n` steps. -/
def nodesAfter (es : List REdge) : Nat → List Nat → List Nat
  | 0, l => l
  | n + 1, l => nodesAfter es n (l ++ ((dataEdges es).filterMap fun e =>
      if l.contains e.src && !l.contains e.dst && decide (e.dst < 60) then some e.dst else none).eraseDups)

/-- A node lies on a cycle of data edges (R236 code 9). -/
def onCycle (es : List REdge) (n k : Nat) : Bool :=
  (nodesAfter es n (((dataEdges es).filter fun e => e.src == k).map REdge.dst)).contains k

/-- A data edge breaks code 8 of R236 by itself: an earlier one drives the same output port, or it uses a vector port above one that
no edge uses. -/
def REdge.breaksPorts (es : List REdge) (i : Nat) (e : REdge) : Bool :=
  let ds := dataEdges es
  let from_ (x : Nat) : Bool := ds.any fun d => d.src == x
  let into (x : Nat) : Bool := ds.any fun d => d.dst == x
  e.ek == 0 &&
    ((((isVo e.dst || isCh e.dst) && (dataEdges (es.take i)).any fun d => d.dst == e.dst)) ||
     (isVi e.src && (List.range (e.src - 0x80)).any fun k => !from_ (0x80 + k)) ||
     (isVo e.dst && (List.range (e.dst - 0x88)).any fun k => !into (0x88 + k)))

/-- The checks of codes 4 to 12 on the records (R236): the code, the record's index, and whether it is an edge's. Code 8 names the
first edge that breaks it by itself, or index 0 where the header does; code 9 the first node on a cycle; code 7 a node, or the fifth edge
that leaves an input port (log entry 32). -/
def recordCheck (im : RImage) : Option (Nat × Nat × Bool) :=
  let ns := im.nodes
  let es := im.edges
  let ds := dataEdges es
  let over4 := firstBad (fun (x : RNode × Nat) => kindCount (ns.take (x.2 + 1)) x.1.kind <= kindLimit x.1.kind) ns.zipIdx
  let c5 := firstBad (REdge.ok ns) es
  let c6 := firstBad (fun (x : RNode × Nat) =>
    x.1.inputs.all (fun p => (edgesInto es x.2 p).length == 1) && x.1.ports.all fun p => (edgesInto es x.2 p).length <= 1) ns.zipIdx
  let c7 := firstBad (fun (x : RNode × Nat) =>
    (!x.1.outputs.contains 0 || !(edgesFrom es x.2 0).isEmpty) && x.1.outputs.all fun p => (edgesFrom es x.2 p).length <= 4) ns.zipIdx
  let c7e := firstBad (fun (x : REdge × Nat) =>
    x.1.ek == 1 || decide (x.1.src < 60) || decide ((edgesFrom (es.take (x.2 + 1)) x.1.src x.1.srcP).length <= 4)) es.zipIdx
  let viUsed := fun k => ds.any fun e => e.src == 0x80 + k
  let voUsed := fun k => ds.any fun e => e.dst == 0x88 + k
  let drivers := fun x => (ds.filter fun e => e.dst == x).length
  let c8 := !portsRun viUsed 3 im.iar || !portsRun voUsed 2 im.oar
    || [0x88, 0x89, 0x90, 0x91].any (fun x => decide (1 < drivers x))
    || (List.range 3).any (fun k => im.seg.testBit k && !viUsed k) || (List.range 2).any (fun k => im.seg.testBit (3 + k) && !voUsed k)
    || (im.seg.testBit 3 && im.seg.testBit 4)
  let c8i := firstBad (fun (x : REdge × Nat) => !x.1.breaksPorts es x.2) es.zipIdx
  let rest := acyclicRest es ns.length (List.range ns.length)
  let isM := fun k => match ns[k]? with | some n => n.kind == 4 | none => false
  let c10 := firstBad (fun (e : REdge) => e.ek == 0 || (isM e.src && isM e.dst && e.src != e.dst)) es
  let c12 := firstBad (fun (e : REdge) =>
    e.ek == 1 || (e.dst != 0x98 && !(isCh e.dst && ds.any fun d => d.src == e.dst) && !(isCh e.src && ds.any fun d => d.dst == e.src))) es
  match over4, c5, c6, c7 with
  | some k, _, _, _ => some (4, k, false)
  | none, some k, _, _ => some (5, k, true)
  | none, none, some k, _ => some (6, k, false)
  | none, none, none, some k => some (7, k, false)
  | none, none, none, none =>
    if c7e.isSome then c7e.map fun k => (7, k, true)
    else if c8 then some (8, c8i.getD 0, c8i.isSome)
    else if !rest.isEmpty then some (9, (rest.find? fun k => onCycle es ns.length k).getD 0, false)
    else
      match c10 with
      | some k => some (10, k, true)
      | none =>
        if im.freeze / 2 ^ ns.length != 0 then some (11, 0, false)
        else c12.map fun k => (12, k, true)

/-- Validates an image of the bytes read (R233, R236): the failure's TRAPINFO, or the image. -/
def validateImage (b : Array Byte) : Except Nat RImage :=
  let num (i n : Nat) : Nat := leBytes ((List.range n).map fun k => b[i + k]?.getD 0)
  let nn := num 6 1
  let ne := num 7 1
  let rawN := (List.range nn).map fun k => num (64 + 16 * k) 16
  let rawE := (List.range ne).map fun k => num (64 + 16 * nn + 8 * k) 8
  let im : RImage := ⟨num 8 1, num 9 1, num 10 1, num 16 8, rawN.map RNode.of, rawE.map REdge.of⟩
  if num 0 4 != 0x52454546 || num 4 2 != 1 || num 11 1 != 0 || num 24 40 != 0 || im.seg / 32 != 0 then .error 1
  else if nn == 0 || 60 < nn || ne == 0 || num 12 4 != 64 + 16 * nn + 8 * ne then .error 2
  else
    match firstBad (fun x => nodeZeros x && (RNode.of x).ok) rawN with
    | some k => .error (3 + 256 * k)
    | none =>
      match recordCheck im with
      | some (c, k, e) =>
        let c5 := firstBad edgeZeros rawE
        match c5 with
        | some j => if 5 < c || (c == 5 && j < k) then .error (5 + 256 * j + 65536) else .error (c + 256 * k + (if e then 65536 else 0))
        | none => .error (c + 256 * k + (if e then 65536 else 0))
      | none => match firstBad edgeZeros rawE with | some j => .error (5 + 256 * j + 65536) | none => .ok im

/-- Bytes of an image that its header claims, at most those of the largest image. -/
def imageSize (hdr : Array Byte) : Nat :=
  64 + 16 * (hdr[6]?.getD 0).toNat + 8 * (hdr[7]?.getD 0).toNat

/-- The image uses the matrix port. -/
def RImage.hasMx (i : RImage) : Bool := (dataEdges i.edges).any fun e => e.src == 0x98

end Sys2Proof.Machine
end

