-- ==== Sys2Proof/Machine/Sync.lean ====
section
/-! DEFINITION. Barriers (R264) and watermarks (R265-R267). -/

namespace Sys2Proof.Machine

/-- The key of a barrier. -/
def Barrier.key (b : Barrier) : Nat := ((b.task * 8 + b.scope) * 512 + b.unit) * 32 + b.id
/-- The key of an arrival's barrier. -/
def Arrival.key (a : Arrival) : Nat := ((a.task * 8 + a.scope) * 512 + a.unit) * 32 + a.id

/-- The task of the current core. -/
def State.task (s : State) : Option Task := s.core.task.bind fun n => findBy Task.num n s.tasks

/-- The index of a core within a task (R401). -/
def Task.indexOf (t : Task) (core : Nat) : Nat := t.cores.idxOf core

/-- The barrier unit of the current hart at a scope, as fixed at the task's first placement (R264): task, unit, and the
scope at which the barrier orders. -/
def State.unitOf (s : State) (scope : Nat) : Nat × Nat × Nat :=
  match s.task with
  | none => (512 + (if scope == 1 then s.core.num else if scope == 2 then s.core.num / 40 else 0), 0, scope)
  | some t =>
    let k := t.indexOf s.core.num
    let die := t.dies[k]?.getD 0
    if scope == 1 then (t.num, k, 1)
    else if scope == 2 then
      let here := ((t.dies.zip t.cores).filter fun x => x.1 == die).map fun x => x.2 / 40
      (t.num, die, if here.all fun d => d == s.core.num / 40 then 2 else 3)
    else (t.num, 0, 3)

/-- The barrier of an arrival, as recorded or before its first arrival. -/
def State.barrierAt (s : State) (a : Arrival) : Barrier :=
  (findBy Barrier.key a.key s.barriers).getD ⟨a.task, a.scope, a.unit, a.id, 0, 0, 0⟩

/-- BAR arrives (R264): the count of the open episode must agree; the last arrival completes it. -/
def barArrive (b : Barrier) (count : Nat) : Option (Barrier × Nat × Nat) :=
  if count == 0 || 2560 < count || (b.arrived != 0 && b.count != count) then none
  else
    let n := b.arrived + 1
    if n == count then some ({ b with episodes := b.episodes + 1, arrived := 0, count := 0 }, b.episodes, b.arrived)
    else some ({ b with arrived := n, count := count }, b.episodes, b.arrived)

/-- The home of a barrier, as a place at which releases are recorded, apart from every line of memory (R347). -/
def Arrival.home (a : Arrival) : Nat := 2 ^ 60 + a.key

/-- BAR's completion: the arrival index, and the acquire of what was recorded at the barrier (R264, R347). -/
def barFinish (f : IFmt) (a : Arrival) (scope : Nat) (s : State) : State :=
  let s := s.mapHart fun h => { h with arrival := none }
  let s := s.setS f.sd (BitVec.ofNat 64 a.index) (s.getP f.sa ||| s.ctx)
  retire (acquireAt scope a.home s)

/-- BAR (R264). -/
def execBar (f : IFmt) (s : State) : Out :=
  let sc := f.imm.toNat % 8
  let (task, unit, ord) := s.unitOf sc
  .next (match s.hart.arrival with
    | some a => if a.episode < (s.barrierAt a).episodes then barFinish f a ord s else waitFor .bar s
    | none =>
      watchGate (fun s =>
        let a : Arrival := ⟨task, sc, unit, f.imm.toNat / 8 % 32, 0, 0⟩
        match barArrive (s.barrierAt a) (s.getS f.sa).toNat with
        | none => scalarTrap ⟨17, encode (.bar f), 1, 0⟩ s
        | some (b, e, n) =>
          let a := { a with episode := e, index := n }
          let s := releaseAt ord a.home s
          let s := { s with barriers := putBy Barrier.key b s.barriers }
          if e < b.episodes then barFinish f a ord s
          else waitFor .bar (s.mapHart fun h => { h with arrival := some a })) s)

/-- The synchronisation trap (R265, R410). -/
def syncTrap (i : Instr) (reason acc : Nat) (s : State) : State := scalarTrap ⟨17, encode i, reason, acc⟩ s

/-- WMPUB's write at the home (R266): the watermark only grows. -/
def publishMark (pa : Nat) (old v : Nat) (p : PvSet) (s : State) : State :=
  storeAtomic pa 8 (if old < v then some (toLeBytes 8 v) else none) p s

/-- WMPUB (R265, R266); on peer memory it travels as an operation packet of MAXU (R477). -/
def execWmpub (f : RFmt) (s : State) : Out :=
  let i : Instr := .wmpub f
  let scope := f.sc.toNat % 8
  let a := s.getS f.sa
  .next (match s.hart.remote with
    | some r => amoAnswered a 3 r (fun _ t => retire (t.addCtx (s.getP f.sa))) s
    | none => watchGate (fun s =>
    if a.toNat % 8 != 0 then scalarTrap ⟨7, a, 0, 3⟩ s
    else
      match access a 8 .write 3 false s with
      | .trap t => scalarTrap t (touch a .write s)
      | .wait w => waitFor w s
      | .ok pa t =>
        if t.inHost pa then syncTrap i 2 3 s
        else
          let t := t.addCtx (s.getP f.sa)
          let p := s.getP f.sb ||| t.ctx
          match writeCheck a pa p 3 t with
          | some e => scalarTrap e (touch a .write s)
          | none =>
            let v := s.getS f.sb
            if t.inPeer pa then sendAmo ⟨8, 8, v, 0, p⟩ true scope pa s
            else retire (publishMark pa (t.homeNum pa 8) v.toNat p (releaseAt scope (pa / 128) t))) s)

/-- WMWAIT (R265, R267). -/
def execWmwait (f : RFmt) (s : State) : Out :=
  let i : Instr := .wmwait f
  let a := s.getS f.sa
  .next (if a.toNat % 8 != 0 then scalarTrap ⟨7, a, 0, 2⟩ s
    else
      match access a 8 .read 2 true s with
      | .trap t => scalarTrap t (touch a .read s)
      | .wait w => waitFor w s
      | .ok pa t =>
        if t.inHost pa then syncTrap i 2 2 s
        else
          let v := t.homeNum pa 8
          if v < (s.getS f.sb).toNat then waitFor .watermark s
          else
            let t := t.addCtx (s.getP f.sa ||| s.getP f.sb ||| t.curAt pa)
            let t := acquireAt (f.sc.toNat % 8) (pa / 128) t
            retire (t.setS f.sd (BitVec.ofNat 64 v) t.ctx))

/-- WATERMARK_WAKE (R267): a waiting WMWAIT looks at its watermark again when its hart next issues. -/
def execWatermarkWake (who : HartId) (s : State) : Out :=
  .next (onHart who (fun s =>
    if s.hart.status == .waiting .watermark && !s.grants.contains s.hart.id then { s with grants := s.grants ++ [s.hart.id] } else s) s)

end Sys2Proof.Machine
end

