-- ==== Sys2Proof/Machine/VInt.lean ====
section
/-! DEFINITION. Vector integer arithmetic (R114-R118, R198), compare, select and move (R119-R121), mask
instructions (R122, R123). -/

namespace Sys2Proof.Machine

/-- An element-wise integer form of two sources (R112, R114): `res` gives the result tag, `op` the result of a width,
a type and two elements. -/
def intBinary (i : Instr) (f : VFmt) (res : Tag → Tag) (op : Nat → Nat → Nat → Nat → Nat) (s : State) : State :=
  let t := s.tagOf f.va
  let d := res t
  vecForm i
    { reads := vsrcs f, agree := f.sb || s.tagOf f.vb == t, accept := isInt t.code,
      dst := some (f.vd, d.count, d.width, s.vl) }
    (s.overlapSrc f.vd d f.va || (!f.sb && s.overlapSrc f.vd d f.vb))
    (fun s =>
      let a := s.vecSrc f.va
      let b := s.second f t.width
      let g := s.gov f t.width
      let img := elemwise g d.width (fun k => op t.width t.code (a.get k) (b.get k)) (s.dstImg f.vd d)
      s.writeDst f.vd d img (a.pv ||| b.pv ||| g.pv)) s

/-- The shift amount: the low log2(w) bits (R115). -/
def vshamt (w b : Nat) : Nat := b % w

/-- The unsigned type of the width of an integer type (R114). -/
def unsignedOf (t : Tag) : Tag := { t with ty := if isSigned t.code then t.ty + 1 else t.ty }

/-- VADD (R114). -/
def execVadd (f : VFmt) (s : State) : Out := .next (intBinary (.vadd f) f id (fun w _ a b => (a + b) % 2 ^ w) s)
/-- VSUB (R114). -/
def execVsub (f : VFmt) (s : State) : Out := .next (intBinary (.vsub f) f id (fun w _ a b => (2 ^ w + a - b) % 2 ^ w) s)
/-- VAND (R114). -/
def execVand (f : VFmt) (s : State) : Out := .next (intBinary (.vand f) f id (fun _ _ a b => a &&& b) s)
/-- VOR (R114). -/
def execVor (f : VFmt) (s : State) : Out := .next (intBinary (.vor f) f id (fun _ _ a b => a ||| b) s)
/-- VXOR (R114). -/
def execVxor (f : VFmt) (s : State) : Out := .next (intBinary (.vxor f) f id (fun _ _ a b => a ^^^ b) s)
/-- VANDN (R114). -/
def execVandn (f : VFmt) (s : State) : Out :=
  .next (intBinary (.vandn f) f id (fun w _ a b => a &&& (2 ^ w - 1 - b)) s)
/-- VSLL (R114, R115). -/
def execVsll (f : VFmt) (s : State) : Out :=
  .next (intBinary (.vsll f) f id (fun w _ a b => (a <<< vshamt w b) % 2 ^ w) s)
/-- VSRL (R114, R115). -/
def execVsrl (f : VFmt) (s : State) : Out := .next (intBinary (.vsrl f) f id (fun w _ a b => a >>> vshamt w b) s)
/-- VSRA (R114, R115). -/
def execVsra (f : VFmt) (s : State) : Out :=
  .next (intBinary (.vsra f) f id (fun w _ a b => intMod w (sint w a >>> vshamt w b)) s)
/-- VMIN (R114, R115). -/
def execVmin (f : VFmt) (s : State) : Out :=
  .next (intBinary (.vmin f) f id (fun w _ a b => if sint w b < sint w a then b else a) s)
/-- VMAX (R114, R115). -/
def execVmax (f : VFmt) (s : State) : Out :=
  .next (intBinary (.vmax f) f id (fun w _ a b => if sint w a < sint w b then b else a) s)
/-- VMINU (R114, R115). -/
def execVminu (f : VFmt) (s : State) : Out := .next (intBinary (.vminu f) f id (fun _ _ a b => min a b) s)
/-- VMAXU (R114, R115). -/
def execVmaxu (f : VFmt) (s : State) : Out := .next (intBinary (.vmaxu f) f id (fun _ _ a b => max a b) s)
/-- VABSD (R114). -/
def execVabsd (f : VFmt) (s : State) : Out :=
  .next (intBinary (.vabsd f) f unsignedOf (fun w t a b => (perTag t w a - perTag t w b).natAbs % 2 ^ w) s)
/-- VSADD (R114, R115). -/
def execVsadd (f : VFmt) (s : State) : Out :=
  .next (intBinary (.vsadd f) f id (fun w t a b => saturate t w (perTag t w a + perTag t w b)) s)
/-- VSSUB (R114, R115). -/
def execVssub (f : VFmt) (s : State) : Out :=
  .next (intBinary (.vssub f) f id (fun w t a b => saturate t w (perTag t w a - perTag t w b)) s)

/-- VADC and VSBC (R116): `op` gives the exact unsigned result with the carry, and its carry-out. -/
def carryForm (i : Instr) (f : VFmt) (op : Nat → Nat → Nat → Nat → Nat × Bool) (s : State) : State :=
  let t := s.tagOf f.va
  vecForm i
    { reads := vsrcs f, agree := f.sb || s.tagOf f.vb == t, accept := isInt t.code,
      dst := some (f.vd, t.count, t.width, s.vl) }
    (s.overlapSrc f.vd t f.va || (!f.sb && s.overlapSrc f.vd t f.vb))
    (fun s =>
      let w := t.width
      let a := s.vecSrc f.va
      let b := s.second f w
      let g := s.gov f w
      let cin := s.hart.mreg f.vc.toNat
      let md := f.imm.toNat % 8
      let res (k : Nat) := op w (a.get k) (b.get k) (bitsAt cin.bits k 1)
      let img := elemwise g w (fun k => (res k).1) (s.dstImg f.vd t)
      let cout := elemwise g 1 (fun k => if (res k).2 then 1 else 0) (s.hart.mreg md).bits
      let p := a.pv ||| b.pv ||| g.pv ||| cin.pv ||| s.hart.groupPv f.vd.toNat t.count
      (s.writeDst f.vd t img p).mapHart fun h => h.setM md ⟨cout, p ||| s.vlPv ||| s.ctx⟩) s

/-- VADC (R116). -/
def execVadc (f : VFmt) (s : State) : Out :=
  .next (carryForm (.vadc f) f (fun w a b c => ((a + b + c) % 2 ^ w, decide (2 ^ w <= a + b + c))) s)
/-- VSBC (R116). -/
def execVsbc (f : VFmt) (s : State) : Out :=
  .next (carryForm (.vsbc f) f (fun w a b c => ((2 ^ w + 2 ^ w + a - b - c) % 2 ^ w, decide (a < b + c))) s)

/-! ### Multiplication (R117, R118, R198) -/

/-- VMUL (R117): low bits, or saturated under MD[3]. -/
def execVmul (f : VFmt) (s : State) : Out :=
  .next (intBinary (.vmul f) f id (fun w t a b =>
    let x := perTag t w a * perTag t w b
    if f.md.getLsbD 3 then saturate t w x else intMod w x) s)
/-- VMULH (R117). -/
def execVmulh (f : VFmt) (s : State) : Out :=
  .next (intBinary (.vmulh f) f id (fun w _ a b => intMod w ((sint w a * sint w b) >>> w)) s)
/-- VMULHU (R117). -/
def execVmulhu (f : VFmt) (s : State) : Out :=
  .next (intBinary (.vmulhu f) f id (fun w _ a b => a * b / 2 ^ w) s)

/-- VMAC (R117, R118): the destination is the third source and must agree. -/
def execVmac (f : VFmt) (s : State) : Out :=
  let t := s.tagOf f.va
  .next (vecForm (.vmac f)
    { reads := f.vd :: vsrcs f, agree := (f.sb || s.tagOf f.vb == t) && s.tagOf f.vd == t, accept := isInt t.code }
    (s.overlapSrc f.vd t f.va || (!f.sb && s.overlapSrc f.vd t f.vb))
    (fun s =>
      let w := t.width
      let a := s.vecSrc f.va
      let b := s.second f w
      let d := s.vecSrc f.vd
      let g := s.gov f w
      let img := elemwise g w (fun k =>
        let x := perTag t.code w (d.get k) + perTag t.code w (a.get k) * perTag t.code w (b.get k)
        if f.md.getLsbD 3 then saturate t.code w x else intMod w x) (s.dstImg f.vd t)
      s.writeDst f.vd t img (a.pv ||| b.pv ||| g.pv)) s)

/-- The tag of VWMUL's result: the width doubled, the signedness kept, grouping 2G (R118). -/
def wideTag (t : Tag) : Tag := { t with ty := t.ty + 2, g := t.g + 1 }

/-- VWMUL (R118): a source that it does not accept has no result group to check. -/
def execVwmul (f : VFmt) (s : State) : Out :=
  let t := s.tagOf f.va
  let d := wideTag t
  let ok := isInt t.code && decide (t.code <= 6) && t.g != 3
  .next (vecForm (.vwmul f)
    { reads := vsrcs f, agree := f.sb || s.tagOf f.vb == t, accept := ok,
      dst := if ok then some (f.vd, d.count, d.width, s.vl) else none }
    (s.overlapAny f.vd d f.va || (!f.sb && s.overlapAny f.vd d f.vb))
    (fun s =>
      let w := t.width
      let a := s.vecSrc f.va
      let b := s.second f w
      let g := s.gov f (2 * w)
      let img := elemwise g (2 * w) (fun k => intMod (2 * w) (perTag t.code w (a.get k) * perTag t.code w (b.get k)))
        (s.dstImg f.vd d)
      s.writeDst f.vd d img (a.pv ||| b.pv ||| g.pv)) s)

/-- VDOT16 (R198). -/
def execVdot16 (f : VFmt) (s : State) : Out :=
  let t := s.tagOf f.va
  let d := s.tagOf f.vd
  .next (vecForm (.vdot16 f)
    { reads := f.vd :: vsrcs f, agree := f.sb || s.tagOf f.vb == t,
      holds := (vsrcs f).map fun r => (r, 2 * s.vl),
      accept := (t.code == 3 && d.code == 5 || t.code == 4 && d.code == 6) && d.g == t.g }
    (s.overlapAny f.vd d f.va || (!f.sb && s.overlapAny f.vd d f.vb))
    (fun s =>
      let a := s.vecSrc f.va
      let b := s.second f 16
      let o := s.vecSrc f.vd
      let g := s.gov f 32
      let e := perTag t.code 16
      let img := elemwise g 32 (fun k =>
        let x := perTag d.code 32 (o.get k) + e (a.get (2 * k)) * e (b.get (2 * k))
          + e (a.get (2 * k + 1)) * e (b.get (2 * k + 1))
        if f.md.getLsbD 3 then saturate d.code 32 x else intMod 32 x) (s.dstImg f.vd d)
      s.writeDst f.vd d img (a.pv ||| b.pv ||| g.pv)) s)

/-! ### Compare, select, move (R119-R121) -/

/-- The conditions of VCMP (R119). -/
def cmpCond (c w a b : Nat) : Bool :=
  match c with
  | 0 => a == b
  | 1 => a != b
  | 2 => sint w a < sint w b
  | 3 => sint w b ≤ sint w a
  | 4 => a < b
  | 5 => b <= a
  | 6 => sint w b < sint w a
  | 7 => sint w a ≤ sint w b
  | 8 => b < a
  | _ => a <= b

/-- VCMP (R119). -/
def execVcmp (f : VFmt) (s : State) : Out :=
  let t := s.tagOf f.va
  .next (vecForm (.vcmp f) { reads := vsrcs f, agree := f.sb || s.tagOf f.vb == t, accept := isInt t.code } false
    (fun s =>
      let w := t.width
      let a := s.vecSrc f.va
      let b := s.second f w
      let g := s.gov f w
      let md := f.vd.toNat % 8
      let bits := elemwise g 1 (fun k => if cmpCond f.md.toNat w (a.get k) (b.get k) then 1 else 0) (s.hart.mreg md).bits
      s.writeMask md bits (a.pv ||| b.pv ||| g.pv)) s)

/-- VSEL (R120). -/
def execVsel (f : VFmt) (s : State) : Out :=
  let t := s.tagOf f.va
  .next (vecForm (.vsel f)
    { reads := [f.va, f.vb], agree := s.tagOf f.vb == t, dst := some (f.vd, t.count, t.width, s.vl) }
    (s.overlapSrc f.vd t f.va || s.overlapSrc f.vd t f.vb)
    (fun s =>
      let a := s.vecSrc f.va
      let b := s.vecSrc f.vb
      let g := s.gov f t.width
      let m := s.hart.mreg f.vc.toNat
      let img := elemwise g t.width (fun k => if m.bits.testBit k then a.get k else b.get k) (s.dstImg f.vd t)
      s.writeDst f.vd t img (a.pv ||| b.pv ||| g.pv ||| m.pv)) s)

/-- VMV (R120). -/
def execVmv (f : VFmt) (s : State) : Out :=
  let t := s.tagOf f.va
  .next (vecForm (.vmv f) { reads := [f.va], dst := some (f.vd, t.count, t.width, s.vl) } (s.overlapSrc f.vd t f.va)
    (fun s =>
      let a := s.vecSrc f.va
      let g := s.gov f t.width
      s.writeDst f.vd t (elemwise g t.width a.get (s.dstImg f.vd t)) (a.pv ||| g.pv)) s)

/-- VSPLAT (R120). -/
def execVsplat (f : VFmt) (s : State) : Out :=
  let t := s.tagOf f.vd
  .next (vecForm (.vsplat f) { reads := [f.vd] } false
    (fun s =>
      let a := s.scalarSrc f.ss t.width
      let g := s.gov f t.width
      s.writeDst f.vd t (elemwise g t.width a.get (s.dstImg f.vd t)) (a.pv ||| g.pv)) s)

/-- Tag checks of VEXT and VINS: they act at any index, regardless of vl (R121). -/
def oneElem (i : Instr) (r : BitVec 5) (eff : State → State) (s : State) : State :=
  if (s.tagOf r).code == 0 then tagTrap i 1 s
  else if !s.groupOk r then tagTrap i 3 s
  else retire (eff s)

/-- VEXT (R121). -/
def execVext (f : VFmt) (s : State) : Out :=
  .next (oneElem (.vext f) f.va (fun s =>
    let t := s.tagOf f.va
    let w := t.width
    let idx := if f.sb then (s.getS f.ss).toNat else f.imm.toNat
    let a := s.vecSrc f.va
    let x := if idx < capacity w t.count s.level then a.get idx else 0
    let v := if isSigned t.code then BitVec.ofInt 64 (sint w x) else BitVec.ofNat 64 x
    s.setS f.vd v (a.pv ||| (if f.sb then s.getP f.ss else pvEmpty) ||| s.ctx)) s)

/-- VINS (R121). -/
def execVins (f : VFmt) (s : State) : Out :=
  .next (oneElem (.vins f) f.vd (fun s =>
    let t := s.tagOf f.vd
    let w := t.width
    if f.imm.toNat < capacity w t.count s.level then
      let img := setBitsAt (s.imgOf f.vd) (f.imm.toNat * w) w (s.getS f.ss).toNat
      s.mapHart fun h => h.putGroup s.level t (s.pvOf f.vd ||| s.getP f.ss ||| s.ctx) f.vd.toNat img t.count
    else s) s)

/-! ### Mask instructions (R122, R123) -/

/-- Bits 0 to vl - 1 of a mask take new bits; the rest are kept (R122). -/
def maskMerge (old new vl : Nat) : Nat := setBitsAt old 0 vl new

/-- A mask destination written at bits below vl, with its set (R122). -/
def State.putMask (s : State) (md : Nat) (new : Nat) (p : PvSet) : State :=
  s.mapHart fun h =>
    h.setM md ⟨maskMerge (h.mreg md).bits new s.vl, (h.mreg md).pv ||| p ||| s.vlPv ||| s.ctx⟩

/-- A two-source mask form (R122). -/
def maskBinary (f : VFmt) (op : Nat → Nat → Nat) (s : State) : State :=
  let a := s.hart.mreg f.va.toNat
  let b := s.hart.mreg f.vb.toNat
  retire (s.putMask f.vd.toNat (op (a.bits % 2 ^ s.vl) (b.bits % 2 ^ s.vl)) (a.pv ||| b.pv))

/-- MAND (R122). -/
def execMand (f : VFmt) (s : State) : Out := .next (maskBinary f (fun a b => a &&& b) s)
/-- MOR (R122). -/
def execMor (f : VFmt) (s : State) : Out := .next (maskBinary f (fun a b => a ||| b) s)
/-- MXOR (R122). -/
def execMxor (f : VFmt) (s : State) : Out := .next (maskBinary f (fun a b => a ^^^ b) s)
/-- MANDN (R122). -/
def execMandn (f : VFmt) (s : State) : Out := .next (maskBinary f (fun a b => a &&& (2 ^ s.vl - 1 - b)) s)
/-- MNOT (R122). -/
def execMnot (f : VFmt) (s : State) : Out :=
  let a := s.hart.mreg f.va.toNat
  .next (retire (s.putMask f.vd.toNat (2 ^ s.vl - 1 - a.bits % 2 ^ s.vl) a.pv))
/-- MSET (R122). -/
def execMset (f : VFmt) (s : State) : Out :=
  .next (retire (s.putMask f.vd.toNat (if f.imm.getLsbD 0 then 2 ^ s.vl - 1 else 0) pvEmpty))

/-- MSHL and MSHR (R123): `op` gives, from A, Fb, vl and n, the new bits and the bits shifted out. -/
def maskShift (f : VFmt) (op : Nat → Nat → Nat → Nat → Nat × Nat) (s : State) : State :=
  let n := f.imm.toNat % 128
  let fill := f.imm.getLsbD 7
  let a := s.hart.mreg f.va.toNat
  let fb := if fill then s.hart.csr.mshout.toNat % 2 ^ n else 0
  let (bits, out) := op (a.bits % 2 ^ s.vl) fb s.vl n
  let md := f.vd.toNat % 8
  let p := a.pv ||| (if fill then s.hart.csrPv 0x007 else pvEmpty)
  let s := s.putMask md bits p
  retire (s.mapHart fun h =>
    ({ h with csr := { h.csr with mshout := BitVec.ofNat 64 out } }).setCsrPv 0x007 (h.mreg md).pv)

/-- MSHL (R123). -/
def execMshl (f : VFmt) (s : State) : Out :=
  .next (maskShift f (fun a fb vl n =>
    let c := a * 2 ^ n ||| fb
    (c % 2 ^ vl, bitsAt c vl n)) s)
/-- MSHR (R123). -/
def execMshr (f : VFmt) (s : State) : Out :=
  .next (maskShift f (fun a fb vl n =>
    let c := a ||| fb * 2 ^ vl
    (bitsAt c n vl, bitsAt c 0 n)) s)

/-- MPOPC (R122). -/
def execMpopc (f : VFmt) (s : State) : Out :=
  let a := s.hart.mreg f.va.toNat
  .next (retire (s.setS f.vd (BitVec.ofNat 64 (popCount a.bits s.vl)) (a.pv ||| s.vlPv ||| s.ctx)))

/-- The lowest set bit of a nonzero number. -/
def lowBit (x : Nat) : Nat := (x ^^^ (x &&& (x - 1))).log2

/-- MFIRST (R122). -/
def execMfirst (f : VFmt) (s : State) : Out :=
  let a := s.hart.mreg f.va.toNat
  let x := a.bits % 2 ^ s.vl
  .next (retire (s.setS f.vd (if x == 0 then BitVec.allOnes 64 else BitVec.ofNat 64 (lowBit x))
    (a.pv ||| s.vlPv ||| s.ctx)))
/-- MLAST (R122). -/
def execMlast (f : VFmt) (s : State) : Out :=
  let a := s.hart.mreg f.va.toNat
  let x := a.bits % 2 ^ s.vl
  .next (retire (s.setS f.vd (if x == 0 then BitVec.allOnes 64 else BitVec.ofNat 64 x.log2) (a.pv ||| s.vlPv ||| s.ctx)))
/-- MBIT (R122). -/
def execMbit (f : VFmt) (s : State) : Out :=
  let a := s.hart.mreg f.va.toNat
  let k := (s.getS f.ss).toNat
  let v := if k < 8192 * s.level then bitsAt a.bits k 1 else 0
  .next (retire (s.setS f.vd (BitVec.ofNat 64 v) (a.pv ||| s.getP f.ss ||| s.ctx)))

end Sys2Proof.Machine
end

