-- ==== Sys2Proof/Machine/Reef.lean ====
section
/-! DEFINITION. The reef at work (R214-R232, R240-R247): tokens, ports, nodes and memory ports, one firing or move at a
time. -/

namespace Sys2Proof.Machine

/-! ### Tokens on edges (R220, R221) -/

/-- A DATA token. -/
def dataTok (v : Word) : Tok := ⟨0, v⟩
/-- The END token. -/
def endTok : Tok := ⟨5, 0⟩

/-- The index of the data edge into an input of an endpoint. -/
def RRun.edgeInto (r : RRun) (k p : Nat) : Option Nat := r.img.edges.findIdx? fun e => e.ek == 0 && e.dst == k && e.dstP == p
/-- The token offered at an input. -/
def RRun.head (r : RRun) (k p : Nat) : Option Tok := (r.edgeInto k p).bind fun i => ((r.edges[i]?).getD []).head?
/-- The delay depth of an edge (R238). -/
def RRun.depth (r : RRun) (i : Nat) : Nat := Config.delayDepth (r.asid * 16 + r.slot) i % 16

/-- The result register of an output is empty: no edge holds a token that its delay registers do not (R220). -/
def RRun.free (r : RRun) (k p : Nat) : Bool :=
  (r.img.edges.zipIdx).all fun x =>
    !(x.1.ek == 0 && x.1.src == k && x.1.srcP == p) || decide (((r.edges[x.2]?).getD []).length <= r.depth x.2)

/-- Takes the token at an input. -/
def RRun.take (r : RRun) (k p : Nat) : RRun :=
  match r.edgeInto k p with
  | some i => { r with edges := r.edges.modify i List.tail }
  | none => r

/-- Emits a token on an output. -/
def RRun.emit (r : RRun) (k p : Nat) (t : Tok) : RRun :=
  { r with edges := (r.edges.zipIdx).map fun x =>
      match r.img.edges[x.2]? with
      | some e => if e.ek == 0 && e.src == k && e.srcP == p then x.1 ++ [t] else x.1
      | none => x.1 }

/-! ### Arithmetic of A and K nodes (R222, R223) -/

/-- The width of a TYPE in a node. -/
def nodeW (ty : Nat) : Nat := if ty == 5 || ty == 6 || ty == 10 then 32 else if ty == 11 || ty == 12 then 16 else 64
/-- The integer type code of a TYPE: 0 reads as I64. -/
def intTy (ty : Nat) : Nat := if ty == 0 then 7 else ty
/-- A result of an integer operation as a payload (R222). -/
def intOut (ty x : Nat) : Word := BitVec.ofInt 64 (perTag (intTy ty) (nodeW ty) x)

/-- The integer operations 8-20 (R223). -/
def intOp (op ty : Nat) (sat : Bool) (a b : Word) : Word :=
  let w := nodeW ty
  let t := intTy ty
  let x := a.toNat % 2 ^ w
  let y := b.toNat % 2 ^ w
  let arith (v : Int) : Nat := if sat then saturate t w v else intMod w v
  intOut ty (match op with
    | 8 => arith (perTag t w x + perTag t w y)
    | 9 => arith (perTag t w x - perTag t w y)
    | 10 => arith (perTag t w x * perTag t w y)
    | 11 => x &&& y
    | 12 => x ||| y
    | 13 => x ^^^ y
    | 14 => (x <<< vshamt w y) % 2 ^ w
    | 15 => x >>> vshamt w y
    | 16 => intMod w (sint w x >>> vshamt w y)
    | 17 => if sint w y < sint w x then y else x
    | 18 => if sint w x < sint w y then y else x
    | 19 => min x y
    | _ => max x y)

/-- The floating-point operations 22-27 (R223), with flags. -/
def fltOp (op ty rnd : Nat) (a b c : Word) : Word × Nat :=
  let f := (fmtOf ty).getD fp32
  let st : FpSt := ⟨0, 0⟩
  let w := nodeW ty
  let (x, st) := st.operand f (a.toNat % 2 ^ w)
  let (y, st) := st.operand f (b.toNat % 2 ^ w)
  let (z, st) := if op == 25 then st.operand f (c.toNat % 2 ^ w) else (FVal.nan, st)
  let (v, st) := match op with
    | 22 => fpRound f rnd (addVal (rnd == 2) x y) st
    | 23 => fpRound f rnd (addVal (rnd == 2) x y.negate) st
    | 24 => fpRound f rnd (mulVal x y) st
    | 25 => fpRound f rnd (fmaVal (rnd == 2) x y z) st
    | 26 => (f.exact (minVal x y), st)
    | _ => (f.exact (maxVal x y), st)
  (BitVec.ofNat 64 v, st.flags)

/-- fcmp (R190, R223). -/
def fltCmp (ty : Nat) (p a b : Word) : Word × Nat :=
  let f := (fmtOf ty).getD fp32
  let st : FpSt := ⟨0, 0⟩
  let c := p.toNat % 16
  let (x, st) := st.operand f (a.toNat % 2 ^ nodeW ty)
  let (y, st) := st.operand f (b.toNat % 2 ^ nodeW ty)
  let quiet := 2 <= c && c <= 5 && (x.isNan || y.isNan)
  (ofBool (fcmpCond c x y), if quiet then st.flags ||| flagNV else st.flags)

/-- cvt (R223). -/
def cvtOp (ty rnd : Nat) (sat : Bool) (p a : Word) : Word × Nat :=
  let d := p.toNat % 32
  let (v, st) := convert (intTy ty) (nodeW ty) (intTy d) (nodeW d) rnd sat (a.toNat % 2 ^ nodeW ty) ⟨0, 0⟩
  (if d == 0 || (5 <= d && d <= 8) then intOut d v else BitVec.ofNat 64 v, st.flags)

/-- An element-wise A firing on DATA tokens (R223): what is emitted, and flags. -/
def dataOp (n : RNode) (p : Word) (v : List Word) : Option Word × Nat :=
  let a := v[0]?.getD 0
  let b := v[1]?.getD 0
  let c := v[2]?.getD 0
  if n.op == 5 then (if b != 0 then some a else none, 0)
  else if n.op == 7 then (some (if c != 0 then a else b), 0)
  else if n.op <= 20 then (some (intOp n.op n.ty n.sat a b), 0)
  else if n.op == 21 then
    (some (ofBool (cmpCond (p.toNat % 16) (nodeW n.ty) (a.toNat % 2 ^ nodeW n.ty) (b.toNat % 2 ^ nodeW n.ty))), 0)
  else if n.op <= 27 then (let (x, f) := fltOp n.op n.ty n.rnd a b c; (some x, f))
  else (let (x, f) := fltCmp n.ty p a b; (some x, f))

/-! ### Firings (R220, R223-R228) -/

/-- A firing: the inputs taken, the tokens emitted by output, the node's new state, flags, and MISMATCH. -/
structure Firing where
  takes : List Nat := []
  emits : List (Nat × Tok) := []
  st : RNodeSt
  flags : Nat := 0
  mism : Bool := false

/-- What a node does: a firing, nothing, or a fault of a reason (R220, R225). -/
abbrev Fired := Except Nat (Option Firing)

/-- An element-wise firing under the mismatch policy (R224): `f` acts on DATA payloads. -/
def fireElems (r : RRun) (k : Nat) (n : RNode) (st : RNodeSt) (f : List Word → List (Nat × Tok) × Nat) : Fired :=
  let ins := n.inputs
  if !st.drain.isEmpty then
    let now := st.drain.filter fun p => (r.head k p).isSome
    if now.isEmpty then .ok none
    else
      let left := st.drain.filter fun p => (r.head k p).map Tok.kind != some 5
      .ok (some { takes := now, st := { st with drain := left }, emits := if left.isEmpty then [(0, endTok)] else [] })
  else
    let hs := ins.map fun p => r.head k p
    if hs.any Option.isNone then .ok none
    else
      let ts := hs.filterMap id
      let k0 := (ts.headD endTok).kind
      if ts.all fun t => t.kind == 0 then
        let (e, fl) := f (ts.map Tok.pay)
        .ok (some { takes := ins, emits := e, st := st, flags := fl })
      else if ts.all fun t => t.kind == k0 then .ok (some { takes := ins, emits := [(0, ts.headD endTok)], st := st })
      else if ts.any fun t => t.kind == 5 then
        if !n.len then .error 5
        else
          let ended := (ins.zip ts).filter fun x => x.2.kind == 5
          let left := (ins.zip ts).filter fun x => x.2.kind != 5
          .ok (some { takes := ended.map Prod.fst, st := { st with drain := left.map Prod.fst }, mism := true })
      else .error 6

/-- The A nodes that are not element-wise (R223). -/
def fireA (r : RRun) (k : Nat) (n : RNode) (p : Word) (st : RNodeSt) : Fired :=
  let a := r.head k 0
  let pass (t : Tok) (st : RNodeSt) : Fired := .ok (some { takes := [0], emits := [(0, t)], st := st })
  match n.op with
  | 1 =>
    if st.mode == 0 && st.cnt == p.toNat then .ok (some { emits := [(0, endTok)], st := { st with mode := 1 } })
    else
      match a with
      | none => .ok none
      | some t =>
        if st.mode == 2 then .ok none
        else if st.mode == 1 then .ok (some { takes := [0], st := if t.kind == 5 then { st with mode := 2 } else st })
        else if t.kind == 0 then pass t { st with cnt := st.cnt + 1 }
        else pass t (if t.kind == 5 then { st with mode := 2 } else st)
  | 2 => match a with | none => .ok none | some t => pass (if t.kind == 0 then dataTok p else t) st
  | 3 =>
    match a with
    | none => .ok none
    | some t =>
      if st.mode == 1 then pass t { st with mode := 0, cnt := 0 }
      else if t.kind == 0 then .ok (some { takes := [0], st := { st with cnt := st.cnt + 1 } })
      else .ok (some { emits := [(0, dataTok (BitVec.ofNat 64 st.cnt))], st := { st with mode := 1 } })
  | 4 =>
    match a, r.head k 1 with
    | some x, some y =>
      if y.kind == 0 then (if x.kind == 0 then .ok (some { takes := [1], emits := [(0, x)], st := st }) else .error 6)
      else if y.kind != 5 || x.kind == 5 then .ok (some { takes := [0, 1], emits := [(0, y)], st := st })
      else .error 6
    | _, _ => .ok none
  | 6 =>
    match r.head k 2 with
    | none => .ok none
    | some c =>
      if c.kind == 0 then
        let side := if c.pay != 0 then 0 else 1
        match r.head k side with
        | none => .ok none
        | some t => if t.kind == 0 then .ok (some { takes := [2, side], emits := [(0, t)], st := st }) else .error 6
      else
        match a, r.head k 1 with
        | some x, some y =>
          if x.kind == c.kind && y.kind == c.kind then .ok (some { takes := [0, 1, 2], emits := [(0, c)], st := st }) else .error 6
        | _, _ => .ok none
  | 29 =>
    match a with
    | none => .ok none
    | some t =>
      if t.kind == 0 then
        let (v, fl) := cvtOp n.ty n.rnd n.sat p t.pay
        .ok (some { takes := [0], emits := [(0, dataTok v)], st := st, flags := fl })
      else pass t st
  | _ => match a with | none => .ok none | some t => pass t st

/-- The companion of a key at input `p` (x 3 or y 4): DATA 0 of the key's kind where unconnected; none while it has not
come (R226). -/
def companion (r : RRun) (k p : Nat) (key : Tok) : Except Nat (Option (Tok × List Nat)) :=
  match r.edgeInto k p with
  | none => .ok (some (⟨key.kind, 0⟩, []))
  | some _ =>
    match r.head k p with
    | none => .ok none
    | some t => if t.kind == key.kind then .ok (some (t, [p])) else .error 6

/-- A J node (R226). The key that it emits is the whole payload of its token, that of a where both match (log entry 72). -/
def fireJ (r : RRun) (k : Nat) (n : RNode) (st : RNodeSt) : Fired :=
  match r.head k 0, r.head k 1 with
  | some a, some b =>
    let w := nodeW n.ty
    let key (t : Tok) : Int := perTag (intTy n.ty) w (t.pay.toNat % 2 ^ w)
    let z := dataTok 0
    let useA (drop : Bool) : Fired :=
      match companion r k 3 a with
      | .error e => .error e
      | .ok none => .ok none
      | .ok (some (x, t)) =>
        .ok (some { takes := 0 :: t, st := st,
                    emits := if drop then [] else if a.kind == 0 then [(0, a), (1, x), (2, z)] else [(0, a), (1, a), (2, a)] })
    let useB (drop : Bool) : Fired :=
      match companion r k 4 b with
      | .error e => .error e
      | .ok none => .ok none
      | .ok (some (y, t)) =>
        .ok (some { takes := 1 :: t, st := st,
                    emits := if drop then [] else if b.kind == 0 then [(0, b), (1, z), (2, y)] else [(0, b), (1, b), (2, b)] })
    let both : Fired :=
      match companion r k 3 a, companion r k 4 b with
      | .error e, _ => .error e
      | _, .error e => .error e
      | .ok (some (x, t)), .ok (some (y, u)) =>
        .ok (some { takes := 0 :: 1 :: (t ++ u), st := st,
                    emits := if a.kind == 0 then [(0, a), (1, x), (2, y)] else [(0, a), (1, a), (2, a)] })
      | _, _ => .ok none
    if a.kind == 0 && b.kind == 0 then
      if key a == key b then (if n.op == 2 then useA false else both)
      else if key a < key b then useA (n.op == 0) else useB (n.op == 0)
    else if a.kind == b.kind then both
    else if a.kind == 5 then useB (n.op == 0)
    else if b.kind == 5 then useA (n.op == 0)
    else if a.kind == 0 then useA (n.op == 0)
    else if b.kind == 0 then useB (n.op == 0)
    else .error 6
  | _, _ => .ok none

/-- A K node (R227): mode 1 emits the entries of the table, then the closing token. -/
def fireK (r : RRun) (k : Nat) (n : RNode) (st : RNodeSt) : Fired :=
  match r.head k 0, r.head k 3 with
  | some a, some x =>
    if st.mode == 1 then
      match st.table with
      | (i, v) :: l =>
        .ok (some { emits := [(0, dataTok (BitVec.ofNat 64 i)), (1, dataTok (BitVec.ofNat 64 v))], st := { st with table := l } })
      | [] =>
        let t : Tok := if a.kind == 5 then endTok else ⟨a.kind - n.lvl, 0⟩
        .ok (some { takes := [0, 3], emits := [(0, t), (1, t)], st := { st with mode := 0 } })
    else if a.kind == 0 && x.kind == 0 then
      if 256 <= a.pay.toNat then .error 7
      else
        let f := (fmtOf n.ty).getD fp32
        let st0 : FpSt := ⟨0, 0⟩
        let (v, st1) := st0.operand f (x.pay.toNat % 2 ^ nodeW n.ty)
        let (y, st2) := match findBy Prod.fst a.pay.toNat st.table with
          | some (_, e) =>
            let (u, st1) := st1.operand fp32 e
            fpRound fp32 n.rnd (addVal (n.rnd == 2) u v) st1
          | none => (fp32.exact v, st1)
        .ok (some { takes := [0, 3], st := { st with table := putBy Prod.fst (a.pay.toNat, y) st.table }, flags := st2.flags })
    else if a.kind != x.kind || a.kind == 0 then .error 6
    else if a.kind != 5 && a.kind - 1 < n.lvl then .ok (some { takes := [0, 3], st := st })
    else .ok (some { st := { st with mode := 1 } })
  | _, _ => .ok none

/-- A B node (R228): it takes a token while it has room, else emits its oldest. -/
def fireB (r : RRun) (k : Nat) (p : Word) (st : RNodeSt) : Fired :=
  let out := if r.free k 0 then st.held.head? else none
  let left := if out.isSome then st.held.tail else st.held
  let inn := if left.length < p.toNat then r.head k 0 else none
  if out.isNone && inn.isNone then .ok none
  else
    .ok (some { takes := if inn.isSome then [0] else [], emits := (out.toList.map fun t => (0, t)),
                st := { st with held := left ++ inn.toList } })

/-! ### Memory ports (R229-R232) -/

/-- How a step of the reef ends: it made progress, it could do nothing, or the opcode faults. -/
inductive Moved where
  | yes (r : RRun) (s : State)
  | no
  | fault (t : TrapRec)

/-- The loads among the tokens that a load node holds: issued, or performed and not yet passed on. -/
def loadsIn (l : List Tok) : Nat := (l.filter fun t => t.kind == 0 || t.kind == 8).length

/-- The first accesses of an M node that have all been performed: of a load node, those before the oldest that it has issued and not
performed. -/
def RNodeSt.done (n : RNode) (st : RNodeSt) : Nat :=
  if n.op <= 1 then (match st.held.findIdx? fun t => t.kind == 0 with | some i => st.cnt - loadsIn (st.held.drop i) | none => st.cnt)
  else st.perf

/-- The first accesses of node `k` that have all been performed (R230). -/
def RRun.doneOf (r : RRun) (k : Nat) : Nat :=
  match r.img.nodes[k]?, r.nodes[k]? with | some n, some st => st.done n | _, _ => 0

/-- The ORDER edges into an M node allow its access of a number, counted from 0 (R230). -/
def RRun.orderedAt (r : RRun) (k n : Nat) : Bool :=
  r.img.edges.all fun e => !(e.ek == 1 && e.dst == k) || decide (n < r.doneOf e.src)

/-- The ORDER edges into an M node allow its next access (R230). -/
def RRun.ordered (r : RRun) (k : Nat) : Bool := r.orderedAt k (r.doneOf k)

/-- One load or store of an M node at an address (R229, R232): the value read, or nothing for a store. -/
def portAccess (r : RRun) (n : RNode) (va : Word) (data : Option Word) (s : State) : Except (Sum TrapRec Unit) (Word × RRun × State) :=
  let w := typeWidth n.ty
  if va.toNat % (w / 8) != 0 then .error (.inl ⟨7, va, 0, 7⟩)
  else
    match data with
    | none =>
      match access va (w / 8) .read 7 true s with
      | .trap t => .error (.inl t)
      | .wait _ => .error (.inr ())
      | .ok pa t => .ok (BitVec.ofInt 64 (perTag n.ty w (t.loadNum pa (w / 8))), { r with set := r.set ||| t.loadPv pa }, t)
    | some v =>
      match access va (w / 8) .write 7 false s with
      | .trap t => .error (.inl t)
      | .wait _ => .error (.inr ())
      | .ok pa t =>
        match writeCheck va pa r.set 7 t with
        | some e => .error (.inl e)
        | none => .ok (0, r, storePa pa (toLeBytes (w / 8) v.toNat) r.set t)

/-- The address of an M node's element (R229). -/
def portAddr (n : RNode) (p idx : Word) : Word := p + idx * BitVec.ofNat 64 (typeWidth n.ty / 8)

/-- The address and, for a store, the data of the access that an M node performs next, where its inputs, its output and the ORDER
edges let it (R229, R230). -/
def accessDue (r : RRun) (k : Nat) (n : RNode) (p : Word) (st : RNodeSt) : Option (Word × Option Word) :=
  if !r.ordered k then none
  else
    match n.op with
    | 0 | 1 => st.held.head?.bind fun t => if t.kind == 0 && r.free k 0 then some (t.pay, none) else none
    | 2 => (r.head k 1).bind fun t => if t.kind == 0 then some (portAddr n p (BitVec.ofNat 64 st.cnt), some t.pay) else none
    | _ =>
      match r.head k 0, r.head k 1 with
      | some a, some b => if st.drain.isEmpty && a.kind == 0 && b.kind == 0 then some (portAddr n p a.pay, some b.pay) else none
      | _, _ => none

/-- An access of an M node waits for its page: a memory access is pending (R243). -/
def memPending (r : RRun) (s : State) : Bool :=
  (List.range r.img.nodes.length).any fun k =>
    match r.img.nodes[k]?, r.nodes[k]? with
    | some n, some st =>
      n.kind == 4 && (match accessDue r k n (r.ps[k]?.getD 0) st with
        | some (a, d) => (match portAccess r n a d s with | .error (.inr _) => true | _ => false)
        | none => false)
    | _, _ => false

/-- The load that stands at place `i` of those that node `k` holds, issued and not performed, where the ORDER edges allow it: the outcome of
its access. -/
def loadAt (k i : Nat) (r : RRun) (s : State) : Option (Except (Sum TrapRec Unit) (Word × RRun × State)) :=
  match r.img.nodes[k]?, r.nodes[k]? with
  | some n, some st =>
    match st.held[i]? with
    | some t =>
      if n.kind == 4 && n.op <= 1 && t.kind == 0 && r.orderedAt k (st.cnt - loadsIn (st.held.drop i)) then some (portAccess r n t.pay none s)
      else none
    | none => none
  | _, _ => none

/-- A load that node `k` has issued is performed where it can be; its value is held until the output takes it (R244, R247). -/
def settleLoad (k i : Nat) (x : RRun × State) : RRun × State :=
  match loadAt k i x.1 x.2, x.1.nodes[k]? with
  | some (.ok (v, r, s)), some st =>
    ({ r with nodes := r.nodes.set k { st with held := st.held.set i ⟨8, v⟩, perf := st.perf + 1 } }, s)
  | _, _ => x

/-- Every load that the opcode has issued is performed, but for those that an ORDER edge, a page or a fault holds (R244, R247). -/
def settleLoads (x : RRun × State) : RRun × State :=
  (List.range 64).foldl (fun x _ =>
    (List.range x.1.img.nodes.length).foldl (fun x k => (List.range 16).foldl (fun x i => settleLoad k i x) x) x) x

/-- A load that the opcode has issued waits for its page (R244, R247). -/
def loadsWait (r : RRun) (s : State) : Bool :=
  (List.range r.img.nodes.length).any fun k => (List.range 16).any fun i =>
    match loadAt k i r s with | some (.error (.inr _)) => true | _ => false

/-- The oldest load of an M node returns, or a STOP or END that waits behind loads passes (R221, R229). -/
def loadReturn (r : RRun) (k : Nat) (n : RNode) (st : RNodeSt) (s : State) : Moved :=
  match st.held with
  | [] => .no
  | t :: l =>
    if !r.free k 0 then .no
    else if t.kind == 8 then .yes ({ r with nodes := r.nodes.set k { st with held := l } }.emit k 0 (dataTok t.pay)) s
    else if t.kind != 0 then .yes ({ r with nodes := r.nodes.set k { st with held := l } }.emit k 0 t) s
    else if !r.ordered k then .no
    else
      match portAccess r n t.pay none s with
      | .error (.inl e) => .fault e
      | .error (.inr _) => .no
      | .ok (v, r, s) =>
        .yes ({ r with nodes := r.nodes.set k { st with held := l, perf := st.perf + 1 } }.emit k 0 (dataTok v)) s

/-- MISMATCH of the slot (R136, R224). -/
def setMism (r : RRun) (s : State) : State :=
  s.mapCore fun c => { c with reef := { c.reef with mism := (r.asid, r.slot) :: c.reef.mism.filter (· != (r.asid, r.slot)) } }

/-- An M node issues: a load enters its queue of 16, a store is performed (R221, R229). -/
def fireM (r : RRun) (k : Nat) (n : RNode) (p : Word) (st : RNodeSt) (s : State) : Moved :=
  let put (r : RRun) (st : RNodeSt) : RRun := { r with nodes := r.nodes.set k st }
  match n.op with
  | 0 | 1 =>
    if 16 <= st.held.length then .no
    else
      match r.head k 0 with
      | none => .no
      | some t =>
        let t' := if t.kind == 0 then dataTok (portAddr n p (if n.op == 1 then t.pay else BitVec.ofNat 64 st.cnt)) else t
        .yes (put (r.take k 0) { st with held := st.held ++ [t'], cnt := if t.kind == 0 then st.cnt + 1 else st.cnt }) s
  | 2 =>
    match r.head k 1 with
    | none => .no
    | some t =>
      if t.kind != 0 then .yes (r.take k 1) s
      else if !r.ordered k then .no
      else
        match portAccess r n (portAddr n p (BitVec.ofNat 64 st.cnt)) (some t.pay) s with
        | .error (.inl e) => .fault e
        | .error (.inr _) => .no
        | .ok (_, r, s) => .yes (put (r.take k 1) { st with cnt := st.cnt + 1, perf := st.perf + 1 }) s
  | _ =>
    let access? := st.drain.isEmpty && (r.head k 0).map Tok.kind == some 0 && (r.head k 1).map Tok.kind == some 0
    if access? && !r.ordered k then .no
    else
      match fireElems r k n st (fun _ => ([], 0)) with
      | .error e => .fault ⟨15, BitVec.ofNat 64 k, e, 0⟩
      | .ok none => .no
      | .ok (some f) =>
        let r' := f.takes.foldl (fun (r : RRun) p => r.take k p) r
        if access? then
          match portAccess r n (portAddr n p (((r.head k 0).map Tok.pay).getD 0)) (some (((r.head k 1).map Tok.pay).getD 0)) s with
          | .error (.inl e) => .fault e
          | .error (.inr _) => .no
          | .ok (_, r2, s) => .yes (put { r' with set := r2.set } { st with perf := st.perf + 1 }) s
        else .yes (put r' f.st) (if f.mism then setMism r s else s)

/-- Node `k` fires if it can (R220). -/
def fireNode (r : RRun) (k : Nat) (s : State) : Moved :=
  match r.img.nodes[k]?, r.nodes[k]? with
  | some n, some st =>
    let p := r.ps[k]?.getD 0
    if n.kind == 4 then fireM r k n p st s
    else
      let fired : Fired := match n.kind with
        | 0 =>
          if n.elementwise then
            fireElems r k n st fun v => let (x, fl) := dataOp n p v; (x.toList.map fun y => (0, dataTok y), fl)
          else fireA r k n p st
        | 1 => fireJ r k n st
        | 2 => fireK r k n st
        | _ => fireB r k p st
      match fired with
      | .error e => .fault ⟨15, BitVec.ofNat 64 k, e, 0⟩
      | .ok none => .no
      | .ok (some f) =>
        if f.emits.all fun x => r.free k x.1 then
          let r := f.takes.foldl (fun (r : RRun) p => r.take k p) r
          let r := f.emits.foldl (fun (r : RRun) x => r.emit k x.1 x.2) r
          .yes { r with nodes := r.nodes.set k f.st, flags := r.flags ||| f.flags } (if f.mism then setMism r s else s)
        else .no
  | _, _ => .no

/-! ### Ports (R216-R219) -/

/-- The register that a vector input port names. -/
def viReg (f : XFmt) (k : Nat) : BitVec 5 := if k == 0 then f.vi1 else if k == 1 then f.vi2 else f.vi3
/-- The register that a vector output port names. -/
def voReg (f : XFmt) (k : Nat) : BitVec 5 := if k == 0 then f.vo1 else f.vo2

/-- Vector input port `k` moves one token (R216). -/
def moveVi (r : RRun) (k : Nat) (s : State) : Moved :=
  match r.vi[k]? with
  | none => .no
  | some v =>
    let src := 0x80 + k
    if v.ended || !r.free src 0 then .no
    else
      let put (v : RVec) : RRun := { r with vi := r.vi.set k v }
      if r.bound <= v.n then .yes ((put { v with ended := true }).emit src 0 endTok) s
      else if r.img.seg.testBit k && v.n != 0 && v.seg == 0 && r.segReg != 0 && r.segIn.testBit v.n then
        .yes ((put { v with seg := 1 }).emit src 0 ⟨1, 0⟩) s
      else
        let r' := put { v with n := v.n + 1, seg := 0 }
        if r.gov.testBit v.n then
          let t := s.tagOf (viReg r.f k)
          let x := bitsAt (s.imgOf (viReg r.f k)) (v.n * t.width) t.width
          .yes (r'.emit src 0 (dataTok (BitVec.ofInt 64 (perTag t.code t.width x)))) s
        else .yes r' s

/-- Writes the image of a group without its tags and sets; its registers become dirty. -/
def Hart.pokeGroup (level : Nat) (r img : Nat) : Nat → Hart → Hart
  | 0, h => h
  | n + 1, h =>
    Hart.pokeGroup level (r + 1) (img / 2 ^ (8192 * level)) n
      (h.setV r { h.vreg r with img := img % 2 ^ (8192 * level), dirty := true })

/-- Vector output port `k` moves one token (R217); at the capacity the opcode stops (R140). -/
def moveVo (r : RRun) (k : Nat) (s : State) : Moved :=
  let dst := 0x88 + k
  match r.vo[k]?, r.head dst 0 with
  | some v, some t =>
    let put (v : RVec) : RRun := { (r.take dst 0) with vo := r.vo.set k v }
    let bound := r.img.seg.testBit (3 + k) && r.segReg != 0
    if t.kind == 5 then .yes (put { v with ended := true }) s
    else if t.kind == 0 then
      let reg := voReg r.f k
      let g := s.tagOf reg
      if capacity g.width g.count s.level <= v.n then .yes { r with phase := .more } s
      else
        let img := setBitsAt (s.imgOf reg) (v.n * g.width) g.width t.pay.toNat
        .yes (put { v with n := v.n + 1 }) (s.mapHart (Hart.pokeGroup s.level reg.toNat img g.count))
    else if bound && v.n < 8192 * s.level then
      let m := s.hart.mreg r.segReg
      .yes (put { v with seg := v.seg ||| 2 ^ v.n }) (s.mapHart fun h => h.setM r.segReg { m with bits := m.bits ||| 2 ^ v.n })
    else .yes (put v) s
  | _, _ => .no

/-- Replaces a channel port. -/
def RRun.setCh (r : RRun) (k : Nat) (c : RChan) : RRun := { r with ch := r.ch.set k (some c) }

/-- Writes the collected tokens of a channel output port as one slot (R218, R259). -/
def sendSlot (r : RRun) (k : Nat) (x : RChan) (c : Chan) (s : State) : Moved :=
  if !c.maySend then .no
  else
    match ringCheck c r.set s with
    | some t => .fault t
    | none =>
      match writeSlot c c.fills r.set 0 (slotLines c.slotl x.buf) s with
      | .error (.inl t) => .fault t
      | .error (.inr _) => .no
      | .ok s =>
        let s := releaseAt c.scope (c.key / 128) s
        let s := s.setChan { c.fill with pv := c.pv ||| r.set }
        .yes (r.setCh k { x with buf := [], ended := x.buf.any fun t => t.kind == 5 }) (growRing c r.set s)

/-- The channel of a port in use, while the port's own end of it is open (R218, R243). -/
def RChan.openIn (x : RChan) (s : State) : Option Chan :=
  (s.chanAt x.key).filter fun c => if x.inp then (c.branch x.branch).any Branch.isOpen else c.sendOpen

/-- Channel port `k` moves one token (R218). An output port fills a slot when it is full or holds END (log entry 72). -/
def moveCh (r : RRun) (k : Nat) (s : State) : Moved :=
  let code := 0x90 + k
  match (r.ch[k]?).join with
  | none => .no
  | some x =>
    if x.ended then .no
    else
    match x.openIn s with
    | none => .fault ⟨15, BitVec.ofNat 64 code, 8, 0⟩
    | some c =>
      if x.inp then
        if x.marked || !r.free code 0 then .no
        else
          match peekTok x.key x.branch peekBound s with
          | (.tok t last _, s) =>
            let r := { r with set := r.set ||| c.pv ||| s.ringPv c }
            if t.kind == 7 then .fault ⟨15, BitVec.ofNat 64 code, 8, 0⟩
            else
              let s := acquireAt c.scope (c.key / 128) (takeTok x.key x.branch last s)
              let x := { x with moved := x.moved + 1, ended := t.kind == 5, marked := t.kind == 6 }
              if t.kind == 6 then .yes { (r.setCh k x) with frozen := true } s else .yes ((r.setCh k x).emit code 0 t) s
          | (.fail (.inl t), _) => .fault t
          | (_, s) => if s.chanAt x.key == some c then .no else .yes r s
      else if 15 * c.slotl <= x.buf.length || x.buf.any (fun t => t.kind == 5) then sendSlot r k x c s
      else
        match r.head code 0 with
        | none => .no
        | some t => .yes ((r.take code 0).setCh k { x with buf := x.buf ++ [t], moved := x.moved + 1 }) s

/-- The oldest pending drain, if it waits for the reef of this process. -/
def State.reefDrain (s : State) (asid : Nat) : Option Accum :=
  match s.isl.drains with
  | [] => none
  | n :: _ =>
    let a := s.isl.acc n
    if a.toReef && a.asid == asid && a.drain.isSome then some a else none

/-- The matrix port takes its drain, then moves one token a clk (R219, R292, R312). -/
def moveMx (r : RRun) (s : State) : Moved :=
  if !r.img.hasMx || r.mx.ended then .no
  else
    match r.mx.elems with
    | none =>
      match s.reefDrain r.asid with
      | none => .no
      | some a =>
        let ctx := match a.drain with | some x => x.ctx | none => pvEmpty
        .yes { r with mx := { r.mx with elems := some a.elems }, set := r.set ||| a.pv ||| ctx }
          (s.mapIsl fun i => { i.setAcc a.cleared with drains := i.drains.tail })
    | some e =>
      if !r.free 0x98 0 then .no
      else
        -- 128 rows of 64 elements, each row but the last followed by STOP0, and END
        let row := r.mx.pos / 65
        let col := r.mx.pos % 65
        let t : Tok := if col < 64 then dataTok (BitVec.ofNat 64 (bitsAt e (32 * (64 * row + col)) 32))
          else if row < 127 then ⟨1, 0⟩ else endTok
        .yes ({ r with mx := { r.mx with pos := r.mx.pos + 1, ended := t.kind == 5 } }.emit 0x98 0 t) s

/-- The port of an endpoint code moves one token. -/
def movePort (r : RRun) (code : Nat) (s : State) : Moved :=
  if isVi code then moveVi r (code - 0x80) s
  else if isVo code then moveVo r (code - 0x88) s
  else if isCh code then moveCh r (code - 0x90) s
  else if code == 0x98 then moveMx r s else .no

/-! ### A clk of the reef -/

/-- The opcode is complete (R242). -/
def RRun.isComplete (r : RRun) : Bool :=
  r.edges.all List.isEmpty && r.vi.all RVec.ended && r.vo.all RVec.ended
    && r.nodes.all (fun n => n.held.isEmpty && n.drain.isEmpty)
    && r.ch.all (fun c => match c with | some x => x.ended && x.buf.isEmpty | none => true)
    && (!r.img.hasMx || r.mx.ended)

/-- A channel access of a port is pending (R270): it waits for a token while the send end is open, for a slot of a window that a
branch counts in, or for a page. -/
def chPending (r : RRun) (code : Nat) (x : RChan) (s : State) : Bool :=
  match x.openIn s with
  | none => false
  | some c =>
    if x.ended || x.marked then false
    else if x.inp then
      r.free code 0 && (match (peekTok x.key x.branch peekBound s).1 with
        | .empty => c.sendOpen
        | .fail (.inr _) => true
        | _ => false)
    else
      (decide (15 * c.slotl <= x.buf.length) || x.buf.any fun t => t.kind == 5) &&
        (if c.maySend then
           (match writeSlot c c.fills r.set 0 (slotLines c.slotl x.buf) s with | .error (.inr _) => true | _ => false)
         else c.branches.any Branch.counts)

/-- A memory, channel or matrix access is pending (R243, R270). -/
def RRun.pending (r : RRun) (s : State) : Bool :=
  memPending r s || (r.ch.zipIdx.any fun c => c.1.any fun x => chPending r (0x90 + c.2) x s) || (r.img.hasMx && r.mx.elems.isNone)

/-- Applies one firing or move of a running opcode, of node or endpoint code `k`. A fault stops the opcode with its state, once every
issued access has been performed, and so does a stop at the capacity (R140, R244, R246). -/
def applyMove (k : Nat) (m : RRun → State → Moved) (x : RRun × State × Bool) : RRun × State × Bool :=
  let (r, s, b) := x
  if r.phase != .running || r.frozen then x
  else
    match m r s with
    | .yes r s => if r.phase == .more then (let (r, s) := settleLoads (r, s); (r, s, true)) else (r, s, true)
    | .no => (r, s, b)
    | .fault t =>
      let (r, s) := settleLoads ({ r with phase := .fault t, first := some k }, s)
      (r, s, true)

/-- The oldest load of node `k` returns, if it is a load node. -/
def returnAt (k : Nat) (r : RRun) (s : State) : Moved :=
  match r.img.nodes[k]?, r.nodes[k]? with
  | some n, some st => if n.kind == 4 && n.op <= 1 then loadReturn r k n st s else .no
  | _, _ => .no

/-- What a node or endpoint code does that can fault. -/
def moveAt (k : Nat) (r : RRun) (s : State) : Moved :=
  if 0x80 <= k then movePort r k s
  else match r.img.nodes[k]? with
    | some n => if n.kind == 4 && n.op <= 1 then returnAt k r s else fireNode r k s
    | none => .no

/-- The access or firing that faulted is tried before anything else (R244). -/
def tryFirst (r : RRun) (s : State) : RRun × State × Bool :=
  match r.first with
  | none => (r, s, false)
  | some k => applyMove k (moveAt k) ({ r with first := none }, s, false)

/-- The state after the loads that may return and the nodes that may fire, in the free order of the counter (R220, R230; log
entry 7). -/
def fireAll (x : RRun × State × Bool) : RRun × State × Bool :=
  let (r, s, b) := x
  let (c, s) := if r.img.hasM then s.nextFree else (0, s)
  let order := (List.range r.img.nodes.length).foldl (fun l k => putBy (fun x : Nat × Nat => x.1 * 64 + x.2)
    ((if r.img.hasM then Config.orderKey c k else k), k) l) []
  order.foldl (fun x e =>
    let k := e.2
    applyMove k (fun r s => fireNode r k s) (applyMove k (returnAt k) x)) (r, s, b)

/-- The ports of an image, inputs and outputs. -/
def portCodes : List Nat := [0x80, 0x81, 0x82, 0x90, 0x91, 0x98, 0x88, 0x89]

/-- One clk of a running opcode (R221, R242, R243), in the focus of its hart. -/
def stepRun (r : RRun) (s : State) : RRun × State :=
  if r.phase != .running || r.frozen then (r, s)
  else
    let x := portCodes.foldl (fun x code => applyMove code (fun r s => movePort r code s) x) (tryFirst r s)
    let (r, s, b) := fireAll x
    let r := { r with idle := if b || r.pending s then 0 else r.idle + 1 }
    if r.phase == .running && r.isComplete then ({ r with phase := .complete }, s) else (r, s)

/-- Changes the reef of the current core. -/
def State.mapReef (s : State) (f : Reef → Reef) : State := s.mapCore fun c => { c with reef := f c.reef }

/-- Acts on the running opcode of the current core, in the focus of its hart. -/
def onRun (f : RRun → State → RRun × State) (s : State) : State :=
  match s.core.reef.run with
  | none => s
  | some r =>
    onHart ⟨s.core.num, r.hart⟩ (fun s =>
      let (r, s) := f r s
      s.mapReef fun x => { x with run := some r }) s

/-- The stall fault (R243 reason 9): no progress for 2^16 clk with nothing pending. No node is at fault, and TRAPINFO reads 0 (log
entry 72). -/
def stallRun (r : RRun) (s : State) : RRun × State :=
  if r.phase == .running && !r.frozen && 65536 <= r.idle && !r.pending s then ({ r with phase := .fault ⟨15, 0, 9, 0⟩ }, s) else (r, s)

/-- One clk of the reef of the current core. -/
def reefClk (s : State) : State :=
  onRun (fun r s => let (r, s) := stepRun r s; stallRun r s) s

/-- The issued accesses of the opcode of the current core are performed, as far as they can be (R244, R247). -/
def freezeRun (s : State) : State := onRun (fun r s => settleLoads (r, s)) s

/-- An issued access of the opcode of the current core waits for its page (R244, R247). -/
def State.runWaits (s : State) : Bool :=
  match s.core.reef.run with
  | some r => loadsWait r (focus ⟨s.core.num, r.hart⟩ s)
  | none => false

/-- A firing or move of node or endpoint code `k` as a step of its own. -/
def runMove (k : Nat) (m : RRun → State → Moved) (r : RRun) (s : State) : RRun × State :=
  if r.phase != .running || r.frozen then (r, s)
  else
    let (r, s, _) := applyMove k m (tryFirst r s)
    (r, s)

/-- NODE_FIRING (R220, R223-R229). -/
def execNodeFiring (core node : Nat) (s : State) : Out :=
  .next (onCore core (onRun (runMove node fun r s => fireNode r node s)) s)
/-- M_NODE_LOAD_RETURN (R221, R229, R232). -/
def execMNodeLoadReturn (core node : Nat) (s : State) : Out :=
  .next (onCore core (onRun (runMove node (returnAt node))) s)
/-- PORT_TOKEN_MOVE (R216-R219, R221): the port of an endpoint code (R235). -/
def execPortTokenMove (core port : Nat) (s : State) : Out :=
  .next (onCore core (onRun (runMove port fun r s => movePort r port s)) s)
/-- REEF_STALL_TIMEOUT (R243, R245). -/
def execReefStallTimeout (core : Nat) (s : State) : Out := .next (onCore core (onRun stallRun) s)
/-- OPCODE_COMPLETE (R242). -/
def execOpcodeComplete (core : Nat) (s : State) : Out :=
  .next (onCore core (onRun fun r s =>
    if r.phase == .running && !r.frozen && r.isComplete then ({ r with phase := .complete }, s) else (r, s)) s)

end Sys2Proof.Machine
end

