-- ==== Sys2Proof/Machine/ReefIsa.lean ====
section
/-! DEFINITION. XOP, BIND, UNBIND and XSTAT (R132-R140), placement (R238), continuations (R246) and the reef queue. -/

namespace Sys2Proof.Machine

/-! ### Placement (R238) -/

/-- The nodes of a kind that the resident images hold. -/
def State.placedNodes (s : State) (k : Nat) : Nat :=
  s.core.reef.placed.foldl (fun n p => n + (match s.bindOf p.asid p.slot with | some b => kindCount b.img.nodes k | none => 0)) 0

/-- The nodes of an image fit beside the resident images. -/
def State.fits (s : State) (im : RImage) : Bool :=
  (List.range 5).all fun k => s.placedNodes k + kindCount im.nodes k <= kindLimit k

/-- Evicts resident images, the least recently invoked first, until an image fits (R238). -/
def evictFor (im : RImage) : Nat → State → State
  | 0, s => s
  | n + 1, s =>
    if s.fits im then s
    else
      match s.core.reef.placed with
      | [] => s
      | p :: l =>
        let v := l.foldl (fun a b => if b.used < a.used then b else a) p
        evictFor im n (s.mapReef fun r =>
          { r with placed := r.placed.filter (· != v),
                   evicted := (v.asid, v.slot) :: r.evicted.filter (· != (v.asid, v.slot)) })

/-- The image of a slot is placed on the current core, and counts as invoked now. -/
def placeImage (asid slot : Nat) (im : RImage) (s : State) : State :=
  let here := s.core.reef.placed.any fun p => p.asid == asid && p.slot == slot
  let s := if here then s else evictFor im (s.core.reef.placed.length + 1) s
  s.mapReef fun r =>
    { r with placed := ⟨asid, slot, r.clock + 1⟩ :: r.placed.filter (fun p => !(p.asid == asid && p.slot == slot)), clock := r.clock + 1 }

/-- IMAGE_PLACEMENT (R238): the image bound to a slot for the process that runs on the core is placed. -/
def execImagePlacement (core : Nat) (slot : BitVec 4) (s : State) : Out :=
  .next (onCore core (fun s =>
    match s.allHarts.find? fun h => h.core == core && h.status != .free with
    | none => s
    | some h =>
      let asid := asidOf h.csr.ptroot
      match s.bindOf asid slot.toNat with | some b => placeImage asid slot.toNat b.img s | none => s) s)

/-- A slot's placed forms and continuations go, on every core, for one process of the partition (R133, R135, R246). -/
def dropForms (asid slot : Nat) (s : State) : State :=
  let p := s.part.map Part.num
  let mine (n : Nat) : Bool := (s.partOfCore n).map Part.num == p
  s.mapCores fun c =>
    if mine c.num then
      { c with reef := { c.reef with placed := c.reef.placed.filter (fun x => !(x.asid == asid && x.slot == slot)),
                                     conts := c.reef.conts.filter (fun x => !(x.asid == asid && x.slot == slot)) } }
    else c

/-! ### The reef queue (R134, R138, R139) -/

/-- A hart that entered the reef queue is still there to be served; a trap takes it out (R269, R416). -/
def State.reefWaits (s : State) (n : Nat) : Bool :=
  match (s.hartAt ⟨s.core.num, n⟩).status with
  | .running => true
  | .waiting .start | .waiting .stopped => false
  | .waiting _ => true
  | _ => false

/-- It is the current hart's turn: no opcode runs and no other hart waits before it. -/
def State.reefTurn (s : State) : Bool :=
  s.core.reef.run.isNone &&
    (match s.core.reef.queue.filter fun n => n == s.hart.ix || s.reefWaits n with
     | [] => true
     | n :: _ => n == s.hart.ix)

/-- Enters the reef queue, once (R134, R269). -/
def enterReef (s : State) : State :=
  s.mapReef fun r => if r.queue.contains s.hart.ix then r else { r with queue := r.queue ++ [s.hart.ix] }

/-- Enters the reef queue and waits. -/
def joinReef (s : State) : State := waitFor .reef (enterReef s)

/-- REEF_QUEUE_HEAD (R134, R139): the hart at the head of the queue issues once no opcode runs. -/
def execReefQueueHead (core : Nat) (s : State) : Out :=
  .next (onCore core (fun s =>
    if s.core.reef.run.isSome then s
    else
      match s.core.reef.queue.filter s.reefWaits with
      | [] => s
      | n :: _ =>
        if (s.hartAt ⟨core, n⟩).queue.isEmpty then { s with grants := s.grants ++ [⟨core, n⟩] }
        else { s with vgrants := s.vgrants ++ [⟨core, n⟩] }) s)

/-! ### BIND, UNBIND, XSTAT (R132-R136) -/

/-- Reads the bytes of an image (R133), page by page. -/
def readParts : List (Word × Nat) → State → Except (Sum TrapRec Wait) (List Byte × PvSet × State)
  | [], s => .ok ([], pvEmpty, s)
  | (va, n) :: l, s =>
    match access va n .read 2 true s with
    | .trap t => .error (.inl t)
    | .wait w => .error (.inr w)
    | .ok pa t =>
      match readParts l t with
      | .error e => .error e
      | .ok (r, p, u) => .ok (toLeBytes n (t.loadNum pa n) ++ r, t.loadPv pa ||| p, u)

/-- Reads and validates an image (R133, R236): its code in TRAPINFO's form, a trap or a wait, or the image with the sets of
its pages. -/
def readImage (a : Word) (s : State) : Except (Sum (Sum TrapRec Wait) Nat) (RImage × PvSet × State) :=
  match readParts [(a, 64)] s with
  | .error e => .error (.inl e)
  | .ok (h, _, _) =>
    let hdr := h.toArray
    match validateImage hdr with
    | .error 1 => .error (.inr 1)
    | .error 2 => .error (.inr 2)
    | _ =>
      match readParts (pageParts 2 a (imageSize hdr)) s with
      | .error e => .error (.inl e)
      | .ok (b, p, t) =>
        match validateImage b.toArray with
        | .error c => .error (.inr c)
        | .ok im => .ok (im, p, t)

/-- BIND (R132-R134, R236). -/
def execBind (f : RFmt) (s : State) : Out :=
  .next (gated (.bind f) (fun s =>
    if !s.reefTurn then joinReef s
    else
      let a := s.getS f.sa
      let slot := f.sd.toNat % 16
      if a.toNat % 64 != 0 then scalarTrap ⟨7, a, 0, 2⟩ s
      else
        match readImage a s with
        | .error (.inl (.inl t)) => scalarTrap t s
        | .error (.inl (.inr w)) => waitFor w (enterReef s)
        | .error (.inr c) => scalarTrap ⟨15, BitVec.ofNat 64 c, 4, 0⟩ s
        | .ok (im, p, t) =>
          let t := (leaveReef t).addCtx (s.getP f.sa)
          let b : Binding := ⟨s.partNum, s.asid, slot, a, im, s.getP f.sa ||| t.ctx ||| p⟩
          let t := dropForms s.asid slot t
          let t := { t with binds := b :: t.binds.filter fun x => !(x.part == b.part && x.asid == b.asid && x.slot == slot) }
          retire (placeImage s.asid slot im t)) s)

/-- UNBIND (R135). -/
def execUnbind (f : RFmt) (s : State) : Out :=
  .next (gated (.unbind f) (fun s =>
    if !s.reefTurn then joinReef s
    else
      let slot := f.sd.toNat % 16
      let t := dropForms s.asid slot (leaveReef s)
      retire { t with binds := t.binds.filter fun x => !(x.part == s.partNum && x.asid == s.asid && x.slot == slot) }) s)

/-- The current hart's continuation on a slot that stopped at the capacity (R136, R246). -/
def isMore (h asid slot : Nat) (r : RRun) : Bool := r.hart == h && r.asid == asid && r.slot == slot && r.phase == .more

/-- The state word of a slot (R136). -/
def State.xstatWord (s : State) (slot : Nat) : Word :=
  match s.bindOf s.asid slot with
  | none => 0
  | some b =>
    let r := s.core.reef
    let bit (c : Bool) (n : Nat) : Nat := if c then 2 ^ n else 0
    BitVec.ofNat 64 (1 + bit (r.placed.any fun p => p.asid == s.asid && p.slot == slot) 1
      + bit (r.evicted.contains (s.asid, slot)) 2 + bit (r.conts.any (isMore s.hart.ix s.asid slot)) 3
      + bit (r.mism.contains (s.asid, slot)) 4 + bit b.img.hasCh 5 + bit b.img.hasMx 6 + b.img.iar * 128 + b.img.oar * 512)

/-- XSTAT (R136). -/
def execXstat (f : RFmt) (s : State) : Out :=
  .next (gated (.xstat f) (fun s =>
    if !s.reefTurn then joinReef s
    else
      let slot := f.sb.toNat % 16
      let v := s.xstatWord slot
      let c := s.getS f.sa
      let t := (leaveReef s).mapReef fun r =>
        { r with mism := if c.getLsbD 4 then r.mism.filter (· != (s.asid, slot)) else r.mism,
                 conts := if c.getLsbD 3 then r.conts.filter (fun x => !isMore s.hart.ix s.asid slot x) else r.conts,
                 evicted := if c.getLsbD 2 then r.evicted.filter (· != (s.asid, slot)) else r.evicted }
      retire (t.setS f.sd v (s.getP f.sa ||| s.ctx))) s)

/-! ### XOP (R137-R140, R242-R246) -/

/-- The reef trap at issue, with the instruction word (R138). -/
def reefTrap (f : XFmt) (reason : Nat) (s : State) : State :=
  vtrap ⟨15, encode (.xop f), reason, 0⟩ (encode (.xop f)) s

/-- Port fields and chain bits beyond the image's arity are zero (R138 reason 2). -/
def fieldsFit (f : XFmt) (im : RImage) : Bool :=
  (decide (1 <= im.iar) || (f.vi1 == 0 && !f.c1)) && (decide (2 <= im.iar) || (f.vi2 == 0 && !f.c2))
    && (decide (3 <= im.iar) || (f.vi3 == 0 && !f.c3)) && (decide (1 <= im.oar) || f.vo1 == 0)
    && (decide (2 <= im.oar) || f.vo2 == 0)

/-- The input and output registers in use. -/
def xopIns (f : XFmt) (im : RImage) : List (BitVec 5) := [f.vi1, f.vi2, f.vi3].take im.iar
/-- The output registers in use. -/
def xopOuts (f : XFmt) (im : RImage) : List (BitVec 5) := [f.vo1, f.vo2].take im.oar

/-- Outputs overlap each other or an input (R138 reason 3). -/
def xopOverlap (f : XFmt) (im : RImage) (s : State) : Bool :=
  let g (r : BitVec 5) : Nat := (s.tagOf r).count
  let hit (a b : BitVec 5) : Bool := overlaps a.toNat (g a) b.toNat (g b)
  (im.oar == 2 && hit f.vo1 f.vo2) || (xopOuts f im).any fun o => (xopIns f im).any fun i => hit o i

/-- The tag checks of XOP, over every named group (R138); the input groups hold the element bound (R140). -/
def xopTags (f : XFmt) (im : RImage) (bound : Nat) : TagCheck :=
  { reads := xopIns f im ++ xopOuts f im, short := xopIns f im, holds := (xopIns f im).map fun r => (r, bound) }

/-- A channel port of an image: none where it is not used, else its direction. -/
def RImage.chPort (im : RImage) (k : Nat) : Option Bool :=
  let ds := dataEdges im.edges
  if ds.any fun e => e.src == 0x90 + k then some true
  else if ds.any fun e => e.dst == 0x90 + k then some false else none

/-- The channel ports of an XOP with their handles (R218); none where a handle is refused, one that names the other kind of end among
them (log entry 72). -/
def xopChans (f : XFmt) (im : RImage) (s : State) : Option (List (Option RChan)) :=
  let one (k : Nat) : Option (Option RChan) :=
    match im.chPort k with
    | none => some none
    | some inp =>
      let r := f.sp.toNat + 1 + k
      if 31 < r then none
      else
        match s.handle (s.getS (BitVec.ofNat 5 r)) with
        | none => none
        | some (e, c) => if (e.end_ != 0) == inp then some (some ⟨c.key, e.end_ - 1, inp, [], 0, false, false⟩) else none
  match one 0, one 1 with
  | some a, some b => some [a, b]
  | _, _ => none

/-- A fresh node. -/
def RNodeSt.fresh : RNodeSt := ⟨0, 0, [], [], [], 0⟩

/-- The invocation that an XOP starts or resumes (R138, R140, R232, R240, R244, R246). -/
def xopRun (f : XFmt) (b : Binding) (ps : List Word) (chs : List (Option RChan)) (old : Option RRun) (s : State) : RRun :=
  let im := b.img
  let bound := match old with | some r => r.bound | none => s.vl
  let gov := if f.gm == 0 then 2 ^ bound - 1 else (s.hart.mreg f.gm.toNat).bits % 2 ^ bound
  let (seg, segPv) := s.segBits
  let ins := (xopIns f im).foldl (fun p r => p ||| s.pvOf r) pvEmpty
  let set := b.pv ||| ins ||| (s.govern f.gm).2 ||| s.vlPv ||| s.getP f.sp ||| segPv ||| s.ctx
  let vo := (List.range im.oar).map fun _ => (⟨0, 0, false⟩ : RVec)
  match old with
  | none =>
    { hart := s.hart.ix, asid := s.asid, slot := f.slot.toNat, img := im, ps := ps, f := f, bound := bound, gov := gov,
      segIn := seg, segReg := s.segmaskReg, nodes := im.nodes.map fun _ => RNodeSt.fresh, edges := im.edges.map fun _ => [],
      vi := (List.range im.iar).map fun _ => ⟨0, 0, false⟩, vo := vo, ch := chs, mx := ⟨none, 0, false⟩, set := set,
      flags := 0, idle := 0, frozen := false, phase := .running, first := none }
  | some r =>
    let more := r.phase == .more
    let ch := (r.ch.zip chs).map fun x => match x.1, x.2 with
      | some a, some n => some { a with key := n.key, branch := n.branch, marked := false }
      | _, _ => none
    { r with f := f, gov := gov, segIn := seg, segReg := s.segmaskReg, vo := if more then vo else r.vo, ch := ch,
             set := r.set ||| set, flags := if more then 0 else r.flags, idle := 0, frozen := false, phase := .running }

/-- An XOP with M nodes or channel ports starts behind a full fence of its hart (R231, R337, R359). -/
def fullFence (on : Bool) (f : State → State) (s : State) : State :=
  if on && !s.dry then watchGate (fenceGate true true f) s else f s

/-- XOP at the head of the reef queue (R138): the checks, then the invocation starts. -/
def startXop (f : XFmt) (s : State) : State :=
  match s.bindOf s.asid f.slot.toNat with
  | none => reefTrap f 1 s
  | some b =>
    let im := b.img
    let old := s.core.reef.conts.find? fun r => r.hart == s.hart.ix && r.asid == s.asid && r.slot == f.slot.toNat
    let ps := match old with
      | some r => r.ps
      | none => im.nodes.map fun n => if n.sp then s.getS f.sp + n.param else n.param
    if !fieldsFit f im then reefTrap f 2 s
    else if xopOverlap f im s then reefTrap f 3 s
    else
      match firstBad (fun (x : RNode × Word) => x.1.paramOk x.2) (im.nodes.zip ps) with
      | some k => vtrap ⟨15, BitVec.ofNat 64 k, 10, 0⟩ (encode (.xop f)) s
      | none =>
        match xopChans f im s with
        | none => reefTrap f 8 s
        | some chs =>
          match tagReason (xopTags f im (old.elim s.vl RRun.bound)) s with
          | some r => tagTrap (.xop f) r s
          | none =>
            fullFence (im.hasM || im.hasCh) (fun s =>
              let run := xopRun f b ps chs old s
              let s := placeImage s.asid f.slot.toNat im (leaveReef s)
              waitFor .reef (s.mapReef fun r =>
                { r with run := some run,
                         conts := r.conts.filter fun x => !(x.hart == run.hart && x.asid == run.asid && x.slot == run.slot) })) (enterReef s)

/-- The segment mask of the bound output port at the end of an invocation (R217). -/
def endSeg (r : RRun) (s : State) : State :=
  match (List.range 2).find? fun k => r.img.seg.testBit (3 + k) with
  | none => s
  | some k =>
    match r.vo[k]? with
    | none => s
    | some v =>
      if r.segReg == 0 then s
      else
        let n := min (v.n - 1) (8192 * s.level - 1)
        s.mapHart fun h =>
          let m := h.mreg r.segReg
          h.setM r.segReg ⟨setBitsAt m.bits 1 n (v.seg / 2), m.pv ||| r.set⟩

/-- The sets of a group's registers gain S. -/
def Hart.orGroup (p : PvSet) (r : Nat) : Nat → Hart → Hart
  | 0, h => h
  | n + 1, h => Hart.orGroup p (r + 1) n (h.setV r { h.vreg r with pv := (h.vreg r).pv ||| p, dirty := true })

/-- What a fault leaves in the registers carries S_run: the outputs written, and the bound mask where a bit of it has been set (R217,
R232, R244, R245). -/
def keepSets (r : RRun) (s : State) : State :=
  (List.range 2).foldl (fun s k =>
    match r.vo[k]? with
    | none => s
    | some v =>
      let o := voReg r.f k
      let s := if v.n == 0 then s else s.mapHart (Hart.orGroup r.set o.toNat (s.tagOf o).count)
      if r.img.seg.testBit (3 + k) && r.segReg != 0 && v.seg != 0 then
        s.mapHart fun h => let m := h.mreg r.segReg; h.setM r.segReg { m with pv := m.pv ||| r.set }
      else s) s

/-- The results of an XOP that completed or stopped at the capacity (R138, R140, R179, R232, R242); vl may then pass what a mask holds (log
entry 79). -/
def finishXop (r : RRun) (s : State) : State :=
  let n (k : Nat) : Nat := (r.vo[k]?).elim 0 RVec.n
  let p := r.set
  let s := endSeg r s
  let s := (xopOuts r.f r.img).foldl (fun s o => s.mapHart (Hart.orGroup p o.toNat (s.tagOf o).count)) s
  let s := s.mapCsr fun c => { c with vl := n 0, xcnt2 := BitVec.ofNat 64 (n 1), fstat := c.fstat ||| BitVec.ofNat 6 r.flags }
  let s := s.mapHart fun h =>
    ((h.setCsrPv 0x001 p).setCsrPv 0x008 p).setCsrPv 0x003 (h.csrPv 0x003 ||| p)
  let s := if r.f.cw then s.setS r.f.sd (BitVec.ofNat 64 (n 0 + n 1 * 2 ^ 32)) p else s
  let s := if r.img.hasM then s.addCtx p else s
  let more := r.phase == .more
  retire (s.mapReef fun x =>
    { x with run := none,
             conts := if more then r :: x.conts.filter (fun y => y.hart != r.hart)
                      else x.conts.filter (fun y => !(y.hart == r.hart && y.asid == r.asid && y.slot == r.slot)) })

/-- A vector-side trap whose item, at an address, is dropped from the frame (R245, R417). -/
def vtrapGone (t : TrapRec) (at_ resume : Word) (s : State) : State :=
  let m := (route s.hart t.cause).1
  deliver t at_ (s.mapHart fun h => { h with heldBy := some m, heldSeq := s.jobSeq, resume := resume, cur := none, prog := 0, send := none, event := true })

/-- The trap of an XOP that is dropped. -/
def vtrapDrop (t : TrapRec) (s : State) : State :=
  match s.hart.cur with
  | some _ => raiseTrap t s
  | none => vtrapGone t s.hart.pc (s.hart.pc + 8) s

/-- A running opcode that has faulted (R243-R246): its state becomes the hart's continuation, but for reason 9, and a continuation of
another slot is discarded. -/
def faultXop (r : RRun) (t : TrapRec) (f : XFmt) (s : State) : State :=
  let stall := t.cause == 15 && t.detail == 9
  let s := keepSets r s
  let s := if r.img.hasM then s.addCtx r.set else s
  let s := s.mapReef fun x =>
    { x with run := none,
             conts := (if stall then [] else [r]) ++ x.conts.filter fun y => y.hart != r.hart }
  if stall then vtrapDrop t s else vtrap t (encode (.xop f)) s

/-- A running opcode that has stopped writes its results or faults, once every access that it has issued has been performed (R244). -/
def endXop (r : RRun) (f : XFmt) (s : State) : State :=
  let (r, s) := settleLoads (r, s)
  if loadsWait r s then waitFor .reef (s.mapReef fun x => { x with run := some r })
  else
    match r.phase with
    | .fault t => faultXop r t f s
    | _ => finishXop r s

/-- XOP (R137-R140, R243-R246): it waits for its turn, starts its invocation, and writes its results once that has ended. -/
def execXop (f : XFmt) (s : State) : Out :=
  .next (gated (.xop f) (fun s =>
    match s.core.reef.run with
    | some r =>
      if r.hart == s.hart.ix then
        if r.phase == .running then waitFor .reef s else endXop r f s
      else joinReef s
    | none => if s.reefTurn then startXop f s else joinReef s) s)

end Sys2Proof.Machine
end

