-- ==== Sys2Proof/Machine/Tags.lean ====
section
/-! DEFINITION. Waiting for tags: TWAIT and TPOLL (R372). -/

namespace Sys2Proof.Machine

/-- A fill of slot `q` that the current hart has posted has not completed (R305, R372). -/
def State.fillPending (s : State) (q : Nat) : Bool :=
  let mine (x : MqItem) : Bool := x.who == s.hart.id && x.fillSlot == some (BitVec.ofNat 5 q)
  s.hart.mq.any mine || s.isl.order.any mine || s.isl.fills.any mine

/-- What a tag answers (R372): out of range, still running, or a word with the set of its engine. -/
inductive TagAnswer where
  | bad
  | running (p : PvSet)
  | word (v : Word) (p : PvSet)

/-- Bit 63, which marks a status as final. -/
def finalBit : Word := 0x8000000000000000

/-- The answer of tag `n` (R372). -/
def State.tagAnswer (s : State) (n : Nat) : TagAnswer :=
  if n < 64 then
    match findBy EngTag.num n s.hart.tags with
    | none => .word (finalBit + 0xFF) pvEmpty
    | some t =>
      match t.state with
      | .done st => .word (st ||| finalBit) t.pv
      | .running => .running t.pv
      | .free => .word (finalBit + 0xFF) pvEmpty
  else if n < 256 || 287 < n then .bad
  else if s.fillPending (n - 256) then .running pvEmpty else .word finalBit pvEmpty

/-- TWAIT (R372). -/
def execTwait (f : RFmt) (s : State) : Out :=
  let i : Instr := .twait f
  .next (gated i (fun s =>
    let n := (s.getS f.sa).toNat
    match s.tagAnswer n with
    | .bad => engTrap i 4 s
    | .running _ => waitFor .tag s
    | .word v p =>
      let t := s.addCtx (s.getP f.sa)
      let t := if n < 64 then t.mapHart fun h => { h with tags := eraseBy EngTag.num n h.tags } else t
      retire (t.setS f.sd v (p ||| s.getP f.sa ||| t.ctx))) s)

/-- TPOLL (R372). -/
def execTpoll (f : RFmt) (s : State) : Out :=
  let i : Instr := .tpoll f
  .next (gated i (fun s =>
    match s.tagAnswer (s.getS f.sa).toNat with
    | .bad => engTrap i 4 s
    | .running p => retire (s.setS f.sd 0 (p ||| s.getP f.sa ||| s.ctx))
    | .word v p => retire (s.setS f.sd v (p ||| s.getP f.sa ||| s.ctx))) s)

end Sys2Proof.Machine
end

