-- ==== Sys2Proof/Machine/Post.lean ====
section
/-! DEFINITION. Fetching and posting: the word at an address, the words of a convoy, what the scalar unit posts to a hart's vector
queue and what it holds (R27, R52, R53, R71, R72, R113, R130, R148, R158, R415), and the delivery of a trap that waits for the
hart's next instruction. -/

namespace Sys2Proof.Machine

/-! ### Fetch (R15, R27, R355, R361) -/

/-- The line of an address in the core's L1 instruction cache. -/
def State.iline (s : State) (line : Nat) : Option ILine := s.core.icache.find? fun l => l.line == line

/-- A line enters the core's L1 instruction cache of 512 lines, in place of one that a free value chooses where it is full (R15; log
entry 67). -/
def fillInstr (line : Nat) (s : State) : State :=
  let l := s.core.icache
  let x : ILine := ⟨line, s.homeNum (line * 128) 128⟩
  if l.any fun x => x.line == line then s
  else if l.length < 512 then s.mapCore fun c => { c with icache := x :: l }
  else
    match l[Config.orderKey s.freeCtr 0 % 512]? with
    | some y => { s with core := { s.core with icache := x :: l.erase y }, freeCtr := s.freeCtr + 1 }
    | none => s

/-- Each of `n` bytes is that of `old` or of `new`, as the free order of number `c` chooses. -/
def mixBytes (c old new : Nat) (n : Nat) : Nat :=
  (List.range n).foldl (fun x k => setBitsAt x (8 * k) 8 (bitsAt (if Config.orderKey c k % 2 == 1 then old else new) (8 * k) 8)) 0

/-- The instruction word at a physical address. Where the line that the cache holds is older than memory, each byte is the old one or
the new one (R355, R361). -/
def fetchWord (pa : Nat) (s : State) : Word × State :=
  let s := fillInstr (pa / 128) s
  let new := s.homeNum pa 8
  match s.iline (pa / 128) with
  | none => (BitVec.ofNat 64 new, s)
  | some l =>
    let old := bitsAt l.data (pa % 128 * 8) 64
    if old == new then (BitVec.ofNat 64 new, s)
    else (BitVec.ofNat 64 (mixBytes s.freeCtr old new 8), { s with freeCtr := s.freeCtr + 1 })

/-- The word at a virtual address as the fetch of the current hart reads it, or the trap or wait it meets (R27, R322). -/
def fetchAt (va : Word) (s : State) : Acc × Word :=
  match access va 8 .exec 1 true s with
  | .ok pa t => let (w, t) := fetchWord pa t; (.ok pa t, w)
  | .trap t => (.trap t, 0)
  | .wait w => (.wait w, 0)

/-! ### Convoys (R52, R53, R158) -/

/-- What follows the first word of a convoy: its further words, in a state that has fetched them, or the trap or wait of a fetch. -/
inductive Tail where
  | words (l : List Word) (s : State)
  | trap (t : TrapRec)
  | wait (w : Wait)

/-- A word that a convoy goes on with: one of a V- or VM-format major with CV = 1 (R52, R158). -/
def goesOn (w : Word) : Bool := convoyBit w && decide (0x10 <= majorOf w) && decide (majorOf w <= 0x1D)

/-- The words of the convoy from an address on (R158), at most `n` of them. Each word passes the decoder before the next is fetched, so
that the first that fails, in memory order, decides the trap (R53, R160, R414); a word with CV = 1 that is no instruction stands as such. -/
def convoyTail : Nat → Word → State → Tail
  | 0, _, s => .words [] s
  | n + 1, va, s =>
    match fetchAt va s with
    | (.ok _ t, w) =>
      if goesOn w then
        match decode w with
        | .error _ => .trap (illegal w)
        | .ok i =>
          match gate i t with
          | some e => .trap e
          | none => match convoyTail n (va + 8) t with | .words l u => .words (w :: l) u | x => x
      else .words [] t
    | (.trap e, _) => .trap e
    | (.wait q, _) => .wait q

/-- As many words as the address space has. -/
def allWords : Nat := 2 ^ 54

/-- The first word of a convoy that the decoder turns away, with its trap (R50, R51, R53). -/
def convoyGate (s : State) : List Word → Except TrapRec (List (Word × Instr))
  | [] => .ok []
  | w :: l =>
    match decode w with
    | .error _ => .error (illegal w)
    | .ok i =>
      match gate i s with
      | some t => .error t
      | none =>
        match convoyGate s l with
        | .error t => .error t
        | .ok r => .ok ((w, i) :: r)

/-! ### What is posted, and what it leaves to be written (R71, R94, R113, R148, R259, R260) -/

/-- A SETVL that leaves the storage level as it is (R148). -/
def keepsLevel (f : IFmt) (s : State) : Bool :=
  let c := f.imm.toNat / 16 % 4
  c == 0 || levelOf c == s.core.level

/-- The words that are posted to a hart's vector queue: vector items, XOP, CHSEND, CHRECV, VTAG, VRETAG, and a SETVL that keeps the
level (R94, R148, R259, R260). -/
def isQueued (i : Instr) (s : State) : Bool :=
  inConvoyFormat i ||
    (match i with
     | .xop _ | .chsend _ | .chrecv _ | .vtag _ | .vretag _ => true
     | .setvl f => keepsLevel f s
     | _ => false)

/-- The items that the current hart has queued, but for those of a held frame. -/
def State.items (s : State) : List Item := if s.hart.heldBy.isSome then [] else s.hart.queue

/-- The instructions that the current hart has queued. -/
def State.queued (s : State) : List Instr := s.items.flatMap Item.instrs

/-- The scalar register that a queued instruction writes when it runs (R113); s[sd] of SETVL is written when it is posted (R148). -/
def queueDest : Instr → List (BitVec 5)
  | .mpopc f | .mfirst f | .mlast f | .mbit f | .vext f => [f.vd]
  | .xop f => if f.cw then [f.sd] else []
  | .chrecv f => [f.sb]
  | _ => []

/-- The scalar registers that queued instructions are still to write: later writes of the scalar unit end that (R113). -/
def State.pendingRegs (s : State) : List (BitVec 5) :=
  s.items.flatMap fun it => (it.instrs.flatMap queueDest).filter fun r => r != 0 && !it.dead.contains r.toNat

/-- The scalar register that a word of the scalar unit writes; 0 for none. -/
def scalarDest (i : Instr) : BitVec 5 :=
  match i with
  | .bind _ | .unbind _ | .vtag _ | .vretag _ | .chsend _ => 0
  | .sb _ _ | .sh _ _ | .sw _ _ | .sd _ _ => 0
  | .mstat f => f.sa
  | i => match i.code with
    | some (_, _, .r f) => f.sd
    | some (_, _, .i f) => f.sd
    | some (_, _, .m f) => f.sd
    | some (_, _, .b f) => f.sd
    | _ => 0

/-- The scalar registers that a word reads when the scalar unit executes or posts it. -/
def scalarReads (i : Instr) : List (BitVec 5) :=
  match i with
  | .chsend f => [f.sa, f.sc]
  | .chrecv f | .xstat f => [f.sa]
  | .wmpub f | .wmwait f => [f.sa, f.sb]
  | .wchk f => [f.sd]
  | .mstat f => [f.sb]
  | .pvrd f => if f.sb == 0 then [f.sa] else []
  | .vtagrd _ | .unbind _ | .bmz _ | .bmnz _ => []
  | .sb f _ | .sh f _ | .sw f _ | .sd f _ => [f.sa, f.sd]
  | i => match i.code with
    | some (_, _, .r f) => [f.sa, f.sb, f.sc]
    | some (_, _, .i f) => [f.sa]
    | some (_, _, .m f) => [f.sa, f.sb, f.sc]
    | some (_, _, .b f) => [f.sa, f.sb]
    | some (_, _, .t f) => [f.sa, f.sb]
    | some (_, _, .v f) => [f.ss]
    | some (major, fn, .vm f) => if major == 0x1C || fn == 3 || fn == 4 then [f.sa] else [f.sa, f.sb]
    | some (_, _, .x f) => [f.sp, f.sp + 1, f.sp + 2]
    | _ => []

/-- The control registers that a queued instruction writes or reads in its own time (R71, R179): the writers of FSTAT and SRSTATE, of
MSHOUT, of VL and VSTAT, of XCNT2 and of WFULL. -/
def csrsOf (i : Instr) : List Nat :=
  match i with
  | .setvl _ => [0x001, 0x002]
  | .vtag _ | .vretag _ => [0x003]
  | .xop _ => [0x001, 0x003, 0x008]
  | .chrecv _ => [0x001]
  | .vwld _ | .vwlds _ => [0x00A]
  | i => match i.code with
    | some (major, fn, _) =>
      if (0x14 <= major && major <= 0x16) || (major == 0x17 && (fn == 2 || fn == 4)) then [0x003, 0x005]
      else if major == 0x13 && (fn == 6 || fn == 7) then [0x007] else []
    | none => []

/-! ### Drains into vector registers (R290) -/

/-- Words of the current hart that stand between the matrix queue and their completion; those of a held frame stand still. -/
def State.myWords (s : State) : List MqItem :=
  let me := s.hart.id
  (if s.hart.heldBy.isSome then [] else s.hart.mq) ++ (s.core.isl.order ++ s.core.isl.step.toList).filter fun x => x.who == me

/-- The accumulators whose drain goes to vector registers of the current hart, with the first register: those configured so,
and those that a posted MACINIT will configure so. -/
def State.vecAccs (s : State) : List (Nat × Nat) :=
  let me := s.hart.id
  (s.core.isl.accs.filterMap fun a => match a.conf with
    | some c => if c.tgt == 3 && c.owner == me then some (a.num, c.reg) else none
    | none => none) ++
  s.myWords.filterMap fun x => match x.instr with
    | some (.macinit f) => if (confOf f x).tgt == 3 then some (f.acc.toNat, f.slotB.toNat) else none
    | _ => none

/-- Vector registers that a drain of the current hart's, set off by a word before number `n` in its order of posting, is still to
write (R290). -/
def State.drainRegs (s : State) (n : Nat) : List Nat :=
  (s.vecAccs.filter fun x =>
      ((s.core.isl.acc x.1).drain.any fun y => decide (y.seq < n)) ||
        s.myWords.any fun y => y.intoAcc == some x.1 && decide (y.seq < n)).flatMap fun x =>
    s.ownGroup (BitVec.ofNat 5 x.2)

/-- Some words touch vector registers that an earlier drain is still to write (R150, R290). -/
def drainHolds (is : List Instr) (n : Nat) (s : State) : Bool :=
  let l := s.drainRegs n
  !l.isEmpty && is.any fun i => touchesAny i l s

/-! ### What the scalar unit holds (R71, R104, R113, R130, R148) -/

/-- What a word of the scalar unit needs of the items queued before it (R104, R130, R343). -/
inductive Need where
  | nothing
  /-- No earlier vector access may touch the bytes. -/
  | bytes (va : Word) (p : Perm)
  /-- Every earlier vector access has been performed. -/
  | accesses
  /-- Every item has completed. -/
  | done

/-- The need of a word. -/
def needOf (i : Instr) (s : State) : Need :=
  match i with
  | .lb f _ | .lbu f _ | .lh f _ | .lhu f _ | .lw f _ | .lwu f _ | .ld f _ => .bytes (memAddr f s) .read
  | .wldB f | .wldH f | .wldW f | .wldD f => .bytes (memAddr f s) .read
  | .sb f rl | .sh f rl | .sw f rl | .sd f rl => if rl then .accesses else .bytes (memAddr f s) .write
  | .amoadd f _ _ rl | .amoand f _ _ rl | .amoor f _ _ rl | .amoxor f _ _ rl | .amomin f _ _ rl | .amomax f _ _ rl
  | .amominu f _ _ rl | .amomaxu f _ _ rl | .amoswap f _ _ rl | .amocas f _ _ rl =>
    if rl then .accesses else .bytes (memAddr f s) .write
  | .copy f | .decomp f | .sread f => .bytes (s.getS f.sa) .read
  | .mfill f => .bytes (s.getS f.sb) .read
  | .tpprobe _ | .discard _ | .chopen _ | .wmwait _ | .bind _ | .gate _ | .bar _ | .wmpub _ | .launch _ | .eret => .accesses
  | .reserve _ | .migrate _ | .tlbinv _ | .gateinst _ | .pgfree _ => .accesses
  | i => if Instr.isSup i then .done else .nothing

/-- An address lies in no channel's ring, or its access fails (R130). -/
def State.clearOfRings (s : State) (va : Word) (p : Perm) : Bool :=
  match xlat va p s with
  | .ok (pa, _, _) => s.chans.all fun c => !c.ringFrames.contains (pa / 65536)
  | .error _ => true

/-- The queued items let a need be met. -/
def State.meets (s : State) : Need → Bool
  | .nothing => true
  | .bytes va p => s.queued.all fun i =>
      isSilent i s || (match i with | .chsend _ => s.clearOfRings va p | _ => false)
  | .accesses => s.queued.all fun i => isSilent i s
  | .done => s.items.isEmpty

/-- A queued instruction waits for the watch table when it issues (R104, R129, R231). -/
def isReleasing (i : Instr) (s : State) : Bool :=
  match i with
  | .chsend _ => true
  | .xop f =>
    (match s.bindOf s.asid f.slot.toNat with
     | some b => (List.range 2).any fun k => b.img.chPort k == some false
     | none => false)
  | i => match i.code with
    | some (major, fn, .vm f) => f.aqrl && (major == 0x1B || major == 0x1C || (major == 0x1D && fn == 2))
    | _ => false

/-- A watched vector load. -/
def isVwld : Instr → Bool
  | .vwld _ | .vwlds _ => true
  | _ => false
/-- XOP. -/
def isXop : Instr → Bool
  | .xop _ => true
  | _ => false
/-- A queued form that acts on a channel's ends. -/
def usesChannel : Instr → Bool
  | .chsend _ | .chrecv _ | .xop _ => true
  | _ => false
/-- A queued form that changes tags, and with them what a group is. -/
def retags : Instr → Bool
  | .vtag _ | .vretag _ => true
  | _ => false

/-- A word reads vector-side registers that queued instructions, or a drain, are still to write (R71, R94, R95, R100). -/
def readsPending (i : Instr) (s : State) : Bool :=
  let r := (regsOf i s).1
  !r.isEmpty &&
    ((s.items.any fun it => it.instrs.any fun j => retags j || (regsOf j (s.asItem it)).2.any fun x => r.contains x) ||
      (s.drainRegs s.jobSeq).any fun x => r.contains x)

/-- The scalar unit holds a word of its own behind the items queued before it (R71, R103, R104, R113, R130, R133, R134, R258), and an MFILL,
whose header is read when it commits (log entry 68), behind the hart's earlier fills of the slot (R305). -/
def scalarHolds (i : Instr) (s : State) : Bool :=
  let q := s.queued
  (scalarReads i).any (fun r => s.pendingRegs.contains r) || !s.meets (needOf i s) ||
    (match i with
     | .csrrd f | .csrwr f | .csrset f | .csrclr f =>
       let n := f.imm.toNat % 4096
       q.any (fun j => (csrsOf j).contains n) || ((n == 0x00C || n == 0x106) && !s.items.isEmpty)
     | .wldB _ | .wldH _ | .wldW _ | .wldD _ | .wchk _ | .wclr => q.any fun j => isVwld j || isReleasing j s
     | .bind _ | .unbind _ | .xstat _ => q.any isXop
     | .chclose _ => q.any usesChannel
     | .bmz _ | .bmnz _ => readsPending i s || q.any fun j => (csrsOf j).contains 0x001
     | .pvrd _ | .vtagrd _ => readsPending i s
     | .fork _ | .join => !s.items.isEmpty
     | .mfill f => s.fillPending f.slotA.toNat
     | _ => false)

/-! ### Posting (R72, R113, R148, R416) -/

/-- The vector queue of a hart is 32 deep (R15). -/
def queueDepth : Nat := 32

/-- The value that a SETVL which keeps the level writes, and its set (R88, R148). -/
def State.setvlValue (s : State) (f : IFmt) : Word × PvSet :=
  (BitVec.ofNat 64 (min (s.getS f.sa).toNat (vlmax (f.imm.toNat % 4) (f.imm.toNat / 4 % 4) s.core.level)), s.getP f.sa ||| s.ctx)

/-- A later write of the scalar unit takes the place of what the queued items would write (R113); a handler's writes are not later
ones of the items that it holds. -/
def killDest (r : BitVec 5) (s : State) : State :=
  if r == 0 || s.hart.heldBy.isSome then s
  else s.mapHart fun h => { h with queue := h.queue.map fun it => { it with dead := if it.dead.contains r.toNat then it.dead else r.toNat :: it.dead } }

/-- The words at the pc enter the hart's vector queue as one item, with the operands in force (R72, R148); a SETVL writes s[sd] now. -/
def postItem (l : List Word) (s : State) : State :=
  let it := { s.hart.mkItem l with seq := s.jobSeq }
  let h := s.hart
  let s := { s with jobSeq := s.jobSeq + 1,
                    hart := { h with queue := h.queue ++ [it], pc := h.pc + BitVec.ofNat 64 (8 * l.length), fetchTaken := false,
                                     prog := 0, send := none, posted := h.posted + l.length } }
  match l with
  | [w] =>
    match decode w with
    | .ok (.setvl f) => (killDest f.sd s).setS f.sd (s.setvlValue f).1 (s.setvlValue f).2
    | _ => s
  | _ => s

/-- What the word at the pc asks of the scalar unit: to be posted, with its convoy, in a state that has fetched it; to be held; or to
be executed, or to trap, there. -/
inductive NextWord where
  | post (l : List Word) (is : List Instr) (s : State)
  | hold (w : Wait)
  | pc

/-- Some instructions at the pc are posted now, or held (R71, R104, R113, R416); a SETVL is held while a change of the level waits, which
would take its vl from the wrong level (R90). -/
def postOrHold (l : List Word) (is : List Instr) (s t : State) : NextWord :=
  if s.hart.heldBy.isSome then .hold .held
  else if queueDepth <= s.items.length || is.any (fun i => (scalarReads i).any fun r => s.pendingRegs.contains r)
      || (is.any (fun i => isReleasing i s) && s.queued.any isVwld)
      || (is.any (fun i => match i with | .setvl _ => true | _ => false) && !(s.levelWaits none).isEmpty)
  then .hold .hazard else .post l is t

/-- The word at the pc (R51, R52, R53, R148, R416): a masked or illegal one, or one whose convoy has such a member, traps whether or not a
frame is held. A CV=1 word at the pc belongs to no convoy (log entry 65). -/
def nextWord (s : State) : NextWord :=
  let h := s.hart
  if h.pc.toNat % 8 != 0 then .pc
  else
    match fetchAt h.pc s with
    | (.ok _ t, w) =>
      match decode w with
      | .error _ => .pc
      | .ok i =>
        if convoyBit w || (gate i s).isSome then .pc
        else if inConvoyFormat i then
          match convoyTail allWords (h.pc + 8) t with
          | .words l u =>
            match convoyGate s (w :: l) with
            | .error _ => .pc
            | .ok ms => postOrHold (w :: l) (ms.map Prod.snd) s u
          | _ => .pc
        else if h.heldBy.isSome && isPosted i then .hold .held
        else if isQueued i s then postOrHold [w] [i] s t
        else if scalarHolds i s then .hold .hazard
        else .pc
    | _ => .pc

/-- The watch table lets a release go (R104). -/
def State.gateOpen (s : State) : Bool := s.mqEntered && resolved s.hart.watch && struckBits 0 s.hart.watch == 0

/-- The hart may post `n` more words in this clk: 4 in all, or the whole of a convoy first (R148). -/
def State.mayPost (s : State) (n : Nat) : Bool := s.hart.posted == 0 || decide (s.hart.posted + n <= 4)

/-- The scalar unit posts the word at the pc, if it may be posted (R148); a release that the watch table holds, or traps, is left to
the issue of the word. -/
def postNext (s : State) : State :=
  let h := s.hart
  let live := match h.status with | .running | .waiting .hazard => true | _ => false
  if !live || !h.deferred.isEmpty then s
  else
    match nextWord s with
    | .post l is t =>
      if !s.mayPost l.length || (is.any (fun i => isReleasing i s) && !s.gateOpen) then s
      else (postItem l t).mapHart fun h => { h with status := .running }
    | _ => s

/-- A hart issues: it runs, or tries again what it waits for. -/
def Hart.mayIssue (h : Hart) : Bool :=
  match h.status with
  | .running => true
  | .waiting .start | .waiting .stopped => false
  | .waiting _ => true
  | _ => false

/-- The scalar unit posts words of the current hart until it may post no more or holds one (R148): the argument bounds the items. -/
def postUpTo : Nat → State → State
  | 0, s => s
  | n + 1, s =>
    let t := postNext s
    if t.hart.posted == s.hart.posted then t else postUpTo n t

/-- One clk of posting for the current hart: up to 4 words, or the whole of a convoy (R148). -/
def postClk (s : State) : State := postUpTo 4 s

/-! ### Issue slots (R148, R406) -/

/-- The slot that a word at the pc takes: none where it is posted, that of vector-class items, or one of the scalar slots. -/
inductive SlotKind where
  | free | vector | scalar
deriving DecidableEq, Repr

/-- The slot of an instruction (R148, R406). -/
def slotOf (i : Instr) (s : State) : SlotKind :=
  match i with
  | .fork _ | .join => .vector
  | .setvl f => if keepsLevel f s then .free else .vector
  | i => if isPosted i then .free else .scalar

/-- The instruction at the pc; the word of none stands for a fetch that traps or waits. -/
def State.nextInstr (s : State) : Instr :=
  if s.hart.pc.toNat % 8 != 0 then .illegalWord 0
  else
    match fetchAt s.hart.pc s with
    | (.ok _ _, w) => (match decode w with | .ok i => i | .error _ => .illegalWord w)
    | _ => .illegalWord 0

/-- After `j`, a SALU or SIMM form, its hart may issue `i` in the same clk, which reads no register that `j` writes (R406). -/
def pairs (j i : Instr) : Bool :=
  (match j.code with | some (major, _, _) => major == 1 || major == 2 | none => false) &&
    (scalarDest j == 0 || !(scalarReads i).contains (scalarDest j))

/-- The slots left in this clk let the current hart issue an instruction, or post its word (R148, R406). -/
def State.hasSlot (s : State) (i : Instr) : Bool :=
  match slotOf i s with
  | .free => s.mayPost 1
  | .vector => !s.core.vectorIssue
  | .scalar =>
    match s.core.firstIssue with
    | none => true
    | some (n, j) => !s.core.secondIssue && (n != s.hart.ix || pairs j i)

/-- A wait that leaves an instruction unissued (R71, R113, R148, R285). -/
def Wait.unissued : Wait → Bool
  | .hazard | .held | .queue | .drain | .watch | .fetch | .level _ => true
  | _ => false

/-- The instruction that the current hart tried has issued: it did not stay waiting as it had waited before. -/
def hasIssued (before after : Hart) : Bool :=
  match after.status with
  | .waiting w => !w.unissued && before.status == .running
  | _ => true

/-- A vector-class item: a V- or VM-format word, VTAG, VRETAG or SETVL; FORK and JOIN, the others of R148, are never queued. -/
def vectorClass (i : Instr) : Bool :=
  inConvoyFormat i || (match i with | .vtag _ | .vretag _ | .setvl _ => true | _ => false)

/-- An item of the vector queue has issued: it is under way. -/
def Item.issued (it : Item) : Bool := match it.wait with | some w => !w.unissued | none => false

/-- A queued item may issue now (R90, R148, R406): it has issued already, or no change of the level that came before it waits, and the
core's vector-class slot is left where it needs it. -/
def State.mayStart (s : State) (it : Item) : Bool :=
  it.issued || ((s.levelWaits none).all (fun n => decide (it.seq < n)) && !(it.instrs.any vectorClass && s.core.vectorIssue))

/-- A word of the current hart, which has nothing queued, may issue as it is posted (R90, R148, R406): no change of the level waits, and a
vector-class item finds the slot left and no other hart of the core with an item that has not issued, whose turn may come first. -/
def State.startsAtOnce (s : State) (i : Instr) : Bool :=
  s.items.isEmpty && (s.levelWaits none).isEmpty &&
    (!vectorClass i || (!s.core.vectorIssue && s.allHarts.all fun h =>
      h.core != s.core.num || h.ix == s.hart.ix || h.heldBy.isSome || h.queue.all Item.issued))

/-- The vector-class slot has been taken by the current hart (R406). -/
def takeVector (s : State) : State := s.mapCore fun c => { c with vectorIssue := true, vectorPtr := (s.hart.ix + 1) % 8 }

/-- An instruction has taken its slot, after whose hart the round-robin pointer stands (R406); a word that is posted counts among the words
of its clk (R148). -/
def takeSlot (i : Instr) (s t : State) : State :=
  let ix := s.hart.ix
  match slotOf i s with
  | .free =>
    let t := if t.hart.posted == s.hart.posted then t.mapHart fun h => { h with posted := h.posted + 1 } else t
    if vectorClass i && t.items.all Item.issued then takeVector t else t
  | .vector => takeVector t
  | .scalar => t.mapCore fun c =>
    if c.firstIssue.isNone then { c with firstIssue := some (ix, i), scalarPtr := (ix + 1) % 8 }
    else { c with secondIssue := true, scalarPtr := (ix + 1) % 8 }

/-! ### Traps that wait for the hart's next instruction (R298, R334, R379, R416) -/

/-- The items that a hart still has queued become its opaque frame when a trap that is not theirs is delivered: the opcode
that it runs becomes its continuation (R334, R415, R416, R461). -/
def holdQueue (t : TrapRec) (s : State) : State :=
  if s.hart.queue.isEmpty || s.hart.heldBy.isSome then s
  else
    let m := (route s.hart t.cause).1
    let ix := s.hart.ix
    let s := if s.core.reef.run.any fun r => r.hart == ix then freezeRun s else s
    let s := s.mapReef fun r =>
      match r.run with
      | some x => if x.hart == ix then { r with run := none, conts := x :: r.conts.filter fun y => y.hart != ix } else r
      | none => r
    s.mapHart fun h => { h with heldBy := some m, heldSeq := s.jobSeq, resume := h.pc, queue := h.queue.map fun it => { it with wait := none } }

/-- Delivers the first trap that waits for the hart's next instruction (R298, R334, R379, R416), once the hart has no step, fill or
drain under way in the island and no request outside the package. -/
def takeDeferred (s : State) : State :=
  match s.hart.deferred with
  | [] => s
  | t :: l =>
    let opcode := s.core.reef.run.any fun r => r.hart == s.hart.ix
    if s.worksFor s.hart.id || (opcode && s.runWaits) || s.hart.remote.isSome || s.hart.vreq.isSome then waitFor .drain s
    else trapAt t (holdQueue t (s.mapHart fun h => { h with deferred := l, event := true }))

end Sys2Proof.Machine
end

