-- ==== Sys2Proof/Machine/Save.lean ====
section
/-! DEFINITION. Saving and restoring a hart's vector side: VSAVE, VRESTORE, FRSAVE, FRLOAD, XFREEZE and XTHAW
(R373-R378). -/

namespace Sys2Proof.Machine

/-! ### Areas -/

/-- The physical places of an area, with the checks of a store of data set `p` on each page, before anything is written. -/
def areaWrite (p : PvSet) : List (Word × Nat) → State → Except (Sum TrapRec Wait) (List (Nat × Nat) × State)
  | [], s => .ok ([], s)
  | (va, n) :: l, s =>
    match access va n .write 3 false s with
    | .trap t => .error (.inl t)
    | .wait w => .error (.inr w)
    | .ok pa t =>
      match writeCheck va pa p 3 t with
      | some e => .error (.inl e)
      | none =>
        match areaWrite p l t with
        | .error e => .error e
        | .ok (r, t) => .ok ((pa, n) :: r, t)

/-- Writes bytes over the places of an area as stores of the hart. -/
def areaStore (p : PvSet) : List (Nat × Nat) → List Byte → State → State
  | [], _, s => s
  | (pa, n) :: l, b, s => areaStore p l (b.drop n) (storePa pa (b.take n) p s)

/-- Stores an area and completes with its size: `f` is applied to the state once every page has passed its checks (R373). -/
def saveArea (f : RFmt) (bytes : List Byte) (p : PvSet) (after : State → State) (s : State) : State :=
  let a := s.getS f.sa
  let t := s.addCtx (s.getP f.sa)
  let p := p ||| t.ctx
  if a.toNat % 64 != 0 then scalarTrap ⟨7, a, 0, 3⟩ s
  else
    match areaWrite p (pageParts (bytes.length / 65536 + 2) a bytes.length) t with
    | .error (.inl e) => scalarTrap e s
    | .error (.inr w) => waitFor w s
    | .ok (l, t) =>
      let t := after (areaStore p l bytes t)
      retire (t.setS f.sd (BitVec.ofNat 64 bytes.length) t.ctx)

/-- Reads `n` bytes of an area as loads of the hart, once `a` is known to be a multiple of 64. -/
def loadArea (a : Word) (n : Nat) (s : State) : Except (Sum TrapRec Wait) (List Byte × PvSet × State) :=
  readParts (pageParts (n / 65536 + 2) a n) s

/-! ### VSAVE and VRESTORE (R376, R377) -/

/-- The bytes of a number, `n` of them, cut from a whole image. -/
def imgBytes (img lo n : Nat) : List Byte := (List.range n).map fun i => BitVec.ofNat 8 (img >>> (8 * (lo + i)))

/-- How many bytes of v_j are saved (R376). -/
def savedLen (h : Hart) (level j : Nat) : Nat :=
  let r := h.vreg j
  let w := typeWidth r.tag.ty.toNat
  let g := groupOf r.tag.g.toNat
  let need := (h.csr.vl * w + 7) / 8
  let size := 1024 * level
  min size (need - j % g * size)

/-- The elements that a waiting CHRECV of the hart has taken into register v_j (R260, R416). -/
def Hart.partTaken (h : Hart) (j : Nat) : Nat :=
  h.queue.foldl (fun n it => it.instrs.foldl (fun n i =>
    match i with
    | .chrecv f => if f.sd.toNat <= j && j < f.sd.toNat + groupOf (h.vreg f.sd.toNat).tag.g.toNat then max n it.prog else n
    | _ => n) n) 0

/-- The hart with vl at least what a waiting CHRECV has taken into v_j. -/
def Hart.takenInto (h : Hart) (j : Nat) : Hart := { h with csr := { h.csr with vl := max h.csr.vl (h.partTaken j) } }

/-- The bytes that a waiting CHRECV has written, register by register (R416): the register, their count and their value. -/
def Hart.partLanes (level : Nat) (h : Hart) : List (Nat × Nat × Nat) :=
  (List.range 32).filterMap fun j =>
    let n := h.partTaken j
    let len := savedLen { h with csr := { h.csr with vl := n } } level j
    if n == 0 then none else some (j, len, (h.vreg j).img % 2 ^ (8 * len))

/-- Puts the partial lane state of a frame back (R416), with `p` added to the registers' sets. -/
def Hart.putLanes (p : PvSet) (h : Hart) (l : List (Nat × Nat × Nat)) : Hart :=
  l.foldl (fun h x =>
    let r := h.vreg x.1
    h.setV x.1 { r with img := setBitsAt r.img 0 (8 * x.2.1) x.2.2, dirty := true, pv := r.pv ||| p }) h

/-- Bytes padded with zeros to a multiple of 64. -/
def pad64 (l : List Byte) : List Byte := l ++ List.replicate ((64 - l.length % 64) % 64) 0

/-- The area of VSAVE (R376). -/
def vsaveBytes (s : State) : List Byte :=
  let h := s.hart
  let l := s.core.level
  let js := List.range 32
  let dirty := js.foldl (fun d j => if (h.vreg j).dirty then d + 2 ^ j else d) 0
  toLeBytes 8 h.csr.vl ++ toLeBytes 8 s.vstat.toNat ++ toLeBytes 4 dirty ++ toLeBytes 4 (4 * h.laneN) ++ List.replicate 40 0
    ++ js.flatMap (fun j => let r := h.vreg j
        toLeBytes 4 (r.pv.toNat * 65536 + (if r.dirty then 1024 else 0) + r.tag.num))
    ++ h.vec.m.toList.flatMap (fun m => toLeBytes 2 m.pv.toNat)
    ++ h.vec.k.toList.flatMap (fun k => toLeBytes 2 k.pv.toNat)
    ++ List.replicate 32 0
    ++ h.vec.m.toList.flatMap (fun m => imgBytes m.bits 0 (1024 * l))
    ++ h.vec.k.toList.flatMap (fun k => imgBytes k.bits 0 512)
    ++ js.flatMap (fun j => if (h.vreg j).dirty then pad64 (imgBytes (h.vreg j).img 0 (savedLen h l j)) else [])

/-- The union of every set that VSAVE saves. -/
def VecFile.union (x : VecFile) : PvSet :=
  let p := x.v.toList.foldl (fun p r => p ||| r.pv) pvEmpty
  let p := x.m.toList.foldl (fun p r => p ||| r.pv) p
  x.k.toList.foldl (fun p r => p ||| r.pv) p

/-- VSAVE (R374, R376). -/
def execVsave (f : RFmt) (s : State) : Out :=
  let i : Instr := .vsave f
  .next (gated i (fun s =>
    if !s.hart.queue.isEmpty then engTrap i 5 s
    else saveArea f (vsaveBytes s) s.hart.vec.union (fun t => t) s) s)

/-- A number from the bytes of an area. -/
def areaNum (b : Array Byte) (off n : Nat) : Nat := leNum ((b.extract off (off + n)).toList)

/-- How many bytes of v_j an area holds, by its own fields (R376). -/
def areaLen (hd : Array Byte) (level j : Nat) : Nat :=
  let e := areaNum hd (64 + 4 * j) 4
  let w := typeWidth (e % 32)
  let g := groupOf (e / 32 % 4)
  if (areaNum hd 16 4).testBit j then min (1024 * level) ((areaNum hd 0 8 * w + 7) / 8 - j % g * (1024 * level)) else 0

/-- An area's storage level: the level code of its VSTAT. -/
def areaLevel (hd : Array Byte) : Nat := max 1 (levelOf (areaNum hd 8 8 / 16 % 4))

/-- The size of an area by its header. -/
def areaSize (hd : Array Byte) : Nat :=
  256 + 8192 * areaLevel hd + 4096 + (List.range 32).foldl (fun n j => n + (areaLen hd (areaLevel hd) j + 63) / 64 * 64) 0

/-- An entry of a watch table struck at a context switch, with the empty set (R419, R454). -/
def WatchEntry.switched : WatchEntry :=
  { base := 0, stride := 0, count := 1, width := 1, state := .struck, pv := pvEmpty, lines := [], made := 0 }

/-- The vector registers of an area, with `p` added to each set (R377); `lv` is the area's level, `l` the core's. -/
def areaRegs (b : Array Byte) (p : PvSet) (lv l : Nat) : List VReg :=
  ((List.range 32).foldl (fun (acc : List VReg × Nat) j =>
    let e := areaNum b (64 + 4 * j) 4
    let n := areaLen b lv j
    let img := leNum ((b.extract acc.2 (acc.2 + min n (1024 * l))).toList)
    let tag : Tag := ⟨BitVec.ofNat 5 e, BitVec.ofNat 2 (e / 32), BitVec.ofNat 3 (e / 128)⟩
    (acc.1 ++ [⟨img, tag, (areaNum b 16 4).testBit j, BitVec.ofNat 16 (e / 65536) ||| p⟩], acc.2 + (n + 63) / 64 * 64))
    ([], 256 + 8192 * lv + 4096)).1

/-- A hart's vector side as VRESTORE puts it back from an area's bytes (R377, R419). -/
def vrestoreHart (b : Array Byte) (p : PvSet) (l : Nat) (h : Hart) : Hart :=
  let lv := areaLevel b
  let st := areaNum b 8 8
  let regs := areaRegs b p lv l
  let v := Vector.ofFn fun (j : Fin 32) => (regs[j.val]?).getD VReg.zero
  let m := Vector.ofFn fun (j : Fin 8) =>
    (⟨leNum ((b.extract (256 + 1024 * lv * j.val) (256 + 1024 * lv * j.val + 1024 * min lv l)).toList),
      BitVec.ofNat 16 (areaNum b (192 + 2 * j.val) 2) ||| p⟩ : BReg)
  let k := Vector.ofFn fun (j : Fin 8) =>
    (⟨areaNum b (256 + 8192 * lv + 512 * j.val) 512 &&& scaleMask, BitVec.ofNat 16 (areaNum b (208 + 2 * j.val) 2) ||| p⟩ : BReg)
  let top := vlmax (st % 4) (st / 4 % 4) l
  let vl := areaNum b 0 8
  let h := { h with
    vec := ⟨v, m, k⟩,
    csr := { h.csr with vl := min vl top, sew := BitVec.ofNat 2 st, g := BitVec.ofNat 2 (st / 4),
                        vlcut := st.testBit 7 || decide (l < lv) || decide (top < vl) } }
  let h := h.setCsrPv 1 (p ||| h.ctx)
  let t := List.replicate 32 WatchEntry.switched
  if h.mode == .hypervisor then { h with asideH := t } else { h with asideS := t }

/-- VRESTORE (R374, R377, R419). -/
def execVrestore (f : RFmt) (s : State) : Out :=
  let i : Instr := .vrestore f
  .next (gated i (fun s =>
    let a := s.getS f.sa
    if a.toNat % 64 != 0 then scalarTrap ⟨7, a, 0, 2⟩ s
    else if !s.hart.queue.isEmpty then engTrap i 5 s
    else
      match loadArea a 256 s with
      | .error (.inl t) => scalarTrap t s
      | .error (.inr w) => waitFor w s
      | .ok (hd, _, _) =>
        match loadArea a (areaSize hd.toArray) s with
        | .error (.inl t) => scalarTrap t s
        | .error (.inr w) => waitFor w s
        | .ok (b, p, t) =>
          let t := t.addCtx (s.getP f.sa)
          retire (t.mapHart (vrestoreHart b.toArray p s.core.level))) s)

/-! ### FRSAVE and FRLOAD (R375, R416, R494) -/

/-- The free bytes of an opaque area of `n` bytes, after its format number (log entry 9). -/
def opaqueBytes (c n : Nat) (fmt : Word) : List Byte :=
  toLeBytes 8 fmt.toNat ++ (List.range (n - 8)).map fun k => Config.freeByte c (k + 8)

/-- The scalar registers whose values an item carries. -/
def itemScalars (w : Word) : List (BitVec 5) :=
  match decode w with
  | .error _ => []
  | .ok i =>
    match i.code with
    | some (_, _, .v f) => if f.sb then [f.ss] else []
    | some (_, _, .vm f) => [f.sa, f.sb]
    | some (_, _, .x f) => [f.sp, f.sp + 1, f.sp + 2]
    | some (_, _, .r f) => [f.sa, f.sc]
    | _ => []

/-- The set of what an item carries. -/
def Item.carries (it : Item) : PvSet :=
  (it.words.flatMap itemScalars).foldl (fun p r => p ||| (if r == 0 then pvEmpty else it.sp.get r.toFin)) pvEmpty

/-- The matrix words of the current hart that have not begun, those in island order first (R416). -/
def State.unbegun (s : State) : List MqItem := (s.isl.order.filter fun x => x.who == s.hart.id) ++ s.hart.mq

/-- The set of a hart's frame: the operands and context sets that its items carry. -/
def State.framePv (s : State) : PvSet :=
  let p := s.hart.queue.foldl (fun p it => p ||| it.carries) pvEmpty
  s.unbegun.foldl (fun p x => p ||| x.pa ||| x.ctx) p

/-- Sets or clears FR of the handler's status word (R411, R416). -/
def setFr (b : Bool) (s : State) : State :=
  let put (r : TrapRegs) : TrapRegs := { r with status := if b then r.status ||| 4 else r.status &&& ~~~4 }
  s.mapCsr fun c => if s.hart.mode == .hypervisor then { c with htr := put c.htr } else { c with tr := put c.tr }

/-- The opaque frame leaves the hart: queue, matrix words not begun, the resume address and FR (R375, R416). -/
def dropFrameItems (s : State) : State :=
  let id := s.hart.id
  setFr false ((s.mapIsl fun i => { i with order := i.order.filter fun x => x.who != id }).mapHart fun h =>
    { h with queue := [], mq := [], heldBy := none, resume := 0 })

/-- FRSAVE (R375, R416). -/
def execFrsave (f : RFmt) (s : State) : Out :=
  .next (gated (.frsave f) (fun s =>
    let c := s.freeCtr
    let none_ := s.hart.queue.isEmpty && s.unbegun.isEmpty
    let n := if none_ then 64 else 64 + (Config.freeWord c).toNat % 32705
    let bytes := opaqueBytes c n s.fw.frameFmt
    let fr : SavedFrame := ⟨bytes, s.hart.queue, s.unbegun, if s.hart.heldBy.isSome then s.hart.resume else 0, 0, [], none, [],
      s.hart.partLanes s.core.level⟩
    saveArea f bytes s.framePv (fun t =>
      dropFrameItems { t with freeCtr := t.freeCtr + 1, savedFrames := t.savedFrames ++ [fr] }) s) s)

/-- The first of some saved areas whose bytes stand at an address unaltered. -/
def firstSaved (a : Word) (s : State) : List SavedFrame → Except (Sum TrapRec Wait) (Option (SavedFrame × PvSet × State))
  | [] => .ok none
  | f :: l =>
    match loadArea a f.bytes.length s with
    | .error e => .error e
    | .ok (b, p, t) => if b == f.bytes then .ok (some (f, p, t)) else firstSaved a s l

/-- The saved area whose bytes stand at an address unaltered (R375): the pages are read as loads. -/
def findSaved (a : Word) (l : List SavedFrame) (s : State) :
    Except (Sum TrapRec Wait) (Option (SavedFrame × PvSet × State)) :=
  match loadArea a 64 s with
  | .error e => .error e
  | .ok (hd, _, _) =>
    firstSaved a s (l.filter fun f => f.bytes.take 64 == hd)

/-- A frame comes back into the hart (R375, R416). -/
def loadFrame (f : SavedFrame) (p : PvSet) (s : State) : State :=
  let m := s.hart.mode
  let id := s.hart.id
  let items := f.items.map fun it => { it with sp := it.sp.map (· ||| p) }
  let mq := f.mq.map fun x => { x with who := id, pa := x.pa ||| p }
  let holds := f.resume != 0 || !items.isEmpty || !mq.isEmpty
  let s := s.mapHart fun h =>
    { h.putLanes p f.lanes with
      queue := items, mq := mq, heldBy := if holds then some m else none, heldSeq := s.jobSeq, resume := f.resume }
  if f.resume == 0 then s
  else
    let s := setFr true s
    if m == .hypervisor then (s.mapCsr fun c => { c with htr := { c.htr with pc := f.resume } }).mapHart fun h => h.setCsrPv 0x203 (p ||| h.ctx)
    else (s.mapCsr fun c => { c with tr := { c.tr with pc := f.resume } }).mapHart fun h => h.setCsrPv 0x102 (p ||| h.ctx)

/-- FRLOAD (R375, R416, R494). -/
def execFrload (f : RFmt) (s : State) : Out :=
  let i : Instr := .frload f
  .next (gated i (fun s =>
    let a := s.getS f.sa
    if a.toNat % 64 != 0 then scalarTrap ⟨7, a, 0, 2⟩ s
    else
      match findSaved a (s.savedFrames.filter fun x => x.addrs.isEmpty) s with
      | .error (.inl t) => scalarTrap t s
      | .error (.inr w) => waitFor w s
      | .ok none => engTrap i 6 s
      | .ok (some (x, p, t)) =>
        if leNum (x.bytes.take 8) != s.fw.frameFmt.toNat || !s.hart.queue.isEmpty || !s.hart.mq.isEmpty then engTrap i 6 s
        else retire (loadFrame x p (t.addCtx (s.getP f.sa)))) s)

/-! ### XFREEZE and XTHAW (R247, R378, R494) -/

/-- The process's reef state on the current core leaves it (R378). -/
def dropReef (asid : Nat) (s : State) : State :=
  s.mapReef fun r =>
    { r with run := match r.run with | some x => if x.asid == asid then none else some x | none => none,
             conts := r.conts.filter (fun x => x.asid != asid), placed := r.placed.filter (fun x => x.asid != asid),
             evicted := r.evicted.filter (fun x => x.1 != asid), mism := r.mism.filter (fun x => x.1 != asid) }

/-- The bytes of a frozen area (R378): the format number, the address-space identifier, the image addresses of f0-f15, and free bytes,
the check value among them. The sixteen addresses do not fit in the first 64 bytes, and run on to byte 143 (log entry 9). -/
def freezeBytes (c : Nat) (fmt : Word) (asid : Nat) (addrs : List Word) : List Byte :=
  toLeBytes 8 fmt.toNat ++ toLeBytes 8 asid ++ addrs.flatMap (fun a => toLeBytes 8 a.toNat)
    ++ (List.range ((Config.freeWord c).toNat % 65393)).map fun k => Config.freeByte c k

/-- XFREEZE (R247, R378): the running opcode of the process stops at a clk boundary once its issued accesses have been performed. -/
def execXfreeze (f : RFmt) (s : State) : Out :=
  .next (gated (.xfreeze f) (fun s =>
    let mine := s.core.reef.run.any fun r => r.asid == s.asid
    let s := if mine then freezeRun s else s
    if mine && s.runWaits then waitFor .reef s
    else
    let c := s.freeCtr
    let r := s.core.reef
    let run := match r.run with | some x => if x.asid == s.asid then some x else none | none => none
    let conts := r.conts.filter fun x => x.asid == s.asid
    let p := (run.toList ++ conts).foldl (fun p x => p ||| x.set) pvEmpty
    let addrs := (List.range 16).map fun k => match s.bindOf s.asid k with | some b => b.addr | none => 0
    let bytes := freezeBytes c s.fw.freezeFmt s.asid addrs
    let fr : SavedFrame := ⟨bytes, [], [], 0, s.asid, addrs, run, conts, []⟩
    saveArea f bytes p (fun t =>
      dropReef s.asid { t with freeCtr := t.freeCtr + 1, savedFrames := t.savedFrames ++ [fr] }) s) s)

/-- The internal state of a node outside the freeze mask starts afresh (R223, R227, R247): counts, phases and tables. The tokens of a B
node, the stream positions and loads of an M node, and the inputs that a lenient node still discards are read out with the tokens. -/
def RNodeSt.thaw (kind : Nat) (n : RNodeSt) : RNodeSt :=
  if kind == 3 || kind == 4 then n else { n with cnt := 0, mode := 0, table := [] }

/-- A frozen opcode as it is thawed (R247): nodes outside the freeze mask start afresh, and its tokens gain `p`. -/
def RRun.thaw (p : PvSet) (r : RRun) : RRun :=
  { r with set := r.set ||| p, frozen := false,
           nodes := r.nodes.zipIdx.map fun (n, k) =>
             if r.img.freeze.testBit k then n else n.thaw ((r.img.nodes[k]?).elim 0 RNode.kind) }

/-- A continuation whose slot is still bound to the image address of the freeze (R378). -/
def State.stillBound (s : State) (f : SavedFrame) (r : RRun) : Bool :=
  match s.bindOf r.asid r.slot with | some b => f.addrs[r.slot]? == some b.addr | none => false

/-- XTHAW (R247, R378, R494). -/
def execXthaw (f : RFmt) (s : State) : Out :=
  let i : Instr := .xthaw f
  .next (gated i (fun s =>
    let a := s.getS f.sa
    if a.toNat % 64 != 0 then scalarTrap ⟨7, a, 0, 2⟩ s
    else
      match findSaved a (s.savedFrames.filter fun x => !x.addrs.isEmpty) s with
      | .error (.inl t) => scalarTrap t s
      | .error (.inr w) => waitFor w s
      | .ok none => engTrap i 6 s
      | .ok (some (x, p, t)) =>
        if leNum (x.bytes.take 8) != s.fw.freezeFmt.toNat then engTrap i 6 s
        else
          let l := ((x.run.toList ++ x.conts).filter (s.stillBound x)).map (RRun.thaw p)
          let t := t.addCtx (s.getP f.sa)
          let t := l.foldl (fun t r => placeImage r.asid r.slot r.img t) t
          retire (t.mapReef fun r =>
            { r with conts := l ++ r.conts.filter fun y => !l.any fun z => z.hart == y.hart })) s)

end Sys2Proof.Machine
end

