-- ==== Sys2Proof/Machine/Tide.lean ====
section
/-! DEFINITION. The error log (R484), the spill pool and backing (R457-R463), RESERVE, MIGRATE, TLBINV and PGFREE
(R379-R383). -/

namespace Sys2Proof.Machine

/-! ### The error log (R484) -/

/-- The bytes of an error-log record. -/
def logBytes (kind cls unit addr clk seq : Nat) : List Byte :=
  toLeBytes 1 kind ++ toLeBytes 1 cls ++ toLeBytes 2 unit ++ toLeBytes 4 0 ++ toLeBytes 8 addr ++ toLeBytes 8 clk ++ toLeBytes 8 seq

/-- Records an event: counted always, written once ELOG has placed a ring (R484). -/
def logEvent (kind cls unit addr : Nat) (s : State) : State :=
  let n := s.elogSeq + 1
  let s := { s with elogSeq := n }
  match s.elog with
  | none => s
  | some (a, k) => storeHome (a + 32 * (n % k)) (logBytes kind cls unit addr s.clk.toNat n) pvEmpty s

/-! ### Partitions and their frames -/

/-- A partition by number. -/
def State.partAt (s : State) (n : Nat) : Option Part := findBy Part.num n s.parts
/-- Records a partition. -/
def State.setPart (s : State) (p : Part) : State := { s with parts := putBy Part.num p s.parts }

/-- `n` frames from `lo` on are covered by assigned ranges; the first argument bounds how many ranges they meet. -/
def framesIn (rs : List (Nat × Nat)) : Nat → Nat → Nat → Bool
  | _, _, 0 => true
  | 0, _, _ + 1 => false
  | k + 1, lo, n + 1 =>
    match rs.find? fun r => r.1 <= lo && lo < r.1 + r.2 with
    | none => false
    | some r => framesIn rs k (r.1 + r.2) (n + 1 - (r.1 + r.2 - lo))

/-- The frames lie in the memory assigned to the partition. -/
def Part.owns (p : Part) (lo n : Nat) : Bool := framesIn p.frames p.frames.length lo n

/-- Drops TLB entries of the cores of the current hart's partition (R381). -/
def dropTlb (bad : TlbEntry → Bool) (s : State) : State :=
  let p := s.part.map Part.num
  let mine (n : Nat) : Bool := (s.partOfCore n).map Part.num == p
  s.mapCores fun c => if mine c.num then { c with tlb := c.tlb.filter fun e => !bad e } else c

/-! ### Accesses in flight (R335, R379-R381, R435) -/

/-- A hart has an access under way to memory that `hit` picks by address and length: a request, an element of a vector atomic, a
translation that a convoy keeps, or a posted fill. A convoy that waits for a frame is the frame's to let go (R457). -/
def Hart.inFlight (hit : Nat → Nat → Bool) (h : Hart) : Bool :=
  h.remote.any (fun r => r.open_ && hit r.addr r.req.n) ||
  h.vreq.any (fun q => (q.todo.any fun e => hit e.pa q.n) || q.out.any fun x => x.r.open_ && hit x.r.addr q.n) ||
  (h.queue.any fun it => it.wait != some .frame && it.pins.any fun e => hit e.pa (2 ^ e.bits)) ||
  (h.heldBy.isNone && h.mq.any fun x => x.pages.any fun a => hit a.1 a.2)

/-- An access of a hart, an island or an engine of the package that was translated before is still to be performed on memory that `hit`
picks. -/
def State.inFlight (s : State) (hit : Nat → Nat → Bool) : Bool :=
  s.allHarts.any (·.inFlight hit) ||
  ((s.core :: s.cores).any fun c => (c.isl.order ++ c.isl.fills).any fun x => x.pages.any fun a => hit a.1 a.2) ||
  ((s.engq ++ s.sreads ++ s.deliveries.map Delivery.job).any fun j => j.place.any (fun a => hit a 16) ||
    (j.pieces.getD []).any fun a => hit a.1 a.2) ||
  s.deliveries.any fun d => d.job.kind != 0 && hit d.record 256

/-- Two ranges of addresses meet. -/
def rangesHit (a n b m : Nat) : Bool := decide (a < b + m) && decide (b < a + n)

/-- An access that used one of some TLB entries of the partition may be under way (R379, R381). -/
def State.entriesUsed (s : State) (bad : TlbEntry → Bool) : Bool :=
  let p := s.part.map Part.num
  let l := (s.core :: s.cores).flatMap fun c => if (s.partOfCore c.num).map Part.num == p then c.tlb.filter bad else []
  s.inFlight fun a n => l.any fun e => rangesHit a n e.pa (2 ^ e.bits)

/-- Changes the address of every access that was translated before and is still to be performed (R335). -/
def Hart.mapPlaces (f : Nat → Nat) (h : Hart) : Hart :=
  { h with vreq := h.vreq.map fun q => { q with todo := q.todo.map fun (e : VElem) => { e with pa := f e.pa } }
           queue := h.queue.map fun (it : Item) => { it with pins := it.pins.map fun (e : TlbEntry) => { e with pa := f e.pa } }
           mq := h.mq.map fun (x : MqItem) => { x with pages := x.pages.map fun (a : Nat × Nat) => (f a.1, a.2) } }

/-- As for a hart, of an island's words. -/
def Core.mapPlaces (f : Nat → Nat) (c : Core) : Core :=
  { c with isl := c.isl.mapWords fun (x : MqItem) => { x with pages := x.pages.map fun (a : Nat × Nat) => (f a.1, a.2) } }

/-- As for a hart, of an engine's job. -/
def EngJob.mapPlaces (f : Nat → Nat) (j : EngJob) : EngJob :=
  { j with place := j.place.map f, pieces := j.pieces.map fun (l : List (Nat × Nat)) => l.map fun a => (f a.1, a.2) }

/-- As for a hart, of the whole package, what a pre-emption or FRSAVE has saved included. -/
def State.mapPlaces (f : Nat → Nat) (s : State) : State :=
  let s := (s.mapHarts (·.mapPlaces f)).mapCores (·.mapPlaces f)
  { s with engq := s.engq.map (·.mapPlaces f), sreads := s.sreads.map (·.mapPlaces f),
           deliveries := s.deliveries.map fun (d : Delivery) => { d with job := d.job.mapPlaces f, record := f d.record },
           tasks := s.tasks.map fun (t : Task) =>
             { t with harts := t.harts.map (·.mapPlaces f), saves := t.saves.map (·.mapPlaces f) },
           savedFrames := s.savedFrames.map fun (x : SavedFrame) =>
             { x with mq := x.mq.map fun (x : MqItem) => { x with pages := x.pages.map fun (a : Nat × Nat) => (f a.1, a.2) } } }

/-! ### The spill pool (R462) -/

/-- Takes a frame from a spill pool (R462): entries that are unaligned or outside the partition's memory are dropped; the
first argument bounds how many. -/
def takeSpill (p : Part) (pool : Nat) : Nat → State → Option Nat × State
  | 0, s => (none, s)
  | n + 1, s =>
    let c := s.homeNum pool 8
    if c == 0 || 8191 < c then (none, s)
    else
      let e := s.homeNum (pool + 8 * c) 8
      let s := storeHome pool (toLeBytes 8 (c - 1)) pvEmpty s
      if e % 65536 == 0 && p.owns (e / 65536) 1 then (some (e / 65536), s) else takeSpill p pool n s

/-- Returns a frame to the spill pool of a partition (R462). -/
def returnSpill (p : Option Part) (frame : Nat) (s : State) : State :=
  match p.bind Part.spillPool with
  | none => s
  | some pool =>
    let c := s.homeNum pool 8
    if 8191 <= c then s
    else storeHome pool (toLeBytes 8 (c + 1)) pvEmpty (storeHome (pool + 8 + 8 * c) (toLeBytes 8 (frame * 65536)) pvEmpty s)

/-- Poison marks of one frame move to another. -/
def movePoison (from_ dst : Nat) (s : State) : State :=
  let l := (s.poison.filter fun x => x / 2048 == from_).map fun x => dst * 2048 + x % 2048
  { s with poison := l ++ s.poison.filter fun x => x / 2048 != from_ && x / 2048 != dst }

/-- The bytes of a frame as they stand at its place. -/
def State.frameBytes (s : State) (frame : Nat) : List Byte := (List.range 65536).map fun i => s.homeByte (frame * 65536 + i)

/-- Backing of tidepool frame `t` (R462, R463) from the spill pool of a partition; `false` when the pool is empty. -/
def backFrame (p : Option Part) (t : Nat) (s : State) : Bool × State :=
  match p with
  | none => (false, s)
  | some p =>
    match p.spillPool with
    | none => (false, s)
    | some pool =>
      match takeSpill p pool 8192 (startClear pool s) with
      | (none, s) => (false, s)
      | (some f, s) =>
        let wt := s.provAt (t * 65536)
        let wf := s.provAt (f * 65536)
        let cur := wf.cur ||| wt.cur
        let s := storeHome (f * 65536) (s.frameBytes t) pvEmpty s
        let s := movePoison t f s
        let s := s.setProv ⟨f, wt.ceil ||| cur, cur⟩
        let s := { s with mem := memErase (t * 65536) 65536 s.mem }
        let s := endOwners (fun x => x / 2048 == t) (s.mapCores fun c => { c with copies := c.copies.filter fun k => k.line / 512 != t })
        let x := s.tideAt t
        let holder := (s.slots.find? fun x => x.die == dieOfTide (paLocal (t * 65536)) && x.slot == t % 65536 / 160).map TideSlot.part
        let s := s.setTide { x with state := .backed f, held := 0, zmap := 0, backer := holder }
        (true, strikeSectors (fun n => n / 2048 == t) cur s)

/-- HELD lines of a frame. -/
def TideFrame.heldCount (t : TideFrame) : Nat := ((List.range 512).filter fun j => t.held.testBit j).length

/-- TRAPINFO of a tidepool-spill trap (R461). -/
def spillInfo (t : TideFrame) : Word := BitVec.ofNat 64 (t.frame * 65536 + t.heldCount)

/-- Every line of a frame becomes ZERO, GEN rises by 1, and the watch entries that meet the frame are struck (R452, R454, R459, R460,
R464). -/
def dropFrame (t : Nat) (s : State) : State :=
  let at_ := s.place (t * 65536) / 65536
  strikeSectors (fun x => x / 2048 == at_) (s.curAt (t * 65536)) (bumpGen t (forRange dropLine (t * 512) 512 s))

/-! ### RESERVE (R332, R379, R459) -/

/-- The slots of a die that a partition holds, rising. -/
def State.slotsOf (s : State) (die part : Nat) : List Nat :=
  (List.range 12).filter fun k => s.slots.any fun x => x.die == die && x.slot == k && x.part == part

/-- The slot of a die that serves a frame of the package's tidepool window. -/
def State.frameIn (s : State) (die : Nat) (l : List Nat) (frame : Nat) : Bool :=
  s.inTide (frame * 65536) && dieOfTide (paLocal (frame * 65536)) == die && l.contains (frame % 65536 / 160)

/-- How the frames of the slots given up stand (R334, R459). -/
inductive Spill where
  | ok (s : State)
  | trap (t : TrapRec) (s : State)
  | wait

/-- The frames of slots given up are backed in turn, or the first FAULT frame traps. -/
def spillFrames : List TideFrame → State → Spill
  | [], s => .ok s
  | t :: l, s =>
    let mine := match t.state with | .resident => true | .pending h => h == s.hart.id | _ => false
    let busy := s.frameBusy (t.frame * 65536)
    if busy then .wait
    else if !mine || t.held == 0 then spillFrames l s
    else
      match (if t.pol then backFrame s.part t.frame s else (false, s)) with
      | (true, s) => spillFrames l s
      | (false, s) => .trap ⟨21, spillInfo t, 2, 0⟩ (s.setTide { s.tideAt t.frame with state := .pending s.hart.id })

/-- RESERVE gives up slots whose lines have been placed (R379). -/
def giveUp (die : Nat) (l : List Nat) (s : State) : State :=
  let s := dropTlb (fun e => s.frameIn die l (e.pa / 65536)) s
  { s with slots := s.slots.filter fun x => !(x.die == die && x.part == s.partNum && l.contains x.slot) }

/-- RESERVE (R379). -/
def execReserve (f : RFmt) (s : State) : Out :=
  let i : Instr := .reserve f
  .next (gated i (fun s =>
    let die := (s.getS f.sa).toNat
    let n := (s.getS f.sb).toNat
    if 8 <= die || 12 < n then scalarTrap (illegal (encode i)) s
    else
      let t := s.addCtx (s.getP f.sa ||| s.getP f.sb)
      let have_ := s.slotsOf die s.partNum
      let finish (ok : Bool) (t : State) : State :=
        let w := (t.slotsOf die s.partNum).foldl (fun w k => w + 2 ^ k) 0
        retire (t.setS f.sd (BitVec.ofNat 64 (w + if ok then 0 else 2 ^ 63)) t.ctx)
      if have_.length <= n then
        let free := (List.range 12).filter fun k => s.slots.all fun x => !(x.die == die && x.slot == k)
        let need := n - have_.length
        if free.length < need then finish false t
        else finish true { t with slots := t.slots ++ (free.take need).map fun k => ⟨die, k, s.partNum⟩ }
      else
        let give := have_.drop n
        let frames := s.tide.filter fun x => s.frameIn die give x.frame
        if frames.any TideFrame.elastic then finish false t
        else if s.inFlight fun a n => s.inTide a && s.frameIn die give (a / 65536) && n != 0 then waitFor .drain s
        else
          match spillFrames frames t with
          | .wait => waitFor .frame s
          | .trap e u =>
            let x : Nat × Option Mode := ((e.info.extractLsb' 16 36).toNat, none)
            scalarTrap e { u with hart := { s.hart with
              event := true, spills := if s.hart.spills.contains x then s.hart.spills else s.hart.spills ++ [x] } }
          | .ok u => finish true (giveUp die give u)) s)

/-! ### MIGRATE (R335, R380, R434, R459) -/

/-- The page at `from_` moves to tidepool frame `dst` (R335, R380, R434, R459, R460). -/
def moveFrame (from_ dst : Nat) (s : State) : State :=
  if from_ == dst then s
  else
    let t := s.tideAt from_
    let wf := s.provAt (from_ * 65536)
    let n := s.tideAt dst
    let cur := (s.provAt (dst * 65536)).cur ||| wf.cur
    let bytes := s.frameBytes from_
    let held := match t.state with
      | .backed _ => (List.range 512).foldl (fun h j => if t.zmap.testBit j then h else h + 2 ^ j) 0
      | _ => t.held
    let old := wf.frame
    let s := strikeSectors (fun x => x / 2048 == old) wf.cur (strikeSectors (fun x => x / 2048 == dst) cur s)
    let s := match t.state with
      | .backed f => returnSpill s.part f (movePoison f dst s)
      | _ => movePoison from_ dst s
    let s := s.setTide { t with state := .resident, held := 0, zmap := 0, chan := none, backer := none }
    let s := s.setTide { n with state := .resident, held := 0, zmap := 0, backer := none }
    let s := s.mapCores fun c => { c with copies := c.copies.filter fun k => k.line / 512 != old && k.line / 512 != dst }
    let s := endOwners (fun x => x / 2048 == old || x / 2048 == dst) s
    let s := { s with mem := memWriteList (dst * 65536) bytes (memErase (from_ * 65536) 65536 s.mem) }
    let s := s.setTide { s.tideAt dst with held := held, gen := t.gen, d := t.d, pol := t.pol, task := t.task, first := t.first,
                                           chan := t.chan }
    let s := s.setProv ⟨dst, wf.ceil ||| cur, cur⟩
    let s := s.mapPlaces fun a => if a / 65536 == from_ then dst * 65536 + a % 65536 else a
    { s with chans := s.chans.map fun c => { c with ringFrames := c.ringFrames.map fun x => if x == from_ then dst else x } }

/-- MIGRATE (R380). A target that an elastic buffer holds is no tidepool page (R253) and raises the page fault of kind 6 too (log entry
34). -/
def execMigrate (f : RFmt) (s : State) : Out :=
  let i : Instr := .migrate f
  .next (gated i (fun s =>
    let va := s.getS f.sa
    let dst := s.getS f.sb
    if !canonical va then scalarTrap ⟨8, va, 4, 0⟩ s
    else
      match s.walkFrom (vaNum va) 4 (rootOf s.hart.csr.ptroot) with
      | .error e => scalarTrap (walkTrap va 0 e) s
      | .ok l =>
        let pa := bitsAt l.pte 16 36 * 65536
        if !l.pte.testBit 9 then scalarTrap ⟨8, va, 3 + 16 * l.level, 0⟩ s
        else if !s.slotOk (s.part.map Part.num) pa then scalarTrap ⟨8, va, 5, 0⟩ s
        else if !(s.inTide dst.toNat && s.paExists dst.toNat &&
            (s.slotsOf (dieOfTide (paLocal dst.toNat)) s.partNum).contains (dst.toNat / 65536 % 65536 / 160)) ||
            (s.tideAt (dst.toNat / 65536)).elastic then
          scalarTrap ⟨8, va, 6, 0⟩ s
        else if s.frameBusy pa || s.frameBusy dst.toNat then waitFor .frame s
        else
          let t := s.addCtx (s.getP f.sa ||| s.getP f.sb)
          let t := moveFrame (pa / 65536) (dst.toNat / 65536) t
          let t := storeHome l.at_ (toLeBytes 8 (setBitsAt l.pte 16 36 (dst.toNat / 65536))) pvEmpty t
          retire (dropTlb (fun e => e.pa / 65536 == pa / 65536) t)) s)

/-! ### TLBINV (R381) -/

/-- TLBINV (R381, R413): it waits until every access that used what it drops has been performed. -/
def execTlbinv (f : RFmt) (s : State) : Out :=
  let i : Instr := .tlbinv f
  .next (gated i (fun s =>
    let b := (s.getS f.sb).toNat
    let va := s.getS f.sa
    let id := b / 65536
    let glob (e : TlbEntry) : Bool := e.flags.getLsbD 5
    let bad (e : TlbEntry) : Bool :=
      if b % 4 == 0 then canonical va && decide (id < 4096) && (e.asid == id || glob e) && e.va / 2 ^ e.bits == vaNum va / 2 ^ e.bits
      else if b % 4 == 1 then e.asid == id && !glob e
      else true
    if b / 2 ^ 32 != 0 || b / 4 % 2 ^ 14 != 0 || b % 4 == 3 then scalarTrap (illegal (encode i)) s
    else if s.entriesUsed bad then waitFor .drain s
    else retire (dropTlb bad (s.addCtx (s.getP f.sa ||| s.getP f.sb)))) s)

/-! ### PGFREE and unscrubbed frames (R336, R383) -/

/-- `n` frames from `lo` become unscrubbed (R336): they read as zeros from now on, with no mark of poison left, and every cached copy
goes. -/
def unscrub (lo n : Nat) (s : State) : State :=
  let inF (frame : Nat) : Bool := lo <= frame && frame < lo + n
  let s := s.mapCores fun c => { c with copies := c.copies.filter fun k => !inF (k.line / 512) }
  let s := endOwners (fun x => inF (x / 2048)) s
  { s with mem := memErase (lo * 65536) (n * 65536) s.mem, unscrubbed := (lo, n) :: s.unscrubbed,
           clearing := s.clearing.filter fun f => !inF f, poison := s.poison.filter fun x => !inF (x / 2048),
           prov := (s.prov.map fun w => if inF w.frame then { w with cur := pvEmpty } else w).filter fun w => w.ceil != 0 || w.cur != 0 }

/-- PGFREE (R383, R483). -/
def execPgfree (f : RFmt) (s : State) : Out :=
  let i : Instr := .pgfree f
  .next (gated i (fun s =>
    let a := s.getS f.sa
    let n := (s.getS f.sb).toNat
    let lo := a.toNat / 65536
    if a.toNat % 65536 != 0 then scalarTrap ⟨7, a, 0, 0⟩ s
    else if !(match s.part with | some p => p.owns lo n | none => n == 0) then scalarTrap (privilege (encode i)) s
    else
      let t := s.addCtx (s.getP f.sa ||| s.getP f.sb)
      let t := unscrub lo n t
      retire (strikeSectors (fun x => lo <= x / 2048 && x / 2048 < lo + n) pvEmpty t)) s)

/-- UNSCRUB_CLEAR_DONE (R336): the background clear of a frame, which an access has started, ends and clears its bit. -/
def execUnscrubClearDone (frame : Nat) (s : State) : Out :=
  .next (if !s.clearing.contains frame then s else { s with clearing := s.clearing.filter (· != frame), unscrubbed := s.unscrubbed.flatMap fun r =>
    if r.1 <= frame && frame < r.1 + r.2 then
      [(r.1, frame - r.1), (frame + 1, r.1 + r.2 - frame - 1)].filter fun x => x.2 != 0
    else [r] })

end Sys2Proof.Machine
end

