-- ==== Sys2Proof/Machine/Tasks.lean ====
section
/-! DEFINITION. Launch queues, task records, placement and the end of tasks (R362, R391-R403). -/

namespace Sys2Proof.Machine

/-! ### Queue descriptors (R391, R392) -/

/-- A valid queue descriptor. -/
structure QDesc where
  at_ : Nat
  base : Nat
  size : Nat
  prio : Nat
  part : Nat
  floor : Nat
  en : Bool
  dev : Bool
  ptroot : Word
  stvec : Word
  tail : Word
  sscr : Word
  head : Word

/-- A power of two from 1 to a bound. -/
def isPow2 (n bound : Nat) : Bool := (List.range 17).any fun k => 2 ^ k == n && decide (n <= bound)

/-- Memory that no agent may read now: of a retired frame or an unreachable package, or with a poison mark (R426, R483, R489). -/
def State.lost (s : State) (pa n : Nat) : Bool := (s.deadFrame pa 0).isSome || s.poisoned pa n

/-- The descriptor of a queue, where its fields are in range and its zero fields zero (R391); one that cannot be read is none (R483; log
entry 80). -/
def State.qdesc (s : State) (q : Nat) : Option QDesc :=
  match s.qtable with
  | none => none
  | some t =>
    let a := t + 64 * q
    let n (o k : Nat) : Nat := s.homeNum (a + o) k
    let w (o : Nat) : Word := BitVec.ofNat 64 (n o 8)
    let fl := n 15 1
    if !s.lost a 64 && n 0 8 % 64 == 0 && s.paExists (n 0 8) && isPow2 (n 8 4) 65536 && decide (n 12 1 <= 11) && decide (n 13 1 <= 63)
        && fl / 4 == 0 && n 16 8 % 4096 == 0 && n 24 8 % 8 == 0 && n 56 8 == 0
    then some ⟨a, n 0 8, n 8 4, n 12 1, n 13 1, n 14 1, fl.testBit 0, fl.testBit 1, w 16, w 24, w 32, w 40, w 48⟩
    else none

/-- What the dispatcher holds of a queue. -/
def State.qstate (s : State) (q : Nat) : QState := (findBy QState.num q s.queues).getD ⟨q, 0, 0, none⟩
/-- Records what the dispatcher holds of a queue. -/
def State.setQ (s : State) (x : QState) : State := { s with queues := putBy QState.num x s.queues }

/-- TAIL as the dispatcher knows it: its own for a device-fed queue, the value last observed for a host-fed one (R392). -/
def State.qtail (s : State) (q : Nat) (d : QDesc) : Word := if d.dev then d.tail else (s.qstate q).tail

/-- QUEUE_TAIL_OBSERVE (R392). -/
def observeTail (q : Nat) (s : State) : State :=
  match s.qdesc q with
  | some d => if d.dev then s else s.setQ { s.qstate q with tail := d.tail }
  | none => s

/-- QUEUE_TAIL_OBSERVE (R392). -/
def execQueueTailObserve (queue : Nat) (s : State) : Out := .next (observeTail queue s)

/-! ### LAUNCH (R362) -/

/-- LAUNCH's append to a queue once its checks have passed: the record is read, the slot checked and written, TAIL raised. -/
def launchTo (f : RFmt) (q : Nat) (d : QDesc) (s : State) : State :=
  let a := s.getS f.sa
  let s0 := s
  let s := releaseFence 3 s
  match access a 64 .read 2 true s with
  | .trap t => scalarTrap t (touch a .read s0)
  | .wait w => waitFor w s0
  | .ok pa t =>
    let t := t.addCtx (s.getP f.sa ||| s.getP f.sb)
    let fin (v : Word) (t : State) : State := retire (t.setS f.sd v (s.getP f.sb ||| t.ctx))
    if d.size <= (d.tail - d.head).toNat then fin 1 t
    else
      let slot := d.base + 64 * (d.tail.toNat % d.size)
      let p := t.loadPv pa ||| s.getP f.sa ||| s.getP f.sb ||| t.ctx
      match (match t.deadFrame slot 64 with
        | some d => some ⟨20, BitVec.ofNat 64 slot, d, 3⟩
        | none => writeCheck (BitVec.ofNat 64 slot) slot p 3 t) with
      | some e => scalarTrap e (touch a .read s0)
      | none =>
        let t := storePa slot (toLeBytes 64 (t.loadNum pa 64)) p t
        fin 0 (storeHome (s.qtable.getD 0 + 64 * q + 32) (toLeBytes 8 (d.tail + 1).toNat) pvEmpty t)

/-- LAUNCH (R55, R362). -/
def execLaunch (f : RFmt) (s : State) : Out :=
  let i : Instr := .launch f
  .next (gated i (fun s =>
    let a := s.getS f.sa
    let q := (s.getS f.sb).toNat
    if a.toNat % 64 != 0 then scalarTrap ⟨7, a, 0, 2⟩ s
    else
      match (if q < 256 then s.qdesc q else none) with
      | none => syncTrap i 4 0 s
      | some d =>
        if !d.dev || s.part.map Part.num != some d.part then syncTrap i 4 0 s
        else watchGate (launchTo f q d) s) s)

/-! ### Acting for a queue -/

/-- The first core of a partition, from whose place the dispatcher translates. -/
def Part.firstCore (p : Part) : Nat := 8 * (((List.range 40).find? fun c => p.coves.getLsbD c).getD 0)

/-- Acts as a user-mode access under a PTROOT does (R396). -/
def asUser {α : Type} (core : Nat) (ptroot : Word) (f : State → α × State) (s : State) : α × State :=
  let me := s.hart.id
  let t := focus ⟨core, 0⟩ s
  let m := t.hart.mode
  let r := t.hart.csr.ptroot
  let (a, u) := f (t.mapHart fun h => { h with mode := .user, csr := { h.csr with ptroot := ptroot } })
  (a, focus me (u.mapHart fun h => { h with mode := m, csr := { h.csr with ptroot := r } }))

/-- A user-mode translation under a queue's PTROOT. -/
def userXlat (core : Nat) (ptroot va : Word) (p : Perm) (s : State) : Option Nat × State :=
  asUser core ptroot (fun t => match xlat va p t with
    | .ok (pa, _, u) => (some pa, u)
    | .error _ => (none, walkClear ptroot va t)) s

/-- The completion signal of R397, or the log record of its drop (R396). -/
def signal (q core : Nat) (ptroot done : Word) (code : Nat) (s : State) : State :=
  if done == 0 then s
  else
    match userXlat core ptroot done .write s with
    | (some pa, s) => storeHome pa (toLeBytes 8 (2 ^ 63 + code)) pvEmpty s
    | (none, s) => logEvent 15 0 q done.toNat s

/-! ### Records (R393-R396, R398) -/

/-- A double of a record. -/
def recWord (r : List Word) (k : Nat) : Word := r[k]?.getD 0
/-- A field of a record's CONFIG (R395). -/
def recConf (r : List Word) (off n : Nat) : Nat := bitsAt (recWord r 3).toNat off n
/-- Lanes per hart. -/
def recLanes (r : List Word) : Nat := 32 / 2 ^ recConf r 18 2
/-- Harts per core. -/
def recHarts (r : List Word) : Nat := 2 ^ recConf r 16 2
/-- Watermark `n`: its address and bound. -/
def recMark (r : List Word) (n : Nat) : Word × Nat := (recWord r (5 + n), bitsAt (recWord r 7).toNat (32 * n) 32)

/-- Cores of a partition that are in service (R396, R487). -/
def State.partCores (s : State) (p : Part) : List Nat :=
  (List.range 320).filter fun n => p.coves.getLsbD (n / 8) && (s.coreAt n).inService

/-- The first check of R396. -/
def recordShape (r : List Word) (cores : Nat) : Bool :=
  let c := (recWord r 3).toNat
  let b := (recWord r 4).toNat
  bitsAt c 40 24 == 0 && bitsAt c 9 7 == 0 && (if b.testBit 4 then !b.testBit 5 else b == 0)
    && [0, 1].all (fun n => (recMark r n).1 != 0 || (recMark r n).2 == 0)
    && decide (1 <= recConf r 0 9) && decide (recConf r 0 9 <= cores) && decide (recConf r 30 4 <= 11)
    && decide (recConf r 20 6 <= 32) && decide (recConf r 26 4 <= 8) && decide (recHarts r * recLanes r <= 32)
    && (recWord r 0).toNat % 8 == 0 && (recWord r 2).toNat % 8 == 0

/-- What the dispatcher finds of the image that a record preloads. -/
inductive Preload where
  | image (im : RImage) (p : PvSet)
  | bad
  | wait

/-- The preloaded image read and checked as BIND does, which waits where BIND does (R396, R402, R457, R467). -/
def recordImage (core : Nat) (d : QDesc) (r : List Word) (s : State) : Preload × State :=
  asUser core d.ptroot (fun t =>
    match readImage (recWord r 4 &&& ~~~63) t with
    | .ok (im, p, t) => (.image im p, t)
    | .error (.inl (.inr _)) => (.wait, t)
    | .error _ => (.bad, t)) s

/-- A watermark address that may be read (R396). -/
def markOk (core : Nat) (d : QDesc) (a : Word) (s : State) : Bool × State :=
  if a == 0 then (true, s)
  else if a.toNat % 8 != 0 then (false, s)
  else
    match userXlat core d.ptroot a .read s with
    | (some pa, s) => (!s.inHost pa, s)
    | (none, s) => (false, s)

/-- The checks of R396: the code of the first failure, or 0; none while the image's page makes BIND wait. -/
def checkRecord (p : Part) (d : QDesc) (r : List Word) (s : State) : Option Nat × State :=
  if !recordShape r (s.partCores p).length then (some 1, s)
  else if recConf r 34 6 != d.part then (some 2, s)
  else
    let (a, s) := markOk p.firstCore d (recMark r 0).1 s
    let (b, s) := markOk p.firstCore d (recMark r 1).1 s
    if !a || !b then (some 3, s)
    else if (recWord r 4).getLsbD 4 then
      match recordImage p.firstCore d r s with
      | (.image _ _, s) => (some 0, s)
      | (.bad, s) => (some 4, s)
      | (.wait, s) => (none, s)
    else (some 0, s)

/-- HEAD advances past a record (R391, R393). -/
def advanceHead (q : Nat) (d : QDesc) (s : State) : State :=
  (storeHome (d.at_ + 48) (toLeBytes 8 (d.head + 1).toNat) pvEmpty s).setQ { s.qstate q with head := none }

/-- A record is rejected (R396). -/
def rejectRecord (q : Nat) (p : Part) (d : QDesc) (r : List Word) (code : Nat) (s : State) : State :=
  signal q p.firstCore d.ptroot (recWord r 2) code (advanceHead q d s)

/-- RECORD_TAKE (R393, R396): the record at the head of an enabled queue is read once and checked; one that cannot be read stays where it is
(log entry 80). -/
def takeRecord (q : Nat) (s : State) : State :=
  match s.qdesc q with
  | none => s
  | some d =>
    match s.partAt d.part with
    | none => s
    | some p =>
      if !d.en || (s.qstate q).head.isSome || d.head == s.qtail q d then s
      else
        let slot := d.base + 64 * (d.head.toNat % d.size)
        let r := (List.range 8).map fun k => BitVec.ofNat 64 (s.homeNum (slot + 8 * k) 8)
        let s := startClear slot s
        if s.lost slot 64 then s
        else
        match checkRecord p d r s with
        | (none, t) => t
        | (some 0, t) => t.setQ { t.qstate q with head := some ⟨r, s.curAt slot, s.clk, max d.prio (recConf r 30 4), false⟩ }
        | (some c, t) => rejectRecord q p d r c t

/-- RECORD_TAKE (R393, R396). -/
def execRecordTake (queue : Nat) (s : State) : Out := .next (takeRecord queue s)

/-- A dependence watermark has reached its bound (R398). -/
def markMet (core : Nat) (d : QDesc) (m : Word × Nat) (s : State) : Bool × State :=
  if m.1 == 0 then (true, s)
  else
    match userXlat core d.ptroot m.1 .read s with
    | (some pa, s) => (!s.lost pa 8 && decide (m.2 <= s.homeNum pa 8), startClear pa s)
    | (none, s) => (false, s)

/-- DEPENDENCE_WATERMARK_MET (R398): the record becomes eligible, and its wait at its level begins (R400). -/
def dependencesMet (q : Nat) (s : State) : State :=
  match s.qdesc q, (s.qstate q).head with
  | some d, some h =>
    match s.partAt d.part with
    | none => s
    | some p =>
      if h.eligible then s
      else
        let (a, s) := markMet p.firstCore d (recMark h.record 0) s
        let (b, s) := markMet p.firstCore d (recMark h.record 1) s
        if a && b then s.setQ { s.qstate q with head := some { h with eligible := true, since := s.clk } } else s
  | _, _ => s

/-- DEPENDENCE_WATERMARK_MET (R398). -/
def execDependenceWatermarkMet (queue : Nat) (s : State) : Out := .next (dependencesMet queue s)

/-! ### Placing (R401, R402) -/

/-- Cores that no task holds, in the coves of a partition (R401). -/
def State.freeCores (s : State) (p : Part) : List Nat := (s.partCores p).filter fun n => (s.coreAt n).task.isNone

/-- The cores that placement takes out of free ones (R401). -/
def pickCores (free : List Nat) (c : Nat) : Option (List Nat) :=
  let within (unit k : Nat) : List Nat := free.filter fun n => n / unit == k
  let cove := if c <= 8 then (List.range 40).find? fun k => decide (c <= (within 8 k).length) else none
  match cove with
  | some k => some ((within 8 k).take c)
  | none =>
    match (List.range 8).find? fun k => decide (c <= (within 40 k).length) with
    | some k => some ((within 40 k).take c)
    | none => if c <= free.length then some (free.take c) else none

/-- A core without claims, channel ends, barriers or reef state of a task; placed forms stay (R402, R403). -/
def Core.vacate (c : Core) : Core :=
  { c with task := none, ends := [], isl := Island.empty, reef := { c.reef with run := none, queue := [], conts := [] } }

/-- A core taken by a task: storage level 1, no claims (R402). -/
def Core.occupy (num : Nat) (c : Core) : Core := { c.vacate with task := some num, level := 1 }

/-- A hart as a task starts it (R402). -/
def Hart.placed (core k h : Nat) (r : List Word) (d : QDesc) (ctx : PvSet) : Hart :=
  let x := Hart.initial core h
  let ng := recLanes r / 4
  { x with status := .waiting .start, pc := recWord r 0, ctx := ctx, laneLo := h * ng, laneN := ng,
           csr := { x.csr with srstate := BitVec.ofNat 64 (8 * k + h + 1), argaddr := recWord r 1, ptroot := d.ptroot,
                               tvec := d.stvec, sscratch := d.sscr } }

/-- The binding that a record preloads, made for the process of the queue (R402, R133). -/
def preload (core : Nat) (d : QDesc) (r : List Word) (im : RImage) (p : PvSet) (cores : List Nat) (s : State) : State :=
  let slot := (recWord r 4).toNat % 16
  let asid := asidOf d.ptroot
  let b : Binding := ⟨d.part, asid, slot, recWord r 4 &&& ~~~63, im, p⟩
  let ((), s) := asUser core d.ptroot (fun t =>
    let t := dropForms asid slot t
    ((), { t with binds := b :: t.binds.filter fun x => !(x.part == d.part && x.asid == asid && x.slot == slot) })) s
  cores.foldl (fun s n => ((asUser n d.ptroot (fun t => ((), placeImage asid slot im t)) s)).2) s

/-- The task of an eligible head is placed on its cores (R402); an image that now fails rejects the record, and one whose page makes BIND wait
leaves it at the head. -/
def placeHead (q : Nat) (p : Part) (d : QDesc) (h : QHead) (cores : List Nat) (s : State) : State :=
  let r := h.record
  let put (s : State) : State :=
    let num := 1024 + s.taskSeq
    let s := cores.foldl (fun s n => onCore n (fun s => s.mapCore (Core.occupy num)) s) s
    let s := cores.zipIdx.foldl (fun s (n, k) =>
      (List.range (recHarts r)).foldl (fun s x => s.setHart (Hart.placed n k x r d h.pv)) s) s
    let t : Task :=
      { num := num, part := d.part, queue := q, level := h.level, ptroot := d.ptroot, cores := cores, dies := cores.map (· / 40),
        tiles := recConf r 20 6, accs := recConf r 26 4, done := recWord r 2, code := 0, placed := s.taskSeq, since := s.clk,
        state := .running, asked := 0, spilled := [], dropped := false, swap := [], back := false, harts := [], saves := [] }
    advanceHead q d { s with tasks := s.tasks ++ [t], taskSeq := s.taskSeq + 1 }
  if (recWord r 4).getLsbD 4 then
    match recordImage p.firstCore d r s with
    | (.bad, s) => rejectRecord q p d r 4 s
    | (.wait, s) => s
    | (.image im pv, s) => preload p.firstCore d r im (pv ||| h.pv) cores (put s)
  else put s

/-- A placed hart performs its acquire at SYS scope and may issue (R353, R402). -/
def startHart (who : HartId) (s : State) : State :=
  onHart who (fun s =>
    if s.hart.status == .waiting .start then (acquireFence 5 s).mapHart fun h => { h with status := .running } else s) s

/-- HART_START (R353, R402). -/
def execHartStart (who : HartId) (s : State) : Out := .next (startHart who s)

/-! ### The end of a task (R397, R403) -/

/-- Records a task. -/
def State.setTask (s : State) (t : Task) : State := { s with tasks := s.tasks.map fun x => if x.num == t.num then t else x }
/-- A task by number. -/
def State.taskAt (s : State) (n : Nat) : Option Task := findBy Task.num n s.tasks
/-- The contexts of a task's cores that are not free. -/
def State.taskHarts (s : State) (t : Task) : List Hart := s.allHarts.filter fun h => t.cores.contains h.core && h.status != .free

/-- Closes the channel ends of a core (R403). -/
def closeEnds (core : Nat) (s : State) : State :=
  onCore core (fun s => s.core.ends.foldl (fun s e =>
    let s := if e.end_ == 0 then { s with chans := s.chans.map fun c => if c.key == e.chan then c.publish else c } else s
    closeEntry e s) s) s

/-- An engine stopped by a reset or a halt leaves any subset of its destination written (R397, R423). -/
def abortJob (j : EngJob) (s : State) : State :=
  let me := s.hart.id
  let t := focus j.who s
  let some_ (src dst : Nat) (f : List Byte → List Byte) : State :=
    match engStart j src dst t with
    | .ok (a, b, p, _, t) => if spansBad a t then s else focus me (spansWriteSome p b (f (spansRead a t)) t)
    | .error _ => s
  match j.kind with
  | 1 => some_ (j.op 2).toNat (j.op 2).toNat (fun b => b)
  | 2 => if (j.op 5).getLsbD 3 then s
    else some_ (j.op 2).toNat (j.op 3).toNat (fun b => (decompress (j.op 4).toNat (j.op 3).toNat b).1)
  | _ => s

/-- Stops the engines of some jobs; a delivery that the breakwater has accepted goes on (R475). -/
def abortJobs (mine : EngJob → Bool) (s : State) : State :=
  let s := (s.engq.filter mine).foldl (fun s j => abortJob j s) s
  { s with engq := s.engq.filter (fun j => !mine j), sreads := s.sreads.filter (fun j => !mine j),
           gateq := s.gateq.filter (fun j => !mine j) }

/-- Frees every context of some cores; their registers keep what they hold (R402, R403), and frames that waited for a spill handler there are
resident again (R461). -/
def freeContexts (cores : List Nat) (s : State) : State :=
  let there (b : HartId) : Bool := cores.contains b.core
  let s := { s with rereads := s.rereads.filter fun x => !there x.1
                    tide := s.tide.map fun (t : TideFrame) => match t.state with
                      | .pending b => if there b then { t with state := .resident } else t
                      | _ => t }
  s.mapHarts fun h => if cores.contains h.core then h.freed else h

/-- Settles what a task's harts left open (R403); a halted hart stops the engines as well (R397). -/
def settleTask (t : Task) (code : Nat) (s : State) : State :=
  let s := if code == 0 then s else abortJobs (fun j => t.cores.contains j.who.core && (s.savedOwner (some t.num) j).isNone) s
  let s := t.cores.foldl (fun s n => closeEnds n s) s
  let s := freeContexts t.cores s
  let s := s.mapCores fun c =>
    if t.cores.contains c.num then
      { c with isl := Island.empty, reef := { c.reef with run := none, queue := [], conts := [] } } else c
  ({ s with barriers := s.barriers.filter fun b => b.task != t.num }).setTask { t with state := .ended, code := code }

/-- The last hart of a task has ended, or every other has and one has halted (R397, R403). -/
def State.taskOver (s : State) (t : Task) : Bool := t.harts.isEmpty && (s.taskHarts t).all fun h => h.status == .halted

/-- TASK_END (R397, R403). -/
def endTask (t : Task) (s : State) : State :=
  if (t.state == .running || t.state == .stopping) && s.taskOver t then settleTask t (if (s.taskHarts t).isEmpty then 0 else 5) s
  else s

/-- TASK_END (R403). -/
def execTaskEnd (task : Nat) (s : State) : Out :=
  .next (match s.taskAt task with | some t => endTask t s | none => s)

/-- Cores become free. -/
def freeCoresOf (cores : List Nat) (s : State) : State :=
  s.mapCores fun c => if cores.contains c.num then c.vacate else c

/-- COMPLETION_SIGNAL_WRITE (R353, R396, R397): with every engine of the task done, its cores merge, the signal is written
and the cores become free. -/
def signalTask (t : Task) (s : State) : State :=
  let busy := s.engq ++ s.sreads ++ s.gateq
  if t.state != .ended || busy.any fun j => t.cores.contains j.who.core && (s.savedOwner (some t.num) j).isNone then s
  else
    let s := t.cores.foldl (fun s n => mergeCore n s) s
    let core := match s.partAt t.part with | some p => p.firstCore | none => t.cores.headD 0
    let s := signal t.queue core t.ptroot t.done t.code s
    freeCoresOf t.cores { s with tasks := s.tasks.filter fun x => x.num != t.num }

/-- COMPLETION_SIGNAL_WRITE (R397). -/
def execCompletionSignalWrite (task : Nat) (s : State) : Out :=
  .next (match s.taskAt task with | some t => signalTask t s | none => s)

/-- A saved task ends with a code: its engines stop, and its signal is written (R397, R487). -/
def dropSaved (t : Task) (code : Nat) (s : State) : State :=
  let s := abortJobs (fun j => t.harts.any fun h => h.tags.any fun g => g.uid == j.uid) s
  let s := { s with tasks := s.tasks.filter fun x => x.num != t.num, barriers := s.barriers.filter fun b => b.task != t.num }
  signal t.queue ((s.partAt t.part).elim 0 Part.firstCore) t.ptroot t.done code s

/-- A task ended by the machine itself, with code 6 (R397, R486, R497). -/
def killTask (t : Task) (s : State) : State :=
  match t.state with
  | .ended => s
  | .saved => dropSaved t 6 s
  | _ => settleTask { t with harts := [], saves := [] } 6 s

end Sys2Proof.Machine
end

