-- ==== Sys2Proof/Machine/Preempt.lean ====
section
/-! DEFINITION. Pre-emption, saving and restoring of tasks (R386-R389, R404, R405, R418-R422, R459, R461, R486-R488, R498),
and the dispatch decision (R399, R400). -/

namespace Sys2Proof.Machine

/-! ### The request (R86, R404, R418) -/

/-- Bytes of a partition's context pool that saved and stopping tasks use: 3 MiB per core (R472). -/
def State.poolUsed (s : State) (part : Nat) : Nat :=
  s.tasks.foldl (fun n t => if t.part == part && (t.state == .saved || t.state == .stopping) then n + t.cores.length * 3145728 else n) 0

/-- The context pool can hold a task (R418). -/
def State.canSave (s : State) (t : Task) (used : Nat) : Bool :=
  match (s.partAt t.part).bind Part.ctxPool with
  | some (_, n) => decide (used + t.cores.length * 3145728 <= n)
  | none => false

/-- A pre-emption request reaches a running task: its harts' event flags are set (R86, R404). It has no effect where the last hart has
ended (R405). -/
def requestStop (t : Task) (s : State) : State :=
  if s.taskOver t then s
  else
  let s := s.mapHarts fun h => if t.cores.contains h.core && h.status != .free then { h with event := true } else h
  s.setTask { t with state := .stopping, asked := s.clk, spilled := [] }

/-! ### Tidepool spills at pre-emption (R334, R459, R461) -/

/-- A frame that holds part of an open channel's ring, or an elastic buffer (R459). -/
def State.exempt (s : State) (t : TideFrame) : Bool := t.elastic || s.chans.any fun c => c.ringFrames.contains t.frame

/-- The next frame of a stopping task that has a spill event to come (R459). -/
def State.nextSpill (s : State) (t : Task) : Option TideFrame :=
  s.tide.find? fun x => x.task == some t.num && x.held != 0 && !s.exempt x && x.state == .resident &&
    decide (t.spilled.count x.frame < if x.d || x.pol then 2 else 1)

/-- A hart of the task has taken, or is to take, a spill trap whose handler has not returned (R461). -/
def State.spillOpen (s : State) (t : Task) : Bool := (s.taskHarts t).any fun h => h.status != .halted && !h.spills.isEmpty

/-- The hart that takes a spill trap (R461). -/
def State.spillHart (s : State) (t : Task) : Option Hart :=
  t.cores.findSome? fun n => s.allHarts.find? fun h => h.core == n && h.status != .free && h.status != .halted

/-- The next spill event of a stopping task; `true` when none is left and every spill handler has returned. -/
def spillStep (t : Task) (s : State) : Bool × State :=
  if s.spillOpen t then (false, s)
  else
  match s.nextSpill t with
  | none => (true, s)
  | some x =>
    if x.d then (false, (dropFrame x.frame s).setTask { t with dropped := true })
    else
      match (if x.pol then backFrame (s.partAt t.part) x.frame s else (false, s)) with
      | (true, s) => (false, s)
      | (false, s) =>
        if t.spilled.contains x.frame then (false, s.setTask { t with spilled := x.frame :: t.spilled })
        else
          match s.spillHart t with
          | none => (true, s)
          | some h =>
            let s := s.setTask { t with spilled := x.frame :: t.spilled }
            let s := s.setTide { s.tideAt x.frame with state := .pending h.id }
            (false, s.setHart { h with deferred := h.deferred ++ [⟨21, spillInfo x, 1, 0⟩], event := true,
                                       spills := h.spills ++ [(x.frame, none)] })

/-- TIDEPOOL_BACKING (R459, R463): the frame that a pre-emption spills next, under LATE, is backed from the partition's pool. -/
def execTidepoolBacking (frame : Nat) (s : State) : Out :=
  .next (match (s.tideAt frame).task.bind s.taskAt with
    | some t =>
      if t.state == .stopping && !s.spillOpen t && (s.nextSpill t).any (fun x => x.frame == frame && x.pol && !x.d)
      then (backFrame (s.partAt t.part) frame s).2 else s
    | none => s)

/-- TIDEPOOL_SPILL_TRAP (R334, R461): the next spill event of a stopping task, when it is this frame's. -/
def execTidepoolSpillTrap (frame : Nat) (s : State) : Out :=
  .next (match (s.tideAt frame).task.bind s.taskAt with
    | some t =>
      if t.state == .stopping && (s.nextSpill t).map TideFrame.frame == some frame then (spillStep t s).2 else s
    | none => s)

/-! ### Channels of a task (R386, R387, R420) -/

/-- The entries of the channel-end tables of a task's cores. -/
def State.taskEnds (s : State) (t : Task) : List EndEntry := t.cores.flatMap fun n => (s.coreAt n).ends

/-- An end of a channel belongs to the harts of some cores: an entry of their tables names it or, while it is not open, it is to be
opened on one of them and they hold another end of the channel. -/
def endIn (ends : List EndEntry) (cores : List Nat) (key end_ core : Nat) (open_ : Bool) : Bool :=
  if open_ then ends.any fun e => e.chan == key && e.end_ == end_
  else cores.contains core && ends.any fun e => e.chan == key

/-- A channel all of whose ends belong to a task (R386, R387, R420). -/
def State.ownsChan (s : State) (t : Task) (c : Chan) : Bool :=
  let l := s.taskEnds t
  endIn l t.cores c.key 0 c.prod c.sendOpen && c.branches.zipIdx.all fun (b, k) => endIn l t.cores c.key (k + 1) b.core b.isOpen

/-- The ends that a hart holds, with their channels. -/
def State.endsOf (s : State) (h : Hart) : List (EndEntry × Chan) :=
  (s.coreAt h.core).ends.filterMap fun e => if e.hart == h.ix then (s.chanAt e.chan).map fun c => (e, c) else none

/-- A branch has taken the MARK of a pre-emption, the last fill before a restore (R387). -/
def Chan.tookMark (c : Chan) (x : Branch) : Bool := c.mark.any fun f => decide (f < x.ringTaken) && x.buf.isEmpty

/-- A MARK will arrive on an open receive end of the hart (R387). -/
def State.awaitsMark (s : State) (t : Task) (h : Hart) : Bool :=
  (s.endsOf h).any fun (e, c) => e.end_ != 0 && c.sendOpen && s.ownsChan t c

/-- The hart has taken a MARK, by CHRECV or by a channel port of its opcode (R387, R422). -/
def State.tookMark (s : State) (h : Hart) : Bool :=
  ((s.endsOf h).any fun (e, c) => e.end_ != 0 && (c.branch (e.end_ - 1)).any c.tookMark)
    || (match (s.coreAt h.core).reef.run with | some r => r.hart == h.ix && r.frozen | none => false)

/-- A hart stands at a boundary at which it may be stopped (R386, R387, R498); one that has halted issues nothing more. -/
def State.mayStop (s : State) (t : Task) (h : Hart) : Bool :=
  let there := match h.status with | .running | .halted => true | .waiting .stopped | .waiting .start => false | .waiting _ => true | .free => false
  there && h.remote.isNone && h.vreq.isNone && h.deferred.isEmpty &&
    (!s.awaitsMark t h || s.tookMark h || decide (2 ^ 20 <= (s.clk - t.asked).toNat))

/-- Stops a hart. -/
def stopHart (t : Task) (who : HartId) (s : State) : State :=
  let h := s.hartAt who
  if h.status != .halted && s.mayStop t h then s.setHart { h with status := .waiting .stopped } else s

/-- The task of a core, while a pre-emption request is in force and its spills are done. -/
def State.stoppingTask (s : State) (core : Nat) : Option Task :=
  ((s.coreAt core).task.bind s.taskAt).bind fun t => if t.state == .stopping && !s.spillOpen t && (s.nextSpill t).isNone then some t else none

/-- PREEMPT_HART_STOP (R386, R387, R498). -/
def execPreemptHartStop (who : HartId) (s : State) : Out :=
  .next (match s.stoppingTask who.core with | some t => stopHart t who s | none => s)

/-- MARK_WAIT_TIMEOUT (R387): 2^20 clk after the request a hart is stopped without its MARK. -/
def execMarkWaitTimeout (who : HartId) (s : State) : Out :=
  .next (match s.stoppingTask who.core with
    | some t => if 2 ^ 20 <= (s.clk - t.asked).toNat then stopHart t who s else s
    | none => s)

/-! ### Saving a hart (R376, R377, R418, R419) -/

/-- A hart's vector registers as a save keeps them: saved bytes of dirty registers, zero elsewhere (R376, R377), and the elements that a
CHRECV which waits has taken (R416, R498). -/
def Hart.keepSaved (level : Nat) (h : Hart) : Hart :=
  let v := Vector.ofFn fun (j : Fin 32) =>
    let r := h.vec.v.get j
    { r with img := if r.dirty then r.img % 2 ^ (8 * savedLen (h.takenInto j.val) level j.val) else 0 }
  { h with vec := { h.vec with v := v } }

/-- The saved form of a hart: its watch entries all struck (R419), its matrix words that had not begun with it. -/
def Hart.saved (level : Nat) (order : List MqItem) (h : Hart) : Hart :=
  let struck (l : List WatchEntry) : List WatchEntry := l.map fun _ => WatchEntry.switched
  let h := h.keepSaved level
  { h with status := if h.status == .halted then .halted else .running, mq := order ++ h.mq, watch := struck h.watch,
           asideS := struck h.asideS, asideH := struck h.asideH, cur := none, fetchTaken := true }

/-- Steps, fills and drains begun in the island complete; a drain that waits for an XOP stays pending (R287, R418). -/
def flushIsland : Nat → State → State
  | 0, s => s
  | n + 1, s => flushIsland n (finishFill (finishStep (runDrain s)))

/-- What the current hart has begun completes before it is saved: its core's steps, fills and drains, and the accesses that its opcode
has issued (R247, R418). -/
def settleHart (s : State) : State :=
  let s := flushIsland 9 s
  if s.core.reef.run.any fun r => r.hart == s.hart.ix then freezeRun s else s

/-- The opcode of a hart has an issued access that waits for its page: the hart is saved once it has been performed (R247). -/
def State.opcodeWaits (s : State) (who : HartId) : Bool :=
  let u := focus who s
  (u.core.reef.run.any fun r => r.hart == who.hart) && u.runWaits

/-- Saves a stopped hart, or one that has halted: its context, the opcode it ran as its continuation, and its matrix words (R418). -/
def saveHart (t : Task) (who : HartId) (s : State) : State :=
  let h := s.hartAt who
  if !(h.status == .waiting .stopped || (h.status == .halted && s.mayStop t h)) then s
  else
    let s := onHart who settleHart s
    if s.opcodeWaits who then s
    else
    let h := s.hartAt who
    let c := s.coreAt who.core
    let mine := c.isl.order.filter fun x => x.who == who
    let h' := h.saved c.level mine
    let s := onCore who.core (fun s => s.mapCore fun c =>
      let r := c.reef
      let conts := match r.run with
        | some x => if x.hart == h.ix then { x with frozen := false } :: r.conts.filter (fun y => y.hart != h.ix) else r.conts
        | none => r.conts
      let run := match r.run with | some x => if x.hart == h.ix then none else some x | none => none
      { c with isl := { c.isl with order := c.isl.order.filter fun x => x.who != who },
               reef := { r with run := run, conts := conts, queue := r.queue.filter (· != h.ix) } }) s
    (s.setHart h.freed).setTask { t with harts := t.harts ++ [h'] }

/-- HART_CONTEXT_SAVE (R387, R418). -/
def execHartContextSave (who : HartId) (s : State) : Out :=
  .next (match s.stoppingTask who.core with | some t => saveHart t who s | none => s)

/-! ### Marks (R386, R387, R420, R421) -/

/-- The hart that held an end has been saved, or has ended without closing it (R386, R387). -/
def Task.hasSaved (t : Task) (core ix : Nat) (s : State) : Bool :=
  (t.harts.any fun h => h.core == core && h.ix == ix) || (s.hartAt ⟨core, ix⟩).status == .free

/-- Publishes a MARK fill on a channel whose sending hart has been saved (R386, R387). -/
def publishMarkFill (t : Task) (key : Nat) (s : State) : State :=
  match s.chanAt key with
  | none => s
  | some c =>
    let holder := (s.coreAt c.prod).ends.find? fun e => e.chan == key && e.end_ == 0
    match holder with
    | none => s
    | some e =>
      if c.mark.isSome || !c.sendOpen || !s.ownsChan t c || !t.hasSaved c.prod e.hart s || !c.mayMark then s
      else (engSlot c c.fills 0 (slotLines c.slotl [⟨6, 0⟩]) s).setChan { c.fill with mark := some c.fills }

/-- A stopping task that owns a channel. -/
def State.chanTask (s : State) (key : Nat) : Option Task :=
  (s.chanAt key).bind fun c => s.tasks.find? fun t => t.state == .stopping && s.ownsChan t c

/-- MARK_FILL_PUBLISH (R386, R387, R420). -/
def execMarkFillPublish (chan : Nat) (s : State) : Out :=
  .next (match s.chanTask chan with | some t => publishMarkFill t chan s | none => s)

/-- Records what is left of the oldest slot, given as its lines, and frees it; a MARK is taken and not recorded (R387, R421). -/
def Branch.record (l : List (List Tok)) (x : Branch) : Branch :=
  let toks := ((l[x.line]?).getD []).drop x.pos ++ (l.drop (x.line + 1)).flatten
  let body := toks.filter fun t => t.kind != 6
  { x with recorded := if body.isEmpty then x.recorded else x.recorded ++ [body] }.free

/-- Takes every token up to the MARK of a receive end whose hart has been saved (R387, R421), the buffer first: the first argument bounds
the slots. -/
def recordEnd (key b : Nat) : Nat → State → State
  | 0, s => s
  | n + 1, s =>
    match s.chanAt key with
    | none => s
    | some c =>
      match c.branch b with
      | none => s
      | some x =>
        if c.tookMark x then s
        else
          match x.buf with
          | l :: _ => recordEnd key b n (s.setChan (c.setBranch b (x.record l)))
          | [] =>
            if x.ringTaken < x.seen then
              recordEnd key b n (s.setChan (c.setBranch b ({ x with moving := none }.record (s.slotAt c x.ringTaken x.line))))
            else s

/-- The receive end of a branch has nothing left to record (R387, R388). -/
def Chan.endDone (c : Chan) (x : Branch) : Bool :=
  !x.isOpen || c.tookMark x || (!c.sendOpen && x.buf.isEmpty && x.ringTaken == c.fills && x.inject.isEmpty)

/-- Records what waits at a receive end of a stopping task. -/
def takeMark (t : Task) (key b : Nat) (s : State) : State :=
  match s.chanAt key with
  | none => s
  | some c =>
    match c.branch b with
    | none => s
    | some x =>
      let holder := (s.coreAt x.core).ends.find? fun e => e.chan == key && e.end_ == b + 1
      match holder with
      | none => s
      | some e => if s.ownsChan t c && x.isOpen && t.hasSaved x.core e.hart s then recordEnd key b (x.buf.length + c.nslot + 1) s else s

/-- MARK_TAKE (R387, R421). -/
def execMarkTake (chan branch : Nat) (s : State) : Out :=
  .next (match s.chanTask chan with | some t => takeMark t chan branch s | none => s)

/-! ### The save is complete (R274, R388, R418) -/

/-- A tile slot that the island order has claimed with D is not saved: zero, with DROPPED set (R274, R299). -/
def Island.dropDisc (i : Island) : Island :=
  { i with slots := i.slots.map fun t =>
      if t.live && t.disc then { t with hdr := 2 ^ 28, mem := 0, idx := 0, pv := pvEmpty } else t }

/-- Every open receive end of a channel of the task has taken its MARK or recorded what was left (R388). -/
def State.marksDone (s : State) (t : Task) : Bool :=
  s.chans.all fun c => !s.ownsChan t c || c.branches.all fun x => c.endDone x

/-- What a core's save keeps. -/
def Core.forSave (c : Core) : Core := { c with isl := c.isl.dropDisc, tlb := [], icache := [], copies := [] }

/-- PREEMPTION_COMPLETE (R388, R404): every hart has been saved; the task is saved, and its cores are free. -/
def finishSave (t : Task) (s : State) : State :=
  if t.state != .stopping || t.harts.isEmpty || s.spillOpen t || (s.nextSpill t).isSome || !(s.taskHarts t).isEmpty || !s.marksDone t then s
  else
    let saves := t.cores.map fun n => (s.coreAt n).forSave
    let s := freeCoresOf t.cores s
    ({ s with taskSeq := s.taskSeq + 1 }).setTask { t with state := .saved, since := s.clk, placed := s.taskSeq, saves := saves }

/-! ### Restoring (R389, R418) -/

/-- The new core of a saved core. -/
def Task.newCore (t : Task) (cores : List Nat) (n : Nat) : Nat := (cores[t.cores.idxOf n]?).getD n

/-- The end tables of a saved task. -/
def Task.savedEnds (t : Task) : List EndEntry := t.saves.flatMap Core.ends

/-- The core of an end of a channel once a saved task is restored (R389). -/
def Task.endCore (t : Task) (mv : Nat → Nat) (key end_ core : Nat) (open_ : Bool) : Nat :=
  if endIn t.savedEnds t.cores key end_ core open_ then mv core else core

/-- A channel re-bound to the new cores of a task's ends (R389): its record, its descriptor's copy, and the tokens recorded for its
branches, which are to be published again. -/
def Chan.rebind (t : Task) (mv : Nat → Nat) (c : Chan) : Chan :=
  let prod := t.endCore mv c.key 0 c.prod c.sendOpen
  let branches := c.branches.zipIdx.map fun (b, k) =>
    { b with core := t.endCore mv c.key (k + 1) b.core b.isOpen, freedSeen := b.freed, takenSeen := b.ringTaken, inject := b.recorded ++ b.inject, recorded := [] }
  let desc := branches.zipIdx.foldl (fun d (b, k) => setBitsAt d (128 + 48 * k) 9 b.core) (setBitsAt c.desc 112 9 prod)
  { c with prod := prod, desc := desc, mark := none, branches := branches }

/-- PROD and CORE of a channel are written into its descriptor in memory, where a restore has changed them (R389). -/
def writeBinding (old new : Chan) (s : State) : State :=
  let put (off a b : Nat) (s : State) : State := if a == b then s else storeHome (new.key + off) (toLeBytes 2 b) pvEmpty s
  (old.branches.zip new.branches).zipIdx.foldl (fun s (x, k) => put (16 + 6 * k) x.1.core x.2.core s) (put 14 old.prod new.prod s)

/-- The channels that have an end in a saved task are re-bound, their descriptors in memory rewritten, and the recorded tokens published
in the ring as fills, as far as it has room (R389). -/
def rebindChans (t : Task) (mv : Nat → Nat) (s : State) : State :=
  s.chans.foldl (fun s c =>
    if t.savedEnds.any fun e => e.chan == c.key then
      let c' := c.rebind t mv
      injectAll c.key (c'.branches.foldl (fun n b => n + b.inject.length) 0) ((writeBinding c c' s).setChan c')
    else s) s

/-- The restored island: the harts that its items and configurations name have moved. -/
def Island.moved (mv : Nat → Nat) (i : Island) : Island :=
  let id (x : HartId) : HartId := ⟨mv x.core, x.hart⟩
  { i with accs := i.accs.map fun a => { a with drain := a.drain.map fun x => { x with who := id x.who },
                                                conf := a.conf.map fun c => { c with owner := id c.owner } } }

/-- A core takes back what was saved of it (R389, R418): no remote copy that it held stands, so that what a restored hart has acquired elsewhere
is not read older here (R430); its level, channel ends, island and reef state, thawed as by XTHAW, with its forms
placed again. -/
def restoreCore (t : Task) (mv : Nat → Nat) (k : Core) (s : State) : State :=
  let conts := k.reef.conts.map (RRun.thaw pvEmpty)
  let s := (clearBorrowed k.level (dropRemote s)).mapCore fun c =>
    { c with task := some t.num, level := k.level, ends := k.ends, isl := k.isl.moved mv,
             reef := { c.reef with run := none, queue := [], conts := conts, evicted := k.reef.evicted, mism := k.reef.mism } }
  conts.foldl (fun s r => placeImage r.asid r.slot r.img s) s

/-- A saved task is restored onto cores (R389, R418). -/
def restoreTask (t : Task) (cores : List Nat) (s : State) : State :=
  let mv := t.newCore cores
  let s := rebindChans t mv s
  let s := (t.saves.zip cores).foldl (fun s (k, n) => onCore n (restoreCore t mv k) s) s
  let s := t.harts.foldl (fun s h =>
    let n := mv h.core
    s.setHart { h with core := n, mq := h.mq.map (fun x => { x with who := ⟨n, h.ix⟩ }),
                       csr := { h.csr with tplost := h.csr.tplost || t.dropped } }) s
  let job (j : EngJob) : EngJob := if t.cores.contains j.who.core && t.harts.any (fun h => h.tags.any fun g => g.uid == j.uid)
    then { j with who := ⟨mv j.who.core, j.who.hart⟩ } else j
  let s := { s with engq := s.engq.map job, sreads := s.sreads.map job, gateq := s.gateq.map job,
                    deliveries := s.deliveries.map fun (d : Delivery) => { d with job := job d.job } }
  ({ s with taskSeq := s.taskSeq + 1 }).setTask
    { t with state := .running, cores := cores, placed := s.taskSeq, harts := [], saves := [], dropped := false, swap := [], back := false,
             spilled := [] }

/-! ### Core swaps (R485-R488) -/

/-- Spare cores of a die that have been used (R485); kind 1 of `Repair` is a core. -/
def State.sparesUsed (s : State) (die : Nat) : Nat := (s.repairs.filter fun r => r.kind == 1 && r.place / 40 == die).length

/-- A failing core is swapped for a spare of its die, or taken out of service (R486, R487). -/
def swapCore (core : Nat) (s : State) : State :=
  let s := onCore core (fun s => s.mapCore fun c => { c with failing := false }) s
  if s.sparesUsed (core / 40) < 2 then
    logEvent 5 1 core 0 { s with repairs := s.repairs ++ [⟨1, core, s.sparesUsed (core / 40) + 1⟩] }
  else logEvent 5 2 core 0 (onCore core (fun s => s.mapCore fun c => { c with inService := false }) s)

/-- A task saved with cores to swap: they are swapped and, where spares were left and the pre-emption was for the swap alone, it is restored onto
the same cores; where the fault had joined another pre-emption it waits at its level (R486, R488). -/
def swapAndRestore (t : Task) (s : State) : State :=
  let s := t.swap.foldl (fun s n => swapCore n s) s
  if t.back && t.cores.all fun n => (s.coreAt n).inService then restoreTask t t.cores s
  else s.setTask { t with swap := [], back := false }

/-- Completes a save, and the swap that asked for it (R388, R486). -/
def completeSave (t : Task) (s : State) : State :=
  let s := finishSave t s
  match s.taskAt t.num with
  | some t => if t.state == .saved && !t.swap.isEmpty then swapAndRestore t s else s
  | none => s

/-- PREEMPTION_COMPLETE (R388). -/
def execPreemptionComplete (task : Nat) (s : State) : Out :=
  .next (match s.taskAt task with | some t => completeSave t s | none => s)

/-- CORE_SWAP (R486-R488): an idle core is swapped at once; a core that a task holds once the task has been saved. -/
def execCoreSwap (core : Nat) (s : State) : Out :=
  .next (match (s.coreAt core).task.bind s.taskAt with
    | none => if (s.coreAt core).inService then swapCore core s else s
    | some t =>
      if t.swap.contains core then s
      else
        match t.state with
        | .running => if s.taskOver t then swapCore core s
          else if s.canSave t (s.poolUsed t.part) then requestStop { t with swap := core :: t.swap, back := true } s
          else swapCore core (killTask t s)
        | .stopping => s.setTask { t with swap := core :: t.swap }
        | _ => swapCore core s)

/-! ### A stopping task in a clk -/

/-- One clk of a stopping task. -/
def stopClk (n : Nat) (s : State) : State :=
  let at_ (f : Task → State → State) (s : State) : State := match s.taskAt n with | some t => f t s | none => s
  match s.taskAt n with
  | none => s
  | some t =>
    match spillStep t s with
    | (false, s) => s
    | (true, s) =>
      let ids := (s.taskHarts t).map Hart.id
      let s := ids.foldl (fun s w => at_ (fun t s => saveHart t w (stopHart t w s)) s) s
      let keys := (s.chans.filter (s.ownsChan t)).map fun c => (c.key, c.branches.length)
      let s := keys.foldl (fun s k => at_ (fun t s => publishMarkFill t k.1 s) s) s
      let s := keys.foldl (fun s k => (List.range k.2).foldl (fun s b => at_ (fun t s => takeMark t k.1 b s) s) s) s
      at_ completeSave s

/-! ### The dispatch decision (R399, R400, R404, R405) -/

/-- A task that a decision may serve: a saved task, or the eligible head of a queue. -/
inductive Cand where
  | saved (t : Task)
  | head (q : Nat) (d : QDesc) (h : QHead)

/-- Its level. -/
def Cand.level : Cand → Nat
  | .saved t => t.level
  | .head _ _ h => h.level
/-- Its name in `State.chosen`. -/
def Cand.name : Cand → Bool × Nat
  | .saved t => (true, t.num)
  | .head q _ _ => (false, q)
/-- The cores that it asks for. -/
def Cand.size : Cand → Nat
  | .saved t => t.cores.length
  | .head _ _ h => recConf h.record 0 9

/-- The enabled queues of a partition. -/
def State.partQueues (s : State) (part : Nat) : List (Nat × QDesc) :=
  (List.range 256).filterMap fun q => match s.qdesc q with
    | some d => if d.en && d.part == part then some (q, d) else none
    | none => none

/-- Serves a candidate on cores. -/
def serve (p : Part) (c : Cand) (cores : List Nat) (s : State) : State :=
  match c with
  | .saved t => restoreTask t cores s
  | .head q d h =>
    let s := placeHead q p d h cores s
    if (s.qstate q).head.isSome then s else s.setQ { s.qstate q with credit := (s.qstate q).credit - 256 }

/-- The victims that pre-emption takes for a candidate (R404): running tasks of higher level numbers, the largest first and
the latest placed first; none where even all of them would not do. -/
def victims (p : Part) (c : Cand) (s : State) : List Task :=
  let coming := s.tasks.flatMap fun t => if t.part == p.num && t.state == .stopping then t.cores else []
  let cands := s.tasks.filter fun t => t.part == p.num && t.state == .running && decide (c.level < t.level)
  let sorted := cands.foldl (fun l t =>
    let before := l.filter fun x => t.level < x.level || (x.level == t.level && t.placed < x.placed)
    let after := l.filter fun x => !(t.level < x.level || (x.level == t.level && t.placed < x.placed))
    before ++ [t] ++ after) ([] : List Task)
  let fits (extra : List Nat) : Bool :=
    let pool := (s.partCores p).filter fun n => (s.coreAt n).task.isNone || coming.contains n || extra.contains n
    (pickCores pool c.size).isSome
  let rec go : List Task → List Task → Nat → List Task
    | [], _, _ => []
    | t :: ts, acc, used =>
      if !s.canSave t used then go ts acc used
      else
        let acc := acc ++ [t]
        if fits (acc.flatMap Task.cores) then acc else go ts acc (used + t.cores.length * 3145728)
  if fits [] then [] else go sorted [] (s.poolUsed p.num)

/-- The candidate that the level rule serves (R399): the saved task saved first, else the next queue in turn. -/
def levelChoice (p : Part) (cs : List Cand) (s : State) : Option Cand :=
  let lv := cs.foldl (fun m c => min m c.level) 99
  let here := cs.filter fun c => c.level == lv
  let saved := here.filterMap fun c => match c with | .saved t => some t | _ => none
  match saved with
  | t :: ts => some (.saved (ts.foldl (fun a b => if b.placed < a.placed then b else a) t))
  | [] =>
    let last := ((s.served.find? fun x => x.part == p.num && x.level == lv).map Served.queue).getD 0
    let heads := here.filter fun c => !c.name.1
    match heads.find? fun c => decide (last <= c.name.2) with
    | some c => some c
    | none => heads.head?

/-- Notes the queue served last at a level. -/
def noteServed (p : Part) (c : Cand) (s : State) : State :=
  match c with
  | .saved _ => s
  | .head q _ h =>
    { s with served := ⟨p.num, h.level, q + 1⟩ :: s.served.filter fun x => !(x.part == p.num && x.level == h.level) }

/-- A candidate leaves the tasks of a partition that the level rule has chosen and not placed (R399). -/
def State.unchoose (s : State) (p : Part) (c : Cand) : State := { s with chosen := s.chosen.filter fun x => x != (p.num, c.name) }

/-- Serves the candidate that the level rule chose, pre-empting for it where that is needed and enough; it stays chosen until it is
placed (R399, R404). -/
def serveByLevel (p : Part) (c : Cand) (s : State) : State :=
  match pickCores (s.freeCores p) c.size with
  | some cores => noteServed p c (serve p c cores (s.unchoose p c))
  | none =>
    let s := { s with chosen := if s.chosen.contains (p.num, c.name) then s.chosen else s.chosen ++ [(p.num, c.name)] }
    (victims p c s).foldl (fun s t => requestStop t s) s

/-- The level rule (R399): of the tasks chosen before and not placed, the one of the lowest level is served, or a task below its level. -/
def serveLevels (p : Part) (cs : List Cand) (s : State) : State :=
  let held := cs.filter fun c => s.chosen.contains (p.num, c.name)
  match held with
  | [] => (match levelChoice p cs s with | some c => serveByLevel p c s | none => s)
  | c :: l =>
    let c := l.foldl (fun a b => if b.level < a.level then b else a) c
    match levelChoice p (cs.filter fun x => decide (x.level < c.level)) s with
    | some b => serveByLevel p b s
    | none => serveByLevel p c s

/-- Tasks that ask for more cores than the partition's coves now hold are rejected with code 1: records taken and saved tasks (R487). -/
def rejectLarge (p : Part) (s : State) : State :=
  let n := (s.partCores p).length
  let s := (s.partQueues p.num).foldl (fun s (q, d) =>
    match (s.qstate q).head with
    | some h => if n < recConf h.record 0 9 then rejectRecord q p d h.record 1 s else s
    | none => s) s
  (s.tasks.filter fun t => t.part == p.num && t.state == .saved && decide (n < t.cores.length)).foldl (fun s t => dropSaved t 1 s) s

/-- DISPATCH_DECISION (R399, R404): one decision of a partition. -/
def decide_ (p : Part) (s : State) : State :=
  let s := rejectLarge p s
  let qs := s.partQueues p.num
  let heads := qs.filterMap fun (q, d) => match (s.qstate q).head with
    | some h => if h.eligible then some (q, d, h) else none
    | none => none
  let floor (d : QDesc) : Nat := if 256 < qs.foldl (fun n x => n + x.2.floor) 0 then 0 else d.floor
  let s := heads.foldl (fun s (q, d, _) =>
    if floor d == 0 then s else s.setQ { s.qstate q with credit := min ((s.qstate q).credit + floor d) 512 }) s
  let free := s.freeCores p
  let rich := heads.filter fun (q, _, h) => decide (256 <= (s.qstate q).credit) && (pickCores free (recConf h.record 0 9)).isSome
  match rich with
  | x :: xs =>
    let (q, d, h) := xs.foldl (fun a b => if (s.qstate a.1).credit < (s.qstate b.1).credit then b else a) x
    match pickCores free (recConf h.record 0 9) with
    | some cores =>
      serve p (.head q d h) cores (s.unchoose p (.head q d h))
    | none => s
  | [] =>
    serveLevels p (((s.tasks.filter fun t => t.part == p.num && t.state == .saved).map Cand.saved) ++ heads.map fun (q, d, h) => .head q d h) s

/-- DISPATCH_DECISION (R399, R401, R404, R405). -/
def execDispatchDecision (part : Nat) (s : State) : Out :=
  .next (match s.partAt part with | some p => if s.activate then s else decide_ p s | none => s)

/-- A wait of 2^22 clk at a level promotes (R400). -/
def promoted (since : Word) (level : Nat) (s : State) : Bool := level != 0 && decide (2 ^ 22 <= (s.clk - since).toNat)

/-- The head of a queue is promoted when it has waited long enough (R400). -/
def promoteHead (q : Nat) (s : State) : State :=
  match (s.qstate q).head with
  | some h => if h.eligible && promoted h.since h.level s
    then s.setQ { s.qstate q with head := some { h with level := h.level - 1, since := s.clk } } else s
  | none => s

/-- The saved tasks of a queue are promoted when they have waited long enough (R400). -/
def promoteSaved (mine : Task → Bool) (s : State) : State :=
  { s with tasks := s.tasks.map fun t =>
      if mine t && t.state == .saved && promoted t.since t.level s then { t with level := t.level - 1, since := s.clk } else t }

/-- LEVEL_PROMOTION (R400). -/
def execLevelPromotion (queue : Nat) (s : State) : Out := .next (promoteSaved (fun t => t.queue == queue) (promoteHead queue s))

/-! ### The dispatcher in a clk -/

/-- One clk of the dispatcher: harts start, tasks stop and end; every 64 clk it looks at its queues and decides once for each
partition. -/
def dispatcherClk (s : State) : State :=
  let starts := (s.allHarts.filter fun h => h.status == .waiting .start).map Hart.id
  let s := starts.foldl (fun s w => startHart w s) s
  let s := ((s.tasks.filter fun t => t.state == .stopping).map Task.num).foldl (fun s n => stopClk n s) s
  let s := s.tasks.foldl (fun s t => match s.taskAt t.num with | some t => endTask t s | none => s) s
  let s := s.tasks.foldl (fun s t => match s.taskAt t.num with | some t => signalTask t s | none => s) s
  if s.clk.toNat % 64 != 0 || s.qtable.isNone || s.activate then s
  else
    let s := clearRange (s.qtable.getD 0) 16384 (promoteSaved (fun _ => true) s)
    let s := (List.range 256).foldl (fun s q =>
      match s.qdesc q with
      | some _ => promoteHead q (dependencesMet q (takeRecord q (observeTail q s)))
      | none => s) s
    s.parts.foldl (fun s p => match s.partAt p.num with | some p => decide_ p s | none => s) s

end Sys2Proof.Machine
end

