-- ==== Sys2Proof/Machine/Events.lean ====
section
/-! DEFINITION. Steps of the pipelines, the walker, the slices and the watch unit (R148-R153, R322-R330, R347, R348, R416,
R447-R454), and writes of registers without behaviour of their own (R70, R470). -/

namespace Sys2Proof.Machine

/-! ### Registers (R70, R470) -/

/-- A write of a register of BAR0 (R470): MQBASE and MQSIZE take a legal value while no entry is outstanding, MQTAIL any; after a boot
that failed BAR0 is not reached (R490). -/
def writeBar0 (off : Nat) (v : Word) (s : State) : State :=
  if s.boot == .failed then s
  else if off == 0x10 then { s with mqTail := v }
  else if s.mqHead != s.mqTail then s
  else if off == 0 && v.toNat % 64 == 0 && paPkg v.toNat == s.pkg && spaceOf (paLocal v.toNat) == .ezmos then { s with mqBase := v.toNat }
  else if off == 8 && isPow2 v.toNat 4096 then { s with mqSize := v.toNat }
  else s

/-- REGISTER_WRITE (R70, R470). -/
def execRegisterWrite (r : RegTarget) (v : Word) (pv : PvSet) (s : State) : Out :=
  .next (match r with
    | .csr n => if (csrAccess n.toNat).isSome then writeStep n.toNat v pv s else s
    | .bar0 off => writeBar0 off.toNat v s)

/-! ### Posting and the pipes (R148-R153, R325, R416) -/

/-- VECTOR_POST (R71, R72, R148). -/
def execVectorPost (who : HartId) (s : State) : Out := .next (onHart who postNext s)

/-- ELEMENT_GROUP_PROCESS (R110, R151, R152): a pipe takes in a group of an item that has issued; nothing architectural
changes before the group is emitted. -/
def execElementGroupProcess (_who : HartId) (s : State) : Out := .next s

/-- A hart with a queued item is granted, so that the item runs next. -/
def grantItem (who : HartId) (s : State) : State :=
  let h := s.hartAt who
  if h.queue.isEmpty || h.heldBy.isSome then s else { s with vgrants := who :: s.vgrants }

/-- ELEMENT_GROUP_EMIT (R112, R113, R150, R152): the groups of an item are emitted, and it completes. -/
def execElementGroupEmit (who : HartId) (s : State) : Out := .next (grantItem who s)
/-- LOAD_GROUP_RETURN (R153). -/
def execLoadGroupReturn (who : HartId) (s : State) : Out := .next (grantItem who s)
/-- STORE_GROUP_PERFORM (R153). -/
def execStoreGroupPerform (who : HartId) (s : State) : Out := .next (grantItem who s)
/-- DEFERRED_TRANSLATION_GROUP (R127, R325). -/
def execDeferredTranslationGroup (who : HartId) (s : State) : Out := .next (grantItem who s)
/-- DEFERRED_VECTOR_TRAP (R86, R416). -/
def execDeferredVectorTrap (who : HartId) (s : State) : Out := .next (onHart who takeDeferred s)

/-! ### The walker and the slices (R322-R330, R347, R348) -/

/-- PAGE_TABLE_WALK (R322, R435): a translation for a read (0), a write (1) or a fetch (2); the leaf enters the TLB, A and M
are set, and a failure has no effect of its own. -/
def execPageTableWalk (who : HartId) (va : Word) (acc : BitVec 2) (s : State) : Out :=
  .next (onHart who (fun s =>
    match xlat va (if acc == 0 then .read else if acc == 1 then .write else .exec) s with
    | .ok (_, _, t) => t
    | .error _ => s) s)

/-- A line of a peer is read at its home, which an agent of the peer may have written since it was last read: by the free order its bytes are
then free, and its frame's current set has grown within CEIL (R432, R436, R437; log entry 76). -/
def peerFresh (line : Nat) (s : State) : State :=
  let pa := line * 128
  if !s.inPeer pa then s
  else
    let (k, s) := s.nextFree
    if Config.orderKey k 0 % 2 == 0 then s
    else storeHome pa ((List.range 128).map (Config.freeByte k)) (BitVec.ofNat 16 (Config.orderKey k 1) &&& (s.provAt pa).ceil) s

/-- The directory entry of a line is evicted and remade (R449, R450, R452): dirty sectors merge into the home, the stamp is new, and the counters
continue from no earlier value. -/
def remakeEntry (line : Nat) (s : State) : State :=
  let (k, s) := s.nextFree
  let s := endOwners (fun n => n / 4 == line) s
  { s with sectors := s.sectors.map fun x => if x.sector / 4 == line then { x with ver := Config.orderKey k x.sector % 2 ^ 32 } else x
           remade := putBy Prod.fst (line, s.remadeOf line + 1) s.remade }

/-- A line that enters the directory may evict the entry of another, as the free order chooses (R450; log entry 69). -/
def evictEntry (line : Nat) (s : State) : State :=
  let (k, s) := s.nextFree
  let l := ((s.sectors.map fun x => x.sector / 4).filter (· != line)).eraseDups
  match l[Config.orderKey k 0 % (l.length + 1)]? with
  | some n => remakeEntry n s
  | none => s

/-- A missing line is installed in the current core's slice, where it may allocate a way (R326, R331); host memory and lines whose home
is the slice itself are not kept in copies. -/
def fillLine (pa : Nat) (s : State) : State :=
  let line := s.lineOf pa
  let there := s.core.copies.any fun c => c.line == line && c.state != .ghost
  if s.inHost pa || s.atOwnHome line || there || (s.deadFrame pa).isSome then s
  else
    let s := evictEntry line (peerFresh line s)
    (installCopy (s.fillOf line) s).2

/-- LINE_FILL (R327, R329, R330). -/
def execLineFill (core pa : Nat) (s : State) : Out :=
  if s.paExists pa then .next (onCore core (fillLine pa) s) else .fault .reservedAddress

/-- Ownership of the sector of an address passes to the current core, whose slice holds the line, after the checks that it has made
(R328, R448); no byte of it is written yet. -/
def ownSector (pa : Nat) (s : State) : State :=
  if s.inHost pa || s.inPeer pa then s
  else
    match holdForStore (s.lineOf pa) (settleChecks (s.lineOf pa) s) with
    | (true, s) => grantSector s.core.num false (s.place pa / 32) s
    | (false, s) => s

/-- OWNERSHIP_GRANT (R328, R450). -/
def execOwnershipGrant (core pa : Nat) (s : State) : Out :=
  if s.paExists pa then .next (onCore core (ownSector pa) s) else .fault .reservedAddress

/-- ACQUIRE_MERGE (R347). -/
def execAcquireMerge (core : Nat) (scope : BitVec 3) (s : State) : Out := .next (onCore core (acquireFence scope.toNat) s)

/-- The sectors that have been dirty for 2^20 clk are merged into their homes (R348). -/
def lazyMerge (s : State) : State :=
  { s with sectors := s.sectors.map fun x => if x.dirty && decide (2 ^ 20 <= (s.clk - x.since).toNat) then { x with dirty := false } else x }

/-- LAZY_MERGE_TIMEOUT (R348): the dirty sectors of a line are merged into their home. -/
def execLazyMergeTimeout (pa : Nat) (s : State) : Out :=
  .next { s with sectors := s.sectors.map fun x => if x.sector / 4 == s.lineOf pa then { x with dirty := false } else x }

/-! ### The watch unit (R447-R454) -/

/-- Lines of an entry in a phase. -/
def WatchEntry.inPhase (p : CheckPhase → Bool) (e : WatchEntry) : Nat := (e.lines.filter fun l => p l.phase).length

/-- Changes the `n`-th line of a list that is in a phase. -/
def nthLine (p : CheckPhase → Bool) (f : WatchLine → WatchLine) : Nat → List WatchLine → List WatchLine
  | _, [] => []
  | n, l :: ls =>
    if p l.phase then (match n with | 0 => f l :: ls | n + 1 => l :: nthLine p f n ls) else l :: nthLine p f n ls

/-- Acts on the `n`-th line in a phase of a table, through its entry; what is left of `n` where the table ends first. -/
def nthEntry (p : CheckPhase → Bool) (f : Nat → WatchEntry → WatchEntry) : Nat → List WatchEntry → Option Nat × List WatchEntry
  | n, [] => (some n, [])
  | n, e :: l =>
    let k := e.inPhase p
    if n < k then (none, f n e :: l)
    else
      let (r, l) := nthEntry p f (n - k) l
      (r, e :: l)

/-- Acts on the `n`-th line in a phase of a hart's three tables. -/
def nthHart (p : CheckPhase → Bool) (f : Nat → WatchEntry → WatchEntry) (n : Nat) (h : Hart) : Option Nat × Hart :=
  match nthEntry p f n h.watch with
  | (none, l) => (none, { h with watch := l })
  | (some n, _) =>
    match nthEntry p f n h.asideS with
    | (none, l) => (none, { h with asideS := l })
    | (some n, _) => let (r, l) := nthEntry p f n h.asideH; (r, { h with asideH := l })

/-- Acts on the `n`-th line in a phase among the tables of every hart. -/
def nthCheck (p : CheckPhase → Bool) (f : Nat → WatchEntry → WatchEntry) (n : Nat) (s : State) : State :=
  (s.allHarts.foldl (fun (x : Option Nat × State) h =>
    match x.1 with
    | none => x
    | some n => let (r, h) := nthHart p f n h; (r, x.2.setHart h)) (some n, s)).2

/-- The check of a line has been sent and is on its way. -/
def CheckPhase.isSent (p : CheckPhase) : Bool := p == .sent
/-- The check of a line has not been sent. -/
def CheckPhase.isUnsent (p : CheckPhase) : Bool := p == .unsent
/-- The reply to a check is on its way. -/
def CheckPhase.isDecided : CheckPhase → Bool
  | .decided _ _ => true
  | _ => false

/-- An entry confirms once every line has confirmed (R449). -/
def WatchEntry.settle (e : WatchEntry) : WatchEntry :=
  if e.state == .pending && e.lines.all (fun l => l.phase == .recorded) then { e with state := .confirmed } else e

/-- The reply to the `n`-th decided line of an entry is recorded (R449, R453, R454): a strike reply strikes it with its set. -/
def WatchEntry.record (n : Nat) (e : WatchEntry) : WatchEntry :=
  let strike := ((e.lines.filter fun l => l.phase.isDecided)[n]?).bind fun l =>
    match l.phase with | .decided false p => some p | _ => none
  let e := { e with lines := nthLine CheckPhase.isDecided (fun l => { l with phase := .recorded }) n e.lines }
  match strike with
  | some p => if e.state == .pending then { e with state := .struck, pv := p } else e
  | none => e.settle

/-- The check of the first unsent line of an entry is sent (R448). -/
def WatchEntry.send (e : WatchEntry) : WatchEntry :=
  { e with lines := nthLine CheckPhase.isUnsent (fun l => { l with phase := .sent }) 0 e.lines }

/-- The first entry with an unsent line sends one. -/
def sendFirst : List WatchEntry → List WatchEntry
  | [] => []
  | e :: l => if e.inPhase CheckPhase.isUnsent != 0 then e.send :: l else e :: sendFirst l

/-- When a hart's oldest entry with an unsent check was made. -/
def Hart.unsent (h : Hart) : Option Nat :=
  (((h.watch ++ h.asideS ++ h.asideH).filter fun e => e.inPhase CheckPhase.isUnsent != 0).map fun e => e.made.toNat).min?

/-- Among harts, for each core the one whose unsent check belongs to the oldest entry (R448). -/
def oldestSenders (l : List Hart) : List Hart :=
  l.foldl (fun (acc : List Hart) h =>
    match h.unsent with
    | none => acc
    | some a =>
      if acc.any fun x => x.core == h.core && decide (x.unsent.getD 0 <= a) then acc
      else acc.filter (fun x => x.core != h.core) ++ [h]) []

/-- A table holds an entry with an unsent check. -/
def anyUnsent (l : List WatchEntry) : Bool := l.any fun e => e.inPhase CheckPhase.isUnsent != 0

/-- A hart sends one check, of the oldest table first. -/
def Hart.sendCheck (h : Hart) : Hart :=
  if anyUnsent h.asideS then { h with asideS := sendFirst h.asideS }
  else if anyUnsent h.asideH then { h with asideH := sendFirst h.asideH }
  else { h with watch := sendFirst h.watch }

/-- The entry whose check a hart sends next, by its number in its table. -/
def Hart.sendsNext (h : Hart) : Nat :=
  let l := if anyUnsent h.asideS then h.asideS else if anyUnsent h.asideH then h.asideH else h.watch
  l.findIdx fun e => e.inPhase CheckPhase.isUnsent != 0

/-- The watch unit of a core sends the check of its oldest entry, where it has sent none in this clk (R448). -/
def sendCheck (h : Hart) (s : State) : State :=
  if (s.coreAt h.core).checkSent then s
  else onCore h.core (fun s => s.mapCore fun c => { c with checkSent := true }) (s.setHart h.sendCheck)

/-- WATCH_CHECK_SEND (R448): the entry is the one whose check its core sends next. -/
def execWatchCheckSend (who : HartId) (entry : Nat) (s : State) : Out :=
  .next (match (oldestSenders s.allHarts).find? fun h => h.id == who with
    | some h => if h.sendsNext == entry then sendCheck h s else s
    | none => s)

/-- The checks under way, as `nthCheck` counts them: core, line, and the clk in which the entry was made. -/
def State.sentChecks (s : State) : List (Nat × Nat × Nat) :=
  s.allHarts.flatMap fun h => (h.watch ++ h.asideS ++ h.asideH).flatMap fun e =>
    (e.lines.filter fun l => l.phase.isSent).map fun l => (h.core, l.line, e.made.toNat)

/-- An earlier check of the same core to the same line is still under way (R448). -/
def State.checkBehind (s : State) (check : Nat) : Bool :=
  match s.sentChecks[check]? with
  | some (c, n, m) => s.sentChecks.zipIdx.any fun (y, i) => y.1 == c && y.2.1 == n && (decide (y.2.2 < m) || (y.2.2 == m && decide (i < check)))
  | none => false

/-- WATCH_CHECK_DECIDE (R448, R449): the home decides the `check`-th check under way; it takes those of one core to one line in the order in which
they were sent. -/
def execWatchCheckDecide (check : Nat) (s : State) : Out :=
  .next (if s.checkBehind check then s
    else nthCheck CheckPhase.isSent
      (fun n e => { e with lines := nthLine CheckPhase.isSent (fun l => { l with phase := decideLine s l }) n e.lines }) check s)

/-- WATCH_REPLY_RECORD (R453): the `check`-th reply under way is recorded. -/
def execWatchReplyRecord (check : Nat) (s : State) : Out :=
  .next (nthCheck CheckPhase.isDecided WatchEntry.record check s)

/-- An entry that has waited 2^20 clk for its replies is struck with the empty set (R452, R454). -/
def WatchEntry.timeout (clk : Word) (e : WatchEntry) : WatchEntry :=
  if e.state == .pending && decide (2 ^ 20 <= (clk - e.made).toNat) then { e with state := .struck, pv := pvEmpty } else e

/-- WATCH_TIMEOUT_STRIKE (R452, R454): an entry of a hart's tables, those set aside included. -/
def execWatchTimeoutStrike (who : HartId) (entry : Nat) (s : State) : Out :=
  let h := s.hartAt who
  let f (l : List WatchEntry) : List WatchEntry := l.modify entry (·.timeout s.clk)
  .next (s.setHart { h with watch := f h.watch, asideS := f h.asideS, asideH := f h.asideH })

/-- Every reply under way to an entry is recorded, and every check under way decided. -/
def WatchEntry.advance (s : State) (e : WatchEntry) : WatchEntry :=
  let e := (List.range (e.inPhase CheckPhase.isDecided)).foldl (fun (e : WatchEntry) _ => e.record 0) e
  let e := { e with lines := e.lines.map fun (l : WatchLine) => if l.phase.isSent then { l with phase := decideLine s l } else l }
  e.settle

/-- One clk of the watch units (R448, R449, R452, R453): replies are recorded, checks decided, entries without a reply struck, and each core
sends one check. -/
def watchClk (s : State) : State :=
  let f (l : List WatchEntry) : List WatchEntry := l.map fun e => (e.advance s).timeout s.clk
  let s := s.mapHarts fun h =>
    if h.watch.isEmpty && h.asideS.isEmpty && h.asideH.isEmpty then h
    else { h with watch := f h.watch, asideS := f h.asideS, asideH := f h.asideH }
  (oldestSenders s.allHarts).foldl (fun s h => sendCheck h s) s

end Sys2Proof.Machine
end

