-- ==== Sys2Proof/Machine/Host.lean ====
section
/-! DEFINITION. What arrives through the links (R358, R465-R467, R475-R479, R489, R492): host requests and answers, packets
and responses of peers, scale-out data, and the reset of a partition (R423, R424, R475). -/

namespace Sys2Proof.Machine

/-! ### The host link (R358, R466, R467) -/

/-- The first physical address of the package's own space. -/
def State.own (s : State) : Nat := s.pkg * 2 ^ 43

/-- What a host read finds (R354, R439, R466, R483): poisoned zeros where a frame's set is not empty, a sector is poisoned, or the frame cannot
be read; else the bytes at their homes. -/
def State.hostRead (s : State) (pa n : Nat) : Outgoing :=
  let (f, k) := units 65536 pa n
  let kept := (List.range k).any fun i => s.curAt ((f + i) * 65536) != pvEmpty || (s.deadFrame ((f + i) * 65536) 0).isSome
  if kept || s.poisoned pa n then .hostData (List.replicate n 0) true
  else .hostData ((List.range n).map fun i => s.homeByte (pa + i)) false

/-- HOST_CXL_MEM_REQUEST (R437, R439, R466): `pa` is the local Ezmos address of the HDM range; a read is an access that starts the clear of
an unscrubbed frame (R336) and is answered, a write is performed at the home with the empty set, not in a frame that is retired; neither
happens after a boot that failed (R490). -/
def execHostCxlMemRequest (pa : Nat) (op : CxlOp) (s : State) : Out :=
  let n := match op with | .read n => n | .write bytes => bytes.length
  if pa + n <= 0x12000000000 then
    .next (if s.boot == .failed then s
      else match op with
        | .read n => let t := clearRange (s.own + pa) n s; { t with sent := s.hostRead (s.own + pa) n :: t.sent }
        | .write bytes => if (s.deadFrame (s.own + pa) 0).isSome then s else storeHome (s.own + pa) bytes pvEmpty s)
  else .fault .reservedAddress

/-- PRI_PAGE_REQUEST (R467): the translation of an access of a hart at an offset of the host window has been refused. -/
def execPriPageRequest (who : HartId) (off : Nat) (s : State) : Out :=
  if 2 ^ 41 <= off then .fault .reservedAddress
  else
    let page := (s.own + 0x40000000000 + off) / 4096
    .next { s with pri := if s.pri.any fun x => x.who == who && x.page == page then s.pri else s.pri ++ [⟨who, page, false, s.clk⟩] }

/-- PRI_RESPONSE (R467): the host answers a hart's page requests, or fails them (by an answer or by its silence). -/
def execPriResponse (who : HartId) (ok : Bool) (s : State) : Out :=
  .next { s with pri := if ok then s.pri.filter fun x => x.who != who || x.failed
                        else s.pri.map fun x => if x.who == who then { x with failed := true } else x }

/-- The requests of a vector atomic that may be answered next (R478): without an answer, of a kind, and the first such of their line. -/
def VReq.answerable (q : VReq) (mine : Nat → Bool) : List Nat :=
  let ok (x : Flight) : Bool := mine x.r.addr && x.r.open_
  (List.range q.out.length).filter fun k =>
    match q.out[k]? with
    | some x => ok x && (q.out.take k).all fun y => !(ok y && y.r.addr / 128 == x.r.addr / 128)
    | none => false

/-- Acts on request `k` of a vector atomic of a hart. -/
def answerFlight (who : HartId) (k : Nat) (f : Remote → State → Remote × State) (s : State) : State :=
  onHart who (fun s =>
    match s.hart.vreq with
    | some q =>
      match q.out[k]? with
      | some x => let (r, s) := f x.r s; s.mapHart fun h => { h with vreq := some { q with out := q.out.set k { x with r := r } } }
      | none => s
    | none => s) s

/-- Acts on a request that a hart has outside the package, where one is of a kind and has no answer yet, as the hart's own state: that of
its scalar unit, or one of its vector atomic as the free order chooses (R478; log entry 7). -/
def answerRemote (who : HartId) (mine : Nat → Bool) (f : Remote → State → Remote × State) (s : State) : State :=
  let h := s.hartAt who
  match h.remote.filter fun r => mine r.addr && r.open_ with
  | some r => onHart who (fun s => let (r, s) := f r s; s.mapHart fun h => { h with remote := some r }) s
  | none =>
    match (h.vreq.elim [] fun q => q.answerable mine) with
    | [] => s
    | k :: l =>
      let (c, s) := s.nextFree
      answerFlight who (((k :: l)[Config.orderKey c 0 % (l.length + 1)]?).getD k) f s

/-- The home has performed a request and answers with the old value and its CUR (R339, R358, R477). -/
def remoteDone (cur : PvSet) (old : Word) (r : Remote) (s : State) : Remote × State :=
  let r := { r with cur := cur }
  ({ r with answer := some old }, performRemote r old s)

/-- The request fails with a DETAIL. -/
def remoteFailed (detail : Nat) (r : Remote) (s : State) : Remote × State := ({ r with failed := some detail }, s)

/-- The request to a peer fails; its home may have performed it (R477), which its answer then notes. -/
def peerFailed (r : Remote) (s : State) : Remote × State :=
  let (b, s) := remoteMaybe r s
  ({ r with failed := some 1, answer := if b then some 0 else none }, s)

/-- ATOMICOP_COMPLETION (R358). -/
def execAtomicopCompletion (who : HartId) (ok : Bool) (old : Word) (s : State) : Out :=
  .next (answerRemote who s.inHost (if ok then remoteDone pvEmpty old else remoteFailed 2) s)

/-! ### Peers (R435, R439, R476-R478, R489) -/

/-- The bytes of a packet's operands: 4 or 8. -/
def packetBytes (p : PeerPacket) : Nat := if p.size == 2 then 4 else 8

/-- A packet that the home performs (R357, R477): a legal operation on an aligned location of the package's own Ezmos memory
whose ceiling takes the set, in a frame that can be read. -/
def State.takes (s : State) (p : PeerPacket) : Bool :=
  decide (1 <= p.op.toNat) && decide (p.op.toNat <= 10) && (p.size == 2 || p.size == 3) && p.addr % (packetBytes p) == 0
    && paPkg p.addr == s.pkg && spaceOf (paLocal p.addr) == .ezmos && (s.deadFrame p.addr 0).isNone
    && !s.poisoned p.addr (packetBytes p) && (writeCheck 0 p.addr p.pv 4 s).isNone

/-- The response to a peer's operation packet, on the port of its line (R477; log entry 77): status 0 is success. -/
def respond (p : PeerPacket) (status old : Nat) (s : State) : State :=
  let b := toLeBytes 1 5 ++ toLeBytes 1 status ++ toLeBytes 2 (s.curAt p.addr).toNat ++ toLeBytes 2 p.tag.toNat ++ toLeBytes 2 0 ++ toLeBytes 8 old
  { s with sent := .packet (s.portTo p.src (p.addr / 128)) b :: s.sent }

/-- A peer's operation is performed at the home, which answers (R357, R477). -/
def peerOp (p : PeerPacket) (s : State) : State :=
  if s.takes p then
    let old := s.homeNum p.addr (packetBytes p)
    let s := growCur p.addr p.pv s
    respond p 0 old (match amoNew p.op.toNat (8 * (packetBytes p)) old (p.opa.toNat % 2 ^ (8 * (packetBytes p))) p.opb.toNat with
    | some v => storeHome p.addr (toLeBytes (packetBytes p) v) p.pv s
    | none => let (x, n) := units 32 p.addr (packetBytes p); forRange (homeSector none) x n s)
  else respond p 1 0 s

/-- PEER_OPERATION_PACKET (R477). -/
def execPeerOperationPacket (p : PeerPacket) (s : State) : Out := .next (peerOp p s)

/-- The Mladzar ports of a package (R13, R19). -/
def mladzarPorts : Nat := 36

/-- FLIT_RECEIVE (R476, R481): the packets of an intact flit that a port brings are taken in order; a corrupt flit is replayed. A flit holds up
to 240 bytes of packets, seven of 32. -/
def execFlitReceive (port : Nat) (intact : Bool) (packets : List PeerPacket) (s : State) : Out :=
  .next (if decide (port < mladzarPorts) && intact && decide (packets.length <= 7) then packets.foldl (fun s p => peerOp p s) s else s)

/-- PEER_RESPONSE (R477): status 0 is success. -/
def execPeerResponse (who : HartId) (status : Byte) (cur : PvSet) (old : Word) (s : State) : Out :=
  .next (answerRemote who s.inPeer (if status == 0 then remoteDone cur old else peerFailed) s)

/-- PEER_RESPONSE_TIMEOUT (R477). -/
def execPeerResponseTimeout (who : HartId) (s : State) : Out := .next (answerRemote who s.inPeer peerFailed s)

/-- A request outstanding to a package that can no longer be reached fails, with nothing performed (R489). -/
def failRemote (pkg : Nat) (r : Remote) : Remote :=
  if paPkg r.addr == pkg && r.answer.isNone then { r with failed := some 1 } else r

/-- PACKAGE_UNREACHABLE (R452, R484, R489): requests outstanding to a peer fail, later ones will, and watch entries on its
lines are struck. -/
def execPackageUnreachable (pkg : Nat) (s : State) : Out :=
  .next (if pkg == s.pkg || 432 <= pkg then s
    else
      let s := logEvent 14 2 pkg 0 s
      let s := { s with unreachable_ := pkg :: s.unreachable_.filter (· != pkg), zone := s.zone.filter (· != pkg) }
      let s := s.mapHarts fun h =>
        { h with remote := h.remote.map (failRemote pkg),
                 vreq := h.vreq.map fun q => { q with out := q.out.map fun x => { x with r := failRemote pkg x.r } } }
      strikeSectors (fun x => paPkg (x * 32) == pkg) pvEmpty s)

/-- Requests that have had no answer for too long fail: a page request after 2^24 clk (R467), one to a peer after 2^22 (R477). -/
def linkClk (s : State) : State :=
  let late (t : Word) (k : Nat) : Bool := decide (2 ^ k <= (s.clk - t).toNat)
  let s := { s with pri := s.pri.map fun (x : PriReq) => if late x.since 24 then { x with failed := true } else x }
  let old (r : Remote) : Bool := s.inPeer r.addr && r.open_ && late r.sent 22
  let hs := s.allHarts.filter fun (h : Hart) => h.remote.any old
  let s := hs.foldl (fun s (h : Hart) => answerRemote h.id s.inPeer peerFailed s) s
  let fs := s.allHarts.flatMap fun (h : Hart) => h.vreq.elim [] fun q =>
    ((List.range q.out.length).filter fun k => (q.out[k]?).any fun x => old x.r).map fun k => (h.id, k)
  fs.foldl (fun s x => answerFlight x.1 x.2 peerFailed s) s

/-! ### Scale-out (R479) -/

/-- The set bound to a queue pair, and the partition that holds it. -/
def State.qp (s : State) (n : Nat) : Option (Part × PvSet) :=
  s.parts.findSome? fun p => (p.qps.find? fun q => q.1 == n).map fun q => (p, q.2)

/-- A queue pair's Ethernet port has left service (R485). -/
def State.qpLost (s : State) (qp : Nat) : Bool := s.repairs.any fun r => r.kind == 7 && r.place == Config.qpPort qp

/-- ROCE_INCOMING_DATA (R367, R479): data for memory of the partition that holds the queue pair, stored as engine writes with
its set; where a ceiling refuses it, or the queue pair is not bound, nothing is written. -/
def execRoceIncomingData (qp pa : Nat) (bytes : List Byte) (s : State) : Out :=
  match s.qp qp with
  | none => .next s
  | some (p, set) =>
    let (f, n) := units 65536 pa bytes.length
    let ok := !s.qpLost qp && p.owns f n && (List.range n).all fun k =>
      (writeCheck 0 ((f + k) * 65536) set 6 s).isNone && (s.deadFrame ((f + k) * 65536) 0).isNone
    .next (if ok then
      (pageParts (n + 1) (BitVec.ofNat 64 pa) bytes.length).foldl (fun (x : List Byte × State) a =>
        (x.1.drop a.2, storeHome a.1.toNat (x.1.take a.2) set x.2)) (bytes, s) |>.2
      else s)

/-- The frames of a range of a partition's memory have empty sets and can be read (R479). -/
def State.openRange (s : State) (p : Part) (pa len : Nat) : Bool :=
  let (f, n) := units 65536 pa len
  p.owns f n && (List.range n).all fun k => s.curAt ((f + k) * 65536) == pvEmpty && (s.deadFrame ((f + k) * 65536) 0).isNone

/-- ROCE_READ_REQUEST (R479): the answer holds the data where every frame's set is empty, else it is a remote access error; over a port that
has left service, or for a queue pair that is not bound, nothing is answered. -/
def execRoceReadRequest (qp pa len : Nat) (s : State) : Out :=
  match s.qp qp with
  | none => .next s
  | some (p, _) =>
    .next (if s.qpLost qp then s
      else if s.openRange p pa len && !s.poisoned pa len then
        let t := clearRange pa len s
        { t with sent := .readAnswer qp ((List.range len).map fun i => s.homeByte (pa + i)) :: t.sent }
      else { s with sent := .remoteAccessError qp :: s.sent })

/-- HOST_WORK_REQUEST (R479, R485): a host-posted request sends the source only where every frame's set is empty, else it completes with a local
protection error; with a transport error where its port has left service. -/
def execHostWorkRequest (qp pa len : Nat) (s : State) : Out :=
  match s.qp qp with
  | none => .next s
  | some (p, _) =>
    .next (if s.qpLost qp then { s with sent := .transportError qp :: s.sent }
      else if s.openRange p pa len && !s.poisoned pa len then
        let t := clearRange pa len s
        { t with sent := .workData qp ((List.range len).map fun i => s.homeByte (pa + i)) :: t.sent }
      else { s with sent := .localProtectionError qp :: s.sent })

/-! ### Domain assembly (R439, R476, R492) -/

/-- A report verifies (R491, R492): its layout, the certificate over its identity key, and its signature. -/
def reportOk (pkg : Nat) (r : List Byte) : Bool :=
  let part (off n : Nat) : List Byte := (r.drop off).take n
  r.length == 320 && leNum (part 0 4) == 0x54535441 && leNum (part 4 2) == 1 && leNum (part 6 2) == pkg
    && edVerify seluzKey (part 192 64) (sha512 (part 160 32 ++ part 8 8))
    && edVerify (part 160 32) (part 256 64) (sha512 (part 0 256))

/-- What stood in the memory of a package that has been replaced is gone, with every mark on it (R489). -/
def forgetPackage (pkg : Nat) (s : State) : State :=
  let mine (pa : Nat) : Bool := paPkg pa == pkg
  { s with mem := s.mem.filter fun c => !mine c.1
           prov := s.prov.filter fun w => !mine (w.frame * 65536)
           sectors := s.sectors.filter fun x => !mine (x.sector * 32)
           poison := s.poison.filter fun x => !mine (x * 32)
           retired := s.retired.filter fun x => !mine (x * 65536) }.mapCores fun c =>
    { c with copies := c.copies.filter fun k => !mine (k.line * 128) }

/-- DOMAIN_ASSEMBLY (R439, R476, R489, R492): a peer's ports enter the route table, and a verified report brings its index
into the zone; that of a package declared unreachable is its replacement's. -/
def execDomainAssembly (pkg : Nat) (ports : List Nat) (report : List Byte) (s : State) : Out :=
  .next (if pkg == s.pkg || 432 <= pkg then s
    else
      let s := { s with routes := putBy Prod.fst (pkg, ports.filter fun x => decide (x < mladzarPorts)) s.routes }
      if reportOk pkg report then
        let s := if s.unreachable_.contains pkg then forgetPackage pkg s else s
        { s with zone := if s.zone.contains pkg then s.zone else pkg :: s.zone, unreachable_ := s.unreachable_.filter (· != pkg) }
      else { s with zone := s.zone.filter (· != pkg) })

/-! ### The reset of a partition (R334, R336, R423, R424, R459, R475) -/

/-- The request that the current hart has outside the package at a reset (R423): performed where it was answered, and performed or not where
it was not; and whether it stands performed. -/
def stopRemote (s : State) : Bool × State :=
  match s.hart.remote with
  | none => (false, s)
  | some r => if r.answer.isSome then (true, s) else if r.failed.isSome then (false, s) else remoteMaybe r s

/-- A vector atomic, VSTX or VSTXO that has issued and waits, with no element applied: its word and how many elements are active (R424). -/
def State.heldStore (s : State) : Option (Word × Nat) :=
  s.hart.queue.head?.bind fun it =>
    (if it.issued then it.instrs[it.ran]? else none).bind fun i =>
      let active (f : VMFmt) : Option (Word × Nat) := some (encode i, popCount ((s.asItem it).govern f.gm).1 s.vl)
      match i.code with
      | some (0x1C, _, .vm f) | some (0x1B, 3, .vm f) | some (0x1B, 4, .vm f) => active f
      | _ => none

/-- The requests of a vector atomic at a reset (R423, R424): how many do not stand performed. -/
def stopFlights (l : List Flight) (s : State) : Nat × State :=
  l.foldl (fun (x : Nat × State) f =>
    if f.r.answer.isSome then x
    else if f.r.failed.isSome then (x.1 + 1, x.2)
    else (match remoteMaybe f.r x.2 with | (true, s) => (x.1, s) | (false, s) => (x.1 + 1, s))) (0, s)

/-- A vector atomic, VSTX or VSTXO that may issue next and of which a reset finds some elements applied, as the free order chooses (R424;
log entry 7): its word, how many elements are active and how many are applied, in the focus of its hart. -/
def stopMid (s : State) : Option ((Word × Nat × Nat) × State) :=
  s.hart.queue.head?.bind fun it =>
    match it.instrs with
    | [i] =>
      if it.ran != 0 || s.hart.heldBy.isSome then none
      else
        let u := s.asItem it
        let part (f : VMFmt) (op : Option Nat) (ordered : Bool) : Option ((Word × Nat × Nat) × State) :=
          let sh := u.indexShape f
          let els := activeOf (u.govern f.gm).1 u.vl
          let p := u.pvOf f.vd ||| (if op.isSome then u.pvOf f.sb else pvEmpty) ||| (u.govern f.gm).2 ||| u.vlPv ||| u.ctx ||| sh.flow
          if (tagReason (u.indexCheck f) u).isSome || (sh.bad els).isSome then none
          else
            match translateRuns sh.via .write (if op.isSome then 4 else 3) op.isSome (sh.runs els) u with
            | .error _ => none
            | .ok (l, t) =>
              if (checkRuns p 4 t l).isSome || l.any fun r => t.isRemote r.pa then none
              else
                let (c, t) := t.nextFree
                let l := orderRuns ordered c l
                let some_ := if ordered then l.take (Config.orderKey c 0 % (l.length + 1)) else l.filter fun r => Config.orderKey c (r.ix + 1) % 2 == 1
                let w := (t.tagOf f.vd).width
                let img := t.imgOf f.vd
                let t := some_.foldl (fun t r =>
                  match op with
                  | some o => (⟨r.info, r.pa, BitVec.ofNat 64 (bitsAt img (r.ix * w) w)⟩ : VElem).perform ⟨0, o, w / 8, p, 0, [], []⟩ (growCur r.pa p t)
                  | none => storePa r.pa (runBytes img r) p t) t
                let t := { t with hart := { t.hart with s := s.hart.s, sp := s.hart.sp, ctx := s.hart.ctx, cur := none } }
                if some_.isEmpty then none else some ((encode i, l.length, some_.length), t)
        match i with
        | .vstx f => part f none false
        | .vstxo f => part f none true
        | .vamoadd f => part f (some 1) false | .vamoand f => part f (some 2) false | .vamoor f => part f (some 3) false
        | .vamoxor f => part f (some 4) false | .vamomin f => part f (some 5) false | .vamomax f => part f (some 6) false
        | .vamominu f => part f (some 7) false | .vamomaxu f => part f (some 8) false | .vamoswap f => part f (some 9) false
        | .vamooadd f => part f (some 1) true | .vamooand f => part f (some 2) true | .vamooor f => part f (some 3) true
        | .vamooxor f => part f (some 4) true | .vamoomin f => part f (some 5) true | .vamoomax f => part f (some 6) true
        | .vamoominu f => part f (some 7) true | .vamoomaxu f => part f (some 8) true | .vamooswap f => part f (some 9) true
        | _ => none
    | _ => none

/-- A vector atomic, VSTX or VSTXO in flight at a reset (R423, R424): its word, how many elements are active, and how many stand
applied. -/
def stopVamo (s : State) : Option (Word × Nat × Nat) × State :=
  let (_, t) := stopRemote s
  match s.hart.vreq with
  | some q =>
    let (n, t) := stopFlights q.out t
    (some (q.word, q.total, q.total - q.todo.length - n), t)
  | none =>
    match stopMid t with
    | some (e, u) => (some e, u)
    | none => (s.heldStore.map fun x => (x.1, x.2, 0), t)

/-- The reset log's entries, and the state with the outstanding requests performed or dropped (R424). -/
def stopVamos (cores : List Nat) (s : State) : List (List Byte) × State :=
  let hs := s.allHarts.filter fun h => cores.contains h.core && (h.vreq.isSome || h.remote.isSome || !h.queue.isEmpty)
  hs.foldl (fun (x : List (List Byte) × State) h =>
    let me := x.2.hart.id
    let t := focus h.id x.2
    match stopVamo t with
    | (some (w, a, n), u) =>
      (x.1 ++ [toLeBytes 8 t.hartid.toNat ++ toLeBytes 8 w.toNat ++ toLeBytes 4 a ++ toLeBytes 4 n ++ toLeBytes 8 0], focus me u)
    | (none, u) => (x.1, focus me u)) ([], s)

/-- A tidepool frame of a partition that is reset (R459, R460): every line zero, no redirect, GEN one higher. -/
def resetFrame (t : Nat) (s : State) : State :=
  let x := s.tideAt t
  let s := s.setTide { x with state := .resident, elastic := false, chan := none, task := none, first := none, backer := none }
  dropFrame t s

/-- The frames of the tidepool slots that a partition holds, rising within each slot (R332). -/
def State.slotFrames (s : State) (n : Nat) : List Nat :=
  (s.slots.filter fun k => k.part == n).flatMap fun k =>
    (List.range 160).map fun i => (s.own + 0x60000000000 + k.die * 2 ^ 32) / 65536 + 160 * k.slot + i

/-- A core that a reset has stopped. -/
def Core.afterReset (c : Core) : Core :=
  { c.vacate with tlb := [], icache := [],
                  reef := { Reef.empty with clock := c.reef.clock } }

/-- The partition is reset (R423, R424, R475). -/
def resetPart (n : Nat) (s : State) : State :=
  match s.partAt n with
  | none => s
  | some p =>
    let mine (core : Nat) : Bool := p.coves.getLsbD (core / 8)
    let cores := (List.range 320).filter mine
    let (log, s) := stopVamos cores s
    let s := abortJobs (fun j => j.part == n) s
    let s := { s with deliveries := s.deliveries.map fun (d : Delivery) => if d.job.part == n then { d with job := { d.job with kind := 0 } } else d }
    let s := freeContexts cores s
    let s := s.mapCores fun c => if mine c.num then c.afterReset else c
    let gone := s.tasks.filter fun t => t.part == n
    let s := { s with
      tasks := s.tasks.filter fun t => t.part != n
      barriers := s.barriers.filter fun b => !(gone.any fun t => t.num == b.task) && !(decide (512 <= b.task) && decide (b.task < 832) && mine (b.task - 512))
      chans := s.chans.filter fun c => !mine c.prod
      binds := s.binds.filter fun b => b.part != n
      pri := s.pri.filter fun x => !mine x.who.core
      ats := s.ats.filter fun x => x.1 != n
      grants := s.grants.filter fun x => !mine x.core
      vgrants := s.vgrants.filter fun x => !mine x.core
      served := s.served.filter fun x => x.part != n
      chosen := s.chosen.filter fun x => x.1 != n
      queues := s.queues.map fun (q : QState) => match s.qdesc q.num with
        | some d => if d.part == n then { q with head := none, credit := 0 } else q
        | none => q }
    let held := s.slotFrames n
    let listed := (s.tide.filter fun x => held.contains x.frame || x.backer == some n).map TideFrame.frame
    let s := (held.filter fun t => !listed.contains t).foldl (fun s t => bumpGen t s) (listed.foldl (fun s t => resetFrame t s) s)
    let s := p.frames.foldl (fun s r => strikeSectors (fun x => r.1 <= x / 2048 && x / 2048 < r.1 + r.2) pvEmpty (unscrub r.1 r.2 s)) s
    let s := s.setPart { p with roster := [], ns := [], qps := [], hfmask := 0, hfmaskPv := pvEmpty, htvec := 0, htvecPv := pvEmpty }
    match p.ctxPool with
    | some (a, _) => (log.take 2048).zipIdx.foldl (fun s e => storeHome (a + 32 * e.2) e.1 pvEmpty s) s
    | none => s

/-- FUNCTION_LEVEL_RESET (R423, R424, R475): VF n is the function of partition n - 1. -/
def execFunctionLevelReset (vf : Nat) (s : State) : Out := .next (if vf == 0 then s else resetPart (vf - 1) s)

end Sys2Proof.Machine
end

