-- ==== Sys2Proof/Machine/Reliab.lean ====
section
/-! DEFINITION. Errors, repairs, power and cooling (R425, R426, R481-R485, R496, R497), boot and firmware (R490, R493,
R494). -/

namespace Sys2Proof.Machine

/-! ### Errors (R425, R426, R481-R484) -/

/-- The stack of a physical address (R319). -/
def stackOf (pa : Nat) : Nat := 2 * dieOfEzmos (paLocal pa) + (if pa.testBit 8 then 1 else 0)

/-- The compute die of a physical address (R319). -/
def dieOf (pa : Nat) : Nat := if spaceOf (paLocal pa) == .tide then dieOfTide (paLocal pa) else dieOfEzmos (paLocal pa)
/-- The home core of a line of the package (R326, R333). -/
def homeOf (pa : Nat) : Nat := if spaceOf (paLocal pa) == .tide then homeOfTide (paLocal pa) else homeOfEzmos (paLocal pa)

/-- Dirty sectors that a core owns in a line. -/
def State.dirtyIn (s : State) (core pa : Nat) : List Nat :=
  (s.sectors.filter fun x => x.owner == some core && x.dirty && x.sector / 4 == s.lineOf pa).map Sector.sector

/-- A dirty sector whose data could not be recovered goes to its home with a poison mark (R483, R484; the unit of KIND 11 and 12 is a die, log
entry 80). -/
def poisonSector (x : Nat) (s : State) : State :=
  let at_ := s.place (x * 32) / 32
  let s := s.setSector { s.sectorAt x with dirty := false }
  logEvent 12 2 (dieOf (x * 32)) (x * 32) { s with poison := if s.poison.contains at_ then s.poison else at_ :: s.poison }

/-- Of the dirty sectors of a copy with a lasting error, those that cannot be recovered, as the free order chooses (R483; log
entry 7). -/
def poisonSome (l : List Nat) (s : State) : State :=
  if l.isEmpty then s
  else
    let (c, s) := s.nextFree
    l.foldl (fun s x => if Config.orderKey c x % 2 == 1 then poisonSector x s else s) s

/-- Spares of a kind that have been used at a place. -/
def State.used (s : State) (kind place : Nat) : Nat := (s.repairs.filter fun r => r.kind == kind && r.place == place).length

/-- The class of an error whose retry failed, or not, by whether a spare is left (R484, R485). -/
def errorClass (retryOk left : Bool) : Nat := if retryOk then 0 else if left then 1 else 2

/-- The step in the array of a core has failed its residue check twice: it is undone, to be run again in full after the swap, and the core
begins nothing more (R287, R482). -/
def failCore (core : Nat) (s : State) : State :=
  onCore core (fun s => s.mapCore fun c =>
    { c with failing := true, isl := { c.isl with step := none, order := c.isl.step.toList ++ c.isl.order } }) s

/-- ERROR_RETRY (R481-R484): an error is retried once; it is a transient, or lasting and repairable or not. -/
def execErrorRetry (site : ErrorSite) (retryOk : Bool) (s : State) : Out :=
  .next (
    match site with
    | .ezmos pa =>
      let left := decide (s.used 2 (Config.bankOf pa) < 32) || decide (s.used 3 (stackOf pa) < 2)
      logEvent 1 (errorClass retryOk left) (stackOf pa) pa s
    | .sram core pa =>
      let (k, s) := s.nextFree
      let s := logEvent 2 (errorClass retryOk (s.used 5 (core + 320 * Config.sramGroup k) < 2)) core pa s
      if retryOk then s else poisonSome (s.dirtyIn core pa) s
    | .flit port => logEvent 3 (errorClass retryOk (s.used 4 port < 1)) port 0 s
    | .residue core =>
      let s := logEvent 4 (errorClass retryOk (s.sparesUsed (core / 40) < 2)) core 0 s
      if retryOk || 320 <= core then s else failCore core s)

/-- UNCORRECTABLE_REREAD (R425, R426): a copy of a line, in the slice that the free order chooses (log entry 7), is dropped where no sector
of it is dirty, and the line is read again; a failure retires the frame, and the accesses that were waiting on the line raise the data error with DETAIL 1. -/
def execUncorrectableReread (pa : Nat) (again : Reread) (s : State) : Out :=
  .next (
    let line := s.lineOf pa
    let holders := ((s.core :: s.cores).filter fun c => c.copies.any fun k => k.line == line).map Core.num
    let (k, s) := if holders.isEmpty then (0, s) else s.nextFree
    let core := (holders[Config.orderKey k 0 % holders.length]?).getD 0
    if !holders.isEmpty && !(s.dirtyIn core pa).isEmpty then s
    else
      let s := onCore core (fun s => s.mapCore fun c => { c with copies := c.copies.filter fun k => k.line != line }) s
      let s := logEvent 2 (if again == .good then 0 else 2) (if holders.isEmpty then homeOf pa else core) pa s
      let f := s.place pa / 65536
      match again with
      | .good => s
      | .failed waiting =>
        if s.retired.contains f then s
        else
          let s := { s with retired := f :: s.retired, rereads := s.rereads ++ waiting.map fun w => (w, s.place pa / 128) }
          logEvent 11 2 (dieOf pa) (f * 65536) s)

/-! ### Repairs (R485) -/

/-- One spare is used where one is left, and logged; otherwise the fault is logged as not repairable (R484, R485). -/
def repair (kind place : Nat) (left : Bool) (log unit addr : Nat) (s : State) : State :=
  if left then logEvent log 1 unit addr { s with repairs := s.repairs ++ [⟨kind, place, s.used kind place + 1⟩] }
  else logEvent log 2 unit addr s

/-- Data that the copy of a failing row or bank finds uncorrectable, if any (R485): the event names one address, and the free order says whether its
sector is lost, and if so whether it is poisoned or, clean and unreadable, retires its frame (log entry 7). -/
def loseData (pa : Nat) (s : State) : State :=
  let (k, s) := s.nextFree
  let f := pa / 65536
  if !s.paExists pa || paPkg pa != s.pkg || Config.orderKey k 0 % 2 == 0 then s
  else if Config.orderKey k 1 % 2 == 1 then poisonSector (pa / 32) s
  else if s.retired.contains f then s
  else logEvent 11 2 (dieOf pa) (f * 65536) { s with retired := f :: s.retired }

/-- A row of an SRAM array fails for good (R485): each 512 rows of an array have two spares. The event names the core alone, so the array and
the group of rows are free (log entry 7). -/
def repairSram (core : Nat) (s : State) : State :=
  let (k, s) := s.nextFree
  let place := core + 320 * Config.sramGroup k
  repair 5 place (s.used 5 place < 2) 9 core 0 s

/-- A way of a bank of a slice is lost (R485): the first leaves every partition's mask, its copies go, and its tidepool lines move to way 12 of their
sets, whose copies they replace (log entry 66). The event names the bank alone, so which way it is is free (log entry 66). -/
def loseWay (core bank : Nat) (s : State) : State :=
  let place := core * 8 + bank
  if s.used 6 place < 1 then
    let (k, s) := s.nextFree
    let way := Config.orderKey k 0 % 16
    let s := { s with repairs := s.repairs ++ [⟨6, place, way⟩] }
    let out (c : Copy) : Bool :=
      linePlace c.line % 8 == bank && (c.way == way || (c.way == 12 && s.tideHolds core (linePlace c.line) 12))
    logEvent 10 1 core 0 (onCore core (evictCopies out) s)
  else logEvent 10 2 core 0 s

/-- A way of a bank is lost only once the spare rows of its array are used (R485): until then a row is remapped. -/
def rowOrWay (core bank : Nat) (s : State) : State :=
  let (k, t) := s.nextFree
  let place := core + 320 * Config.sramGroup k
  if t.used 5 place < 2 then repair 5 place true 9 core 0 t else loseWay core bank s

/-- The width of the host link (R465, R485): x16, narrowed with each lane lost down to x4. -/
def State.hostWidth (s : State) : Nat := max 4 (16 / 2 ^ s.used 8 0)

/-- The Ethernet ports of a package (R13, R19); a lane that fails takes its port out of service (R485). -/
def ethernetPorts : Nat := 16

/-- A unit without a spare goes on with less: it is recorded once, and the fault logged as not repairable (R465, R484, R485). -/
def narrow (kind place unit : Nat) (s : State) : State :=
  let s := { s with repairs := s.repairs ++ [⟨kind, place, s.used kind place + 1⟩] }
  logEvent 3 2 unit 0 s

/-- LASTING_FAULT_REPAIR (R485). The kinds of `Repair`: 1 core, 2 row of a bank, 3 bank of a stack, 4 lane of a port, 5 SRAM
row of a core, 6 way of a bank, 7 an Ethernet port that has left service, 8 a narrowing of the host link (log entry 66). A unit that the package does not have has no fault. -/
def execLastingFaultRepair (u : RepairUnit) (s : State) : Out :=
  .next (match u with
    | .row stack pa => if stack < 16 then loseData pa (repair 2 (Config.bankOf pa) (s.used 2 (Config.bankOf pa) < 32) 6 stack pa s) else s
    | .bank stack pa => if stack < 16 then loseData pa (repair 3 stack (s.used 3 stack < 2) 7 stack pa s) else s
    | .lane port => if port < mladzarPorts then repair 4 port (s.used 4 port < 1) 8 port 0 s else s
    | .hostLane => narrow 8 0 0 s
    | .ethernetLane port => if port < ethernetPorts then narrow 7 port port s else s
    | .sramRow core => if core < 320 then repairSram core s else s
    | .sliceWay core bank => if core < 320 && bank < 8 then rowOrWay core bank s else s)

/-! ### Power and cooling (R496, R497) -/

/-- The state of the clock that command 18 asks for, before firmware raises it. -/
def powerOf (cmd : Nat) : PowerState := if cmd == 1 then .neap else .nominal

/-- SPRING_STATE_CHANGE (R496). -/
def execSpringStateChange (up : Bool) (s : State) : Out :=
  .next (if up then (if s.powerCmd == 2 && !s.forcedNeap then { s with power := .spring } else s)
    else if s.power == .spring then { s with power := .nominal } else s)

/-- THERMAL_LIMIT (R497). -/
def execThermalLimit (die : Nat) (s : State) : Out := .next (logEvent 13 0 die 0 { s with forcedNeap := true, power := .neap, limitAt := s.clk })

/-- NEAP_EXIT (R497): the die has stayed below 95 °C for 2^32 clk, so no die has been at its limit for as long. -/
def execNeapExit (s : State) : Out :=
  .next (if s.forcedNeap && decide (2 ^ 32 <= (s.clk - s.limitAt).toNat) then { s with forcedNeap := false, power := powerOf s.powerCmd } else s)

/-- THERMAL_STOP (R497): every core stops, and every task ends with code 6. -/
def execThermalStop (_die : Nat) (s : State) : Out :=
  .next (
    let s := s.tasks.foldl (fun s t => killTask t s) s
    let s := s.tasks.foldl (fun s t => match s.taskAt t.num with | some t => signalTask t s | none => s) s
    { s with stopped := true, grants := [], vgrants := [] })

/-! ### Boot and firmware (R490, R493, R494) -/

/-- An image is accepted (R490). -/
def imageOk (fused : Nat) (im : List Byte) : Bool :=
  let key := Config.imageField 0 im
  leNum (sha512 key) == Config.rootHash && edVerify key (Config.imageField 1 im) (sha512 (Config.imageField 2 im))
    && decide (fused <= Config.imageSvn im)

/-- The images of a firmware set in load order: the security processor, the dispatcher and the breakwater, the links and the storage engine
(R490). -/
def imagesNamed (l : List (List Byte)) : Bool := l.map Config.imageKind == [0, 1, 2, 3, 4]

/-- What a set of accepted images is: its least SVN, its measurement and its format numbers (R490, R494). -/
def firmwareOf (l : List (List Byte)) : Firmware :=
  let svn := (l.map Config.imageSvn).foldl min ((l.head?).elim 0 Config.imageSvn)
  let f := Config.imageFormats l
  ⟨svn, leNum (sha512 (l.flatMap fun im => sha512 (Config.imageField 2 im))), f.1, f.2⟩

/-- BOOT (R490): each image in load order; one that fails, or is not the image that comes next, stops the boot. Without an image nothing is
loaded. -/
def execBoot (images : List (List Byte)) (s : State) : Out :=
  .next (if s.boot != .notBooted || images.isEmpty then s
    else if imagesNamed images && images.all (imageOk s.fusedSvn) then { s with boot := .booted, fw := firmwareOf images }
    else { s with boot := .failed })

/-- The new firmware takes over (R493): placed forms and TLB entries go, and its SVN is fused in the counter of 64 steps (R490). It has still to
check the reports of every other package, which then form the zone anew (R492; log entry 81). -/
def switchFirmware (f : Firmware) (s : State) : State :=
  let s := s.mapCores fun c => { c with tlb := [], reef := { c.reef with placed := [] } }
  { s with fw := f, staged := none, activate := false, fusedSvn := min 64 (max s.fusedSvn f.svn), zone := [] }

/-- One step of an activation (R404, R418, R493): every running task is pre-empted, but one that the pool cannot hold, which runs to its end;
once none runs or stops, the staged set takes over. -/
def activateStep (s : State) : State :=
  if !s.activate then s
  else
    match s.staged with
    | none => { s with activate := false }
    | some f =>
      let s := (s.tasks.filter fun t => t.state == .running).foldl (fun s t =>
        if !s.taskOver t && s.canSave t (s.poolUsed t.part) then requestStop t s else s) s
      if s.tasks.all fun t => t.state == .saved then switchFirmware f s else s

/-- FWUPDATE_ACTIVATE (R493). -/
def execFwupdateActivate (s : State) : Out := .next (activateStep s)

end Sys2Proof.Machine
end

