-- ==== Sys2Proof/Machine/Mgmt.lean ====
section
/-! DEFINITION. The management queue (R470-R475, R484, R492, R493, R496). -/

namespace Sys2Proof.Machine

/-- What a command answers: the state changed, or a code and nothing changed (R471). -/
abbrev Done := Except Nat State

/-- Completes an entry (R471): STATUS is written, then MQHEAD advances; a failed command changes nothing else. -/
def finishEntry (e : MqEntry) (r : Done) (s : State) : State :=
  let (code, t) := match r with | .ok t => (0, t) | .error c => (c, s)
  let t := storeHome (e.at_ + 4) (toLeBytes 4 (2 ^ 31 + code)) pvEmpty t
  { t with mqHead := t.mqHead + 1 }

/-- The arguments past the first `n` doubles are zero fields. -/
def mqOnly (e : MqEntry) (n : Nat) : Bool :=
  e.zero == 0 && ([e.w8, e.w16, e.w24, e.w32, e.w40, e.w48, e.w56].drop n).all (· == 0)

/-- A command on a partition that exists (R471). -/
def onPart (e : MqEntry) (ok : Bool) (f : Part → Done) (s : State) : Done :=
  if !ok then .error 1
  else match s.partAt e.part.toNat with
    | none => .error 1
    | some p => f p

/-- A command that ignores PART. -/
def plain (ok : Bool) (f : Unit → Done) : Done := if ok then f () else .error 1

/-- Bytes as a management read finds them: zeros where the frame's set is not empty (R439). -/
def State.mgmtByte (s : State) (pa : Nat) : Byte := if s.curAt pa != pvEmpty then 0 else s.homeByte pa
/-- A run of bytes of a management read. -/
def State.mgmtBytes (s : State) (pa n : Nat) : List Byte := (List.range n).map fun i => s.mgmtByte (pa + i)

/-- A command that reads memory: it is malformed where the memory cannot be read (R483; log entry 80), and its read starts the clear of an
unscrubbed frame (R336). -/
def reading (pa n : Nat) (f : List Byte → State → Done) (s : State) : Done :=
  if s.lost pa n then .error 1 else f (s.mgmtBytes pa n) (clearRange pa n s)

/-- The bytes from an address on lie in the package's own Ezmos memory. -/
def State.ezmosRange (s : State) (a n : Nat) : Bool := decide (s.own <= a) && decide (a + n <= s.own + 0x12000000000)

/-- A party set names parties of the roster alone (R433). -/
def Part.knows (p : Part) (w : PvSet) : Bool := w.toNat / 2 ^ p.roster.length == 0

/-- PCREATE. -/
def mqPcreate (e : MqEntry) (s : State) : Done :=
  let coves : BitVec 40 := e.w8.extractLsb' 0 40
  if !mqOnly e 2 || e.w8.toNat / 2 ^ 40 != 0 || 3 < e.w16.toNat || 63 < e.part.toNat then .error 1
  else if (s.partAt e.part.toNat).isSome || s.parts.any (fun p => p.coves &&& coves != 0) then .error 2
  else .ok (s.setPart { num := e.part.toNat, coves := coves, cls := e.w16.toNat, ways := [], shares := [], frames := [],
                        ctxPool := none, spillPool := none, roster := [], ns := [], qps := [], hfmask := 0, hfmaskPv := pvEmpty,
                        htvec := 0, htvecPv := pvEmpty })

/-- PRESET (R475). -/
def mqPreset (e : MqEntry) (s : State) : Done := onPart e (mqOnly e 0) (fun p => .ok (resetPart p.num s)) s

/-- PDESTROY. -/
def mqPdestroy (e : MqEntry) (s : State) : Done :=
  onPart e (mqOnly e 0) (fun p =>
    let s := resetPart p.num s
    .ok { s with parts := eraseBy Part.num p.num s.parts, slots := s.slots.filter fun x => x.part != p.num }) s

/-- WAYS: ways leave other partitions' masks first. -/
def mqWays (e : MqEntry) (s : State) : Done :=
  let die := e.w8.toNat % 65536
  let mask : BitVec 16 := e.w8.extractLsb' 16 16
  onPart e (mqOnly e 1 && e.w8.toNat / 2 ^ 32 == 0 && decide (die < 8)) (fun p =>
    let take (q : Part) : Part := { q with ways := q.ways.map fun x => if x.1 == die then (x.1, x.2 &&& ~~~mask) else x }
    let s := { s with parts := s.parts.map take }
    .ok (s.setPart { p with ways := putBy Prod.fst (die, mask) p.ways })) s

/-- Shares of a stack that other partitions hold. -/
def State.sharesOf (s : State) (part stack : Nat) : Nat :=
  s.parts.foldl (fun n p => if p.num == part then n else n + ((findBy Prod.fst stack p.shares).elim 0 Prod.snd)) 0

/-- BWSHARE. -/
def mqBwshare (e : MqEntry) (s : State) : Done :=
  let stack := e.w8.toNat % 256
  let share := e.w8.toNat / 256
  onPart e (mqOnly e 1 && decide (stack < 16) && decide (share <= 64)) (fun p =>
    if 64 < s.sharesOf p.num stack + share then .error 2
    else .ok (s.setPart { p with shares := putBy Prod.fst (stack, share) p.shares })) s

/-- Two frame ranges share a frame. -/
def rangesMeet (a b : Nat × Nat) : Bool := a.1 < b.1 + b.2 && b.1 < a.1 + a.2 && a.2 != 0 && b.2 != 0

/-- MEM. -/
def mqMem (e : MqEntry) (s : State) : Done :=
  let r : Nat × Nat := (e.w8.toNat / 65536, e.w16.toNat)
  onPart e (mqOnly e 2 && e.w8.toNat % 65536 == 0 && s.ezmosRange e.w8.toNat (65536 * e.w16.toNat)) (fun p =>
    if s.parts.any fun q => q.frames.any (rangesMeet r) then .error 2
    else .ok (s.setPart { p with frames := p.frames ++ [r] })) s

/-- QTABLE. -/
def mqQtable (e : MqEntry) (s : State) : Done :=
  plain (mqOnly e 1 && s.ezmosRange e.w8.toNat 16384) (fun _ => .ok { s with qtable := some e.w8.toNat })

/-- The bytes lie in the memory assigned to the partition. -/
def Part.holds (p : Part) (a n : Nat) : Bool := let (f, k) := units 65536 a n; p.owns f k

/-- CTXPOOL. -/
def mqCtxpool (e : MqEntry) (s : State) : Done :=
  onPart e (mqOnly e 2) (fun p =>
    if !p.holds e.w8.toNat e.w16.toNat then .error 2
    else .ok (s.setPart { p with ctxPool := some (e.w8.toNat, e.w16.toNat) })) s

/-- SPILLPOOL. -/
def mqSpillpool (e : MqEntry) (s : State) : Done :=
  onPart e (mqOnly e 1 && e.w8.toNat % 65536 == 0) (fun p =>
    if !p.owns (e.w8.toNat / 65536) 1 then .error 2
    else .ok (s.setPart { p with spillPool := some e.w8.toNat })) s

/-- ROSTER. -/
def mqRoster (e : MqEntry) (s : State) : Done :=
  onPart e (mqOnly e 1 && s.ezmosRange e.w8.toNat 64) (fun p =>
    if 16 <= p.roster.length then .error 3
    else reading e.w8.toNat 64 (fun b s => .ok (s.setPart { p with roster := p.roster ++ [leNum b] })) s) s

/-- A provenance request (R434, R435): CUR grows by C, CEIL becomes E with CUR; TLB entries of the frame go, and watch
entries that meet it are struck. -/
def provRequest (frame : Nat) (c e : PvSet) (s : State) : State :=
  let pa := frame * 65536
  let s := growCur pa c s
  let w := s.provAt pa
  let s := s.setProv { w with ceil := e ||| w.cur }
  let s := s.mapCores fun k => { k with tlb := k.tlb.filter fun x => !(x.pa <= pa && pa < x.pa + 2 ^ x.bits) }
  let s := strikeFrame frame w.cur s
  if w.frame == frame then s else strikeFrame w.frame w.cur s

/-- A frame of the partition: of its Ezmos memory, or of a tidepool slot that it holds. -/
def State.partFrame (s : State) (p : Part) (frame : Nat) : Bool :=
  p.owns frame 1 || s.slots.any fun k => k.part == p.num && s.frameIn k.die [k.slot] frame

/-- PROV. -/
def mqProv (e : MqEntry) (s : State) : Done :=
  let c : PvSet := e.w16.extractLsb' 0 16
  let ceil : PvSet := e.w16.extractLsb' 16 16
  onPart e (mqOnly e 2 && e.w8.toNat % 65536 == 0 && e.w16.toNat / 2 ^ 32 == 0) (fun p =>
    if !s.partFrame p (e.w8.toNat / 65536) then .error 2
    else if !p.knows c || !p.knows ceil then .error 3
    else .ok (provRequest (e.w8.toNat / 65536) c ceil s)) s

/-- A provenance request waits for the accesses that used the frame's words as they were (R435). -/
def provWaits (e : MqEntry) (s : State) : Bool :=
  let f := e.w8.toNat / 65536
  (match mqProv e s with | .ok _ => true | .error _ => false) &&
    s.inFlight fun a n => rangesHit a n (f * 65536) 65536 || rangesHit (s.place a) n (f * 65536) 65536

/-- NSBIND (R367, R480). -/
def mqNsbind (e : MqEntry) (s : State) : Done :=
  let ix := e.w8.toNat % 256
  let ctl := e.w8.toNat / 256 % 2 ^ 24
  let nsid := e.w8.toNat / 2 ^ 32
  let w : PvSet := e.w16.extractLsb' 0 16
  onPart e (mqOnly e 2 && decide (ix < 64) && decide (ctl < 16) && e.w16.toNat / 65536 == 0) (fun p =>
    if !p.knows w then .error 3
    else if (Config.lbaSize ctl nsid != 512 && Config.lbaSize ctl nsid != 4096) || Config.lbaMeta ctl nsid then .error 1
    else .ok (s.setPart { p with ns := putBy Prod.fst (ix, ctl, nsid, w) p.ns })) s

/-- QPBIND (R479). -/
def mqQpbind (e : MqEntry) (s : State) : Done :=
  let w : PvSet := e.w16.extractLsb' 0 16
  onPart e (mqOnly e 2 && decide (e.w8.toNat < 2 ^ 24) && e.w16.toNat / 65536 == 0) (fun p =>
    if !p.knows w then .error 3
    else if s.parts.any fun q => q.num != p.num && q.qps.any fun x => x.1 == e.w8.toNat then .error 2
    else .ok (s.setPart { p with qps := putBy Prod.fst (e.w8.toNat, w) p.qps })) s

/-- FMASK (R55, R473). -/
def mqFmask (e : MqEntry) (s : State) : Done :=
  onPart e (mqOnly e 1) (fun p => .ok (s.setPart { p with hfmask := e.w8.extractLsb' 0 7, hfmaskPv := pvEmpty })) s

/-- HVEC (R474). -/
def mqHvec (e : MqEntry) (s : State) : Done :=
  onPart e (mqOnly e 1 && e.w8.toNat % 8 == 0) (fun p => .ok (s.setPart { p with htvec := e.w8, htvecPv := pvEmpty })) s

/-- ELOG (R484). -/
def mqElog (e : MqEntry) (s : State) : Done :=
  plain (mqOnly e 2 && e.w8.toNat % 32 == 0 && isPow2 e.w16.toNat 65536 && s.ezmosRange e.w8.toNat (32 * e.w16.toNat))
    (fun _ => .ok { s with elog := some (e.w8.toNat, e.w16.toNat) })

/-- The attestation report (R492). -/
def State.report (s : State) (nonce : List Byte) : List Byte :=
  let body := toLeBytes 4 0x54535441 ++ toLeBytes 2 1 ++ toLeBytes 2 s.pkg ++ toLeBytes 8 Config.serial.toNat ++ toLeBytes 8 s.fw.svn
    ++ toLeBytes 8 s.epoch ++ nonce ++ toLeBytes 64 s.fw.measure ++ deviceKey ++ certificate
  body ++ deviceSign (sha512 body)

/-- ATTEST (R492). -/
def mqAttest (e : MqEntry) (s : State) : Done :=
  plain (mqOnly e 2 && e.w16.toNat % 64 == 0 && s.ezmosRange e.w8.toNat 64 && s.ezmosRange e.w16.toNat 320)
    (fun _ => reading e.w8.toNat 64 (fun b s => .ok (storeHome e.w16.toNat (s.report b) pvEmpty s)) s)

/-- FWUPDATE (R493). -/
def mqFwupdate (e : MqEntry) (s : State) : Done :=
  plain (mqOnly e 3 && decide (e.w24.toNat <= 1) && s.ezmosRange e.w8.toNat e.w16.toNat) (fun _ =>
    reading e.w8.toNat e.w16.toNat (fun b s =>
      let l := Config.imageSet b
      if !imagesNamed l || !l.all (imageOk s.fusedSvn) then .error 1
      else .ok { s with staged := some (firmwareOf l), activate := s.activate || e.w24 == 1 }) s)

/-- POWER (R496, R497). -/
def mqPower (e : MqEntry) (s : State) : Done :=
  plain (mqOnly e 1 && decide (e.w8.toNat <= 2)) (fun _ =>
    .ok { s with powerCmd := e.w8.toNat, power := if s.forcedNeap then .neap else powerOf e.w8.toNat })

/-- PCREATE (R472). -/
def execPcreate (e : MqEntry) (s : State) : Out := .next (finishEntry e (mqPcreate e s) s)
/-- PRESET (R472). -/
def execPreset (e : MqEntry) (s : State) : Out := .next (finishEntry e (mqPreset e s) s)
/-- PDESTROY (R472). -/
def execPdestroy (e : MqEntry) (s : State) : Out := .next (finishEntry e (mqPdestroy e s) s)
/-- WAYS (R472). -/
def execWays (e : MqEntry) (s : State) : Out := .next (finishEntry e (mqWays e s) s)
/-- BWSHARE (R472). -/
def execBwshare (e : MqEntry) (s : State) : Out := .next (finishEntry e (mqBwshare e s) s)
/-- MEM (R472). -/
def execMem (e : MqEntry) (s : State) : Out := .next (finishEntry e (mqMem e s) s)
/-- QTABLE (R472). -/
def execQtable (e : MqEntry) (s : State) : Out := .next (finishEntry e (mqQtable e s) s)
/-- CTXPOOL (R472). -/
def execCtxpool (e : MqEntry) (s : State) : Out := .next (finishEntry e (mqCtxpool e s) s)
/-- SPILLPOOL (R472). -/
def execSpillpool (e : MqEntry) (s : State) : Out := .next (finishEntry e (mqSpillpool e s) s)
/-- ROSTER (R433, R472). -/
def execRoster (e : MqEntry) (s : State) : Out := .next (finishEntry e (mqRoster e s) s)
/-- PROV (R435, R472): the entry stands while accesses that used the frame's words are under way. -/
def execProv (e : MqEntry) (s : State) : Out := .next (if provWaits e s then s else finishEntry e (mqProv e s) s)
/-- NSBIND (R472). -/
def execNsbind (e : MqEntry) (s : State) : Out := .next (finishEntry e (mqNsbind e s) s)
/-- QPBIND (R472). -/
def execQpbind (e : MqEntry) (s : State) : Out := .next (finishEntry e (mqQpbind e s) s)
/-- FMASK (R472, R473). -/
def execFmask (e : MqEntry) (s : State) : Out := .next (finishEntry e (mqFmask e s) s)
/-- HVEC (R472, R474). -/
def execHvec (e : MqEntry) (s : State) : Out := .next (finishEntry e (mqHvec e s) s)
/-- ELOG (R484). -/
def execElog (e : MqEntry) (s : State) : Out := .next (finishEntry e (mqElog e s) s)
/-- ATTEST (R492). -/
def execAttest (e : MqEntry) (s : State) : Out := .next (finishEntry e (mqAttest e s) s)
/-- FWUPDATE (R493). -/
def execFwupdate (e : MqEntry) (s : State) : Out := .next (finishEntry e (mqFwupdate e s) s)
/-- POWER (R496). -/
def execPower (e : MqEntry) (s : State) : Out := .next (finishEntry e (mqPower e s) s)

/-- MQTAIL_WRITE (R470, R471). -/
def execMqtailWrite (v : Word) (s : State) : Out := .next (if s.boot == .failed then s else { s with mqTail := v })

/-- The entry at an address of the ring, as a management read finds it (R439, R471). -/
def State.mqEntry (s : State) (a : Nat) : MqEntry :=
  let w (o : Nat) : Word := BitVec.ofNat 64 (leNum (s.mgmtBytes (a + o) 8))
  ⟨a, s.mgmtByte (a + 1), BitVec.ofNat 16 (leNum (s.mgmtBytes (a + 2) 2)), w 8, w 16, w 24, w 32, w 40, w 48, w 56⟩

/-- What the command of an entry answers; an OP that is not listed is malformed (R471, R472). -/
def mqRun (op : Nat) (e : MqEntry) (s : State) : Done :=
  match op with
  | 1 => mqPcreate e s
  | 2 => mqPreset e s
  | 3 => mqPdestroy e s
  | 4 => mqWays e s
  | 5 => mqBwshare e s
  | 6 => mqMem e s
  | 7 => mqQtable e s
  | 8 => mqCtxpool e s
  | 9 => mqSpillpool e s
  | 10 => mqRoster e s
  | 11 => mqProv e s
  | 12 => mqNsbind e s
  | 13 => mqQpbind e s
  | 14 => mqFmask e s
  | 15 => mqElog e s
  | 16 => mqAttest e s
  | 17 => mqFwupdate e s
  | 18 => mqPower e s
  | 19 => mqHvec e s
  | _ => .error 1

/-- One clk of the management queue (R471): the next entry, taken in ring order; one that cannot be read is not taken (R483; log entry 80). -/
def mgmtClk (s : State) : State :=
  if s.mqHead == s.mqTail || s.mqSize == 0 then s
  else
    let a := s.mqBase + 64 * (s.mqHead.toNat % s.mqSize)
    let s := startClear a s
    let e := s.mqEntry a
    let op := (s.mgmtByte a).toNat
    if s.lost a 64 || (op == 11 && provWaits e s) then s else finishEntry e (mqRun op e s) s

end Sys2Proof.Machine
end

