-- ==== Sys2Proof/Machine/Policy.lean ====
section
/-! DEFINITION. GATEINST: policy documents (R382, R440-R442). -/

namespace Sys2Proof.Machine

/-- A little-endian field of a document. -/
def docNum (d : Array Byte) (off n : Nat) : Nat := leNum (d.toList.drop off |>.take n)
/-- The bytes of a document's field. -/
def docBytes (d : Array Byte) (off n : Nat) : List Byte := d.toList.drop off |>.take n

/-- The members of a set, rising. -/
def pvMembers (p : PvSet) : List Nat := (List.range 16).filter fun i => p.getLsbD i

/-- The parts of a document's header (R440). -/
structure PolicyDoc where
  nparty : Nat
  ndest : Nat
  id : Nat
  parties : PvSet
  quota : Nat
  expiry : Nat

/-- Reads the header of a document. -/
def PolicyDoc.of (d : Array Byte) : PolicyDoc :=
  ⟨docNum d 6 1, docNum d 7 1, docNum d 8 4, BitVec.ofNat 16 (docNum d 12 2), docNum d 16 8, docNum d 24 8⟩
/-- B, the length of the body. -/
def PolicyDoc.body (h : PolicyDoc) : Nat := 64 + 64 * h.nparty + 32 * h.ndest
/-- The header's limits (R440). -/
def PolicyDoc.ok (h : PolicyDoc) (d : Array Byte) (roster : Nat) : Bool :=
  docNum d 0 4 == 0x4C4F5042 && docNum d 4 2 == 1 && decide (1 <= h.nparty) && decide (h.nparty <= 16)
    && decide (1 <= h.ndest) && decide (h.ndest <= 8) && h.id != 0 && (pvMembers h.parties).length == h.nparty
    && h.parties.toNat / 2 ^ roster == 0 && docNum d 14 2 == 0 && decide (1 <= h.quota) && decide (h.quota <= 2 ^ 48)
    && h.expiry != 0 && docNum d 32 32 == 0

/-- Reads destination record `k` (R441). -/
def PolicyDoc.dest (h : PolicyDoc) (d : Array Byte) (k : Nat) : Dest :=
  let o := 64 + 64 * h.nparty + 32 * k
  ⟨docNum d o 1, docNum d (o + 1) 1, docNum d (o + 8) 8, docNum d (o + 16) 8, docNum d (o + 24) 1, 0⟩

/-- The limits of a destination record (R441, R442). -/
def PolicyDoc.destOk (h : PolicyDoc) (d : Array Byte) (k : Nat) (s : State) : Bool :=
  let o := 64 + 64 * h.nparty + 32 * k
  let x := h.dest d k
  docNum d (o + 2) 6 == 0 && docNum d (o + 25) 7 == 0 && decide (1 <= x.limit) && decide (x.limit <= 2 ^ 48) &&
    (match x.kind with
     | 1 => x.ns == 0 && decide (0x40000000000 <= x.addr) && decide (x.addr + x.limit <= 0x60000000000)
     | 2 => decide (x.ns < 64) && (s.nsAt x.ns).isSome
     | 3 => x.ns == 0 && decide (x.addr < 2 ^ 24)
     | _ => false)

/-- The checks of R442 on a whole document, but for the table: a failure code, or the policy. -/
def checkPolicy (d : Array Byte) (s : State) : Except Nat Policy :=
  let h := PolicyDoc.of d
  let ks := List.range h.ndest
  let dests := ks.map (h.dest d)
  let ids := dests.map Dest.didx
  let roster := match s.part with | some p => p.roster | none => []
  if !h.ok d s.roster || !ks.all (fun k => h.destOk d k s) || ids.eraseDups.length != ids.length then .error 1
  else
    let msg := sha512 (docBytes d 0 h.body)
    let good := (pvMembers h.parties).zipIdx.all fun (p, k) =>
      let o := h.body + 96 * k
      let key := docBytes d o 32
      let hash := leNum (sha512 key)
      hash == docNum d (64 + 64 * k) 64 && roster[p]? == some hash && edVerify key (docBytes d (o + 32) 64) msg
    if !good then .error 2
    else .ok ⟨s.partNum, h.id, h.parties, h.expiry, h.quota, dests⟩

/-- The policies of the current partition. -/
def State.myPolicies (s : State) : List Policy := s.policies.filter fun p => p.part == s.partNum

/-- Installs a policy (R442): code 4 for an installed id; a full table first frees what has expired or is exhausted. -/
def installPolicy (p : Policy) (s : State) : Except Nat State × State :=
  if s.myPolicies.any fun q => q.id == p.id then (.error 4, s)
  else if s.myPolicies.length < 64 then (.ok { s with policies := s.policies ++ [p] }, s)
  else
    let t := { s with policies := s.policies.filter fun q => !(q.part == p.part && (q.expiry <= s.epoch || q.remain == 0)) }
    if t.myPolicies.length < 64 then (.ok { t with policies := t.policies ++ [p] }, t) else (.error 3, t)

/-- GATEINST (R382, R442). -/
def execGateinst (f : RFmt) (s : State) : Out :=
  let i : Instr := .gateinst f
  .next (gated i (fun s =>
    let a := s.getS f.sa
    if a.toNat % 64 != 0 then scalarTrap ⟨7, a, 0, 2⟩ s
    else
      let fin (v : Nat) (p : PvSet) (t : State) : State :=
        let t := t.addCtx (s.getP f.sa)
        retire (t.setS f.sd (BitVec.ofNat 64 v) (s.getP f.sa ||| p ||| t.ctx))
      let bad (c : Nat) : Nat := 2 ^ 63 + c
      match readParts [(a, 64)] s with
      | .error (.inl t) => scalarTrap t s
      | .error (.inr w) => waitFor w s
      | .ok (hd, p0, t0) =>
        let h := PolicyDoc.of hd.toArray
        if !h.ok hd.toArray s.roster then fin (bad 1) p0 t0
        else
          match readParts (pageParts 2 a (h.body + 96 * h.nparty)) s with
          | .error (.inl t) => scalarTrap t s
          | .error (.inr w) => waitFor w s
          | .ok (d, p, t) =>
            match checkPolicy d.toArray s with
            | .error c => fin (bad c) p t
            | .ok pol =>
              match installPolicy pol t with
              | (.ok t, _) => fin pol.id p t
              | (.error c, t) => fin (bad c) p t) s)

end Sys2Proof.Machine
end

