-- ==== Sys2Proof/Machine/Issue.lean ====
section
/-! DEFINITION. The issue clock (R406, R407): CLK, the progress of the machine's own agents, and the harts chosen to issue. -/

namespace Sys2Proof.Machine

/-- The contexts 0-7 from a round-robin pointer on (R406). -/
def fromPointer (p : Nat) : List Nat := (List.range 8).map fun k => (p + k) % 8

/-- The harts of a core that may issue in one clk, in the order of the scalar pointer, and in the order of the vector pointer (R406). A hart
takes a scalar slot only once its word issues; the second round is for the hart that may issue a second word. A core that waits for its swap
issues no vector-class item (R482). -/
def coreGrants (core : Nat) (s : State) : List HartId × List HartId :=
  let c := s.coreAt core
  let who (p : Nat) : List HartId := ((fromPointer p).map fun n => (⟨core, n⟩ : HartId)).filter fun w => (s.hartAt w).mayIssue
  let l := who c.scalarPtr
  (l ++ l, if c.failing then [] else who c.vectorPtr)

/-- The cores on which some hart may issue. -/
def State.activeCores (s : State) : List Nat :=
  (s.allHarts.filter Hart.mayIssue).foldl (fun l h => if l.contains h.core then l else l ++ [h.core]) []

/-- Every hart that may issue posts what it reaches, up to 4 words of a clk (R148). -/
def postHarts (s : State) : State :=
  let s := s.mapHarts fun h => { h with posted := 0 }
  ((s.allHarts.filter Hart.mayIssue).map Hart.id).foldl (fun s w => onHart w postClk s) s

/-- The grants of every core for one clk, with every slot free. -/
def allGrants (s : State) : State :=
  let s := s.mapCores fun c => { c with firstIssue := none, secondIssue := false, vectorIssue := false, checkSent := false }
  s.activeCores.foldl (fun s c =>
    let (g, v) := coreGrants c s
    { s with grants := s.grants ++ g, vgrants := s.vgrants ++ v }) s

/-- Armed timers that CLK has reached set their event flags (R86). -/
def timers (s : State) : State :=
  s.mapHarts fun h =>
    if h.csr.timerArmed && h.csr.evtimer.ule s.clk then
      { h with event := true, csr := { h.csr with timerArmed := false } } else h

/-- The cores that may have island or reef work. -/
def State.workCores (s : State) : List Nat :=
  let l := (putBy Core.num s.core s.cores).map Core.num
  (s.allHarts.filter fun h => !h.mq.isEmpty).foldl (fun l h => if l.contains h.core then l else l ++ [h.core]) l

/-- The progress in one clk of the agents that act on their own: channels, engines, islands, reefs, watch units, and the
links, whose unanswered requests fail. -/
def agentsClk (s : State) : State :=
  let s := breakwaterClk (sreadsClk (enginesClk (channelClk (lazyMerge (linkClk s)))))
  watchClk (s.workCores.foldl (fun s n => onCore n (fun s => reefClk (islandClk s)) s) s)

/-- The progress in one clk of the management queue, a firmware activation and the dispatcher, once firmware runs (R471,
R490, R493, R399). -/
def firmwareClk (s : State) : State :=
  if s.boot == .booted then dispatcherClk (activateStep (mgmtClk s)) else s

/-- ISSUE_CLK (R148, R406, R407): one clk passes; a package stopped by its heat does nothing but count (R497). -/
def execIssueClk (s : State) : Out :=
  let s := { s with clk := s.clk + 1 }
  .next (if s.stopped then s else allGrants (postHarts (firmwareClk (agentsClk (timers s)))))

end Sys2Proof.Machine
end

