-- ==== Sys2Proof/Machine/Dispatch.lean ====
section
/-! DEFINITION. The dispatch: one arm per constructor of the instruction syntax, each one direct call of its meaning. -/

namespace Sys2Proof.Machine

/-- The effect of an instruction, or of a step or arrival, on the machine. -/
def exec (i : Instr) (s : State) : Host.Outcome State Fault Refusal :=
  match i with
  | .add f => Sys2Proof.Machine.execAdd f s
  | .sub f => Sys2Proof.Machine.execSub f s
  | .and f => Sys2Proof.Machine.execAnd f s
  | .or f => Sys2Proof.Machine.execOr f s
  | .xor f => Sys2Proof.Machine.execXor f s
  | .andn f => Sys2Proof.Machine.execAndn f s
  | .sll f => Sys2Proof.Machine.execSll f s
  | .srl f => Sys2Proof.Machine.execSrl f s
  | .sra f => Sys2Proof.Machine.execSra f s
  | .mul f => Sys2Proof.Machine.execMul f s
  | .mulh f => Sys2Proof.Machine.execMulh f s
  | .mulhu f => Sys2Proof.Machine.execMulhu f s
  | .div f => Sys2Proof.Machine.execDiv f s
  | .divu f => Sys2Proof.Machine.execDivu f s
  | .rem f => Sys2Proof.Machine.execRem f s
  | .remu f => Sys2Proof.Machine.execRemu f s
  | .min f => Sys2Proof.Machine.execMin f s
  | .max f => Sys2Proof.Machine.execMax f s
  | .minu f => Sys2Proof.Machine.execMinu f s
  | .maxu f => Sys2Proof.Machine.execMaxu f s
  | .slt f => Sys2Proof.Machine.execSlt f s
  | .sltu f => Sys2Proof.Machine.execSltu f s
  | .clz f => Sys2Proof.Machine.execClz f s
  | .ctz f => Sys2Proof.Machine.execCtz f s
  | .popc f => Sys2Proof.Machine.execPopc f s
  | .sel f => Sys2Proof.Machine.execSel f s
  | .addi f => Sys2Proof.Machine.execAddi f s
  | .andi f => Sys2Proof.Machine.execAndi f s
  | .ori f => Sys2Proof.Machine.execOri f s
  | .xori f => Sys2Proof.Machine.execXori f s
  | .slli f => Sys2Proof.Machine.execSlli f s
  | .srli f => Sys2Proof.Machine.execSrli f s
  | .srai f => Sys2Proof.Machine.execSrai f s
  | .slti f => Sys2Proof.Machine.execSlti f s
  | .sltiu f => Sys2Proof.Machine.execSltiu f s
  | .li f => Sys2Proof.Machine.execLi f s
  | .lih f => Sys2Proof.Machine.execLih f s
  | .lb f o => Sys2Proof.Machine.execLb f o s
  | .lbu f o => Sys2Proof.Machine.execLbu f o s
  | .lh f o => Sys2Proof.Machine.execLh f o s
  | .lhu f o => Sys2Proof.Machine.execLhu f o s
  | .lw f o => Sys2Proof.Machine.execLw f o s
  | .lwu f o => Sys2Proof.Machine.execLwu f o s
  | .ld f o => Sys2Proof.Machine.execLd f o s
  | .sb f o => Sys2Proof.Machine.execSb f o s
  | .sh f o => Sys2Proof.Machine.execSh f o s
  | .sw f o => Sys2Proof.Machine.execSw f o s
  | .sd f o => Sys2Proof.Machine.execSd f o s
  | .wldB f => Sys2Proof.Machine.execWldB f s
  | .wldH f => Sys2Proof.Machine.execWldH f s
  | .wldW f => Sys2Proof.Machine.execWldW f s
  | .wldD f => Sys2Proof.Machine.execWldD f s
  | .amoadd f d aq rl => Sys2Proof.Machine.execAmoadd f d aq rl s
  | .amoand f d aq rl => Sys2Proof.Machine.execAmoand f d aq rl s
  | .amoor f d aq rl => Sys2Proof.Machine.execAmoor f d aq rl s
  | .amoxor f d aq rl => Sys2Proof.Machine.execAmoxor f d aq rl s
  | .amomin f d aq rl => Sys2Proof.Machine.execAmomin f d aq rl s
  | .amomax f d aq rl => Sys2Proof.Machine.execAmomax f d aq rl s
  | .amominu f d aq rl => Sys2Proof.Machine.execAmominu f d aq rl s
  | .amomaxu f d aq rl => Sys2Proof.Machine.execAmomaxu f d aq rl s
  | .amoswap f d aq rl => Sys2Proof.Machine.execAmoswap f d aq rl s
  | .amocas f d aq rl => Sys2Proof.Machine.execAmocas f d aq rl s
  | .beq f => Sys2Proof.Machine.execBeq f s
  | .bne f => Sys2Proof.Machine.execBne f s
  | .blt f => Sys2Proof.Machine.execBlt f s
  | .bge f => Sys2Proof.Machine.execBge f s
  | .bltu f => Sys2Proof.Machine.execBltu f s
  | .bgeu f => Sys2Proof.Machine.execBgeu f s
  | .bmz f => Sys2Proof.Machine.execBmz f s
  | .bmnz f => Sys2Proof.Machine.execBmnz f s
  | .jal f => Sys2Proof.Machine.execJal f s
  | .jalr f => Sys2Proof.Machine.execJalr f s
  | .scall f => Sys2Proof.Machine.execScall f s
  | .eret => Sys2Proof.Machine.execEret s
  | .brk f => Sys2Proof.Machine.execBrk f s
  | .wfe => Sys2Proof.Machine.execWfe s
  | .csrrd f => Sys2Proof.Machine.execCsrrd f s
  | .csrwr f => Sys2Proof.Machine.execCsrwr f s
  | .csrset f => Sys2Proof.Machine.execCsrset f s
  | .csrclr f => Sys2Proof.Machine.execCsrclr f s
  | .fence f => Sys2Proof.Machine.execFence f s
  | .ifence => Sys2Proof.Machine.execIfence s
  | .nop => Sys2Proof.Machine.execNop s
  | .setvl f => Sys2Proof.Machine.execSetvl f s
  | .vtag f => Sys2Proof.Machine.execVtag f s
  | .vretag f => Sys2Proof.Machine.execVretag f s
  | .vtagrd f => Sys2Proof.Machine.execVtagrd f s
  | .fork f => Sys2Proof.Machine.execFork f s
  | .join => Sys2Proof.Machine.execJoin s
  | .pvrd f => Sys2Proof.Machine.execPvrd f s
  | .pvctx f => Sys2Proof.Machine.execPvctx f s
  | .pvclr => Sys2Proof.Machine.execPvclr s
  | .wchk f => Sys2Proof.Machine.execWchk f s
  | .wclr => Sys2Proof.Machine.execWclr s
  | .discard f => Sys2Proof.Machine.execDiscard f s
  | .tpprobe f => Sys2Proof.Machine.execTpprobe f s
  | .bar f => Sys2Proof.Machine.execBar f s
  | .wmpub f => Sys2Proof.Machine.execWmpub f s
  | .wmwait f => Sys2Proof.Machine.execWmwait f s
  | .launch f => Sys2Proof.Machine.execLaunch f s
  | .copy f => Sys2Proof.Machine.execCopy f s
  | .decomp f => Sys2Proof.Machine.execDecomp f s
  | .sread f => Sys2Proof.Machine.execSread f s
  | .gate f => Sys2Proof.Machine.execGate f s
  | .twait f => Sys2Proof.Machine.execTwait f s
  | .tpoll f => Sys2Proof.Machine.execTpoll f s
  | .vsave f => Sys2Proof.Machine.execVsave f s
  | .vrestore f => Sys2Proof.Machine.execVrestore f s
  | .frsave f => Sys2Proof.Machine.execFrsave f s
  | .frload f => Sys2Proof.Machine.execFrload f s
  | .xfreeze f => Sys2Proof.Machine.execXfreeze f s
  | .xthaw f => Sys2Proof.Machine.execXthaw f s
  | .reserve f => Sys2Proof.Machine.execReserve f s
  | .migrate f => Sys2Proof.Machine.execMigrate f s
  | .tlbinv f => Sys2Proof.Machine.execTlbinv f s
  | .gateinst f => Sys2Proof.Machine.execGateinst f s
  | .pgfree f => Sys2Proof.Machine.execPgfree f s
  | .vadd f => Sys2Proof.Machine.execVadd f s
  | .vsub f => Sys2Proof.Machine.execVsub f s
  | .vadc f => Sys2Proof.Machine.execVadc f s
  | .vsbc f => Sys2Proof.Machine.execVsbc f s
  | .vand f => Sys2Proof.Machine.execVand f s
  | .vor f => Sys2Proof.Machine.execVor f s
  | .vxor f => Sys2Proof.Machine.execVxor f s
  | .vandn f => Sys2Proof.Machine.execVandn f s
  | .vsll f => Sys2Proof.Machine.execVsll f s
  | .vsrl f => Sys2Proof.Machine.execVsrl f s
  | .vsra f => Sys2Proof.Machine.execVsra f s
  | .vmin f => Sys2Proof.Machine.execVmin f s
  | .vmax f => Sys2Proof.Machine.execVmax f s
  | .vminu f => Sys2Proof.Machine.execVminu f s
  | .vmaxu f => Sys2Proof.Machine.execVmaxu f s
  | .vabsd f => Sys2Proof.Machine.execVabsd f s
  | .vsadd f => Sys2Proof.Machine.execVsadd f s
  | .vssub f => Sys2Proof.Machine.execVssub f s
  | .vmul f => Sys2Proof.Machine.execVmul f s
  | .vmulh f => Sys2Proof.Machine.execVmulh f s
  | .vmulhu f => Sys2Proof.Machine.execVmulhu f s
  | .vmac f => Sys2Proof.Machine.execVmac f s
  | .vdot16 f => Sys2Proof.Machine.execVdot16 f s
  | .vwmul f => Sys2Proof.Machine.execVwmul f s
  | .vcmp f => Sys2Proof.Machine.execVcmp f s
  | .vsel f => Sys2Proof.Machine.execVsel f s
  | .vmv f => Sys2Proof.Machine.execVmv f s
  | .vsplat f => Sys2Proof.Machine.execVsplat f s
  | .vext f => Sys2Proof.Machine.execVext f s
  | .vins f => Sys2Proof.Machine.execVins f s
  | .mand f => Sys2Proof.Machine.execMand f s
  | .mor f => Sys2Proof.Machine.execMor f s
  | .mxor f => Sys2Proof.Machine.execMxor f s
  | .mandn f => Sys2Proof.Machine.execMandn f s
  | .mnot f => Sys2Proof.Machine.execMnot f s
  | .mshl f => Sys2Proof.Machine.execMshl f s
  | .mshr f => Sys2Proof.Machine.execMshr f s
  | .mset f => Sys2Proof.Machine.execMset f s
  | .mpopc f => Sys2Proof.Machine.execMpopc f s
  | .mfirst f => Sys2Proof.Machine.execMfirst f s
  | .mlast f => Sys2Proof.Machine.execMlast f s
  | .mbit f => Sys2Proof.Machine.execMbit f s
  | .vfadd f => Sys2Proof.Machine.execVfadd f s
  | .vfsub f => Sys2Proof.Machine.execVfsub f s
  | .vfmul f => Sys2Proof.Machine.execVfmul f s
  | .vfma f => Sys2Proof.Machine.execVfma f s
  | .vfms f => Sys2Proof.Machine.execVfms f s
  | .vfnma f => Sys2Proof.Machine.execVfnma f s
  | .vfnms f => Sys2Proof.Machine.execVfnms f s
  | .vfdiv f => Sys2Proof.Machine.execVfdiv f s
  | .vfsqrt f => Sys2Proof.Machine.execVfsqrt f s
  | .vfmin f => Sys2Proof.Machine.execVfmin f s
  | .vfmax f => Sys2Proof.Machine.execVfmax f s
  | .vfcmp f => Sys2Proof.Machine.execVfcmp f s
  | .vfclass f => Sys2Proof.Machine.execVfclass f s
  | .vfabs f => Sys2Proof.Machine.execVfabs f s
  | .vfneg f => Sys2Proof.Machine.execVfneg f s
  | .vfrcp f => Sys2Proof.Machine.execVfrcp f s
  | .vfrsq f => Sys2Proof.Machine.execVfrsq f s
  | .vfexp2 f => Sys2Proof.Machine.execVfexp2 f s
  | .vflog2 f => Sys2Proof.Machine.execVflog2 f s
  | .vcvt f => Sys2Proof.Machine.execVcvt f s
  | .vwiden f => Sys2Proof.Machine.execVwiden f s
  | .vnarrow f => Sys2Proof.Machine.execVnarrow f s
  | .vscale f => Sys2Proof.Machine.execVscale f s
  | .vquant f => Sys2Proof.Machine.execVquant f s
  | .vred f => Sys2Proof.Machine.execVred f s
  | .vfred f => Sys2Proof.Machine.execVfred f s
  | .vscan f => Sys2Proof.Machine.execVscan f s
  | .vfscan f => Sys2Proof.Machine.execVfscan f s
  | .vsegpack f => Sys2Proof.Machine.execVsegpack f s
  | .vperm f => Sys2Proof.Machine.execVperm f s
  | .vslideup f => Sys2Proof.Machine.execVslideup f s
  | .vslidedn f => Sys2Proof.Machine.execVslidedn f s
  | .vzip f => Sys2Proof.Machine.execVzip f s
  | .vunzip f => Sys2Proof.Machine.execVunzip f s
  | .vcompress f => Sys2Proof.Machine.execVcompress f s
  | .vbcast f => Sys2Proof.Machine.execVbcast f s
  | .vunpk f => Sys2Proof.Machine.execVunpk f s
  | .vpackpx f => Sys2Proof.Machine.execVpackpx f s
  | .vld f => Sys2Proof.Machine.execVld f s
  | .vlds f => Sys2Proof.Machine.execVlds f s
  | .vldx f => Sys2Proof.Machine.execVldx f s
  | .vldxo f => Sys2Proof.Machine.execVldxo f s
  | .vwld f => Sys2Proof.Machine.execVwld f s
  | .vwlds f => Sys2Proof.Machine.execVwlds f s
  | .vst f => Sys2Proof.Machine.execVst f s
  | .vsts f => Sys2Proof.Machine.execVsts f s
  | .vstx f => Sys2Proof.Machine.execVstx f s
  | .vstxo f => Sys2Proof.Machine.execVstxo f s
  | .vamoadd f => Sys2Proof.Machine.execVamoadd f s
  | .vamoand f => Sys2Proof.Machine.execVamoand f s
  | .vamoor f => Sys2Proof.Machine.execVamoor f s
  | .vamoxor f => Sys2Proof.Machine.execVamoxor f s
  | .vamomin f => Sys2Proof.Machine.execVamomin f s
  | .vamomax f => Sys2Proof.Machine.execVamomax f s
  | .vamominu f => Sys2Proof.Machine.execVamominu f s
  | .vamomaxu f => Sys2Proof.Machine.execVamomaxu f s
  | .vamoswap f => Sys2Proof.Machine.execVamoswap f s
  | .vamooadd f => Sys2Proof.Machine.execVamooadd f s
  | .vamooand f => Sys2Proof.Machine.execVamooand f s
  | .vamooor f => Sys2Proof.Machine.execVamooor f s
  | .vamooxor f => Sys2Proof.Machine.execVamooxor f s
  | .vamoomin f => Sys2Proof.Machine.execVamoomin f s
  | .vamoomax f => Sys2Proof.Machine.execVamoomax f s
  | .vamoominu f => Sys2Proof.Machine.execVamoominu f s
  | .vamoomaxu f => Sys2Proof.Machine.execVamoomaxu f s
  | .vamooswap f => Sys2Proof.Machine.execVamooswap f s
  | .kld f => Sys2Proof.Machine.execKld f s
  | .kst f => Sys2Proof.Machine.execKst f s
  | .xop f => Sys2Proof.Machine.execXop f s
  | .bind f => Sys2Proof.Machine.execBind f s
  | .unbind f => Sys2Proof.Machine.execUnbind f s
  | .xstat f => Sys2Proof.Machine.execXstat f s
  | .chopen f => Sys2Proof.Machine.execChopen f s
  | .chclose f => Sys2Proof.Machine.execChclose f s
  | .chsend f => Sys2Proof.Machine.execChsend f s
  | .chrecv f => Sys2Proof.Machine.execChrecv f s
  | .chwait f => Sys2Proof.Machine.execChwait f s
  | .chstat f => Sys2Proof.Machine.execChstat f s
  | .mma f => Sys2Proof.Machine.execMma f s
  | .mman f => Sys2Proof.Machine.execMman f s
  | .mmab f => Sys2Proof.Machine.execMmab f s
  | .macinit f => Sys2Proof.Machine.execMacinit f s
  | .mdrain f => Sys2Proof.Machine.execMdrain f s
  | .mzero f => Sys2Proof.Machine.execMzero f s
  | .mstat f => Sys2Proof.Machine.execMstat f s
  | .mclaim f => Sys2Proof.Machine.execMclaim f s
  | .mrels f => Sys2Proof.Machine.execMrels f s
  | .mload f => Sys2Proof.Machine.execMload f s
  | .mfill f => Sys2Proof.Machine.execMfill f s
  | .mhdr f => Sys2Proof.Machine.execMhdr f s
  | .illegalWord w => Sys2Proof.Machine.execIllegalWord w s
  | .hartExit => Sys2Proof.Machine.execHartExit s
  | .evaddrWrite v p => Sys2Proof.Machine.execEvaddrWrite v p s
  | .evtimerWrite v p => Sys2Proof.Machine.execEvtimerWrite v p s
  | .pvctxCsrWrite v => Sys2Proof.Machine.execPvctxCsrWrite v s
  | .hfmaskWrite v p => Sys2Proof.Machine.execHfmaskWrite v p s
  | .htvecWrite v p => Sys2Proof.Machine.execHtvecWrite v p s
  | .partidWrite v p => Sys2Proof.Machine.execPartidWrite v p s
  | .trapstatusWrite hyp v p => Sys2Proof.Machine.execTrapstatusWrite hyp v p s
  | .registerWrite r v p => Sys2Proof.Machine.execRegisterWrite r v p s
  | .timerEvent who => Sys2Proof.Machine.execTimerEvent who s
  | .evaddrLineWrite who => Sys2Proof.Machine.execEvaddrLineWrite who s
  | .levelChange core code => Sys2Proof.Machine.execLevelChange core code s
  | .vectorPost who => Sys2Proof.Machine.execVectorPost who s
  | .issueClk => Sys2Proof.Machine.execIssueClk s
  | .elementGroupProcess who => Sys2Proof.Machine.execElementGroupProcess who s
  | .elementGroupEmit who => Sys2Proof.Machine.execElementGroupEmit who s
  | .loadGroupReturn who => Sys2Proof.Machine.execLoadGroupReturn who s
  | .storeGroupPerform who => Sys2Proof.Machine.execStoreGroupPerform who s
  | .deferredTranslationGroup who => Sys2Proof.Machine.execDeferredTranslationGroup who s
  | .deferredVectorTrap who => Sys2Proof.Machine.execDeferredVectorTrap who s
  | .pageTableWalk who va acc => Sys2Proof.Machine.execPageTableWalk who va acc s
  | .lineFill core pa => Sys2Proof.Machine.execLineFill core pa s
  | .ownershipGrant core pa => Sys2Proof.Machine.execOwnershipGrant core pa s
  | .acquireMerge core scope => Sys2Proof.Machine.execAcquireMerge core scope s
  | .lazyMergeTimeout pa => Sys2Proof.Machine.execLazyMergeTimeout pa s
  | .unscrubClearDone frame => Sys2Proof.Machine.execUnscrubClearDone frame s
  | .watermarkWake who => Sys2Proof.Machine.execWatermarkWake who s
  | .watchCheckSend who entry => Sys2Proof.Machine.execWatchCheckSend who entry s
  | .watchCheckDecide check => Sys2Proof.Machine.execWatchCheckDecide check s
  | .watchReplyRecord check => Sys2Proof.Machine.execWatchReplyRecord check s
  | .watchTimeoutStrike who entry => Sys2Proof.Machine.execWatchTimeoutStrike who entry s
  | .reefQueueHead core => Sys2Proof.Machine.execReefQueueHead core s
  | .imagePlacement core slot => Sys2Proof.Machine.execImagePlacement core slot s
  | .nodeFiring core node => Sys2Proof.Machine.execNodeFiring core node s
  | .mNodeLoadReturn core node => Sys2Proof.Machine.execMNodeLoadReturn core node s
  | .portTokenMove core port => Sys2Proof.Machine.execPortTokenMove core port s
  | .reefStallTimeout core => Sys2Proof.Machine.execReefStallTimeout core s
  | .opcodeComplete core => Sys2Proof.Machine.execOpcodeComplete core s
  | .islandOrderAdmit core => Sys2Proof.Machine.execIslandOrderAdmit core s
  | .matrixStepBegin core => Sys2Proof.Machine.execMatrixStepBegin core s
  | .stepResult core => Sys2Proof.Machine.execStepResult core s
  | .accumulatorDrain core => Sys2Proof.Machine.execAccumulatorDrain core s
  | .drainWritesPerformed core acc => Sys2Proof.Machine.execDrainWritesPerformed core acc s
  | .fillDataWrite core => Sys2Proof.Machine.execFillDataWrite core s
  | .slotPublish chan => Sys2Proof.Machine.execSlotPublish chan s
  | .channelCounterArrive chan branch => Sys2Proof.Machine.execChannelCounterArrive chan branch s
  | .elasticMoveStart chan branch => Sys2Proof.Machine.execElasticMoveStart chan branch s
  | .elasticMoveDone chan branch => Sys2Proof.Machine.execElasticMoveDone chan branch s
  | .engineComplete who tag => Sys2Proof.Machine.execEngineComplete who tag s
  | .nvmeCompletion who tag ok data => Sys2Proof.Machine.execNvmeCompletion who tag ok data s
  | .sreadQueueSlot part controller => Sys2Proof.Machine.execSreadQueueSlot part controller s
  | .breakwaterRequest who tag => Sys2Proof.Machine.execBreakwaterRequest who tag s
  | .breakwaterDeliveryDone who tag delivered => Sys2Proof.Machine.execBreakwaterDeliveryDone who tag delivered s
  | .epochTick => Sys2Proof.Machine.execEpochTick s
  | .queueTailObserve queue => Sys2Proof.Machine.execQueueTailObserve queue s
  | .recordTake queue => Sys2Proof.Machine.execRecordTake queue s
  | .dependenceWatermarkMet queue => Sys2Proof.Machine.execDependenceWatermarkMet queue s
  | .dispatchDecision part => Sys2Proof.Machine.execDispatchDecision part s
  | .levelPromotion queue => Sys2Proof.Machine.execLevelPromotion queue s
  | .hartStart who => Sys2Proof.Machine.execHartStart who s
  | .taskEnd task => Sys2Proof.Machine.execTaskEnd task s
  | .completionSignalWrite task => Sys2Proof.Machine.execCompletionSignalWrite task s
  | .preemptHartStop who => Sys2Proof.Machine.execPreemptHartStop who s
  | .hartContextSave who => Sys2Proof.Machine.execHartContextSave who s
  | .markFillPublish chan => Sys2Proof.Machine.execMarkFillPublish chan s
  | .markTake chan branch => Sys2Proof.Machine.execMarkTake chan branch s
  | .markWaitTimeout who => Sys2Proof.Machine.execMarkWaitTimeout who s
  | .preemptionComplete task => Sys2Proof.Machine.execPreemptionComplete task s
  | .tidepoolSpillTrap frame => Sys2Proof.Machine.execTidepoolSpillTrap frame s
  | .tidepoolBacking frame => Sys2Proof.Machine.execTidepoolBacking frame s
  | .hostCxlMemRequest pa op => Sys2Proof.Machine.execHostCxlMemRequest pa op s
  | .priPageRequest who off => Sys2Proof.Machine.execPriPageRequest who off s
  | .priResponse who ok => Sys2Proof.Machine.execPriResponse who ok s
  | .atomicopCompletion who ok old => Sys2Proof.Machine.execAtomicopCompletion who ok old s
  | .functionLevelReset vf => Sys2Proof.Machine.execFunctionLevelReset vf s
  | .flitReceive port intact packets => Sys2Proof.Machine.execFlitReceive port intact packets s
  | .peerOperationPacket p => Sys2Proof.Machine.execPeerOperationPacket p s
  | .peerResponse who status cur old => Sys2Proof.Machine.execPeerResponse who status cur old s
  | .peerResponseTimeout who => Sys2Proof.Machine.execPeerResponseTimeout who s
  | .packageUnreachable pkg => Sys2Proof.Machine.execPackageUnreachable pkg s
  | .roceIncomingData qp pa bytes => Sys2Proof.Machine.execRoceIncomingData qp pa bytes s
  | .roceReadRequest qp pa len => Sys2Proof.Machine.execRoceReadRequest qp pa len s
  | .hostWorkRequest qp pa len => Sys2Proof.Machine.execHostWorkRequest qp pa len s
  | .errorRetry site retryOk => Sys2Proof.Machine.execErrorRetry site retryOk s
  | .uncorrectableReread pa again => Sys2Proof.Machine.execUncorrectableReread pa again s
  | .lastingFaultRepair u => Sys2Proof.Machine.execLastingFaultRepair u s
  | .coreSwap core => Sys2Proof.Machine.execCoreSwap core s
  | .thermalLimit die => Sys2Proof.Machine.execThermalLimit die s
  | .thermalStop die => Sys2Proof.Machine.execThermalStop die s
  | .neapExit => Sys2Proof.Machine.execNeapExit s
  | .boot images => Sys2Proof.Machine.execBoot images s
  | .mqtailWrite v => Sys2Proof.Machine.execMqtailWrite v s
  | .pcreate e => Sys2Proof.Machine.execPcreate e s
  | .preset e => Sys2Proof.Machine.execPreset e s
  | .pdestroy e => Sys2Proof.Machine.execPdestroy e s
  | .ways e => Sys2Proof.Machine.execWays e s
  | .bwshare e => Sys2Proof.Machine.execBwshare e s
  | .mem e => Sys2Proof.Machine.execMem e s
  | .qtable e => Sys2Proof.Machine.execQtable e s
  | .ctxpool e => Sys2Proof.Machine.execCtxpool e s
  | .spillpool e => Sys2Proof.Machine.execSpillpool e s
  | .roster e => Sys2Proof.Machine.execRoster e s
  | .prov e => Sys2Proof.Machine.execProv e s
  | .nsbind e => Sys2Proof.Machine.execNsbind e s
  | .qpbind e => Sys2Proof.Machine.execQpbind e s
  | .fmask e => Sys2Proof.Machine.execFmask e s
  | .hvec e => Sys2Proof.Machine.execHvec e s
  | .elog e => Sys2Proof.Machine.execElog e s
  | .attest e => Sys2Proof.Machine.execAttest e s
  | .fwupdate e => Sys2Proof.Machine.execFwupdate e s
  | .fwupdateActivate => Sys2Proof.Machine.execFwupdateActivate s
  | .power e => Sys2Proof.Machine.execPower e s
  | .springStateChange up => Sys2Proof.Machine.execSpringStateChange up s
  | .domainAssembly pkg ports report => Sys2Proof.Machine.execDomainAssembly pkg ports report s

end Sys2Proof.Machine
end

