-- ==== Sys2Proof/Machine/Sequencer.lean ====
section
/-! DEFINITION. The sequencer: how a hart's vector queue runs its items, which word a granted hart issues (R52, R53, R113, R148,
R158-R160, R406, R416), and the order of arrivals, grants and clocks. -/

namespace Sys2Proof.Machine

/-! ### The members of an item -/

/-- How the members of an item ended: all completed, one trapped, one waits, or the model stops; with the number that completed. -/
inductive Ended where
  | done (s : State)
  | trap (t : TrapRec) (ran : Nat) (s : State)
  | wait (w : Wait) (ran : Nat) (s : State)
  | stop (o : Out)

/-- Runs members in order, `ran` of them before the first of the list. -/
def runMembers : List (Word × Instr) → Nat → State → Ended
  | [], _, s => .done s
  | (_, i) :: l, ran, s =>
    match exec i (s.mapHart fun h => { h with lastTrap := none, status := .running }) with
    | .next t =>
      match t.hart.lastTrap, t.hart.status with
      | some e, _ => .trap e ran t
      | none, .waiting q => .wait q ran t
      | none, _ => runMembers l (ran + 1) t
    | o => .stop o

/-- A check that is made as soon as its member issues: the tag trap and the overlap trap (R160). -/
def atIssue (t : TrapRec) : Bool := t.cause == 10 || t.cause == 11

/-- The ceiling and the egress checks of a store ask for its data set (R128). -/
def asksData (t : TrapRec) : Bool := t.cause == 9 || t.cause == 22

/-- The registers that give a memory member its addresses: its index register and its governing mask (R207, R208). -/
def addressRegs (i : Instr) (s : State) : List Nat :=
  match i.code with
  | some (major, fn, .vm f) =>
    (if major == 0x1C || ((fn == 3 || fn == 4) && major != 0x1D) then s.ownGroup f.sb else []) ++ (if major == 0x1D then [] else govIds f.gm)
  | _ => []

/-- A check of a member is made after issue: one of its addresses, where earlier members write the registers that give them, or of its
data set, where they write the data (R160, R325). -/
def madeLate (i : Instr) (t : TrapRec) (written : List Nat) (s : State) : Bool :=
  (addressRegs i s).any (fun r => written.contains r) || (asksData t && (regsOf i s).1.any fun r => written.contains r)

/-- The check of a convoy before any member has an effect (R160): its members are tried in order on a state that is not kept. Tag and
overlap come before the conflict of the same member, then its addresses; a member whose addresses an earlier one writes is judged last.
The answer is the trap or the wait that the convoy meets, or the translations that its members have found. -/
def checkConvoy : List (Word × Instr) → List Use → List Nat → Option TrapRec → State → Except (Sum TrapRec Wait) (List TlbEntry)
  | [], _, _, late, s => match late with | some t => .error (.inl t) | none => .ok ((s.hart.cur.map Item.pins).getD [])
  | (w, i) :: l, earlier, written, late, s =>
    match exec i (s.mapHart fun h => { h with lastTrap := none, status := .running }) with
    | .next t =>
      let u := Use.of i s
      let bad := (u.bind fun u => conflict earlier u).map fun r => (⟨12, w, r, 0⟩ : TrapRec)
      let e := t.hart.lastTrap
      match e.filter atIssue, bad, e with
      | some e, _, _ => .error (.inl e)
      | none, some e, _ => .error (.inl e)
      | none, none, some e =>
        if madeLate i e written s then
          checkConvoy l (earlier ++ u.toList) (written ++ (regsOf i s).2) (late.or (some e)) t
        else .error (.inl e)
      | none, none, none =>
        match t.hart.status with
        | .waiting q => .error (.inr q)
        | _ => checkConvoy l (earlier ++ u.toList) (written ++ (regsOf i s).2) late t
    | _ => .ok []

/-! ### Running an item -/

/-- The current hart with an item in hand, which the queue no longer lists: the operands in force when it was posted (R72, R416). -/
def enterItem (it : Item) (s : State) : State :=
  s.mapHart fun h => { h with cur := some it, s := it.s, sp := it.sp, ctx := it.ctx, prog := it.prog, send := it.send,
                              status := .running, lastTrap := none }

/-- A matrix word posted after number `n` gains a context set (R292). -/
def MqItem.gain (n : Nat) (p : PvSet) (x : MqItem) : MqItem := if n < x.seq then { x with ctx := x.ctx ||| p } else x

/-- The hart of the scalar unit again, after an item has run or waits: what the item wrote of the scalar registers that no later
instruction has written (R113), and its context set, which later items and matrix words carry too (R292). -/
def leaveItem (it : Item) (dests : List (BitVec 5)) (live : Hart) (s : State) : State :=
  let who := s.hart.id
  let p := s.hart.ctx
  let s := s.mapIsl (·.mapWords fun x => if x.who == who then x.gain it.seq p else x)
  s.mapHart fun h =>
    let back : Hart := { h with cur := none, s := live.s, sp := live.sp, ctx := live.ctx ||| h.ctx, prog := live.prog,
                                send := live.send, status := live.status, fetchTaken := live.fetchTaken, lastTrap := none,
                                queue := h.queue.map fun x => if it.seq < x.seq then { x with ctx := x.ctx ||| h.ctx } else x,
                                mq := h.mq.map (·.gain it.seq h.ctx) }
    dests.foldl (fun (b : Hart) r => if it.dead.contains r.toNat then b else b.setS r (h.getS r) (h.getP r)) back

/-- An item that has not completed, with how far it has come. -/
def Item.kept (it : Item) (q : Wait) (ran : Nat) (undo : Option Undo) (h : Hart) : Item :=
  { it with s := h.s, sp := h.sp, ctx := h.ctx, prog := h.prog, send := h.send, wait := some q, ran := ran, undo := undo }

/-- What a convoy that does not finish puts back (R160). -/
def Hart.undo (h : Hart) (it : Item) : Undo := ⟨it.s, it.sp, h.vec, h.csr, h.watch.length⟩

/-- The item waits in its place of the queue. -/
def keepItem (it : Item) (s : State) : State := s.mapHart fun h => { h with queue := insertItem it h.queue }

/-- A trap of an item (R160, R416, R417): a convoy leaves nothing of its members; an instruction on its own what its trap leaves. The
reef's reason 9 drops its item (R245). -/
def trapItem (t : TrapRec) (it : Item) (one : Bool) (live : Hart) (u : State) : State :=
  let it := { it with prog := if one then u.hart.prog else it.prog, send := if one then u.hart.send else it.send }
  let s := leaveItem it [] live (if one then u else u.mapHart fun h => { h with ctx := live.ctx })
  let s := if one then s else s.mapHart it.rollBack
  if t.cause == 15 && t.detail == 9 then vtrapGone t it.at_ s.hart.pc s else vtrapItem t it s.hart.pc s

/-- Runs an item of the current hart's queue that nothing before it holds. -/
def runItem (it : Item) (s : State) : Out :=
  let live := s.hart
  let ms := itemMembers it.words
  let popped := s.mapHart fun h => { h with queue := h.queue.filter fun x => x.seq != it.seq }
  let is := ms.map Prod.snd
  let fresh := it.ran == 0 && it.undo.isNone
  let wait (q : Wait) : Out := .next (keepItem { it with wait := some q } popped)
  if fresh && drainHolds is it.seq (popped.asItem it) then wait .hazard
  else
    let one := decide (ms.length = 1)
    match (if fresh && !one then checkConvoy ms [] [] none (enterItem { it with dry := true } popped) else .ok it.pins) with
    | .error (.inl t) => .next (trapItem t it false live popped)
    | .error (.inr q) => wait q
    | .ok pins =>
      let it := { it with pins := pins }
      let start := enterItem it popped
      let undo := if one then none else some (it.undo.getD (live.undo it))
      match runMembers (ms.drop it.ran) it.ran start with
      | .done u => .next (leaveItem it (is.flatMap queueDest) live u)
      | .trap t ran u => .next (trapItem t { it with undo := undo, ran := ran } one live u)
      | .wait q ran u => .next (keepItem (it.kept q ran undo u.hart) (leaveItem it [] live u))
      | .stop o => o

/-! ### The vector queue (R146, R148, R150, R259) -/

/-- CHSEND that waits with its tokens in hand (R259): later items that do not use its pipe, its registers or memory may pass it. -/
def Item.sending (it : Item) : Bool := it.send.isSome && it.wait.isSome

/-- The bytes of a load lie in no ring. -/
def loadClear (i : Instr) (s : State) : Bool :=
  let clear (f : VMFmt) (sh : Shape) : Bool :=
    (sh.runs (activeOf (s.govern f.gm).1 s.vl)).all fun r => s.clearOfRings r.at_ .read
  match i with
  | .vld f => clear f (s.unitShape f)
  | .vlds f => clear f (s.strideShape f)
  | .vldx f | .vldxo f => clear f (s.indexShape f)
  | _ => false

/-- An instruction may pass CHSENDs that wait, whose registers are `busy` (R146, R150). -/
def passes (i : Instr) (busy : List Nat) (s : State) : Bool :=
  let (_, w) := regsOf i s
  !(w.any fun r => busy.contains r) && !retags i &&
    (match i with
     | .chrecv _ => true
     | i => isSilent i s || loadClear i s)

/-- The items of the queue that may run now, in order: the first, and those that may pass the waiting CHSENDs before them. -/
def State.runnable (s : State) : List Item → List Nat → List Item
  | [], _ => []
  | it :: l, busy =>
    if busy.isEmpty || it.instrs.all (fun i => passes i busy (s.asItem it)) then
      it :: (if it.sending then s.runnable l (busy ++ it.instrs.flatMap fun i => (regsOf i (s.asItem it)).1) else [])
    else []

/-- An item has left the queue, or the hart has taken a trap. -/
def State.ranItem (s : State) (n : Nat) : Bool := s.hart.heldBy.isSome || !s.hart.queue.any fun x => x.seq == n

/-- The vector-class slot is taken where a vector-class item has issued that had not (R148). -/
def noteItem (it : Item) (t : State) : State :=
  if it.instrs.any vectorClass && !it.issued && !t.hart.queue.any (fun x => x.seq == it.seq && !x.issued) then takeVector t else t

/-- Runs items in order until one leaves the queue; one that has not issued needs its slot (R148). -/
def tryItems : List Nat → State → Out
  | [], s => .next s
  | n :: l, s =>
    match (s.runnable s.items []).find? fun it => it.seq == n with
    | none => .next s
    | some it =>
      if !s.mayStart it then .next s
      else
        match runItem it s with
        | .next t => if t.ranItem n then .next (noteItem it t) else tryItems l (noteItem it t)
        | o => o

/-- One issue of the current hart's vector queue (R148, R406). While the scalar unit has a request outside the package, which it has
not committed, no item issues (R416; log entry 58); where a trap waits for the hart's next instruction, only an item that has sent a
request goes on. -/
def runQueue (s : State) : Out :=
  if s.hart.vreq.isNone && (!s.hart.deferred.isEmpty || s.hart.remote.isSome) then .next s
  else tryItems ((s.items.filter fun it => s.hart.deferred.isEmpty || it.wait == some .remote).map Item.seq) s

/-! ### The word at the pc -/

/-- A queued form that the scalar unit has issued at once and that waits becomes an item of the queue, and the scalar unit goes on
(R113, R148); one that waits for the watch table, or for work posted before it, stays at the pc. -/
def queueWaiting (w : Word) (t u : State) : State :=
  match u.hart.status with
  | .waiting q =>
    if q == .watch || q == .drain || q == .fetch then u
    else
      let it := { t.hart.mkItem [w] with prog := u.hart.prog, send := u.hart.send, wait := some q, seq := u.jobSeq }
      { u with jobSeq := u.jobSeq + 1,
               hart := { u.hart with queue := [it], prog := 0, send := none, pc := u.hart.pc + 8, fetchTaken := false, status := .running } }
  | _ => u

/-- A word of the scalar unit has run past queued items: what it wrote of the scalar registers stands (R113). -/
def pastItems (i : Instr) (u : State) : State :=
  match u.hart.status with
  | .running => killDest (scalarDest i) u
  | _ => u

/-- What follows an instruction that was issued at the pc: `t` is the state before it. -/
def afterExec (w : Word) (i : Instr) (t : State) : Out → Out
  | .next u => .next (if isQueued i t then queueWaiting w t u else pastItems i u)
  | o => o

/-- A hart's posted item runs at once. -/
def postAndRun (l : List Word) (s : State) : Out := runQueue (postItem l s)

/-- The word at the pc is issued, executed or trapped where it stands (R27, R50-R53, R160). A word with CV=1 that stands first
in a handler, or first in a hart just started, is illegal whatever word lies before it in memory (log entry 65). -/
def runWord (s : State) : Out :=
  if s.hart.pc.toNat % 8 != 0 then exec (.illegalWord 0) s
  else
    match fetchAt s.hart.pc s with
    | (.trap t, _) => .next (decodeTrap t s)
    | (.wait _, _) => .next (waitFor .fetch s)
    | (.ok _ t, w) =>
      match decode w with
      | .error _ => exec (.illegalWord w) t
      | .ok i =>
        if convoyBit w then exec (.illegalWord w) t
        else if inConvoyFormat i && (gate i t).isNone then
          match convoyTail allWords (s.hart.pc + 8) t with
          | .trap e => .next (decodeTrap e s)
          | .wait _ => .next (waitFor .fetch s)
          | .words l u =>
            match convoyGate u (w :: l) with
            | .error e => .next (decodeTrap e u)
            | .ok _ => afterExec w i t (exec i t)
        else afterExec w i t (exec i t)

/-- The words at the pc enter the queue, a release behind the watch table (R104, R148). -/
def postBehind (l : List Word) (is : List Instr) (t s : State) : Out :=
  .next (watchGateIf (is.any fun i => isReleasing i s) (fun _ => (postItem l t).mapHart fun h => { h with status := .running }) s)

/-- The words at the pc are posted (R148): an instruction on its own that may issue at once does so; otherwise the words enter the queue,
and a convoy that may issue at once runs. -/
def issuePosted (l : List Word) (is : List Instr) (t s : State) : Out :=
  if !s.mayPost l.length then .next s
  else if !is.all s.startsAtOnce then postBehind l is t s
  else
    match l, is with
    | [w], [i] => if drainHolds [i] t.jobSeq t then .next (waitFor .hazard s) else afterExec w i t (exec i t)
    | _, _ => if is.any fun i => isReleasing i s then postBehind l is t s else postAndRun l t

/-- One issue of the current hart: a trap that waits for its next instruction (R298, R334, R379), after an instruction that has sent a
request outside the package, or the word at its pc (R27). -/
def runHart (s : State) : Out :=
  if !s.hart.deferred.isEmpty then (if s.hart.remote.isSome && s.hart.vreq.isNone then runWord s else .next (takeDeferred s))
  else
    match nextWord s with
    | .hold q => .next (waitFor q s)
    | .pc => runWord s
    | .post l is t => issuePosted l is t s

/-- A hart issues an instruction where a slot is left for it, and takes it (R406). -/
def runSlot (i : Instr) (s : State) : Out :=
  if !s.hasSlot i then .next s
  else
    match runHart s with
    | .next t => .next (if hasIssued s.hart t.hart then takeSlot i s t else t)
    | o => o

/-- A granted hart issues what the scalar unit issues or posts; FORK, JOIN and a change of the level have their turn with the vector-class
items (R148, R406). -/
def runGranted (s : State) : Out :=
  if !s.hart.deferred.isEmpty then runHart s
  else if slotOf s.nextInstr s == .vector then .next s else runSlot s.nextInstr s

/-- FORK and JOIN do not issue while another hart's change of the level waits (R90, R148). -/
def State.levelStops (s : State) (i : Instr) : Bool :=
  (match i with | .setvl _ => false | _ => true) && !(s.levelWaits (some s.hart.ix)).isEmpty

/-- A hart's turn at the vector-class slot (R148, R406): an item of its queue or, with nothing queued, a FORK, a JOIN or a change of the
level. -/
def runVector (s : State) : Out :=
  if !s.items.isEmpty then runQueue s
  else if !s.hart.deferred.isEmpty then .next s
  else if slotOf s.nextInstr s != .vector || s.levelStops s.nextInstr then .next s
  else runSlot s.nextInstr s

/-- The next step of the machine: an arrival, else the issue of a granted hart, else a hart's turn at the vector-class slot, else one clk. -/
def advance (s : State) : Out :=
  match s.pending with
  | e :: l => exec e { s with pending := l }
  | [] =>
    match s.grants with
    | g :: l =>
      let s := focus g { s with grants := l }
      if s.hart.mayIssue then runGranted s else .next s
    | [] =>
      match s.vgrants with
      | g :: l =>
        let s := focus g { s with vgrants := l }
        if s.hart.mayIssue then runVector s else .next s
      | [] => exec .issueClk s

/-- A word's turn comes with the vector-class items. -/
def vectorTurn (w : Word) (s : State) : Bool :=
  match decode w with
  | .ok i => slotOf i s == .vector
  | .error _ => false

/-- The state with an instruction word where the next step fetches: nothing pending, the current hart granted, running,
with no queued item or deferred trap and no word posted in this clk, its pc aligned and its page mapped for execution in its own address space, and the
word's eight bytes stored there, with no older copy of them in the instruction cache (log entry 2). -/
def placeWord (w : Word) (s : State) : State :=
  let s := focusCore s.hart.core s
  let h := { s.hart with status := .running, queue := [], heldBy := none, deferred := [], cur := none,
                         posted := 0, pc := s.hart.pc &&& ~~~7#64 }
  let h := if canonical h.pc then h else { h with pc := 0 }
  let core := { s.core with firstIssue := none, secondIssue := false, vectorIssue := false, failing := false }
  let late := vectorTurn w s
  let s := { s with hart := h, core := core, pending := [], grants := if late then [] else [h.id],
                    vgrants := if late then [h.id] else [], stopped := false, boot := .booted }
  let at_ (pa : Nat) (s : State) : State :=
    { s with mem := memWriteList pa (toLeBytes 8 w.toNat) s.mem, core := { s.core with icache := [] } }
  match access h.pc 8 .exec 1 true s with
  | .ok pa t => at_ pa t
  | _ =>
    let va := vaNum h.pc / 65536 * 65536
    let e : TlbEntry := ⟨asidOf h.csr.ptroot, va, s.pkg * 2 ^ 43, 16, if h.mode == .user then 0x5B else 0x4B, .instr⟩
    let s := s.mapCore fun c => { c with tlb := e :: c.tlb.filter fun x => !x.serves e.asid va }
    let pa := e.addr (vaNum h.pc)
    at_ pa { s with retired := s.retired.filter (· != pa / 65536), poison := s.poison.filter (· != pa / 32),
                    unreachable_ := s.unreachable_.filter (· != s.pkg) }

end Sys2Proof.Machine
end

