-- ==== Sys2Proof/Safety.lean ====
section
/-! DEFINITION. The terms in which the statements speak: how an instruction completes, what it leaves alone, what a trap's
entry is, and the invariant of memory. Each is written over what can be read of a state: a register, a byte, an element. -/

namespace Sys2Proof.Safety

open Sys2Proof.Machine

/-- The instruction, or the machine's own step, answers a next state with the property. -/
def Completes (i : Instr) (s : State) (p : State → Prop) : Prop := ∃ t, exec i s = .next t ∧ p t

/-- Memory is in its one canonical form. -/
def MemoryCanonical (s : State) : Prop := memWf s.mem = true

/-- Whatever next state it answers, memory keeps its canonical form. -/
def KeepsMemory (i : Instr) : Prop := ∀ s t, MemoryCanonical s → exec i s = .next t → MemoryCanonical t

/-! ### Completion of scalar instructions -/

/-- Where the pc stands after the instruction in hand: 8 further, but for an item of the vector queue, which the pc has
passed already. -/
def nextPc (s : State) : Word := if s.hart.cur.isSome then s.hart.pc else s.hart.pc + 8

/-- The hart `h`, otherwise as in `s`, past an instruction that completed: pc, INSTRET, and running on. -/
def past (s : State) (h : Hart) : Hart :=
  { h with pc := nextPc s, fetchTaken := false, status := .running,
           csr := { h.csr with instret := s.hart.csr.instret + 1 } }

/-- Nothing but the current hart has changed; every byte of memory reads as before. -/
structure HartOnly (s t : State) : Prop where
  rest : t = { s with hart := t.hart }
  memory : ∀ a, t.loadByte a = s.loadByte a

/-- A scalar register was written with a value and a set; s0 stays zero with the empty set, and every other register is as
it was (R65, R67). -/
structure Wrote (sd : BitVec 5) (v : Word) (p : PvSet) (s t : State) : Prop where
  result : sd ≠ 0 → t.getS sd = v ∧ t.getP sd = p
  zero : t.getS 0 = 0 ∧ t.getP 0 = 0
  others : ∀ r, r ≠ sd → t.getS r = s.getS r ∧ t.getP r = s.getP r

/-- A scalar instruction completed: its register, its set, the context set `c`; every other field of the hart but the pc and
INSTRET, and the rest of the machine, are as before. -/
structure ScalarStep (sd : BitVec 5) (v : Word) (p c : PvSet) (s t : State) : Prop where
  wrote : Wrote sd v p s t
  hart : t.hart = past s { s.hart with s := t.hart.s, sp := t.hart.sp, ctx := c }
  only : HartOnly s t

/-- An instruction completed and wrote no scalar register; `h` is the hart with what the instruction does change. -/
structure QuietStep (h : Hart) (s t : State) : Prop where
  hart : t.hart = past s h
  only : HartOnly s t

/-- A transfer to `target` completed, with a link register written or none. -/
structure JumpStep (sd : BitVec 5) (v : Word) (p c : PvSet) (target : Word) (s t : State) : Prop where
  wrote : Wrote sd v p s t
  hart : t.hart = { past s { s.hart with s := t.hart.s, sp := t.hart.sp, ctx := c } with pc := target, fetchTaken := true }
  only : HartOnly s t

/-- A branch completed at `target`, ctx grown to `c`, and no scalar register written. -/
structure BranchStep (c : PvSet) (target : Word) (taken : Bool) (s t : State) : Prop where
  hart : t.hart = { past s { s.hart with ctx := c } with pc := target, fetchTaken := taken }
  only : HartOnly s t

/-- The union of the sets of two scalar sources and ctx (R67). -/
def union2 (s : State) (a b : BitVec 5) : PvSet := s.getP a ||| s.getP b ||| s.ctx

/-! ### Memory -/

/-- The watch gate of a release is open (R104, R285): the matrix queue has been handed over and every entry is confirmed. -/
def GateOpen (s : State) : Prop := s.mqEntered = true ∧ resolved s.hart.watch = true ∧ struckBits 0 s.hart.watch = 0

/-- A matrix word that the hart posted before its instruction. -/
def postedBefore (s : State) : MqItem → Bool := fun x =>
  x.who == s.hart.id && (match s.hart.cur with | some it => decide (x.seq < it.seq) | none => true)

/-- The hart's earlier accesses that a fence orders have been performed (R343, R359): the vector unit's, and the island's reads or
writes on behalf of the words that the hart posted before it, all of which have entered island order (R285). -/
def FenceOpen (reads writes : Bool) (s : State) : Prop :=
  s.mqEntered = true ∧ s.queueDone = true ∧ (reads = true → s.core.isl.fillsOf (postedBefore s) = false) ∧
  (writes = true → s.core.isl.writesOf (postedBefore s) = false)

/-- The bytes at a physical address lie where they stand: no redirect to a spill frame (R463). -/
def Unredirected (pa : Nat) (s : State) : Prop :=
  s.inTide pa = false ∨ ∀ f, (s.tideAt (pa / 65536)).state ≠ .backed f

/-- The `n` bytes at `pa` are those of `v`, the lowest first, and every byte outside them reads as before. -/
structure BytesStored (pa n v : Nat) (s t : State) : Prop where
  stored : ∀ k < n, t.homeByte (pa + k) = BitVec.ofNat 8 (v / 256 ^ k)
  outside : ∀ a, (s.place a < s.place pa ∨ s.place pa + n ≤ s.place a) → t.homeByte a = s.homeByte a

/-- A store of `n` bytes of `v` at `pa` completed: the bytes stored, every byte outside them as before, and of the hart only
the pc, INSTRET and ctx. -/
structure StoreStep (pa n : Nat) (v : Word) (c : PvSet) (s t : State) : Prop where
  bytes : BytesStored pa n v.toNat s t
  regs : t.hart.s = s.hart.s ∧ t.hart.sp = s.hart.sp
  ctx : t.ctx = c
  pc : t.hart.pc = nextPc s
  csr : t.hart.csr = { s.hart.csr with instret := s.hart.csr.instret + 1 }
  vec : t.hart.vec = s.hart.vec
  mode : t.hart.mode = s.hart.mode

/-- The state in which a load or store acts, once its address is translated: ctx has gained the set of the address register,
and an acquire has had its effect (R78, R347). -/
def addressed (f : MFmt) (acq : Bool) (pa : Nat) (s u : State) : State :=
  let t := u.addCtx (s.getP f.sa)
  if acq then acquireAt f.scope.toNat (pa / 128) t else t

/-- The low `8 n` bits of a number, sign-extended to a register. -/
def signedWord (n x : Nat) : Word := (BitVec.ofNat (8 * n) x).signExtend 64

/-- The effective address of an SMEM or SAMO form (R77, R356). -/
def effective (f : MFmt) (s : State) : Word := s.getS f.sa + f.imm.signExtend 64

/-- An instruction completed: the pc and INSTRET moved, and the hart runs on. -/
structure Passed (s t : State) : Prop where
  pc : t.hart.pc = nextPc s
  instret : t.hart.csr.instret = s.hart.csr.instret + 1
  running : t.hart.status = .running
  mode : t.hart.mode = s.hart.mode
  place : t.hart.core = s.hart.core ∧ t.hart.ix = s.hart.ix

/-- The decoder's checks let the instruction run: no feature mask, no missing privilege (R51). -/
def Allowed (i : Instr) (s : State) : Prop := s.hart.cur.isSome = true ∨ gate i s = none

/-! ### Traps (R409-R411) -/

/-- The status word of an entry from a mode, without a held frame (R411): PM, NEST set, DETAIL and ACC. -/
def entryStatus (acc detail : Nat) (from_ : Mode) : Word :=
  BitVec.ofNat 64 (from_.code + 8 + detail % 256 * 256 + acc % 16 * 2 ^ 20)

/-- A trap was delivered to supervisor mode: the four trap registers, the mode and the pc; registers, sets and memory as
before (R409-R411). -/
structure EntersSupervisor (r : TrapRec) (at_ : Word) (s t : State) : Prop where
  cause : t.hart.csr.tr.cause = BitVec.ofNat 64 r.cause
  info : t.hart.csr.tr.info = r.info
  pcSaved : t.hart.csr.tr.pc = at_
  status : s.hart.heldBy = none → t.hart.csr.tr.status = entryStatus r.acc r.detail s.hart.mode
  mode : t.hart.mode = .supervisor
  pc : t.hart.pc = s.hart.csr.tvec
  watch : t.hart.watch = [] ∧ t.hart.asideS = s.hart.watch
  regs : t.hart.s = s.hart.s ∧ t.hart.sp = s.hart.sp ∧ t.hart.vec = s.hart.vec
  hyper : t.hart.csr.htr = s.hart.csr.htr
  memory : t.mem = s.mem

/-- The state takes a trap of the scalar unit at once, its earlier posted work being done (R415), and to the supervisor (R409). -/
def ToSupervisor (cause : Nat) (s : State) : Prop :=
  s.hart.cur = none ∧ s.postedDone = true ∧ cause ≠ 3 ∧
    (s.hart.mode = .user ∨ (s.hart.mode = .supervisor ∧ cause ≠ 4 ∧ cause ≠ 5 ∧ nestOf s.hart.csr.tr.status = false))

/-! ### Vector registers -/

/-- Element `k` of the group that starts at a register, under a tag (R7, R108). -/
def elemAt (s : State) (r : BitVec 5) (t : Tag) (k : Nat) : Nat := bitsAt (s.dstImg r t) (k * t.width) t.width

/-- A group that is read, or written under its own tag, passes the checks of R109: tagged, aligned and uniform, and large
enough for vl. -/
def GroupReady (r : BitVec 5) (s : State) : Prop :=
  (s.tagOf r).code ≠ 0 ∧ s.groupOk r = true ∧ s.holdsElems r s.vl = true

/-- A destination group of a result tag is aligned and holds vl elements (R109). -/
def DestReady (vd : BitVec 5) (d : Tag) (s : State) : Prop :=
  vd.toNat % d.count = 0 ∧ (d.width = 0 ∨ s.vl ≤ capacity d.width d.count s.level)

/-- The vector sources of a form pass their checks, and `vb`, where it is read, has the tag of `va` (R109, R110). -/
def SourcesReady (f : VFmt) (s : State) : Prop :=
  GroupReady f.va s ∧ (f.sb = false → GroupReady f.vb s ∧ s.tagOf f.vb = s.tagOf f.va)

/-- A destination of a tag has no forbidden overlap with the sources of an element-wise form (R163). -/
def Apart (f : VFmt) (d : Tag) (s : State) : Prop :=
  s.overlapSrc f.vd d f.va = false ∧ (f.sb = false → s.overlapSrc f.vd d f.vb = false)

/-- Element `k` of the first source. -/
def firstAt (f : VFmt) (s : State) (k : Nat) : Nat := elemAt s f.va (s.tagOf f.va) k
/-- Element `k` of the second source of width `w`: of `vb`, or the low bits of s[ss] under SB (R110). -/
def secondAt (f : VFmt) (w : Nat) (s : State) (k : Nat) : Nat :=
  if f.sb then (s.getS f.ss).toNat % 2 ^ w else elemAt s f.vb (s.tagOf f.vb) k
/-- The set of the second source. -/
def secondPv (f : VFmt) (s : State) : PvSet := if f.sb then s.getP f.ss else s.pvOf f.vb

/-- Active elements take the results, masked ones are kept or zeroed, and those past vl are kept (R112). -/
structure GroupElems (vd : BitVec 5) (d : Tag) (g : Gov) (res : Nat → Nat) (s t : State) : Prop where
  active : ∀ k < s.vl, g.act.testBit k = true → elemAt t vd d k = res k % 2 ^ d.width
  masked : ∀ k < s.vl, g.act.testBit k = false → elemAt t vd d k = if g.zeroes k then 0 else elemAt s vd d k
  tail : ∀ k, s.vl ≤ k → (k + 1) * d.width ≤ 8192 * s.level * d.count → elemAt t vd d k = elemAt s vd d k

/-- Every register of the group takes the tag, the dirty bit and the set; every other vector register is as it was (R112). -/
structure GroupTagged (vd : BitVec 5) (d : Tag) (p : PvSet) (s t : State) : Prop where
  group : ∀ j < d.count, (t.hart.vreg (vd.toNat + j)).tag = d ∧ (t.hart.vreg (vd.toNat + j)).dirty = true ∧
    (t.hart.vreg (vd.toNat + j)).pv = s.hart.groupPv vd.toNat d.count ||| p ||| s.vlPv ||| s.ctx
  others : ∀ r < 32, (∀ j < d.count, r ≠ vd.toNat + j) → t.hart.vreg r = s.hart.vreg r

/-- A vector group was written element by element; mask and scale registers are as they were. -/
structure GroupWritten (vd : BitVec 5) (d : Tag) (g : Gov) (res : Nat → Nat) (p : PvSet) (s t : State) : Prop where
  elems : GroupElems vd d g res s t
  tagged : GroupTagged vd d p s t
  masks : t.hart.vec.m = s.hart.vec.m ∧ t.hart.vec.k = s.hart.vec.k

/-- Elements 0, 1, ... of a group were written from a list, and those after them are as they were; mask and scale registers
are as they were. -/
structure ListWritten (vd : BitVec 5) (d : Tag) (out : List Nat) (p : PvSet) (s t : State) : Prop where
  listed : ∀ j (h : j < out.length), elemAt t vd d j = out[j] % 2 ^ d.width
  rest : ∀ k, out.length ≤ k → (k + 1) * d.width ≤ 8192 * s.level * d.count → elemAt t vd d k = elemAt s vd d k
  tagged : GroupTagged vd d p s t
  masks : t.hart.vec.m = s.hart.vec.m ∧ t.hart.vec.k = s.hart.vec.k

/-- A vector instruction completed that changes vector registers alone. -/
structure VectorStep (s t : State) : Prop where
  hart : t.hart = past s { s.hart with vec := t.hart.vec }
  only : HartOnly s t

/-- A mask register was written at the bits below vl that are active; masked bits are kept or zeroed, bits past vl kept; every
other mask register, and every vector and scale register, is as it was (R112, R119). -/
structure MaskWritten (md : Nat) (g : Gov) (res : Nat → Bool) (p : PvSet) (s t : State) : Prop where
  active : ∀ k < s.vl, g.act.testBit k = true → (t.hart.mreg md).bits.testBit k = res k
  masked : ∀ k < s.vl, g.act.testBit k = false →
    (t.hart.mreg md).bits.testBit k = (!g.zeroes k && (s.hart.mreg md).bits.testBit k)
  tail : ∀ k, s.vl ≤ k → (t.hart.mreg md).bits.testBit k = (s.hart.mreg md).bits.testBit k
  pv : (t.hart.mreg md).pv = (s.hart.mreg md).pv ||| p ||| s.vlPv ||| s.ctx
  others : ∀ r, r % 8 ≠ md % 8 → t.hart.mreg r = s.hart.mreg r
  groups : t.hart.vec.v = s.hart.vec.v ∧ t.hart.vec.k = s.hart.vec.k

/-- Every element below vl is active. -/
def everyElement (s : State) : Gov := ⟨2 ^ s.vl - 1, 0, false, false, s.vl, 1, 0⟩

/-- What the elements carry along, before element `k`: each active element below it has stepped it (R112, R179, R180). -/
def before {σ : Type} (act : Nat) (eff : Nat → σ → Nat × σ) (st : σ) : Nat → σ
  | 0 => st
  | k + 1 => if act.testBit k then (eff k (before act eff st k)).2 else before act eff st k

/-- FSTAT gained the flags with the set of the result, SRSTATE stepped, and no other control register but INSTRET changed
(R179, R180). -/
structure FlagsJoined (st : FpSt) (p : PvSet) (s t : State) : Prop where
  fstat : t.hart.csr.fstat = s.hart.csr.fstat ||| BitVec.ofNat 6 st.flags
  srstate : t.hart.csr.srstate = st.sr
  fstatPv : t.hart.csrPv 0x003 = s.hart.csrPv 0x003 ||| p
  hart : t.hart = past s { s.hart with vec := t.hart.vec, csr :=
    { s.hart.csr with fstat := t.hart.csr.fstat, srstate := t.hart.csr.srstate, pv := t.hart.csr.pv } }
  only : HartOnly s t

/-- A floating-point form completed: the results element by element, and the flags and the generator. -/
structure FpStep (vd : BitVec 5) (d : Tag) (g : Gov) (eff : Nat → FpSt → Nat × FpSt) (p : PvSet) (s t : State) : Prop where
  written : GroupWritten vd d g (fun k => (eff k (before g.act eff s.fpStart k)).1) p s t
  flags : FlagsJoined (before g.act eff s.fpStart s.vl) (t.hart.vreg vd.toNat).pv s t

/-- The byte at a physical address after the runs of a store, in their order, from an image: the last run that holds the
address has the byte (R128, R209). -/
def storedByte (l : List PRun) (img a : Nat) (old : Byte) : Byte :=
  match l.reverse.find? fun r => decide (r.pa ≤ a ∧ a < r.pa + r.n) with
  | some r => BitVec.ofNat 8 (bitsAt img (8 * (r.off + (a - r.pa))) 8)
  | none => old

/-- The runs lie on whole elements at plain addresses: aligned, and not redirected. -/
def PlainRuns (l : List PRun) (s : State) : Prop := ∀ r ∈ l, 1 ≤ r.n ∧ r.n ≤ 8 ∧ 65536 % r.n = 0 ∧ r.pa % r.n = 0 ∧ Unredirected r.pa s

/-- A vector memory form completed that changes no register: vector, mask, scale and scalar registers are as before. -/
structure MemoryStep (s t : State) : Prop where
  passed : Passed s t
  vec : t.hart.vec = s.hart.vec
  scalar : t.hart.s = s.hart.s ∧ t.hart.sp = s.hart.sp ∧ t.hart.ctx = s.hart.ctx

/-- The pieces of an area as runs: their places and offsets in the area's bytes, one after another. -/
def areaRuns : Nat → List (Nat × Nat) → List PRun
  | _, [] => []
  | off, (pa, n) :: l => ⟨0, 0, pa, off, n⟩ :: areaRuns (off + n) l

/-- The pieces lie within pages that are not redirected. -/
def PlainArea (l : List (Nat × Nat)) (s : State) : Prop := ∀ x ∈ l, x.1 % 65536 + x.2 ≤ 65536 ∧ Unredirected x.1 s

/-- Memory after an area's bytes were stored at its pieces: every other byte as before. -/
def AreaStored (l : List (Nat × Nat)) (bytes : List Byte) (s t : State) : Prop :=
  ∀ a, t.homeByte a = if s.zeroLine a then 0 else storedByte (areaRuns 0 l) (leBytes bytes) (s.place a) (s.homeByte a)

/-- The word posted to the matrix queue by the current hart, with its number in the order of posting (R285, R296, R351). -/
def posted (i : Instr) (a b : Word) (p : PvSet) (pages : List (Nat × Nat)) (hdr : Nat) (s : State) : MqItem :=
  ⟨s.hart.id, s.hart.pc, encode i, a, b, p, s.ctx, s.hart.csr.ptroot, s.hart.mode, pages, hdr, s.jobSeq⟩

/-- The instruction completed by posting its word at the end of the hart's matrix queue, and changed nothing else but the count that
numbers what is posted. -/
def Posts (i : Instr) (a b : Word) (p : PvSet) (pages : List (Nat × Nat)) (hdr : Nat) (s t : State) : Prop :=
  QuietStep { s.hart with mq := s.hart.mq ++ [posted i a b p pages hdr s] } { s with jobSeq := s.jobSeq + 1 } t

/-! ### Steps of the machine's own agents -/

/-- The hart `who` is `h`; every other hart context, and all of memory, are as before. -/
structure HartBecomes (who : HartId) (h : Hart) (s t : State) : Prop where
  hart : t.hartAt who = h
  others : ∀ w, hidKey w ≠ hidKey who → hidKey w ≠ s.hart.key → t.hartAt w = s.hartAt w
  current : s.hart.id ≠ who → t.hart = s.hart
  memory : t.mem = s.mem

/-- Core `n` is `c`; every other core, the current hart, and all of memory, are as before. -/
structure CoreBecomes (n : Nat) (c : Core) (s t : State) : Prop where
  core : t.coreAt n = c
  others : ∀ k, k ≠ n → t.coreAt k = s.coreAt k
  hart : t.hart = s.hart
  memory : t.mem = s.mem

/-- Of the current hart, nothing has changed but one control register: its other control registers, its scalar and vector
registers, its pc and mode are as before, and so is all of memory. -/
structure CsrOnly (n : Nat) (s t : State) : Prop where
  csrs : ∀ m, m ≠ n → csrRead m t = csrRead m s
  scalar : t.hart.s = s.hart.s ∧ t.hart.sp = s.hart.sp
  vec : t.hart.vec = s.hart.vec
  pc : t.hart.pc = s.hart.pc ∧ t.hart.mode = s.hart.mode
  memory : t.mem = s.mem

/-- No sector that a core in the list owns is dirty. -/
def Merged (cores : List Nat) (t : State) : Prop :=
  ∀ x ∈ t.sectors, ∀ n ∈ cores, x.owner = some n → x.dirty = false

/-- How many lines of some entries are in a phase. -/
def linesIn (p : CheckPhase → Bool) (l : List WatchEntry) : Nat := (l.map fun e => e.inPhase p).sum

/-- The entries of a hart's three tables, in order. -/
def entriesOf (h : Hart) : List WatchEntry := h.watch ++ h.asideS ++ h.asideH

/-- The check of number `n` of the package, among those in a phase: it stands in a hart's entry `e`, at line `l`, with the
entries `before_` and `after_` about it in that hart's tables and the lines `lo` and `hi` about it in its entry. -/
structure CheckAt (p : CheckPhase → Bool) (n : Nat) (h : Hart) (before_ : List WatchEntry) (e : WatchEntry) (after_ : List WatchEntry)
    (lo : List WatchLine) (l : WatchLine) (hi : List WatchLine) (s : State) : Prop where
  entries : entriesOf h = before_ ++ e :: after_
  lines : e.lines = lo ++ l :: hi
  phase : p l.phase = true
  number : ∃ hs hs', s.allHarts = hs ++ h :: hs' ∧
    linesIn p (hs.flatMap entriesOf) + linesIn p before_ + (lo.filter fun x => p x.phase).length = n

/-- The opcode that runs on a core stands as a firing or move of a node or port leaves it: `v` is the state that it acts on. A stop
at the capacity and a fault come once the accesses that the opcode has issued are performed (R140, R244, R246). -/
def RunMoved (core node : Nat) (m : Moved) (r : RRun) (v s t : State) : Prop :=
  match m with
  | .yes r' u =>
    let x := if r'.phase = .more then settleLoads (r', u) else (r', u)
    (t.coreAt core).reef.run = some x.1 ∧ t.mem = x.2.mem
  | .no => (t.coreAt core).reef.run = some r ∧ t.mem = s.mem
  | .fault e =>
    let x := settleLoads ({ r with phase := .fault e, first := some node }, v)
    (t.coreAt core).reef.run = some x.1 ∧ t.mem = x.2.mem

/-- Only the channel records have changed; the channel `key` is `c`. -/
def ChanBecomes (key : Nat) (c : Chan) (s t : State) : Prop := t = { s with chans := t.chans } ∧ t.chanAt key = some c

/-- A management entry was answered with a code, over the state `u` that its command leaves (R471): STATUS, then MQHEAD; what
the commands install is as in `u`. -/
structure Answered (e : MqEntry) (code : Nat) (u t : State) : Prop where
  status : BytesStored (e.at_ + 4) 4 (2 ^ 31 + code) u t
  head : t.mqHead = u.mqHead + 1
  parts : t.parts = u.parts ∧ t.slots = u.slots
  places : t.qtable = u.qtable ∧ t.elog = u.elog
  firmware : t.staged = u.staged ∧ t.activate = u.activate
  power : t.power = u.power ∧ t.powerCmd = u.powerCmd

end Sys2Proof.Safety
end

