-- ==== Sys2Proof/Certificates/Slice0/Obligations.lean ====
section
/-! DEFINITION. The statements for the provers. `Completes`, `ScalarStep` and the other terms are those of `Safety`. -/

open Sys2Proof Sys2Proof.Machine Sys2Proof.Safety

/-- For every well-formed instruction, decoding the eight bytes of its word, whatever follows them, gives the instruction and
what follows (R27-R49). -/
def Obligations.EncodedWordsDecodeBack : Prop :=
  ∀ (i : Instr) (rest : List Byte), i.wf = true →
    decode (encode i) = .ok i ∧ decodeBytes (toLeBytes 8 (encode i).toNat ++ rest) = .ok (i, rest)

/-- Every instruction has one word: no bit of a legal word is ignored (R28, R29). -/
def Obligations.DecodedWordIsItsEncoding : Prop :=
  ∀ (w : Word) (i : Instr), decode w = .ok i → i.wf = true ∧ encode i = w

/-- Words written out from the spec's encodings (R27-R37, R87, R91): csrrd s7, VL; setvl s4, s3, e64, g1, l2; nop; add; lw; beq; vadd
v3, v1, v2^ ?m2; lw.aq.die s5, -16(sp). -/
def Obligations.SpecWordsDecode : Prop :=
  decode 0x1C14E00000000001 = .ok (.csrrd ⟨7, 0, 1⟩) ∧
  decode 0x2004830000000023 = .ok (.setvl ⟨4, 3, 0x23⟩) ∧
  decode 0x1C2C000000000000 = .ok .nop ∧
  decode 0x0404611000000000 = .ok (.add ⟨3, 1, 2, 0⟩) ∧
  decode 0x0C60610000000008 = .ok (.lw ⟨3, 1, 0, 0, 0, 8⟩ false) ∧
  decode 0x1400011000000002 = .ok (.beq ⟨0, 1, 2, 2⟩) ∧
  decode 0x4004610A02000000 = .ok (.vadd ⟨false, 3, 1, false, 2, true, 0, false, 2, false, false, 0, 0, false, 0⟩) ∧
  decode 0x0C64BD0010FFFFF0 = .ok (.lw ⟨5, 29, 0, 0, 2, 0xFFFFF0⟩ true) ∧
  decode 0 = .error .reservedMajor

/-- A step of a granted hart is `exec` of the instruction at its pc, at the state `x` that the fetch leaves: for a vector word, the
fetch of the word behind it too, which ends its convoy (R27, R158, R406). What the step adds is said in the model's own names: a posted
form that waits passes into the vector queue (`afterExec`; log entries 48 and 58), and the issue slot is noted (`takeSlot`; log entry 2,
which also settles that a step is one grant). The premises leave out a word that waits for a slot, for its turn among the vector-class
items, or for a pending drain. -/
def Obligations.StepRunsDecodedInstruction : Prop :=
  ∀ (s s0 u x : State) (l : List HartId) (pa : Nat) (w : Word) (i : Instr),
    let vector := inConvoyFormat i = true ∧ gate i s0 = none
    (s.grants = s.hart.id :: l ∧ s0 = { s with grants := l } ∧ slotOf i s0 ≠ .vector) ∨
      (s.grants = [] ∧ s.vgrants = s.hart.id :: l ∧ s0 = { s with vgrants := l } ∧ slotOf i s0 = .vector ∧ s0.levelStops i = false) →
    s.pending = [] → s.core.num = s.hart.core → s.hart.mayIssue = true →
    s.hart.deferred = [] → s.hart.queue = [] → s.hart.heldBy = none → s.hart.pc.toNat % 8 = 0 →
    fetchAt s.hart.pc s0 = (.ok pa u, w) → decode w = .ok i → convoyBit w = false → s0.hasSlot i = true →
    (vector → convoyTail allWords (s.hart.pc + 8) u = .words [] x) → (¬ vector → x = u) →
    (isQueued i s0 = false → scalarHolds i s0 = false) →
    (isQueued i s0 = true → s0.mayPost 1 = true ∧ s0.startsAtOnce i = true ∧ drainHolds [i] x.jobSeq x = false) →
    step s = match afterExec w i x (exec i x) with
      | .next t => .next (if hasIssued s.hart t.hart = true then takeSlot i s0 t else t)
      | o => o

/-- The order of a step: a pending arrival, else a granted hart, else a hart's turn at the vector-class slot, else one clk. It is the
model's choice (log entries 2 and 64). -/
def Obligations.ArrivalsComeFirst : Prop :=
  (∀ s e l, s.pending = e :: l → step s = exec e { s with pending := l }) ∧
  (∀ s, s.pending = [] → s.grants = [] → s.vgrants = [] → step s = exec .issueClk s) ∧
  (∀ s l, s.pending = [] → s.grants = s.hart.id :: l → s.core.num = s.hart.core → s.hart.mayIssue = false →
    step s = .next { s with grants := l }) ∧
  (∀ s l, s.pending = [] → s.grants = [] → s.vgrants = s.hart.id :: l → s.core.num = s.hart.core →
    (s.hart.mayIssue = true → step s = runVector { s with vgrants := l }) ∧
    (s.hart.mayIssue = false → step s = .next { s with vgrants := l }))

/-- The state right after reset. The zero registers, the user mode and the zero memory are the model's choice where the spec
states no value (log entries 3 and 4). -/
def Obligations.ResetState : Prop :=
  State.reset.mem = [] ∧ (∀ a, State.reset.homeByte a = 0) ∧ State.reset.clk = 0 ∧ State.reset.parts = [] ∧
  State.reset.tasks = [] ∧ State.reset.engq = [] ∧ State.reset.chans = [] ∧ State.reset.binds = [] ∧
  State.reset.stopped = false ∧ State.reset.pending = [] ∧
  (∀ (h : HartId), (State.reset.hartAt h).status = .free ∧ (State.reset.hartAt h).mode = .user) ∧
  (∀ (h : HartId) (r : BitVec 5), (State.reset.hartAt h).getS r = 0 ∧ (State.reset.hartAt h).getP r = 0)

/-- The reset state satisfies the memory invariant: that reset memory lists nothing, and the canonical form itself, are the model's choice
(log entry 3). -/
def Obligations.ResetMemoryCanonical : Prop := MemoryCanonical State.reset

/-- Delivery to the supervisor (R409, R410, R411, R456): the saved pc, the cause, the information and the status; ctx is
unchanged and is what the four registers carry. -/
def Obligations.TrapEntryToSupervisor : Prop :=
  ∀ (r : TrapRec) (s : State), ToSupervisor r.cause s → r.cause < 256 →
    EntersSupervisor r s.hart.pc s (scalarTrap r s) ∧ (scalarTrap r s).ctx = s.ctx ∧
    (∀ n, 0x100 ≤ n → n ≤ 0x103 → (scalarTrap r s).hart.csrPv n = s.ctx)

/-- Delivery to the hypervisor (R409, R411, R474): a trap under NEST goes as a double trap, cause 23, with the first cause in
DETAIL; a nested trap of the hypervisor halts the hart. -/
def Obligations.TrapEntryToHypervisor : Prop :=
  (
    ∀ (r : TrapRec) (pc : Word) (s : State), s.htvec ≠ 0 → s.hart.mode ≠ .hypervisor →
      (r.cause = 3 ∨ (s.hart.mode = .supervisor ∧ (r.cause = 4 ∨ r.cause = 5 ∨ nestOf s.hart.csr.tr.status = true))) →
      let double := r.cause ≠ 3 ∧ r.cause ≠ 4 ∧ r.cause ≠ 5
      let t := deliver r pc s
      t.hart.mode = .hypervisor ∧ t.hart.pc = s.htvec ∧ t.hart.csr.htr.pc = pc ∧ t.hart.csr.htr.info = r.info ∧
      (double → t.hart.csr.htr.cause = 23) ∧ (¬ double → t.hart.csr.htr.cause = BitVec.ofNat 64 r.cause) ∧
      (s.hart.heldBy = none → t.hart.csr.htr.status =
        entryStatus r.acc (if r.cause = 3 ∨ r.cause = 4 ∨ r.cause = 5 then r.detail else r.cause) s.hart.mode) ∧
      t.hart.csr.tr = s.hart.csr.tr ∧ t.hart.asideH = s.hart.watch ∧ t.mem = s.mem ∧ t.hart.s = s.hart.s) ∧ (
    ∀ (r : TrapRec) (pc : Word) (s : State), s.hart.mode = .hypervisor → nestOf s.hart.csr.htr.status = true →
      (deliver r pc s).hart.status = .halted ∧ (deliver r pc s).hart.mayIssue = false ∧
      (deliver r pc s).hart.csr = s.hart.csr ∧ (deliver r pc s).hart.pc = s.hart.pc ∧ (deliver r pc s).hart.s = s.hart.s)

/-- SCALL saves its address + 8 and BRK its own address, each with imm32 zero-extended in TRAPINFO; in hypervisor mode SCALL is an
illegal instruction (R84). -/
def Obligations.SystemCallsAndBreakpoints : Prop :=
  (∀ (f : IFmt) (s : State), s.hart.mode = .user → s.postedDone = true →
    Completes (.scall f) s (fun t => EntersSupervisor ⟨5, f.imm.zeroExtend 64, 0, 0⟩ (s.hart.pc + 8) s t)) ∧
  (∀ (f : IFmt) (s : State), s.hart.mode = .supervisor → s.postedDone = true → s.htvec ≠ 0 →
    Completes (.scall f) s (fun t => t.hart.mode = .hypervisor ∧ t.hart.pc = s.htvec ∧ t.hart.csr.htr.cause = 5 ∧
      t.hart.csr.htr.info = f.imm.zeroExtend 64 ∧ t.hart.csr.htr.pc = s.hart.pc + 8 ∧ t.hart.s = s.hart.s ∧ t.mem = s.mem)) ∧
  (∀ (f : IFmt) (s : State), ToSupervisor 6 s →
    Completes (.brk f) s (fun t => EntersSupervisor ⟨6, f.imm.zeroExtend 64, 0, 0⟩ s.hart.pc s t)) ∧
  (∀ (f : IFmt) (s : State), s.hart.mode = .hypervisor →
    exec (.scall f) s = .next (scalarTrap (illegal (encode (.scall f))) s))

/-- ERET (R85, R411, R456): the return from the supervisor's handler and from the hypervisor's; the privilege trap in user
mode. -/
def Obligations.EretReturns : Prop :=
  (∀ s : State, s.hart.mode = .supervisor → exitOf s.hart.csr.tr.status = false → s.hart.csr.tr.pc.toNat % 8 = 0 →
    Completes .eret s (fun t => t.hart.pc = s.hart.csr.tr.pc ∧ t.hart.mode = Mode.ofCode (s.hart.csr.tr.status.toNat % 4) ∧
      t.hart.csr.tr.status = s.hart.csr.tr.status &&& ~~~12 ∧ t.hart.watch = s.hart.asideS ∧ t.hart.s = s.hart.s ∧
      t.hart.sp = s.hart.sp ∧ t.hart.ctx = s.hart.ctx ∧ t.hart.csr.htr = s.hart.csr.htr ∧ t.mem = s.mem)) ∧
  (∀ s : State, s.hart.mode = .hypervisor → exitOf s.hart.csr.htr.status = false → s.hart.csr.htr.pc.toNat % 8 = 0 →
    Completes .eret s (fun t => t.hart.pc = s.hart.csr.htr.pc ∧ t.hart.mode = Mode.ofCode (s.hart.csr.htr.status.toNat % 4) ∧
      t.hart.csr.htr.status = s.hart.csr.htr.status &&& ~~~12 ∧ t.hart.watch = s.hart.asideH ∧ t.hart.s = s.hart.s ∧
      t.hart.sp = s.hart.sp ∧ t.hart.ctx = s.hart.ctx ∧ t.hart.csr.tr = s.hart.csr.tr ∧ t.mem = s.mem)) ∧
  (∀ s : State, s.hart.mode = .user → exec .eret s = .next (scalarTrap (privilege (encode .eret)) s))

/-- The fate of a word that is no instruction (R27, R50, R410). -/
def Obligations.IllegalWordsTrap : Prop :=
  (∀ (w : Word) (e : Reject) (s : State), s.hart.pc.toNat % 8 = 0 → decode w = .error e → ToSupervisor 1 s →
    Completes (.illegalWord w) s (fun t => EntersSupervisor ⟨1, w, 0, 0⟩ s.hart.pc s t)) ∧
  (∀ (w : Word) (s : State), s.hart.pc.toNat % 8 ≠ 0 → ToSupervisor 2 s →
    Completes (.illegalWord w) s (fun t => EntersSupervisor ⟨2, s.hart.pc, 0, 1⟩ s.hart.pc s t)) ∧
  (∀ (w : Word) (i : Instr) (s : State), s.hart.pc.toNat % 8 = 0 → decode w = .ok i → w.getLsbD 57 = true → ToSupervisor 1 s →
    Completes (.illegalWord w) s (fun t => EntersSupervisor ⟨1, w, 0, 0⟩ s.hart.pc s t))

/-- The checks of privilege and of the feature mask (R50, R51, R55, R373). -/
def Obligations.PrivilegeAndFeatureTraps : Prop :=
  (
    ∀ (f : RFmt) (s : State), s.hart.cur = none → s.hart.mode = .user → s.postedDone = true →
      ∀ i ∈ [Instr.vsave f, .vrestore f, .frsave f, .frload f, .xfreeze f, .xthaw f, .reserve f, .migrate f, .tlbinv f, .gateinst f,
          .pgfree f],
        Completes i s (fun t => EntersSupervisor ⟨4, encode i, 0, 0⟩ s.hart.pc s t)) ∧ (
    ∀ (r : RFmt) (m : TFmt) (n : IFmt) (s : State), s.hart.pastDecode = false → s.hart.mode ≠ .hypervisor → s.htvec ≠ 0 → s.postedDone = true →
      ∀ x ∈ [(Instr.xstat r, 0), (.mma m, 1), (.chstat r, 2), (.wchk n, 3), (.copy r, 4), (.launch r, 5), (.fork n, 6)],
        s.hfmask.getLsbD x.2 = true →
        Completes x.1 s (fun t => t.hart.mode = .hypervisor ∧ t.hart.pc = s.htvec ∧ t.hart.csr.htr.cause = 3 ∧
          t.hart.csr.htr.info = encode x.1 ∧ (s.hart.heldBy = none → t.hart.csr.htr.status = entryStatus 0 x.2 s.hart.mode) ∧
          t.hart.csr.htr.pc = s.hart.pc ∧ t.hart.s = s.hart.s ∧ t.mem = s.mem))

/-- The SALU forms of two sources and SEL (R65, R67, R73). -/
def Obligations.SaluResults : Prop :=
  ∀ (f : RFmt) (s : State),
    let a := s.getS f.sa
    let b := s.getS f.sb
    let two := fun v => ScalarStep f.sd v (union2 s f.sa f.sb) s.ctx s
    Completes (.add f) s (two (a + b)) ∧ Completes (.sub f) s (two (a - b)) ∧ Completes (.and f) s (two (a &&& b)) ∧
    Completes (.or f) s (two (a ||| b)) ∧ Completes (.xor f) s (two (a ^^^ b)) ∧ Completes (.andn f) s (two (a &&& ~~~b)) ∧
    Completes (.sll f) s (two (a <<< (b.toNat % 64))) ∧ Completes (.srl f) s (two (a >>> (b.toNat % 64))) ∧
    Completes (.sra f) s (two (a.sshiftRight (b.toNat % 64))) ∧ Completes (.mul f) s (two (a * b)) ∧
    Completes (.min f) s (two (if a.toInt ≤ b.toInt then a else b)) ∧
    Completes (.max f) s (two (if b.toInt ≤ a.toInt then a else b)) ∧
    Completes (.minu f) s (two (if a.toNat ≤ b.toNat then a else b)) ∧
    Completes (.maxu f) s (two (if b.toNat ≤ a.toNat then a else b)) ∧
    Completes (.slt f) s (two (if a.toInt < b.toInt then 1 else 0)) ∧
    Completes (.sltu f) s (two (if a.toNat < b.toNat then 1 else 0)) ∧
    Completes (.sel f) s (ScalarStep f.sd (if s.getS f.sc = 0 then b else a)
      (s.getP f.sa ||| s.getP f.sb ||| s.getP f.sc ||| s.ctx) s.ctx s)

/-- Division (R73, R74), by exact integers reduced modulo 2^64; the corner of -2^63 by -1 is written out. -/
def Obligations.DivisionResults : Prop :=
  ∀ (f : RFmt) (s : State),
    let a := s.getS f.sa
    let b := s.getS f.sb
    let two := fun v => ScalarStep f.sd v (union2 s f.sa f.sb) s.ctx s
    (b = 0 → Completes (.div f) s (two 0xFFFFFFFFFFFFFFFF) ∧ Completes (.divu f) s (two 0xFFFFFFFFFFFFFFFF) ∧
      Completes (.rem f) s (two a) ∧ Completes (.remu f) s (two a)) ∧
    (a = 0x8000000000000000 → b = 0xFFFFFFFFFFFFFFFF → Completes (.div f) s (two 0x8000000000000000) ∧ Completes (.rem f) s (two 0)) ∧
    (b ≠ 0 → Completes (.div f) s (two (BitVec.ofInt 64 (a.toInt.tdiv b.toInt))) ∧
      Completes (.rem f) s (two (BitVec.ofInt 64 (a.toInt.tmod b.toInt))) ∧
      Completes (.divu f) s (two (BitVec.ofNat 64 (a.toNat / b.toNat))) ∧
      Completes (.remu f) s (two (BitVec.ofNat 64 (a.toNat % b.toNat)))) ∧
    (∀ i ∈ [Instr.add f, .sub f, .and f, .or f, .xor f, .andn f, .sll f, .srl f, .sra f, .mul f, .mulh f, .mulhu f, .div f, .divu f,
        .rem f, .remu f, .min f, .max f, .minu f, .maxu f, .slt f, .sltu f, .clz f, .ctz f, .popc f, .sel f],
      ∃ v p, Completes i s (ScalarStep f.sd v p s.ctx s))

/-- The high products by exact integers, and the bit counts by what they count (R73). -/
def Obligations.HighProductsAndBitCounts : Prop :=
  ∀ (f : RFmt) (s : State),
    let a := s.getS f.sa
    let b := s.getS f.sb
    let two := fun v => ScalarStep f.sd v (union2 s f.sa f.sb) s.ctx s
    let one := fun v => ScalarStep f.sd v (s.getP f.sa ||| s.ctx) s.ctx s
    Completes (.mulh f) s (two (BitVec.ofInt 64 (a.toInt * b.toInt / 2 ^ 64))) ∧
    Completes (.mulhu f) s (two (BitVec.ofNat 64 (a.toNat * b.toNat / 2 ^ 64))) ∧
    (∃ n : Nat, n ≤ 64 ∧ (∀ k, 64 - n ≤ k → a.getLsbD k = false) ∧ (n < 64 → a.getLsbD (63 - n) = true) ∧
      Completes (.clz f) s (one (BitVec.ofNat 64 n))) ∧
    (∃ n : Nat, n ≤ 64 ∧ (∀ k < n, a.getLsbD k = false) ∧ (n < 64 → a.getLsbD n = true) ∧
      Completes (.ctz f) s (one (BitVec.ofNat 64 n))) ∧
    Completes (.popc f) s (one (BitVec.ofNat 64 ((List.range 64).countP fun k => a.getLsbD k)))

/-- The SIMM forms (R67, R75). -/
def Obligations.SimmResults : Prop :=
  ∀ (f : IFmt) (s : State),
    let a := s.getS f.sa
    let x := f.imm.signExtend 64
    let one := fun v => ScalarStep f.sd v (s.getP f.sa ||| s.ctx) s.ctx s
    Completes (.addi f) s (one (a + x)) ∧ Completes (.andi f) s (one (a &&& x)) ∧ Completes (.ori f) s (one (a ||| x)) ∧
    Completes (.xori f) s (one (a ^^^ x)) ∧ Completes (.slli f) s (one (a <<< (f.imm.toNat % 64))) ∧
    Completes (.srli f) s (one (a >>> (f.imm.toNat % 64))) ∧ Completes (.srai f) s (one (a.sshiftRight (f.imm.toNat % 64))) ∧
    Completes (.slti f) s (one (if a.toInt < x.toInt then 1 else 0)) ∧
    Completes (.sltiu f) s (one (if a.toNat < x.toNat then 1 else 0)) ∧
    Completes (.li f) s (ScalarStep f.sd x s.ctx s.ctx s) ∧
    Completes (.lih f) s (one (BitVec.ofNat 64 (f.imm.toNat * 2 ^ 32 + a.toNat % 2 ^ 32)))

/-- Branches (R49, R81). -/
def Obligations.BranchesTransfer : Prop :=
  ∀ (f : BFmt) (s : State),
    let a := s.getS f.sa
    let b := s.getS f.sb
    let target := s.hart.pc + f.imm.signExtend 64 * 8
    let m := s.hart.mreg (f.sb.toNat % 8)
    let any := ∃ k, k < s.vl ∧ m.bits.testBit k = true
    let goes := fun (c : Prop) (g : PvSet) (t : State) =>
      (c → BranchStep (s.ctx ||| g) target true s t) ∧ (¬ c → BranchStep (s.ctx ||| g) (nextPc s) false s t)
    let two := s.getP f.sa ||| s.getP f.sb
    target.toNat % 8 = 0 →
    Completes (.beq f) s (goes (a = b) two) ∧ Completes (.bne f) s (goes (a ≠ b) two) ∧
    Completes (.blt f) s (goes (a.toInt < b.toInt) two) ∧ Completes (.bge f) s (goes (b.toInt ≤ a.toInt) two) ∧
    Completes (.bltu f) s (goes (a.toNat < b.toNat) two) ∧ Completes (.bgeu f) s (goes (b.toNat ≤ a.toNat) two) ∧
    Completes (.bmz f) s (goes (¬ any) (m.pv ||| s.vlPv)) ∧ Completes (.bmnz f) s (goes any (m.pv ||| s.vlPv))

/-- Jumps, and the trap of a misaligned target, which TRAPPC reports at the transferring instruction (R27, R82). -/
def Obligations.JumpsLink : Prop :=
  (
    ∀ (f : BFmt) (s : State),
      ((s.hart.pc + f.imm.signExtend 64 * 8).toNat % 8 = 0 →
        Completes (.jal f) s (JumpStep f.sd (s.hart.pc + 8) s.ctx s.ctx (s.hart.pc + f.imm.signExtend 64 * 8) s)) ∧
      ((s.getS f.sa + f.imm.signExtend 64 * 8).toNat % 8 = 0 →
        Completes (.jalr f) s (JumpStep f.sd (s.hart.pc + 8) (s.ctx ||| s.getP f.sa) (s.ctx ||| s.getP f.sa)
          (s.getS f.sa + f.imm.signExtend 64 * 8) s))) ∧ (
    ∀ (f : BFmt) (s : State),
      let target := s.getS f.sa + f.imm.signExtend 64 * 8
      target.toNat % 8 ≠ 0 → s.hart.mode = .user → s.postedDone = true →
      Completes (.jalr f) s (fun t => Wrote f.sd (s.hart.pc + 8) (s.ctx ||| s.getP f.sa) s t ∧ t.hart.mode = .supervisor ∧
        t.hart.pc = s.hart.csr.tvec ∧ t.hart.csr.tr.cause = 2 ∧ t.hart.csr.tr.info = target ∧ t.hart.csr.tr.pc = s.hart.pc ∧
        t.ctx = s.ctx ||| s.getP f.sa ∧ t.mem = s.mem))

/-- Bit 57 is defined only in the V and VM formats (R28). -/
def Obligations.CvBitOnlyInVectorFormats : Prop :=
  ∀ w : Word, w.getLsbD 57 = true → fmtOf (majorOf w) (fnOf w) ≠ some .v → fmtOf (majorOf w) (fnOf w) ≠ some .vm →
    ∃ e, decode w = .error e

/-- The scalar registers (R65). -/
def Obligations.RegisterZero : Prop :=
  ∀ (s : State) (r : BitVec 5) (v : Word) (p : PvSet),
    s.getS 0 = 0 ∧ s.getP 0 = 0 ∧ s.setS 0 v p = s ∧
    (r ≠ 0 → (s.setS r v p).getS r = v ∧ (s.setS r v p).getP r = p) ∧
    (∀ q, q ≠ r → (s.setS r v p).getS q = s.getS q ∧ (s.setS r v p).getP q = s.getP q)

/-- The access checks (R69) over the table of R68, for each of the four forms, by the trap that the form then raises. -/
def Obligations.ControlRegisterAccess : Prop :=
  ∀ (f : IFmt) (s : State),
    let n := f.imm.toNat % 4096
    let traps (c : Nat) (i : Instr) : Prop := exec i s = .next (scalarTrap ⟨c, encode i, 0, 0⟩ s)
    let rd := Instr.csrrd f
    let wr := Instr.csrwr f
    let st := Instr.csrset f
    let cl := Instr.csrclr f
    let all (p : Instr → Prop) : Prop := p rd ∧ p wr ∧ p st ∧ p cl
    let writing (p : Instr → Prop) : Prop := p wr ∧ (f.sa ≠ 0 → p st ∧ p cl)
    (csrAccess n = none → all (traps 1)) ∧
    (∀ u v h, csrAccess n = some (u, v, h) →
      let here := match s.hart.mode with | .user => u | .supervisor => v | .hypervisor => h
      (here = .none → all (traps 4)) ∧
      (here = .ro → (v = .rw ∨ h = .rw) → writing (traps 4)) ∧
      (here = .ro → v ≠ .rw → h ≠ .rw → writing (traps 1)) ∧
      (here ≠ .none → Completes rd s (ScalarStep f.sd (csrRead n s) (csrReadPv n s ||| s.ctx) s.ctx s)) ∧
      (here ≠ .none → f.sa = 0 → Completes st s (ScalarStep f.sd (csrRead n s) (csrReadPv n s ||| s.ctx) s.ctx s) ∧
        Completes cl s (ScalarStep f.sd (csrRead n s) (csrReadPv n s ||| s.ctx) s.ctx s)))

/-- The writing control-register forms on every writable register (R68-R70, R86, R87, R101, R411, R473, R474). Where sd = sa, the set that
the register takes is that of s[sa] before the instruction, which is the model's choice (log entry 65). ROSTER, a copy of what the
partition list holds, is left out of the frame of HFMASK and HTVEC. -/
def Obligations.ControlRegisterWrites : Prop :=
  ∀ (f : IFmt) (i : Instr) (v : Word) (s : State),
    let n := f.imm.toNat % 4096
    let old := csrRead n s
    let a := s.getS f.sa
    let p := s.getP f.sa ||| s.ctx
    let did (except_ : List Nat) (t : State) : Prop := Wrote f.sd old (csrReadPv n s ||| s.ctx) s t ∧ Passed s t ∧ t.hart.vec = s.hart.vec ∧
      (∀ m, m ≠ n → m ≠ 0x014 → m ∉ except_ → csrRead m t = csrRead m s)
    let takes (w : Word) (t : State) : Prop := csrRead n t = w ∧ csrReadPv n t = p
    (i = .csrwr f ∧ v = a) ∨ (f.sa ≠ 0 ∧ i = .csrset f ∧ v = old ||| a) ∨ (f.sa ≠ 0 ∧ i = .csrclr f ∧ v = old &&& ~~~a) →
    (n < 0x100 ∨ s.hart.mode = .hypervisor ∨ (n < 0x200 ∧ s.hart.mode = .supervisor)) →
    (∀ mask : Word, (n, mask) ∈ [(0x003, 0x3F), (0x005, 0xFFFFFFFFFFFFFFFF), (0x006, 7), (0x007, 0xFFFFFFFFFFFFFFFF),
        (0x00A, 0xFFFFFFFFFFFFFFFF), (0x100, 0xFF), (0x101, 0xFFFFFFFFFFFFFFFF), (0x102, 0xFFFFFFFFFFFFFFFF), (0x104, 0xFFFFFFFFFFFFFFF8),
        (0x105, 0xFFFFFFFFFFFFFFFF), (0x106, 0xFFFFFFFFFFFFF000), (0x201, 0xFF), (0x202, 0xFFFFFFFFFFFFFFFF), (0x203, 0xFFFFFFFFFFFFFFFF)] →
      Completes i s (fun t => did [] t ∧ takes (v &&& mask) t ∧ t.ctx = s.ctx ∧ HartOnly s t)) ∧
    (n = 0x004 → Completes i s (fun t => did [] t ∧ takes (if 6 ≤ v.toNat % 8 then old else v &&& 7) t ∧ t.ctx = s.ctx ∧ HartOnly s t)) ∧
    (n = 0x00B → Completes i s (fun t => did [] t ∧ takes (if v.getLsbD 0 = true then old else 0) t ∧ t.ctx = s.ctx ∧ HartOnly s t)) ∧
    (n = 0x103 ∨ n = 0x204 → Completes i s (fun t => did [] t ∧ takes ((v &&& 0xF0FF18) ||| (old &&& 4) |||
      (if v.toNat % 4 = 3 ∨ (n = 0x103 ∧ s.hart.mode = .supervisor ∧ v.toNat % 4 = 2) then old &&& 3 else v &&& 3)) t ∧ t.ctx = s.ctx ∧
      HartOnly s t)) ∧
    (n = 0x00C → s.hart.mode ≠ .user →
      (v.toNat % 2 ^ 16 < 2 ^ s.roster → Completes i s (fun t => did [] t ∧ takes (v &&& 0xFFFF) t ∧ t.ctx = v.extractLsb' 0 16 ∧ HartOnly s t)) ∧
      (2 ^ s.roster ≤ v.toNat % 2 ^ 16 → exec i s = .next (scalarTrap ⟨9, a, 2, 0⟩ s))) ∧
    (n = 0x107 → Completes i s (fun t => did [] t ∧ takes v t ∧ t.ctx = s.ctx ∧ HartOnly s t ∧
      t.hart.event = (s.hart.event || (v != 0 && v.ule s.clk)) ∧ t.hart.csr.timerArmed = (v != 0 && !v.ule s.clk))) ∧
    (n = 0x00D → (v = 0 → Completes i s (fun t => did [] t ∧ takes 0 t ∧ t.ctx = s.ctx ∧ t.hart.csr.evline = none ∧ HartOnly s t)) ∧
      (v ≠ 0 → match xlat v .read (s.setS f.sd old (csrReadPv n s ||| s.ctx)) with
        | .ok (pa, _, u) => Completes i s (fun t => did [] t ∧ takes v t ∧ t.ctx = s.ctx ∧ t.hart.csr.evline = some (pa / 128) ∧ t.mem = u.mem)
        | .error e => exec i s = .next (scalarTrap (walkTrap v 2 e) s))) ∧
    (∀ mask : Word, (n, mask) ∈ [(0x200, 0x7F), (0x205, 0xFFFFFFFFFFFFFFF8)] →
      Completes i s (fun t => did [0x015] t ∧ (s.selPart ≠ none → takes (v &&& mask) t) ∧ t.ctx = s.ctx ∧ t.mem = s.mem)) ∧
    (n = 0x206 → Completes i s (fun t => did [0x200, 0x205] t ∧ t.ctx = s.ctx ∧ HartOnly s t ∧
      takes (if (findBy Part.num v.toNat s.parts).isSome = true then v else old) t))

/-- The SYS forms that change no register (R83, R86, R359-R361). What a fence waits for before it completes, and which lines the
instruction cache keeps at IFENCE, are as the model reads them (log entries 6 and 67). -/
def Obligations.SystemFormsComplete : Prop :=
  (∀ s : State, Completes .nop s (QuietStep s.hart s) ∧
    (s.hart.event = true → Completes .wfe s (QuietStep { s.hart with event := false } s)) ∧
    (s.hart.event = false → exec .wfe s = .next (waitFor .wfe s))) ∧
  (∀ s : State,
    (FenceOpen false true s → Completes .ifence s (fun t => t.hart = past s s.hart ∧
      t = { s with hart := t.hart, core := { s.core with icache := t.core.icache } } ∧
      ∀ x, x ∈ t.core.icache ↔ x ∈ s.core.icache ∧ x.data = s.homeNum (x.line * 128) 128)) ∧
    (¬ FenceOpen false true s → exec .ifence s = .next (waitFor .drain s))) ∧
  (∀ (f : IFmt) (s : State),
    let aq := f.imm.getLsbD 3 || f.imm.getLsbD 5
    let rl := f.imm.getLsbD 4 || f.imm.getLsbD 5
    (rl = true → GateOpen s) →
    (FenceOpen true rl s → Completes (.fence f) s (fun t => t.hart = past s s.hart ∧ t.mem = s.mem ∧ t.tide = s.tide ∧ t.prov = s.prov ∧
      t.core.num = s.core.num ∧ (∀ a, t.homeByte a = s.homeByte a) ∧
      (rl = true → 2 ≤ f.imm.toNat % 8 → ∀ x ∈ t.sectors, x.owner = some s.core.num → x.dirty = false) ∧
      (aq = true → 2 ≤ f.imm.toNat % 8 → Merged (s.recorded.map Prod.snd) t ∧
        (4 ≤ f.imm.toNat % 8 → ∀ c ∈ t.core.copies, c.state ≠ .remote)))) ∧
    (¬ FenceOpen true rl s → exec (.fence f) s = .next (waitFor .drain s)))

/-- What the translation of an access may change: A and M in the leaf entry of its walk (R320, R322), and the event flag, when
the hart itself watches that line (R86). -/
def Obligations.TranslationEffects : Prop :=
  ∀ (va : Word) (n : Nat) (p : Perm) (acc : Nat) (reads : Bool) (s u : State) (pa : Nat), MemoryCanonical s →
    access va n p acc reads s = .ok pa u → s.dry = false →
    u.hart = { s.hart with event := u.hart.event } ∧ u.pkg = s.pkg ∧ u.parts = s.parts ∧
    (match s.walkFrom (vaNum va) 4 (rootOf s.hart.csr.ptroot) with
     | .error _ => u.mem = s.mem
     | .ok l => Unredirected l.at_ s →
        ∀ a, (s.place a < s.place l.at_ ∨ s.place l.at_ + 8 ≤ s.place a) → u.homeByte a = s.homeByte a)

/-- The scalar loads (R77, R78, R79), at the state that translation leaves. -/
def Obligations.LoadsReadMemory : Prop :=
  ∀ (f : MFmt) (o : Bool) (i : Instr) (n : Nat) (signed : Bool) (s u : State) (pa : Nat),
    (i, n, signed) ∈ [(Instr.lb f o, 1, true), (.lbu f o, 1, false), (.lh f o, 2, true), (.lhu f o, 2, false), (.lw f o, 4, true),
      (.lwu f o, 4, false), (.ld f o, 8, true)] →
    (effective f s).toNat % n = 0 → access (effective f s) n .read 2 true s = .ok pa u →
    let b := addressed f o pa s u
    Completes i s (ScalarStep f.sd (if signed then signedWord n (b.loadNum pa n) else BitVec.ofNat 64 (b.loadNum pa n))
      (b.loadPv pa ||| b.ctx) b.ctx b)

/-- The scalar stores (R77-R79, R104), at the state that translation leaves; the stored bytes lie at `pa`, the physical address
that the access answers. -/
def Obligations.StoresWriteMemory : Prop :=
  ∀ (f : MFmt) (o : Bool) (i : Instr) (n : Nat) (s u : State) (pa : Nat),
    (i, n) ∈ [(Instr.sb f o, 1), (.sh f o, 2), (.sw f o, 4), (.sd f o, 8)] → (o = true → GateOpen s) →
    (effective f s).toNat % n = 0 → access (effective f s) n .write 3 false s = .ok pa u →
    pa % n = 0 → MemoryCanonical u → Unredirected pa u →
    writeCheck (effective f s) pa (s.getP f.sd ||| (u.ctx ||| s.getP f.sa)) 3 u = none →
    Completes i s (StoreStep pa n (s.getS f.sd) (u.ctx ||| s.getP f.sa) u)

/-- Misaligned scalar accesses (R77, R80, R356) and the ceiling and egress checks of stores (R78, R428, R435, R439). The marks that
a trapping access has set in its table entry stay (`touch`): that is the model's choice (log entry 60). -/
def Obligations.AccessChecksTrap : Prop :=
  (
    ∀ (f : MFmt) (o d q : Bool) (i : Instr) (n acc : Nat) (s : State),
      (i, n, acc) ∈ [(Instr.lh f o, 2, 2), (.lhu f o, 2, 2), (.lw f o, 4, 2), (.lwu f o, 4, 2), (.ld f o, 8, 2), (.sh f o, 2, 3),
        (.sw f o, 4, 3), (.sd f o, 8, 3), (.wldH f, 2, 5), (.wldW f, 4, 5), (.wldD f, 8, 5)] ∨
      (i, n, acc) ∈ [(Instr.amoadd f d o q, if d then 8 else 4, 4), (.amoand f d o q, if d then 8 else 4, 4),
        (.amoor f d o q, if d then 8 else 4, 4), (.amoxor f d o q, if d then 8 else 4, 4), (.amomin f d o q, if d then 8 else 4, 4),
        (.amomax f d o q, if d then 8 else 4, 4), (.amominu f d o q, if d then 8 else 4, 4),
        (.amomaxu f d o q, if d then 8 else 4, 4), (.amoswap f d o q, if d then 8 else 4, 4), (.amocas f d o q, if d then 8 else 4, 4)] →
      GateOpen s → Allowed i s → ToSupervisor 7 s → s.hart.remote = none → (effective f s).toNat % n ≠ 0 →
      Completes i s (fun t => EntersSupervisor ⟨7, effective f s, 0, acc⟩ s.hart.pc s t)) ∧ (
    ∀ (f : MFmt) (i : Instr) (n : Nat) (s u : State) (pa : Nat),
      (i, n) ∈ [(Instr.sb f false, 1), (.sh f false, 2), (.sw f false, 4), (.sd f false, 8)] →
      (effective f s).toNat % n = 0 → access (effective f s) n .write 3 false s = .ok pa u →
      let p := s.getP f.sd ||| (u.ctx ||| s.getP f.sa)
      let v := touch (effective f s) .write s
      (u.inHost pa = false → u.outsideZone pa = false → pvSubset ((u.provAt pa).cur ||| p) (u.provAt pa).ceil = false →
        ToSupervisor 9 v →
        Completes i s (fun t => EntersSupervisor ⟨9, effective f s, 1, 3⟩ v.hart.pc v t)) ∧
      (u.inHost pa = true → p ≠ 0 → ToSupervisor 22 v →
        Completes i s (fun t => EntersSupervisor ⟨22, effective f s, 0, 3⟩ v.hart.pc v t)))

/-- The watched loads (R80, R447, R451). -/
def Obligations.WatchedLoadsRecord : Prop :=
  ∀ (f : MFmt) (i : Instr) (n : Nat) (s u : State) (pa : Nat),
    (i, n) ∈ [(Instr.wldB f, 1), (.wldH f, 2), (.wldW f, 4), (.wldD f, 8)] → Allowed i s →
    (effective f s).toNat % n = 0 → access (effective f s) n .read 5 true s = .ok pa u →
    let b := u.addCtx (s.getP f.sa)
    (u.inHost pa = true → Completes i s (ScalarStep f.sd (signedWord n (b.loadNum pa n)) (b.loadPv pa ||| b.ctx) b.ctx b)) ∧
    (u.inHost pa = false → 32 ≤ u.hart.watch.length →
      Completes i s (fun t => Wrote f.sd (signedWord n (b.loadNum pa n)) (b.loadPv pa ||| b.ctx) b t ∧ HartOnly b t ∧
        t.hart = past b { b.hart with s := t.hart.s, sp := t.hart.sp, csr := { b.hart.csr with
          wfull := if b.hart.csr.wfull = 0xFFFFFFFFFFFFFFFF then b.hart.csr.wfull else b.hart.csr.wfull + 1 } })) ∧
    (u.inHost pa = false → u.hart.watch.length < 32 →
      Completes i s (fun t => ∃ e : WatchEntry, e.base = effective f s ∧ e.count = 1 ∧ e.width = n ∧ e.state = .pending ∧
        e.pv = 0 ∧ e.lines.map WatchLine.line = [b.lineOf pa] ∧
        Wrote f.sd (signedWord n (b.watchNum pa n)) (b.watchPv pa ||| b.ctx) b t ∧ HartOnly b t ∧
        t.hart = past b { b.hart with s := t.hart.s, sp := t.hart.sp, watch := b.hart.watch ++ [e] }))

/-- The scalar atomics on own memory, and outside the package: the request, and the completion on its answer (R356-R360, R477). The tag
of the packet is the model's choice (log entry 77). -/
def Obligations.ScalarAtomics : Prop :=
  ∀ (f : MFmt) (d aq rl : Bool) (s : State),
    let n := if d then 8 else 4
    let forms : List (Instr × Nat) := [(Instr.amoadd f d aq rl, 1), (.amoand f d aq rl, 2), (.amoor f d aq rl, 3), (.amoxor f d aq rl, 4),
      (.amomin f d aq rl, 5), (.amomax f d aq rl, 6), (.amominu f d aq rl, 7), (.amomaxu f d aq rl, 8), (.amoswap f d aq rl, 9),
      (.amocas f d aq rl, 10)]
    (∀ q, s.hart.remote = some q → ∀ i op, (i, op) ∈ forms →
      (∀ v, q.failed = none → q.answer = some v → Completes i s (fun t =>
        Wrote f.sd (signedWord n v.toNat) (s.curAt q.addr ||| q.req.pv) s t ∧ Passed s t ∧ t.ctx = s.ctx ||| s.getP f.sa ∧
        t.hart.remote = none ∧ t.mem = s.mem)) ∧
      (∀ x, q.failed = some x → s.postedDone = true →
        exec i s = .next (trapAt ⟨20, effective f s, x, 4⟩ { s with hart := { s.hart with remote := none } })) ∧
      (q.failed = none → q.answer = none → exec i s = .next (waitFor .remote s))) ∧
    (∀ (u : State) (pa : Nat),
      let b := (s.getS f.sb).toNat % 256 ^ n
      let c := (s.getS f.sc).toNat % 256 ^ n
      let x := u.ctx ||| s.getP f.sa
      let old := u.homeNum pa n
      let lt (p q : Nat) : Prop := (signedWord n p).toInt < (signedWord n q).toInt
      let ready (p : PvSet) : Prop := writeCheck (effective f s) pa p 4 u = none
      let did (p : PvSet) (t : State) : Prop := Wrote f.sd (signedWord n old) (u.curAt pa ||| p) u t ∧ Passed u t ∧ t.ctx = x ∧
        t.hart.vec = u.hart.vec
      let two := s.getP f.sb ||| 0 ||| x
      let three := s.getP f.sb ||| s.getP f.sc ||| x
      s.hart.remote = none → (rl = true → GateOpen s) → (effective f s).toNat % n = 0 →
      access (effective f s) n .write 4 true s = .ok pa u →
      (u.inHost pa = true ∨ u.inPeer pa = true → ∀ i op, (i, op) ∈ forms →
        let p := if op = 10 then three else two
        let r : AmoReq := ⟨op, n, s.getS f.sb, s.getS f.sc, p⟩
        (u.inHost pa = true → op ∉ [1, 9, 10] → exec i s = .next (scalarTrap ⟨17, encode i, 3, 4⟩ s)) ∧
        (u.inHost pa = false ∨ op ∈ [1, 9, 10] → ready p → (op = 10 → rl = true → FenceOpen true true u) →
          Completes i s (fun t => t.hart.status = .waiting .remote ∧ t.hart.remote = some ⟨pa, r, none, none, 0, u.clk⟩ ∧
            t.hart.s = s.hart.s ∧ t.hart.pc = s.hart.pc ∧ t.mem = u.mem ∧
            t.sent = if u.inPeer pa then .packet (u.portTo (paPkg pa) (pa / 128)) (amoPacket u.hart.id r pa) :: u.sent else u.sent)) ∧
        (op = 10 → rl = true → ready p → ¬ FenceOpen true true u → Completes i s (fun t => t.hart.status = .waiting .drain ∧
          t.hart.s = s.hart.s ∧ t.hart.pc = s.hart.pc ∧ t.mem = u.mem))) ∧
      (u.inHost pa = false → u.inPeer pa = false → pa % n = 0 → MemoryCanonical u → Unredirected pa u →
      (ready two → ∀ i v, (i, v) ∈ [(Instr.amoadd f d aq rl, old + b), (.amoand f d aq rl, old &&& b), (.amoor f d aq rl, old ||| b),
          (.amoxor f d aq rl, old ^^^ b), (.amominu f d aq rl, min old b), (.amomaxu f d aq rl, max old b), (.amoswap f d aq rl, b)] →
        Completes i s (fun t => did two t ∧ BytesStored pa n v u t)) ∧
      (ready two → (lt b old → Completes (.amomin f d aq rl) s (fun t => did two t ∧ BytesStored pa n b u t)) ∧
        (¬ lt b old → Completes (.amomin f d aq rl) s (fun t => did two t ∧ BytesStored pa n old u t)) ∧
        (lt old b → Completes (.amomax f d aq rl) s (fun t => did two t ∧ BytesStored pa n b u t)) ∧
        (¬ lt old b → Completes (.amomax f d aq rl) s (fun t => did two t ∧ BytesStored pa n old u t))) ∧
      (ready three → (old = b → Completes (.amocas f d aq rl) s (fun t => did three t ∧ BytesStored pa n c u t)) ∧
        (old ≠ b → (rl = true → FenceOpen true true u) →
          Completes (.amocas f d aq rl) s (fun t => did three t ∧ ∀ a, t.homeByte a = u.homeByte a)) ∧
        (old ≠ b → rl = true → ¬ FenceOpen true true u → Completes (.amocas f d aq rl) s (fun t => t.hart.status = .waiting .drain ∧
          t.hart.s = s.hart.s ∧ t.hart.pc = s.hart.pc ∧ t.mem = u.mem)))))

/-- SETVL (R88, R89, R90, R91). What counts as work posted before a change of the level is the model's reading (log entry 13). -/
def Obligations.VectorLengthIsSet : Prop :=
  ∀ (f : IFmt) (s : State),
    let sew := 8 * 2 ^ (f.imm.toNat % 4)
    let g := 2 ^ (f.imm.toNat / 4 % 4)
    let lc := f.imm.toNat / 16 % 4
    let level := if lc = 0 then s.level else if lc = 3 then 4 else lc
    let n := (s.hart.cur.map Item.seq).getD (s.hart.levelSeq.getD s.jobSeq)
    let vl := min (s.getS f.sa).toNat (128 * level * (64 / sew) * g)
    let p := s.getP f.sa ||| s.ctx
    let did (t : State) : Prop := t.vl = vl ∧ Wrote f.sd (BitVec.ofNat 64 vl) p s t ∧ t.vlPv = p ∧ t.level = level ∧ Passed s t ∧
      t.hart.csr.sew.toNat = f.imm.toNat % 4 ∧ t.hart.csr.g.toNat = f.imm.toNat / 4 % 4 ∧ t.hart.csr.vlcut = false ∧ t.mem = s.mem
    (level = s.level → Completes (.setvl f) s (fun t => did t ∧ t.hart.vec = s.hart.vec ∧ HartOnly s t)) ∧
    (level ≠ s.level → s.hart.core = s.core.num → s.levelReady n = true → Completes (.setvl f) s (fun t => did t ∧
      (∀ r < 32, (t.hart.vreg r).img = (s.hart.vreg r).img % 2 ^ (8192 * level) ∧ (t.hart.vreg r).tag = (s.hart.vreg r).tag ∧
        (t.hart.vreg r).pv = (s.hart.vreg r).pv) ∧
      (∀ h ∈ t.harts, h.core = s.core.num → h.ix ≠ s.hart.ix →
        h.csr.vl ≤ 128 * level * (64 / (8 * 2 ^ h.csr.sew.toNat)) * 2 ^ h.csr.g.toNat))) ∧
    (level ≠ s.level → s.levelReady n = false →
      exec (.setvl f) s = .next (waitFor (.level n) { s with jobSeq := if n = s.jobSeq then s.jobSeq + 1 else s.jobSeq }))

/-- The tag forms (R54, R93, R94, R95). -/
def Obligations.TagsAreWritten : Prop :=
  (∀ (f : IFmt) (s : State),
    let x := f.imm.toNat % 32
    let ty := if x = 15 ∨ x = 16 then (tagImm f.imm.toNat).ty else x
    let bl := f.imm.toNat / 128 % 8
    let g := 2 ^ (f.imm.toNat / 32 % 4)
    let tag : Tag := ⟨BitVec.ofNat 5 ty, BitVec.ofNat 2 (f.imm.toNat / 32 % 4), BitVec.ofNat 3 bl⟩
    let others (t : State) : Prop := (∀ r < 32, (∀ j < g, r ≠ f.sd.toNat + j) → t.hart.vreg r = s.hart.vreg r) ∧
      t.hart.vec.m = s.hart.vec.m ∧ t.hart.vec.k = s.hart.vec.k ∧ t.hart.s = s.hart.s ∧ Passed s t ∧ HartOnly s t ∧
      t.hart.csr.fstat = s.hart.csr.fstat ||| (if x = 15 ∨ x = 16 then 32 else 0)
    ty < 21 → (bl = 0 ∨ ty = 13 ∨ ty = 14 ∨ ty = 17) → f.sd.toNat % g = 0 →
    Completes (.vtag f) s (fun t => others t ∧ ∀ j < g, t.hart.vreg (f.sd.toNat + j) = ⟨0, tag, false, s.ctx⟩) ∧
    Completes (.vretag f) s (fun t => others t ∧ ∀ j < g, t.hart.vreg (f.sd.toNat + j) =
      ⟨(s.hart.vreg (f.sd.toNat + j)).img, tag, (s.hart.vreg (f.sd.toNat + j)).dirty, (s.hart.vreg (f.sd.toNat + j)).pv ||| s.ctx⟩)) ∧
  (∀ (f : RFmt) (s : State),
    let r := s.hart.vreg f.sa.toNat
    Completes (.vtagrd f) s (ScalarStep f.sd (BitVec.ofNat 64 (r.tag.ty.toNat + 32 * r.tag.g.toNat + 128 * r.tag.bl.toNat +
      (if r.dirty then 1024 else 0))) s.ctx s.ctx s))

/-- FORK and JOIN (R96, R97, R98). The empty sets of the vector side after either are the model's choice where the spec gives only the
values (log entry 65), and so is that a freed context keeps its register values (log entry 74). -/
def Obligations.ForkAndJoin : Prop :=
  (∀ (f : IFmt) (c : Nat) (s : State), Allowed (.fork f) s → s.postedDone = true → GateOpen s → s.core.num = s.hart.core →
    (s.hart.laneN ≤ 1 → exec (.fork f) s = .next (scalarTrap ⟨13, encode (.fork f), 1, 0⟩ s)) ∧
    (2 ≤ s.hart.laneN → s.freeHart = none → exec (.fork f) s = .next (scalarTrap ⟨13, encode (.fork f), 2, 0⟩ s)) ∧
    (2 ≤ s.hart.laneN → s.freeHart = some c → Completes (.fork f) s (fun t =>
      let k := t.hartAt ⟨s.hart.core, c⟩
      t.hart.laneN = s.hart.laneN / 2 ∧ t.hart.vec = VecFile.zero ∧ t.vl = 0 ∧ Wrote f.sd 0 s.ctx s t ∧ Passed s t ∧
      t.mem = s.mem ∧ t.hart.children.length = s.hart.children.length + 1 ∧
      k.status = .running ∧ k.pc = s.hart.pc + f.imm.signExtend 64 * 8 ∧ k.mode = s.hart.mode ∧ k.ctx = s.ctx ∧
      k.laneN = s.hart.laneN / 2 ∧ k.laneLo = s.hart.laneLo + s.hart.laneN / 2 ∧ k.vec = VecFile.zero ∧ k.csr.vl = 0 ∧
      k.parent = some s.hart.ix ∧ (f.sd ≠ 0 → k.getS f.sd = 1) ∧ (∀ r, r ≠ f.sd → k.getS r = s.getS r ∧ k.getP r = s.getP r)))) ∧
  (∀ (s : State) (c : Child) (p : PvSet), Allowed .join s → s.postedDone = true → GateOpen s →
    (s.hart.children.getLast? = some c → c.done = some p →
      Completes .join s (fun t => t.hart.laneN = s.hart.laneN + c.n ∧ t.ctx = s.ctx ||| p ∧ t.hart.children = s.hart.children.dropLast ∧
        t.hart.vec = VecFile.zero ∧ t.vl = 0 ∧ t.hart.s = s.hart.s ∧ Passed s t ∧ t.mem = s.mem)) ∧
    (∀ q, s.hart.children = [] → s.hart.parent = some q → q ≠ s.hart.ix → (s.hartAt ⟨s.hart.core, q⟩).id = ⟨s.hart.core, q⟩ →
      Completes .join s (fun t => t.hart = s.hart.freed ∧ t.hart.status = .free ∧ t.hart.s = s.hart.s ∧ t.hart.vec = s.hart.vec ∧
        t.mem = s.mem ∧ ∀ c ∈ (t.hartAt ⟨s.hart.core, q⟩).children, c.ix = s.hart.ix → c.done = some s.hart.ctx)) ∧
    (s.hart.children = [] → s.hart.parent = none → exec .join s = .next (scalarTrap ⟨13, encode .join, 3, 0⟩ s)))

/-- The provenance instructions (R100, R101, R102). -/
def Obligations.ProvenanceForms : Prop :=
  (∀ (f : RFmt) (s : State),
    let rd (p : PvSet) := Completes (.pvrd f) s (ScalarStep f.sd (p.zeroExtend 64) s.ctx s.ctx s)
    (f.sb = 0 → rd (s.getP f.sa)) ∧ (f.sb = 1 → rd (s.hart.vreg f.sa.toNat).pv) ∧ (f.sb = 2 → rd (s.hart.mreg f.sa.toNat).pv) ∧
    (f.sb = 3 → rd (s.hart.kreg f.sa.toNat).pv)) ∧
  (∀ (f : RFmt) (s : State),
    let v := s.getS f.sa
    let c := s.ctx ||| v.extractLsb' 0 16
    (v.toNat < 2 ^ min s.roster 16 → Completes (.pvctx f) s (ScalarStep f.sd (c.zeroExtend 64) c c s)) ∧
    (2 ^ min s.roster 16 ≤ v.toNat → exec (.pvctx f) s = .next (scalarTrap ⟨9, v, 2, 0⟩ s))) ∧
  (∀ s : State, s.postedDone = true → s.hart.enginesDone = true → GateOpen s →
    Completes .pvclr s (fun t => (∀ r, t.getS r = 0 ∧ t.getP r = 0) ∧ t.hart.vec = VecFile.zero ∧ t.vl = 0 ∧ t.vlPv = 0 ∧ t.ctx = 0 ∧
      t.hart.csr.fstat = 0 ∧ t.hart.csr.mshout = 0 ∧ t.hart.csr.xcnt2 = 0 ∧ t.hart.csr.wstruck = 0 ∧
      t.hart.csr.frm = s.hart.csr.frm ∧ t.hart.csr.srstate = s.hart.csr.srstate ∧ t.hart.csr.wfull = s.hart.csr.wfull ∧
      t.hart.csr.tr = s.hart.csr.tr ∧ Passed s t ∧ t.mem = s.mem ∧ t.core.reef.conts.all (fun r => r.hart != s.hart.ix) = true))

/-- WCHK, WCLR and the watch gate (R103, R104). -/
def Obligations.WatchChecks : Prop :=
  (∀ (f : IFmt) (s : State), Allowed (.wchk f) s →
    let bits := struckBits 0 s.hart.watch
    let c := s.ctx ||| struckPv s.hart.watch
    let target := s.hart.pc + f.imm.signExtend 64 * 8
    let same (t : State) : Prop := t.hart.watch = [] ∧ t.hart.csr.wstruck = BitVec.ofNat 32 bits ∧ t.hart.csrPv 0x009 = t.ctx ∧
      t.hart.vec = s.hart.vec ∧ HartOnly s t
    (resolved s.hart.watch = false → exec (.wchk f) s = .next (waitFor .watch s)) ∧
    (resolved s.hart.watch = true → bits = 0 → Completes (.wchk f) s (fun t => same t ∧ t.ctx = s.ctx ∧ t.hart.s = s.hart.s ∧
      Passed s t)) ∧
    (resolved s.hart.watch = true → bits ≠ 0 → target.toNat % 8 = 0 → Completes (.wchk f) s (fun t => same t ∧ t.ctx = c ∧
      Wrote f.sd (s.hart.pc + 8) c s t ∧ t.hart.pc = target ∧ t.hart.csr.instret = s.hart.csr.instret + 1))) ∧
  (∀ s : State, Allowed .wclr s → Completes .wclr s (QuietStep { s.hart with watch := [] } s)) ∧
  (∀ (f : MFmt) (s : State), s.dry = false → s.mqEntered = true →
    ∀ i ∈ [Instr.sb f true, .sh f true, .sw f true, .sd f true],
      (resolved s.hart.watch = false → exec i s = .next (waitFor .watch s)) ∧
      (resolved s.hart.watch = true → struckBits 0 s.hart.watch ≠ 0 →
        exec i s = .next (scalarTrap ⟨14, BitVec.ofNat 64 (struckBits 0 s.hart.watch), 0, 0⟩ s)))

/-- DISCARD within a page and TPPROBE (R105, R106, R107, R459, R460). That a DISCARD of no bytes adds the sets of its operands to ctx, and that
TPPROBE waits for a PENDING or MOVING frame, are the model's choice (log entry 65). -/
def Obligations.TidepoolForms : Prop :=
  (∀ (f : RFmt) (s u : State) (pa : Nat),
    let a := s.getS f.sa
    let n := (s.getS f.sb).toNat
    a.toNat % 128 = 0 → n % 128 = 0 → discardParts a n s (n / 65536 + 2) = .ok ([⟨pa, n⟩], u) → pa % 128 = 0 →
    pa % 65536 + n ≤ 65536 → u.inTide pa = true → MemoryCanonical u → Unredirected pa u →
    Completes (.discard f) s (fun t => (∀ k < n, t.homeByte (pa + k) = 0) ∧
      (∀ x, (u.place x < pa ∨ pa + n ≤ u.place x) → t.homeByte x = u.homeByte x) ∧
      (t.tideAt (pa / 65536)).gen = (u.tideAt (pa / 65536)).gen + 1 ∧ t.ctx = u.ctx ||| (s.getP f.sa ||| s.getP f.sb) ∧
      t.hart.s = u.hart.s ∧ t.hart.vec = u.hart.vec ∧ Passed u t)) ∧
  (∀ (f : RFmt) (s u : State) (pa : Nat) (e : TlbEntry), xlat (s.getS f.sa) .read s = .ok (pa, e, u) → u.frameBusy pa = false →
    let b := recordTide pa e u
    let x := b.tideAt (pa / 65536)
    let p := s.getP f.sa ||| s.ctx
    (b.inTide pa = false → Completes (.tpprobe f) s (ScalarStep f.sd 0 p b.ctx b)) ∧
    (b.inTide pa = true → x.frame = pa / 65536 → ∃ v : Word, Completes (.tpprobe f) s (ScalarStep f.sd v p b.ctx b) ∧
      v.getLsbD 0 = true ∧ v.getLsbD 1 = (x.state matches .resident | .pending _ | .moving) ∧ v.getLsbD 2 = x.d ∧
      v.getLsbD 3 = x.pol ∧ v.getLsbD 4 = !v.getLsbD 1 ∧ v.extractLsb' 32 32 = x.gen ∧
      (v.extractLsb' 8 3).toNat = pa / 2 ^ 32 % 8))

/-- The invariant of memory over the scalar families, traps and waits included (R2; the form is the model's own, log entry 3). -/
def Obligations.InstructionsKeepMemoryCanonical : Prop :=
  ∀ (r : RFmt) (n : IFmt) (b : BFmt) (m : MFmt) (o d q : Bool),
    (∀ i ∈ [Instr.add r, .sub r, .and r, .or r, .xor r, .andn r, .sll r, .srl r, .sra r, .mul r, .mulh r, .mulhu r, .div r, .divu r,
      .rem r, .remu r, .min r, .max r, .minu r, .maxu r, .slt r, .sltu r, .clz r, .ctz r, .popc r, .sel r, .addi n, .andi n, .ori n,
      .xori n, .slli n, .srli n, .srai n, .slti n, .sltiu n, .li n, .lih n], KeepsMemory i) ∧
    (∀ i ∈ [Instr.lb m o, .lbu m o, .lh m o, .lhu m o, .lw m o, .lwu m o, .ld m o, .sb m o, .sh m o, .sw m o, .sd m o, .wldB m,
      .wldH m, .wldW m, .wldD m], KeepsMemory i) ∧
    (∀ i ∈ [Instr.amoadd m d o q, .amoand m d o q, .amoor m d o q, .amoxor m d o q, .amomin m d o q, .amomax m d o q,
      .amominu m d o q, .amomaxu m d o q, .amoswap m d o q, .amocas m d o q], KeepsMemory i) ∧
    (∀ i ∈ [Instr.beq b, .bne b, .blt b, .bge b, .bltu b, .bgeu b, .bmz b, .bmnz b, .jal b, .jalr b, .scall n, .brk n, .eret, .wfe,
      .nop, .fence n, .ifence, .csrrd n, .csrwr n, .csrset n, .csrclr n, .setvl n, .vtag n, .vretag n, .vtagrd r, .fork n, .join,
      .pvrd r, .pvctx r, .pvclr, .wchk n, .wclr, .discard r, .tpprobe r], KeepsMemory i)

/-- The integer forms of two sources (R112, R114, R115, R117); `v` reads an element per its tag. -/
def Obligations.VectorIntegerResults : Prop :=
  ∀ (f : VFmt) (s : State),
    let t := s.tagOf f.va
    let w := t.width
    let v (x : Nat) : Int := if t.code % 2 = 1 then sint w x else ((x % 2 ^ w : Nat) : Int)
    let lo : Int := if t.code % 2 = 1 then -((2 ^ (w - 1) : Nat) : Int) else 0
    let hi : Int := if t.code % 2 = 1 then ((2 ^ (w - 1) : Nat) : Int) - 1 else ((2 ^ w : Nat) : Int) - 1
    let clamp (x : Int) : Nat := intMod w (if x < lo then lo else if hi < x then hi else x)
    let g := s.gov f w
    let p := s.pvOf f.va ||| secondPv f s ||| g.pv
    let did (i : Instr) (d : Tag) (op : Nat → Nat → Nat) : Prop := Completes i s (fun u => VectorStep s u ∧
      GroupWritten f.vd d g (fun k => op (firstAt f s k) (secondAt f w s k)) p s u)
    1 ≤ t.code → t.code ≤ 8 → SourcesReady f s →
    (DestReady f.vd t s → Apart f t s →
      did (.vadd f) t (fun a b => a + b) ∧ did (.vsub f) t (fun a b => 2 ^ w + a - b) ∧ did (.vand f) t (fun a b => a &&& b) ∧
      did (.vor f) t (fun a b => a ||| b) ∧ did (.vxor f) t (fun a b => a ^^^ b) ∧ did (.vandn f) t (fun a b => a ^^^ (a &&& b)) ∧
      did (.vsll f) t (fun a b => a * 2 ^ (b % w)) ∧ did (.vsrl f) t (fun a b => a / 2 ^ (b % w)) ∧
      did (.vsra f) t (fun a b => intMod w (sint w a / ((2 ^ (b % w) : Nat) : Int))) ∧
      did (.vmin f) t (fun a b => if sint w a ≤ sint w b then a else b) ∧ did (.vmax f) t (fun a b => if sint w b ≤ sint w a then a else b) ∧
      did (.vminu f) t min ∧ did (.vmaxu f) t max ∧ did (.vsadd f) t (fun a b => clamp (v a + v b)) ∧
      did (.vssub f) t (fun a b => clamp (v a - v b)) ∧
      did (.vmul f) t (fun a b => if f.md.getLsbD 3 then clamp (v a * v b) else intMod w (v a * v b)) ∧
      did (.vmulh f) t (fun a b => intMod w (sint w a * sint w b / ((2 ^ w : Nat) : Int))) ∧ did (.vmulhu f) t (fun a b => a * b / 2 ^ w)) ∧
    (DestReady f.vd (unsignedOf t) s → Apart f (unsignedOf t) s →
      did (.vabsd f) (unsignedOf t) (fun a b => (v a - v b).natAbs))

/-- Carries, accumulation and widening (R116, R117, R118, R198). -/
def Obligations.VectorCarryAndProducts : Prop :=
  ∀ (f : VFmt) (s : State),
    let t := s.tagOf f.va
    let d := s.tagOf f.vd
    let w := t.width
    let v (x : Nat) : Int := if t.code % 2 = 1 then sint w x else ((x % 2 ^ w : Nat) : Int)
    let sum (n : Nat) (x : Int) : Nat := if f.md.getLsbD 3 then
        (if t.code % 2 = 1 then intMod n (max (-((2 ^ (n - 1) : Nat) : Int)) (min (((2 ^ (n - 1) : Nat) : Int) - 1) x))
          else intMod n (max 0 (min (((2 ^ n : Nat) : Int) - 1) x)))
      else intMod n x
    let a := firstAt f s
    let b := secondAt f w s
    let g := s.gov f w
    let q := s.pvOf f.va ||| secondPv f s
    let c (k : Nat) : Nat := bitsAt (s.hart.mreg f.vc.toNat).bits k 1
    let md := f.imm.toNat % 8
    let carries (i : Instr) (res : Nat → Nat) (out : Nat → Bool) : Prop := Completes i s (fun u => VectorStep s u ∧
      GroupElems f.vd t g res s u ∧ GroupTagged f.vd t (q ||| g.pv ||| (s.hart.mreg f.vc.toNat).pv) s u ∧
      u.hart.vec.k = s.hart.vec.k ∧ (∀ r, r % 8 ≠ md → u.hart.mreg r = s.hart.mreg r) ∧
      (∀ k < s.vl, (u.hart.mreg md).bits.testBit k =
        if g.act.testBit k then out k else !g.zeroes k && (s.hart.mreg md).bits.testBit k) ∧
      (∀ k, s.vl ≤ k → (u.hart.mreg md).bits.testBit k = (s.hart.mreg md).bits.testBit k))
    1 ≤ t.code → t.code ≤ 8 → SourcesReady f s →
    (DestReady f.vd t s → Apart f t s →
      carries (.vadc f) (fun k => a k + b k + c k) (fun k => decide (2 ^ w ≤ a k + b k + c k)) ∧
      carries (.vsbc f) (fun k => 2 ^ w + 2 ^ w + a k - b k - c k) (fun k => decide (a k < b k + c k))) ∧
    (GroupReady f.vd s → d = t → Apart f t s → Completes (.vmac f) s (fun u => VectorStep s u ∧
      GroupWritten f.vd t g (fun k => sum w (v (elemAt s f.vd t k) + v (a k) * v (b k))) (q ||| g.pv) s u)) ∧
    (t.code ≤ 6 → t.g ≠ 3 → DestReady f.vd (wideTag t) s → s.overlapAny f.vd (wideTag t) f.va = false →
      (f.sb = false → s.overlapAny f.vd (wideTag t) f.vb = false) → Completes (.vwmul f) s (fun u => VectorStep s u ∧
        GroupWritten f.vd (wideTag t) (s.gov f (2 * w)) (fun k => intMod (2 * w) (v (a k) * v (b k))) (q ||| g.pv) s u)) ∧
    ((t.code = 3 ∧ d.code = 5 ∨ t.code = 4 ∧ d.code = 6) → d.g = t.g → GroupReady f.vd s →
      s.holdsElems f.va (2 * s.vl) = true → (f.sb = false → s.holdsElems f.vb (2 * s.vl) = true) → s.overlapAny f.vd d f.va = false →
      (f.sb = false → s.overlapAny f.vd d f.vb = false) → Completes (.vdot16 f) s (fun u => VectorStep s u ∧
        GroupWritten f.vd d (s.gov f 32) (fun k => sum 32 ((if t.code % 2 = 1 then sint 32 (elemAt s f.vd d k)
            else ((elemAt s f.vd d k : Nat) : Int)) + v (a (2 * k)) * v (b (2 * k)) + v (a (2 * k + 1)) * v (b (2 * k + 1))))
          (q ||| g.pv) s u))

/-- Compares, selects and moves (R112, R119, R120, R121). That VEXT and VINS hold their index against the group's elements alone is the
model's reading (log entry 20). -/
def Obligations.VectorComparesAndMoves : Prop :=
  ∀ (f : VFmt) (s : State),
    let t := s.tagOf f.va
    let d := s.tagOf f.vd
    let w := t.width
    let g := s.gov f w
    let b := secondAt f w s
    let cond (c x y : Nat) : Bool := match c with
      | 0 => decide (x = y) | 1 => decide (x ≠ y) | 2 => decide (sint w x < sint w y) | 3 => decide (sint w y ≤ sint w x)
      | 4 => decide (x < y) | 5 => decide (y ≤ x) | 6 => decide (sint w y < sint w x) | 7 => decide (sint w x ≤ sint w y)
      | 8 => decide (y < x) | _ => decide (x ≤ y)
    (1 ≤ t.code → t.code ≤ 8 → SourcesReady f s → f.md.toNat ≤ 9 → Completes (.vcmp f) s (fun u => VectorStep s u ∧
      MaskWritten (f.vd.toNat % 8) g (fun k => cond f.md.toNat (firstAt f s k) (b k)) (s.pvOf f.va ||| secondPv f s ||| g.pv) s u)) ∧
    (GroupReady f.va s → GroupReady f.vb s → s.tagOf f.vb = t → DestReady f.vd t s → s.overlapSrc f.vd t f.va = false →
      s.overlapSrc f.vd t f.vb = false → Completes (.vsel f) s (fun u => VectorStep s u ∧
        GroupWritten f.vd t g (fun k => if (s.hart.mreg f.vc.toNat).bits.testBit k then firstAt f s k else elemAt s f.vb t k)
          (s.pvOf f.va ||| s.pvOf f.vb ||| g.pv ||| (s.hart.mreg f.vc.toNat).pv) s u)) ∧
    (GroupReady f.va s → DestReady f.vd t s → s.overlapSrc f.vd t f.va = false → Completes (.vmv f) s (fun u => VectorStep s u ∧
      GroupWritten f.vd t g (firstAt f s) (s.pvOf f.va ||| g.pv) s u)) ∧
    (GroupReady f.vd s → Completes (.vsplat f) s (fun u => VectorStep s u ∧
      GroupWritten f.vd d (s.gov f d.width) (fun _ => (s.getS f.ss).toNat) (s.getP f.ss ||| (s.gov f d.width).pv) s u)) ∧
    (t.code ≠ 0 → s.groupOk f.va = true →
      let n := if f.sb then (s.getS f.ss).toNat else f.imm.toNat
      let x := if n < capacity w t.count s.level then firstAt f s n else 0
      Completes (.vext f) s (ScalarStep f.vd (if t.code ≤ 8 ∧ t.code % 2 = 1 then BitVec.ofInt 64 (sint w x) else BitVec.ofNat 64 x)
        (s.pvOf f.va ||| (if f.sb then s.getP f.ss else 0) ||| s.ctx) s.ctx s)) ∧
    (d.code ≠ 0 → s.groupOk f.vd = true →
      (f.imm.toNat < capacity d.width d.count s.level → Completes (.vins f) s (fun u => VectorStep s u ∧
        elemAt u f.vd d f.imm.toNat = (s.getS f.ss).toNat % 2 ^ d.width ∧
        (∀ k, k ≠ f.imm.toNat → (k + 1) * d.width ≤ 8192 * s.level * d.count → elemAt u f.vd d k = elemAt s f.vd d k) ∧
        (∀ j < d.count, (u.hart.vreg (f.vd.toNat + j)).tag = d ∧ (u.hart.vreg (f.vd.toNat + j)).dirty = true ∧
          (u.hart.vreg (f.vd.toNat + j)).pv = s.pvOf f.vd ||| s.getP f.ss ||| s.ctx) ∧
        (∀ r < 32, (∀ j < d.count, r ≠ f.vd.toNat + j) → u.hart.vreg r = s.hart.vreg r))) ∧
      (capacity d.width d.count s.level ≤ f.imm.toNat → Completes (.vins f) s (QuietStep s.hart s)))

/-- The mask instructions (R122, R123). -/
def Obligations.MaskInstructionResults : Prop :=
  ∀ (f : VFmt) (s : State),
    let a := s.hart.mreg f.va.toNat
    let b := s.hart.mreg f.vb.toNat
    let did (i : Instr) (res : Nat → Bool) (p : PvSet) : Prop := Completes i s (fun u => VectorStep s u ∧
      MaskWritten f.vd.toNat (everyElement s) res p s u)
    let num (i : Instr) (v : Word) : Prop := Completes i s (ScalarStep f.vd v (a.pv ||| s.vlPv ||| s.ctx) s.ctx s)
    let n := f.imm.toNat % 128
    let fill := if f.imm.getLsbD 7 then s.hart.csr.mshout.toNat % 2 ^ n else 0
    let bits := a.bits % 2 ^ s.vl
    let shifted (i : Instr) (res out : Nat → Bool) : Prop := Completes i s (fun u => HartOnly s u ∧
      MaskWritten (f.vd.toNat % 8) (everyElement s) res (a.pv ||| (if f.imm.getLsbD 7 then s.hart.csrPv 0x007 else 0)) s u ∧
      u.hart = past s { s.hart with vec := u.hart.vec, csr := { s.hart.csr with mshout := u.hart.csr.mshout, pv := u.hart.csr.pv } } ∧
      (∀ j < 64, u.hart.csr.mshout.getLsbD j = (decide (j < n) && out j)) ∧
      u.hart.csrPv 0x007 = (u.hart.mreg (f.vd.toNat % 8)).pv)
    did (.mand f) (fun k => a.bits.testBit k && b.bits.testBit k) (a.pv ||| b.pv) ∧
    did (.mor f) (fun k => a.bits.testBit k || b.bits.testBit k) (a.pv ||| b.pv) ∧
    did (.mxor f) (fun k => a.bits.testBit k != b.bits.testBit k) (a.pv ||| b.pv) ∧
    did (.mandn f) (fun k => a.bits.testBit k && !b.bits.testBit k) (a.pv ||| b.pv) ∧
    did (.mnot f) (fun k => !a.bits.testBit k) a.pv ∧ did (.mset f) (fun _ => f.imm.getLsbD 0) 0 ∧
    shifted (.mshl f) (fun k => (bits * 2 ^ n + fill).testBit k) (fun j => (bits * 2 ^ n + fill).testBit (s.vl + j)) ∧
    shifted (.mshr f) (fun k => (bits + fill * 2 ^ s.vl).testBit (k + n)) (fun j => (bits + fill * 2 ^ s.vl).testBit j) ∧
    num (.mpopc f) (BitVec.ofNat 64 ((List.range s.vl).countP fun k => a.bits.testBit k)) ∧
    ((∀ k < s.vl, a.bits.testBit k = false) → num (.mfirst f) 0xFFFFFFFFFFFFFFFF ∧ num (.mlast f) 0xFFFFFFFFFFFFFFFF) ∧
    (∀ k < s.vl, a.bits.testBit k = true → ((∀ j < k, a.bits.testBit j = false) → num (.mfirst f) (BitVec.ofNat 64 k)) ∧
      ((∀ j < s.vl, k < j → a.bits.testBit j = false) → num (.mlast f) (BitVec.ofNat 64 k))) ∧
    Completes (.mbit f) s (ScalarStep f.vd
      (if (s.getS f.ss).toNat < 8192 * s.level ∧ a.bits.testBit (s.getS f.ss).toNat = true then 1 else 0)
      (a.pv ||| s.getP f.ss ||| s.ctx) s.ctx s)

/-- Vector floating-point arithmetic (R173, R179, R180, R186-R189, R192). The exact values are those of the number functions of
`Flags`; each is rounded once. An overflow under SR gives an infinity whatever SRSTATE is: the model's reading (log entry 78). -/
def Obligations.VectorFloatResults : Prop :=
  ∀ (f : VFmt) (s : State),
    let t := s.tagOf f.va
    let w := t.width
    let fm := s.fmtAt f.va
    let g := s.gov f w
    let m := s.rmode f.md
    let a := firstAt f s
    let b := secondAt f w s
    let c := elemAt s f.vc t
    let sig (x : Nat) (st : FpSt) : FpSt := if fm.isSig x then st.raise flagNV else st
    let one (i : Instr) (op : FVal → FpSt → Nat × FpSt) : Prop := Completes i s (FpStep f.vd t g
      (fun k st => op (fm.decode (a k)) (sig (a k) st)) (s.pvOf f.va ||| g.pv) s)
    let two (i : Instr) (op : FVal → FVal → FpSt → Nat × FpSt) : Prop := Completes i s (FpStep f.vd t g
      (fun k st => op (fm.decode (a k)) (fm.decode (b k)) (sig (b k) (sig (a k) st))) (s.pvOf f.va ||| secondPv f s ||| g.pv) s)
    let three (i : Instr) (op : FVal → FVal → FVal → FpSt → Nat × FpSt) : Prop := Completes i s (FpStep f.vd t g
      (fun k st => op (fm.decode (a k)) (fm.decode (b k)) (fm.decode (c k)) (sig (c k) (sig (b k) (sig (a k) st))))
      (s.pvOf f.va ||| secondPv f s ||| s.pvOf f.vc ||| g.pv) s)
    let rounded (x : FVal × Nat) (st : FpSt) : Nat × FpSt := (st.raise x.2).round fm m false x.1
    let down := decide (m = 2)
    let exact (x : FVal) (st : FpSt) : Nat × FpSt := ((fm.round ⟨0, 0, false⟩ x).1, st)
    9 ≤ t.code → t.code ≤ 12 → DestReady f.vd t s → GroupReady f.va s → s.overlapSrc f.vd t f.va = false →
    (one (.vfsqrt f) (fun x => rounded (sqrtVal x)) ∧ one (.vfrcp f) (fun x => rounded (divVal (fint 1) x)) ∧
      one (.vfrsq f) (fun x => rounded (rsqrtVal x)) ∧ one (.vfexp2 f) (fun x => rounded (exp2Val x)) ∧
      one (.vflog2 f) (fun x => rounded (log2Val x)) ∧ one (.vfabs f) (fun x => exact (x.withSign false)) ∧
      one (.vfneg f) (fun x => exact x.negate)) ∧
    (SourcesReady f s → Apart f t s → two (.vfadd f) (fun x y => rounded (addVal down x y)) ∧
      two (.vfsub f) (fun x y => rounded (addVal down x y.negate)) ∧ two (.vfmul f) (fun x y => rounded (mulVal x y)) ∧
      two (.vfdiv f) (fun x y => rounded (divVal x y)) ∧ two (.vfmin f) (fun x y => exact (minVal x y)) ∧
      two (.vfmax f) (fun x y => exact (maxVal x y))) ∧
    (SourcesReady f s → Apart f t s → GroupReady f.vc s → s.tagOf f.vc = t → s.overlapSrc f.vd t f.vc = false →
      three (.vfma f) (fun x y z => rounded (fmaVal down x y z)) ∧ three (.vfms f) (fun x y z => rounded (fmaVal down x y z.negate)) ∧
      three (.vfnma f) (fun x y z => rounded (fmaVal down x.negate y z)) ∧
      three (.vfnms f) (fun x y z => rounded (fmaVal down x.negate y z.negate)))

/-- Compares, classes and conversions of floating point (R190, R191, R193-R197). An overflow under SR is as log entry 78 says. -/
def Obligations.VectorFloatComparesAndConversions : Prop :=
  ∀ (f : VFmt) (s : State),
    let t := s.tagOf f.va
    let w := t.width
    let fm := s.fmtAt f.va
    let a := firstAt f s
    let b := secondAt f w s
    let g := s.gov f w
    let sig (x : Nat) (st : FpSt) : FpSt := if fm.isSig x then st.raise flagNV else st
    let md := f.vd.toNat % 8
    let x := tagImm f.imm.toNat
    let sat := f.md.getLsbD 3
    let converts (i : Instr) (d : Tag) (mode : Nat) (sat : Bool) (b : State) : Prop :=
      DestReady f.vd d s → s.overlapSrc f.vd d f.va = false → Completes i s (FpStep f.vd d (s.gov f (max w d.width))
        (fun k st => convert t.code w d.code d.width mode sat (a k) st) (s.pvOf f.va ||| g.pv) b)
    let cmp (k : Nat) (st : FpSt) : Nat × FpSt :=
      let st := sig (b k) (sig (a k) st)
      let quiet := 2 ≤ f.md.toNat ∧ f.md.toNat ≤ 5 ∧ ((fm.decode (a k)).isNan = true ∨ (fm.decode (b k)).isNan = true)
      (0, if quiet then st.raise flagNV else st)
    (9 ≤ t.code → t.code ≤ 12 → SourcesReady f s → Completes (.vfcmp f) s (fun u =>
      MaskWritten md g (fun k => fcmpCond f.md.toNat (fm.decode (a k)) (fm.decode (b k))) (s.pvOf f.va ||| secondPv f s ||| g.pv) s u ∧
      FlagsJoined (before g.act cmp s.fpStart s.vl) (u.hart.mreg md).pv s u)) ∧
    (GroupReady f.va s →
      (9 ≤ t.code → t.code ≤ 12 → let d : Tag := ⟨if w = 16 then 4 else if w = 32 then 6 else 8, t.g, 0⟩
        DestReady f.vd d s → s.overlapSrc f.vd d f.va = false → Completes (.vfclass f) s (FpStep f.vd d g
          (fun k st => (2 ^ fm.classOf (a k), st)) (s.pvOf f.va ||| g.pv) s)) ∧
      (isCvt t.code = true → x.ok = true → isCvt x.ty = true → (sat = true → isInt x.ty = true ∨ x.ty = 14) →
        converts (.vcvt f) x.tag (s.rmode f.md) sat (setFsub x.sub s)) ∧
      (widenType t.code ≠ 0 → t.g ≠ 3 → converts (.vwiden f) ⟨BitVec.ofNat 5 (widenType t.code), t.g + 1, 0⟩ 0 false s) ∧
      (∀ d, d = narrowType t.code (f.imm.getLsbD 0) →
        d ≠ 0 → (sat = true → isInt d = true ∨ d = 14) →
        converts (.vnarrow f) ⟨BitVec.ofNat 5 d, if t.g = 0 then 0 else t.g - 1, 0⟩ (s.rmode f.md) sat s) ∧
      (isScaled t.code = true → x.ok = true → 9 ≤ x.ty → x.ty ≤ 12 → beyondScale (s.govern f.gm).1 t.bl.toNat = false →
        DestReady f.vd x.tag s → s.overlapSrc f.vd x.tag f.va = false → Completes (.vscale f) s (FpStep f.vd x.tag
          (s.gov f (max w x.tag.width)) (fun k st => fpRound ((Machine.fmtOf x.ty).getD fp64) (s.rmode f.md)
            (scaled fm (a k) (container (s.hart.kreg f.vc.toNat) (k / 2 ^ t.bl.toNat))) st)
          (s.pvOf f.va ||| (s.hart.kreg f.vc.toNat).pv ||| g.pv) s)) ∧
      (9 ≤ t.code → t.code ≤ 12 → x.ok = true → isScaled x.ty = true → (sat = true → x.ty = 14) →
        beyondScale (s.govern f.gm).1 x.bl = false → DestReady f.vd x.tag s → s.overlapSrc f.vd x.tag f.va = false →
        let base := setFsub x.sub s
        let old := s.hart.kreg f.vc.toNat
        let q := quantScales fm a (s.govern f.gm).1 (if x.ty = 13 then 448 else if x.ty = 14 then 57344 else 6) x.bl s.vl 0
          (s.vl / 2 ^ x.bl + 1) (old.bits, 0)
        let eff (k : Nat) (st : FpSt) : Nat × FpSt :=
          let v := divVal (fm.decode (a k)) (e4m5.decode (container ⟨q.1, old.pv⟩ (k / 2 ^ x.bl)))
          ((sig (a k) st).raise v.2).round ((Machine.fmtOf x.ty).getD e2m1) (s.rmode f.md) sat v.1
        let g2 := s.gov f (max w x.tag.width)
        Completes (.vquant f) s (fun u =>
          GroupElems f.vd x.tag g2 (fun k => (eff k (before g2.act eff (s.fpStart.raise q.2) k)).1) s u ∧
          GroupTagged f.vd x.tag (s.pvOf f.va ||| g.pv) s u ∧ u.hart.vec.m = s.hart.vec.m ∧
          u.hart.kreg f.vc.toNat = ⟨q.1, old.pv ||| (u.hart.vreg f.vd.toNat).pv⟩ ∧
          (∀ r, r % 8 ≠ f.vc.toNat % 8 → u.hart.kreg r = s.hart.kreg r) ∧
          FlagsJoined (before g2.act eff (s.fpStart.raise q.2) s.vl) (u.hart.vreg f.vd.toNat).pv base u)))

/-- Reductions and scans (R199, R200, R201, R202). The integer ones are written out by exact arithmetic; the floating-point ones
by the shared definition of a segment's value. How many elements vd must hold, and signalling NaN elements, are as the model reads them
(log entries 16 and 23). -/
def Obligations.ReductionsAndScans : Prop :=
  ∀ (f : VFmt) (s : State),
    let t := s.tagOf f.va
    let d := s.tagOf f.vd
    let w := t.width
    let op := f.imm.toNat % 8
    let a := firstAt f s
    let act := (s.govern f.gm).1
    let v (x : Nat) : Int := if t.code % 2 = 1 then sint w x else ((x % 2 ^ w : Nat) : Int)
    let all : Nat := 2 ^ w - 1
    let clamp (x : Int) : Int := if t.code % 2 = 1 then max (-((2 ^ (w - 1) : Nat) : Int)) (min (((2 ^ (w - 1) : Nat) : Int) - 1) x)
      else max 0 (min ((all : Nat) : Int) x)
    let combine (l : List Nat) : Nat := match op with
      | 0 => intMod w (if f.md.getLsbD 3 then clamp (l.map v).sum else (l.map v).sum)
      | 1 => l.foldl (· &&& ·) all | 2 => l.foldl (· ||| ·) 0 | 3 => l.foldl (· ^^^ ·) 0
      | 4 => intMod w ((l.map (sint w)).foldl min (((2 ^ (w - 1) : Nat) : Int) - 1))
      | 5 => intMod w ((l.map (sint w)).foldl max (-((2 ^ (w - 1) : Nat) : Int)))
      | 6 => l.foldl min all | _ => l.foldl max 0
    let mask := s.segBits.1
    let sp := s.segBits.2
    (GroupReady f.va s → s.groupOk f.vd = true → s.holdsElems f.vd s.vl = true → d = t → 1 ≤ t.code → t.code ≤ 8 →
      (s.overlapAny f.vd t f.va = false → Completes (.vred f) s (fun u => VectorStep s u ∧
        ListWritten f.vd t (s.segments.map fun g => combine ((((List.range g.2).map (g.1 + ·)).filter (act.testBit ·)).map a))
          (s.pvOf f.va ||| (s.govern f.gm).2 ||| sp) s u)) ∧
      (s.overlapSrc f.vd t f.va = false → Completes (.vscan f) s (fun u => VectorStep s u ∧
        GroupWritten f.vd t (s.gov f w)
          (fun k => combine (((List.range (k + 1)).filter fun j => act.testBit j && segOf mask j == segOf mask k).map a))
          (s.pvOf f.va ||| (s.govern f.gm).2 ||| sp) s u))) ∧
    (tagReason (s.vfredCheck f) s = none → s.overlapAny f.vd d f.va = false →
        (f.imm.getLsbD 4 = true → f.sb = false → s.overlapAny f.vd d f.vb = false) →
      Completes (.vfred f) s (fun u => ListWritten f.vd d ((s.fred f).segs act 0 s.segments s.fpStart).1
          (s.pvOf f.va ||| (s.govern f.gm).2 ||| sp ||| s.startPv f) s u ∧
        FlagsJoined ((s.fred f).segs act 0 s.segments s.fpStart).2 (u.hart.vreg f.vd.toNat).pv s u)) ∧
    (tagReason (s.fredReads f) s = none → s.overlapSrc f.vd d f.va = false →
        (f.imm.getLsbD 4 = true → f.sb = false → s.overlapSrc f.vd d f.vb = false) →
      let r := s.fred f
      let g := s.gov f (max w d.width)
      let tree := op = 0 ∧ f.imm.getLsbD 3 = false
      let eff (k : Nat) (x : FpSt × Nat × Option Nat) : Nat × (FpSt × Nat × Option Nat) :=
        let j := segOf mask k
        if tree then
          let y := r.value act j (segFirst mask k) (k + 1 - segFirst mask k) x.1
          (y.1, (y.2, x.2))
        else
          let w := if x.2.1 = j + 1 then (x.2.2, x.1) else r.starts j x.1
          let y := toAcc r.fs r.fd (r.get k) w.2
          let z := runStep r.fd op r.mode w.1 y.1 y.2
          (z.1, (z.2, j + 1, some z.1))
      Completes (.vfscan f) s (fun u =>
        GroupWritten f.vd d g (fun k => (eff k (before act eff (s.fpStart, 0, none) k)).1)
          (s.pvOf f.va ||| g.pv ||| sp ||| s.startPv f) s u ∧
        FlagsJoined (before act eff (s.fpStart, 0, none) s.vl).1 (u.hart.vreg f.vd.toNat).pv s u)) ∧
    (1 ≤ d.code → d.code ≤ 8 → s.groupOk f.vd = true → s.holdsElems f.vd s.vl = true →
      Completes (.vsegpack f) s (fun u => VectorStep s u ∧ ListWritten f.vd d
        (s.segments.map fun g => if f.imm.getLsbD 0 then ((List.range g.2).countP fun k => act.testBit (g.1 + k)) else g.1)
        ((s.govern f.gm).2 ||| sp) s u))

/-- Permutation and packed pixels (R204, R205, R206). -/
def Obligations.PermutationResults : Prop :=
  ∀ (f : VFmt) (s : State),
    let t := s.tagOf f.va
    let d := s.tagOf f.vd
    let a := firstAt f s
    let act := (s.govern f.gm).1
    let gp := (s.govern f.gm).2
    let g := s.gov f d.width
    let n := if f.sb then (s.getS f.ss).toNat else f.imm.toNat
    let np : PvSet := if f.sb then s.getP f.ss else 0
    let or0 (k : Nat) : Nat := if k < capacity t.width t.count s.level then a k else 0
    let kept := d.ty = t.ty ∧ d.bl = t.bl ∧ isPerm t.code = true ∧ GroupReady f.va s ∧ s.groupOk f.vd = true ∧
      s.holdsElems f.vd s.vl = true ∧ s.overlapAny f.vd d f.va = false
    let did (i : Instr) (g : Gov) (res : Nat → Nat) (p : PvSet) : Prop := Completes i s (fun u => VectorStep s u ∧
      GroupWritten f.vd d g res p s u)
    let lists (i : Instr) (out : List Nat) (p : PvSet) : Prop := Completes i s (fun u => VectorStep s u ∧
      ListWritten f.vd d out p s u)
    (kept →
      did (.vslidedn f) g (fun k => if k + n < s.vl then a (k + n) else 0) (s.pvOf f.va ||| np ||| gp) ∧
      did (.vbcast f) g (fun _ => or0 n) (s.pvOf f.va ||| np ||| gp) ∧
      lists (.vunzip f) ((List.range ((s.vl + 1 - f.imm.toNat % 2) / 2)).map fun k => a (2 * k + f.imm.toNat % 2)) (s.pvOf f.va) ∧
      lists (.vcompress f) (((List.range s.vl).filter fun k => act.testBit k).map a) (s.pvOf f.va ||| gp) ∧
      Completes (.vslideup f) s (fun u => VectorStep s u ∧ GroupTagged f.vd d (s.pvOf f.va ||| np ||| gp) s u ∧
        u.hart.vec.m = s.hart.vec.m ∧ u.hart.vec.k = s.hart.vec.k ∧
        (∀ k < s.vl, elemAt u f.vd d k = if k < n then elemAt s f.vd d k else if act.testBit k then a (k - n)
          else if g.zeroes k then 0 else elemAt s f.vd d k) ∧
        (∀ k, s.vl ≤ k → (k + 1) * d.width ≤ 8192 * s.level * d.count → elemAt u f.vd d k = elemAt s f.vd d k))) ∧
    (kept → GroupReady f.vb s → s.overlapAny f.vd d f.vb = false →
      (isInt (s.tagOf f.vb).code = true → did (.vperm f) (s.gov f (max d.width (s.tagOf f.vb).width))
        (fun k => or0 (elemAt s f.vb (s.tagOf f.vb) k)) (s.pvOf f.va ||| s.pvOf f.vb ||| gp)) ∧
      (s.tagOf f.vb = t → s.holdsElems f.vd (2 * s.vl) = true → lists (.vzip f)
        ((List.range (2 * s.vl)).map fun k => if k % 2 = 0 then a (k / 2) else elemAt s f.vb t (k / 2)) (s.pvOf f.va ||| s.pvOf f.vb))) ∧
    (GroupReady f.va s → s.groupOk f.vd = true → s.holdsElems f.vd s.vl = true → s.overlapAny f.vd d f.va = false →
      let sh := f.imm.toNat % 32
      let wide := s.gov f (max t.width d.width)
      (isPixel t.code = true → isPixWide d.code = true → sh ≤ d.width - t.width →
        did (.vunpk f) wide (fun k => a k * 2 ^ sh) (s.pvOf f.va ||| gp)) ∧
      (isPixWide t.code = true → isPixel d.code = true → sh ≤ t.width - 1 →
        did (.vpackpx f) wide (fun k => if f.md.getLsbD 3 then min (a k / 2 ^ sh) (2 ^ d.width - 1) else a k / 2 ^ sh)
          (s.pvOf f.va ||| gp)))

/-- Vector loads and stores (R124-R129, R207-R209), at the state that translation leaves: `vld`, `vlds`, `vldx`, `vldxo`, `vst`,
`vsts`, `vstx` and `vstxo` complete. The runs are those of the active elements; `gather` puts each run of bytes at its element's place.
That VST keeps ascending order where elements meet is log entry 65. -/
def Obligations.VectorLoadsAndStores : Prop :=
  ∀ (f : VMFmt) (s u : State) (l : List PRun),
    let d := s.tagOf f.vd
    let els := activeOf (s.govern f.gm).1 s.vl
    let byte := isByteWidth d.width = true
    let index := GroupReady f.sb s ∧ isInt (s.tagOf f.sb).code = true
    let apart := s.overlapSrc f.vd d f.sb = false
    let unit := s.unitShape f
    let strided := s.strideShape f
    let indexed := s.indexShape f
    let reads (sh : Shape) : Prop := sh.bad els = none ∧ translateRuns sh.via .read 2 true (sh.runs els) s = .ok (l, u)
    let loaded (sh : Shape) (t : State) : Prop :=
      let x := u.addCtx sh.flow
      let b := if f.aqrl then acquireRuns f.scope.toNat l x else x
      VectorStep b t ∧ (byte → ∀ r ∈ l, bitsAt (gather b.loadNum l) (r.ix * d.width) d.width = b.loadNum r.pa (d.width / 8)) ∧
      GroupWritten f.vd d (b.govM f sh.wg) (fun k => bitsAt (gather b.loadNum l) (k * d.width) d.width)
        ((s.govern f.gm).2 ||| runsPv b.loadPv l) b t
    let writes (sh : Shape) : Prop :=
      let b := u.addCtx sh.flow
      sh.bad els = none ∧ translateRuns sh.via .write 3 false (sh.runs els) s = .ok (l, u) ∧ (f.aqrl = true → GateOpen s) ∧
      MemoryCanonical b ∧ PlainRuns l b ∧ checkRuns (b.pvOf f.vd ||| (b.govern f.gm).2 ||| b.vlPv ||| b.ctx) 3 b l = none
    let stored (sh : Shape) (ordered : Bool) (t : State) : Prop :=
      let b := u.addCtx sh.flow
      MemoryStep b t ∧ ∃ q : List PRun, q.Perm l ∧ (ordered = true → q = l) ∧
        ∀ a, t.homeByte a = if b.zeroLine a then 0 else storedByte q (b.imgOf f.vd) (b.place a) (b.homeByte a)
    GroupReady f.vd s →
    (reads unit → Completes (.vld f) s (loaded unit)) ∧
    (reads strided → byte → Completes (.vlds f) s (loaded strided)) ∧
    (reads indexed → byte → index → apart → Completes (.vldx f) s (loaded indexed)) ∧
    (reads indexed → byte → index → apart → Completes (.vldxo f) s (loaded indexed)) ∧
    (writes unit → (d.width % 8 = 0 ∨ f.gm = 0) → Completes (.vst f) s (stored unit true)) ∧
    (writes strided → byte → Completes (.vsts f) s (stored strided false)) ∧
    (writes indexed → byte → index → Completes (.vstx f) s (stored indexed false)) ∧
    (writes indexed → byte → index → Completes (.vstxo f) s (stored indexed true))

/-- The vector atomics (R210, R358, R477, R478): on own memory; their requests outside the package; and how those end. Which order an
unordered form takes where elements meet is free (log entry 7). -/
def Obligations.VectorAtomics : Prop :=
  ∀ (f : VMFmt) (s : State),
    let form (o : Bool) (k : Nat) : Instr := ((if o then [Instr.vamooadd f, .vamooand f, .vamooor f, .vamooxor f, .vamoomin f, .vamoomax f,
        .vamoominu f, .vamoomaxu f, .vamooswap f]
      else [Instr.vamoadd f, .vamoand f, .vamoor f, .vamoxor f, .vamomin f, .vamomax f, .vamominu f, .vamomaxu f, .vamoswap f])[k]?).getD .nop
    (∀ (u : State) (l : List PRun),
      let d := s.tagOf f.vd
      let w := d.width
      let n := w / 8
      let sh := s.indexShape f
      let els := activeOf (s.govern f.gm).1 s.vl
      let b := u.addCtx sh.flow
      let lt (x y : Nat) : Prop := sint w x < sint w y
      let did (o : Bool) (k : Nat) (op : Nat → Nat → Nat) : Prop := Completes (form o k) s (fun t => MemoryStep b t ∧
        ∃ q : List PRun, q.Perm l ∧ (o = true → q = l) ∧
          (∀ r ∈ l, t.homeNum r.pa n =
            (q.filter fun x => x.pa == r.pa).foldl (fun old x => op old (bitsAt (b.imgOf f.vd) (x.ix * w) w) % 2 ^ w) (b.homeNum r.pa n)) ∧
          (∀ a, (∀ r ∈ l, b.place a < r.pa ∨ r.pa + n ≤ b.place a) → t.homeByte a = b.homeByte a))
      let far := (l.filter fun r => u.isRemote r.pa).map PRun.pa
      GroupReady f.vd s → GroupReady f.sb s → 5 ≤ d.code → d.code ≤ 8 → isInt (s.tagOf f.sb).code = true → (f.aqrl = true → GateOpen s) →
      sh.bad els = none → translateRuns sh.via .write 4 true (sh.runs els) s = .ok (l, u) → s.hart.vreq = none → u.dry = false →
      checkRuns (b.pvOf f.vd ||| b.pvOf f.sb ||| (b.govern f.gm).2 ||| b.vlPv ||| b.ctx) 4 b l = none →
      (far = [] → MemoryCanonical b → PlainRuns l b → ∀ o : Bool,
        did o 0 (fun x y => x + y) ∧ did o 1 (fun x y => x &&& y) ∧ did o 2 (fun x y => x ||| y) ∧
        did o 3 (fun x y => x ^^^ y) ∧ did o 4 (fun x y => if lt y x then y else x) ∧
        did o 5 (fun x y => if lt x y then y else x) ∧ did o 6 min ∧ did o 7 max ∧ did o 8 (fun _ y => y)) ∧
      (far ≠ [] → ∀ (o : Bool), ∀ k < 9, ((∃ r ∈ l, u.inHost r.pa = true) → k = 0 ∨ k = 8) →
        Completes (form o k) s (fun t => t.hart.status = .waiting .remote ∧ t.hart.pc = s.hart.pc ∧ ∃ q, t.hart.vreq = some q ∧
          q.total = l.length ∧ (o = false → (q.out.map fun x => x.r.addr).Perm far) ∧ (o = true → (q.out.map fun x => x.r.addr) = far.take 1)))) ∧
    (∀ (q : VReq) (o : Bool), s.hart.vreq = some q → ∀ k < 9,
      ((∀ x ∈ q.out, x.r.failed = none) → (∃ x ∈ q.out, x.r.answer = none) → exec (form o k) s = .next (waitFor .remote s)) ∧
      ((∀ x ∈ q.out, x.r.failed = none ∧ x.r.answer ≠ none) → q.todo = [] →
        Completes (form o k) s (fun t => t.hart = past s { s.hart with vreq := none } ∧ HartOnly s t)) ∧
      (∀ (l l' : List Flight) (x : Flight) (e : Nat), q.out = l ++ x :: l' → x.r.failed = some e → (∀ y ∈ l, y.r.failed = none) →
        (∀ y ∈ q.out, y.r.failed ≠ none ∨ y.r.answer ≠ none) →
        exec (form o k) s = .next (vtrap ⟨20, x.info, e, 4⟩ q.word { s with hart := { s.hart with vreq := none } })))

/-- Scale registers in memory (R211), and watched vector loads (R131, R447). STRIDE of a packed width, and positions of a footprint that
are masked off in the host window, are the model's choice (log entry 65). -/
def Obligations.ScaleAndWatchedVectorAccess : Prop :=
  (∀ (f : VMFmt) (s u : State) (l : List PRun),
    let base := s.getS f.sa + f.imm.signExtend 64
    let r := f.vd.toNat % 8
    let x := u.addCtx (s.getP f.sa)
    let b := if f.aqrl then acquireRuns f.scope.toNat l x else x
    base.toNat % 2 = 0 →
    (translateRuns .unit .read 2 true (scaleRuns base) s = .ok (l, u) → Completes (.kld f) s (fun t => VectorStep b t ∧
      (∀ c, l.length = 256 → ∀ h : c < l.length, bitsAt (t.hart.kreg r).bits (16 * c) 16 = b.loadNum l[c].pa 2 % 512) ∧
      (t.hart.kreg r).pv = runsPv b.loadPv l ||| s.getP f.sa ||| b.ctx ∧ t.hart.vec.v = b.hart.vec.v ∧ t.hart.vec.m = b.hart.vec.m ∧
      (∀ q, q % 8 ≠ r → t.hart.kreg q = b.hart.kreg q))) ∧
    (translateRuns .unit .write 3 false (scaleRuns base) s = .ok (l, u) → (f.aqrl = true → GateOpen s) → MemoryCanonical x → PlainRuns l x →
      checkRuns ((x.hart.kreg r).pv ||| s.getP f.sa ||| x.ctx) 3 x l = none → Completes (.kst f) s (fun t => MemoryStep x t ∧
        ∀ a, t.homeByte a = if x.zeroLine a then 0 else storedByte l ((x.hart.kreg r).bits &&& scaleMask) (x.place a) (x.homeByte a)))) ∧
  (∀ (f : VMFmt) (s u : State) (l : List PRun) (i : Instr) (sh : Shape) (stride : Word) (ready : Prop),
    let d := s.tagOf f.vd
    let els := activeOf (s.govern f.gm).1 s.vl
    let b := u.addCtx sh.flow
    let loaded (read : Nat → Nat → Nat) (pv : Nat → PvSet) (t : State) : Prop := GroupWritten f.vd d (b.govM f sh.wg)
      (fun k => bitsAt (gather read l) (k * d.width) d.width) ((s.govern f.gm).2 ||| runsPv pv l) b t
    (i, sh, stride, ready) ∈ [(Instr.vwld f, s.unitShape f, BitVec.ofNat 64 (d.width / 8), True),
      (.vwlds f, s.strideShape f, s.getS f.sb, isByteWidth d.width = true)] → ready → Allowed i s → GroupReady f.vd s →
    sh.bad els = none → translateRuns sh.via .read 5 true (sh.runs els) s = .ok (l, u) →
    (s.vl = 0 ∨ (∃ r ∈ l, u.inHost r.pa = true) → b.vl = s.vl → Completes i s (fun t => VectorStep b t ∧ loaded b.loadNum b.loadPv t)) ∧
    (s.vl ≠ 0 → b.vl = s.vl → (∀ r ∈ l, u.inHost r.pa = false) → 32 ≤ u.hart.watch.length → Completes i s (fun t => loaded b.loadNum b.loadPv t ∧
      Passed b t ∧ HartOnly b t ∧ t.hart.watch = b.hart.watch ∧ t.hart.csr.wfull = if b.hart.csr.wfull = 0xFFFFFFFFFFFFFFFF
        then b.hart.csr.wfull else b.hart.csr.wfull + 1)) ∧
    (s.vl ≠ 0 → b.vl = s.vl → (∀ r ∈ l, u.inHost r.pa = false) → u.hart.watch.length < 32 → Completes i s (fun t => Passed b t ∧
      t.hart.csr.wfull = b.hart.csr.wfull ∧ t.hart.s = b.hart.s ∧
      (let v := (footprint sh.via (sh.runs (List.range s.vl)) b).2
       GroupWritten f.vd d (v.govM f sh.wg) (fun k => bitsAt (gather v.watchNum l) (k * d.width) d.width)
         ((s.govern f.gm).2 ||| runsPv v.watchPv l) v t) ∧
      ∃ e, t.hart.watch = (footprint sh.via (sh.runs (List.range s.vl)) b).2.hart.watch ++ [e] ∧ e.base = sh.addr 0 ∧ e.stride = stride ∧
        e.count = s.vl ∧ e.width = (d.width + 7) / 8 ∧ e.state = .pending ∧ e.pv = 0)))

/-- Channels (R248-R261). Handles are read by `State.handle` (R255, R256). The model's choices here: a record is found by the physical
address of its descriptor, and CHSTAT's sb is looked at once the handle has passed (log entry 73); the answer of CHWAIT where no branch
counts is a free value (log entry 1). -/
def Obligations.ChannelForms : Prop :=
  ∀ (f : RFmt) (s u v : State),
    let sp := s.getP f.sa
    (∀ (pa i : Nat) (l : List Nat),
      let a := s.getS f.sa
      let d := Descr.of (u.loadNum pa 64)
      let c := (v.chanAt pa).getD (d.chan pa l s.hart.csr.ptroot)
      let sel := (s.getS f.sb).toNat
      let opened (t : State) : Prop := Wrote f.sd (BitVec.ofNat 64 (sel * 4096 + i)) (sp ||| s.getP f.sb ||| v.ctx ||| u.loadPv pa) v t ∧
        Passed v t ∧ t.mem = v.mem ∧ ∃ e ∈ t.core.ends, e.idx = i ∧ e.end_ = sel ∧ e.chan = pa
      Allowed (.chopen f) s → a.toNat % 64 = 0 → access a 64 .read 2 true s = .ok pa u → d.ok s.roster s.coreInPart = true →
      ringPages d.ring ((d.ring.toNat % 65536 + d.nslot * d.slotl * 128 + 65535) / 65536) (u.addCtx sp) = some (l, v) →
      (∀ r, v.chanAt pa = some r → r.desc = d.num) → v.freeEnd = some i → sel ≤ d.nbr →
      (sel = 0 → c.prod = v.core.num → c.sendOpen = false → Completes (.chopen f) s (fun t => opened t ∧
        ∃ r, t.chanAt pa = some r ∧ r.sendOpen = true)) ∧
      (∀ b frames, 1 ≤ sel → c.branch (sel - 1) = some b → b.core = v.core.num → b.isOpen = false →
        takeFrames b.core v (b.edepth * c.slotl) (v.heldFrames (b.core / 40)) = some frames →
        Completes (.chopen f) s (fun t => opened t ∧ ∃ r x, t.chanAt pa = some r ∧ r.branch (sel - 1) = some x ∧ x.isOpen = true ∧
          x.opened = true ∧ x.frames = frames))) ∧
    (∀ (e : EndEntry) (c : Chan), s.handle (s.getS f.sa) = some (e, c) →
      (Allowed (.chclose f) s →
        (e.end_ = 0 → c.published ≠ c.fills → exec (.chclose f) s = .next (waitFor .chan s)) ∧
        (e.end_ ≠ 0 ∨ c.published = c.fills → Completes (.chclose f) s (fun t => Passed s t ∧ t.hart.s = s.hart.s ∧
          (e.end_ = 0 → t.mem = s.mem) ∧
          (∀ x, 1 ≤ e.end_ → c.branch (e.end_ - 1) = some x → MemoryCanonical s → ∀ a,
            t.homeByte a = if x.frames.contains (s.place a / 65536) then 0 else s.homeByte a) ∧
          (∀ x ∈ t.core.ends, x.idx ≠ e.idx) ∧ (∀ x ∈ s.core.ends, x.idx ≠ e.idx → x ∈ t.core.ends) ∧
          (e.end_ = 0 → ∀ r, t.chanAt e.chan = some r → r.sendClosed = true ∧ r.sendOpen = false) ∧
          (1 ≤ e.end_ → ∀ r x, t.chanAt e.chan = some r → r.branch (e.end_ - 1) = some x → x.isOpen = false ∧ x.closed = true)))) ∧
      (Allowed (.chsend f) s → e.end_ = 0 → (s.getS f.sc).toNat < 6 → GroupReady f.sb s → isPerm (s.tagOf f.sb).code = true →
        let x := s.addCtx sp
        let p := x.pvOf f.sb ||| x.vlPv ||| x.getP f.sc ||| x.segBits.2 ||| x.ctx
        let toks := sendToks x f.sb (s.getS f.sc).toNat
        let w := (releaseAt c.scope (c.key / 128) x).mapHart fun h => { h with send := some ⟨toks, p⟩ }
        ringCheck c p x = none → GateOpen s → s.hart.send = none → 1 ≤ c.slotl → sendRuns c.key p (toks.length + 1) toks w = (none, u) →
        Completes (.chsend f) s (fun t => Passed s t ∧ t.hart.s = s.hart.s ∧ t.hart.vec = s.hart.vec ∧ t.ctx = s.ctx ||| sp ∧ t.mem = u.mem ∧
          ∀ r, t.chanAt c.key = some r → r.fills = c.fills + (toks.length + 15 * c.slotl - 1) / (15 * c.slotl))) ∧
      (Allowed (.chrecv f) s → e.end_ ≠ 0 → GroupReady f.sd s → isPerm (s.tagOf f.sd).code = true →
        let d := s.tagOf f.sd
        let cap := capacity d.width d.count s.level
        ∀ kind n img, recvToks c.key (e.end_ - 1) cap d.width (cap + 2) (s.imgOf f.sd) s = .ok (kind, n, img, u) →
        Completes (.chrecv f) s (fun t => t.vl = n ∧ (f.sb ≠ 0 → t.getS f.sb = BitVec.ofNat 64 kind) ∧ t.vlPv = (t.hart.vreg f.sd.toNat).pv ∧
          (∀ r, r ≠ f.sb → t.getS r = u.getS r) ∧ Passed s t ∧ t.mem = u.mem ∧
          (∀ k, (k + 1) * d.width ≤ 8192 * s.level * d.count → elemAt t f.sd d k = bitsAt img (k * d.width) d.width) ∧
          (∀ r < 32, (∀ j < d.count, r ≠ f.sd.toNat + j) → t.hart.vreg r = u.hart.vreg r))) ∧
      (Allowed (.chwait f) s → ∀ (lim n : Int),
        let want : Int := ((s.getS f.sb).toNat : Int)
        c.limitOf e.end_ = some lim → c.countOf e.end_ = some n →
        (lim < want → exec (.chwait f) s = .next (scalarTrap ⟨16, encode (.chwait f), 6, 0⟩ s)) ∧
        (want ≤ lim → want ≤ n ∨ want = 0 ∨ (e.end_ ≠ 0 ∧ c.sendClosed = true) → Completes (.chwait f) s
          (ScalarStep f.sd (BitVec.ofInt 64 n) (sp ||| s.getP f.sb ||| (s.ctx ||| c.pv)) (s.ctx ||| c.pv) s)) ∧
        (want ≤ lim → n < want → want ≠ 0 → (e.end_ = 0 ∨ c.sendClosed = false) → exec (.chwait f) s = .next (waitFor .chan s))) ∧
      (Allowed (.chwait f) s → c.limitOf e.end_ = none → ∃ w, Completes (.chwait f) s (fun t =>
        Wrote f.sd w (sp ||| s.getP f.sb ||| (s.ctx ||| c.pv)) s t ∧ Passed s t ∧ t.mem = s.mem)) ∧
      (Allowed (.chstat f) s → e.end_ ≠ 0 → f.sb ≠ 0 → exec (.chstat f) s = .next (scalarTrap (illegal (encode (.chstat f))) s)) ∧
      (Allowed (.chstat f) s → (e.end_ = 0 ∨ f.sb = 0) → ∀ x, c.branch (if e.end_ = 0 then (s.getS f.sb).toNat else e.end_ - 1) = some x →
        c.branches.length ≤ 8 →
        ∃ w : Word, w.getLsbD 0 = x.isOpen ∧ w.getLsbD 1 = (x.closed && !x.isOpen) ∧ w.getLsbD 2 = c.sendClosed ∧
          (w.extractLsb' 12 4).toNat = c.branches.length ∧ (w.extractLsb' 16 16).toNat = c.fills % 65536 ∧
          w.extractLsb' 32 16 = BitVec.ofInt 16 x.window ∧ (w.extractLsb' 48 16).toNat = x.out % 65536 ∧
          Completes (.chstat f) s (ScalarStep f.sd w (sp ||| s.getP f.sb ||| c.pv ||| s.ctx) s.ctx s)))

/-- Barriers and watermarks (R264-R267). -/
def Obligations.BarriersAndWatermarks : Prop :=
  (∀ (f : IFmt) (s : State),
    let count := (s.getS f.sa).toNat
    let place := s.unitOf (f.imm.toNat % 8)
    let a : Arrival := ⟨place.1, f.imm.toNat % 8, place.2.1, f.imm.toNat / 8 % 32, 0, 0⟩
    let b := s.barrierAt a
    let agrees := 1 ≤ count ∧ count ≤ 2560 ∧ (b.arrived = 0 ∨ b.count = count)
    let index (n : Nat) (t : State) : Prop := Wrote f.sd (BitVec.ofNat 64 n) (s.getP f.sa ||| s.ctx) s t ∧ Passed s t ∧
      t.hart.arrival = none ∧ t.hart.vec = s.hart.vec ∧ t.mem = s.mem
    (∀ x, s.hart.arrival = some x → x.episode < (s.barrierAt x).episodes → Completes (.bar f) s (index x.index)) ∧
    (∀ x, s.hart.arrival = some x → (s.barrierAt x).episodes ≤ x.episode → exec (.bar f) s = .next (waitFor .bar s)) ∧
    (s.hart.arrival = none → GateOpen s →
      (¬ agrees → exec (.bar f) s = .next (scalarTrap ⟨17, encode (.bar f), 1, 0⟩ s)) ∧
      (agrees → b.arrived + 1 = count → Completes (.bar f) s (fun t => index b.arrived t ∧
        (t.barrierAt a).arrived = 0 ∧ (t.barrierAt a).episodes = b.episodes + 1)) ∧
      (agrees → b.arrived + 1 ≠ count → Completes (.bar f) s (fun t => t.hart.status = .waiting .bar ∧ t.hart.pc = s.hart.pc ∧
        t.hart.arrival = some { a with episode := b.episodes, index := b.arrived } ∧ (t.barrierAt a).arrived = b.arrived + 1 ∧
        (t.barrierAt a).episodes = b.episodes ∧ t.hart.s = s.hart.s ∧ t.mem = s.mem)))) ∧
  (∀ (f : RFmt) (s u : State) (pa : Nat),
    let a := s.getS f.sa
    let x := u.ctx ||| s.getP f.sa
    let p := s.getP f.sb ||| x
    let v := (s.getS f.sb).toNat
    (∀ q w, s.hart.remote = some q → q.failed = none → q.answer = some w → Completes (.wmpub f) s (fun t => Passed s t ∧
      t.hart.s = s.hart.s ∧ t.ctx = s.ctx ||| s.getP f.sa ∧ t.hart.remote = none ∧ t.mem = s.mem)) ∧
    (a.toNat % 8 = 0 → s.hart.remote = none → GateOpen s → access a 8 .write 3 false s = .ok pa u →
      (u.inHost pa = true → exec (.wmpub f) s = .next (scalarTrap ⟨17, encode (.wmpub f), 2, 3⟩ s)) ∧
      (u.inHost pa = false → writeCheck a pa p 3 u = none →
        (u.inPeer pa = true → Completes (.wmpub f) s (fun t => t.hart.status = .waiting .remote ∧ t.hart.pc = s.hart.pc ∧
          t.hart.remote = some ⟨pa, ⟨8, 8, s.getS f.sb, 0, p⟩, none, none, 0, u.clk⟩ ∧ t.hart.s = s.hart.s ∧ t.mem = u.mem)) ∧
        (u.inPeer pa = false → pa % 8 = 0 → MemoryCanonical u → Unredirected pa u →
          (u.homeNum pa 8 < v → Completes (.wmpub f) s (fun t => Passed u t ∧ t.hart.s = u.hart.s ∧ t.ctx = x ∧ BytesStored pa 8 v u t)) ∧
          (v ≤ u.homeNum pa 8 → Completes (.wmpub f) s (fun t => Passed u t ∧ t.hart.s = u.hart.s ∧ t.ctx = x ∧
            ∀ k, t.homeByte k = u.homeByte k))))) ∧
    (a.toNat % 8 = 0 → access a 8 .read 2 true s = .ok pa u →
      let b := acquireAt (f.sc.toNat % 8) (pa / 128) (u.addCtx (s.getP f.sa ||| s.getP f.sb ||| u.curAt pa))
      (u.inHost pa = true → exec (.wmwait f) s = .next (scalarTrap ⟨17, encode (.wmwait f), 2, 2⟩ s)) ∧
      (u.inHost pa = false →
        (v ≤ u.homeNum pa 8 → Completes (.wmwait f) s (ScalarStep f.sd (BitVec.ofNat 64 (u.homeNum pa 8)) b.ctx b.ctx b)) ∧
        (u.homeNum pa 8 < v → exec (.wmwait f) s = .next (waitFor .watermark s)))))

/-- The engine instructions (R363-R365, R372, R384) and LAUNCH (R362), whose details are as log entry 41 reads them. -/
def Obligations.EnginesAreIssued : Prop :=
  (∀ (f : RFmt) (i : Instr) (kind : Nat) (s u : State) (pa n : Nat),
    (i, kind) ∈ [(Instr.copy f, 1), (.decomp f, 2), (.sread f, 3), (.gate f, 4)] →
    let a := s.getS f.sa
    let ops := (List.range 6).map fun k => BitVec.ofNat 64 (bitsAt (u.loadNum pa 64) (64 * k) 64)
    let c := u.ctx ||| (s.getP f.sa ||| u.loadPv pa)
    let at_ (k : Nat) : Nat := (ops[k]?.getD 0).toNat
    Allowed i s → a.toNat % 64 = 0 → access a 64 .read 2 true s = .ok pa u → blockOk kind ops s = true →
    (kind = 3 → (u.nsAt (at_ 1)).isSome = true) → (kind = 4 → GateOpen s) →
    let big := kind = 3 ∧ ∃ ctl nsid p, u.nsAt (at_ 1) = some (ctl, nsid, p) ∧ maxBlocks ctl nsid < at_ 3
    (big → exec i s = .next (scalarTrap ⟨19, encode i, 2, 0⟩ s)) ∧
    (¬ big → s.hart.freeTag = none → exec i s = .next (scalarTrap ⟨19, encode i, 1, 0⟩ s)) ∧
    (¬ big → s.hart.freeTag = some n → Completes i s (fun t => Wrote f.sd (BitVec.ofNat 64 n) c u t ∧ Passed u t ∧ t.ctx = c ∧ t.mem = u.mem ∧
      t.jobSeq = s.jobSeq + 1 ∧ (∃ g ∈ t.hart.tags, g.num = n ∧ g.state = .running ∧ g.uid = s.jobSeq) ∧
      ∃ j ∈ t.engq ++ t.sreads ++ t.gateq, j.uid = s.jobSeq ∧ j.kind = kind ∧ j.who = s.hart.id ∧ j.block = a ∧ j.ops = ops ∧
        j.ptroot = s.hart.csr.ptroot ∧ j.mode = s.hart.mode ∧ j.pv &&& c = c))) ∧
  (∀ (f : RFmt) (s : State),
    let n := (s.getS f.sa).toNat
    let sp := s.getP f.sa
    (Allowed (.twait f) s → (s.tagAnswer n = .bad → exec (.twait f) s = .next (scalarTrap ⟨19, encode (.twait f), 4, 0⟩ s)) ∧
      (∀ p, s.tagAnswer n = .running p → exec (.twait f) s = .next (waitFor .tag s)) ∧
      (∀ v p, s.tagAnswer n = .word v p → Completes (.twait f) s (fun t => Wrote f.sd v (p ||| sp ||| (s.ctx ||| sp)) s t ∧ HartOnly s t ∧
        t.ctx = s.ctx ||| sp ∧ Passed s t ∧ (n < 64 → ∀ g ∈ t.hart.tags, g.num ≠ n)))) ∧
    (Allowed (.tpoll f) s → (s.tagAnswer n = .bad → exec (.tpoll f) s = .next (scalarTrap ⟨19, encode (.tpoll f), 4, 0⟩ s)) ∧
      (∀ p, s.tagAnswer n = .running p → Completes (.tpoll f) s (ScalarStep f.sd 0 (p ||| sp ||| s.ctx) s.ctx s)) ∧
      (∀ v p, s.tagAnswer n = .word v p → Completes (.tpoll f) s (ScalarStep f.sd v (p ||| sp ||| s.ctx) s.ctx s)))) ∧
  (∀ (f : RFmt) (s u : State) (pa : Nat) (d : QDesc),
    let a := s.getS f.sa
    let q := (s.getS f.sb).toNat
    let b := u.addCtx (s.getP f.sa ||| s.getP f.sb)
    let slot := d.base + 64 * (d.tail.toNat % d.size)
    let tail := s.qtable.getD 0 + 64 * q + 32
    Allowed (.launch f) s → a.toNat % 64 = 0 → q < 256 → s.qdesc q = some d → d.dev = true → s.part.map Part.num = some d.part → GateOpen s →
    access a 64 .read 2 true (releaseFence 3 s) = .ok pa u →
    (d.size ≤ (d.tail - d.head).toNat → Completes (.launch f) s (ScalarStep f.sd 1 (s.getP f.sb ||| b.ctx) b.ctx b)) ∧
    ((d.tail - d.head).toNat < d.size → MemoryCanonical u → slot % 64 = 0 → tail % 8 = 0 → Unredirected slot u → Unredirected tail u →
      (slot + 64 ≤ tail ∨ tail + 8 ≤ slot) →
      b.deadFrame slot 64 = none → writeCheck (BitVec.ofNat 64 slot) slot (b.loadPv pa ||| s.getP f.sa ||| s.getP f.sb ||| b.ctx) 3 b = none →
      Completes (.launch f) s (fun t => Wrote f.sd 0 (s.getP f.sb ||| b.ctx) b t ∧ Passed b t ∧
        (∀ k < 64, t.homeByte (slot + k) = BitVec.ofNat 8 (b.loadNum pa 64 / 256 ^ k)) ∧ t.homeNum tail 8 = (d.tail + 1).toNat ∧
        (∀ x, (u.place x < slot ∨ slot + 64 ≤ u.place x) → (u.place x < tail ∨ tail + 8 ≤ u.place x) → t.homeByte x = u.homeByte x))))

/-- The matrix forms at commit (R285, R294-R300, R302, R305-R313). -/
def Obligations.MatrixWordsArePosted : Prop :=
  ∀ (f : TFmt) (s : State),
    let a := s.getS f.sa
    let b := s.getS f.sb
    let room := s.hart.mq.length < 64
    let acc := 32 + f.acc.toNat
    let both := s.getP f.sa ||| s.getP f.sb
    (∀ i ∈ [Instr.mma f, .mman f, .mmab f], Allowed i s →
      (s.claims acc = true → s.claims f.slotA.toNat = true → s.claims f.slotB.toNat = true → room → Completes i s (Posts i 0 0 0 [] 0 s)) ∧
      (s.claims acc = false → exec i s = .next (scalarTrap ⟨18, s.hart.pc ||| 2, 2, 0⟩ s))) ∧
    (∀ i ∈ [Instr.mdrain f, .mzero f], Allowed i s → s.claims acc = true → room → Completes i s (Posts i 0 0 0 [] 0 s)) ∧
    (Allowed (.mhdr f) s → s.claims f.slotA.toNat = true → room → Completes (.mhdr f) s (Posts (.mhdr f) a 0 (s.getP f.sa) [] 0 s)) ∧
    (Allowed (.macinit f) s → s.claims acc = true → room →
      (let sz := if f.imm.getLsbD 2 = true ∨ f.imm.toNat / 16 % 32 = 10 then 4 else 2
       f.imm.toNat % 4 = 1 → a.toNat % sz = 0 ∧ b.toNat % sz = 0) →
      let x := (setFsub (isFp6 (f.imm.toNat / 16 % 32)) s).addCtx both
      Completes (.macinit f) s (Posts (.macinit f) a b 0 [] 0 x)) ∧
    (Allowed (.mstat f) s → s.hart.mq.length ≤ 64 → ∃ v : Word, v.extractLsb' 0 9 = s.hart.mstat ∧
      (v.extractLsb' 9 7).toNat = s.hart.mq.length ∧ Completes (.mstat f) s (fun t =>
        Wrote f.sa v (s.hart.mset ||| s.getP f.sb ||| s.ctx) s t ∧ t.hart.mstat = s.hart.mstat &&& ~~~ (b.extractLsb' 0 9) ∧
        (t.hart.mstat = 0 → t.hart.mset = 0) ∧ Passed s t ∧ HartOnly s t)) ∧
    (let n := if f.imm.getLsbD 1 then acc else f.slotA.toNat
     let asid := asidOf s.hart.csr.ptroot
     (Allowed (.mclaim f) s → room → s.isl.claimOf n = none →
       (s.isl.claims.filter fun c => c.asid == asid && (decide (32 ≤ c.num) == f.imm.getLsbD 1)).length < s.claimLimit (f.imm.getLsbD 1) →
       Completes (.mclaim f) s (fun t => t.claims n = true ∧ t.hart.mq = s.hart.mq ++ [posted (.mclaim f) 0 0 0 [] 0 s] ∧ Passed s t ∧
         t.hart.s = s.hart.s ∧ t.mem = s.mem)) ∧
     (Allowed (.mclaim f) s → (s.isl.claimOf n).isSome = true → exec (.mclaim f) s = .next (scalarTrap ⟨18, s.hart.pc ||| 1, 1, 0⟩ s)) ∧
     (Allowed (.mrels f) s → room → s.claims n = true → Completes (.mrels f) s (fun t => t.isl.claimOf n = none ∧
       t.hart.mq = s.hart.mq ++ [posted (.mrels f) 0 0 0 [] 0 s] ∧ Passed s t ∧ t.hart.s = s.hart.s ∧ t.mem = s.mem))) ∧
    (∀ (u : State) (l : List (Nat × Nat)), s.claims f.slotA.toNat = true → room → u.hart = { s.hart with event := u.hart.event } →
      (let fmt := fp6 (f.imm.toNat / 8 % 32)
       Allowed (.mload f) s → (fmt = 11 ∨ fmt = 12 ∨ fmt = 17 → a.toNat % 2 = 0 ∧ b.toNat % 2 = 0) →
        fillPages (mloadParts (f.imm.toNat % 8) fmt a b) s = .ok (l, u) →
        Completes (.mload f) s (Posts (.mload f) a b both l 0 ((setFsub (isFp6 (f.imm.toNat / 8 % 32)) u).addCtx both))) ∧
      (Allowed (.mfill f) s → a.toNat % 64 = 0 → b.toNat % 64 = 0 → ∀ (pb : Nat) (x : State), access b 64 .read 6 true s = .ok pb x →
        fillPages ((b, 64) :: pageParts 2 a 32768 ++ (if (x.homeByte pb).toNat = 2 then pageParts 2 (a + 32768) 2048 else [])) s = .ok (l, u) →
        Completes (.mfill f) s (Posts (.mfill f) a b both l (l.head?.elim 0 fun y => u.homeNum y.1 64) (u.addCtx both))))

/-- The reef's instructions (R132-R140, R179, R242). A count of E2M1 elements past what a mask holds is as log entry 79 says. -/
def Obligations.ReefForms : Prop :=
  (∀ (f : RFmt) (s : State), s.reefTurn = true →
    let a := s.getS f.sa
    let slot := f.sd.toNat % 16
    (∀ (im : RImage) (p : PvSet) (u : State), Allowed (.bind f) s → a.toNat % 64 = 0 → readImage a s = .ok (im, p, u) →
      Completes (.bind f) s (fun t => Passed u t ∧ t.ctx = u.ctx ||| s.getP f.sa ∧ t.mem = u.mem ∧ t.hart.s = u.hart.s ∧
        (∃ b ∈ t.binds, b.part = s.partNum ∧ b.asid = s.asid ∧ b.slot = slot ∧ b.addr = a ∧ b.img = im) ∧
        (∀ b ∈ t.binds, b.part = s.partNum → b.asid = s.asid → b.slot = slot → b.img = im) ∧
        (∀ b ∈ u.binds, ¬ (b.part = s.partNum ∧ b.asid = s.asid ∧ b.slot = slot) → b ∈ t.binds) ∧
        (∃ x ∈ t.core.reef.placed, x.asid = s.asid ∧ x.slot = slot))) ∧
    (Allowed (.unbind f) s → Completes (.unbind f) s (fun t => Passed s t ∧ t.mem = s.mem ∧ t.hart.s = s.hart.s ∧
      t.bindOf s.asid slot = none ∧ (∀ b ∈ s.binds, ¬ (b.part = s.partNum ∧ b.asid = s.asid ∧ b.slot = slot) → b ∈ t.binds))) ∧
    (Allowed (.xstat f) s →
      let k := f.sb.toNat % 16
      ∃ v : Word, (s.bindOf s.asid k = none → v = 0) ∧
        (∀ b, s.bindOf s.asid k = some b → b.img.iar ≤ 3 → b.img.oar ≤ 3 → v.getLsbD 0 = true ∧
          v.getLsbD 1 = (s.core.reef.placed.any fun p => p.asid == s.asid && p.slot == k) ∧
          v.getLsbD 2 = s.core.reef.evicted.contains (s.asid, k) ∧ v.getLsbD 4 = s.core.reef.mism.contains (s.asid, k) ∧
          v.getLsbD 5 = b.img.hasCh ∧ v.getLsbD 6 = b.img.hasMx ∧ (v.extractLsb' 7 2).toNat = b.img.iar ∧ (v.extractLsb' 9 2).toNat = b.img.oar) ∧
        Completes (.xstat f) s (fun t => Wrote f.sd v (s.getP f.sa ||| s.ctx) s t ∧ Passed s t ∧ t.mem = s.mem ∧
          (a.getLsbD 4 = true → (s.asid, k) ∉ t.core.reef.mism) ∧ (a.getLsbD 2 = true → (s.asid, k) ∉ t.core.reef.evicted)))) ∧
  (∀ (f : XFmt) (s : State) (r : RRun), Allowed (.xop f) s → s.core.reef.run = some r → r.hart = s.hart.ix →
    let n (k : Nat) : Nat := (r.vo[k]?).elim 0 RVec.n
    (r.phase = .running → exec (.xop f) s = .next (waitFor .reef s)) ∧
    (r.phase = .complete ∨ r.phase = .more → Completes (.xop f) s (fun t => t.vl = n 0 ∧ t.vlPv = r.set ∧
      t.hart.csr.xcnt2 = BitVec.ofNat 64 (n 1) ∧ t.hart.csr.fstat = s.hart.csr.fstat ||| BitVec.ofNat 6 r.flags ∧
      (r.f.cw = true → Wrote r.f.sd (BitVec.ofNat 64 (n 0 + n 1 * 2 ^ 32)) r.set s t) ∧ (r.f.cw = false → t.hart.s = s.hart.s) ∧
      (∀ k < 32, (t.hart.vreg k).img = (s.hart.vreg k).img ∧ (t.hart.vreg k).tag = (s.hart.vreg k).tag) ∧
      t.core.reef.run = none ∧ Passed s t ∧ t.mem = s.mem)))

/-- The SUP major in a mode that may run it (R373-R383, R442). The bytes and lengths of an opaque frame and of a frozen area are free
(log entries 1 and 9); the sets and levels of saved areas, what XFREEZE takes away and what a held frame contains are as log entries 35
to 37 read them, and the operands of MIGRATE and PGFREE as log entry 34. -/
def Obligations.SupervisorFormsComplete : Prop :=
  ∀ (f : RFmt) (s u : State),
    let a := s.getS f.sa
    let n := (s.getS f.sb).toNat
    let sp := s.getP f.sa
    let both := sp ||| s.getP f.sb
    let saves (i : Instr) (from_ : State) (bytes : List Byte) (p : PvSet) (post : State → Prop) : Prop := ∀ l, Allowed i s →
      (from_.getS f.sa).toNat % 64 = 0 → areaWrite (p ||| (from_.ctx ||| from_.getP f.sa))
        (pageParts (bytes.length / 65536 + 2) (from_.getS f.sa) bytes.length) (from_.addCtx (from_.getP f.sa)) = .ok (l, u) →
      MemoryCanonical u → PlainArea l u → Completes i s (fun t => Wrote f.sd (BitVec.ofNat 64 bytes.length) u.ctx u t ∧ Passed u t ∧
        AreaStored l bytes u t ∧ post t)
    (a.toNat % 64 = 0 →
      (s.hart.queue = [] → saves (.vsave f) s (vsaveBytes s) s.hart.vec.union (fun t => t.hart.vec = u.hart.vec)) ∧
      (∃ bytes, 64 ≤ bytes.length ∧ saves (.frsave f) s bytes s.framePv (fun t => t.hart.queue = [] ∧ t.hart.mq = [] ∧ t.hart.heldBy = none ∧
        ∃ x ∈ t.savedFrames, x.bytes = bytes ∧ x.items = s.hart.queue ∧ x.mq = s.unbegun)) ∧
      (let mine := s.core.reef.run.any (fun r => r.asid == s.asid)
       let w := if mine then freezeRun s else s
       (mine = true → w.runWaits = true → Allowed (.xfreeze f) s → exec (.xfreeze f) s = .next (waitFor .reef w)) ∧
       ((mine = true → w.runWaits = false) → ∃ bytes p, 144 ≤ bytes.length ∧ leNum ((bytes.drop 8).take 8) = w.asid % 2 ^ 64 ∧
        (∀ k < 16, leNum ((bytes.drop (16 + 8 * k)).take 8) = (w.bindOf w.asid k).elim 0 fun b => b.addr.toNat) ∧
        saves (.xfreeze f) w bytes p (fun t => (∀ x ∈ t.core.reef.conts, x.asid ≠ w.asid) ∧
        (∀ x ∈ t.core.reef.placed, x.asid ≠ w.asid) ∧ ∃ x ∈ t.savedFrames, x.bytes = bytes ∧
          x.conts = w.core.reef.conts.filter (fun y => y.asid == w.asid)))) ∧
      (∀ hd p0 u0 b p, Allowed (.vrestore f) s → s.hart.queue = [] → loadArea a 256 s = .ok (hd, p0, u0) →
        loadArea a (areaSize hd.toArray) s = .ok (b, p, u) →
        let x := u.addCtx sp
        Completes (.vrestore f) s (QuietStep (vrestoreHart b.toArray p s.core.level x.hart) x)) ∧
      (∀ x p, Allowed (.frload f) s → findSaved a (s.savedFrames.filter fun x => x.addrs.isEmpty) s = .ok (some (x, p, u)) →
        leNum (x.bytes.take 8) = s.fw.frameFmt.toNat → s.hart.queue = [] → s.hart.mq = [] →
        Completes (.frload f) s (fun t => t.hart.queue.map Item.words = x.items.map Item.words ∧ t.hart.mq.map MqItem.word = x.mq.map MqItem.word ∧
          t.hart.resume = x.resume ∧ t.hart.s = u.hart.s ∧ t.mem = u.mem ∧ Passed u t)) ∧
      (∀ x p, Allowed (.xthaw f) s → findSaved a (s.savedFrames.filter fun x => !x.addrs.isEmpty) s = .ok (some (x, p, u)) →
        leNum (x.bytes.take 8) = s.fw.freezeFmt.toNat → Completes (.xthaw f) s (fun t => t.hart.s = u.hart.s ∧ t.mem = u.mem ∧ Passed u t ∧
          ∀ r ∈ x.run.toList ++ x.conts, s.stillBound x r = true → ∃ y ∈ t.core.reef.conts, y.asid = r.asid ∧ y.slot = r.slot ∧ y.hart = r.hart)) ∧
      (∀ hd p0 u0 d p pol v w, Allowed (.gateinst f) s → readParts [(a, 64)] s = .ok (hd, p0, u0) →
        let h := PolicyDoc.of hd.toArray
        h.ok hd.toArray s.roster = true → readParts (pageParts 2 a (h.body + 96 * h.nparty)) s = .ok (d, p, u) →
        (checkPolicy d.toArray s = .ok pol → installPolicy pol u = (.ok v, w) → Completes (.gateinst f) s (fun t => pol ∈ t.policies ∧
          Wrote f.sd (BitVec.ofNat 64 pol.id) (sp ||| p ||| (u.ctx ||| sp)) u t ∧ Passed u t ∧ t.mem = u.mem)) ∧
        (∀ c, checkPolicy d.toArray s = .error c → Completes (.gateinst f) s (ScalarStep f.sd (BitVec.ofNat 64 (2 ^ 63 + c))
          (sp ||| p ||| (u.ctx ||| sp)) (u.ctx ||| sp) u)))) ∧
    (let held := s.slotsOf a.toNat s.partNum
     let free := (List.range 12).filter fun k => s.slots.all fun x => !(x.die == a.toNat && x.slot == k)
     let gives (ok : Bool) (t : State) : Prop := Wrote f.sd (BitVec.ofNat 64 ((t.slotsOf a.toNat s.partNum).foldl (fun w k => w + 2 ^ k) 0 +
       if ok then 0 else 2 ^ 63)) (s.ctx ||| both) s t ∧ Passed s t ∧ t.ctx = s.ctx ||| both ∧ t.mem = s.mem
     Allowed (.reserve f) s → a.toNat < 8 → n ≤ 12 →
     (held.length ≤ n → n - held.length ≤ free.length → Completes (.reserve f) s (fun t => gives true t ∧
       (t.slotsOf a.toNat s.partNum).length = n ∧ ∀ x ∈ s.slots, x ∈ t.slots)) ∧
     (held.length ≤ n → free.length < n - held.length → Completes (.reserve f) s (fun t => gives false t ∧ t.slots = s.slots)) ∧
     (n < held.length → (s.inFlight fun a k => s.inTide a && s.frameIn (s.getS f.sa).toNat (held.drop n) (a / 65536) && k != 0) = false →
       (∀ x ∈ s.tide, x.held = 0 ∧ x.elastic = false ∧ s.frameBusy (x.frame * 65536) = false) →
       Completes (.reserve f) s (fun t => gives true t ∧ t.slotsOf a.toNat s.partNum = held.take n))) ∧
    (∀ (l : Leaf) (pa : Nat),
      let dst := (s.getS f.sb).toNat
      let frame (x : Nat) : Nat := x / 65536 * 65536
      Allowed (.migrate f) s → canonical a = true → s.walkFrom (vaNum a) 4 (rootOf s.hart.csr.ptroot) = .ok l → l.pte.testBit 9 = true →
      pa = bitsAt l.pte 16 36 * 65536 → s.slotOk (s.part.map Part.num) pa = true → s.inTide dst = true → s.paExists dst = true →
      (s.slotsOf (dieOfTide (paLocal dst)) s.partNum).contains (dst / 65536 % 65536 / 160) = true → s.frameBusy pa = false →
      s.frameBusy dst = false → (s.tideAt (dst / 65536)).elastic = false → pa / 65536 ≠ dst / 65536 → s.inTide l.at_ = false → l.at_ % 8 = 0 → MemoryCanonical s →
      Completes (.migrate f) s (fun t => (∀ k < 65536, t.homeByte (frame dst + k) = s.homeByte (pa + k)) ∧
        t.homeNum l.at_ 8 = setBitsAt l.pte 16 36 (dst / 65536) % 2 ^ 64 ∧ (t.tideAt (dst / 65536)).gen = (s.tideAt (pa / 65536)).gen ∧
        t.ctx = s.ctx ||| both ∧ t.hart.s = s.hart.s ∧ t.hart.vec = s.hart.vec ∧ Passed s t)) ∧
    (Allowed (.tlbinv f) s → n < 2 ^ 32 → n / 4 % 2 ^ 14 = 0 → n % 4 ≠ 3 → s.core.num = s.hart.core →
      let gone (e : TlbEntry) : Bool :=
        if n % 4 = 0 then canonical a && decide (n / 65536 < 4096) && (e.asid == n / 65536 || e.flags.getLsbD 5) && e.va / 2 ^ e.bits == vaNum a / 2 ^ e.bits
        else if n % 4 = 1 then e.asid == n / 65536 && !e.flags.getLsbD 5 else true
      (s.entriesUsed gone = true → exec (.tlbinv f) s = .next (waitFor .drain s)) ∧
      (s.entriesUsed gone = false → Completes (.tlbinv f) s (fun t => t.core.tlb = s.core.tlb.filter (fun e => !gone e) ∧ t.ctx = s.ctx ||| both ∧ t.hart.s = s.hart.s ∧
        Passed s t ∧ t.mem = s.mem))) ∧
    (∀ p, Allowed (.pgfree f) s → a.toNat % 65536 = 0 → s.part = some p → p.owns (a.toNat / 65536) n = true → MemoryCanonical s →
      Completes (.pgfree f) s (fun t => (∀ x, a.toNat ≤ s.place x → s.place x < a.toNat + n * 65536 → t.homeByte x = 0) ∧
        (∀ x, (s.place x < a.toNat ∨ a.toNat + n * 65536 ≤ s.place x) → t.homeByte x = s.homeByte x) ∧ (a.toNat / 65536, n) ∈ t.unscrubbed ∧
        t.ctx = s.ctx ||| both ∧ t.hart.s = s.hart.s ∧ Passed s t))

/-- Writes of registers as steps, the events of R86, LEVEL_CHANGE, HART_EXIT and ISSUE_CLK (R70, R85, R86, R90, R91, R101, R406,
R411, R470, R473, R474): `evtimerWrite`, `evaddrWrite`, `pvctxCsrWrite`, `hfmaskWrite`, `htvecWrite`, `partidWrite`,
`trapstatusWrite`, `registerWrite`, `timerEvent`, `evaddrLineWrite`, `levelChange`, `hartExit` and `issueClk` complete. That a clk
offers a hart two slots, and that the ways are numbered as they are, are the model's (log entries 48, 66); that a freed context keeps its registers is
log entry 74. -/
def Obligations.RegisterWriteAndTimerSteps : Prop :=
  (∀ (v : Word) (p : PvSet) (s : State),
    let due := v ≠ 0 ∧ v.ule s.clk = true
    Completes (.evtimerWrite v p) s (fun t => csrRead 0x107 t = v ∧ csrReadPv 0x107 t = p ∧ CsrOnly 0x107 s t ∧
      (due → t.hart.event = true ∧ t.hart.csr.timerArmed = false) ∧
      (¬ due → t.hart.event = s.hart.event ∧ t.hart.csr.timerArmed = (v != 0))) ∧
    Completes (.evaddrWrite 0 p) s (fun t => csrRead 0x00D t = 0 ∧ csrReadPv 0x00D t = p ∧ CsrOnly 0x00D s t ∧ t.hart.csr.evline = none) ∧
    (v ≠ 0 → (∀ pa x u, xlat v .read s = .ok (pa, x, u) → Completes (.evaddrWrite v p) s (fun t => csrRead 0x00D t = v ∧
        csrReadPv 0x00D t = p ∧ CsrOnly 0x00D u t ∧ t.hart.csr.evline = some (pa / 128))) ∧
      (∀ e, xlat v .read s = .error e →
        (s.postedDone = true → exec (.evaddrWrite v p) s = .next (trapAt (walkTrap v 2 e) s)) ∧
        (s.postedDone = false →
          exec (.evaddrWrite v p) s = .next { s with hart := { s.hart with deferred := s.hart.deferred ++ [walkTrap v 2 e] } }))) ∧
    ((v.extractLsb' 0 16).toNat < 2 ^ s.roster → Completes (.pvctxCsrWrite ⟨v, p⟩) s (fun t => t.ctx = v.extractLsb' 0 16 ∧
      csrReadPv 0x00C t = p ∧ CsrOnly 0x00C s t)) ∧
    (2 ^ s.roster ≤ (v.extractLsb' 0 16).toNat →
      (s.postedDone = true → exec (.pvctxCsrWrite ⟨v, p⟩) s = .next (trapAt ⟨9, v, 2, 0⟩ s)) ∧
      (s.postedDone = false →
        exec (.pvctxCsrWrite ⟨v, p⟩) s = .next { s with hart := { s.hart with deferred := s.hart.deferred ++ [⟨9, v, 2, 0⟩] } })) ∧
    (∀ q, s.selPart = some q →
      Completes (.hfmaskWrite v p) s (fun t => csrRead 0x200 t = (v.extractLsb' 0 7).zeroExtend 64 ∧ csrReadPv 0x200 t = p ∧
        csrRead 0x205 t = csrRead 0x205 s ∧ t.hart = s.hart ∧ t.mem = s.mem) ∧
      Completes (.htvecWrite v p) s (fun t => csrRead 0x205 t = v &&& ~~~7 ∧ csrReadPv 0x205 t = p ∧
        csrRead 0x200 t = csrRead 0x200 s ∧ t.hart = s.hart ∧ t.mem = s.mem)) ∧
    (s.selPart = none → exec (.hfmaskWrite v p) s = .next s ∧ exec (.htvecWrite v p) s = .next s) ∧
    Completes (.partidWrite v p) s (fun t => csrReadPv 0x206 t = p ∧ t.mem = s.mem ∧ t.hart.s = s.hart.s ∧ t.hart.pc = s.hart.pc ∧
      t.hart.csr.partSel = if (s.partAt v.toNat).isSome then v.toNat else s.hart.csr.partSel) ∧
    (∀ hyp : Bool,
      let n := if hyp then 0x204 else 0x103
      let old := csrRead n s
      let refused := v.extractLsb' 0 2 = 3 ∨ (hyp = false ∧ s.hart.mode ≠ .hypervisor ∧ v.extractLsb' 0 2 = 2)
      Completes (.trapstatusWrite hyp v p) s (fun t => csrReadPv n t = p ∧ CsrOnly n s t ∧
        (refused → (csrRead n t).extractLsb' 0 2 = old.extractLsb' 0 2) ∧
        (¬ refused → (csrRead n t).extractLsb' 0 2 = v.extractLsb' 0 2) ∧
        (csrRead n t).getLsbD 2 = old.getLsbD 2 ∧ csrRead n t &&& 0xF0FF18 = v &&& 0xF0FF18 ∧
        csrRead n t &&& ~~~0xF0FF1F = 0))) ∧
  (∀ (n : Nat) (mask v : Word) (p : PvSet) (s : State),
    ((n, mask) ∈ [(0x003, 0x3F), (0x005, 0xFFFFFFFFFFFFFFFF), (0x006, 7), (0x007, 0xFFFFFFFFFFFFFFFF), (0x00A, 0xFFFFFFFFFFFFFFFF),
        (0x100, 0xFF), (0x101, 0xFFFFFFFFFFFFFFFF), (0x102, 0xFFFFFFFFFFFFFFFF), (0x104, 0xFFFFFFFFFFFFFFF8),
        (0x105, 0xFFFFFFFFFFFFFFFF), (0x106, 0xFFFFFFFFFFFFF000), (0x201, 0xFF), (0x202, 0xFFFFFFFFFFFFFFFF),
        (0x203, 0xFFFFFFFFFFFFFFFF)] →
      Completes (.registerWrite (.csr (BitVec.ofNat 12 n)) v p) s
        (fun t => csrRead n t = v &&& mask ∧ csrReadPv n t = p ∧ CsrOnly n s t)) ∧
    exec (.registerWrite (.csr 0x00C) v p) s = exec (.pvctxCsrWrite ⟨v, p⟩) s ∧
    exec (.registerWrite (.csr 0x00D) v p) s = exec (.evaddrWrite v p) s ∧
    exec (.registerWrite (.csr 0x107) v p) s = exec (.evtimerWrite v p) s ∧
    exec (.registerWrite (.csr 0x200) v p) s = exec (.hfmaskWrite v p) s ∧
    exec (.registerWrite (.csr 0x206) v p) s = exec (.partidWrite v p) s ∧
    exec (.registerWrite (.csr 0x205) v p) s = exec (.htvecWrite v p) s ∧
    exec (.registerWrite (.csr 0x103) v p) s = exec (.trapstatusWrite false v p) s ∧
    exec (.registerWrite (.csr 0x204) v p) s = exec (.trapstatusWrite true v p) s ∧
    (s.boot ≠ .failed →
      (s.mqHead = s.mqTail → v.toNat % 64 = 0 → paPkg v.toNat = s.pkg → spaceOf (paLocal v.toNat) = .ezmos →
        exec (.registerWrite (.bar0 0) v p) s = .next { s with mqBase := v.toNat }) ∧
      (∀ k ≤ 12, s.mqHead = s.mqTail → v.toNat = 2 ^ k → exec (.registerWrite (.bar0 8) v p) s = .next { s with mqSize := v.toNat }) ∧
      exec (.registerWrite (.bar0 0x10) v p) s = .next { s with mqTail := v } ∧
      (∀ off, off ≠ 0x10 → s.mqHead ≠ s.mqTail → exec (.registerWrite (.bar0 off) v p) s = .next s)) ∧
    (∀ off, s.boot = .failed → exec (.registerWrite (.bar0 off) v p) s = .next s)) ∧
  (∀ (who : HartId) (s : State), (s.hartAt who).id = who →
    let h := s.hartAt who
    let due := h.csr.timerArmed = true ∧ h.csr.evtimer.ule s.clk = true
    (due → Completes (.timerEvent who) s (HartBecomes who { h with event := true, csr := { h.csr with timerArmed := false } } s)) ∧
    (¬ due → Completes (.timerEvent who) s (HartBecomes who h s)) ∧
    (h.csr.evaddr ≠ 0 → Completes (.evaddrLineWrite who) s (HartBecomes who { h with event := true } s)) ∧
    (h.csr.evaddr = 0 → Completes (.evaddrLineWrite who) s (HartBecomes who h s))) ∧
  (∀ (core : Nat) (code : BitVec 2) (s : State),
    let level := levelOf code.toNat
    (code ≠ 0 → level ≠ (s.coreAt core).level → Completes (.levelChange core code) s (fun t =>
      t.coreAt core = { s.coreAt core with level := level, copies := (s.coreAt core).copies.filter fun k => decide (k.way < 17 - level) } ∧
      t.mem = s.mem ∧ (∀ k ∈ (s.coreAt core).copies, 17 - level ≤ k.way → ∀ n, n / 4 = k.line → (t.sectorAt n).owner ≠ some core) ∧
      ∀ w, let h := s.hartAt w
        let most := vlmax h.csr.sew.toNat h.csr.g.toNat level
        (h.core = core → (t.hartAt w).csr.vl = min h.csr.vl most ∧ (t.hartAt w).csr.vlcut = (h.csr.vlcut || decide (most < h.csr.vl)) ∧
          (t.hartAt w).s = h.s ∧ (t.hartAt w).pc = h.pc) ∧
        (h.core ≠ core → t.hartAt w = h))) ∧
    (code = 0 ∨ level = (s.coreAt core).level → Completes (.levelChange core code) s (CoreBecomes core (s.coreAt core) s))) ∧
  (∀ s : State, let v := discardHeld s
    s.hart.mode ≠ .user → exitOf s.handlerRegs.status = true → v.postedDone = true → s.hart.enginesDone = true →
    resolved s.hart.aside = true → struckBits 0 s.hart.aside = 0 →
    ((∀ c ∈ s.hart.children, c.done ≠ none) → Completes .hartExit s (fun t =>
      t.hart = v.hart.freed ∧ t.hart.status = .free ∧ t.hart.s = s.hart.s ∧ t.hart.vec = s.hart.vec ∧ t.mem = s.mem ∧
      (∀ r ∈ t.core.reef.conts, r.hart ≠ s.hart.ix) ∧
      ∀ p, s.hart.parent = some p → p ≠ s.hart.ix → (s.hartAt ⟨s.hart.core, p⟩).id = ⟨s.hart.core, p⟩ →
        ∀ c ∈ (t.hartAt ⟨s.hart.core, p⟩).children, c.ix = s.hart.ix → c.done = some s.hart.ctx)) ∧
    ((∃ c ∈ s.hart.children, c.done = none) → exec .hartExit s = .next (waitFor .exit v)) ∧
    (s.hart.heldBy = none → v = s) ∧ (s.hart.heldBy ≠ none → v.hart.queue = [] ∧ v.hart.mq = [])) ∧
  (∀ s : State, s.hart.mode = .user ∨ exitOf s.handlerRegs.status = false → exec .hartExit s = .next s) ∧
  (∀ s : State, s.stopped = true → exec .issueClk s = .next { s with clk := s.clk + 1 }) ∧
  (∀ s : State, s.stopped = false → s.boot ≠ .booted → s.chans = [] → s.engq = [] → s.sreads = [] → s.gateq = [] →
    s.deliveries = [] → s.harts = [] → s.cores = [] → s.core.isl = Island.empty → s.core.reef.run = none → s.hart.mq = [] →
    s.core.num = s.hart.core → s.hart.ix < 8 → entriesOf s.hart = [] → s.hart.remote = none → s.hart.vreq = none → Completes .issueClk s (fun t => t.clk = s.clk + 1 ∧
      t.core.firstIssue = none ∧ t.core.secondIssue = false ∧ t.core.vectorIssue = false ∧ t.core.checkSent = false ∧
      (s.hart.csr.timerArmed = true → s.hart.csr.evtimer.ule (s.clk + 1) = true → t.hart.event = true ∧ t.hart.csr.timerArmed = false) ∧
      (s.hart.status = .running → t.grants = s.grants ++ [s.hart.id, s.hart.id] ∧
        t.vgrants = s.vgrants ++ (if s.core.failing then [] else [s.hart.id])) ∧
      (s.hart.status = .free → t.grants = s.grants ∧ t.vgrants = s.vgrants ∧ t.mem = s.mem)))

/-- Steps of the posting unit, the pipes, the walker, the slices and the watch units (R86, R148-R153, R322-R330, R336, R347, R348,
R416, R448-R454): `vectorPost`, `elementGroupProcess`, `elementGroupEmit`, `loadGroupReturn`, `storeGroupPerform`,
`deferredTranslationGroup`, `deferredVectorTrap`, `pageTableWalk`, `lineFill`, `ownershipGrant`, `acquireMerge`, `lazyMergeTimeout`,
`unscrubClearDone`, `hartStart`, `watermarkWake`, `watchCheckSend`, `watchTimeoutStrike`, `watchCheckDecide` and `watchReplyRecord`
complete. Which ways may be allocated is log entry 66; what a read at a peer brings is log entry 76, so that the bytes and the set of a
peer's line are stated as free. -/
def Obligations.PipeWalkerSliceAndWatchSteps : Prop :=
  (∀ (s u v : State) (pa : Nat) (w : Word) (i : Instr) (l : List Word) (ms : List (Word × Instr)),
    s.core.num = s.hart.core → s.hart.status = .running → s.hart.heldBy = none → s.hart.queue = [] → s.hart.deferred = [] →
    s.hart.pc.toNat % 8 = 0 → fetchAt s.hart.pc s = (.ok pa u, w) → decode w = .ok i → convoyBit w = false → isQueued i s = true →
    (inConvoyFormat i = true → convoyTail allWords (s.hart.pc + 8) u = .words l v) → (inConvoyFormat i = false → l = [] ∧ v = u) →
    convoyGate s (w :: l) = .ok ms → (∀ x ∈ ms, isReleasing x.2 s = true → GateOpen s) → (∀ f, i = .setvl f → s.levelWaits none = []) →
    (s.hart.posted = 0 ∨ s.hart.posted + (l.length + 1) ≤ 4) →
    Completes (.vectorPost s.hart.id) s (fun t => t.mem = v.mem ∧ t.jobSeq = v.jobSeq + 1 ∧ t.hart.status = .running ∧
      t.hart.pc = v.hart.pc + BitVec.ofNat 64 (8 * (l.length + 1)) ∧ (∃ it, t.hart.queue = [it] ∧ it.words = w :: l ∧ it.at_ = v.hart.pc ∧
        it.s = v.hart.s ∧ it.sp = v.hart.sp ∧ it.ctx = v.hart.ctx ∧ it.seq = v.jobSeq) ∧
      ((∀ f, i ≠ .setvl f) → t.hart.s = v.hart.s) ∧
      (∀ f, i = .setvl f → Wrote f.sd (BitVec.ofNat 64 (min (v.getS f.sa).toNat (vlmax (f.imm.toNat % 4) (f.imm.toNat / 4 % 4) v.core.level)))
        (v.getP f.sa ||| v.ctx) v t) ∧
      t.hart.posted = v.hart.posted + (l.length + 1))) ∧
  (∀ (who : HartId) (s : State),
    let ran (i : Instr) : Prop :=
      ((s.hartAt who).queue ≠ [] → (s.hartAt who).heldBy = none → Completes i s (fun t => t = { s with vgrants := who :: s.vgrants })) ∧
      ((s.hartAt who).queue = [] ∨ (s.hartAt who).heldBy ≠ none → exec i s = .next s)
    ran (.elementGroupEmit who) ∧ ran (.loadGroupReturn who) ∧ ran (.storeGroupPerform who) ∧ ran (.deferredTranslationGroup who) ∧
    Completes (.elementGroupProcess who) s (fun t => t = s)) ∧
  (∀ (r : TrapRec) (l : List TrapRec) (s : State), s.core.num = s.hart.core → s.hart.deferred = r :: l → s.hart.queue = [] →
    (s.worksFor s.hart.id = false → (∀ x, s.core.reef.run = some x → x.hart = s.hart.ix → s.runWaits = false) → s.hart.remote = none →
      s.hart.vreq = none → ToSupervisor r.cause s →
      Completes (.deferredVectorTrap s.hart.id) s (fun t => EntersSupervisor r s.hart.pc s t ∧ t.hart.event = true ∧ t.hart.deferred = l)) ∧
    (s.worksFor s.hart.id = true ∨ s.hart.remote ≠ none ∨ s.hart.vreq ≠ none →
      exec (.deferredVectorTrap s.hart.id) s = .next (waitFor .drain s))) ∧
  (∀ (who : HartId) (s : State), (s.hartAt who).id = who → (s.hartAt who).deferred = [] →
    Completes (.deferredVectorTrap who) s (HartBecomes who (s.hartAt who) s)) ∧
  (∀ (va : Word) (acc : BitVec 2) (s : State), s.core.num = s.hart.core →
    let p := if acc == 0 then Perm.read else if acc == 1 then .write else .exec
    (∀ pa x u, xlat va p s = .ok (pa, x, u) → Completes (.pageTableWalk s.hart.id va acc) s (fun t =>
      t.mem = u.mem ∧ t.core.tlb = u.core.tlb ∧ t.hart = u.hart)) ∧
    (∀ e, xlat va p s = .error e → exec (.pageTableWalk s.hart.id va acc) s = .next s)) ∧
  (∀ (core pa : Nat) (s : State),
    let x := s.place pa / 32
    let y := s.sectorAt x
    let line := s.lineOf pa
    let v := focusCore core s
    (s.paExists pa = false → exec (.lineFill core pa) s = .fault .reservedAddress ∧ exec (.ownershipGrant core pa) s = .fault .reservedAddress) ∧
    (s.paExists pa = true → s.inHost pa = false → s.deadFrame pa 1 = none → v.atOwnHome line = false →
      (∀ c ∈ (s.coreAt core).copies, c.line = line → c.state = .ghost) →
      ((∃ w < 16, v.wayOk (linePlace line) w = true) → Completes (.lineFill core pa) s (fun t =>
        (∃ c ∈ (t.coreAt core).copies, c.line = line ∧ v.wayOk (linePlace line) c.way = true ∧
          c.state = (if s.inPeer (line * 128) then .remote else .valid) ∧ c.stamp = s.stampAt line ∧
          (s.inPeer (line * 128) = false → c.data = s.homeNum (line * 128) 128 ∧ c.pv = s.curAt (line * 128) ∧ c.vers = s.lineVers line) ∧
          (s.inPeer (line * 128) = true → c.data = t.homeNum (line * 128) 128 ∧ c.pv = t.curAt (line * 128))) ∧
        (s.inPeer (line * 128) = false → t.mem = s.mem ∧ t.hart = s.hart))) ∧
      ((∀ w < 16, v.wayOk (linePlace line) w = false) → Completes (.lineFill core pa) s (fun t =>
        (∀ c ∈ (t.coreAt core).copies, c.line ≠ line) ∧ (s.inPeer (line * 128) = false → t.mem = s.mem ∧ t.hart = s.hart ∧
          (t.coreAt core).copies = (s.coreAt core).copies.filter fun c => c.line != line)))) ∧
    (s.paExists pa = true → s.inHost pa = true ∨ v.atOwnHome line = true ∨ s.deadFrame pa 1 ≠ none ∨
        (∃ c ∈ (s.coreAt core).copies, c.line = line ∧ c.state ≠ .ghost) →
      Completes (.lineFill core pa) s (CoreBecomes core (s.coreAt core) s)) ∧
    (s.paExists pa = true → s.inHost pa = false → s.inPeer pa = false →
      (v.atOwnHome line = true ∨ (∃ w < 16, v.wayOk (linePlace line) w = true) →
        Completes (.ownershipGrant core pa) s (fun t => t.mem = s.mem ∧ (t.sectorAt x).owner = some core ∧
          (t.sectorAt x).dirty = (y.dirty && y.owner == some core) ∧
          (y.owner = some core → v.sharedLine core line = false → (t.sectorAt x).ver = y.ver) ∧
          (y.owner = some core → (∃ k ∈ v.cores, k.num ≠ core ∧ ∃ c ∈ k.copies, c.line = line) → (t.sectorAt x).ver = (y.ver + 1) % 2 ^ 32) ∧
          (y.owner ≠ some core → (t.sectorAt x).ver = (y.ver + 1) % 2 ^ 32 ∧
            ∀ k, k ≠ core → ∀ c ∈ (t.coreAt k).copies, c.line = line → c.state = .ghost) ∧
          (∀ z, z ≠ x → (t.sectorAt z).ver = (s.sectorAt z).ver) ∧ ∀ z, z ≠ x → z / 4 = line → t.sectorAt z = s.sectorAt z)) ∧
      (v.atOwnHome line = false → (∀ w < 16, v.wayOk (linePlace line) w = false) →
        Completes (.ownershipGrant core pa) s (fun t => t.mem = s.mem ∧ t.sectors = s.sectors))) ∧
    (s.paExists pa = true → s.inHost pa = true ∨ s.inPeer pa = true → Completes (.ownershipGrant core pa) s (CoreBecomes core (s.coreAt core) s))) ∧
  (∀ (core : Nat) (scope : BitVec 3) (s : State),
    (scope.toNat ≤ 1 → Completes (.acquireMerge core scope) s (CoreBecomes core (s.coreAt core) s)) ∧
    (2 ≤ scope.toNat → Completes (.acquireMerge core scope) s (fun t => t.mem = s.mem ∧ t.hart = s.hart ∧
      Merged (s.recorded.map Prod.snd) t ∧ (4 ≤ scope.toNat → ∀ c ∈ (t.coreAt core).copies, c.state ≠ .remote)))) ∧
  (∀ (pa : Nat) (s : State), Completes (.lazyMergeTimeout pa) s (fun t => t = { s with sectors := t.sectors } ∧
    ∀ n, t.sectorAt n = if n / 4 = s.lineOf pa then { s.sectorAt n with dirty := false } else s.sectorAt n)) ∧
  (∀ (frame : Nat) (s : State),
    (frame ∉ s.clearing → Completes (.unscrubClearDone frame) s (fun t => t = s)) ∧
    (frame ∈ s.clearing → Completes (.unscrubClearDone frame) s (fun t =>
      t = { s with unscrubbed := t.unscrubbed, clearing := s.clearing.filter (· != frame) } ∧
      ∀ f, (∃ r ∈ t.unscrubbed, r.1 ≤ f ∧ f < r.1 + r.2) ↔ (f ≠ frame ∧ ∃ r ∈ s.unscrubbed, r.1 ≤ f ∧ f < r.1 + r.2)))) ∧
  (∀ (who : HartId) (s : State), (s.hartAt who).id = who →
    ((s.hartAt who).status = .waiting .start → Completes (.hartStart who) s (fun t =>
      HartBecomes who { s.hartAt who with status := .running } s t ∧ Merged (s.recorded.map Prod.snd) t)) ∧
    ((s.hartAt who).status ≠ .waiting .start → Completes (.hartStart who) s (HartBecomes who (s.hartAt who) s)) ∧
    ((s.hartAt who).status = .waiting .watermark → who ∉ s.grants → Completes (.watermarkWake who) s (fun t =>
      HartBecomes who (s.hartAt who) s t ∧ t.grants = s.grants ++ [who])) ∧
    ((s.hartAt who).status ≠ .waiting .watermark ∨ who ∈ s.grants → Completes (.watermarkWake who) s (fun t =>
      HartBecomes who (s.hartAt who) s t ∧ t.grants = s.grants)) ∧
    (∀ entry, (∀ tab ∈ [Hart.watch, Hart.asideS, Hart.asideH], Completes (.watchTimeoutStrike who entry) s (fun t => t.mem = s.mem ∧
      (∀ k, k ≠ entry → (tab (t.hartAt who))[k]? = (tab (s.hartAt who))[k]?) ∧
      ∀ e, (tab (s.hartAt who))[entry]? = some e →
        let late := e.state = .pending ∧ 2 ^ 20 ≤ (s.clk - e.made).toNat
        (late → (tab (t.hartAt who))[entry]? = some { e with state := .struck, pv := 0 }) ∧
        (¬ late → (tab (t.hartAt who))[entry]? = some e))))) ∧
  (∀ (who : HartId) (entry : Nat) (s : State),
    let next := (oldestSenders s.allHarts).find? fun h => h.id == who
    (∀ h, next = some h → entry = h.sendsNext → (s.coreAt h.core).checkSent = false →
      (∀ g ∈ s.allHarts, g.core = h.core → ∀ a, g.unsent = some a → ∃ b, h.unsent = some b ∧ b ≤ a) ∧
      Completes (.watchCheckSend who entry) s (fun t => t.mem = s.mem ∧ (t.coreAt h.core).checkSent = true ∧
        t.hartAt who = h.sendCheck ∧ (anyUnsent h.asideS = false → anyUnsent h.asideH = false → ∀ bef e aft lo l hi, h.watch = bef ++ e :: aft → e.lines = lo ++ l :: hi →
          l.phase = .unsent → anyUnsent bef = false → (∀ x ∈ lo, x.phase ≠ .unsent) →
          t.hartAt who = { h with watch := bef ++ { e with lines := lo ++ { l with phase := .sent } :: hi } :: aft }))) ∧
    ((∀ h, next = some h → entry ≠ h.sendsNext ∨ (s.coreAt h.core).checkSent = true) → exec (.watchCheckSend who entry) s = .next s)) ∧
  (∀ (n : Nat) (h : Hart) (bef aft : List WatchEntry) (e : WatchEntry) (lo hi : List WatchLine) (l : WatchLine) (s : State),
    (CheckAt CheckPhase.isSent n h bef e aft lo l hi s → s.checkBehind n = false → Completes (.watchCheckDecide n) s (fun t => t.mem = s.mem ∧
      entriesOf (t.hartAt h.id) = bef ++ { e with lines := lo ++ { l with phase := decideLine s l } :: hi } :: aft)) ∧
    (s.checkBehind n = true → exec (.watchCheckDecide n) s = .next s) ∧
    (CheckAt CheckPhase.isDecided n h bef e aft lo l hi s → Completes (.watchReplyRecord n) s (fun t => t.mem = s.mem ∧ ∃ e',
      entriesOf (t.hartAt h.id) = bef ++ e' :: aft ∧ e'.lines = lo ++ { l with phase := .recorded } :: hi ∧
      (∀ q, l.phase = .decided false q → e.state = .pending → e'.state = .struck ∧ e'.pv = q) ∧
      (∀ q, l.phase = .decided true q → e.state = .pending → e'.state =
        if (lo ++ hi).all (fun x => x.phase == .recorded) then .confirmed else .pending) ∧
      (e.state ≠ .pending → e'.state = e.state ∧ e'.pv = e.pv))))

/-- Steps of the reef (R220-R245), the island (R285-R305), the channels (R253, R263) and the engines (R365-R370, R443-R446,
R480). The forms that complete here: reefQueueHead, imagePlacement, nodeFiring, portTokenMove, mNodeLoadReturn, reefStallTimeout,
opcodeComplete, islandOrderAdmit, matrixStepBegin, stepResult, accumulatorDrain, drainWritesPerformed, fillDataWrite, slotPublish,
channelCounterArrive, elasticMoveStart, elasticMoveDone, engineComplete, nvmeCompletion, breakwaterRequest, breakwaterDeliveryDone,
sreadQueueSlot, epochTick. What a stall fault reports, when a channel port sends a slot, and what a word waits for before island order are the
model's (log entries 72, 71). -/
def Obligations.ReefIslandChannelAndEngineSteps : Prop :=
  (∀ (core : Nat) (s : State),
    let u := focusCore core s
    (u.core.reef.run ≠ none → exec (.reefQueueHead core) s = .next (focusCore s.core.num u)) ∧
    (∀ n l, u.core.reef.run = none → u.core.reef.queue.filter u.reefWaits = n :: l →
      Completes (.reefQueueHead core) s (fun t => t.hart = s.hart ∧ t.mem = s.mem ∧
        ((u.hartAt ⟨core, n⟩).queue = [] → t.grants = s.grants ++ [⟨core, n⟩] ∧ t.vgrants = s.vgrants) ∧
        ((u.hartAt ⟨core, n⟩).queue ≠ [] → t.vgrants = s.vgrants ++ [⟨core, n⟩] ∧ t.grants = s.grants))) ∧
    (∀ (slot : BitVec 4) h b, u.allHarts.find? (fun h => h.core == core && h.status != .free) = some h →
      u.bindOf (asidOf h.csr.ptroot) slot.toNat = some b → Completes (.imagePlacement core slot) s (fun t => t.hart = s.hart ∧ t.mem = s.mem ∧
        ⟨asidOf h.csr.ptroot, slot.toNat, u.core.reef.clock + 1⟩ ∈ (t.coreAt core).reef.placed ∧
        (t.coreAt core).reef.clock = u.core.reef.clock + 1)) ∧
    (∀ r, u.core.reef.run = some r →
      let v := focus ⟨core, r.hart⟩ u
      let live := r.phase = .running ∧ r.frozen = false
      (live → r.first = none → (∀ node, Completes (.nodeFiring core node) s (RunMoved core node (fireNode r node v) r v s)) ∧
        (∀ port, Completes (.portTokenMove core port) s (RunMoved core port (movePort r port v) r v s)) ∧
        (∀ node n st, r.img.nodes[node]? = some n → r.nodes[node]? = some st → n.kind = 4 → n.op ≤ 1 →
          Completes (.mNodeLoadReturn core node) s (RunMoved core node (loadReturn r node n st v) r v s))) ∧
      (live → (65536 ≤ r.idle → r.pending v = false → Completes (.reefStallTimeout core) s (fun t =>
          (t.coreAt core).reef.run = some { r with phase := .fault ⟨15, 0, 9, 0⟩ } ∧ t.mem = s.mem)) ∧
        (r.idle < 65536 ∨ r.pending v = true → Completes (.reefStallTimeout core) s (fun t => (t.coreAt core).reef.run = some r ∧ t.mem = s.mem)) ∧
        (r.isComplete = true → Completes (.opcodeComplete core) s (fun t =>
          (t.coreAt core).reef.run = some { r with phase := .complete } ∧ t.mem = s.mem)) ∧
        (r.isComplete = false → Completes (.opcodeComplete core) s (fun t => (t.coreAt core).reef.run = some r ∧ t.mem = s.mem))) ∧
      (¬ live → ∀ node port : Nat,
        let stays (i : Instr) : Prop := Completes i s (fun t => (t.coreAt core).reef.run = some r ∧ t.mem = s.mem)
        stays (.nodeFiring core node) ∧ stays (.portTokenMove core port) ∧ stays (.mNodeLoadReturn core node) ∧
        stays (.reefStallTimeout core) ∧ stays (.opcodeComplete core)))) ∧
  (∀ (core : Nat) (s : State),
    let u := focusCore core s
    (∀ w x q, u.nextMq = some w → (u.hartAt w).id = w → (u.hartAt w).mq = x :: q → u.isl.order ≠ [] ∨ headRefusal x (admitted u) = none →
      Completes (.islandOrderAdmit core) s (fun t => (t.hartAt w).mq = q ∧ (t.coreAt core).isl.order = u.isl.order ++ [x] ∧ t.mem = s.mem)) ∧
    (u.nextMq = none → u.isl.order.length ≠ 1 → Completes (.islandOrderAdmit core) s (CoreBecomes core (s.coreAt core) s)) ∧
    (∀ x rest, u.core.failing = false → u.isl.order = x :: rest → headReady x u.isl = true →
      (headRefusal x u = none → Completes (.matrixStepBegin core) s (fun t => (t.coreAt core).isl.order = rest ∧ t.hart = s.hart ∧ t.mem = s.mem ∧
        (∀ f, x.instr = some (.mma f) ∨ x.instr = some (.mman f) ∨ x.instr = some (.mmab f) → (t.coreAt core).isl.step = some x) ∧
        (∀ f, x.instr = some (.mzero f) → ((t.coreAt core).isl.acc f.acc.toNat).elems = 0 ∧ ((t.coreAt core).isl.acc f.acc.toNat).count = 0))) ∧
      (∀ r, headRefusal x u = some r → (u.hartAt x.who).id = x.who → Completes (.matrixStepBegin core) s (fun t =>
        (t.hartAt x.who).deferred = (u.hartAt x.who).deferred ++ [⟨18, x.at_ ||| BitVec.ofNat 64 r, r, 0⟩] ∧ (t.hartAt x.who).mq = [] ∧ t.mem = s.mem))) ∧
    (∀ x rest y, u.core.failing = false → u.isl.order = x :: rest → headReady x u.isl = false → passing u [x] rest = some y →
      Completes (.matrixStepBegin core) s (fun t => (t.coreAt core).isl.order = u.isl.order.erase y ∧ t.hart = s.hart ∧ t.mem = s.mem)) ∧
    (u.core.failing = true ∨ u.isl.order = [] ∨ (∃ x rest, u.isl.order = x :: rest ∧ headReady x u.isl = false ∧ passing u [x] rest = none) →
      Completes (.matrixStepBegin core) s (CoreBecomes core (s.coreAt core) s)) ∧
    (∀ x f k long, u.isl.step = some x → x.instr.bind stepForm = some (f, k, long) →
      let a := u.isl.slot f.slotA.toNat
      let b := u.isl.slot f.slotB.toNat
      let c := u.isl.acc f.acc.toNat
      (∀ d, c.conf = some d → c.count + 1 < d.k) → Completes (.stepResult core) s (fun t =>
        let z := (t.coreAt core).isl.acc f.acc.toNat
        (t.coreAt core).isl.step = none ∧ z.count = c.count + 1 ∧ z.pv = c.pv ||| a.pv ||| b.pv ||| x.ctx ∧ z.conf = c.conf ∧
        z.elems = (stepAll (c.conf.any AccConf.int) a b long f.h c.elems).1 ∧ t.mem = s.mem)) ∧
    (∀ n rest c x, u.isl.drains = n :: rest → (u.isl.acc n).conf = some c → (u.isl.acc n).drain = some x → x.who.core = core →
      let w := focus x.who u
      (u.isSaved x.who = true ∨ (c.tgt = 3 ∧ u.isSaved c.owner = true) →
        Completes (.accumulatorDrain core) s (CoreBecomes core (s.coreAt core) s)) ∧
      (c.tgt = 2 → Completes (.accumulatorDrain core) s (CoreBecomes core (s.coreAt core) s)) ∧
      (u.isSaved x.who = false → (c.tgt = 3 → u.isSaved c.owner = false) →
      (∀ fl v, drainTo (u.isl.acc n) c x w = .done fl v → Completes (.accumulatorDrain core) s (fun t => (t.coreAt core).isl.drains = rest ∧
        t.mem = v.mem ∧ (t.coreAt core).isl.acc n = { (u.isl.acc n).cleared with writing := c.tgt == 1 })) ∧
      (drainTo (u.isl.acc n) c x w = .fail → Completes (.accumulatorDrain core) s (fun t => (t.coreAt core).isl.drains = rest ∧ t.mem = s.mem ∧
        (t.coreAt core).isl.acc n = { u.isl.acc n with drain := none })) ∧
      (drainTo (u.isl.acc n) c x w = .wait → Completes (.accumulatorDrain core) s (CoreBecomes core (s.coreAt core) s)))) ∧
    (∀ acc, Completes (.drainWritesPerformed core acc) s (fun t => t.mem = s.mem ∧ t.hart = s.hart ∧
      (t.coreAt core).isl.accs = u.isl.accs.map (fun a => if a.num == acc then { a with writing := false } else a))) ∧
    (∀ x rest f, u.isl.fills = x :: rest → x.instr = some (.mfill f) → (u.isl.slot f.slotA.toNat).live = true →
      Completes (.fillDataWrite core) s (fun t => (t.coreAt core).isl.fills = rest ∧ t.mem = s.mem ∧ t.hart = s.hart ∧
        ((t.coreAt core).isl.slot f.slotA.toNat).mem =
          maskScales (u.isl.slot f.slotA.toNat).hdr (leBytes ((partsBytes (x.pages.drop 1) u).toList.take 32768)))) ∧
    (∀ x rest, u.isl.fills = x :: rest → Completes (.fillDataWrite core) s (fun t => (t.coreAt core).isl.fills = rest ∧ t.mem = s.mem)) ∧
    (u.isl.fills = [] → Completes (.fillDataWrite core) s (CoreBecomes core (s.coreAt core) s))) ∧
  (∀ (chan b : Nat) (s : State) (c : Chan), s.chanAt chan = some c →
    Completes (.slotPublish chan) s (ChanBecomes chan { c with published := c.fills } s) ∧
    (∀ x, c.branch b = some x →
      Completes (.channelCounterArrive chan b) s (ChanBecomes chan (c.setBranch b
        { x with freedSeen := x.freed, takenSeen := x.ringTaken, seen := if x.closed then x.seen else c.published }) s) ∧
      (x.mayMove = true → s.endLive chan b x = true → Completes (.elasticMoveStart chan b) s (ChanBecomes chan (c.setBranch b { x with moving := some x.ringTaken }) s)) ∧
      (x.mayMove = false ∨ s.endLive chan b x = false → Completes (.elasticMoveStart chan b) s (ChanBecomes chan c s)) ∧
      (x.moving = some x.ringTaken → x.ringTaken < x.seen → s.endLive chan b x = true → x.skip = [] → Completes (.elasticMoveDone chan b) s (ChanBecomes chan (c.setBranch b
        { x with moving := none, buf := x.buf ++ [s.slotAt c x.ringTaken x.ringLine], ringTaken := x.ringTaken + 1 }) s)) ∧
      (x.moving ≠ some x.ringTaken ∨ x.seen ≤ x.ringTaken ∨ s.endLive chan b x = false → Completes (.elasticMoveDone chan b) s
        (ChanBecomes chan (c.setBranch b { x with moving := none }) s)))) ∧
  (∀ (who : HartId) (tag n : Nat) (st : BitVec 16) (data : List Byte) (s : State) (j : EngJob),
    let gone (l : List EngJob) : List EngJob := l.filter fun x => x.uid != j.uid
    (s.jobOf who tag s.engq = some j → nextJob j.engine s.engq = some j → s.jobReady j = true →
      (j.kind = 1 → runCopy j (focus j.who s) = none → exec (.engineComplete who tag) s = .next s) ∧
      (∀ u, j.kind = 1 → runCopy j (focus j.who s) = some u → Completes (.engineComplete who tag) s (fun t => t.mem = u.mem ∧ t.engq = gone u.engq)) ∧
      (∀ u, j.kind ≠ 1 → runDecomp j (focus j.who s) = (none, u) → Completes (.engineComplete who tag) s (fun t =>
        t.mem = u.mem ∧ t.engq = gone u.engq)) ∧
      (∀ u j', j.kind ≠ 1 → runDecomp j (focus j.who s) = (some j', u) → Completes (.engineComplete who tag) s (fun t =>
        t.mem = u.mem ∧ t.engq = u.engq.map fun x => if x.uid == j.uid then j' else x))) ∧
    (s.jobOf who tag s.engq = some j → s.jobReady j = false → exec (.engineComplete who tag) s = .next s) ∧
    (s.jobOf who tag s.engq = none → exec (.engineComplete who tag) s = .next s) ∧
    (∀ ps, s.jobOf who tag s.sreads = some j → j.pieces = some ps →
      let len := (j.op 3).toNat * Config.lbaSize j.ctl j.nsid
      let u := focus j.who { s with sreads := gone s.sreads }
      (st = 0 → data.length = len → Completes (.nvmeCompletion who tag st data) s (fun t => t.sreads = gone s.sreads ∧
        t.mem = (finishJob j 0 (BitVec.ofNat 64 len) j.pv (spansWrite j.pv (ps.map fun x => ⟨0, x.1, x.2⟩) data u)).mem)) ∧
      (st ≠ 0 → Completes (.nvmeCompletion who tag st data) s (fun t => t.sreads = gone s.sreads))) ∧
    (s.jobOf who tag s.sreads = none → exec (.nvmeCompletion who tag st data) s = .next s) ∧
    (s.jobOf who tag s.gateq = some j → s.deliveries = [] → s.nextGate = some j → s.jobReady j = true →
      (∀ pol d u, gateCheck j (focus j.who s) = (.accept pol d, u) → Completes (.breakwaterRequest who tag) s (fun t =>
        t.deliveries = u.deliveries ++ [d] ∧ t.gateq = gone u.gateq ∧ t.mem = u.mem)) ∧
      (∀ c r p u, gateCheck j (focus j.who s) = (.status c r p, u) → Completes (.breakwaterRequest who tag) s (fun t =>
        t.deliveries = u.deliveries ∧ t.gateq = gone u.gateq)) ∧
      (∀ u, gateCheck j (focus j.who s) = (.wait, u) → exec (.breakwaterRequest who tag) s = .next s)) ∧
    (s.jobOf who tag s.gateq = some j → s.jobReady j = false → exec (.breakwaterRequest who tag) s = .next s) ∧
    (s.deliveries ≠ [] → exec (.breakwaterRequest who tag) s = .next s) ∧
    (∀ d, s.jobOf who tag (s.deliveries.map Delivery.job) = some j → s.deliveries.find? (fun d => d.job.uid == j.uid) = some d →
      Completes (.breakwaterDeliveryDone who tag n) s (fun t => t.recSeq = s.recSeq + 1 ∧
        t.deliveries = s.deliveries.filter fun x => x.job.uid != d.job.uid))) ∧
  (∀ (part ctl : Nat) (s : State),
    (1024 ≤ s.sreadBusy part ctl ∨ s.nextSread part ctl = none ∨ (∃ j, s.nextSread part ctl = some j ∧ s.jobReady j = false) → exec (.sreadQueueSlot part ctl) s = .next s) ∧
    (∀ j dst u b, s.sreadBusy part ctl < 1024 → s.nextSread part ctl = some j → s.jobReady j = true →
      rangeSpans j .write (j.op 0) ((j.op 3).toNat * Config.lbaSize j.ctl j.nsid) (focus j.who s) = .ok (dst, u) →
      blockPlace j j.pv u = .ok b → dst.any (fun x => u.inHost x.pa) = false → spansRefuse dst j.pv u = none →
      Completes (.sreadQueueSlot part ctl) s (fun t => t.mem = u.mem ∧ t.sreads = u.sreads.map fun x =>
        if x.uid == j.uid then { j with pieces := some (dst.map fun y => (y.pa, y.len)), place := some b } else x))) ∧
  (∀ s : State, Completes .epochTick s (fun t => t = { s with epoch := (s.epoch + 1) % 2 ^ 64 }))

/-- Steps of the dispatcher (R391-R402), of the end of tasks (R397, R403), of pre-emption and saving (R386-R388, R404, R418-R421,
R459-R463) and of core swaps (R486, R487). The forms that complete here: queueTailObserve, recordTake, dependenceWatermarkMet,
levelPromotion, dispatchDecision, taskEnd, completionSignalWrite, preemptionComplete, preemptHartStop, markWaitTimeout,
hartContextSave, markFillPublish, markTake, tidepoolSpillTrap, tidepoolBacking, coreSwap. That a record in memory that cannot be read stays where
it is, is the model's (log entry 80). -/
def Obligations.SchedulingSteps : Prop :=
  (∀ (q : Nat) (s : State),
    (s.qdesc q = none → exec (.queueTailObserve q) s = .next s ∧ exec (.recordTake q) s = .next s) ∧
    (∀ d, s.qdesc q = some d →
      (d.dev = true → exec (.queueTailObserve q) s = .next s) ∧
      (d.dev = false → Completes (.queueTailObserve q) s (fun t => t = { s with queues := t.queues } ∧ (t.qstate q).tail = d.tail ∧
        (t.qstate q).head = (s.qstate q).head ∧ ∀ k, k ≠ q → t.qstate k = s.qstate k)) ∧
      (d.en = false ∨ (s.qstate q).head ≠ none ∨ d.head = s.qtail q d → exec (.recordTake q) s = .next s) ∧
      (∀ p, s.partAt d.part = some p → d.en = true → (s.qstate q).head = none → d.head ≠ s.qtail q d →
        let slot := d.base + 64 * (d.head.toNat % d.size)
        let r := (List.range 8).map fun k => BitVec.ofNat 64 (s.homeNum (slot + 8 * k) 8)
        let v := startClear slot s
        (v.lost slot 64 = true → Completes (.recordTake q) s (fun t => (t.qstate q).head = none ∧ t.mem = s.mem)) ∧
        (v.lost slot 64 = false →
          (∀ u, checkRecord p d r v = (some 0, u) → Completes (.recordTake q) s (fun t => t.mem = u.mem ∧
            (t.qstate q).head = some ⟨r, s.curAt slot, s.clk, max d.prio (recConf r 30 4), false⟩)) ∧
          (∀ u, checkRecord p d r v = (none, u) → exec (.recordTake q) s = .next u) ∧
          (∀ c u, checkRecord p d r v = (some (c + 1), u) → Completes (.recordTake q) s (fun t => (t.qstate q).head = none ∧
            (recWord r 2 = 0 → t.mem = (advanceHead q d u).mem))))) ∧
      (∀ p h, s.partAt d.part = some p → (s.qstate q).head = some h → h.eligible = false →
        (∀ u v, markMet p.firstCore d (recMark h.record 0) s = (true, u) → markMet p.firstCore d (recMark h.record 1) u = (true, v) →
          Completes (.dependenceWatermarkMet q) s (fun t => t.mem = v.mem ∧ (t.qstate q).head = some { h with eligible := true, since := v.clk })) ∧
        (∀ u, markMet p.firstCore d (recMark h.record 0) s = (false, u) →
          Completes (.dependenceWatermarkMet q) s (fun t => (t.qstate q).head = some h)))) ∧
    (∀ h, (s.qstate q).head = some h → h.eligible = true → promoted h.since h.level s = true → Completes (.levelPromotion q) s (fun t =>
      (t.qstate q).head = some { h with level := h.level - 1, since := s.clk } ∧ t.mem = s.mem)) ∧
    (∀ x ∈ s.tasks, x.queue = q → x.state = .saved → promoted x.since x.level s = true → Completes (.levelPromotion q) s (fun t =>
      { x with level := x.level - 1, since := s.clk } ∈ t.tasks ∧ t.mem = s.mem)) ∧
    ((s.qstate q).head = none → (∀ x ∈ s.tasks, x.queue = q → x.state ≠ .saved) → Completes (.levelPromotion q) s (fun t => t = s))) ∧
  (∀ (n q : Nat) (p : Part) (d : QDesc) (h : QHead) (cores : List Nat) (s : State), s.partAt n = some p → s.activate = false →
    (∀ x ∈ s.tasks, x.part = p.num → x.state ≠ .saved) → s.partQueues p.num = [(q, d)] → (s.qstate q).head = some h → h.eligible = true →
    h.level ≤ 11 → (recWord h.record 4).getLsbD 4 = false → pickCores (s.freeCores p) (recConf h.record 0 9) = some cores →
    Completes (.dispatchDecision n) s (fun t => ∃ x, t.tasks = s.tasks ++ [x] ∧ x.num = 1024 + s.taskSeq ∧ x.cores = cores ∧ x.queue = q ∧
      x.state = .running ∧ x.level = h.level ∧ x.done = recWord h.record 2 ∧
      ∀ c ∈ cores, ∀ k < recHarts h.record, (t.hartAt ⟨c, k⟩).pc = recWord h.record 0 ∧ (t.hartAt ⟨c, k⟩).status = .waiting .start ∧
        (t.hartAt ⟨c, k⟩).csr.argaddr = recWord h.record 1 ∧ (t.hartAt ⟨c, k⟩).csr.ptroot = d.ptroot)) ∧
  (∀ (n : Nat) (s : State), s.activate = true ∨ s.partAt n = none → exec (.dispatchDecision n) s = .next s) ∧
  (∀ (n : Nat) (x : Task) (s : State), s.taskAt n = some x →
    ((x.state = .running ∨ x.state = .stopping) → x.harts = [] → (∀ h ∈ s.taskHarts x, h.status = .halted) →
      Completes (.taskEnd n) s (fun t => t.taskHarts x = [] ∧
        t.taskAt n = some { x with state := .ended, code := if (s.taskHarts x).isEmpty then 0 else 5 })) ∧
    ((∃ h ∈ s.taskHarts x, h.status ≠ .halted) → exec (.taskEnd n) s = .next s) ∧
    (let busy := ∃ j ∈ s.engq ++ s.sreads ++ s.gateq, j.who.core ∈ x.cores ∧ s.savedOwner (some x.num) j = none
     (busy ∨ x.state ≠ .ended → exec (.completionSignalWrite n) s = .next s) ∧
     (¬ busy → x.state = .ended → Completes (.completionSignalWrite n) s (fun t => t.taskAt n = none ∧ (x.done = 0 → t.mem = s.mem) ∧
       (∀ c ∈ x.cores, (t.coreAt c).task = none) ∧
       ∀ pa u, x.done ≠ 0 → userXlat (match s.partAt x.part with | some p => p.firstCore | none => x.cores.headD 0) x.ptroot x.done .write
           (x.cores.foldl (fun s n => mergeCore n s) s) = (some pa, u) → pa % 8 = 0 → MemoryCanonical u → Unredirected pa u →
         BytesStored pa 8 (2 ^ 63 + x.code) u t))) ∧
    (x.state = .stopping → x.harts ≠ [] → s.spillOpen x = false → s.nextSpill x = none → s.taskHarts x = [] → s.marksDone x = true → x.swap = [] →
      Completes (.preemptionComplete n) s (fun t => (∀ c ∈ x.cores, (t.coreAt c).task = none) ∧
        ∃ y, t.taskAt n = some y ∧ y.state = .saved ∧ y.cores = x.cores ∧ y.level = x.level)) ∧
    (x.state = .running → x.swap = [] → Completes (.preemptionComplete n) s (fun t => t = s))) ∧
  (∀ (who : HartId) (x : Task) (s : State), s.stoppingTask who.core = some x →
    ((s.hartAt who).id = who → (s.hartAt who).status ≠ .halted → s.mayStop x (s.hartAt who) = true →
      Completes (.preemptHartStop who) s (HartBecomes who { s.hartAt who with status := .waiting .stopped } s) ∧
      (2 ^ 20 ≤ (s.clk - x.asked).toNat →
        Completes (.markWaitTimeout who) s (HartBecomes who { s.hartAt who with status := .waiting .stopped } s))) ∧
    ((s.clk - x.asked).toNat < 2 ^ 20 → exec (.markWaitTimeout who) s = .next s) ∧
    ((s.hartAt who).status = .halted ∨ s.mayStop x (s.hartAt who) = false → exec (.preemptHartStop who) s = .next s) ∧
    ((s.hartAt who).id = who →
      (s.hartAt who).status = .waiting .stopped ∨ ((s.hartAt who).status = .halted ∧ s.mayStop x (s.hartAt who) = true) →
      let u := onHart who settleHart s
      (u.opcodeWaits who = true → exec (.hartContextSave who) s = .next u) ∧
      ((u.hartAt who).id = who → u.opcodeWaits who = false → Completes (.hartContextSave who) s (fun t =>
        t.hartAt who = (u.hartAt who).freed ∧ t.mem = u.mem ∧ t.taskAt x.num = some { x with harts := x.harts ++
          [(u.hartAt who).saved (u.coreAt who.core).level ((u.coreAt who.core).isl.order.filter fun y => y.who == who)] }))) ∧
    ((s.hartAt who).status ≠ .waiting .stopped → (s.hartAt who).status ≠ .halted → exec (.hartContextSave who) s = .next s)) ∧
  (∀ (chan b : Nat) (x : Task) (c : Chan) (s : State), s.chanTask chan = some x → s.chanAt chan = some c →
    (∀ e, (s.coreAt c.prod).ends.find? (fun e => e.chan == chan && e.end_ == 0) = some e → c.mark = none → c.sendOpen = true →
      x.hasSaved c.prod e.hart s = true → c.mayMark = true → Completes (.markFillPublish chan) s (fun t =>
        t.chanAt chan = some { c.fill with mark := some c.fills })) ∧
    (c.mark ≠ none ∨ c.sendOpen = false → exec (.markFillPublish chan) s = .next s) ∧
    (∀ y e f, c.branch b = some y → (s.coreAt y.core).ends.find? (fun e => e.chan == chan && e.end_ == b + 1) = some e → y.isOpen = true →
      x.hasSaved y.core e.hart s = true → c.mark = some f → y.ringTaken ≤ f + 1 → f < y.seen → f + 1 ≤ y.ringTaken + c.nslot → y.skip = [] →
      let slots := y.buf ++ (List.range (f + 1 - y.ringTaken)).map fun k =>
        s.slotAt c (y.ringTaken + k) (if k = 0 ∧ y.buf = [] then y.line else 0)
      let left := match slots with
        | [] => []
        | (l : List (List Tok)) :: r => ((l[y.line]?).getD []).drop y.pos ++ (l.drop (y.line + 1)).flatten ++ r.flatMap List.flatten
      Completes (.markTake chan b) s (fun t => t.mem = s.mem ∧ ∃ c' y', t.chanAt chan = some c' ∧ c'.branch b = some y' ∧ y'.buf = [] ∧
        y'.ringTaken = f + 1 ∧ y'.freed = y.freed + slots.length ∧
        y'.recorded.flatten = y.recorded.flatten ++ left.filter (fun z => z.kind != 6)))) ∧
  (∀ (frame : Nat) (x : Task) (y : TideFrame) (s : State), (s.tideAt frame).task.bind s.taskAt = some x → x.state = .stopping →
    (s.spillOpen x = true → exec (.tidepoolSpillTrap frame) s = .next s ∧ exec (.tidepoolBacking frame) s = .next s) ∧
    (s.spillOpen x = false → s.nextSpill x = some y → y.frame = frame →
      (∀ h, y.d = false → y.pol = false → s.spillHart x = some h → Completes (.tidepoolSpillTrap frame) s (fun t => t.mem = s.mem ∧
        (t.tideAt frame).state = .pending h.id ∧ (t.hartAt h.id).deferred = h.deferred ++ [⟨21, spillInfo y, 1, 0⟩] ∧
        (t.hartAt h.id).event = true)) ∧
      (∀ u, y.d = false → y.pol = true → backFrame (s.partAt x.part) frame s = (true, u) →
        exec (.tidepoolSpillTrap frame) s = .next u ∧ exec (.tidepoolBacking frame) s = .next u) ∧
      (y.d = true → Completes (.tidepoolSpillTrap frame) s (fun t => t.taskAt x.num = some { x with dropped := true })) ∧
      (y.d = true ∨ y.pol = false → exec (.tidepoolBacking frame) s = .next s) ∧
      (∀ p pool f u, y.d = false → y.pol = true → s.partAt x.part = some p → p.spillPool = some pool →
        takeSpill p pool 8192 (startClear pool s) = (some f, u) → Completes (.tidepoolBacking frame) s (fun t =>
          (t.tideAt frame).state = .backed f ∧ (t.tideAt frame).held = 0 ∧ (t.tideAt frame).zmap = 0 ∧ (t.tideAt frame).backer =
            (s.slots.find? fun k => k.die == dieOfTide (paLocal (frame * 65536)) && k.slot == frame % 65536 / 160).map TideSlot.part)))) ∧
  (∀ (frame : Nat) (s : State), (∀ x y, (s.tideAt frame).task.bind s.taskAt = some x → x.state = .stopping → s.nextSpill x = some y → y.frame ≠ frame) →
    exec (.tidepoolBacking frame) s = .next s ∧ exec (.tidepoolSpillTrap frame) s = .next s) ∧
  (∀ (core : Nat) (s : State),
    ((s.coreAt core).task = none → (s.coreAt core).inService = true →
      (s.sparesUsed (core / 40) < 2 → Completes (.coreSwap core) s (fun t =>
        (t.coreAt core).failing = false ∧ t.repairs = s.repairs ++ [⟨1, core, s.sparesUsed (core / 40) + 1⟩] ∧ t.elogSeq = s.elogSeq + 1)) ∧
      (2 ≤ s.sparesUsed (core / 40) → Completes (.coreSwap core) s (fun t =>
        (t.coreAt core).inService = false ∧ t.repairs = s.repairs ∧ t.elogSeq = s.elogSeq + 1))) ∧
    (∀ x, (s.coreAt core).task.bind s.taskAt = some x → x.state = .running → core ∉ x.swap → s.taskOver x = false → s.canSave x (s.poolUsed x.part) = true →
      Completes (.coreSwap core) s (fun t => t.taskAt x.num =
        some { x with swap := core :: x.swap, back := true, state := .stopping, asked := s.clk, spilled := [] })) ∧
    (∀ x, (s.coreAt core).task.bind s.taskAt = some x → x.state = .stopping → core ∉ x.swap →
      Completes (.coreSwap core) s (fun t => t.taskAt x.num = some { x with swap := core :: x.swap })))

/-- Steps of the links (R358, R466, R467, R475-R479, R489, R492), of errors and repairs (R425, R481-R485), of power and cooling
(R496, R497), of boot and activation (R490, R493), and the reset of a partition (R423, R475). The forms that complete here: hostCxlMemRequest, priPageRequest, priResponse,
atomicopCompletion, peerResponse, peerResponseTimeout, peerOperationPacket, flitReceive, packageUnreachable, domainAssembly,
roceReadRequest, hostWorkRequest, roceIncomingData, functionLevelReset, errorRetry, uncorrectableReread, lastingFaultRepair,
thermalLimit, thermalStop, neapExit, springStateChange, boot, fwupdateActivate. The layout of an answer to a peer, that a failed
request may have been performed, which copy or row an error is in, what a lost way moves, and the zone after an activation are the
model's (log entries 77, 7, 66, 81). -/
def Obligations.LinkReliabilityAndBootSteps : Prop :=
  (∀ (pa n : Nat) (bytes : List Byte) (s : State),
    (pa + n ≤ 0x12000000000 → s.boot = .failed → exec (.hostCxlMemRequest pa (.read n)) s = .next s) ∧
    (pa + n ≤ 0x12000000000 → s.boot ≠ .failed →
      let inRange (a : Nat) : Prop := s.own + pa ≤ a ∧ a < s.own + pa + n
      let shown := (∀ a, inRange a → s.curAt a = 0 ∧ s.deadFrame a 0 = none) ∧ s.poisoned (s.own + pa) n = false
      Completes (.hostCxlMemRequest pa (.read n)) s (fun t => t = { s with clearing := t.clearing, sent := t.sent } ∧
        (shown → t.sent = .hostData ((List.range n).map fun i => s.homeByte (s.own + pa + i)) false :: s.sent) ∧
        (¬ shown → t.sent = .hostData (List.replicate n 0) true :: s.sent) ∧
        (∀ frame ∈ t.clearing, frame ∈ s.clearing ∨ ∃ a, inRange a ∧ frame = s.place a / 65536) ∧
        (∀ a, inRange a → (s.unscrubbed.any fun r => r.1 ≤ s.place a / 65536 && s.place a / 65536 < r.1 + r.2) = true →
          s.place a / 65536 ∈ t.clearing))) ∧
    (0x12000000000 < pa + n → exec (.hostCxlMemRequest pa (.read n)) s = .fault .reservedAddress) ∧
    (0x12000000000 < pa + bytes.length → exec (.hostCxlMemRequest pa (.write bytes)) s = .fault .reservedAddress) ∧
    (pa + bytes.length ≤ 0x12000000000 → s.boot = .failed → exec (.hostCxlMemRequest pa (.write bytes)) s = .next s) ∧
    (pa + bytes.length ≤ 0x12000000000 → MemoryCanonical s → s.boot ≠ .failed → s.deadFrame (s.own + pa) 0 = none →
      Completes (.hostCxlMemRequest pa (.write bytes)) s (BytesStored (s.own + pa) bytes.length (leBytes bytes) s))) ∧
  (∀ (who : HartId) (off : Nat) (s : State),
    (2 ^ 41 ≤ off → exec (.priPageRequest who off) s = .fault .reservedAddress) ∧
    (off < 2 ^ 41 → Completes (.priPageRequest who off) s (fun t => t = { s with pri := t.pri } ∧ (∀ x ∈ s.pri, x ∈ t.pri) ∧
      ∃ x ∈ t.pri, x.who = who ∧ x.page = (s.own + 0x40000000000 + off) / 4096)) ∧
    Completes (.priResponse who true) s (fun t => t = { s with pri := t.pri } ∧ ∀ x, x ∈ t.pri ↔ x ∈ s.pri ∧ (x.who ≠ who ∨ x.failed = true)) ∧
    Completes (.priResponse who false) s (fun t => t = { s with pri := t.pri } ∧ (∀ x ∈ t.pri, x.who = who → x.failed = true) ∧
      ∀ x ∈ s.pri, x.who ≠ who → x ∈ t.pri)) ∧
  (∀ (who : HartId) (r : Remote) (status : Byte) (cur : PvSet) (old : Word) (s : State), (s.hartAt who).id = who →
    (s.hartAt who).remote = some r → r.answer = none → r.failed = none →
    let maybe := remoteMaybe r (focus who s)
    let stands (x : Remote) (u t : State) : Prop := t.hartAt who = { u.hart with remote := some x } ∧ t.mem = u.mem
    (s.inHost r.addr = true →
      Completes (.atomicopCompletion who true old) s
        (stands { r with cur := pvEmpty, answer := some old } (performRemote { r with cur := pvEmpty } old (focus who s))) ∧
      Completes (.atomicopCompletion who false old) s (HartBecomes who { s.hartAt who with remote := some { r with failed := some 2 } } s)) ∧
    (s.inPeer r.addr = true →
      Completes (.peerResponse who 0 cur old) s
        (stands { r with cur := cur, answer := some old } (performRemote { r with cur := cur } old (focus who s))) ∧
      (status ≠ 0 → Completes (.peerResponse who status cur old) s (stands { r with failed := some 1, answer := if maybe.1 then some 0 else none } maybe.2)) ∧
      Completes (.peerResponseTimeout who) s (stands { r with failed := some 1, answer := if maybe.1 then some 0 else none } maybe.2))) ∧
  (∀ (who : HartId) (ok : Bool) (status : Byte) (cur : PvSet) (old : Word) (s : State),
    (s.hartAt who).remote = none → (s.hartAt who).vreq = none →
    exec (.atomicopCompletion who ok old) s = .next s ∧ exec (.peerResponse who status cur old) s = .next s ∧
    exec (.peerResponseTimeout who) s = .next s) ∧
  (∀ (who : HartId) (cur : PvSet) (old : Word) (q : VReq) (k : Nat) (x : Flight) (s : State), (s.hartAt who).id = who →
    (s.hartAt who).remote = none → (s.hartAt who).vreq = some q → q.out[k]? = some x →
    let done (set : PvSet) (u t : State) : Prop := t.mem = u.mem ∧
      (t.hartAt who).vreq = some { q with out := q.out.set k { x with r := { x.r with cur := set, answer := some old } } }
    (q.answerable s.inHost = [k] → Completes (.atomicopCompletion who true old) s
      (done 0 (performRemote { x.r with cur := 0 } old (focus who { s with freeCtr := s.freeCtr + 1 })))) ∧
    (q.answerable s.inPeer = [k] → Completes (.peerResponse who 0 cur old) s
      (done cur (performRemote { x.r with cur := cur } old (focus who { s with freeCtr := s.freeCtr + 1 }))))) ∧
  (∀ (p : PeerPacket) (s : State),
    let n := packetBytes p
    let made := amoNew p.op.toNat (8 * n) (s.homeNum p.addr n) (p.opa.toNat % 2 ^ (8 * n)) p.opb.toNat
    let answer (status value : Nat) (set : PvSet) : Outgoing := .packet (s.portTo p.src (p.addr / 128))
      (toLeBytes 1 5 ++ toLeBytes 1 status ++ toLeBytes 2 set.toNat ++ toLeBytes 2 p.tag.toNat ++ toLeBytes 2 0 ++ toLeBytes 8 value)
    (s.takes p = false → exec (.peerOperationPacket p) s = .next { s with sent := answer 1 0 (s.curAt p.addr) :: s.sent }) ∧
    (s.takes p = true → MemoryCanonical s → Completes (.peerOperationPacket p) s (fun t => t.curAt p.addr = s.curAt p.addr ||| p.pv ∧
      t.sent = answer 0 (s.homeNum p.addr n) (s.curAt p.addr ||| p.pv) :: s.sent ∧
      (∀ v, made = some v → BytesStored p.addr n v s t) ∧ (made = none → t.mem = s.mem)))) ∧
  (∀ (port : Nat) (p : PeerPacket) (l : List PeerPacket) (s : State), exec (.flitReceive port false l) s = .next s ∧
    exec (.flitReceive port true []) s = .next s ∧
    (36 ≤ port ∨ 7 < l.length → ∀ b, exec (.flitReceive port b l) s = .next s) ∧
    (port < 36 → l.length < 7 → ∀ u, exec (.peerOperationPacket p) s = .next u → exec (.flitReceive port true (p :: l)) s = exec (.flitReceive port true l) u) ∧
    (port < 36 → l.length ≤ 7 → Completes (.flitReceive port true l) s (fun t => t =
      l.foldl (fun s p => match exec (.peerOperationPacket p) s with | .next u => u | _ => s) s))) ∧
  (∀ (pkg : Nat) (ports : List Nat) (report : List Byte) (s : State),
    (pkg = s.pkg ∨ 432 ≤ pkg → exec (.packageUnreachable pkg) s = .next s ∧ exec (.domainAssembly pkg ports report) s = .next s) ∧
    (pkg ≠ s.pkg → pkg < 432 → Completes (.packageUnreachable pkg) s (fun t => pkg ∈ t.unreachable_ ∧ pkg ∉ t.zone ∧
        t.elogSeq = s.elogSeq + 1 ∧ ∀ r, s.hart.remote = some r → t.hart.remote =
          if paPkg r.addr = pkg ∧ r.answer = none then some { r with failed := some 1 } else some r) ∧
      (let failed (x : Flight) : Flight := if paPkg x.r.addr = pkg ∧ x.r.answer = none then { x with r := { x.r with failed := some 1 } } else x
       Completes (.packageUnreachable pkg) s (fun t => ∀ q, s.hart.vreq = some q → t.hart.vreq = some { q with out := q.out.map failed })) ∧
      Completes (.domainAssembly pkg ports report) s (fun t => t.hart = s.hart ∧
        (reportOk pkg report = false ∨ pkg ∉ s.unreachable_ → t.mem = s.mem) ∧
        (reportOk pkg report = true → pkg ∈ s.unreachable_ → ∀ c, c ∈ t.mem ↔ c ∈ s.mem ∧ paPkg c.1 ≠ pkg) ∧
        findBy Prod.fst pkg t.routes = some (pkg, ports.filter fun x => decide (x < 36)) ∧ (reportOk pkg report = true → pkg ∈ t.zone ∧ pkg ∉ t.unreachable_) ∧
        (reportOk pkg report = false → pkg ∉ t.zone)))) ∧
  (∀ (qp pa len : Nat) (bytes : List Byte) (s : State),
    (s.qp qp = none → exec (.roceReadRequest qp pa len) s = .next s ∧ exec (.hostWorkRequest qp pa len) s = .next s ∧
      exec (.roceIncomingData qp pa bytes) s = .next s) ∧
    (∀ p set, s.qp qp = some (p, set) →
      let (f, n) := units 65536 pa len
      let data := (List.range len).map fun i => s.homeByte (pa + i)
      let shown := p.owns f n = true ∧ (∀ k < n, s.curAt ((f + k) * 65536) = 0 ∧ s.deadFrame ((f + k) * 65536) 0 = none) ∧ s.poisoned pa len = false
      (s.qpLost qp = true → exec (.roceReadRequest qp pa len) s = .next s ∧ exec (.roceIncomingData qp pa bytes) s = .next s ∧
        exec (.hostWorkRequest qp pa len) s = .next { s with sent := .transportError qp :: s.sent }) ∧
      (s.qpLost qp = false → shown →
        Completes (.roceReadRequest qp pa len) s (fun t => t = { s with clearing := t.clearing, sent := .readAnswer qp data :: s.sent }) ∧
        Completes (.hostWorkRequest qp pa len) s (fun t => t = { s with clearing := t.clearing, sent := .workData qp data :: s.sent })) ∧
      (s.qpLost qp = false → ¬ shown → exec (.roceReadRequest qp pa len) s = .next { s with sent := .remoteAccessError qp :: s.sent } ∧
        exec (.hostWorkRequest qp pa len) s = .next { s with sent := .localProtectionError qp :: s.sent })) ∧
    (∀ p set, s.qp qp = some (p, set) → s.qpLost qp = false → bytes ≠ [] → pa < 2 ^ 64 → pa % 65536 + bytes.length ≤ 65536 →
      let frame := pa / 65536
      (p.owns frame 1 = false → exec (.roceIncomingData qp pa bytes) s = .next s) ∧
      (p.owns frame 1 = true → writeCheck 0 (frame * 65536) set 6 s = none → s.deadFrame (frame * 65536) 0 = none → MemoryCanonical s →
        Unredirected pa s → Completes (.roceIncomingData qp pa bytes) s (BytesStored pa bytes.length (leBytes bytes) s)))) ∧
  (∀ (n : Nat) (s : State), exec (.functionLevelReset 0) s = .next s ∧
    (s.partAt n = none → exec (.functionLevelReset (n + 1)) s = .next s) ∧
    (∀ p, s.partAt n = some p → Completes (.functionLevelReset (n + 1)) s (fun t => (∀ x ∈ t.tasks, x.part ≠ n) ∧
      (∀ x ∈ t.binds, x.part ≠ n) ∧ ∃ q, t.partAt n = some q ∧ q.roster = [] ∧ q.ns = [] ∧ q.qps = [] ∧ q.hfmask = 0 ∧ q.htvec = 0 ∧
        q.coves = p.coves ∧ q.frames = p.frames))) ∧
  (∀ (site : ErrorSite) (ok : Bool) (s : State), Completes (.errorRetry site ok) s (fun t => s.elogSeq + 1 ≤ t.elogSeq ∧
    (ok = true → t.poison = s.poison ∨ s.elog ≠ none) ∧ (ok = true → s.elog = none → t = { s with elogSeq := s.elogSeq + 1, freeCtr := t.freeCtr }))) ∧
  (∀ (core : Nat) (s : State), core < 320 → Completes (.errorRetry (.residue core) false) s (fun t => (t.coreAt core).failing = true ∧
    (t.coreAt core).isl.step = none ∧ (t.coreAt core).isl.order = (s.coreAt core).isl.step.toList ++ (s.coreAt core).isl.order ∧
    ((t.coreAt core).isl.accs = (s.coreAt core).isl.accs))) ∧
  (∀ (pa : Nat) (s : State),
    let line := s.lineOf pa
    let frame := s.place pa / 65536
    let holders := ((s.core :: s.cores).filter fun c => c.copies.any fun k => k.line == line).map Core.num
    (holders ≠ [] → (∀ k ∈ holders, s.dirtyIn k pa ≠ []) → ∀ again, exec (.uncorrectableReread pa again) s =
      .next { s with freeCtr := s.freeCtr + 1 }) ∧
    ((∀ k ∈ holders, s.dirtyIn k pa = []) → ∀ again, Completes (.uncorrectableReread pa again) s (fun t =>
      (holders = [] ∨ ∃ k ∈ holders, ∀ c ∈ (t.coreAt k).copies, c.line ≠ line) ∧ (again = .good → t.retired = s.retired ∧ t.rereads = s.rereads) ∧
      (∀ waiting, again = .failed waiting → frame ∈ t.retired ∧
        (frame ∉ s.retired → t.retired = frame :: s.retired ∧ ∀ w, (w, s.place pa / 128) ∈ t.rereads ↔ w ∈ waiting ∨ (w, s.place pa / 128) ∈ s.rereads))))) ∧
  (∀ (u : RepairUnit) (core bank : Nat) (s : State),
    let group := core + 320 * Config.sramGroup s.freeCtr
    let spare : Option (Nat × Nat × Bool) := match u with
      | .row stack pa => if stack < 16 then some (2, Config.bankOf pa, decide (s.used 2 (Config.bankOf pa) < 32)) else none
      | .bank stack _ => if stack < 16 then some (3, stack, decide (s.used 3 stack < 2)) else none
      | .lane port => if port < 36 then some (4, port, decide (s.used 4 port < 1)) else none
      | .sramRow c => if c = core ∧ core < 320 then some (5, group, decide (s.used 5 group < 2)) else none
      | _ => none
    (∀ x, spare = some x → Completes (.lastingFaultRepair u) s (fun t => s.elogSeq + 1 ≤ t.elogSeq ∧
      t.repairs = s.repairs ++ if x.2.2 = true then [⟨x.1, x.2.1, s.used x.1 x.2.1 + 1⟩] else [])) ∧
    (core < 320 → bank < 8 → Completes (.lastingFaultRepair (.sliceWay core bank)) s (fun t => t.elogSeq = s.elogSeq + 1 ∧
      (s.used 5 group < 2 → t.repairs = s.repairs ++ [⟨5, group, s.used 5 group + 1⟩]) ∧
      (2 ≤ s.used 5 group → 1 ≤ s.used 6 (core * 8 + bank) → t.repairs = s.repairs) ∧
      (2 ≤ s.used 5 group → s.used 6 (core * 8 + bank) < 1 → ∃ way < 16, t.repairs = s.repairs ++ [⟨6, core * 8 + bank, way⟩] ∧
        ∀ k ∈ (t.coreAt core).copies, linePlace k.line % 8 = bank → k.way ≠ way))) ∧
    (320 ≤ core ∨ 8 ≤ bank → exec (.lastingFaultRepair (.sliceWay core bank)) s = .next s)) ∧
  (∀ s : State, Completes (.lastingFaultRepair .hostLane) s (fun t => t.elogSeq = s.elogSeq + 1 ∧
      t.repairs = s.repairs ++ [⟨8, 0, s.used 8 0 + 1⟩]) ∧
    (∀ port < 16, Completes (.lastingFaultRepair (.ethernetLane port)) s (fun t => t.elogSeq = s.elogSeq + 1 ∧
      t.repairs = s.repairs ++ [⟨7, port, s.used 7 port + 1⟩])) ∧
    (∀ die, Completes (.thermalLimit die) s (fun t => t.forcedNeap = true ∧ t.power = .neap ∧ t.limitAt = s.clk ∧ t.elogSeq = s.elogSeq + 1)) ∧
    (∀ die, Completes (.thermalStop die) s (fun t => t.stopped = true ∧ t.grants = [] ∧ t.vgrants = [])) ∧
    (s.forcedNeap = true → 2 ^ 32 ≤ (s.clk - s.limitAt).toNat → Completes .neapExit s (fun t => t = { s with forcedNeap := false, power := if s.powerCmd = 1 then .neap else .nominal })) ∧
    (s.forcedNeap = false ∨ (s.clk - s.limitAt).toNat < 2 ^ 32 → exec .neapExit s = .next s) ∧
    Completes (.springStateChange true) s (fun t => t = { s with power := t.power } ∧
      t.power = if s.powerCmd = 2 ∧ s.forcedNeap = false then .spring else s.power) ∧
    Completes (.springStateChange false) s (fun t => t = { s with power := t.power } ∧
      t.power = if s.power = .spring then .nominal else s.power) ∧
    (∀ images, images ≠ [] → s.boot = .notBooted → Completes (.boot images) s (fun t => t.mem = s.mem ∧ t.hart = s.hart ∧
      (imagesNamed images = true → images.all (imageOk s.fusedSvn) = true → t.boot = .booted ∧ t.fw = firmwareOf images) ∧
      (imagesNamed images = false ∨ images.all (imageOk s.fusedSvn) = false → t.boot = .failed ∧ t.fw = s.fw))) ∧
    (∀ images, s.boot ≠ .notBooted ∨ images = [] → exec (.boot images) s = .next s) ∧
    (s.activate = false → exec .fwupdateActivate s = .next s) ∧
    (s.activate = true → s.staged = none → exec .fwupdateActivate s = .next { s with activate := false }) ∧
    (∀ f, s.activate = true → s.staged = some f → s.tasks = [] → Completes .fwupdateActivate s (fun t => t.fw = f ∧ t.staged = none ∧
      t.activate = false ∧ t.fusedSvn = min 64 (max s.fusedSvn f.svn) ∧ t.zone = [] ∧ t.mem = s.mem ∧ t.hart = s.hart ∧ ∀ n, (t.coreAt n).tlb = [] ∧ (t.coreAt n).reef.placed = [])))

/-- Management commands (R470-R475, R484, R492, R493, R496). The forms that complete here: mqtailWrite, and pcreate to power, each
answered for its code, whether its checks pass or not; a PROV stands while accesses that used its frame's words are under way. That a
command whose memory cannot be read is malformed is the model's (log entry 80). -/
def Obligations.ManagementCommands : Prop :=
  (∀ (v : Word) (s : State), (s.boot ≠ .failed → Completes (.mqtailWrite v) s (fun t => t = { s with mqTail := v })) ∧
    (s.boot = .failed → exec (.mqtailWrite v) s = .next s)) ∧
  (∀ (e : MqEntry) (s : State),
    let answers (i : Instr) (r : Done) : Prop :=
      (∀ c, r = .error c → c < 2 ^ 31 → MemoryCanonical s → Unredirected (e.at_ + 4) s → Completes i s (Answered e c s)) ∧
      (∀ u, r = .ok u → MemoryCanonical u → Unredirected (e.at_ + 4) u → Completes i s (Answered e 0 u))
    (e.at_ % 64 = 0 → answers (.pcreate e) (mqPcreate e s)) ∧
    (e.at_ % 64 = 0 → answers (.preset e) (mqPreset e s)) ∧
    (e.at_ % 64 = 0 → answers (.pdestroy e) (mqPdestroy e s)) ∧
    (e.at_ % 64 = 0 → answers (.ways e) (mqWays e s)) ∧
    (e.at_ % 64 = 0 → answers (.bwshare e) (mqBwshare e s)) ∧
    (e.at_ % 64 = 0 → answers (.mem e) (mqMem e s)) ∧
    (e.at_ % 64 = 0 → answers (.qtable e) (mqQtable e s)) ∧
    (e.at_ % 64 = 0 → answers (.ctxpool e) (mqCtxpool e s)) ∧
    (e.at_ % 64 = 0 → answers (.spillpool e) (mqSpillpool e s)) ∧
    (e.at_ % 64 = 0 → answers (.roster e) (mqRoster e s)) ∧
    (e.at_ % 64 = 0 → provWaits e s = false → answers (.prov e) (mqProv e s)) ∧
    (provWaits e s = true → exec (.prov e) s = .next s) ∧
    (e.at_ % 64 = 0 → answers (.nsbind e) (mqNsbind e s)) ∧
    (e.at_ % 64 = 0 → answers (.qpbind e) (mqQpbind e s)) ∧
    (e.at_ % 64 = 0 → answers (.fmask e) (mqFmask e s)) ∧
    (e.at_ % 64 = 0 → answers (.hvec e) (mqHvec e s)) ∧
    (e.at_ % 64 = 0 → answers (.elog e) (mqElog e s)) ∧
    (e.at_ % 64 = 0 → answers (.attest e) (mqAttest e s)) ∧
    (e.at_ % 64 = 0 → answers (.fwupdate e) (mqFwupdate e s)) ∧
    (e.at_ % 64 = 0 → answers (.power e) (mqPower e s))) ∧
  (∀ (r : Done) (e : MqEntry) (s : State), s.partAt e.part.toNat = none →
    r ∈ [mqPreset e s, mqPdestroy e s, mqWays e s, mqBwshare e s, mqMem e s, mqCtxpool e s, mqSpillpool e s, mqRoster e s, mqProv e s,
      mqNsbind e s, mqQpbind e s, mqFmask e s, mqHvec e s] → r = .error 1) ∧
  (∀ (e : MqEntry) (s : State), mqOnly e 2 = true → e.w8.toNat < 2 ^ 40 → e.w16.toNat ≤ 3 → e.part.toNat ≤ 63 →
    (s.partAt e.part.toNat = none → (∀ p ∈ s.parts, p.coves &&& e.w8.extractLsb' 0 40 = 0) → ∃ u q, mqPcreate e s = .ok u ∧
      u.partAt e.part.toNat = some q ∧ q.coves = e.w8.extractLsb' 0 40 ∧ q.cls = e.w16.toNat ∧ q.frames = [] ∧ q.roster = [] ∧
      q.hfmask = 0 ∧ q.htvec = 0 ∧ u.mem = s.mem) ∧
    (s.partAt e.part.toNat ≠ none ∨ (∃ p ∈ s.parts, p.coves &&& e.w8.extractLsb' 0 40 ≠ 0) → mqPcreate e s = .error 2)) ∧
  (∀ (e : MqEntry) (p : Part) (s : State), s.partAt e.part.toNat = some p →
    let n := e.part.toNat
    let a := e.w8.toNat
    let b := e.w16.toNat
    let set : PvSet := e.w16.extractLsb' 0 16
    let gives (r : Done) (f : State → Part → Prop) : Prop := ∃ u q, r = .ok u ∧ u.partAt n = some q ∧ f u q
    (mqOnly e 0 = true → (∃ u, exec (.functionLevelReset (n + 1)) s = .next u ∧ mqPreset e s = .ok u) ∧
      ∃ u, mqPdestroy e s = .ok u ∧ u.partAt n = none ∧ ∀ x ∈ u.slots, x.part ≠ n) ∧
    (mqOnly e 1 = true → a < 2 ^ 32 → a % 65536 < 8 → gives (mqWays e s) (fun u q =>
      findBy Prod.fst (a % 65536) q.ways = some (a % 65536, e.w8.extractLsb' 16 16) ∧
      ∀ k ∈ u.parts, k.num ≠ n → ∀ x ∈ k.ways, x.1 = a % 65536 → x.2 &&& e.w8.extractLsb' 16 16 = 0)) ∧
    (mqOnly e 1 = true → a % 256 < 16 → a / 256 ≤ 64 →
      (s.sharesOf p.num (a % 256) + a / 256 ≤ 64 → gives (mqBwshare e s) (fun _ q => findBy Prod.fst (a % 256) q.shares = some (a % 256, a / 256))) ∧
      (64 < s.sharesOf p.num (a % 256) + a / 256 → mqBwshare e s = .error 2)) ∧
    (mqOnly e 2 = true → a % 65536 = 0 → s.ezmosRange a (65536 * b) = true →
      ((∀ k ∈ s.parts, ∀ r ∈ k.frames, rangesMeet (a / 65536, b) r = false) → gives (mqMem e s) (fun _ q => q.frames = p.frames ++ [(a / 65536, b)])) ∧
      ((∃ k ∈ s.parts, ∃ r ∈ k.frames, rangesMeet (a / 65536, b) r = true) → mqMem e s = .error 2)) ∧
    (mqOnly e 2 = true → (p.holds a b = true → gives (mqCtxpool e s) (fun _ q => q.ctxPool = some (a, b))) ∧
      (p.holds a b = false → mqCtxpool e s = .error 2)) ∧
    (mqOnly e 1 = true → a % 65536 = 0 → (p.owns (a / 65536) 1 = true → gives (mqSpillpool e s) (fun _ q => q.spillPool = some a)) ∧
      (p.owns (a / 65536) 1 = false → mqSpillpool e s = .error 2)) ∧
    (mqOnly e 1 = true → s.ezmosRange a 64 = true →
      (p.roster.length < 16 → s.lost a 64 = true → mqRoster e s = .error 1) ∧
      (p.roster.length < 16 → s.lost a 64 = false → gives (mqRoster e s) (fun _ q => q.roster = p.roster ++ [leNum (s.mgmtBytes a 64)])) ∧
      (16 ≤ p.roster.length → mqRoster e s = .error 3)) ∧
    (mqOnly e 2 = true → a % 65536 = 0 → b < 2 ^ 32 → s.partFrame p (a / 65536) = true → p.knows set = true →
      p.knows (e.w16.extractLsb' 16 16) = true → s.inHost a = false → ∃ u, mqProv e s = .ok u ∧ u.curAt a = s.curAt a ||| set ∧
        (u.provAt a).ceil = e.w16.extractLsb' 16 16 ||| (s.curAt a ||| set)) ∧
    (mqOnly e 2 = true → a % 256 < 64 → a / 256 % 2 ^ 24 < 16 → b < 65536 → p.knows set = true →
      let ctl := a / 256 % 2 ^ 24
      let ns := a / 2 ^ 32
      let good := Config.lbaMeta ctl ns = false ∧ (Config.lbaSize ctl ns = 512 ∨ Config.lbaSize ctl ns = 4096)
      (good → gives (mqNsbind e s) (fun _ q => findBy Prod.fst (a % 256) q.ns = some (a % 256, ctl, ns, set))) ∧
      (¬ good → mqNsbind e s = .error 1)) ∧
    (mqOnly e 2 = true → a < 2 ^ 24 → b < 65536 → p.knows set = true → (∀ k ∈ s.parts, k.num ≠ p.num → ∀ x ∈ k.qps, x.1 ≠ a) →
      gives (mqQpbind e s) (fun _ q => findBy Prod.fst a q.qps = some (a, set))) ∧
    (mqOnly e 1 = true → gives (mqFmask e s) (fun _ q => q.hfmask = e.w8.extractLsb' 0 7 ∧ q.hfmaskPv = 0)) ∧
    (mqOnly e 1 = true → a % 8 = 0 → gives (mqHvec e s) (fun _ q => q.htvec = e.w8 ∧ q.htvecPv = 0))) ∧
  (∀ (e : MqEntry) (s : State),
    let a := e.w8.toNat
    let b := e.w16.toNat
    (mqOnly e 1 = true → s.ezmosRange a 16384 = true → mqQtable e s = .ok { s with qtable := some a }) ∧
    (∀ k ≤ 16, mqOnly e 2 = true → a % 32 = 0 → b = 2 ^ k → s.ezmosRange a (32 * b) = true → mqElog e s = .ok { s with elog := some (a, b) }) ∧
    (mqOnly e 2 = true → b % 64 = 0 → s.ezmosRange a 64 = true → s.ezmosRange b 320 = true → s.lost a 64 = false → MemoryCanonical s →
      ∃ u, mqAttest e s = .ok u ∧ BytesStored b 320 (leBytes (s.report (s.mgmtBytes a 64))) s u) ∧
    (mqOnly e 1 = true → a ≤ 2 → ∃ u, mqPower e s = .ok u ∧ u.powerCmd = a ∧
      u.power = if s.forcedNeap = true ∨ a = 1 then .neap else .nominal) ∧
    (mqOnly e 1 = true → 2 < a → mqPower e s = .error 1) ∧
    (mqOnly e 3 = true → e.w24.toNat ≤ 1 → s.ezmosRange a b = true →
      let l := Config.imageSet (s.mgmtBytes a b)
      (s.lost a b = false → imagesNamed l = true → l.all (imageOk s.fusedSvn) = true → ∃ u, mqFwupdate e s = .ok u ∧ u.staged = some (firmwareOf l) ∧
        u.activate = (s.activate || e.w24 == 1)) ∧
      (s.lost a b = true ∨ imagesNamed l = false ∨ l.all (imageOk s.fusedSvn) = false → mqFwupdate e s = .error 1)))
end

