-- ==== Sys2Proof/Laws/Encoding.lean ====
section
/-! SUPPORT. Packing fields into a word and taking them out again, format by format. -/

namespace Sys2Proof

/-- Bits of the upper part of a joined pair. -/
theorem ex_hi {v w : Nat} (a : BitVec v) (b : BitVec w) (s n : Nat) (h : w ≤ s) :
    (a ++ b).extractLsb' s n = a.extractLsb' (s - w) n := BitVec.extractLsb'_append_eq_of_le h

/-- Bits of the lower part of a joined pair. -/
theorem ex_lo {v w : Nat} (a : BitVec v) (b : BitVec w) (s n : Nat) (h : s + n ≤ w) :
    (a ++ b).extractLsb' s n = b.extractLsb' s n := BitVec.extractLsb'_append_eq_of_add_le h

/-- All the bits of a field. -/
theorem ex_self {w : Nat} (b : BitVec w) : b.extractLsb' 0 w = b := BitVec.extractLsb'_eq_self

/-- A bit as a field of one bit. -/
theorem get_ex (w : Word) (k : Nat) (b : Bool) (h : w.extractLsb' k 1 = bit b) : w.getLsbD k = b := by
  have h2 : (w.extractLsb' k 1).getLsbD 0 = w.getLsbD k := by simp
  rw [← h2, h]; cases b <;> rfl

/-- The fields of a packed word come back, RFmt. -/
theorem unpack_pack_r (j n : Nat) (f : RFmt) : unpack .r (pack j n (.r f)) = .r f := by
  cases f
  refine congrArg Fields.r ?_
  simp only [RFmt.mk.injEq]
  refine ⟨?_, ?_, ?_, ?_⟩
  all_goals
    repeat first
      | exact ex_self _
      | exact (ex_lo _ _ _ _ (by decide)).trans (ex_self _)
      | refine (ex_hi _ _ _ _ (by decide)).trans ?_

/-- The major opcode of a packed word, RFmt. -/
theorem majorOf_pack_r (j n : Nat) (f : RFmt) (hj : j < 64) : majorOf (pack j n (.r f)) = j := by
  have h : fld (pack j n (.r f)) 58 6 = BitVec.ofNat 6 j := by
    repeat first
      | exact ex_self _
      | refine (ex_hi _ _ _ _ (by decide)).trans ?_
  simp only [majorOf, h, BitVec.toNat_ofNat]
  omega

/-- The function field of a packed word, RFmt. -/
theorem fnFld_pack_r (j n : Nat) (f : RFmt) (hn : n < 128) : (fld (pack j n (.r f)) 50 7).toNat = n := by
  have h : fld (pack j n (.r f)) 50 7 = BitVec.ofNat 7 n := by
    repeat first
      | exact ex_self _
      | exact (ex_lo _ _ _ _ (by decide)).trans (ex_self _)
      | refine (ex_hi _ _ _ _ (by decide)).trans ?_
  simp only [h, BitVec.toNat_ofNat]
  omega

/-- The fields of a packed word come back, IFmt. -/
theorem unpack_pack_i (j n : Nat) (f : IFmt) : unpack .i (pack j n (.i f)) = .i f := by
  cases f
  refine congrArg Fields.i ?_
  simp only [IFmt.mk.injEq]
  refine ⟨?_, ?_, ?_⟩
  all_goals
    repeat first
      | exact ex_self _
      | exact (ex_lo _ _ _ _ (by decide)).trans (ex_self _)
      | refine (ex_hi _ _ _ _ (by decide)).trans ?_

/-- The major opcode of a packed word, IFmt. -/
theorem majorOf_pack_i (j n : Nat) (f : IFmt) (hj : j < 64) : majorOf (pack j n (.i f)) = j := by
  have h : fld (pack j n (.i f)) 58 6 = BitVec.ofNat 6 j := by
    repeat first
      | exact ex_self _
      | refine (ex_hi _ _ _ _ (by decide)).trans ?_
  simp only [majorOf, h, BitVec.toNat_ofNat]
  omega

/-- The function field of a packed word, IFmt. -/
theorem fnFld_pack_i (j n : Nat) (f : IFmt) (hn : n < 128) : (fld (pack j n (.i f)) 50 7).toNat = n := by
  have h : fld (pack j n (.i f)) 50 7 = BitVec.ofNat 7 n := by
    repeat first
      | exact ex_self _
      | exact (ex_lo _ _ _ _ (by decide)).trans (ex_self _)
      | refine (ex_hi _ _ _ _ (by decide)).trans ?_
  simp only [h, BitVec.toNat_ofNat]
  omega

/-- The fields of a packed word come back, MFmt. -/
theorem unpack_pack_m (j n : Nat) (f : MFmt) : unpack .m (pack j n (.m f)) = .m f := by
  cases f
  refine congrArg Fields.m ?_
  simp only [MFmt.mk.injEq]
  refine ⟨?_, ?_, ?_, ?_, ?_, ?_⟩
  all_goals
    repeat first
      | exact ex_self _
      | exact (ex_lo _ _ _ _ (by decide)).trans (ex_self _)
      | refine (ex_hi _ _ _ _ (by decide)).trans ?_

/-- The major opcode of a packed word, MFmt. -/
theorem majorOf_pack_m (j n : Nat) (f : MFmt) (hj : j < 64) : majorOf (pack j n (.m f)) = j := by
  have h : fld (pack j n (.m f)) 58 6 = BitVec.ofNat 6 j := by
    repeat first
      | exact ex_self _
      | refine (ex_hi _ _ _ _ (by decide)).trans ?_
  simp only [majorOf, h, BitVec.toNat_ofNat]
  omega

/-- The function field of a packed word, MFmt. -/
theorem fnFld_pack_m (j n : Nat) (f : MFmt) (hn : n < 128) : (fld (pack j n (.m f)) 50 7).toNat = n := by
  have h : fld (pack j n (.m f)) 50 7 = BitVec.ofNat 7 n := by
    repeat first
      | exact ex_self _
      | exact (ex_lo _ _ _ _ (by decide)).trans (ex_self _)
      | refine (ex_hi _ _ _ _ (by decide)).trans ?_
  simp only [h, BitVec.toNat_ofNat]
  omega

/-- The fields of a packed word come back, BFmt. -/
theorem unpack_pack_b (j n : Nat) (f : BFmt) : unpack .b (pack j n (.b f)) = .b f := by
  cases f
  refine congrArg Fields.b ?_
  simp only [BFmt.mk.injEq]
  refine ⟨?_, ?_, ?_, ?_⟩
  all_goals
    repeat first
      | exact ex_self _
      | exact (ex_lo _ _ _ _ (by decide)).trans (ex_self _)
      | refine (ex_hi _ _ _ _ (by decide)).trans ?_

/-- The major opcode of a packed word, BFmt. -/
theorem majorOf_pack_b (j n : Nat) (f : BFmt) (hj : j < 64) : majorOf (pack j n (.b f)) = j := by
  have h : fld (pack j n (.b f)) 58 6 = BitVec.ofNat 6 j := by
    repeat first
      | exact ex_self _
      | refine (ex_hi _ _ _ _ (by decide)).trans ?_
  simp only [majorOf, h, BitVec.toNat_ofNat]
  omega

/-- The function field of a packed word, BFmt. -/
theorem fnFld_pack_b (j n : Nat) (f : BFmt) (hn : n < 8) : (fld (pack j n (.b f)) 54 3).toNat = n := by
  have h : fld (pack j n (.b f)) 54 3 = BitVec.ofNat 3 n := by
    repeat first
      | exact ex_self _
      | exact (ex_lo _ _ _ _ (by decide)).trans (ex_self _)
      | refine (ex_hi _ _ _ _ (by decide)).trans ?_
  simp only [h, BitVec.toNat_ofNat]
  omega

/-- The fields of a packed word come back, VFmt. -/
theorem unpack_pack_v (j n : Nat) (f : VFmt) : unpack .v (pack j n (.v f)) = .v f := by
  cases f
  refine congrArg Fields.v ?_
  simp only [VFmt.mk.injEq]
  refine ⟨?_, ?_, ?_, ?_, ?_, ?_, ?_, ?_, ?_, ?_, ?_, ?_, ?_, ?_, ?_⟩
  all_goals try refine get_ex _ _ _ ?_
  all_goals
    repeat first
      | exact ex_self _
      | exact (ex_lo _ _ _ _ (by decide)).trans (ex_self _)
      | refine (ex_hi _ _ _ _ (by decide)).trans ?_

/-- The major opcode of a packed word, VFmt. -/
theorem majorOf_pack_v (j n : Nat) (f : VFmt) (hj : j < 64) : majorOf (pack j n (.v f)) = j := by
  have h : fld (pack j n (.v f)) 58 6 = BitVec.ofNat 6 j := by
    repeat first
      | exact ex_self _
      | refine (ex_hi _ _ _ _ (by decide)).trans ?_
  simp only [majorOf, h, BitVec.toNat_ofNat]
  omega

/-- The function field of a packed word, VFmt. -/
theorem fnFld_pack_v (j n : Nat) (f : VFmt) (hn : n < 128) : (fld (pack j n (.v f)) 50 7).toNat = n := by
  have h : fld (pack j n (.v f)) 50 7 = BitVec.ofNat 7 n := by
    repeat first
      | exact ex_self _
      | exact (ex_lo _ _ _ _ (by decide)).trans (ex_self _)
      | refine (ex_hi _ _ _ _ (by decide)).trans ?_
  simp only [h, BitVec.toNat_ofNat]
  omega

/-- The fields of a packed word come back, VMFmt. -/
theorem unpack_pack_vm (j n : Nat) (f : VMFmt) : unpack .vm (pack j n (.vm f)) = .vm f := by
  cases f
  refine congrArg Fields.vm ?_
  simp only [VMFmt.mk.injEq]
  refine ⟨?_, ?_, ?_, ?_, ?_, ?_, ?_, ?_, ?_, ?_, ?_⟩
  all_goals try refine get_ex _ _ _ ?_
  all_goals
    repeat first
      | exact ex_self _
      | exact (ex_lo _ _ _ _ (by decide)).trans (ex_self _)
      | refine (ex_hi _ _ _ _ (by decide)).trans ?_

/-- The major opcode of a packed word, VMFmt. -/
theorem majorOf_pack_vm (j n : Nat) (f : VMFmt) (hj : j < 64) : majorOf (pack j n (.vm f)) = j := by
  have h : fld (pack j n (.vm f)) 58 6 = BitVec.ofNat 6 j := by
    repeat first
      | exact ex_self _
      | refine (ex_hi _ _ _ _ (by decide)).trans ?_
  simp only [majorOf, h, BitVec.toNat_ofNat]
  omega

/-- The function field of a packed word, VMFmt. -/
theorem fnFld_pack_vm (j n : Nat) (f : VMFmt) (hn : n < 128) : (fld (pack j n (.vm f)) 50 7).toNat = n := by
  have h : fld (pack j n (.vm f)) 50 7 = BitVec.ofNat 7 n := by
    repeat first
      | exact ex_self _
      | exact (ex_lo _ _ _ _ (by decide)).trans (ex_self _)
      | refine (ex_hi _ _ _ _ (by decide)).trans ?_
  simp only [h, BitVec.toNat_ofNat]
  omega

/-- The fields of a packed word come back, XFmt. -/
theorem unpack_pack_x (j n : Nat) (f : XFmt) : unpack .x (pack j n (.x f)) = .x f := by
  cases f
  refine congrArg Fields.x ?_
  simp only [XFmt.mk.injEq]
  refine ⟨?_, ?_, ?_, ?_, ?_, ?_, ?_, ?_, ?_, ?_, ?_, ?_, ?_, ?_⟩
  all_goals try refine get_ex _ _ _ ?_
  all_goals
    repeat first
      | exact ex_self _
      | exact (ex_lo _ _ _ _ (by decide)).trans (ex_self _)
      | refine (ex_hi _ _ _ _ (by decide)).trans ?_

/-- The major opcode of a packed word, XFmt. -/
theorem majorOf_pack_x (j n : Nat) (f : XFmt) (hj : j < 64) : majorOf (pack j n (.x f)) = j := by
  have h : fld (pack j n (.x f)) 58 6 = BitVec.ofNat 6 j := by
    repeat first
      | exact ex_self _
      | refine (ex_hi _ _ _ _ (by decide)).trans ?_
  simp only [majorOf, h, BitVec.toNat_ofNat]
  omega

/-- The fields of a packed word come back, TFmt. -/
theorem unpack_pack_t (j n : Nat) (f : TFmt) : unpack .t (pack j n (.t f)) = .t f := by
  cases f
  refine congrArg Fields.t ?_
  simp only [TFmt.mk.injEq]
  refine ⟨?_, ?_, ?_, ?_, ?_, ?_, ?_⟩
  all_goals try refine get_ex _ _ _ ?_
  all_goals
    repeat first
      | exact ex_self _
      | exact (ex_lo _ _ _ _ (by decide)).trans (ex_self _)
      | refine (ex_hi _ _ _ _ (by decide)).trans ?_

/-- The major opcode of a packed word, TFmt. -/
theorem majorOf_pack_t (j n : Nat) (f : TFmt) (hj : j < 64) : majorOf (pack j n (.t f)) = j := by
  have h : fld (pack j n (.t f)) 58 6 = BitVec.ofNat 6 j := by
    repeat first
      | exact ex_self _
      | refine (ex_hi _ _ _ _ (by decide)).trans ?_
  simp only [majorOf, h, BitVec.toNat_ofNat]
  omega

/-- The function field of a packed word, TFmt. -/
theorem fnFld_pack_t (j n : Nat) (f : TFmt) (hn : n < 128) : (fld (pack j n (.t f)) 50 7).toNat = n := by
  have h : fld (pack j n (.t f)) 50 7 = BitVec.ofNat 7 n := by
    repeat first
      | exact ex_self _
      | exact (ex_lo _ _ _ _ (by decide)).trans (ex_self _)
      | refine (ex_hi _ _ _ _ (by decide)).trans ?_
  simp only [h, BitVec.toNat_ofNat]
  omega

/-- The zero fields of a packed word, RFmt. -/
theorem formatZeroOk_pack_r (j n : Nat) (f : RFmt) : formatZeroOk .r (pack j n (.r f)) = true := by
  have h0 : fld (pack j n (.r f)) 0 30 = 0#30 := by
    repeat first
      | exact ex_self _
      | exact (ex_lo _ _ _ _ (by decide)).trans (ex_self _)
      | refine (ex_hi _ _ _ _ (by decide)).trans ?_
  simp [formatZeroOk, h0]

/-- Bit 57 of a packed word, RFmt. -/
theorem convoyBitOk_pack_r (j n : Nat) (f : RFmt) : convoyBitOk .r (pack j n (.r f)) = true := by
  have h : (pack j n (.r f)).getLsbD 57 = false := by
    refine get_ex _ _ false ?_
    repeat first
      | exact ex_self _
      | exact (ex_lo _ _ _ _ (by decide)).trans (ex_self _)
      | refine (ex_hi _ _ _ _ (by decide)).trans ?_
  simp only [convoyBitOk, h]
  rfl

/-- The zero fields of a packed word, IFmt. -/
theorem formatZeroOk_pack_i (j n : Nat) (f : IFmt) : formatZeroOk .i (pack j n (.i f)) = true := by
  have h0 : fld (pack j n (.i f)) 32 8 = 0#8 := by
    repeat first
      | exact ex_self _
      | exact (ex_lo _ _ _ _ (by decide)).trans (ex_self _)
      | refine (ex_hi _ _ _ _ (by decide)).trans ?_
  simp [formatZeroOk, h0]

/-- Bit 57 of a packed word, IFmt. -/
theorem convoyBitOk_pack_i (j n : Nat) (f : IFmt) : convoyBitOk .i (pack j n (.i f)) = true := by
  have h : (pack j n (.i f)).getLsbD 57 = false := by
    refine get_ex _ _ false ?_
    repeat first
      | exact ex_self _
      | exact (ex_lo _ _ _ _ (by decide)).trans (ex_self _)
      | refine (ex_hi _ _ _ _ (by decide)).trans ?_
  simp only [convoyBitOk, h]
  rfl

/-- The zero fields of a packed word, MFmt. -/
theorem formatZeroOk_pack_m (j n : Nat) (f : MFmt) : formatZeroOk .m (pack j n (.m f)) = true := by
  have h0 : fld (pack j n (.m f)) 24 3 = 0#3 := by
    repeat first
      | exact ex_self _
      | exact (ex_lo _ _ _ _ (by decide)).trans (ex_self _)
      | refine (ex_hi _ _ _ _ (by decide)).trans ?_
  simp [formatZeroOk, h0]

/-- Bit 57 of a packed word, MFmt. -/
theorem convoyBitOk_pack_m (j n : Nat) (f : MFmt) : convoyBitOk .m (pack j n (.m f)) = true := by
  have h : (pack j n (.m f)).getLsbD 57 = false := by
    refine get_ex _ _ false ?_
    repeat first
      | exact ex_self _
      | exact (ex_lo _ _ _ _ (by decide)).trans (ex_self _)
      | refine (ex_hi _ _ _ _ (by decide)).trans ?_
  simp only [convoyBitOk, h]
  rfl

/-- The zero fields of a packed word, BFmt. -/
theorem formatZeroOk_pack_b (j n : Nat) (f : BFmt) : formatZeroOk .b (pack j n (.b f)) = true := by
  have h0 : fld (pack j n (.b f)) 50 4 = 0#4 := by
    repeat first
      | exact ex_self _
      | exact (ex_lo _ _ _ _ (by decide)).trans (ex_self _)
      | refine (ex_hi _ _ _ _ (by decide)).trans ?_
  have h1 : fld (pack j n (.b f)) 32 3 = 0#3 := by
    repeat first
      | exact ex_self _
      | exact (ex_lo _ _ _ _ (by decide)).trans (ex_self _)
      | refine (ex_hi _ _ _ _ (by decide)).trans ?_
  simp [formatZeroOk, h0, h1]

/-- Bit 57 of a packed word, BFmt. -/
theorem convoyBitOk_pack_b (j n : Nat) (f : BFmt) : convoyBitOk .b (pack j n (.b f)) = true := by
  have h : (pack j n (.b f)).getLsbD 57 = false := by
    refine get_ex _ _ false ?_
    repeat first
      | exact ex_self _
      | exact (ex_lo _ _ _ _ (by decide)).trans (ex_self _)
      | refine (ex_hi _ _ _ _ (by decide)).trans ?_
  simp only [convoyBitOk, h]
  rfl

/-- The zero fields of a packed word, VFmt. -/
theorem formatZeroOk_pack_v (j n : Nat) (f : VFmt) : formatZeroOk .v (pack j n (.v f)) = true := by
  simp [formatZeroOk]

/-- Bit 57 of a packed word, VFmt. -/
theorem convoyBitOk_pack_v (j n : Nat) (f : VFmt) : convoyBitOk .v (pack j n (.v f)) = true := rfl

/-- The zero fields of a packed word, VMFmt. -/
theorem formatZeroOk_pack_vm (j n : Nat) (f : VMFmt) : formatZeroOk .vm (pack j n (.vm f)) = true := by
  have h0 : fld (pack j n (.vm f)) 27 3 = 0#3 := by
    repeat first
      | exact ex_self _
      | exact (ex_lo _ _ _ _ (by decide)).trans (ex_self _)
      | refine (ex_hi _ _ _ _ (by decide)).trans ?_
  simp [formatZeroOk, h0]

/-- Bit 57 of a packed word, VMFmt. -/
theorem convoyBitOk_pack_vm (j n : Nat) (f : VMFmt) : convoyBitOk .vm (pack j n (.vm f)) = true := rfl

/-- The zero fields of a packed word, XFmt. -/
theorem formatZeroOk_pack_x (j n : Nat) (f : XFmt) : formatZeroOk .x (pack j n (.x f)) = true := by
  have h0 : fld (pack j n (.x f)) 0 10 = 0#10 := by
    repeat first
      | exact ex_self _
      | exact (ex_lo _ _ _ _ (by decide)).trans (ex_self _)
      | refine (ex_hi _ _ _ _ (by decide)).trans ?_
  simp [formatZeroOk, h0]

/-- Bit 57 of a packed word, XFmt. -/
theorem convoyBitOk_pack_x (j n : Nat) (f : XFmt) : convoyBitOk .x (pack j n (.x f)) = true := by
  have h : (pack j n (.x f)).getLsbD 57 = false := by
    refine get_ex _ _ false ?_
    repeat first
      | exact ex_self _
      | exact (ex_lo _ _ _ _ (by decide)).trans (ex_self _)
      | refine (ex_hi _ _ _ _ (by decide)).trans ?_
  simp only [convoyBitOk, h]
  rfl

/-- The zero fields of a packed word, TFmt. -/
theorem formatZeroOk_pack_t (j n : Nat) (f : TFmt) : formatZeroOk .t (pack j n (.t f)) = true := by
  simp [formatZeroOk]

/-- Bit 57 of a packed word, TFmt. -/
theorem convoyBitOk_pack_t (j n : Nat) (f : TFmt) : convoyBitOk .t (pack j n (.t f)) = true := by
  have h : (pack j n (.t f)).getLsbD 57 = false := by
    refine get_ex _ _ false ?_
    repeat first
      | exact ex_self _
      | exact (ex_lo _ _ _ _ (by decide)).trans (ex_self _)
      | refine (ex_hi _ _ _ _ (by decide)).trans ?_
  simp only [convoyBitOk, h]
  rfl

/-- The decoder on a packed word, RFmt. -/
theorem decode_pack_r (i : Instr) (j n : Nat) (f : RFmt) (hj : j < 64) (hn : n < 128) (hs : j ≠ 5 ∧ j ≠ 6 ∧ j ≠ 0x20) (hf : fmtOf j n = some .r)
    (hb : buildRFmt j n f = some i) (hbare : bareOk j n (pack j n (.r f)) = true) (hw : i.wf = true) :
    decode (pack j n (.r f)) = .ok i := by
  have hfn : fnOf (pack j n (.r f)) = n := by
    unfold fnOf
    rw [majorOf_pack_r j n f hj, fnFld_pack_r j n f hn]
    simp [hs.1, hs.2.1, hs.2.2]
  have hb' : build j n (.r f) = some i := hb
  unfold decode
  rw [majorOf_pack_r j n f hj, hfn, hf]
  simp only [unpack_pack_r, hb', convoyBitOk_pack_r, formatZeroOk_pack_r, hbare, hw]
  rfl

/-- The decoder on a packed word, IFmt. -/
theorem decode_pack_i (i : Instr) (j n : Nat) (f : IFmt) (hj : j < 64) (hn : n < 128) (hs : j ≠ 5 ∧ j ≠ 6 ∧ j ≠ 0x20) (hf : fmtOf j n = some .i)
    (hb : buildIFmt j n f = some i) (hbare : bareOk j n (pack j n (.i f)) = true) (hw : i.wf = true) :
    decode (pack j n (.i f)) = .ok i := by
  have hfn : fnOf (pack j n (.i f)) = n := by
    unfold fnOf
    rw [majorOf_pack_i j n f hj, fnFld_pack_i j n f hn]
    simp [hs.1, hs.2.1, hs.2.2]
  have hb' : build j n (.i f) = some i := hb
  unfold decode
  rw [majorOf_pack_i j n f hj, hfn, hf]
  simp only [unpack_pack_i, hb', convoyBitOk_pack_i, formatZeroOk_pack_i, hbare, hw]
  rfl

/-- The decoder on a packed word, MFmt. -/
theorem decode_pack_m (i : Instr) (j n : Nat) (f : MFmt) (hj : j < 64) (hn : n < 128) (hs : j ≠ 5 ∧ j ≠ 6 ∧ j ≠ 0x20) (hf : fmtOf j n = some .m)
    (hb : buildMFmt j n f = some i) (hbare : bareOk j n (pack j n (.m f)) = true) (hw : i.wf = true) :
    decode (pack j n (.m f)) = .ok i := by
  have hfn : fnOf (pack j n (.m f)) = n := by
    unfold fnOf
    rw [majorOf_pack_m j n f hj, fnFld_pack_m j n f hn]
    simp [hs.1, hs.2.1, hs.2.2]
  have hb' : build j n (.m f) = some i := hb
  unfold decode
  rw [majorOf_pack_m j n f hj, hfn, hf]
  simp only [unpack_pack_m, hb', convoyBitOk_pack_m, formatZeroOk_pack_m, hbare, hw]
  rfl

/-- The decoder on a packed word, BFmt. -/
theorem decode_pack_b (i : Instr) (j n : Nat) (f : BFmt) (hj : j < 64) (hn : n < 8) (hs : j = 5 ∨ j = 6) (hf : fmtOf j n = some .b)
    (hb : buildBFmt j n f = some i) (hbare : bareOk j n (pack j n (.b f)) = true) (hw : i.wf = true) :
    decode (pack j n (.b f)) = .ok i := by
  have hfn : fnOf (pack j n (.b f)) = n := by
    unfold fnOf
    rw [majorOf_pack_b j n f hj, fnFld_pack_b j n f hn]
    rcases hs with rfl | rfl <;> rfl
  have hb' : build j n (.b f) = some i := hb
  unfold decode
  rw [majorOf_pack_b j n f hj, hfn, hf]
  simp only [unpack_pack_b, hb', convoyBitOk_pack_b, formatZeroOk_pack_b, hbare, hw]
  rfl

/-- The decoder on a packed word, VFmt. -/
theorem decode_pack_v (i : Instr) (j n : Nat) (f : VFmt) (hj : j < 64) (hn : n < 128) (hs : j ≠ 5 ∧ j ≠ 6 ∧ j ≠ 0x20) (hf : fmtOf j n = some .v)
    (hb : buildVFmt j n f = some i) (hbare : bareOk j n (pack j n (.v f)) = true) (hw : i.wf = true) :
    decode (pack j n (.v f)) = .ok i := by
  have hfn : fnOf (pack j n (.v f)) = n := by
    unfold fnOf
    rw [majorOf_pack_v j n f hj, fnFld_pack_v j n f hn]
    simp [hs.1, hs.2.1, hs.2.2]
  have hb' : build j n (.v f) = some i := hb
  unfold decode
  rw [majorOf_pack_v j n f hj, hfn, hf]
  simp only [unpack_pack_v, hb', convoyBitOk_pack_v, formatZeroOk_pack_v, hbare, hw]
  rfl

/-- The decoder on a packed word, VMFmt. -/
theorem decode_pack_vm (i : Instr) (j n : Nat) (f : VMFmt) (hj : j < 64) (hn : n < 128) (hs : j ≠ 5 ∧ j ≠ 6 ∧ j ≠ 0x20) (hf : fmtOf j n = some .vm)
    (hb : buildVMFmt j n f = some i) (hbare : bareOk j n (pack j n (.vm f)) = true) (hw : i.wf = true) :
    decode (pack j n (.vm f)) = .ok i := by
  have hfn : fnOf (pack j n (.vm f)) = n := by
    unfold fnOf
    rw [majorOf_pack_vm j n f hj, fnFld_pack_vm j n f hn]
    simp [hs.1, hs.2.1, hs.2.2]
  have hb' : build j n (.vm f) = some i := hb
  unfold decode
  rw [majorOf_pack_vm j n f hj, hfn, hf]
  simp only [unpack_pack_vm, hb', convoyBitOk_pack_vm, formatZeroOk_pack_vm, hbare, hw]
  rfl

/-- The decoder on a packed word, XFmt. -/
theorem decode_pack_x (i : Instr) (j n : Nat) (f : XFmt) (hj : j < 64) (hn : n = 0) (hs : j = 0x20) (hf : fmtOf j n = some .x)
    (hb : buildXFmt j n f = some i) (hbare : bareOk j n (pack j n (.x f)) = true) (hw : i.wf = true) :
    decode (pack j n (.x f)) = .ok i := by
  have hfn : fnOf (pack j n (.x f)) = n := by
    unfold fnOf
    rw [majorOf_pack_x j n f hj]
    subst hs hn; rfl
  have hb' : build j n (.x f) = some i := hb
  unfold decode
  rw [majorOf_pack_x j n f hj, hfn, hf]
  simp only [unpack_pack_x, hb', convoyBitOk_pack_x, formatZeroOk_pack_x, hbare, hw]
  rfl

/-- The decoder on a packed word, TFmt. -/
theorem decode_pack_t (i : Instr) (j n : Nat) (f : TFmt) (hj : j < 64) (hn : n < 128) (hs : j ≠ 5 ∧ j ≠ 6 ∧ j ≠ 0x20) (hf : fmtOf j n = some .t)
    (hb : buildTFmt j n f = some i) (hbare : bareOk j n (pack j n (.t f)) = true) (hw : i.wf = true) :
    decode (pack j n (.t f)) = .ok i := by
  have hfn : fnOf (pack j n (.t f)) = n := by
    unfold fnOf
    rw [majorOf_pack_t j n f hj, fnFld_pack_t j n f hn]
    simp [hs.1, hs.2.1, hs.2.2]
  have hb' : build j n (.t f) = some i := hb
  unfold decode
  rw [majorOf_pack_t j n f hj, hfn, hf]
  simp only [unpack_pack_t, hb', convoyBitOk_pack_t, formatZeroOk_pack_t, hbare, hw]
  rfl

end Sys2Proof
end

