-- ==== Sys2Proof/Laws/Keyed.lean ====
section
/-! SUPPORT. Keyed lists: what is found after an entry was put in or taken out, and the same of the records that the state
keeps in such lists. -/

namespace Sys2Proof.Machine

/-- What is found has the key. -/
theorem findBy_key {α : Type} {key : α → Nat} {k : Nat} {l : List α} {x : α} (h : findBy key k l = some x) : key x = k := by
  simpa using List.find?_some h

/-- What is found stands in the list. -/
theorem findBy_mem {α : Type} {key : α → Nat} {k : Nat} {l : List α} {x : α} (h : findBy key k l = some x) : x ∈ l :=
  List.mem_of_find?_eq_some h

/-- An entry that was put in is found. -/
theorem findBy_putBy_same {α : Type} (key : α → Nat) (x : α) (l : List α) : findBy key (key x) (putBy key x l) = some x := by
  induction l with
  | nil => simp [putBy, findBy]
  | cons y l ih =>
    unfold putBy
    split
    · simp [findBy]
    · split
      · simp [findBy]
      · next h =>
        have hy : (key y == key x) = false := by
          rw [Bool.eq_false_iff]; intro hc; exact h (by rw [eq_of_beq hc]; exact beq_self_eq_true _)
        simpa [findBy, hy] using ih

/-- Putting an entry in leaves every other key alone. -/
theorem findBy_putBy_ne {α : Type} (key : α → Nat) (x : α) (k : Nat) (l : List α) (hk : k ≠ key x) :
    findBy key k (putBy key x l) = findBy key k l := by
  have hx : (key x == k) = false := by
    rw [Bool.eq_false_iff]; intro hc; exact hk (eq_of_beq hc).symm
  induction l with
  | nil => simp [putBy, findBy, hx]
  | cons y l ih =>
    unfold putBy
    split
    · simp [findBy, List.find?_cons, hx]
    · split
      · next h =>
        have hy : (key y == k) = false := by rw [← eq_of_beq h]; exact hx
        simp [findBy, hx, hy]
      · simp only [findBy, List.find?_cons] at ih ⊢
        rw [ih]

/-- An entry that was taken out is not found. -/
theorem findBy_eraseBy_same {α : Type} (key : α → Nat) (k : Nat) (l : List α) : findBy key k (eraseBy key k l) = none := by
  simp [findBy, eraseBy]

/-- Taking an entry out leaves every other key alone. -/
theorem findBy_eraseBy_ne {α : Type} (key : α → Nat) (k j : Nat) (l : List α) (h : j ≠ k) :
    findBy key j (eraseBy key k l) = findBy key j l := by
  simp only [findBy, eraseBy, List.find?_filter]
  congr 1; funext x
  by_cases hx : key x = j
  · simp [hx, h]
  · simp [hx]

/-- An entry that was put in stands in the list. -/
theorem mem_putBy_self {α : Type} (key : α → Nat) (x : α) (l : List α) : x ∈ putBy key x l := findBy_mem (findBy_putBy_same key x l)

/-- An entry of another key stays in the list. -/
theorem mem_putBy_of_ne {α : Type} (key : α → Nat) (x y : α) (l : List α) (h : y ∈ l) (hk : key y ≠ key x) : y ∈ putBy key x l := by
  induction l with
  | nil => cases h
  | cons z l ih =>
    unfold putBy
    split
    · exact List.mem_cons_of_mem _ h
    · split
      · next hz =>
        rcases List.mem_cons.1 h with rfl | h
        · exact absurd (eq_of_beq hz).symm hk
        · exact List.mem_cons_of_mem _ h
      · rcases List.mem_cons.1 h with rfl | h
        · exact List.mem_cons_self
        · exact List.mem_cons_of_mem _ (ih h)

/-- The entries of a list with an entry put in. -/
theorem of_mem_putBy {α : Type} (key : α → Nat) (x y : α) (l : List α) (h : y ∈ putBy key x l) : y = x ∨ y ∈ l := by
  induction l with
  | nil => simpa [putBy] using h
  | cons z l ih =>
    unfold putBy at h
    split at h
    · exact List.mem_cons.1 h
    · split at h
      · exact (List.mem_cons.1 h).imp_right (List.mem_cons_of_mem _)
      · rcases List.mem_cons.1 h with rfl | h
        · exact .inr List.mem_cons_self
        · exact (ih h).imp_right (List.mem_cons_of_mem _)

/-- What is found after a change of every entry that keeps its key. -/
theorem findBy_map {α : Type} (key : α → Nat) (f : α → α) (hf : ∀ x, key (f x) = key x) (k : Nat) (l : List α) :
    findBy key k (l.map f) = (findBy key k l).map f := by
  simp [findBy, List.find?_map, hf]

/-! ### The records of the state -/

theorem tideAt_setTide_same (s : State) (t : TideFrame) : (s.setTide t).tideAt t.frame = t := by
  simp [State.tideAt, State.setTide, findBy_putBy_same]
theorem tideAt_setTide_ne (s : State) (t : TideFrame) (f : Nat) (h : f ≠ t.frame) : (s.setTide t).tideAt f = s.tideAt f := by
  simp [State.tideAt, State.setTide, findBy_putBy_ne _ _ _ _ h]
/-- A frame's record names the frame. -/
theorem tideAt_frame (s : State) (f : Nat) : (s.tideAt f).frame = f := by
  unfold State.tideAt
  cases h : findBy TideFrame.frame f s.tide with
  | none => rfl
  | some x => exact findBy_key h

theorem sectorAt_setSector_same (s : State) (x : Sector) : (s.setSector x).sectorAt x.sector = x := by
  simp [State.sectorAt, State.setSector, findBy_putBy_same]
theorem sectorAt_setSector_ne (s : State) (x : Sector) (n : Nat) (h : n ≠ x.sector) : (s.setSector x).sectorAt n = s.sectorAt n := by
  simp [State.sectorAt, State.setSector, findBy_putBy_ne _ _ _ _ h]
/-- A sector's entry names the sector. -/
theorem sectorAt_sector (s : State) (n : Nat) : (s.sectorAt n).sector = n := by
  unfold State.sectorAt
  cases h : findBy Sector.sector n s.sectors with
  | none => rfl
  | some x => exact findBy_key h

theorem chanAt_setChan_same (s : State) (c : Chan) : (s.setChan c).chanAt c.key = some c := findBy_putBy_same _ _ _
theorem chanAt_setChan_ne (s : State) (c : Chan) (k : Nat) (h : k ≠ c.key) : (s.setChan c).chanAt k = s.chanAt k :=
  findBy_putBy_ne _ _ _ _ h
/-- A channel's record names its key. -/
theorem chanAt_key {s : State} {k : Nat} {c : Chan} (h : s.chanAt k = some c) : c.key = k := findBy_key h

end Sys2Proof.Machine
end

