-- ==== Sys2Proof/Laws/Focus.lean ====
section
/-! SUPPORT. Acting on another core or hart: what the focus changes, and that only that core or hart has changed once it is back. -/

namespace Sys2Proof.Machine

open Sys2Proof.Safety

/-! ### Cores -/

/-- The core of a number has the number. -/
theorem coreAt_num (s : State) (n : Nat) : (s.coreAt n).num = n := by
  unfold State.coreAt
  split
  · next h => simpa using h
  · cases h : findBy Core.num n s.cores with
    | none => rfl
    | some c => exact findBy_key h

/-- The focus changes the current core and the list of the others, and nothing else. -/
theorem focusCore_eq (n : Nat) (s : State) : ∃ l, focusCore n s = { s with core := s.coreAt n, cores := l } := by
  unfold focusCore
  split
  · next h => exact ⟨s.cores, by simp [State.coreAt, h]⟩
  · exact ⟨_, rfl⟩

theorem focusCore_core (n : Nat) (s : State) : (focusCore n s).core = s.coreAt n := by
  obtain ⟨l, h⟩ := focusCore_eq n s; rw [h]
theorem focusCore_hart (n : Nat) (s : State) : (focusCore n s).hart = s.hart := by
  obtain ⟨l, h⟩ := focusCore_eq n s; rw [h]
theorem focusCore_harts (n : Nat) (s : State) : (focusCore n s).harts = s.harts := by
  obtain ⟨l, h⟩ := focusCore_eq n s; rw [h]
theorem focusCore_mem (n : Nat) (s : State) : (focusCore n s).mem = s.mem := by
  obtain ⟨l, h⟩ := focusCore_eq n s; rw [h]
theorem focusCore_hartAt (n : Nat) (i : HartId) (s : State) : (focusCore n s).hartAt i = s.hartAt i := by
  unfold State.hartAt; rw [focusCore_hart, focusCore_harts]

/-- Every core reads as before, whichever is in focus. -/
theorem coreAt_focusCore (n k : Nat) (s : State) : (focusCore n s).coreAt k = s.coreAt k := by
  by_cases h : s.core.num = n
  · simp [focusCore, h]
  · have hs : (s.core.num == n) = false := by simpa using h
    have hl : focusCore n s = { s with core := s.coreAt n, cores := putBy Core.num s.core (eraseBy Core.num n s.cores) } := by
      simp [focusCore, h]
    have hk : (focusCore n s).coreAt k = if (s.coreAt n).num == k then s.coreAt n
        else (findBy Core.num k (putBy Core.num s.core (eraseBy Core.num n s.cores))).getD (Core.initial k) := by rw [hl]; rfl
    rw [hk, coreAt_num]
    by_cases hn : n = k
    · subst hn; simp
    · have h1 : (n == k) = false := by simpa using hn
      simp only [h1, Bool.false_eq_true, if_false]
      by_cases hc : s.core.num = k
      · subst hc; simp [findBy_putBy_same, State.coreAt]
      · rw [findBy_putBy_ne _ _ _ _ (fun e => hc e.symm), findBy_eraseBy_ne _ _ _ _ (fun e => hn e.symm)]
        have h2 : (s.core.num == k) = false := by simpa using hc
        simp only [State.coreAt, h2, Bool.false_eq_true, if_false]

/-- A change of the current core, seen at every number. -/
theorem coreAt_mapCore (f : Core → Core) (s : State) (hf : (f s.core).num = s.core.num) (k : Nat) :
    (s.mapCore f).coreAt k = if k = s.core.num then f s.core else s.coreAt k := by
  unfold State.coreAt State.mapCore
  by_cases h : k = s.core.num
  · simp [hf, h]
  · have h2 : (s.core.num == k) = false := by simpa using fun e => h e.symm
    simp [hf, h, h2]

/-- Acting on another core's record leaves every other core as it was. -/
theorem onCore_mapCore (n : Nat) (f : Core → Core) (s : State) (hf : (f (s.coreAt n)).num = n) :
    CoreBecomes n (f (s.coreAt n)) s (onCore n (fun s => s.mapCore f) s) := by
  have hc : (focusCore n s).core = s.coreAt n := focusCore_core n s
  have hn : (f (focusCore n s).core).num = (focusCore n s).core.num := by rw [hc, hf, coreAt_num]
  refine ⟨?_, fun k hk => ?_, ?_, ?_⟩
  · simp only [onCore, coreAt_focusCore, coreAt_mapCore f _ hn, hc, coreAt_num, if_true]
  · simp only [onCore, coreAt_focusCore, coreAt_mapCore f _ hn, hc, coreAt_num, if_neg hk]
  · simp only [onCore, focusCore_hart, State.mapCore]
  · simp only [onCore, focusCore_mem, State.mapCore]

/-- Acting on no core leaves every core as it was. -/
theorem onCore_same (n : Nat) (s : State) : CoreBecomes n (s.coreAt n) s (onCore n (fun s => s) s) :=
  ⟨by simp only [onCore, coreAt_focusCore], fun k _ => by simp only [onCore, coreAt_focusCore], by simp only [onCore, focusCore_hart],
   by simp only [onCore, focusCore_mem]⟩

/-! ### Harts -/

/-- The hart in focus is the one named. -/
theorem focus_hart (i : HartId) (s : State) : (focus i s).hart = s.hartAt i := by
  unfold focus
  rw [focusCore_hart]
  split
  · next h => simp [State.hartAt, h]
  · rfl

theorem focus_core (i : HartId) (s : State) : (focus i s).core = s.coreAt i.core := by
  unfold focus
  rw [focusCore_core]
  split <;> rfl
theorem focus_mem (i : HartId) (s : State) : (focus i s).mem = s.mem := by
  unfold focus
  rw [focusCore_mem]
  split <;> rfl

/-- The state with the hart of its own identity in focus, where that hart runs on the current core. -/
theorem focus_self (s : State) (h : s.core.num = s.hart.core) : focus s.hart.id s = s := by
  simp [focus, focusCore, Hart.id, h]

/-- The identity of a hart by its parts. -/
theorem hart_id_eq_iff (h : Hart) (i : HartId) : h.id = i ↔ (h.core = i.core ∧ h.ix = i.hart) := by
  cases i; simp [Hart.id]

theorem hidKey_id (h : Hart) : hidKey h.id = h.key := rfl

/-- The hart an identifier names, in another hart: a look through the list of the others. -/
theorem hartAt_of_ne {s : State} {i : HartId} (h : (s.hart.core == i.core && s.hart.ix == i.hart) = false) :
    s.hartAt i = (findBy Hart.key (hidKey i) s.harts).getD (Hart.initial i.core i.hart) := by
  simp only [State.hartAt, h, Bool.false_eq_true, if_false]

/-- Acting on another hart's context leaves every other hart as it was. -/
theorem onHart_mapHart (i : HartId) (f : Hart → Hart) (s : State) (hi : (s.hartAt i).id = i) (hf : (f (s.hartAt i)).id = i) :
    HartBecomes i (f (s.hartAt i)) s (onHart i (fun s => s.mapHart f) s) := by
  obtain ⟨ic, ih⟩ := i
  by_cases hc : s.hart.id = ⟨ic, ih⟩
  · -- the hart is current already
    have h1 : s.hart.core = ic ∧ s.hart.ix = ih := (hart_id_eq_iff _ _).1 hc
    have hat : s.hartAt ⟨ic, ih⟩ = s.hart := by simp [State.hartAt, h1]
    rw [hat] at hf ⊢
    have hf' := (hart_id_eq_iff _ _).1 hf
    have hh : (onHart ⟨ic, ih⟩ (fun s => s.mapHart f) s).hart = f s.hart ∧
        (onHart ⟨ic, ih⟩ (fun s => s.mapHart f) s).harts = s.harts ∧ (onHart ⟨ic, ih⟩ (fun s => s.mapHart f) s).mem = s.mem := by
      have e1 : (focus ⟨ic, ih⟩ s) = focusCore ic s := by simp [focus, h1]
      simp only [onHart, e1, hc]
      have e2 : focus ⟨ic, ih⟩ ((focusCore ic s).mapHart f) = focusCore ic ((focusCore ic s).mapHart f) := by
        simp [focus, focusCore_hart, State.mapHart, hf']
      rw [e2]
      simp [focusCore_hart, focusCore_harts, focusCore_mem, State.mapHart]
    refine ⟨?_, fun w hw hk => ?_, fun h => absurd hc h, hh.2.2⟩
    · simp [State.hartAt, hh.1, hf']
    · have hw' : (ic == w.core && ih == w.hart) = false := by
        rw [Bool.eq_false_iff]; intro e
        simp at e; exact hw (by cases w; simp_all [hidKey])
      simp [State.hartAt, hh.1, hh.2.1, hf', h1, hw']
  · have hne : (s.hart.core == ic && s.hart.ix == ih) = false := by
      rw [Bool.eq_false_iff]; intro e
      simp at e; exact hc ((hart_id_eq_iff _ _).2 e)
    have hi' := (hart_id_eq_iff _ _).1 hi
    have hf' := (hart_id_eq_iff _ _).1 hf
    have hkey : (f (s.hartAt ⟨ic, ih⟩)).key = hidKey ⟨ic, ih⟩ := by rw [← hidKey_id, hf]
    have hne2 : ((f (s.hartAt ⟨ic, ih⟩)).core == s.hart.id.core && (f (s.hartAt ⟨ic, ih⟩)).ix == s.hart.id.hart) = false := by
      rw [hf'.1, hf'.2]
      rw [Bool.eq_false_iff] at hne ⊢; intro e; apply hne
      simp [Hart.id] at e ⊢; exact ⟨e.1.symm, e.2.symm⟩
    -- the state in focus
    obtain ⟨c1, l1, e1⟩ : ∃ c l, focus ⟨ic, ih⟩ s =
        { s with hart := s.hartAt ⟨ic, ih⟩, core := c, cores := l,
                 harts := putBy Hart.key s.hart (eraseBy Hart.key (hidKey ⟨ic, ih⟩) s.harts) } := by
      unfold focus
      simp only [hne, Bool.false_eq_true, if_false]
      obtain ⟨l, h⟩ := focusCore_eq ic
        { s with hart := s.hartAt ⟨ic, ih⟩, harts := putBy Hart.key s.hart (eraseBy Hart.key (hidKey ⟨ic, ih⟩) s.harts) }
      exact ⟨_, l, h⟩
    have hback : ({ s with hart := f (s.hartAt ⟨ic, ih⟩), core := c1, cores := l1,
                           harts := putBy Hart.key s.hart (eraseBy Hart.key (hidKey ⟨ic, ih⟩) s.harts) } : State).hartAt s.hart.id = s.hart := by
      refine (hartAt_of_ne hne2).trans ?_
      simp only [hidKey_id, findBy_putBy_same, Option.getD_some]
    obtain ⟨c2, l2, e2⟩ : ∃ c l, onHart ⟨ic, ih⟩ (fun s => s.mapHart f) s =
        { s with core := c, cores := l,
                 harts := putBy Hart.key (f (s.hartAt ⟨ic, ih⟩)) (eraseBy Hart.key s.hart.key
                   (putBy Hart.key s.hart (eraseBy Hart.key (hidKey ⟨ic, ih⟩) s.harts))) } := by
      simp only [onHart, e1, State.mapHart]
      unfold focus
      simp only [hne2, Bool.false_eq_true, if_false, hback]
      obtain ⟨l, h⟩ := focusCore_eq s.hart.id.core
        { s with hart := s.hart, core := c1, cores := l1,
                 harts := putBy Hart.key (f (s.hartAt ⟨ic, ih⟩)) (eraseBy Hart.key (hidKey s.hart.id)
                   (putBy Hart.key s.hart (eraseBy Hart.key (hidKey ⟨ic, ih⟩) s.harts))) }
      exact ⟨_, l, h⟩
    rw [e2]
    refine ⟨?_, fun w hw hk => ?_, fun _ => rfl, rfl⟩
    · refine Eq.trans (hartAt_of_ne (by exact hne)) ?_
      simp only [← hkey, findBy_putBy_same, Option.getD_some]
    · by_cases hs : (s.hart.core == w.core && s.hart.ix == w.hart) = true
      · simp only [State.hartAt, hs, if_true]
      · have hs' := Bool.eq_false_iff.2 hs
        rw [hartAt_of_ne hs']
        refine Eq.trans (hartAt_of_ne (by exact hs')) ?_
        dsimp only
        rw [findBy_putBy_ne _ _ _ _ (by rw [hkey]; exact hw), findBy_eraseBy_ne _ _ _ _ hk, findBy_putBy_ne _ _ _ _ hk,
          findBy_eraseBy_ne _ _ _ _ hw]

end Sys2Proof.Machine
end

