-- ==== Sys2Proof/Laws/Memory.lean ====
section
/-! SUPPORT. The laws of memory: a read after a write, and that every memory operation keeps the canonical form. -/

namespace Sys2Proof.Machine

/-- The canonical form of a list with a head: the head is not zero and lies below the rest, which is canonical. -/
theorem memWf_cons (c : Host.Cell) (m : List Host.Cell) :
    memWf (c :: m) = true ↔ c.2 ≠ 0 ∧ (∀ d ∈ m, c.1 < d.1) ∧ memWf m = true := by
  induction m generalizing c with
  | nil => simp [memWf]
  | cons d m ih =>
    simp only [memWf, Bool.and_eq_true, decide_eq_true_eq, bne_iff_ne, ne_eq, List.mem_cons]
    constructor
    · rintro ⟨⟨hc, hd⟩, hm⟩
      refine ⟨hc, ?_, hm⟩
      rintro e (rfl | he)
      · exact hd
      · exact lt_trans hd (((ih d).1 hm).2.1 e he)
    · rintro ⟨hc, hd, hm⟩
      exact ⟨⟨hc, hd d (Or.inl rfl)⟩, hm⟩

/-- A byte below every listed one reads as zero. -/
theorem memRead_below (a : Nat) (m : List Host.Cell) (h : ∀ d ∈ m, a < d.1) : memRead a m = 0 := by
  cases m with
  | nil => rfl
  | cons c m =>
    have := h c (by simp)
    simp [memRead, this, Nat.ne_of_lt this]

/-- What a write lists lies at its address or was listed. -/
theorem memWrite_mem (a : Nat) (v : Byte) (m : List Host.Cell) (d : Host.Cell) (h : d ∈ memWrite a v m) :
    d = (a, v) ∨ d ∈ m := by
  induction m with
  | nil => simp only [memWrite] at h; split at h <;> simp_all
  | cons c m ih =>
    simp only [memWrite] at h
    split at h
    · split at h <;> simp_all
    · split at h
      · split at h
        · exact Or.inr (List.mem_cons_of_mem _ h)
        · simp only [List.mem_cons] at h ⊢; tauto
      · simp only [List.mem_cons] at h ⊢
        rcases h with h | h
        · exact Or.inr (Or.inl h)
        · rcases ih h with h | h
          · exact Or.inl h
          · exact Or.inr (Or.inr h)

/-- A write of a byte keeps the canonical form. -/
theorem memWf_memWrite (a : Nat) (v : Byte) (m : List Host.Cell) (h : memWf m = true) : memWf (memWrite a v m) = true := by
  induction m with
  | nil => simp only [memWrite]; split <;> simp_all [memWf]
  | cons c m ih =>
    obtain ⟨hc, hd, hm⟩ := (memWf_cons c m).1 h
    simp only [memWrite]
    split
    · rename_i hlt
      split
      · exact h
      · refine (memWf_cons _ _).2 ⟨by simp_all, ?_, h⟩
        intro d hd'
        rcases List.mem_cons.1 hd' with rfl | hd'
        · exact hlt
        · exact lt_trans hlt (hd d hd')
    · split
      · rename_i hlt heq
        split
        · exact hm
        · refine (memWf_cons _ _).2 ⟨by simp_all, ?_, hm⟩
          intro d hd'
          have := hd d hd'
          simp_all
      · refine (memWf_cons _ _).2 ⟨hc, ?_, ih hm⟩
        intro d hd'
        rcases memWrite_mem _ _ _ _ hd' with rfl | hd'
        · rename_i h1 h2
          simp only [beq_iff_eq] at h2
          show c.1 < a
          omega
        · exact hd d hd'

/-- A byte reads as it was written. -/
theorem memRead_memWrite_same (a : Nat) (v : Byte) (m : List Host.Cell) (h : memWf m = true) :
    memRead a (memWrite a v m) = v := by
  induction m with
  | nil => simp only [memWrite]; split <;> simp_all [memRead]
  | cons c m ih =>
    obtain ⟨hc, hd, hm⟩ := (memWf_cons c m).1 h
    simp only [memWrite]
    split
    · rename_i hlt
      split
      · simp_all [memRead, Nat.ne_of_lt hlt]
      · simp [memRead]
    · split
      · rename_i hlt heq
        simp only [beq_iff_eq] at heq
        split
        · subst heq; rw [memRead_below _ _ hd]; simp_all
        · simp [memRead]
      · rename_i h1 h2
        simp only [beq_iff_eq] at h2
        simp only [memRead, beq_iff_eq, h2, h1, if_false]
        exact ih hm

/-- A write leaves every other byte alone. -/
theorem memRead_memWrite_ne (a b : Nat) (v : Byte) (m : List Host.Cell) (h : memWf m = true) (hab : b ≠ a) :
    memRead b (memWrite a v m) = memRead b m := by
  induction m with
  | nil => simp only [memWrite]; split <;> simp [memRead, hab]
  | cons c m ih =>
    obtain ⟨hc, hd, hm⟩ := (memWf_cons c m).1 h
    simp only [memWrite]
    split
    · rename_i hlt
      split
      · rfl
      · simp only [memRead, beq_iff_eq, hab, if_false]
        split
        · rename_i hba
          have h1 : b < c.1 := lt_trans hba hlt
          simp [Nat.ne_of_lt h1, h1]
        · rfl
    · split
      · rename_i hlt heq
        simp only [beq_iff_eq] at heq
        have hbc : b ≠ c.1 := by omega
        split
        · simp only [memRead, beq_iff_eq, hbc, if_false]
          split
          · rename_i hbc'
            exact memRead_below b m fun d hd' => lt_trans hbc' (hd d hd')
          · rfl
        · simp [memRead, hab, ← heq]
      · simp only [memRead, beq_iff_eq]
        split
        · rfl
        · split
          · rfl
          · exact ih hm

/-- A run of writes keeps the canonical form. -/
theorem memWf_memWriteList (a : Nat) (l : List Byte) (m : List Host.Cell) (h : memWf m = true) :
    memWf (memWriteList a l m) = true := by
  induction l generalizing a m with
  | nil => exact h
  | cons v l ih => exact ih (a + 1) _ (memWf_memWrite a v m h)

/-- A run of writes leaves every byte outside it alone. -/
theorem memRead_memWriteList_ne (a b : Nat) (l : List Byte) (m : List Host.Cell) (h : memWf m = true)
    (hb : b < a ∨ a + l.length ≤ b) : memRead b (memWriteList a l m) = memRead b m := by
  induction l generalizing a m with
  | nil => rfl
  | cons v l ih =>
    simp only [List.length_cons] at hb
    rw [memWriteList, ih (a + 1) _ (memWf_memWrite a v m h) (by omega), memRead_memWrite_ne a b v m h (by omega)]

/-- A run of writes is read back. -/
theorem memRead_memWriteList (a k : Nat) (l : List Byte) (m : List Host.Cell) (h : memWf m = true) (hk : k < l.length) :
    memRead (a + k) (memWriteList a l m) = l[k] := by
  induction l generalizing a m k with
  | nil => simp at hk
  | cons v l ih =>
    rw [memWriteList]
    cases k with
    | zero =>
      rw [memRead_memWriteList_ne _ _ _ _ (memWf_memWrite a v m h) (by omega)]
      exact memRead_memWrite_same a v m h
    | succ k =>
      have := ih (a + 1) k (memWrite a v m) (memWf_memWrite a v m h) (by simpa using hk)
      rw [show a + (k + 1) = a + 1 + k by omega, this]; rfl

/-- A filter of a canonical list is canonical. -/
theorem memWf_filter (p : Host.Cell → Bool) (m : List Host.Cell) (h : memWf m = true) : memWf (m.filter p) = true := by
  induction m with
  | nil => rfl
  | cons c m ih =>
    obtain ⟨hc, hd, hm⟩ := (memWf_cons c m).1 h
    simp only [List.filter_cons]
    split
    · exact (memWf_cons _ _).2 ⟨hc, fun d hd' => hd d (List.mem_filter.1 hd').1, ih hm⟩
    · exact ih hm

/-- Dropping a range keeps the canonical form. -/
theorem memWf_memErase (lo n : Nat) (m : List Host.Cell) (h : memWf m = true) : memWf (memErase lo n m) = true :=
  memWf_filter _ m h

/-- The bytes of a dropped range read as zero, and every other byte as before. -/
theorem memRead_memErase (lo n a : Nat) (m : List Host.Cell) (h : memWf m = true) :
    memRead a (memErase lo n m) = if lo ≤ a ∧ a < lo + n then 0 else memRead a m := by
  induction m with
  | nil => simp [memErase, memRead]
  | cons c m ih =>
    obtain ⟨hc, hd, hm⟩ := (memWf_cons c m).1 h
    have ih' := ih hm
    unfold memErase at ih' ⊢
    rw [List.filter_cons]
    by_cases hk : (decide (c.1 < lo) || decide (lo + n ≤ c.1)) = true
    · simp only [hk, if_true]
      have hk' : c.1 < lo ∨ lo + n ≤ c.1 := by simpa using hk
      simp only [memRead, beq_iff_eq]
      by_cases h1 : a = c.1
      · subst h1
        have h2 : ¬ (lo ≤ c.1 ∧ c.1 < lo + n) := by omega
        simp [h2]
      · by_cases h2 : a < c.1
        · simp [h1, h2]
        · simp only [h1, h2, if_false]; exact ih'
    · simp only [hk]
      have hk' : lo ≤ c.1 ∧ c.1 < lo + n := by
        simp only [Bool.or_eq_true, decide_eq_true_eq] at hk; omega
      rw [if_neg (by simp), ih']
      simp only [memRead, beq_iff_eq]
      by_cases h1 : a = c.1
      · subst h1; simp [hk']
      · by_cases h2 : a < c.1
        · simp only [h1, h2, if_false, if_true]
          split
          · rfl
          · exact memRead_below a m fun d hd' => lt_trans h2 (hd d hd')
        · simp [h1, h2]

end Sys2Proof.Machine
end

