-- ==== Sys2Proof/Laws/PerInstr.lean ====
section
/-! SUPPORT. Decoding the word of an instruction gives the instruction back: one lemma per constructor. -/

namespace Sys2Proof.Laws

namespace RoundTrip

/-- The decoder reads the word of a well-formed instruction as that instruction (R27-R49). -/
def Statement (i : Instr) : Prop := i.wf = true → decode (encode i) = .ok i

theorem add (f : RFmt) : Statement (Instr.add f) := fun h => decode_pack_r _ 0x01 1 f (by decide) (by decide) (by decide) rfl rfl rfl h
theorem sub (f : RFmt) : Statement (Instr.sub f) := fun h => decode_pack_r _ 0x01 2 f (by decide) (by decide) (by decide) rfl rfl rfl h
theorem and (f : RFmt) : Statement (Instr.and f) := fun h => decode_pack_r _ 0x01 3 f (by decide) (by decide) (by decide) rfl rfl rfl h
theorem or (f : RFmt) : Statement (Instr.or f) := fun h => decode_pack_r _ 0x01 4 f (by decide) (by decide) (by decide) rfl rfl rfl h
theorem xor (f : RFmt) : Statement (Instr.xor f) := fun h => decode_pack_r _ 0x01 5 f (by decide) (by decide) (by decide) rfl rfl rfl h
theorem andn (f : RFmt) : Statement (Instr.andn f) := fun h => decode_pack_r _ 0x01 6 f (by decide) (by decide) (by decide) rfl rfl rfl h
theorem sll (f : RFmt) : Statement (Instr.sll f) := fun h => decode_pack_r _ 0x01 7 f (by decide) (by decide) (by decide) rfl rfl rfl h
theorem srl (f : RFmt) : Statement (Instr.srl f) := fun h => decode_pack_r _ 0x01 8 f (by decide) (by decide) (by decide) rfl rfl rfl h
theorem sra (f : RFmt) : Statement (Instr.sra f) := fun h => decode_pack_r _ 0x01 9 f (by decide) (by decide) (by decide) rfl rfl rfl h
theorem mul (f : RFmt) : Statement (Instr.mul f) := fun h => decode_pack_r _ 0x01 10 f (by decide) (by decide) (by decide) rfl rfl rfl h
theorem mulh (f : RFmt) : Statement (Instr.mulh f) := fun h => decode_pack_r _ 0x01 11 f (by decide) (by decide) (by decide) rfl rfl rfl h
theorem mulhu (f : RFmt) : Statement (Instr.mulhu f) := fun h => decode_pack_r _ 0x01 12 f (by decide) (by decide) (by decide) rfl rfl rfl h
theorem div (f : RFmt) : Statement (Instr.div f) := fun h => decode_pack_r _ 0x01 13 f (by decide) (by decide) (by decide) rfl rfl rfl h
theorem divu (f : RFmt) : Statement (Instr.divu f) := fun h => decode_pack_r _ 0x01 14 f (by decide) (by decide) (by decide) rfl rfl rfl h
theorem rem (f : RFmt) : Statement (Instr.rem f) := fun h => decode_pack_r _ 0x01 15 f (by decide) (by decide) (by decide) rfl rfl rfl h
theorem remu (f : RFmt) : Statement (Instr.remu f) := fun h => decode_pack_r _ 0x01 16 f (by decide) (by decide) (by decide) rfl rfl rfl h
theorem min (f : RFmt) : Statement (Instr.min f) := fun h => decode_pack_r _ 0x01 17 f (by decide) (by decide) (by decide) rfl rfl rfl h
theorem max (f : RFmt) : Statement (Instr.max f) := fun h => decode_pack_r _ 0x01 18 f (by decide) (by decide) (by decide) rfl rfl rfl h
theorem minu (f : RFmt) : Statement (Instr.minu f) := fun h => decode_pack_r _ 0x01 19 f (by decide) (by decide) (by decide) rfl rfl rfl h
theorem maxu (f : RFmt) : Statement (Instr.maxu f) := fun h => decode_pack_r _ 0x01 20 f (by decide) (by decide) (by decide) rfl rfl rfl h
theorem slt (f : RFmt) : Statement (Instr.slt f) := fun h => decode_pack_r _ 0x01 21 f (by decide) (by decide) (by decide) rfl rfl rfl h
theorem sltu (f : RFmt) : Statement (Instr.sltu f) := fun h => decode_pack_r _ 0x01 22 f (by decide) (by decide) (by decide) rfl rfl rfl h
theorem clz (f : RFmt) : Statement (Instr.clz f) := fun h => decode_pack_r _ 0x01 23 f (by decide) (by decide) (by decide) rfl rfl rfl h
theorem ctz (f : RFmt) : Statement (Instr.ctz f) := fun h => decode_pack_r _ 0x01 24 f (by decide) (by decide) (by decide) rfl rfl rfl h
theorem popc (f : RFmt) : Statement (Instr.popc f) := fun h => decode_pack_r _ 0x01 25 f (by decide) (by decide) (by decide) rfl rfl rfl h
theorem sel (f : RFmt) : Statement (Instr.sel f) := fun h => decode_pack_r _ 0x01 26 f (by decide) (by decide) (by decide) rfl rfl rfl h
theorem addi (f : IFmt) : Statement (Instr.addi f) := fun h => decode_pack_i _ 0x02 1 f (by decide) (by decide) (by decide) rfl rfl rfl h
theorem andi (f : IFmt) : Statement (Instr.andi f) := fun h => decode_pack_i _ 0x02 2 f (by decide) (by decide) (by decide) rfl rfl rfl h
theorem ori (f : IFmt) : Statement (Instr.ori f) := fun h => decode_pack_i _ 0x02 3 f (by decide) (by decide) (by decide) rfl rfl rfl h
theorem xori (f : IFmt) : Statement (Instr.xori f) := fun h => decode_pack_i _ 0x02 4 f (by decide) (by decide) (by decide) rfl rfl rfl h
theorem slli (f : IFmt) : Statement (Instr.slli f) := fun h => decode_pack_i _ 0x02 5 f (by decide) (by decide) (by decide) rfl rfl rfl h
theorem srli (f : IFmt) : Statement (Instr.srli f) := fun h => decode_pack_i _ 0x02 6 f (by decide) (by decide) (by decide) rfl rfl rfl h
theorem srai (f : IFmt) : Statement (Instr.srai f) := fun h => decode_pack_i _ 0x02 7 f (by decide) (by decide) (by decide) rfl rfl rfl h
theorem slti (f : IFmt) : Statement (Instr.slti f) := fun h => decode_pack_i _ 0x02 8 f (by decide) (by decide) (by decide) rfl rfl rfl h
theorem sltiu (f : IFmt) : Statement (Instr.sltiu f) := fun h => decode_pack_i _ 0x02 9 f (by decide) (by decide) (by decide) rfl rfl rfl h
theorem li (f : IFmt) : Statement (Instr.li f) := fun h => decode_pack_i _ 0x02 10 f (by decide) (by decide) (by decide) rfl rfl rfl h
theorem lih (f : IFmt) : Statement (Instr.lih f) := fun h => decode_pack_i _ 0x02 11 f (by decide) (by decide) (by decide) rfl rfl rfl h
theorem lb (f : MFmt) (o : Bool) : Statement (Instr.lb f o) := by cases o <;> exact fun h => decode_pack_m _ 0x03 _ f (by decide) (by decide) (by decide) rfl rfl rfl h
theorem lbu (f : MFmt) (o : Bool) : Statement (Instr.lbu f o) := by cases o <;> exact fun h => decode_pack_m _ 0x03 _ f (by decide) (by decide) (by decide) rfl rfl rfl h
theorem lh (f : MFmt) (o : Bool) : Statement (Instr.lh f o) := by cases o <;> exact fun h => decode_pack_m _ 0x03 _ f (by decide) (by decide) (by decide) rfl rfl rfl h
theorem lhu (f : MFmt) (o : Bool) : Statement (Instr.lhu f o) := by cases o <;> exact fun h => decode_pack_m _ 0x03 _ f (by decide) (by decide) (by decide) rfl rfl rfl h
theorem lw (f : MFmt) (o : Bool) : Statement (Instr.lw f o) := by cases o <;> exact fun h => decode_pack_m _ 0x03 _ f (by decide) (by decide) (by decide) rfl rfl rfl h
theorem lwu (f : MFmt) (o : Bool) : Statement (Instr.lwu f o) := by cases o <;> exact fun h => decode_pack_m _ 0x03 _ f (by decide) (by decide) (by decide) rfl rfl rfl h
theorem ld (f : MFmt) (o : Bool) : Statement (Instr.ld f o) := by cases o <;> exact fun h => decode_pack_m _ 0x03 _ f (by decide) (by decide) (by decide) rfl rfl rfl h
theorem sb (f : MFmt) (o : Bool) : Statement (Instr.sb f o) := by cases o <;> exact fun h => decode_pack_m _ 0x03 _ f (by decide) (by decide) (by decide) rfl rfl rfl h
theorem sh (f : MFmt) (o : Bool) : Statement (Instr.sh f o) := by cases o <;> exact fun h => decode_pack_m _ 0x03 _ f (by decide) (by decide) (by decide) rfl rfl rfl h
theorem sw (f : MFmt) (o : Bool) : Statement (Instr.sw f o) := by cases o <;> exact fun h => decode_pack_m _ 0x03 _ f (by decide) (by decide) (by decide) rfl rfl rfl h
theorem sd (f : MFmt) (o : Bool) : Statement (Instr.sd f o) := by cases o <;> exact fun h => decode_pack_m _ 0x03 _ f (by decide) (by decide) (by decide) rfl rfl rfl h
theorem wldB (f : MFmt) : Statement (Instr.wldB f) := fun h => decode_pack_m _ 0x03 48 f (by decide) (by decide) (by decide) rfl rfl rfl h
theorem wldH (f : MFmt) : Statement (Instr.wldH f) := fun h => decode_pack_m _ 0x03 52 f (by decide) (by decide) (by decide) rfl rfl rfl h
theorem wldW (f : MFmt) : Statement (Instr.wldW f) := fun h => decode_pack_m _ 0x03 56 f (by decide) (by decide) (by decide) rfl rfl rfl h
theorem wldD (f : MFmt) : Statement (Instr.wldD f) := fun h => decode_pack_m _ 0x03 60 f (by decide) (by decide) (by decide) rfl rfl rfl h
theorem amoadd (f : MFmt) (d aq rl : Bool) : Statement (Instr.amoadd f d aq rl) := by cases d <;> cases aq <;> cases rl <;> exact fun h => decode_pack_m _ 0x04 _ f (by decide) (by decide) (by decide) rfl rfl rfl h
theorem amoand (f : MFmt) (d aq rl : Bool) : Statement (Instr.amoand f d aq rl) := by cases d <;> cases aq <;> cases rl <;> exact fun h => decode_pack_m _ 0x04 _ f (by decide) (by decide) (by decide) rfl rfl rfl h
theorem amoor (f : MFmt) (d aq rl : Bool) : Statement (Instr.amoor f d aq rl) := by cases d <;> cases aq <;> cases rl <;> exact fun h => decode_pack_m _ 0x04 _ f (by decide) (by decide) (by decide) rfl rfl rfl h
theorem amoxor (f : MFmt) (d aq rl : Bool) : Statement (Instr.amoxor f d aq rl) := by cases d <;> cases aq <;> cases rl <;> exact fun h => decode_pack_m _ 0x04 _ f (by decide) (by decide) (by decide) rfl rfl rfl h
theorem amomin (f : MFmt) (d aq rl : Bool) : Statement (Instr.amomin f d aq rl) := by cases d <;> cases aq <;> cases rl <;> exact fun h => decode_pack_m _ 0x04 _ f (by decide) (by decide) (by decide) rfl rfl rfl h
theorem amomax (f : MFmt) (d aq rl : Bool) : Statement (Instr.amomax f d aq rl) := by cases d <;> cases aq <;> cases rl <;> exact fun h => decode_pack_m _ 0x04 _ f (by decide) (by decide) (by decide) rfl rfl rfl h
theorem amominu (f : MFmt) (d aq rl : Bool) : Statement (Instr.amominu f d aq rl) := by cases d <;> cases aq <;> cases rl <;> exact fun h => decode_pack_m _ 0x04 _ f (by decide) (by decide) (by decide) rfl rfl rfl h
theorem amomaxu (f : MFmt) (d aq rl : Bool) : Statement (Instr.amomaxu f d aq rl) := by cases d <;> cases aq <;> cases rl <;> exact fun h => decode_pack_m _ 0x04 _ f (by decide) (by decide) (by decide) rfl rfl rfl h
theorem amoswap (f : MFmt) (d aq rl : Bool) : Statement (Instr.amoswap f d aq rl) := by cases d <;> cases aq <;> cases rl <;> exact fun h => decode_pack_m _ 0x04 _ f (by decide) (by decide) (by decide) rfl rfl rfl h
theorem amocas (f : MFmt) (d aq rl : Bool) : Statement (Instr.amocas f d aq rl) := by cases d <;> cases aq <;> cases rl <;> exact fun h => decode_pack_m _ 0x04 _ f (by decide) (by decide) (by decide) rfl rfl rfl h
theorem beq (f : BFmt) : Statement (Instr.beq f) := fun h => decode_pack_b _ 0x05 0 f (by decide) (by decide) (by decide) rfl rfl rfl h
theorem bne (f : BFmt) : Statement (Instr.bne f) := fun h => decode_pack_b _ 0x05 1 f (by decide) (by decide) (by decide) rfl rfl rfl h
theorem blt (f : BFmt) : Statement (Instr.blt f) := fun h => decode_pack_b _ 0x05 2 f (by decide) (by decide) (by decide) rfl rfl rfl h
theorem bge (f : BFmt) : Statement (Instr.bge f) := fun h => decode_pack_b _ 0x05 3 f (by decide) (by decide) (by decide) rfl rfl rfl h
theorem bltu (f : BFmt) : Statement (Instr.bltu f) := fun h => decode_pack_b _ 0x05 4 f (by decide) (by decide) (by decide) rfl rfl rfl h
theorem bgeu (f : BFmt) : Statement (Instr.bgeu f) := fun h => decode_pack_b _ 0x05 5 f (by decide) (by decide) (by decide) rfl rfl rfl h
theorem bmz (f : BFmt) : Statement (Instr.bmz f) := fun h => decode_pack_b _ 0x05 6 f (by decide) (by decide) (by decide) rfl rfl rfl h
theorem bmnz (f : BFmt) : Statement (Instr.bmnz f) := fun h => decode_pack_b _ 0x05 7 f (by decide) (by decide) (by decide) rfl rfl rfl h
theorem jal (f : BFmt) : Statement (Instr.jal f) := fun h => decode_pack_b _ 0x06 1 f (by decide) (by decide) (by decide) rfl rfl rfl h
theorem jalr (f : BFmt) : Statement (Instr.jalr f) := fun h => decode_pack_b _ 0x06 2 f (by decide) (by decide) (by decide) rfl rfl rfl h
theorem scall (f : IFmt) : Statement (Instr.scall f) := fun h => decode_pack_i _ 0x07 1 f (by decide) (by decide) (by decide) rfl rfl rfl h
theorem brk (f : IFmt) : Statement (Instr.brk f) := fun h => decode_pack_i _ 0x07 3 f (by decide) (by decide) (by decide) rfl rfl rfl h
theorem csrrd (f : IFmt) : Statement (Instr.csrrd f) := fun h => decode_pack_i _ 0x07 5 f (by decide) (by decide) (by decide) rfl rfl rfl h
theorem csrwr (f : IFmt) : Statement (Instr.csrwr f) := fun h => decode_pack_i _ 0x07 6 f (by decide) (by decide) (by decide) rfl rfl rfl h
theorem csrset (f : IFmt) : Statement (Instr.csrset f) := fun h => decode_pack_i _ 0x07 7 f (by decide) (by decide) (by decide) rfl rfl rfl h
theorem csrclr (f : IFmt) : Statement (Instr.csrclr f) := fun h => decode_pack_i _ 0x07 8 f (by decide) (by decide) (by decide) rfl rfl rfl h
theorem fence (f : IFmt) : Statement (Instr.fence f) := fun h => decode_pack_i _ 0x07 9 f (by decide) (by decide) (by decide) rfl rfl rfl h
theorem setvl (f : IFmt) : Statement (Instr.setvl f) := fun h => decode_pack_i _ 0x08 1 f (by decide) (by decide) (by decide) rfl rfl rfl h
theorem vtag (f : IFmt) : Statement (Instr.vtag f) := fun h => decode_pack_i _ 0x08 2 f (by decide) (by decide) (by decide) rfl rfl rfl h
theorem vretag (f : IFmt) : Statement (Instr.vretag f) := fun h => decode_pack_i _ 0x08 3 f (by decide) (by decide) (by decide) rfl rfl rfl h
theorem vtagrd (f : RFmt) : Statement (Instr.vtagrd f) := fun h => decode_pack_r _ 0x08 4 f (by decide) (by decide) (by decide) rfl rfl rfl h
theorem fork (f : IFmt) : Statement (Instr.fork f) := fun h => decode_pack_i _ 0x08 5 f (by decide) (by decide) (by decide) rfl rfl rfl h
theorem pvrd (f : RFmt) : Statement (Instr.pvrd f) := fun h => decode_pack_r _ 0x09 1 f (by decide) (by decide) (by decide) rfl rfl rfl h
theorem pvctx (f : RFmt) : Statement (Instr.pvctx f) := fun h => decode_pack_r _ 0x09 2 f (by decide) (by decide) (by decide) rfl rfl rfl h
theorem wchk (f : IFmt) : Statement (Instr.wchk f) := fun h => decode_pack_i _ 0x09 4 f (by decide) (by decide) (by decide) rfl rfl rfl h
theorem discard (f : RFmt) : Statement (Instr.discard f) := fun h => decode_pack_r _ 0x09 6 f (by decide) (by decide) (by decide) rfl rfl rfl h
theorem tpprobe (f : RFmt) : Statement (Instr.tpprobe f) := fun h => decode_pack_r _ 0x09 7 f (by decide) (by decide) (by decide) rfl rfl rfl h
theorem bar (f : IFmt) : Statement (Instr.bar f) := fun h => decode_pack_i _ 0x0A 1 f (by decide) (by decide) (by decide) rfl rfl rfl h
theorem wmpub (f : RFmt) : Statement (Instr.wmpub f) := fun h => decode_pack_r _ 0x0A 2 f (by decide) (by decide) (by decide) rfl rfl rfl h
theorem wmwait (f : RFmt) : Statement (Instr.wmwait f) := fun h => decode_pack_r _ 0x0A 3 f (by decide) (by decide) (by decide) rfl rfl rfl h
theorem launch (f : RFmt) : Statement (Instr.launch f) := fun h => decode_pack_r _ 0x0A 4 f (by decide) (by decide) (by decide) rfl rfl rfl h
theorem copy (f : RFmt) : Statement (Instr.copy f) := fun h => decode_pack_r _ 0x0B 1 f (by decide) (by decide) (by decide) rfl rfl rfl h
theorem decomp (f : RFmt) : Statement (Instr.decomp f) := fun h => decode_pack_r _ 0x0B 2 f (by decide) (by decide) (by decide) rfl rfl rfl h
theorem sread (f : RFmt) : Statement (Instr.sread f) := fun h => decode_pack_r _ 0x0B 3 f (by decide) (by decide) (by decide) rfl rfl rfl h
theorem gate (f : RFmt) : Statement (Instr.gate f) := fun h => decode_pack_r _ 0x0B 4 f (by decide) (by decide) (by decide) rfl rfl rfl h
theorem twait (f : RFmt) : Statement (Instr.twait f) := fun h => decode_pack_r _ 0x0B 5 f (by decide) (by decide) (by decide) rfl rfl rfl h
theorem tpoll (f : RFmt) : Statement (Instr.tpoll f) := fun h => decode_pack_r _ 0x0B 6 f (by decide) (by decide) (by decide) rfl rfl rfl h
theorem vsave (f : RFmt) : Statement (Instr.vsave f) := fun h => decode_pack_r _ 0x0C 1 f (by decide) (by decide) (by decide) rfl rfl rfl h
theorem vrestore (f : RFmt) : Statement (Instr.vrestore f) := fun h => decode_pack_r _ 0x0C 2 f (by decide) (by decide) (by decide) rfl rfl rfl h
theorem frsave (f : RFmt) : Statement (Instr.frsave f) := fun h => decode_pack_r _ 0x0C 3 f (by decide) (by decide) (by decide) rfl rfl rfl h
theorem frload (f : RFmt) : Statement (Instr.frload f) := fun h => decode_pack_r _ 0x0C 4 f (by decide) (by decide) (by decide) rfl rfl rfl h
theorem xfreeze (f : RFmt) : Statement (Instr.xfreeze f) := fun h => decode_pack_r _ 0x0C 5 f (by decide) (by decide) (by decide) rfl rfl rfl h
theorem xthaw (f : RFmt) : Statement (Instr.xthaw f) := fun h => decode_pack_r _ 0x0C 6 f (by decide) (by decide) (by decide) rfl rfl rfl h
theorem reserve (f : RFmt) : Statement (Instr.reserve f) := fun h => decode_pack_r _ 0x0C 7 f (by decide) (by decide) (by decide) rfl rfl rfl h
theorem migrate (f : RFmt) : Statement (Instr.migrate f) := fun h => decode_pack_r _ 0x0C 8 f (by decide) (by decide) (by decide) rfl rfl rfl h
theorem tlbinv (f : RFmt) : Statement (Instr.tlbinv f) := fun h => decode_pack_r _ 0x0C 9 f (by decide) (by decide) (by decide) rfl rfl rfl h
theorem gateinst (f : RFmt) : Statement (Instr.gateinst f) := fun h => decode_pack_r _ 0x0C 10 f (by decide) (by decide) (by decide) rfl rfl rfl h
theorem pgfree (f : RFmt) : Statement (Instr.pgfree f) := fun h => decode_pack_r _ 0x0C 11 f (by decide) (by decide) (by decide) rfl rfl rfl h
theorem vadd (f : VFmt) : Statement (Instr.vadd f) := fun h => decode_pack_v _ 0x10 1 f (by decide) (by decide) (by decide) rfl rfl rfl h
theorem vsub (f : VFmt) : Statement (Instr.vsub f) := fun h => decode_pack_v _ 0x10 2 f (by decide) (by decide) (by decide) rfl rfl rfl h
theorem vadc (f : VFmt) : Statement (Instr.vadc f) := fun h => decode_pack_v _ 0x10 3 f (by decide) (by decide) (by decide) rfl rfl rfl h
theorem vsbc (f : VFmt) : Statement (Instr.vsbc f) := fun h => decode_pack_v _ 0x10 4 f (by decide) (by decide) (by decide) rfl rfl rfl h
theorem vand (f : VFmt) : Statement (Instr.vand f) := fun h => decode_pack_v _ 0x10 5 f (by decide) (by decide) (by decide) rfl rfl rfl h
theorem vor (f : VFmt) : Statement (Instr.vor f) := fun h => decode_pack_v _ 0x10 6 f (by decide) (by decide) (by decide) rfl rfl rfl h
theorem vxor (f : VFmt) : Statement (Instr.vxor f) := fun h => decode_pack_v _ 0x10 7 f (by decide) (by decide) (by decide) rfl rfl rfl h
theorem vandn (f : VFmt) : Statement (Instr.vandn f) := fun h => decode_pack_v _ 0x10 8 f (by decide) (by decide) (by decide) rfl rfl rfl h
theorem vsll (f : VFmt) : Statement (Instr.vsll f) := fun h => decode_pack_v _ 0x10 9 f (by decide) (by decide) (by decide) rfl rfl rfl h
theorem vsrl (f : VFmt) : Statement (Instr.vsrl f) := fun h => decode_pack_v _ 0x10 10 f (by decide) (by decide) (by decide) rfl rfl rfl h
theorem vsra (f : VFmt) : Statement (Instr.vsra f) := fun h => decode_pack_v _ 0x10 11 f (by decide) (by decide) (by decide) rfl rfl rfl h
theorem vmin (f : VFmt) : Statement (Instr.vmin f) := fun h => decode_pack_v _ 0x10 12 f (by decide) (by decide) (by decide) rfl rfl rfl h
theorem vmax (f : VFmt) : Statement (Instr.vmax f) := fun h => decode_pack_v _ 0x10 13 f (by decide) (by decide) (by decide) rfl rfl rfl h
theorem vminu (f : VFmt) : Statement (Instr.vminu f) := fun h => decode_pack_v _ 0x10 14 f (by decide) (by decide) (by decide) rfl rfl rfl h
theorem vmaxu (f : VFmt) : Statement (Instr.vmaxu f) := fun h => decode_pack_v _ 0x10 15 f (by decide) (by decide) (by decide) rfl rfl rfl h
theorem vabsd (f : VFmt) : Statement (Instr.vabsd f) := fun h => decode_pack_v _ 0x10 16 f (by decide) (by decide) (by decide) rfl rfl rfl h
theorem vsadd (f : VFmt) : Statement (Instr.vsadd f) := fun h => decode_pack_v _ 0x10 17 f (by decide) (by decide) (by decide) rfl rfl rfl h
theorem vssub (f : VFmt) : Statement (Instr.vssub f) := fun h => decode_pack_v _ 0x10 18 f (by decide) (by decide) (by decide) rfl rfl rfl h
theorem vmul (f : VFmt) : Statement (Instr.vmul f) := fun h => decode_pack_v _ 0x11 1 f (by decide) (by decide) (by decide) rfl rfl rfl h
theorem vmulh (f : VFmt) : Statement (Instr.vmulh f) := fun h => decode_pack_v _ 0x11 2 f (by decide) (by decide) (by decide) rfl rfl rfl h
theorem vmulhu (f : VFmt) : Statement (Instr.vmulhu f) := fun h => decode_pack_v _ 0x11 3 f (by decide) (by decide) (by decide) rfl rfl rfl h
theorem vmac (f : VFmt) : Statement (Instr.vmac f) := fun h => decode_pack_v _ 0x11 4 f (by decide) (by decide) (by decide) rfl rfl rfl h
theorem vdot16 (f : VFmt) : Statement (Instr.vdot16 f) := fun h => decode_pack_v _ 0x11 5 f (by decide) (by decide) (by decide) rfl rfl rfl h
theorem vwmul (f : VFmt) : Statement (Instr.vwmul f) := fun h => decode_pack_v _ 0x11 6 f (by decide) (by decide) (by decide) rfl rfl rfl h
theorem vcmp (f : VFmt) : Statement (Instr.vcmp f) := fun h => decode_pack_v _ 0x12 1 f (by decide) (by decide) (by decide) rfl rfl rfl h
theorem vsel (f : VFmt) : Statement (Instr.vsel f) := fun h => decode_pack_v _ 0x12 2 f (by decide) (by decide) (by decide) rfl rfl rfl h
theorem vmv (f : VFmt) : Statement (Instr.vmv f) := fun h => decode_pack_v _ 0x12 3 f (by decide) (by decide) (by decide) rfl rfl rfl h
theorem vsplat (f : VFmt) : Statement (Instr.vsplat f) := fun h => decode_pack_v _ 0x12 4 f (by decide) (by decide) (by decide) rfl rfl rfl h
theorem vext (f : VFmt) : Statement (Instr.vext f) := fun h => decode_pack_v _ 0x12 5 f (by decide) (by decide) (by decide) rfl rfl rfl h
theorem vins (f : VFmt) : Statement (Instr.vins f) := fun h => decode_pack_v _ 0x12 6 f (by decide) (by decide) (by decide) rfl rfl rfl h
theorem mand (f : VFmt) : Statement (Instr.mand f) := fun h => decode_pack_v _ 0x13 1 f (by decide) (by decide) (by decide) rfl rfl rfl h
theorem mor (f : VFmt) : Statement (Instr.mor f) := fun h => decode_pack_v _ 0x13 2 f (by decide) (by decide) (by decide) rfl rfl rfl h
theorem mxor (f : VFmt) : Statement (Instr.mxor f) := fun h => decode_pack_v _ 0x13 3 f (by decide) (by decide) (by decide) rfl rfl rfl h
theorem mandn (f : VFmt) : Statement (Instr.mandn f) := fun h => decode_pack_v _ 0x13 4 f (by decide) (by decide) (by decide) rfl rfl rfl h
theorem mnot (f : VFmt) : Statement (Instr.mnot f) := fun h => decode_pack_v _ 0x13 5 f (by decide) (by decide) (by decide) rfl rfl rfl h
theorem mshl (f : VFmt) : Statement (Instr.mshl f) := fun h => decode_pack_v _ 0x13 6 f (by decide) (by decide) (by decide) rfl rfl rfl h
theorem mshr (f : VFmt) : Statement (Instr.mshr f) := fun h => decode_pack_v _ 0x13 7 f (by decide) (by decide) (by decide) rfl rfl rfl h
theorem mset (f : VFmt) : Statement (Instr.mset f) := fun h => decode_pack_v _ 0x13 8 f (by decide) (by decide) (by decide) rfl rfl rfl h
theorem mpopc (f : VFmt) : Statement (Instr.mpopc f) := fun h => decode_pack_v _ 0x13 9 f (by decide) (by decide) (by decide) rfl rfl rfl h
theorem mfirst (f : VFmt) : Statement (Instr.mfirst f) := fun h => decode_pack_v _ 0x13 10 f (by decide) (by decide) (by decide) rfl rfl rfl h
theorem mlast (f : VFmt) : Statement (Instr.mlast f) := fun h => decode_pack_v _ 0x13 11 f (by decide) (by decide) (by decide) rfl rfl rfl h
theorem mbit (f : VFmt) : Statement (Instr.mbit f) := fun h => decode_pack_v _ 0x13 12 f (by decide) (by decide) (by decide) rfl rfl rfl h
theorem vfadd (f : VFmt) : Statement (Instr.vfadd f) := fun h => decode_pack_v _ 0x14 1 f (by decide) (by decide) (by decide) rfl rfl rfl h
theorem vfsub (f : VFmt) : Statement (Instr.vfsub f) := fun h => decode_pack_v _ 0x14 2 f (by decide) (by decide) (by decide) rfl rfl rfl h
theorem vfmul (f : VFmt) : Statement (Instr.vfmul f) := fun h => decode_pack_v _ 0x14 3 f (by decide) (by decide) (by decide) rfl rfl rfl h
theorem vfma (f : VFmt) : Statement (Instr.vfma f) := fun h => decode_pack_v _ 0x14 4 f (by decide) (by decide) (by decide) rfl rfl rfl h
theorem vfms (f : VFmt) : Statement (Instr.vfms f) := fun h => decode_pack_v _ 0x14 5 f (by decide) (by decide) (by decide) rfl rfl rfl h
theorem vfnma (f : VFmt) : Statement (Instr.vfnma f) := fun h => decode_pack_v _ 0x14 6 f (by decide) (by decide) (by decide) rfl rfl rfl h
theorem vfnms (f : VFmt) : Statement (Instr.vfnms f) := fun h => decode_pack_v _ 0x14 7 f (by decide) (by decide) (by decide) rfl rfl rfl h
theorem vfdiv (f : VFmt) : Statement (Instr.vfdiv f) := fun h => decode_pack_v _ 0x14 8 f (by decide) (by decide) (by decide) rfl rfl rfl h
theorem vfsqrt (f : VFmt) : Statement (Instr.vfsqrt f) := fun h => decode_pack_v _ 0x14 9 f (by decide) (by decide) (by decide) rfl rfl rfl h
theorem vfmin (f : VFmt) : Statement (Instr.vfmin f) := fun h => decode_pack_v _ 0x14 10 f (by decide) (by decide) (by decide) rfl rfl rfl h
theorem vfmax (f : VFmt) : Statement (Instr.vfmax f) := fun h => decode_pack_v _ 0x14 11 f (by decide) (by decide) (by decide) rfl rfl rfl h
theorem vfcmp (f : VFmt) : Statement (Instr.vfcmp f) := fun h => decode_pack_v _ 0x14 12 f (by decide) (by decide) (by decide) rfl rfl rfl h
theorem vfclass (f : VFmt) : Statement (Instr.vfclass f) := fun h => decode_pack_v _ 0x14 13 f (by decide) (by decide) (by decide) rfl rfl rfl h
theorem vfabs (f : VFmt) : Statement (Instr.vfabs f) := fun h => decode_pack_v _ 0x14 14 f (by decide) (by decide) (by decide) rfl rfl rfl h
theorem vfneg (f : VFmt) : Statement (Instr.vfneg f) := fun h => decode_pack_v _ 0x14 15 f (by decide) (by decide) (by decide) rfl rfl rfl h
theorem vfrcp (f : VFmt) : Statement (Instr.vfrcp f) := fun h => decode_pack_v _ 0x15 1 f (by decide) (by decide) (by decide) rfl rfl rfl h
theorem vfrsq (f : VFmt) : Statement (Instr.vfrsq f) := fun h => decode_pack_v _ 0x15 2 f (by decide) (by decide) (by decide) rfl rfl rfl h
theorem vfexp2 (f : VFmt) : Statement (Instr.vfexp2 f) := fun h => decode_pack_v _ 0x15 3 f (by decide) (by decide) (by decide) rfl rfl rfl h
theorem vflog2 (f : VFmt) : Statement (Instr.vflog2 f) := fun h => decode_pack_v _ 0x15 4 f (by decide) (by decide) (by decide) rfl rfl rfl h
theorem vcvt (f : VFmt) : Statement (Instr.vcvt f) := fun h => decode_pack_v _ 0x16 1 f (by decide) (by decide) (by decide) rfl rfl rfl h
theorem vwiden (f : VFmt) : Statement (Instr.vwiden f) := fun h => decode_pack_v _ 0x16 2 f (by decide) (by decide) (by decide) rfl rfl rfl h
theorem vnarrow (f : VFmt) : Statement (Instr.vnarrow f) := fun h => decode_pack_v _ 0x16 3 f (by decide) (by decide) (by decide) rfl rfl rfl h
theorem vscale (f : VFmt) : Statement (Instr.vscale f) := fun h => decode_pack_v _ 0x16 4 f (by decide) (by decide) (by decide) rfl rfl rfl h
theorem vquant (f : VFmt) : Statement (Instr.vquant f) := fun h => decode_pack_v _ 0x16 5 f (by decide) (by decide) (by decide) rfl rfl rfl h
theorem vred (f : VFmt) : Statement (Instr.vred f) := fun h => decode_pack_v _ 0x17 1 f (by decide) (by decide) (by decide) rfl rfl rfl h
theorem vfred (f : VFmt) : Statement (Instr.vfred f) := fun h => decode_pack_v _ 0x17 2 f (by decide) (by decide) (by decide) rfl rfl rfl h
theorem vscan (f : VFmt) : Statement (Instr.vscan f) := fun h => decode_pack_v _ 0x17 3 f (by decide) (by decide) (by decide) rfl rfl rfl h
theorem vfscan (f : VFmt) : Statement (Instr.vfscan f) := fun h => decode_pack_v _ 0x17 4 f (by decide) (by decide) (by decide) rfl rfl rfl h
theorem vsegpack (f : VFmt) : Statement (Instr.vsegpack f) := fun h => decode_pack_v _ 0x17 5 f (by decide) (by decide) (by decide) rfl rfl rfl h
theorem vperm (f : VFmt) : Statement (Instr.vperm f) := fun h => decode_pack_v _ 0x18 1 f (by decide) (by decide) (by decide) rfl rfl rfl h
theorem vslideup (f : VFmt) : Statement (Instr.vslideup f) := fun h => decode_pack_v _ 0x18 2 f (by decide) (by decide) (by decide) rfl rfl rfl h
theorem vslidedn (f : VFmt) : Statement (Instr.vslidedn f) := fun h => decode_pack_v _ 0x18 3 f (by decide) (by decide) (by decide) rfl rfl rfl h
theorem vzip (f : VFmt) : Statement (Instr.vzip f) := fun h => decode_pack_v _ 0x18 4 f (by decide) (by decide) (by decide) rfl rfl rfl h
theorem vunzip (f : VFmt) : Statement (Instr.vunzip f) := fun h => decode_pack_v _ 0x18 5 f (by decide) (by decide) (by decide) rfl rfl rfl h
theorem vcompress (f : VFmt) : Statement (Instr.vcompress f) := fun h => decode_pack_v _ 0x18 6 f (by decide) (by decide) (by decide) rfl rfl rfl h
theorem vbcast (f : VFmt) : Statement (Instr.vbcast f) := fun h => decode_pack_v _ 0x18 7 f (by decide) (by decide) (by decide) rfl rfl rfl h
theorem vunpk (f : VFmt) : Statement (Instr.vunpk f) := fun h => decode_pack_v _ 0x19 1 f (by decide) (by decide) (by decide) rfl rfl rfl h
theorem vpackpx (f : VFmt) : Statement (Instr.vpackpx f) := fun h => decode_pack_v _ 0x19 2 f (by decide) (by decide) (by decide) rfl rfl rfl h
theorem vld (f : VMFmt) : Statement (Instr.vld f) := fun h => decode_pack_vm _ 0x1A 1 f (by decide) (by decide) (by decide) rfl rfl rfl h
theorem vlds (f : VMFmt) : Statement (Instr.vlds f) := fun h => decode_pack_vm _ 0x1A 2 f (by decide) (by decide) (by decide) rfl rfl rfl h
theorem vldx (f : VMFmt) : Statement (Instr.vldx f) := fun h => decode_pack_vm _ 0x1A 3 f (by decide) (by decide) (by decide) rfl rfl rfl h
theorem vldxo (f : VMFmt) : Statement (Instr.vldxo f) := fun h => decode_pack_vm _ 0x1A 4 f (by decide) (by decide) (by decide) rfl rfl rfl h
theorem vwld (f : VMFmt) : Statement (Instr.vwld f) := fun h => decode_pack_vm _ 0x1A 5 f (by decide) (by decide) (by decide) rfl rfl rfl h
theorem vwlds (f : VMFmt) : Statement (Instr.vwlds f) := fun h => decode_pack_vm _ 0x1A 6 f (by decide) (by decide) (by decide) rfl rfl rfl h
theorem vst (f : VMFmt) : Statement (Instr.vst f) := fun h => decode_pack_vm _ 0x1B 1 f (by decide) (by decide) (by decide) rfl rfl rfl h
theorem vsts (f : VMFmt) : Statement (Instr.vsts f) := fun h => decode_pack_vm _ 0x1B 2 f (by decide) (by decide) (by decide) rfl rfl rfl h
theorem vstx (f : VMFmt) : Statement (Instr.vstx f) := fun h => decode_pack_vm _ 0x1B 3 f (by decide) (by decide) (by decide) rfl rfl rfl h
theorem vstxo (f : VMFmt) : Statement (Instr.vstxo f) := fun h => decode_pack_vm _ 0x1B 4 f (by decide) (by decide) (by decide) rfl rfl rfl h
theorem vamoadd (f : VMFmt) : Statement (Instr.vamoadd f) := fun h => decode_pack_vm _ 0x1C 8 f (by decide) (by decide) (by decide) rfl rfl rfl h
theorem vamoand (f : VMFmt) : Statement (Instr.vamoand f) := fun h => decode_pack_vm _ 0x1C 16 f (by decide) (by decide) (by decide) rfl rfl rfl h
theorem vamoor (f : VMFmt) : Statement (Instr.vamoor f) := fun h => decode_pack_vm _ 0x1C 24 f (by decide) (by decide) (by decide) rfl rfl rfl h
theorem vamoxor (f : VMFmt) : Statement (Instr.vamoxor f) := fun h => decode_pack_vm _ 0x1C 32 f (by decide) (by decide) (by decide) rfl rfl rfl h
theorem vamomin (f : VMFmt) : Statement (Instr.vamomin f) := fun h => decode_pack_vm _ 0x1C 40 f (by decide) (by decide) (by decide) rfl rfl rfl h
theorem vamomax (f : VMFmt) : Statement (Instr.vamomax f) := fun h => decode_pack_vm _ 0x1C 48 f (by decide) (by decide) (by decide) rfl rfl rfl h
theorem vamominu (f : VMFmt) : Statement (Instr.vamominu f) := fun h => decode_pack_vm _ 0x1C 56 f (by decide) (by decide) (by decide) rfl rfl rfl h
theorem vamomaxu (f : VMFmt) : Statement (Instr.vamomaxu f) := fun h => decode_pack_vm _ 0x1C 64 f (by decide) (by decide) (by decide) rfl rfl rfl h
theorem vamoswap (f : VMFmt) : Statement (Instr.vamoswap f) := fun h => decode_pack_vm _ 0x1C 72 f (by decide) (by decide) (by decide) rfl rfl rfl h
theorem vamooadd (f : VMFmt) : Statement (Instr.vamooadd f) := fun h => decode_pack_vm _ 0x1C 12 f (by decide) (by decide) (by decide) rfl rfl rfl h
theorem vamooand (f : VMFmt) : Statement (Instr.vamooand f) := fun h => decode_pack_vm _ 0x1C 20 f (by decide) (by decide) (by decide) rfl rfl rfl h
theorem vamooor (f : VMFmt) : Statement (Instr.vamooor f) := fun h => decode_pack_vm _ 0x1C 28 f (by decide) (by decide) (by decide) rfl rfl rfl h
theorem vamooxor (f : VMFmt) : Statement (Instr.vamooxor f) := fun h => decode_pack_vm _ 0x1C 36 f (by decide) (by decide) (by decide) rfl rfl rfl h
theorem vamoomin (f : VMFmt) : Statement (Instr.vamoomin f) := fun h => decode_pack_vm _ 0x1C 44 f (by decide) (by decide) (by decide) rfl rfl rfl h
theorem vamoomax (f : VMFmt) : Statement (Instr.vamoomax f) := fun h => decode_pack_vm _ 0x1C 52 f (by decide) (by decide) (by decide) rfl rfl rfl h
theorem vamoominu (f : VMFmt) : Statement (Instr.vamoominu f) := fun h => decode_pack_vm _ 0x1C 60 f (by decide) (by decide) (by decide) rfl rfl rfl h
theorem vamoomaxu (f : VMFmt) : Statement (Instr.vamoomaxu f) := fun h => decode_pack_vm _ 0x1C 68 f (by decide) (by decide) (by decide) rfl rfl rfl h
theorem vamooswap (f : VMFmt) : Statement (Instr.vamooswap f) := fun h => decode_pack_vm _ 0x1C 76 f (by decide) (by decide) (by decide) rfl rfl rfl h
theorem kld (f : VMFmt) : Statement (Instr.kld f) := fun h => decode_pack_vm _ 0x1D 1 f (by decide) (by decide) (by decide) rfl rfl rfl h
theorem kst (f : VMFmt) : Statement (Instr.kst f) := fun h => decode_pack_vm _ 0x1D 2 f (by decide) (by decide) (by decide) rfl rfl rfl h
theorem xop (f : XFmt) : Statement (Instr.xop f) := fun h => decode_pack_x _ 0x20 0 f (by decide) rfl rfl rfl rfl rfl h
theorem bind (f : RFmt) : Statement (Instr.bind f) := fun h => decode_pack_r _ 0x21 1 f (by decide) (by decide) (by decide) rfl rfl rfl h
theorem unbind (f : RFmt) : Statement (Instr.unbind f) := fun h => decode_pack_r _ 0x21 2 f (by decide) (by decide) (by decide) rfl rfl rfl h
theorem xstat (f : RFmt) : Statement (Instr.xstat f) := fun h => decode_pack_r _ 0x21 3 f (by decide) (by decide) (by decide) rfl rfl rfl h
theorem chopen (f : RFmt) : Statement (Instr.chopen f) := fun h => decode_pack_r _ 0x22 1 f (by decide) (by decide) (by decide) rfl rfl rfl h
theorem chclose (f : RFmt) : Statement (Instr.chclose f) := fun h => decode_pack_r _ 0x22 2 f (by decide) (by decide) (by decide) rfl rfl rfl h
theorem chsend (f : RFmt) : Statement (Instr.chsend f) := fun h => decode_pack_r _ 0x22 3 f (by decide) (by decide) (by decide) rfl rfl rfl h
theorem chrecv (f : RFmt) : Statement (Instr.chrecv f) := fun h => decode_pack_r _ 0x22 4 f (by decide) (by decide) (by decide) rfl rfl rfl h
theorem chwait (f : RFmt) : Statement (Instr.chwait f) := fun h => decode_pack_r _ 0x22 5 f (by decide) (by decide) (by decide) rfl rfl rfl h
theorem chstat (f : RFmt) : Statement (Instr.chstat f) := fun h => decode_pack_r _ 0x22 6 f (by decide) (by decide) (by decide) rfl rfl rfl h
theorem mma (f : TFmt) : Statement (Instr.mma f) := fun h => decode_pack_t _ 0x28 1 f (by decide) (by decide) (by decide) rfl rfl rfl h
theorem mman (f : TFmt) : Statement (Instr.mman f) := fun h => decode_pack_t _ 0x28 2 f (by decide) (by decide) (by decide) rfl rfl rfl h
theorem mmab (f : TFmt) : Statement (Instr.mmab f) := fun h => decode_pack_t _ 0x28 3 f (by decide) (by decide) (by decide) rfl rfl rfl h
theorem macinit (f : TFmt) : Statement (Instr.macinit f) := fun h => decode_pack_t _ 0x28 4 f (by decide) (by decide) (by decide) rfl rfl rfl h
theorem mdrain (f : TFmt) : Statement (Instr.mdrain f) := fun h => decode_pack_t _ 0x28 5 f (by decide) (by decide) (by decide) rfl rfl rfl h
theorem mzero (f : TFmt) : Statement (Instr.mzero f) := fun h => decode_pack_t _ 0x28 6 f (by decide) (by decide) (by decide) rfl rfl rfl h
theorem mstat (f : TFmt) : Statement (Instr.mstat f) := fun h => decode_pack_t _ 0x28 7 f (by decide) (by decide) (by decide) rfl rfl rfl h
theorem mclaim (f : TFmt) : Statement (Instr.mclaim f) := fun h => decode_pack_t _ 0x29 1 f (by decide) (by decide) (by decide) rfl rfl rfl h
theorem mrels (f : TFmt) : Statement (Instr.mrels f) := fun h => decode_pack_t _ 0x29 2 f (by decide) (by decide) (by decide) rfl rfl rfl h
theorem mload (f : TFmt) : Statement (Instr.mload f) := fun h => decode_pack_t _ 0x29 3 f (by decide) (by decide) (by decide) rfl rfl rfl h
theorem mfill (f : TFmt) : Statement (Instr.mfill f) := fun h => decode_pack_t _ 0x29 4 f (by decide) (by decide) (by decide) rfl rfl rfl h
theorem mhdr (f : TFmt) : Statement (Instr.mhdr f) := fun h => decode_pack_t _ 0x29 5 f (by decide) (by decide) (by decide) rfl rfl rfl h
theorem illegalWord (w : Word) : Statement (Instr.illegalWord w) := fun h => nomatch h
theorem eret : Statement Instr.eret := fun h => decode_pack_r _ 0x07 2 ⟨0, 0, 0, 0⟩ (by decide) (by decide) (by decide) rfl rfl rfl h
theorem wfe : Statement Instr.wfe := fun h => decode_pack_r _ 0x07 4 ⟨0, 0, 0, 0⟩ (by decide) (by decide) (by decide) rfl rfl rfl h
theorem ifence : Statement Instr.ifence := fun h => decode_pack_r _ 0x07 10 ⟨0, 0, 0, 0⟩ (by decide) (by decide) (by decide) rfl rfl rfl h
theorem nop : Statement Instr.nop := fun h => decode_pack_r _ 0x07 11 ⟨0, 0, 0, 0⟩ (by decide) (by decide) (by decide) rfl rfl rfl h
theorem join : Statement Instr.join := fun h => decode_pack_r _ 0x08 6 ⟨0, 0, 0, 0⟩ (by decide) (by decide) (by decide) rfl rfl rfl h
theorem pvclr : Statement Instr.pvclr := fun h => decode_pack_r _ 0x09 3 ⟨0, 0, 0, 0⟩ (by decide) (by decide) (by decide) rfl rfl rfl h
theorem wclr : Statement Instr.wclr := fun h => decode_pack_r _ 0x09 5 ⟨0, 0, 0, 0⟩ (by decide) (by decide) (by decide) rfl rfl rfl h
theorem hartExit : Statement Instr.hartExit := fun h => nomatch h
theorem evaddrWrite (v : Word) (pv : PvSet) : Statement (Instr.evaddrWrite v pv) := fun h => nomatch h
theorem evtimerWrite (v : Word) (pv : PvSet) : Statement (Instr.evtimerWrite v pv) := fun h => nomatch h
theorem pvctxCsrWrite (v : CsrValue) : Statement (Instr.pvctxCsrWrite v) := fun h => nomatch h
theorem hfmaskWrite (v : Word) (pv : PvSet) : Statement (Instr.hfmaskWrite v pv) := fun h => nomatch h
theorem htvecWrite (v : Word) (pv : PvSet) : Statement (Instr.htvecWrite v pv) := fun h => nomatch h
theorem partidWrite (v : Word) (pv : PvSet) : Statement (Instr.partidWrite v pv) := fun h => nomatch h
theorem trapstatusWrite (hyp : Bool) (v : Word) (pv : PvSet) : Statement (Instr.trapstatusWrite hyp v pv) := fun h => nomatch h
theorem registerWrite (r : RegTarget) (v : Word) (pv : PvSet) : Statement (Instr.registerWrite r v pv) := fun h => nomatch h
theorem timerEvent (who : HartId) : Statement (Instr.timerEvent who) := fun h => nomatch h
theorem evaddrLineWrite (who : HartId) : Statement (Instr.evaddrLineWrite who) := fun h => nomatch h
theorem levelChange (core : Nat) (code : BitVec 2) : Statement (Instr.levelChange core code) := fun h => nomatch h
theorem vectorPost (who : HartId) : Statement (Instr.vectorPost who) := fun h => nomatch h
theorem issueClk : Statement Instr.issueClk := fun h => nomatch h
theorem elementGroupProcess (who : HartId) : Statement (Instr.elementGroupProcess who) := fun h => nomatch h
theorem elementGroupEmit (who : HartId) : Statement (Instr.elementGroupEmit who) := fun h => nomatch h
theorem loadGroupReturn (who : HartId) : Statement (Instr.loadGroupReturn who) := fun h => nomatch h
theorem storeGroupPerform (who : HartId) : Statement (Instr.storeGroupPerform who) := fun h => nomatch h
theorem deferredTranslationGroup (who : HartId) : Statement (Instr.deferredTranslationGroup who) := fun h => nomatch h
theorem deferredVectorTrap (who : HartId) : Statement (Instr.deferredVectorTrap who) := fun h => nomatch h
theorem pageTableWalk (who : HartId) (va : Word) (acc : BitVec 2) : Statement (Instr.pageTableWalk who va acc) := fun h => nomatch h
theorem lineFill (core pa : Nat) : Statement (Instr.lineFill core pa) := fun h => nomatch h
theorem ownershipGrant (core pa : Nat) : Statement (Instr.ownershipGrant core pa) := fun h => nomatch h
theorem acquireMerge (core : Nat) (scope : BitVec 3) : Statement (Instr.acquireMerge core scope) := fun h => nomatch h
theorem lazyMergeTimeout (pa : Nat) : Statement (Instr.lazyMergeTimeout pa) := fun h => nomatch h
theorem unscrubClearDone (frame : Nat) : Statement (Instr.unscrubClearDone frame) := fun h => nomatch h
theorem watermarkWake (who : HartId) : Statement (Instr.watermarkWake who) := fun h => nomatch h
theorem watchCheckSend (who : HartId) (entry : Nat) : Statement (Instr.watchCheckSend who entry) := fun h => nomatch h
theorem watchCheckDecide (check : Nat) : Statement (Instr.watchCheckDecide check) := fun h => nomatch h
theorem watchReplyRecord (check : Nat) : Statement (Instr.watchReplyRecord check) := fun h => nomatch h
theorem watchTimeoutStrike (who : HartId) (entry : Nat) : Statement (Instr.watchTimeoutStrike who entry) := fun h => nomatch h
theorem reefQueueHead (core : Nat) : Statement (Instr.reefQueueHead core) := fun h => nomatch h
theorem imagePlacement (core : Nat) (slot : BitVec 4) : Statement (Instr.imagePlacement core slot) := fun h => nomatch h
theorem nodeFiring (core node : Nat) : Statement (Instr.nodeFiring core node) := fun h => nomatch h
theorem mNodeLoadReturn (core node : Nat) : Statement (Instr.mNodeLoadReturn core node) := fun h => nomatch h
theorem portTokenMove (core port : Nat) : Statement (Instr.portTokenMove core port) := fun h => nomatch h
theorem reefStallTimeout (core : Nat) : Statement (Instr.reefStallTimeout core) := fun h => nomatch h
theorem opcodeComplete (core : Nat) : Statement (Instr.opcodeComplete core) := fun h => nomatch h
theorem islandOrderAdmit (core : Nat) : Statement (Instr.islandOrderAdmit core) := fun h => nomatch h
theorem matrixStepBegin (core : Nat) : Statement (Instr.matrixStepBegin core) := fun h => nomatch h
theorem stepResult (core : Nat) : Statement (Instr.stepResult core) := fun h => nomatch h
theorem accumulatorDrain (core : Nat) : Statement (Instr.accumulatorDrain core) := fun h => nomatch h
theorem drainWritesPerformed (core acc : Nat) : Statement (Instr.drainWritesPerformed core acc) := fun h => nomatch h
theorem fillDataWrite (core : Nat) : Statement (Instr.fillDataWrite core) := fun h => nomatch h
theorem slotPublish (chan : Nat) : Statement (Instr.slotPublish chan) := fun h => nomatch h
theorem channelCounterArrive (chan branch : Nat) : Statement (Instr.channelCounterArrive chan branch) := fun h => nomatch h
theorem elasticMoveStart (chan branch : Nat) : Statement (Instr.elasticMoveStart chan branch) := fun h => nomatch h
theorem elasticMoveDone (chan branch : Nat) : Statement (Instr.elasticMoveDone chan branch) := fun h => nomatch h
theorem engineComplete (who : HartId) (tag : Nat) : Statement (Instr.engineComplete who tag) := fun h => nomatch h
theorem nvmeCompletion (who : HartId) (tag : Nat) (status : BitVec 16) (data : List Byte) : Statement (Instr.nvmeCompletion who tag status data) := fun h => nomatch h
theorem sreadQueueSlot (part controller : Nat) : Statement (Instr.sreadQueueSlot part controller) := fun h => nomatch h
theorem breakwaterRequest (who : HartId) (tag : Nat) : Statement (Instr.breakwaterRequest who tag) := fun h => nomatch h
theorem breakwaterDeliveryDone (who : HartId) (tag : Nat) (delivered : Nat) : Statement (Instr.breakwaterDeliveryDone who tag delivered) := fun h => nomatch h
theorem epochTick : Statement Instr.epochTick := fun h => nomatch h
theorem queueTailObserve (queue : Nat) : Statement (Instr.queueTailObserve queue) := fun h => nomatch h
theorem recordTake (queue : Nat) : Statement (Instr.recordTake queue) := fun h => nomatch h
theorem dependenceWatermarkMet (queue : Nat) : Statement (Instr.dependenceWatermarkMet queue) := fun h => nomatch h
theorem dispatchDecision (part : Nat) : Statement (Instr.dispatchDecision part) := fun h => nomatch h
theorem levelPromotion (queue : Nat) : Statement (Instr.levelPromotion queue) := fun h => nomatch h
theorem hartStart (who : HartId) : Statement (Instr.hartStart who) := fun h => nomatch h
theorem taskEnd (task : Nat) : Statement (Instr.taskEnd task) := fun h => nomatch h
theorem completionSignalWrite (task : Nat) : Statement (Instr.completionSignalWrite task) := fun h => nomatch h
theorem preemptHartStop (who : HartId) : Statement (Instr.preemptHartStop who) := fun h => nomatch h
theorem hartContextSave (who : HartId) : Statement (Instr.hartContextSave who) := fun h => nomatch h
theorem markFillPublish (chan : Nat) : Statement (Instr.markFillPublish chan) := fun h => nomatch h
theorem markTake (chan branch : Nat) : Statement (Instr.markTake chan branch) := fun h => nomatch h
theorem markWaitTimeout (who : HartId) : Statement (Instr.markWaitTimeout who) := fun h => nomatch h
theorem preemptionComplete (task : Nat) : Statement (Instr.preemptionComplete task) := fun h => nomatch h
theorem tidepoolSpillTrap (frame : Nat) : Statement (Instr.tidepoolSpillTrap frame) := fun h => nomatch h
theorem tidepoolBacking (frame : Nat) : Statement (Instr.tidepoolBacking frame) := fun h => nomatch h
theorem hostCxlMemRequest (pa : Nat) (op : CxlOp) : Statement (Instr.hostCxlMemRequest pa op) := fun h => nomatch h
theorem priPageRequest (who : HartId) (off : Nat) : Statement (Instr.priPageRequest who off) := fun h => nomatch h
theorem priResponse (who : HartId) (ok : Bool) : Statement (Instr.priResponse who ok) := fun h => nomatch h
theorem atomicopCompletion (who : HartId) (ok : Bool) (old : Word) : Statement (Instr.atomicopCompletion who ok old) := fun h => nomatch h
theorem functionLevelReset (vf : Nat) : Statement (Instr.functionLevelReset vf) := fun h => nomatch h
theorem flitReceive (port : Nat) (intact : Bool) (packets : List PeerPacket) : Statement (Instr.flitReceive port intact packets) := fun h => nomatch h
theorem peerOperationPacket (p : PeerPacket) : Statement (Instr.peerOperationPacket p) := fun h => nomatch h
theorem peerResponse (who : HartId) (status : Byte) (cur : PvSet) (old : Word) : Statement (Instr.peerResponse who status cur old) := fun h => nomatch h
theorem peerResponseTimeout (who : HartId) : Statement (Instr.peerResponseTimeout who) := fun h => nomatch h
theorem packageUnreachable (pkg : Nat) : Statement (Instr.packageUnreachable pkg) := fun h => nomatch h
theorem roceIncomingData (qp pa : Nat) (bytes : List Byte) : Statement (Instr.roceIncomingData qp pa bytes) := fun h => nomatch h
theorem roceReadRequest (qp pa len : Nat) : Statement (Instr.roceReadRequest qp pa len) := fun h => nomatch h
theorem hostWorkRequest (qp pa len : Nat) : Statement (Instr.hostWorkRequest qp pa len) := fun h => nomatch h
theorem errorRetry (site : ErrorSite) (retryOk : Bool) : Statement (Instr.errorRetry site retryOk) := fun h => nomatch h
theorem uncorrectableReread (pa : Nat) (again : Reread) : Statement (Instr.uncorrectableReread pa again) := fun h => nomatch h
theorem lastingFaultRepair (u : RepairUnit) : Statement (Instr.lastingFaultRepair u) := fun h => nomatch h
theorem coreSwap (core : Nat) : Statement (Instr.coreSwap core) := fun h => nomatch h
theorem thermalLimit (die : Nat) : Statement (Instr.thermalLimit die) := fun h => nomatch h
theorem thermalStop (die : Nat) : Statement (Instr.thermalStop die) := fun h => nomatch h
theorem neapExit : Statement Instr.neapExit := fun h => nomatch h
theorem boot (images : List (List Byte)) : Statement (Instr.boot images) := fun h => nomatch h
theorem mqtailWrite (v : Word) : Statement (Instr.mqtailWrite v) := fun h => nomatch h
theorem pcreate (e : MqEntry) : Statement (Instr.pcreate e) := fun h => nomatch h
theorem preset (e : MqEntry) : Statement (Instr.preset e) := fun h => nomatch h
theorem pdestroy (e : MqEntry) : Statement (Instr.pdestroy e) := fun h => nomatch h
theorem ways (e : MqEntry) : Statement (Instr.ways e) := fun h => nomatch h
theorem bwshare (e : MqEntry) : Statement (Instr.bwshare e) := fun h => nomatch h
theorem mem (e : MqEntry) : Statement (Instr.mem e) := fun h => nomatch h
theorem qtable (e : MqEntry) : Statement (Instr.qtable e) := fun h => nomatch h
theorem ctxpool (e : MqEntry) : Statement (Instr.ctxpool e) := fun h => nomatch h
theorem spillpool (e : MqEntry) : Statement (Instr.spillpool e) := fun h => nomatch h
theorem roster (e : MqEntry) : Statement (Instr.roster e) := fun h => nomatch h
theorem prov (e : MqEntry) : Statement (Instr.prov e) := fun h => nomatch h
theorem nsbind (e : MqEntry) : Statement (Instr.nsbind e) := fun h => nomatch h
theorem qpbind (e : MqEntry) : Statement (Instr.qpbind e) := fun h => nomatch h
theorem fmask (e : MqEntry) : Statement (Instr.fmask e) := fun h => nomatch h
theorem hvec (e : MqEntry) : Statement (Instr.hvec e) := fun h => nomatch h
theorem elog (e : MqEntry) : Statement (Instr.elog e) := fun h => nomatch h
theorem attest (e : MqEntry) : Statement (Instr.attest e) := fun h => nomatch h
theorem fwupdate (e : MqEntry) : Statement (Instr.fwupdate e) := fun h => nomatch h
theorem fwupdateActivate : Statement Instr.fwupdateActivate := fun h => nomatch h
theorem power (e : MqEntry) : Statement (Instr.power e) := fun h => nomatch h
theorem springStateChange (up : Bool) : Statement (Instr.springStateChange up) := fun h => nomatch h
theorem domainAssembly (pkg : Nat) (ports : List Nat) (report : List Byte) : Statement (Instr.domainAssembly pkg ports report) := fun h => nomatch h

end RoundTrip

end Sys2Proof.Laws
end

