-- ==== Sys2Proof/Laws/State.lean ====
section
/-! SUPPORT. What each update of the state leaves in each field: one lemma per field, so that no proof unfolds a record. -/

namespace Sys2Proof.Machine

@[simp] theorem State.mapHart_clk (s : State) (f : Hart → Hart) : (s.mapHart f).clk = s.clk := rfl
@[simp] theorem State.mapHart_pkg (s : State) (f : Hart → Hart) : (s.mapHart f).pkg = s.pkg := rfl
@[simp] theorem State.mapHart_hart (s : State) (f : Hart → Hart) : (s.mapHart f).hart = f s.hart := rfl
@[simp] theorem State.mapHart_core (s : State) (f : Hart → Hart) : (s.mapHart f).core = s.core := rfl
@[simp] theorem State.mapHart_harts (s : State) (f : Hart → Hart) : (s.mapHart f).harts = s.harts := rfl
@[simp] theorem State.mapHart_cores (s : State) (f : Hart → Hart) : (s.mapHart f).cores = s.cores := rfl
@[simp] theorem State.mapHart_grants (s : State) (f : Hart → Hart) : (s.mapHart f).grants = s.grants := rfl
@[simp] theorem State.mapHart_vgrants (s : State) (f : Hart → Hart) : (s.mapHart f).vgrants = s.vgrants := rfl
@[simp] theorem State.mapHart_pending (s : State) (f : Hart → Hart) : (s.mapHart f).pending = s.pending := rfl
@[simp] theorem State.mapHart_mem (s : State) (f : Hart → Hart) : (s.mapHart f).mem = s.mem := rfl
@[simp] theorem State.mapHart_prov (s : State) (f : Hart → Hart) : (s.mapHart f).prov = s.prov := rfl
@[simp] theorem State.mapHart_sectors (s : State) (f : Hart → Hart) : (s.mapHart f).sectors = s.sectors := rfl
@[simp] theorem State.mapHart_stamps (s : State) (f : Hart → Hart) : (s.mapHart f).stamps = s.stamps := rfl
@[simp] theorem State.mapHart_remade (s : State) (f : Hart → Hart) : (s.mapHart f).remade = s.remade := rfl
@[simp] theorem State.mapHart_poison (s : State) (f : Hart → Hart) : (s.mapHart f).poison = s.poison := rfl
@[simp] theorem State.mapHart_retired (s : State) (f : Hart → Hart) : (s.mapHart f).retired = s.retired := rfl
@[simp] theorem State.mapHart_rereads (s : State) (f : Hart → Hart) : (s.mapHart f).rereads = s.rereads := rfl
@[simp] theorem State.mapHart_unscrubbed (s : State) (f : Hart → Hart) : (s.mapHart f).unscrubbed = s.unscrubbed := rfl
@[simp] theorem State.mapHart_clearing (s : State) (f : Hart → Hart) : (s.mapHart f).clearing = s.clearing := rfl
@[simp] theorem State.mapHart_tide (s : State) (f : Hart → Hart) : (s.mapHart f).tide = s.tide := rfl
@[simp] theorem State.mapHart_slots (s : State) (f : Hart → Hart) : (s.mapHart f).slots = s.slots := rfl
@[simp] theorem State.mapHart_parts (s : State) (f : Hart → Hart) : (s.mapHart f).parts = s.parts := rfl
@[simp] theorem State.mapHart_unreachable_ (s : State) (f : Hart → Hart) : (s.mapHart f).unreachable_ = s.unreachable_ := rfl
@[simp] theorem State.mapHart_zone (s : State) (f : Hart → Hart) : (s.mapHart f).zone = s.zone := rfl
@[simp] theorem State.mapHart_pri (s : State) (f : Hart → Hart) : (s.mapHart f).pri = s.pri := rfl
@[simp] theorem State.mapHart_ats (s : State) (f : Hart → Hart) : (s.mapHart f).ats = s.ats := rfl
@[simp] theorem State.mapHart_sent (s : State) (f : Hart → Hart) : (s.mapHart f).sent = s.sent := rfl
@[simp] theorem State.mapHart_recorded (s : State) (f : Hart → Hart) : (s.mapHart f).recorded = s.recorded := rfl
@[simp] theorem State.mapHart_binds (s : State) (f : Hart → Hart) : (s.mapHart f).binds = s.binds := rfl
@[simp] theorem State.mapHart_chans (s : State) (f : Hart → Hart) : (s.mapHart f).chans = s.chans := rfl
@[simp] theorem State.mapHart_barriers (s : State) (f : Hart → Hart) : (s.mapHart f).barriers = s.barriers := rfl
@[simp] theorem State.mapHart_jobSeq (s : State) (f : Hart → Hart) : (s.mapHart f).jobSeq = s.jobSeq := rfl
@[simp] theorem State.mapHart_engq (s : State) (f : Hart → Hart) : (s.mapHart f).engq = s.engq := rfl
@[simp] theorem State.mapHart_sreads (s : State) (f : Hart → Hart) : (s.mapHart f).sreads = s.sreads := rfl
@[simp] theorem State.mapHart_gateq (s : State) (f : Hart → Hart) : (s.mapHart f).gateq = s.gateq := rfl
@[simp] theorem State.mapHart_deliveries (s : State) (f : Hart → Hart) : (s.mapHart f).deliveries = s.deliveries := rfl
@[simp] theorem State.mapHart_policies (s : State) (f : Hart → Hart) : (s.mapHart f).policies = s.policies := rfl
@[simp] theorem State.mapHart_epoch (s : State) (f : Hart → Hart) : (s.mapHart f).epoch = s.epoch := rfl
@[simp] theorem State.mapHart_recSeq (s : State) (f : Hart → Hart) : (s.mapHart f).recSeq = s.recSeq := rfl
@[simp] theorem State.mapHart_qtable (s : State) (f : Hart → Hart) : (s.mapHart f).qtable = s.qtable := rfl
@[simp] theorem State.mapHart_queues (s : State) (f : Hart → Hart) : (s.mapHart f).queues = s.queues := rfl
@[simp] theorem State.mapHart_served (s : State) (f : Hart → Hart) : (s.mapHart f).served = s.served := rfl
@[simp] theorem State.mapHart_tasks (s : State) (f : Hart → Hart) : (s.mapHart f).tasks = s.tasks := rfl
@[simp] theorem State.mapHart_taskSeq (s : State) (f : Hart → Hart) : (s.mapHart f).taskSeq = s.taskSeq := rfl
@[simp] theorem State.mapHart_chosen (s : State) (f : Hart → Hart) : (s.mapHart f).chosen = s.chosen := rfl
@[simp] theorem State.mapHart_mqBase (s : State) (f : Hart → Hart) : (s.mapHart f).mqBase = s.mqBase := rfl
@[simp] theorem State.mapHart_mqSize (s : State) (f : Hart → Hart) : (s.mapHart f).mqSize = s.mqSize := rfl
@[simp] theorem State.mapHart_mqTail (s : State) (f : Hart → Hart) : (s.mapHart f).mqTail = s.mqTail := rfl
@[simp] theorem State.mapHart_mqHead (s : State) (f : Hart → Hart) : (s.mapHart f).mqHead = s.mqHead := rfl
@[simp] theorem State.mapHart_elog (s : State) (f : Hart → Hart) : (s.mapHart f).elog = s.elog := rfl
@[simp] theorem State.mapHart_elogSeq (s : State) (f : Hart → Hart) : (s.mapHart f).elogSeq = s.elogSeq := rfl
@[simp] theorem State.mapHart_boot (s : State) (f : Hart → Hart) : (s.mapHart f).boot = s.boot := rfl
@[simp] theorem State.mapHart_fw (s : State) (f : Hart → Hart) : (s.mapHart f).fw = s.fw := rfl
@[simp] theorem State.mapHart_staged (s : State) (f : Hart → Hart) : (s.mapHart f).staged = s.staged := rfl
@[simp] theorem State.mapHart_activate (s : State) (f : Hart → Hart) : (s.mapHart f).activate = s.activate := rfl
@[simp] theorem State.mapHart_fusedSvn (s : State) (f : Hart → Hart) : (s.mapHart f).fusedSvn = s.fusedSvn := rfl
@[simp] theorem State.mapHart_power (s : State) (f : Hart → Hart) : (s.mapHart f).power = s.power := rfl
@[simp] theorem State.mapHart_powerCmd (s : State) (f : Hart → Hart) : (s.mapHart f).powerCmd = s.powerCmd := rfl
@[simp] theorem State.mapHart_forcedNeap (s : State) (f : Hart → Hart) : (s.mapHart f).forcedNeap = s.forcedNeap := rfl
@[simp] theorem State.mapHart_limitAt (s : State) (f : Hart → Hart) : (s.mapHart f).limitAt = s.limitAt := rfl
@[simp] theorem State.mapHart_stopped (s : State) (f : Hart → Hart) : (s.mapHart f).stopped = s.stopped := rfl
@[simp] theorem State.mapHart_repairs (s : State) (f : Hart → Hart) : (s.mapHart f).repairs = s.repairs := rfl
@[simp] theorem State.mapHart_routes (s : State) (f : Hart → Hart) : (s.mapHart f).routes = s.routes := rfl
@[simp] theorem State.mapHart_savedFrames (s : State) (f : Hart → Hart) : (s.mapHart f).savedFrames = s.savedFrames := rfl
@[simp] theorem State.mapHart_freeCtr (s : State) (f : Hart → Hart) : (s.mapHart f).freeCtr = s.freeCtr := rfl
@[simp] theorem State.mapCore_clk (s : State) (f : Core → Core) : (s.mapCore f).clk = s.clk := rfl
@[simp] theorem State.mapCore_pkg (s : State) (f : Core → Core) : (s.mapCore f).pkg = s.pkg := rfl
@[simp] theorem State.mapCore_hart (s : State) (f : Core → Core) : (s.mapCore f).hart = s.hart := rfl
@[simp] theorem State.mapCore_core (s : State) (f : Core → Core) : (s.mapCore f).core = f s.core := rfl
@[simp] theorem State.mapCore_harts (s : State) (f : Core → Core) : (s.mapCore f).harts = s.harts := rfl
@[simp] theorem State.mapCore_cores (s : State) (f : Core → Core) : (s.mapCore f).cores = s.cores := rfl
@[simp] theorem State.mapCore_grants (s : State) (f : Core → Core) : (s.mapCore f).grants = s.grants := rfl
@[simp] theorem State.mapCore_vgrants (s : State) (f : Core → Core) : (s.mapCore f).vgrants = s.vgrants := rfl
@[simp] theorem State.mapCore_pending (s : State) (f : Core → Core) : (s.mapCore f).pending = s.pending := rfl
@[simp] theorem State.mapCore_mem (s : State) (f : Core → Core) : (s.mapCore f).mem = s.mem := rfl
@[simp] theorem State.mapCore_prov (s : State) (f : Core → Core) : (s.mapCore f).prov = s.prov := rfl
@[simp] theorem State.mapCore_sectors (s : State) (f : Core → Core) : (s.mapCore f).sectors = s.sectors := rfl
@[simp] theorem State.mapCore_stamps (s : State) (f : Core → Core) : (s.mapCore f).stamps = s.stamps := rfl
@[simp] theorem State.mapCore_remade (s : State) (f : Core → Core) : (s.mapCore f).remade = s.remade := rfl
@[simp] theorem State.mapCore_poison (s : State) (f : Core → Core) : (s.mapCore f).poison = s.poison := rfl
@[simp] theorem State.mapCore_retired (s : State) (f : Core → Core) : (s.mapCore f).retired = s.retired := rfl
@[simp] theorem State.mapCore_rereads (s : State) (f : Core → Core) : (s.mapCore f).rereads = s.rereads := rfl
@[simp] theorem State.mapCore_unscrubbed (s : State) (f : Core → Core) : (s.mapCore f).unscrubbed = s.unscrubbed := rfl
@[simp] theorem State.mapCore_clearing (s : State) (f : Core → Core) : (s.mapCore f).clearing = s.clearing := rfl
@[simp] theorem State.mapCore_tide (s : State) (f : Core → Core) : (s.mapCore f).tide = s.tide := rfl
@[simp] theorem State.mapCore_slots (s : State) (f : Core → Core) : (s.mapCore f).slots = s.slots := rfl
@[simp] theorem State.mapCore_parts (s : State) (f : Core → Core) : (s.mapCore f).parts = s.parts := rfl
@[simp] theorem State.mapCore_unreachable_ (s : State) (f : Core → Core) : (s.mapCore f).unreachable_ = s.unreachable_ := rfl
@[simp] theorem State.mapCore_zone (s : State) (f : Core → Core) : (s.mapCore f).zone = s.zone := rfl
@[simp] theorem State.mapCore_pri (s : State) (f : Core → Core) : (s.mapCore f).pri = s.pri := rfl
@[simp] theorem State.mapCore_ats (s : State) (f : Core → Core) : (s.mapCore f).ats = s.ats := rfl
@[simp] theorem State.mapCore_sent (s : State) (f : Core → Core) : (s.mapCore f).sent = s.sent := rfl
@[simp] theorem State.mapCore_recorded (s : State) (f : Core → Core) : (s.mapCore f).recorded = s.recorded := rfl
@[simp] theorem State.mapCore_binds (s : State) (f : Core → Core) : (s.mapCore f).binds = s.binds := rfl
@[simp] theorem State.mapCore_chans (s : State) (f : Core → Core) : (s.mapCore f).chans = s.chans := rfl
@[simp] theorem State.mapCore_barriers (s : State) (f : Core → Core) : (s.mapCore f).barriers = s.barriers := rfl
@[simp] theorem State.mapCore_jobSeq (s : State) (f : Core → Core) : (s.mapCore f).jobSeq = s.jobSeq := rfl
@[simp] theorem State.mapCore_engq (s : State) (f : Core → Core) : (s.mapCore f).engq = s.engq := rfl
@[simp] theorem State.mapCore_sreads (s : State) (f : Core → Core) : (s.mapCore f).sreads = s.sreads := rfl
@[simp] theorem State.mapCore_gateq (s : State) (f : Core → Core) : (s.mapCore f).gateq = s.gateq := rfl
@[simp] theorem State.mapCore_deliveries (s : State) (f : Core → Core) : (s.mapCore f).deliveries = s.deliveries := rfl
@[simp] theorem State.mapCore_policies (s : State) (f : Core → Core) : (s.mapCore f).policies = s.policies := rfl
@[simp] theorem State.mapCore_epoch (s : State) (f : Core → Core) : (s.mapCore f).epoch = s.epoch := rfl
@[simp] theorem State.mapCore_recSeq (s : State) (f : Core → Core) : (s.mapCore f).recSeq = s.recSeq := rfl
@[simp] theorem State.mapCore_qtable (s : State) (f : Core → Core) : (s.mapCore f).qtable = s.qtable := rfl
@[simp] theorem State.mapCore_queues (s : State) (f : Core → Core) : (s.mapCore f).queues = s.queues := rfl
@[simp] theorem State.mapCore_served (s : State) (f : Core → Core) : (s.mapCore f).served = s.served := rfl
@[simp] theorem State.mapCore_tasks (s : State) (f : Core → Core) : (s.mapCore f).tasks = s.tasks := rfl
@[simp] theorem State.mapCore_taskSeq (s : State) (f : Core → Core) : (s.mapCore f).taskSeq = s.taskSeq := rfl
@[simp] theorem State.mapCore_chosen (s : State) (f : Core → Core) : (s.mapCore f).chosen = s.chosen := rfl
@[simp] theorem State.mapCore_mqBase (s : State) (f : Core → Core) : (s.mapCore f).mqBase = s.mqBase := rfl
@[simp] theorem State.mapCore_mqSize (s : State) (f : Core → Core) : (s.mapCore f).mqSize = s.mqSize := rfl
@[simp] theorem State.mapCore_mqTail (s : State) (f : Core → Core) : (s.mapCore f).mqTail = s.mqTail := rfl
@[simp] theorem State.mapCore_mqHead (s : State) (f : Core → Core) : (s.mapCore f).mqHead = s.mqHead := rfl
@[simp] theorem State.mapCore_elog (s : State) (f : Core → Core) : (s.mapCore f).elog = s.elog := rfl
@[simp] theorem State.mapCore_elogSeq (s : State) (f : Core → Core) : (s.mapCore f).elogSeq = s.elogSeq := rfl
@[simp] theorem State.mapCore_boot (s : State) (f : Core → Core) : (s.mapCore f).boot = s.boot := rfl
@[simp] theorem State.mapCore_fw (s : State) (f : Core → Core) : (s.mapCore f).fw = s.fw := rfl
@[simp] theorem State.mapCore_staged (s : State) (f : Core → Core) : (s.mapCore f).staged = s.staged := rfl
@[simp] theorem State.mapCore_activate (s : State) (f : Core → Core) : (s.mapCore f).activate = s.activate := rfl
@[simp] theorem State.mapCore_fusedSvn (s : State) (f : Core → Core) : (s.mapCore f).fusedSvn = s.fusedSvn := rfl
@[simp] theorem State.mapCore_power (s : State) (f : Core → Core) : (s.mapCore f).power = s.power := rfl
@[simp] theorem State.mapCore_powerCmd (s : State) (f : Core → Core) : (s.mapCore f).powerCmd = s.powerCmd := rfl
@[simp] theorem State.mapCore_forcedNeap (s : State) (f : Core → Core) : (s.mapCore f).forcedNeap = s.forcedNeap := rfl
@[simp] theorem State.mapCore_limitAt (s : State) (f : Core → Core) : (s.mapCore f).limitAt = s.limitAt := rfl
@[simp] theorem State.mapCore_stopped (s : State) (f : Core → Core) : (s.mapCore f).stopped = s.stopped := rfl
@[simp] theorem State.mapCore_repairs (s : State) (f : Core → Core) : (s.mapCore f).repairs = s.repairs := rfl
@[simp] theorem State.mapCore_routes (s : State) (f : Core → Core) : (s.mapCore f).routes = s.routes := rfl
@[simp] theorem State.mapCore_savedFrames (s : State) (f : Core → Core) : (s.mapCore f).savedFrames = s.savedFrames := rfl
@[simp] theorem State.mapCore_freeCtr (s : State) (f : Core → Core) : (s.mapCore f).freeCtr = s.freeCtr := rfl
@[simp] theorem State.mapCsr_clk (s : State) (f : Csrs → Csrs) : (s.mapCsr f).clk = s.clk := rfl
@[simp] theorem State.mapCsr_pkg (s : State) (f : Csrs → Csrs) : (s.mapCsr f).pkg = s.pkg := rfl
@[simp] theorem State.mapCsr_hart (s : State) (f : Csrs → Csrs) : (s.mapCsr f).hart = { s.hart with csr := f s.hart.csr } := rfl
@[simp] theorem State.mapCsr_core (s : State) (f : Csrs → Csrs) : (s.mapCsr f).core = s.core := rfl
@[simp] theorem State.mapCsr_harts (s : State) (f : Csrs → Csrs) : (s.mapCsr f).harts = s.harts := rfl
@[simp] theorem State.mapCsr_cores (s : State) (f : Csrs → Csrs) : (s.mapCsr f).cores = s.cores := rfl
@[simp] theorem State.mapCsr_grants (s : State) (f : Csrs → Csrs) : (s.mapCsr f).grants = s.grants := rfl
@[simp] theorem State.mapCsr_vgrants (s : State) (f : Csrs → Csrs) : (s.mapCsr f).vgrants = s.vgrants := rfl
@[simp] theorem State.mapCsr_pending (s : State) (f : Csrs → Csrs) : (s.mapCsr f).pending = s.pending := rfl
@[simp] theorem State.mapCsr_mem (s : State) (f : Csrs → Csrs) : (s.mapCsr f).mem = s.mem := rfl
@[simp] theorem State.mapCsr_prov (s : State) (f : Csrs → Csrs) : (s.mapCsr f).prov = s.prov := rfl
@[simp] theorem State.mapCsr_sectors (s : State) (f : Csrs → Csrs) : (s.mapCsr f).sectors = s.sectors := rfl
@[simp] theorem State.mapCsr_stamps (s : State) (f : Csrs → Csrs) : (s.mapCsr f).stamps = s.stamps := rfl
@[simp] theorem State.mapCsr_remade (s : State) (f : Csrs → Csrs) : (s.mapCsr f).remade = s.remade := rfl
@[simp] theorem State.mapCsr_poison (s : State) (f : Csrs → Csrs) : (s.mapCsr f).poison = s.poison := rfl
@[simp] theorem State.mapCsr_retired (s : State) (f : Csrs → Csrs) : (s.mapCsr f).retired = s.retired := rfl
@[simp] theorem State.mapCsr_rereads (s : State) (f : Csrs → Csrs) : (s.mapCsr f).rereads = s.rereads := rfl
@[simp] theorem State.mapCsr_unscrubbed (s : State) (f : Csrs → Csrs) : (s.mapCsr f).unscrubbed = s.unscrubbed := rfl
@[simp] theorem State.mapCsr_clearing (s : State) (f : Csrs → Csrs) : (s.mapCsr f).clearing = s.clearing := rfl
@[simp] theorem State.mapCsr_tide (s : State) (f : Csrs → Csrs) : (s.mapCsr f).tide = s.tide := rfl
@[simp] theorem State.mapCsr_slots (s : State) (f : Csrs → Csrs) : (s.mapCsr f).slots = s.slots := rfl
@[simp] theorem State.mapCsr_parts (s : State) (f : Csrs → Csrs) : (s.mapCsr f).parts = s.parts := rfl
@[simp] theorem State.mapCsr_unreachable_ (s : State) (f : Csrs → Csrs) : (s.mapCsr f).unreachable_ = s.unreachable_ := rfl
@[simp] theorem State.mapCsr_zone (s : State) (f : Csrs → Csrs) : (s.mapCsr f).zone = s.zone := rfl
@[simp] theorem State.mapCsr_pri (s : State) (f : Csrs → Csrs) : (s.mapCsr f).pri = s.pri := rfl
@[simp] theorem State.mapCsr_ats (s : State) (f : Csrs → Csrs) : (s.mapCsr f).ats = s.ats := rfl
@[simp] theorem State.mapCsr_sent (s : State) (f : Csrs → Csrs) : (s.mapCsr f).sent = s.sent := rfl
@[simp] theorem State.mapCsr_recorded (s : State) (f : Csrs → Csrs) : (s.mapCsr f).recorded = s.recorded := rfl
@[simp] theorem State.mapCsr_binds (s : State) (f : Csrs → Csrs) : (s.mapCsr f).binds = s.binds := rfl
@[simp] theorem State.mapCsr_chans (s : State) (f : Csrs → Csrs) : (s.mapCsr f).chans = s.chans := rfl
@[simp] theorem State.mapCsr_barriers (s : State) (f : Csrs → Csrs) : (s.mapCsr f).barriers = s.barriers := rfl
@[simp] theorem State.mapCsr_jobSeq (s : State) (f : Csrs → Csrs) : (s.mapCsr f).jobSeq = s.jobSeq := rfl
@[simp] theorem State.mapCsr_engq (s : State) (f : Csrs → Csrs) : (s.mapCsr f).engq = s.engq := rfl
@[simp] theorem State.mapCsr_sreads (s : State) (f : Csrs → Csrs) : (s.mapCsr f).sreads = s.sreads := rfl
@[simp] theorem State.mapCsr_gateq (s : State) (f : Csrs → Csrs) : (s.mapCsr f).gateq = s.gateq := rfl
@[simp] theorem State.mapCsr_deliveries (s : State) (f : Csrs → Csrs) : (s.mapCsr f).deliveries = s.deliveries := rfl
@[simp] theorem State.mapCsr_policies (s : State) (f : Csrs → Csrs) : (s.mapCsr f).policies = s.policies := rfl
@[simp] theorem State.mapCsr_epoch (s : State) (f : Csrs → Csrs) : (s.mapCsr f).epoch = s.epoch := rfl
@[simp] theorem State.mapCsr_recSeq (s : State) (f : Csrs → Csrs) : (s.mapCsr f).recSeq = s.recSeq := rfl
@[simp] theorem State.mapCsr_qtable (s : State) (f : Csrs → Csrs) : (s.mapCsr f).qtable = s.qtable := rfl
@[simp] theorem State.mapCsr_queues (s : State) (f : Csrs → Csrs) : (s.mapCsr f).queues = s.queues := rfl
@[simp] theorem State.mapCsr_served (s : State) (f : Csrs → Csrs) : (s.mapCsr f).served = s.served := rfl
@[simp] theorem State.mapCsr_tasks (s : State) (f : Csrs → Csrs) : (s.mapCsr f).tasks = s.tasks := rfl
@[simp] theorem State.mapCsr_taskSeq (s : State) (f : Csrs → Csrs) : (s.mapCsr f).taskSeq = s.taskSeq := rfl
@[simp] theorem State.mapCsr_chosen (s : State) (f : Csrs → Csrs) : (s.mapCsr f).chosen = s.chosen := rfl
@[simp] theorem State.mapCsr_mqBase (s : State) (f : Csrs → Csrs) : (s.mapCsr f).mqBase = s.mqBase := rfl
@[simp] theorem State.mapCsr_mqSize (s : State) (f : Csrs → Csrs) : (s.mapCsr f).mqSize = s.mqSize := rfl
@[simp] theorem State.mapCsr_mqTail (s : State) (f : Csrs → Csrs) : (s.mapCsr f).mqTail = s.mqTail := rfl
@[simp] theorem State.mapCsr_mqHead (s : State) (f : Csrs → Csrs) : (s.mapCsr f).mqHead = s.mqHead := rfl
@[simp] theorem State.mapCsr_elog (s : State) (f : Csrs → Csrs) : (s.mapCsr f).elog = s.elog := rfl
@[simp] theorem State.mapCsr_elogSeq (s : State) (f : Csrs → Csrs) : (s.mapCsr f).elogSeq = s.elogSeq := rfl
@[simp] theorem State.mapCsr_boot (s : State) (f : Csrs → Csrs) : (s.mapCsr f).boot = s.boot := rfl
@[simp] theorem State.mapCsr_fw (s : State) (f : Csrs → Csrs) : (s.mapCsr f).fw = s.fw := rfl
@[simp] theorem State.mapCsr_staged (s : State) (f : Csrs → Csrs) : (s.mapCsr f).staged = s.staged := rfl
@[simp] theorem State.mapCsr_activate (s : State) (f : Csrs → Csrs) : (s.mapCsr f).activate = s.activate := rfl
@[simp] theorem State.mapCsr_fusedSvn (s : State) (f : Csrs → Csrs) : (s.mapCsr f).fusedSvn = s.fusedSvn := rfl
@[simp] theorem State.mapCsr_power (s : State) (f : Csrs → Csrs) : (s.mapCsr f).power = s.power := rfl
@[simp] theorem State.mapCsr_powerCmd (s : State) (f : Csrs → Csrs) : (s.mapCsr f).powerCmd = s.powerCmd := rfl
@[simp] theorem State.mapCsr_forcedNeap (s : State) (f : Csrs → Csrs) : (s.mapCsr f).forcedNeap = s.forcedNeap := rfl
@[simp] theorem State.mapCsr_limitAt (s : State) (f : Csrs → Csrs) : (s.mapCsr f).limitAt = s.limitAt := rfl
@[simp] theorem State.mapCsr_stopped (s : State) (f : Csrs → Csrs) : (s.mapCsr f).stopped = s.stopped := rfl
@[simp] theorem State.mapCsr_repairs (s : State) (f : Csrs → Csrs) : (s.mapCsr f).repairs = s.repairs := rfl
@[simp] theorem State.mapCsr_routes (s : State) (f : Csrs → Csrs) : (s.mapCsr f).routes = s.routes := rfl
@[simp] theorem State.mapCsr_savedFrames (s : State) (f : Csrs → Csrs) : (s.mapCsr f).savedFrames = s.savedFrames := rfl
@[simp] theorem State.mapCsr_freeCtr (s : State) (f : Csrs → Csrs) : (s.mapCsr f).freeCtr = s.freeCtr := rfl
@[simp] theorem State.setS_clk (s : State) (r : BitVec 5) (v : Word) (p : PvSet) : (s.setS r v p).clk = s.clk := rfl
@[simp] theorem State.setS_pkg (s : State) (r : BitVec 5) (v : Word) (p : PvSet) : (s.setS r v p).pkg = s.pkg := rfl
@[simp] theorem State.setS_hart (s : State) (r : BitVec 5) (v : Word) (p : PvSet) : (s.setS r v p).hart = s.hart.setS r v p := rfl
@[simp] theorem State.setS_core (s : State) (r : BitVec 5) (v : Word) (p : PvSet) : (s.setS r v p).core = s.core := rfl
@[simp] theorem State.setS_harts (s : State) (r : BitVec 5) (v : Word) (p : PvSet) : (s.setS r v p).harts = s.harts := rfl
@[simp] theorem State.setS_cores (s : State) (r : BitVec 5) (v : Word) (p : PvSet) : (s.setS r v p).cores = s.cores := rfl
@[simp] theorem State.setS_grants (s : State) (r : BitVec 5) (v : Word) (p : PvSet) : (s.setS r v p).grants = s.grants := rfl
@[simp] theorem State.setS_vgrants (s : State) (r : BitVec 5) (v : Word) (p : PvSet) : (s.setS r v p).vgrants = s.vgrants := rfl
@[simp] theorem State.setS_pending (s : State) (r : BitVec 5) (v : Word) (p : PvSet) : (s.setS r v p).pending = s.pending := rfl
@[simp] theorem State.setS_mem (s : State) (r : BitVec 5) (v : Word) (p : PvSet) : (s.setS r v p).mem = s.mem := rfl
@[simp] theorem State.setS_prov (s : State) (r : BitVec 5) (v : Word) (p : PvSet) : (s.setS r v p).prov = s.prov := rfl
@[simp] theorem State.setS_sectors (s : State) (r : BitVec 5) (v : Word) (p : PvSet) : (s.setS r v p).sectors = s.sectors := rfl
@[simp] theorem State.setS_stamps (s : State) (r : BitVec 5) (v : Word) (p : PvSet) : (s.setS r v p).stamps = s.stamps := rfl
@[simp] theorem State.setS_remade (s : State) (r : BitVec 5) (v : Word) (p : PvSet) : (s.setS r v p).remade = s.remade := rfl
@[simp] theorem State.setS_poison (s : State) (r : BitVec 5) (v : Word) (p : PvSet) : (s.setS r v p).poison = s.poison := rfl
@[simp] theorem State.setS_retired (s : State) (r : BitVec 5) (v : Word) (p : PvSet) : (s.setS r v p).retired = s.retired := rfl
@[simp] theorem State.setS_rereads (s : State) (r : BitVec 5) (v : Word) (p : PvSet) : (s.setS r v p).rereads = s.rereads := rfl
@[simp] theorem State.setS_unscrubbed (s : State) (r : BitVec 5) (v : Word) (p : PvSet) : (s.setS r v p).unscrubbed = s.unscrubbed := rfl
@[simp] theorem State.setS_clearing (s : State) (r : BitVec 5) (v : Word) (p : PvSet) : (s.setS r v p).clearing = s.clearing := rfl
@[simp] theorem State.setS_tide (s : State) (r : BitVec 5) (v : Word) (p : PvSet) : (s.setS r v p).tide = s.tide := rfl
@[simp] theorem State.setS_slots (s : State) (r : BitVec 5) (v : Word) (p : PvSet) : (s.setS r v p).slots = s.slots := rfl
@[simp] theorem State.setS_parts (s : State) (r : BitVec 5) (v : Word) (p : PvSet) : (s.setS r v p).parts = s.parts := rfl
@[simp] theorem State.setS_unreachable_ (s : State) (r : BitVec 5) (v : Word) (p : PvSet) : (s.setS r v p).unreachable_ = s.unreachable_ := rfl
@[simp] theorem State.setS_zone (s : State) (r : BitVec 5) (v : Word) (p : PvSet) : (s.setS r v p).zone = s.zone := rfl
@[simp] theorem State.setS_pri (s : State) (r : BitVec 5) (v : Word) (p : PvSet) : (s.setS r v p).pri = s.pri := rfl
@[simp] theorem State.setS_ats (s : State) (r : BitVec 5) (v : Word) (p : PvSet) : (s.setS r v p).ats = s.ats := rfl
@[simp] theorem State.setS_sent (s : State) (r : BitVec 5) (v : Word) (p : PvSet) : (s.setS r v p).sent = s.sent := rfl
@[simp] theorem State.setS_recorded (s : State) (r : BitVec 5) (v : Word) (p : PvSet) : (s.setS r v p).recorded = s.recorded := rfl
@[simp] theorem State.setS_binds (s : State) (r : BitVec 5) (v : Word) (p : PvSet) : (s.setS r v p).binds = s.binds := rfl
@[simp] theorem State.setS_chans (s : State) (r : BitVec 5) (v : Word) (p : PvSet) : (s.setS r v p).chans = s.chans := rfl
@[simp] theorem State.setS_barriers (s : State) (r : BitVec 5) (v : Word) (p : PvSet) : (s.setS r v p).barriers = s.barriers := rfl
@[simp] theorem State.setS_jobSeq (s : State) (r : BitVec 5) (v : Word) (p : PvSet) : (s.setS r v p).jobSeq = s.jobSeq := rfl
@[simp] theorem State.setS_engq (s : State) (r : BitVec 5) (v : Word) (p : PvSet) : (s.setS r v p).engq = s.engq := rfl
@[simp] theorem State.setS_sreads (s : State) (r : BitVec 5) (v : Word) (p : PvSet) : (s.setS r v p).sreads = s.sreads := rfl
@[simp] theorem State.setS_gateq (s : State) (r : BitVec 5) (v : Word) (p : PvSet) : (s.setS r v p).gateq = s.gateq := rfl
@[simp] theorem State.setS_deliveries (s : State) (r : BitVec 5) (v : Word) (p : PvSet) : (s.setS r v p).deliveries = s.deliveries := rfl
@[simp] theorem State.setS_policies (s : State) (r : BitVec 5) (v : Word) (p : PvSet) : (s.setS r v p).policies = s.policies := rfl
@[simp] theorem State.setS_epoch (s : State) (r : BitVec 5) (v : Word) (p : PvSet) : (s.setS r v p).epoch = s.epoch := rfl
@[simp] theorem State.setS_recSeq (s : State) (r : BitVec 5) (v : Word) (p : PvSet) : (s.setS r v p).recSeq = s.recSeq := rfl
@[simp] theorem State.setS_qtable (s : State) (r : BitVec 5) (v : Word) (p : PvSet) : (s.setS r v p).qtable = s.qtable := rfl
@[simp] theorem State.setS_queues (s : State) (r : BitVec 5) (v : Word) (p : PvSet) : (s.setS r v p).queues = s.queues := rfl
@[simp] theorem State.setS_served (s : State) (r : BitVec 5) (v : Word) (p : PvSet) : (s.setS r v p).served = s.served := rfl
@[simp] theorem State.setS_tasks (s : State) (r : BitVec 5) (v : Word) (p : PvSet) : (s.setS r v p).tasks = s.tasks := rfl
@[simp] theorem State.setS_taskSeq (s : State) (r : BitVec 5) (v : Word) (p : PvSet) : (s.setS r v p).taskSeq = s.taskSeq := rfl
@[simp] theorem State.setS_chosen (s : State) (r : BitVec 5) (v : Word) (p : PvSet) : (s.setS r v p).chosen = s.chosen := rfl
@[simp] theorem State.setS_mqBase (s : State) (r : BitVec 5) (v : Word) (p : PvSet) : (s.setS r v p).mqBase = s.mqBase := rfl
@[simp] theorem State.setS_mqSize (s : State) (r : BitVec 5) (v : Word) (p : PvSet) : (s.setS r v p).mqSize = s.mqSize := rfl
@[simp] theorem State.setS_mqTail (s : State) (r : BitVec 5) (v : Word) (p : PvSet) : (s.setS r v p).mqTail = s.mqTail := rfl
@[simp] theorem State.setS_mqHead (s : State) (r : BitVec 5) (v : Word) (p : PvSet) : (s.setS r v p).mqHead = s.mqHead := rfl
@[simp] theorem State.setS_elog (s : State) (r : BitVec 5) (v : Word) (p : PvSet) : (s.setS r v p).elog = s.elog := rfl
@[simp] theorem State.setS_elogSeq (s : State) (r : BitVec 5) (v : Word) (p : PvSet) : (s.setS r v p).elogSeq = s.elogSeq := rfl
@[simp] theorem State.setS_boot (s : State) (r : BitVec 5) (v : Word) (p : PvSet) : (s.setS r v p).boot = s.boot := rfl
@[simp] theorem State.setS_fw (s : State) (r : BitVec 5) (v : Word) (p : PvSet) : (s.setS r v p).fw = s.fw := rfl
@[simp] theorem State.setS_staged (s : State) (r : BitVec 5) (v : Word) (p : PvSet) : (s.setS r v p).staged = s.staged := rfl
@[simp] theorem State.setS_activate (s : State) (r : BitVec 5) (v : Word) (p : PvSet) : (s.setS r v p).activate = s.activate := rfl
@[simp] theorem State.setS_fusedSvn (s : State) (r : BitVec 5) (v : Word) (p : PvSet) : (s.setS r v p).fusedSvn = s.fusedSvn := rfl
@[simp] theorem State.setS_power (s : State) (r : BitVec 5) (v : Word) (p : PvSet) : (s.setS r v p).power = s.power := rfl
@[simp] theorem State.setS_powerCmd (s : State) (r : BitVec 5) (v : Word) (p : PvSet) : (s.setS r v p).powerCmd = s.powerCmd := rfl
@[simp] theorem State.setS_forcedNeap (s : State) (r : BitVec 5) (v : Word) (p : PvSet) : (s.setS r v p).forcedNeap = s.forcedNeap := rfl
@[simp] theorem State.setS_limitAt (s : State) (r : BitVec 5) (v : Word) (p : PvSet) : (s.setS r v p).limitAt = s.limitAt := rfl
@[simp] theorem State.setS_stopped (s : State) (r : BitVec 5) (v : Word) (p : PvSet) : (s.setS r v p).stopped = s.stopped := rfl
@[simp] theorem State.setS_repairs (s : State) (r : BitVec 5) (v : Word) (p : PvSet) : (s.setS r v p).repairs = s.repairs := rfl
@[simp] theorem State.setS_routes (s : State) (r : BitVec 5) (v : Word) (p : PvSet) : (s.setS r v p).routes = s.routes := rfl
@[simp] theorem State.setS_savedFrames (s : State) (r : BitVec 5) (v : Word) (p : PvSet) : (s.setS r v p).savedFrames = s.savedFrames := rfl
@[simp] theorem State.setS_freeCtr (s : State) (r : BitVec 5) (v : Word) (p : PvSet) : (s.setS r v p).freeCtr = s.freeCtr := rfl
@[simp] theorem State.addCtx_clk (s : State) (p : PvSet) : (s.addCtx p).clk = s.clk := rfl
@[simp] theorem State.addCtx_pkg (s : State) (p : PvSet) : (s.addCtx p).pkg = s.pkg := rfl
@[simp] theorem State.addCtx_hart (s : State) (p : PvSet) : (s.addCtx p).hart = { s.hart with ctx := s.hart.ctx ||| p } := rfl
@[simp] theorem State.addCtx_core (s : State) (p : PvSet) : (s.addCtx p).core = s.core := rfl
@[simp] theorem State.addCtx_harts (s : State) (p : PvSet) : (s.addCtx p).harts = s.harts := rfl
@[simp] theorem State.addCtx_cores (s : State) (p : PvSet) : (s.addCtx p).cores = s.cores := rfl
@[simp] theorem State.addCtx_grants (s : State) (p : PvSet) : (s.addCtx p).grants = s.grants := rfl
@[simp] theorem State.addCtx_vgrants (s : State) (p : PvSet) : (s.addCtx p).vgrants = s.vgrants := rfl
@[simp] theorem State.addCtx_pending (s : State) (p : PvSet) : (s.addCtx p).pending = s.pending := rfl
@[simp] theorem State.addCtx_mem (s : State) (p : PvSet) : (s.addCtx p).mem = s.mem := rfl
@[simp] theorem State.addCtx_prov (s : State) (p : PvSet) : (s.addCtx p).prov = s.prov := rfl
@[simp] theorem State.addCtx_sectors (s : State) (p : PvSet) : (s.addCtx p).sectors = s.sectors := rfl
@[simp] theorem State.addCtx_stamps (s : State) (p : PvSet) : (s.addCtx p).stamps = s.stamps := rfl
@[simp] theorem State.addCtx_remade (s : State) (p : PvSet) : (s.addCtx p).remade = s.remade := rfl
@[simp] theorem State.addCtx_poison (s : State) (p : PvSet) : (s.addCtx p).poison = s.poison := rfl
@[simp] theorem State.addCtx_retired (s : State) (p : PvSet) : (s.addCtx p).retired = s.retired := rfl
@[simp] theorem State.addCtx_rereads (s : State) (p : PvSet) : (s.addCtx p).rereads = s.rereads := rfl
@[simp] theorem State.addCtx_unscrubbed (s : State) (p : PvSet) : (s.addCtx p).unscrubbed = s.unscrubbed := rfl
@[simp] theorem State.addCtx_clearing (s : State) (p : PvSet) : (s.addCtx p).clearing = s.clearing := rfl
@[simp] theorem State.addCtx_tide (s : State) (p : PvSet) : (s.addCtx p).tide = s.tide := rfl
@[simp] theorem State.addCtx_slots (s : State) (p : PvSet) : (s.addCtx p).slots = s.slots := rfl
@[simp] theorem State.addCtx_parts (s : State) (p : PvSet) : (s.addCtx p).parts = s.parts := rfl
@[simp] theorem State.addCtx_unreachable_ (s : State) (p : PvSet) : (s.addCtx p).unreachable_ = s.unreachable_ := rfl
@[simp] theorem State.addCtx_zone (s : State) (p : PvSet) : (s.addCtx p).zone = s.zone := rfl
@[simp] theorem State.addCtx_pri (s : State) (p : PvSet) : (s.addCtx p).pri = s.pri := rfl
@[simp] theorem State.addCtx_ats (s : State) (p : PvSet) : (s.addCtx p).ats = s.ats := rfl
@[simp] theorem State.addCtx_sent (s : State) (p : PvSet) : (s.addCtx p).sent = s.sent := rfl
@[simp] theorem State.addCtx_recorded (s : State) (p : PvSet) : (s.addCtx p).recorded = s.recorded := rfl
@[simp] theorem State.addCtx_binds (s : State) (p : PvSet) : (s.addCtx p).binds = s.binds := rfl
@[simp] theorem State.addCtx_chans (s : State) (p : PvSet) : (s.addCtx p).chans = s.chans := rfl
@[simp] theorem State.addCtx_barriers (s : State) (p : PvSet) : (s.addCtx p).barriers = s.barriers := rfl
@[simp] theorem State.addCtx_jobSeq (s : State) (p : PvSet) : (s.addCtx p).jobSeq = s.jobSeq := rfl
@[simp] theorem State.addCtx_engq (s : State) (p : PvSet) : (s.addCtx p).engq = s.engq := rfl
@[simp] theorem State.addCtx_sreads (s : State) (p : PvSet) : (s.addCtx p).sreads = s.sreads := rfl
@[simp] theorem State.addCtx_gateq (s : State) (p : PvSet) : (s.addCtx p).gateq = s.gateq := rfl
@[simp] theorem State.addCtx_deliveries (s : State) (p : PvSet) : (s.addCtx p).deliveries = s.deliveries := rfl
@[simp] theorem State.addCtx_policies (s : State) (p : PvSet) : (s.addCtx p).policies = s.policies := rfl
@[simp] theorem State.addCtx_epoch (s : State) (p : PvSet) : (s.addCtx p).epoch = s.epoch := rfl
@[simp] theorem State.addCtx_recSeq (s : State) (p : PvSet) : (s.addCtx p).recSeq = s.recSeq := rfl
@[simp] theorem State.addCtx_qtable (s : State) (p : PvSet) : (s.addCtx p).qtable = s.qtable := rfl
@[simp] theorem State.addCtx_queues (s : State) (p : PvSet) : (s.addCtx p).queues = s.queues := rfl
@[simp] theorem State.addCtx_served (s : State) (p : PvSet) : (s.addCtx p).served = s.served := rfl
@[simp] theorem State.addCtx_tasks (s : State) (p : PvSet) : (s.addCtx p).tasks = s.tasks := rfl
@[simp] theorem State.addCtx_taskSeq (s : State) (p : PvSet) : (s.addCtx p).taskSeq = s.taskSeq := rfl
@[simp] theorem State.addCtx_chosen (s : State) (p : PvSet) : (s.addCtx p).chosen = s.chosen := rfl
@[simp] theorem State.addCtx_mqBase (s : State) (p : PvSet) : (s.addCtx p).mqBase = s.mqBase := rfl
@[simp] theorem State.addCtx_mqSize (s : State) (p : PvSet) : (s.addCtx p).mqSize = s.mqSize := rfl
@[simp] theorem State.addCtx_mqTail (s : State) (p : PvSet) : (s.addCtx p).mqTail = s.mqTail := rfl
@[simp] theorem State.addCtx_mqHead (s : State) (p : PvSet) : (s.addCtx p).mqHead = s.mqHead := rfl
@[simp] theorem State.addCtx_elog (s : State) (p : PvSet) : (s.addCtx p).elog = s.elog := rfl
@[simp] theorem State.addCtx_elogSeq (s : State) (p : PvSet) : (s.addCtx p).elogSeq = s.elogSeq := rfl
@[simp] theorem State.addCtx_boot (s : State) (p : PvSet) : (s.addCtx p).boot = s.boot := rfl
@[simp] theorem State.addCtx_fw (s : State) (p : PvSet) : (s.addCtx p).fw = s.fw := rfl
@[simp] theorem State.addCtx_staged (s : State) (p : PvSet) : (s.addCtx p).staged = s.staged := rfl
@[simp] theorem State.addCtx_activate (s : State) (p : PvSet) : (s.addCtx p).activate = s.activate := rfl
@[simp] theorem State.addCtx_fusedSvn (s : State) (p : PvSet) : (s.addCtx p).fusedSvn = s.fusedSvn := rfl
@[simp] theorem State.addCtx_power (s : State) (p : PvSet) : (s.addCtx p).power = s.power := rfl
@[simp] theorem State.addCtx_powerCmd (s : State) (p : PvSet) : (s.addCtx p).powerCmd = s.powerCmd := rfl
@[simp] theorem State.addCtx_forcedNeap (s : State) (p : PvSet) : (s.addCtx p).forcedNeap = s.forcedNeap := rfl
@[simp] theorem State.addCtx_limitAt (s : State) (p : PvSet) : (s.addCtx p).limitAt = s.limitAt := rfl
@[simp] theorem State.addCtx_stopped (s : State) (p : PvSet) : (s.addCtx p).stopped = s.stopped := rfl
@[simp] theorem State.addCtx_repairs (s : State) (p : PvSet) : (s.addCtx p).repairs = s.repairs := rfl
@[simp] theorem State.addCtx_routes (s : State) (p : PvSet) : (s.addCtx p).routes = s.routes := rfl
@[simp] theorem State.addCtx_savedFrames (s : State) (p : PvSet) : (s.addCtx p).savedFrames = s.savedFrames := rfl
@[simp] theorem State.addCtx_freeCtr (s : State) (p : PvSet) : (s.addCtx p).freeCtr = s.freeCtr := rfl
@[simp] theorem waitFor_clk (w : Wait) (s : State) : (waitFor w s).clk = s.clk := rfl
@[simp] theorem waitFor_pkg (w : Wait) (s : State) : (waitFor w s).pkg = s.pkg := rfl
@[simp] theorem waitFor_hart (w : Wait) (s : State) : (waitFor w s).hart = { s.hart with status := .waiting w } := rfl
@[simp] theorem waitFor_core (w : Wait) (s : State) : (waitFor w s).core = s.core := rfl
@[simp] theorem waitFor_harts (w : Wait) (s : State) : (waitFor w s).harts = s.harts := rfl
@[simp] theorem waitFor_cores (w : Wait) (s : State) : (waitFor w s).cores = s.cores := rfl
@[simp] theorem waitFor_grants (w : Wait) (s : State) : (waitFor w s).grants = s.grants := rfl
@[simp] theorem waitFor_vgrants (w : Wait) (s : State) : (waitFor w s).vgrants = s.vgrants := rfl
@[simp] theorem waitFor_pending (w : Wait) (s : State) : (waitFor w s).pending = s.pending := rfl
@[simp] theorem waitFor_mem (w : Wait) (s : State) : (waitFor w s).mem = s.mem := rfl
@[simp] theorem waitFor_prov (w : Wait) (s : State) : (waitFor w s).prov = s.prov := rfl
@[simp] theorem waitFor_sectors (w : Wait) (s : State) : (waitFor w s).sectors = s.sectors := rfl
@[simp] theorem waitFor_stamps (w : Wait) (s : State) : (waitFor w s).stamps = s.stamps := rfl
@[simp] theorem waitFor_remade (w : Wait) (s : State) : (waitFor w s).remade = s.remade := rfl
@[simp] theorem waitFor_poison (w : Wait) (s : State) : (waitFor w s).poison = s.poison := rfl
@[simp] theorem waitFor_retired (w : Wait) (s : State) : (waitFor w s).retired = s.retired := rfl
@[simp] theorem waitFor_rereads (w : Wait) (s : State) : (waitFor w s).rereads = s.rereads := rfl
@[simp] theorem waitFor_unscrubbed (w : Wait) (s : State) : (waitFor w s).unscrubbed = s.unscrubbed := rfl
@[simp] theorem waitFor_clearing (w : Wait) (s : State) : (waitFor w s).clearing = s.clearing := rfl
@[simp] theorem waitFor_tide (w : Wait) (s : State) : (waitFor w s).tide = s.tide := rfl
@[simp] theorem waitFor_slots (w : Wait) (s : State) : (waitFor w s).slots = s.slots := rfl
@[simp] theorem waitFor_parts (w : Wait) (s : State) : (waitFor w s).parts = s.parts := rfl
@[simp] theorem waitFor_unreachable_ (w : Wait) (s : State) : (waitFor w s).unreachable_ = s.unreachable_ := rfl
@[simp] theorem waitFor_zone (w : Wait) (s : State) : (waitFor w s).zone = s.zone := rfl
@[simp] theorem waitFor_pri (w : Wait) (s : State) : (waitFor w s).pri = s.pri := rfl
@[simp] theorem waitFor_ats (w : Wait) (s : State) : (waitFor w s).ats = s.ats := rfl
@[simp] theorem waitFor_sent (w : Wait) (s : State) : (waitFor w s).sent = s.sent := rfl
@[simp] theorem waitFor_recorded (w : Wait) (s : State) : (waitFor w s).recorded = s.recorded := rfl
@[simp] theorem waitFor_binds (w : Wait) (s : State) : (waitFor w s).binds = s.binds := rfl
@[simp] theorem waitFor_chans (w : Wait) (s : State) : (waitFor w s).chans = s.chans := rfl
@[simp] theorem waitFor_barriers (w : Wait) (s : State) : (waitFor w s).barriers = s.barriers := rfl
@[simp] theorem waitFor_jobSeq (w : Wait) (s : State) : (waitFor w s).jobSeq = s.jobSeq := rfl
@[simp] theorem waitFor_engq (w : Wait) (s : State) : (waitFor w s).engq = s.engq := rfl
@[simp] theorem waitFor_sreads (w : Wait) (s : State) : (waitFor w s).sreads = s.sreads := rfl
@[simp] theorem waitFor_gateq (w : Wait) (s : State) : (waitFor w s).gateq = s.gateq := rfl
@[simp] theorem waitFor_deliveries (w : Wait) (s : State) : (waitFor w s).deliveries = s.deliveries := rfl
@[simp] theorem waitFor_policies (w : Wait) (s : State) : (waitFor w s).policies = s.policies := rfl
@[simp] theorem waitFor_epoch (w : Wait) (s : State) : (waitFor w s).epoch = s.epoch := rfl
@[simp] theorem waitFor_recSeq (w : Wait) (s : State) : (waitFor w s).recSeq = s.recSeq := rfl
@[simp] theorem waitFor_qtable (w : Wait) (s : State) : (waitFor w s).qtable = s.qtable := rfl
@[simp] theorem waitFor_queues (w : Wait) (s : State) : (waitFor w s).queues = s.queues := rfl
@[simp] theorem waitFor_served (w : Wait) (s : State) : (waitFor w s).served = s.served := rfl
@[simp] theorem waitFor_tasks (w : Wait) (s : State) : (waitFor w s).tasks = s.tasks := rfl
@[simp] theorem waitFor_taskSeq (w : Wait) (s : State) : (waitFor w s).taskSeq = s.taskSeq := rfl
@[simp] theorem waitFor_chosen (w : Wait) (s : State) : (waitFor w s).chosen = s.chosen := rfl
@[simp] theorem waitFor_mqBase (w : Wait) (s : State) : (waitFor w s).mqBase = s.mqBase := rfl
@[simp] theorem waitFor_mqSize (w : Wait) (s : State) : (waitFor w s).mqSize = s.mqSize := rfl
@[simp] theorem waitFor_mqTail (w : Wait) (s : State) : (waitFor w s).mqTail = s.mqTail := rfl
@[simp] theorem waitFor_mqHead (w : Wait) (s : State) : (waitFor w s).mqHead = s.mqHead := rfl
@[simp] theorem waitFor_elog (w : Wait) (s : State) : (waitFor w s).elog = s.elog := rfl
@[simp] theorem waitFor_elogSeq (w : Wait) (s : State) : (waitFor w s).elogSeq = s.elogSeq := rfl
@[simp] theorem waitFor_boot (w : Wait) (s : State) : (waitFor w s).boot = s.boot := rfl
@[simp] theorem waitFor_fw (w : Wait) (s : State) : (waitFor w s).fw = s.fw := rfl
@[simp] theorem waitFor_staged (w : Wait) (s : State) : (waitFor w s).staged = s.staged := rfl
@[simp] theorem waitFor_activate (w : Wait) (s : State) : (waitFor w s).activate = s.activate := rfl
@[simp] theorem waitFor_fusedSvn (w : Wait) (s : State) : (waitFor w s).fusedSvn = s.fusedSvn := rfl
@[simp] theorem waitFor_power (w : Wait) (s : State) : (waitFor w s).power = s.power := rfl
@[simp] theorem waitFor_powerCmd (w : Wait) (s : State) : (waitFor w s).powerCmd = s.powerCmd := rfl
@[simp] theorem waitFor_forcedNeap (w : Wait) (s : State) : (waitFor w s).forcedNeap = s.forcedNeap := rfl
@[simp] theorem waitFor_limitAt (w : Wait) (s : State) : (waitFor w s).limitAt = s.limitAt := rfl
@[simp] theorem waitFor_stopped (w : Wait) (s : State) : (waitFor w s).stopped = s.stopped := rfl
@[simp] theorem waitFor_repairs (w : Wait) (s : State) : (waitFor w s).repairs = s.repairs := rfl
@[simp] theorem waitFor_routes (w : Wait) (s : State) : (waitFor w s).routes = s.routes := rfl
@[simp] theorem waitFor_savedFrames (w : Wait) (s : State) : (waitFor w s).savedFrames = s.savedFrames := rfl
@[simp] theorem waitFor_freeCtr (w : Wait) (s : State) : (waitFor w s).freeCtr = s.freeCtr := rfl
@[simp] theorem retire_clk (s : State) : (retire s).clk = s.clk := rfl
@[simp] theorem retire_pkg (s : State) : (retire s).pkg = s.pkg := rfl
@[simp] theorem retire_core (s : State) : (retire s).core = s.core := rfl
@[simp] theorem retire_harts (s : State) : (retire s).harts = s.harts := rfl
@[simp] theorem retire_cores (s : State) : (retire s).cores = s.cores := rfl
@[simp] theorem retire_grants (s : State) : (retire s).grants = s.grants := rfl
@[simp] theorem retire_vgrants (s : State) : (retire s).vgrants = s.vgrants := rfl
@[simp] theorem retire_pending (s : State) : (retire s).pending = s.pending := rfl
@[simp] theorem retire_mem (s : State) : (retire s).mem = s.mem := rfl
@[simp] theorem retire_prov (s : State) : (retire s).prov = s.prov := rfl
@[simp] theorem retire_sectors (s : State) : (retire s).sectors = s.sectors := rfl
@[simp] theorem retire_stamps (s : State) : (retire s).stamps = s.stamps := rfl
@[simp] theorem retire_remade (s : State) : (retire s).remade = s.remade := rfl
@[simp] theorem retire_poison (s : State) : (retire s).poison = s.poison := rfl
@[simp] theorem retire_retired (s : State) : (retire s).retired = s.retired := rfl
@[simp] theorem retire_rereads (s : State) : (retire s).rereads = s.rereads := rfl
@[simp] theorem retire_unscrubbed (s : State) : (retire s).unscrubbed = s.unscrubbed := rfl
@[simp] theorem retire_clearing (s : State) : (retire s).clearing = s.clearing := rfl
@[simp] theorem retire_tide (s : State) : (retire s).tide = s.tide := rfl
@[simp] theorem retire_slots (s : State) : (retire s).slots = s.slots := rfl
@[simp] theorem retire_parts (s : State) : (retire s).parts = s.parts := rfl
@[simp] theorem retire_unreachable_ (s : State) : (retire s).unreachable_ = s.unreachable_ := rfl
@[simp] theorem retire_zone (s : State) : (retire s).zone = s.zone := rfl
@[simp] theorem retire_pri (s : State) : (retire s).pri = s.pri := rfl
@[simp] theorem retire_ats (s : State) : (retire s).ats = s.ats := rfl
@[simp] theorem retire_sent (s : State) : (retire s).sent = s.sent := rfl
@[simp] theorem retire_recorded (s : State) : (retire s).recorded = s.recorded := rfl
@[simp] theorem retire_binds (s : State) : (retire s).binds = s.binds := rfl
@[simp] theorem retire_chans (s : State) : (retire s).chans = s.chans := rfl
@[simp] theorem retire_barriers (s : State) : (retire s).barriers = s.barriers := rfl
@[simp] theorem retire_jobSeq (s : State) : (retire s).jobSeq = s.jobSeq := rfl
@[simp] theorem retire_engq (s : State) : (retire s).engq = s.engq := rfl
@[simp] theorem retire_sreads (s : State) : (retire s).sreads = s.sreads := rfl
@[simp] theorem retire_gateq (s : State) : (retire s).gateq = s.gateq := rfl
@[simp] theorem retire_deliveries (s : State) : (retire s).deliveries = s.deliveries := rfl
@[simp] theorem retire_policies (s : State) : (retire s).policies = s.policies := rfl
@[simp] theorem retire_epoch (s : State) : (retire s).epoch = s.epoch := rfl
@[simp] theorem retire_recSeq (s : State) : (retire s).recSeq = s.recSeq := rfl
@[simp] theorem retire_qtable (s : State) : (retire s).qtable = s.qtable := rfl
@[simp] theorem retire_queues (s : State) : (retire s).queues = s.queues := rfl
@[simp] theorem retire_served (s : State) : (retire s).served = s.served := rfl
@[simp] theorem retire_tasks (s : State) : (retire s).tasks = s.tasks := rfl
@[simp] theorem retire_taskSeq (s : State) : (retire s).taskSeq = s.taskSeq := rfl
@[simp] theorem retire_chosen (s : State) : (retire s).chosen = s.chosen := rfl
@[simp] theorem retire_mqBase (s : State) : (retire s).mqBase = s.mqBase := rfl
@[simp] theorem retire_mqSize (s : State) : (retire s).mqSize = s.mqSize := rfl
@[simp] theorem retire_mqTail (s : State) : (retire s).mqTail = s.mqTail := rfl
@[simp] theorem retire_mqHead (s : State) : (retire s).mqHead = s.mqHead := rfl
@[simp] theorem retire_elog (s : State) : (retire s).elog = s.elog := rfl
@[simp] theorem retire_elogSeq (s : State) : (retire s).elogSeq = s.elogSeq := rfl
@[simp] theorem retire_boot (s : State) : (retire s).boot = s.boot := rfl
@[simp] theorem retire_fw (s : State) : (retire s).fw = s.fw := rfl
@[simp] theorem retire_staged (s : State) : (retire s).staged = s.staged := rfl
@[simp] theorem retire_activate (s : State) : (retire s).activate = s.activate := rfl
@[simp] theorem retire_fusedSvn (s : State) : (retire s).fusedSvn = s.fusedSvn := rfl
@[simp] theorem retire_power (s : State) : (retire s).power = s.power := rfl
@[simp] theorem retire_powerCmd (s : State) : (retire s).powerCmd = s.powerCmd := rfl
@[simp] theorem retire_forcedNeap (s : State) : (retire s).forcedNeap = s.forcedNeap := rfl
@[simp] theorem retire_limitAt (s : State) : (retire s).limitAt = s.limitAt := rfl
@[simp] theorem retire_stopped (s : State) : (retire s).stopped = s.stopped := rfl
@[simp] theorem retire_repairs (s : State) : (retire s).repairs = s.repairs := rfl
@[simp] theorem retire_routes (s : State) : (retire s).routes = s.routes := rfl
@[simp] theorem retire_savedFrames (s : State) : (retire s).savedFrames = s.savedFrames := rfl
@[simp] theorem retire_freeCtr (s : State) : (retire s).freeCtr = s.freeCtr := rfl
@[simp] theorem State.writeDst_clk (s : State) (vd : BitVec 5) (t : Tag) (img : Nat) (p : PvSet) : (s.writeDst vd t img p).clk = s.clk := rfl
@[simp] theorem State.writeDst_pkg (s : State) (vd : BitVec 5) (t : Tag) (img : Nat) (p : PvSet) : (s.writeDst vd t img p).pkg = s.pkg := rfl
@[simp] theorem State.writeDst_core (s : State) (vd : BitVec 5) (t : Tag) (img : Nat) (p : PvSet) : (s.writeDst vd t img p).core = s.core := rfl
@[simp] theorem State.writeDst_harts (s : State) (vd : BitVec 5) (t : Tag) (img : Nat) (p : PvSet) : (s.writeDst vd t img p).harts = s.harts := rfl
@[simp] theorem State.writeDst_cores (s : State) (vd : BitVec 5) (t : Tag) (img : Nat) (p : PvSet) : (s.writeDst vd t img p).cores = s.cores := rfl
@[simp] theorem State.writeDst_grants (s : State) (vd : BitVec 5) (t : Tag) (img : Nat) (p : PvSet) : (s.writeDst vd t img p).grants = s.grants := rfl
@[simp] theorem State.writeDst_vgrants (s : State) (vd : BitVec 5) (t : Tag) (img : Nat) (p : PvSet) : (s.writeDst vd t img p).vgrants = s.vgrants := rfl
@[simp] theorem State.writeDst_pending (s : State) (vd : BitVec 5) (t : Tag) (img : Nat) (p : PvSet) : (s.writeDst vd t img p).pending = s.pending := rfl
@[simp] theorem State.writeDst_mem (s : State) (vd : BitVec 5) (t : Tag) (img : Nat) (p : PvSet) : (s.writeDst vd t img p).mem = s.mem := rfl
@[simp] theorem State.writeDst_prov (s : State) (vd : BitVec 5) (t : Tag) (img : Nat) (p : PvSet) : (s.writeDst vd t img p).prov = s.prov := rfl
@[simp] theorem State.writeDst_sectors (s : State) (vd : BitVec 5) (t : Tag) (img : Nat) (p : PvSet) : (s.writeDst vd t img p).sectors = s.sectors := rfl
@[simp] theorem State.writeDst_stamps (s : State) (vd : BitVec 5) (t : Tag) (img : Nat) (p : PvSet) : (s.writeDst vd t img p).stamps = s.stamps := rfl
@[simp] theorem State.writeDst_remade (s : State) (vd : BitVec 5) (t : Tag) (img : Nat) (p : PvSet) : (s.writeDst vd t img p).remade = s.remade := rfl
@[simp] theorem State.writeDst_poison (s : State) (vd : BitVec 5) (t : Tag) (img : Nat) (p : PvSet) : (s.writeDst vd t img p).poison = s.poison := rfl
@[simp] theorem State.writeDst_retired (s : State) (vd : BitVec 5) (t : Tag) (img : Nat) (p : PvSet) : (s.writeDst vd t img p).retired = s.retired := rfl
@[simp] theorem State.writeDst_rereads (s : State) (vd : BitVec 5) (t : Tag) (img : Nat) (p : PvSet) : (s.writeDst vd t img p).rereads = s.rereads := rfl
@[simp] theorem State.writeDst_unscrubbed (s : State) (vd : BitVec 5) (t : Tag) (img : Nat) (p : PvSet) : (s.writeDst vd t img p).unscrubbed = s.unscrubbed := rfl
@[simp] theorem State.writeDst_clearing (s : State) (vd : BitVec 5) (t : Tag) (img : Nat) (p : PvSet) : (s.writeDst vd t img p).clearing = s.clearing := rfl
@[simp] theorem State.writeDst_tide (s : State) (vd : BitVec 5) (t : Tag) (img : Nat) (p : PvSet) : (s.writeDst vd t img p).tide = s.tide := rfl
@[simp] theorem State.writeDst_slots (s : State) (vd : BitVec 5) (t : Tag) (img : Nat) (p : PvSet) : (s.writeDst vd t img p).slots = s.slots := rfl
@[simp] theorem State.writeDst_parts (s : State) (vd : BitVec 5) (t : Tag) (img : Nat) (p : PvSet) : (s.writeDst vd t img p).parts = s.parts := rfl
@[simp] theorem State.writeDst_unreachable_ (s : State) (vd : BitVec 5) (t : Tag) (img : Nat) (p : PvSet) : (s.writeDst vd t img p).unreachable_ = s.unreachable_ := rfl
@[simp] theorem State.writeDst_zone (s : State) (vd : BitVec 5) (t : Tag) (img : Nat) (p : PvSet) : (s.writeDst vd t img p).zone = s.zone := rfl
@[simp] theorem State.writeDst_pri (s : State) (vd : BitVec 5) (t : Tag) (img : Nat) (p : PvSet) : (s.writeDst vd t img p).pri = s.pri := rfl
@[simp] theorem State.writeDst_ats (s : State) (vd : BitVec 5) (t : Tag) (img : Nat) (p : PvSet) : (s.writeDst vd t img p).ats = s.ats := rfl
@[simp] theorem State.writeDst_sent (s : State) (vd : BitVec 5) (t : Tag) (img : Nat) (p : PvSet) : (s.writeDst vd t img p).sent = s.sent := rfl
@[simp] theorem State.writeDst_recorded (s : State) (vd : BitVec 5) (t : Tag) (img : Nat) (p : PvSet) : (s.writeDst vd t img p).recorded = s.recorded := rfl
@[simp] theorem State.writeDst_binds (s : State) (vd : BitVec 5) (t : Tag) (img : Nat) (p : PvSet) : (s.writeDst vd t img p).binds = s.binds := rfl
@[simp] theorem State.writeDst_chans (s : State) (vd : BitVec 5) (t : Tag) (img : Nat) (p : PvSet) : (s.writeDst vd t img p).chans = s.chans := rfl
@[simp] theorem State.writeDst_barriers (s : State) (vd : BitVec 5) (t : Tag) (img : Nat) (p : PvSet) : (s.writeDst vd t img p).barriers = s.barriers := rfl
@[simp] theorem State.writeDst_jobSeq (s : State) (vd : BitVec 5) (t : Tag) (img : Nat) (p : PvSet) : (s.writeDst vd t img p).jobSeq = s.jobSeq := rfl
@[simp] theorem State.writeDst_engq (s : State) (vd : BitVec 5) (t : Tag) (img : Nat) (p : PvSet) : (s.writeDst vd t img p).engq = s.engq := rfl
@[simp] theorem State.writeDst_sreads (s : State) (vd : BitVec 5) (t : Tag) (img : Nat) (p : PvSet) : (s.writeDst vd t img p).sreads = s.sreads := rfl
@[simp] theorem State.writeDst_gateq (s : State) (vd : BitVec 5) (t : Tag) (img : Nat) (p : PvSet) : (s.writeDst vd t img p).gateq = s.gateq := rfl
@[simp] theorem State.writeDst_deliveries (s : State) (vd : BitVec 5) (t : Tag) (img : Nat) (p : PvSet) : (s.writeDst vd t img p).deliveries = s.deliveries := rfl
@[simp] theorem State.writeDst_policies (s : State) (vd : BitVec 5) (t : Tag) (img : Nat) (p : PvSet) : (s.writeDst vd t img p).policies = s.policies := rfl
@[simp] theorem State.writeDst_epoch (s : State) (vd : BitVec 5) (t : Tag) (img : Nat) (p : PvSet) : (s.writeDst vd t img p).epoch = s.epoch := rfl
@[simp] theorem State.writeDst_recSeq (s : State) (vd : BitVec 5) (t : Tag) (img : Nat) (p : PvSet) : (s.writeDst vd t img p).recSeq = s.recSeq := rfl
@[simp] theorem State.writeDst_qtable (s : State) (vd : BitVec 5) (t : Tag) (img : Nat) (p : PvSet) : (s.writeDst vd t img p).qtable = s.qtable := rfl
@[simp] theorem State.writeDst_queues (s : State) (vd : BitVec 5) (t : Tag) (img : Nat) (p : PvSet) : (s.writeDst vd t img p).queues = s.queues := rfl
@[simp] theorem State.writeDst_served (s : State) (vd : BitVec 5) (t : Tag) (img : Nat) (p : PvSet) : (s.writeDst vd t img p).served = s.served := rfl
@[simp] theorem State.writeDst_tasks (s : State) (vd : BitVec 5) (t : Tag) (img : Nat) (p : PvSet) : (s.writeDst vd t img p).tasks = s.tasks := rfl
@[simp] theorem State.writeDst_taskSeq (s : State) (vd : BitVec 5) (t : Tag) (img : Nat) (p : PvSet) : (s.writeDst vd t img p).taskSeq = s.taskSeq := rfl
@[simp] theorem State.writeDst_chosen (s : State) (vd : BitVec 5) (t : Tag) (img : Nat) (p : PvSet) : (s.writeDst vd t img p).chosen = s.chosen := rfl
@[simp] theorem State.writeDst_mqBase (s : State) (vd : BitVec 5) (t : Tag) (img : Nat) (p : PvSet) : (s.writeDst vd t img p).mqBase = s.mqBase := rfl
@[simp] theorem State.writeDst_mqSize (s : State) (vd : BitVec 5) (t : Tag) (img : Nat) (p : PvSet) : (s.writeDst vd t img p).mqSize = s.mqSize := rfl
@[simp] theorem State.writeDst_mqTail (s : State) (vd : BitVec 5) (t : Tag) (img : Nat) (p : PvSet) : (s.writeDst vd t img p).mqTail = s.mqTail := rfl
@[simp] theorem State.writeDst_mqHead (s : State) (vd : BitVec 5) (t : Tag) (img : Nat) (p : PvSet) : (s.writeDst vd t img p).mqHead = s.mqHead := rfl
@[simp] theorem State.writeDst_elog (s : State) (vd : BitVec 5) (t : Tag) (img : Nat) (p : PvSet) : (s.writeDst vd t img p).elog = s.elog := rfl
@[simp] theorem State.writeDst_elogSeq (s : State) (vd : BitVec 5) (t : Tag) (img : Nat) (p : PvSet) : (s.writeDst vd t img p).elogSeq = s.elogSeq := rfl
@[simp] theorem State.writeDst_boot (s : State) (vd : BitVec 5) (t : Tag) (img : Nat) (p : PvSet) : (s.writeDst vd t img p).boot = s.boot := rfl
@[simp] theorem State.writeDst_fw (s : State) (vd : BitVec 5) (t : Tag) (img : Nat) (p : PvSet) : (s.writeDst vd t img p).fw = s.fw := rfl
@[simp] theorem State.writeDst_staged (s : State) (vd : BitVec 5) (t : Tag) (img : Nat) (p : PvSet) : (s.writeDst vd t img p).staged = s.staged := rfl
@[simp] theorem State.writeDst_activate (s : State) (vd : BitVec 5) (t : Tag) (img : Nat) (p : PvSet) : (s.writeDst vd t img p).activate = s.activate := rfl
@[simp] theorem State.writeDst_fusedSvn (s : State) (vd : BitVec 5) (t : Tag) (img : Nat) (p : PvSet) : (s.writeDst vd t img p).fusedSvn = s.fusedSvn := rfl
@[simp] theorem State.writeDst_power (s : State) (vd : BitVec 5) (t : Tag) (img : Nat) (p : PvSet) : (s.writeDst vd t img p).power = s.power := rfl
@[simp] theorem State.writeDst_powerCmd (s : State) (vd : BitVec 5) (t : Tag) (img : Nat) (p : PvSet) : (s.writeDst vd t img p).powerCmd = s.powerCmd := rfl
@[simp] theorem State.writeDst_forcedNeap (s : State) (vd : BitVec 5) (t : Tag) (img : Nat) (p : PvSet) : (s.writeDst vd t img p).forcedNeap = s.forcedNeap := rfl
@[simp] theorem State.writeDst_limitAt (s : State) (vd : BitVec 5) (t : Tag) (img : Nat) (p : PvSet) : (s.writeDst vd t img p).limitAt = s.limitAt := rfl
@[simp] theorem State.writeDst_stopped (s : State) (vd : BitVec 5) (t : Tag) (img : Nat) (p : PvSet) : (s.writeDst vd t img p).stopped = s.stopped := rfl
@[simp] theorem State.writeDst_repairs (s : State) (vd : BitVec 5) (t : Tag) (img : Nat) (p : PvSet) : (s.writeDst vd t img p).repairs = s.repairs := rfl
@[simp] theorem State.writeDst_routes (s : State) (vd : BitVec 5) (t : Tag) (img : Nat) (p : PvSet) : (s.writeDst vd t img p).routes = s.routes := rfl
@[simp] theorem State.writeDst_savedFrames (s : State) (vd : BitVec 5) (t : Tag) (img : Nat) (p : PvSet) : (s.writeDst vd t img p).savedFrames = s.savedFrames := rfl
@[simp] theorem State.writeDst_freeCtr (s : State) (vd : BitVec 5) (t : Tag) (img : Nat) (p : PvSet) : (s.writeDst vd t img p).freeCtr = s.freeCtr := rfl
@[simp] theorem State.writeMask_clk (s : State) (md bits : Nat) (p : PvSet) : (s.writeMask md bits p).clk = s.clk := rfl
@[simp] theorem State.writeMask_pkg (s : State) (md bits : Nat) (p : PvSet) : (s.writeMask md bits p).pkg = s.pkg := rfl
@[simp] theorem State.writeMask_core (s : State) (md bits : Nat) (p : PvSet) : (s.writeMask md bits p).core = s.core := rfl
@[simp] theorem State.writeMask_harts (s : State) (md bits : Nat) (p : PvSet) : (s.writeMask md bits p).harts = s.harts := rfl
@[simp] theorem State.writeMask_cores (s : State) (md bits : Nat) (p : PvSet) : (s.writeMask md bits p).cores = s.cores := rfl
@[simp] theorem State.writeMask_grants (s : State) (md bits : Nat) (p : PvSet) : (s.writeMask md bits p).grants = s.grants := rfl
@[simp] theorem State.writeMask_vgrants (s : State) (md bits : Nat) (p : PvSet) : (s.writeMask md bits p).vgrants = s.vgrants := rfl
@[simp] theorem State.writeMask_pending (s : State) (md bits : Nat) (p : PvSet) : (s.writeMask md bits p).pending = s.pending := rfl
@[simp] theorem State.writeMask_mem (s : State) (md bits : Nat) (p : PvSet) : (s.writeMask md bits p).mem = s.mem := rfl
@[simp] theorem State.writeMask_prov (s : State) (md bits : Nat) (p : PvSet) : (s.writeMask md bits p).prov = s.prov := rfl
@[simp] theorem State.writeMask_sectors (s : State) (md bits : Nat) (p : PvSet) : (s.writeMask md bits p).sectors = s.sectors := rfl
@[simp] theorem State.writeMask_stamps (s : State) (md bits : Nat) (p : PvSet) : (s.writeMask md bits p).stamps = s.stamps := rfl
@[simp] theorem State.writeMask_remade (s : State) (md bits : Nat) (p : PvSet) : (s.writeMask md bits p).remade = s.remade := rfl
@[simp] theorem State.writeMask_poison (s : State) (md bits : Nat) (p : PvSet) : (s.writeMask md bits p).poison = s.poison := rfl
@[simp] theorem State.writeMask_retired (s : State) (md bits : Nat) (p : PvSet) : (s.writeMask md bits p).retired = s.retired := rfl
@[simp] theorem State.writeMask_rereads (s : State) (md bits : Nat) (p : PvSet) : (s.writeMask md bits p).rereads = s.rereads := rfl
@[simp] theorem State.writeMask_unscrubbed (s : State) (md bits : Nat) (p : PvSet) : (s.writeMask md bits p).unscrubbed = s.unscrubbed := rfl
@[simp] theorem State.writeMask_clearing (s : State) (md bits : Nat) (p : PvSet) : (s.writeMask md bits p).clearing = s.clearing := rfl
@[simp] theorem State.writeMask_tide (s : State) (md bits : Nat) (p : PvSet) : (s.writeMask md bits p).tide = s.tide := rfl
@[simp] theorem State.writeMask_slots (s : State) (md bits : Nat) (p : PvSet) : (s.writeMask md bits p).slots = s.slots := rfl
@[simp] theorem State.writeMask_parts (s : State) (md bits : Nat) (p : PvSet) : (s.writeMask md bits p).parts = s.parts := rfl
@[simp] theorem State.writeMask_unreachable_ (s : State) (md bits : Nat) (p : PvSet) : (s.writeMask md bits p).unreachable_ = s.unreachable_ := rfl
@[simp] theorem State.writeMask_zone (s : State) (md bits : Nat) (p : PvSet) : (s.writeMask md bits p).zone = s.zone := rfl
@[simp] theorem State.writeMask_pri (s : State) (md bits : Nat) (p : PvSet) : (s.writeMask md bits p).pri = s.pri := rfl
@[simp] theorem State.writeMask_ats (s : State) (md bits : Nat) (p : PvSet) : (s.writeMask md bits p).ats = s.ats := rfl
@[simp] theorem State.writeMask_sent (s : State) (md bits : Nat) (p : PvSet) : (s.writeMask md bits p).sent = s.sent := rfl
@[simp] theorem State.writeMask_recorded (s : State) (md bits : Nat) (p : PvSet) : (s.writeMask md bits p).recorded = s.recorded := rfl
@[simp] theorem State.writeMask_binds (s : State) (md bits : Nat) (p : PvSet) : (s.writeMask md bits p).binds = s.binds := rfl
@[simp] theorem State.writeMask_chans (s : State) (md bits : Nat) (p : PvSet) : (s.writeMask md bits p).chans = s.chans := rfl
@[simp] theorem State.writeMask_barriers (s : State) (md bits : Nat) (p : PvSet) : (s.writeMask md bits p).barriers = s.barriers := rfl
@[simp] theorem State.writeMask_jobSeq (s : State) (md bits : Nat) (p : PvSet) : (s.writeMask md bits p).jobSeq = s.jobSeq := rfl
@[simp] theorem State.writeMask_engq (s : State) (md bits : Nat) (p : PvSet) : (s.writeMask md bits p).engq = s.engq := rfl
@[simp] theorem State.writeMask_sreads (s : State) (md bits : Nat) (p : PvSet) : (s.writeMask md bits p).sreads = s.sreads := rfl
@[simp] theorem State.writeMask_gateq (s : State) (md bits : Nat) (p : PvSet) : (s.writeMask md bits p).gateq = s.gateq := rfl
@[simp] theorem State.writeMask_deliveries (s : State) (md bits : Nat) (p : PvSet) : (s.writeMask md bits p).deliveries = s.deliveries := rfl
@[simp] theorem State.writeMask_policies (s : State) (md bits : Nat) (p : PvSet) : (s.writeMask md bits p).policies = s.policies := rfl
@[simp] theorem State.writeMask_epoch (s : State) (md bits : Nat) (p : PvSet) : (s.writeMask md bits p).epoch = s.epoch := rfl
@[simp] theorem State.writeMask_recSeq (s : State) (md bits : Nat) (p : PvSet) : (s.writeMask md bits p).recSeq = s.recSeq := rfl
@[simp] theorem State.writeMask_qtable (s : State) (md bits : Nat) (p : PvSet) : (s.writeMask md bits p).qtable = s.qtable := rfl
@[simp] theorem State.writeMask_queues (s : State) (md bits : Nat) (p : PvSet) : (s.writeMask md bits p).queues = s.queues := rfl
@[simp] theorem State.writeMask_served (s : State) (md bits : Nat) (p : PvSet) : (s.writeMask md bits p).served = s.served := rfl
@[simp] theorem State.writeMask_tasks (s : State) (md bits : Nat) (p : PvSet) : (s.writeMask md bits p).tasks = s.tasks := rfl
@[simp] theorem State.writeMask_taskSeq (s : State) (md bits : Nat) (p : PvSet) : (s.writeMask md bits p).taskSeq = s.taskSeq := rfl
@[simp] theorem State.writeMask_chosen (s : State) (md bits : Nat) (p : PvSet) : (s.writeMask md bits p).chosen = s.chosen := rfl
@[simp] theorem State.writeMask_mqBase (s : State) (md bits : Nat) (p : PvSet) : (s.writeMask md bits p).mqBase = s.mqBase := rfl
@[simp] theorem State.writeMask_mqSize (s : State) (md bits : Nat) (p : PvSet) : (s.writeMask md bits p).mqSize = s.mqSize := rfl
@[simp] theorem State.writeMask_mqTail (s : State) (md bits : Nat) (p : PvSet) : (s.writeMask md bits p).mqTail = s.mqTail := rfl
@[simp] theorem State.writeMask_mqHead (s : State) (md bits : Nat) (p : PvSet) : (s.writeMask md bits p).mqHead = s.mqHead := rfl
@[simp] theorem State.writeMask_elog (s : State) (md bits : Nat) (p : PvSet) : (s.writeMask md bits p).elog = s.elog := rfl
@[simp] theorem State.writeMask_elogSeq (s : State) (md bits : Nat) (p : PvSet) : (s.writeMask md bits p).elogSeq = s.elogSeq := rfl
@[simp] theorem State.writeMask_boot (s : State) (md bits : Nat) (p : PvSet) : (s.writeMask md bits p).boot = s.boot := rfl
@[simp] theorem State.writeMask_fw (s : State) (md bits : Nat) (p : PvSet) : (s.writeMask md bits p).fw = s.fw := rfl
@[simp] theorem State.writeMask_staged (s : State) (md bits : Nat) (p : PvSet) : (s.writeMask md bits p).staged = s.staged := rfl
@[simp] theorem State.writeMask_activate (s : State) (md bits : Nat) (p : PvSet) : (s.writeMask md bits p).activate = s.activate := rfl
@[simp] theorem State.writeMask_fusedSvn (s : State) (md bits : Nat) (p : PvSet) : (s.writeMask md bits p).fusedSvn = s.fusedSvn := rfl
@[simp] theorem State.writeMask_power (s : State) (md bits : Nat) (p : PvSet) : (s.writeMask md bits p).power = s.power := rfl
@[simp] theorem State.writeMask_powerCmd (s : State) (md bits : Nat) (p : PvSet) : (s.writeMask md bits p).powerCmd = s.powerCmd := rfl
@[simp] theorem State.writeMask_forcedNeap (s : State) (md bits : Nat) (p : PvSet) : (s.writeMask md bits p).forcedNeap = s.forcedNeap := rfl
@[simp] theorem State.writeMask_limitAt (s : State) (md bits : Nat) (p : PvSet) : (s.writeMask md bits p).limitAt = s.limitAt := rfl
@[simp] theorem State.writeMask_stopped (s : State) (md bits : Nat) (p : PvSet) : (s.writeMask md bits p).stopped = s.stopped := rfl
@[simp] theorem State.writeMask_repairs (s : State) (md bits : Nat) (p : PvSet) : (s.writeMask md bits p).repairs = s.repairs := rfl
@[simp] theorem State.writeMask_routes (s : State) (md bits : Nat) (p : PvSet) : (s.writeMask md bits p).routes = s.routes := rfl
@[simp] theorem State.writeMask_savedFrames (s : State) (md bits : Nat) (p : PvSet) : (s.writeMask md bits p).savedFrames = s.savedFrames := rfl
@[simp] theorem State.writeMask_freeCtr (s : State) (md bits : Nat) (p : PvSet) : (s.writeMask md bits p).freeCtr = s.freeCtr := rfl
@[simp] theorem State.fpEnd_clk (s : State) (t : FpSt) (p : PvSet) : (s.fpEnd t p).clk = s.clk := rfl
@[simp] theorem State.fpEnd_pkg (s : State) (t : FpSt) (p : PvSet) : (s.fpEnd t p).pkg = s.pkg := rfl
@[simp] theorem State.fpEnd_core (s : State) (t : FpSt) (p : PvSet) : (s.fpEnd t p).core = s.core := rfl
@[simp] theorem State.fpEnd_harts (s : State) (t : FpSt) (p : PvSet) : (s.fpEnd t p).harts = s.harts := rfl
@[simp] theorem State.fpEnd_cores (s : State) (t : FpSt) (p : PvSet) : (s.fpEnd t p).cores = s.cores := rfl
@[simp] theorem State.fpEnd_grants (s : State) (t : FpSt) (p : PvSet) : (s.fpEnd t p).grants = s.grants := rfl
@[simp] theorem State.fpEnd_vgrants (s : State) (t : FpSt) (p : PvSet) : (s.fpEnd t p).vgrants = s.vgrants := rfl
@[simp] theorem State.fpEnd_pending (s : State) (t : FpSt) (p : PvSet) : (s.fpEnd t p).pending = s.pending := rfl
@[simp] theorem State.fpEnd_mem (s : State) (t : FpSt) (p : PvSet) : (s.fpEnd t p).mem = s.mem := rfl
@[simp] theorem State.fpEnd_prov (s : State) (t : FpSt) (p : PvSet) : (s.fpEnd t p).prov = s.prov := rfl
@[simp] theorem State.fpEnd_sectors (s : State) (t : FpSt) (p : PvSet) : (s.fpEnd t p).sectors = s.sectors := rfl
@[simp] theorem State.fpEnd_stamps (s : State) (t : FpSt) (p : PvSet) : (s.fpEnd t p).stamps = s.stamps := rfl
@[simp] theorem State.fpEnd_remade (s : State) (t : FpSt) (p : PvSet) : (s.fpEnd t p).remade = s.remade := rfl
@[simp] theorem State.fpEnd_poison (s : State) (t : FpSt) (p : PvSet) : (s.fpEnd t p).poison = s.poison := rfl
@[simp] theorem State.fpEnd_retired (s : State) (t : FpSt) (p : PvSet) : (s.fpEnd t p).retired = s.retired := rfl
@[simp] theorem State.fpEnd_rereads (s : State) (t : FpSt) (p : PvSet) : (s.fpEnd t p).rereads = s.rereads := rfl
@[simp] theorem State.fpEnd_unscrubbed (s : State) (t : FpSt) (p : PvSet) : (s.fpEnd t p).unscrubbed = s.unscrubbed := rfl
@[simp] theorem State.fpEnd_clearing (s : State) (t : FpSt) (p : PvSet) : (s.fpEnd t p).clearing = s.clearing := rfl
@[simp] theorem State.fpEnd_tide (s : State) (t : FpSt) (p : PvSet) : (s.fpEnd t p).tide = s.tide := rfl
@[simp] theorem State.fpEnd_slots (s : State) (t : FpSt) (p : PvSet) : (s.fpEnd t p).slots = s.slots := rfl
@[simp] theorem State.fpEnd_parts (s : State) (t : FpSt) (p : PvSet) : (s.fpEnd t p).parts = s.parts := rfl
@[simp] theorem State.fpEnd_unreachable_ (s : State) (t : FpSt) (p : PvSet) : (s.fpEnd t p).unreachable_ = s.unreachable_ := rfl
@[simp] theorem State.fpEnd_zone (s : State) (t : FpSt) (p : PvSet) : (s.fpEnd t p).zone = s.zone := rfl
@[simp] theorem State.fpEnd_pri (s : State) (t : FpSt) (p : PvSet) : (s.fpEnd t p).pri = s.pri := rfl
@[simp] theorem State.fpEnd_ats (s : State) (t : FpSt) (p : PvSet) : (s.fpEnd t p).ats = s.ats := rfl
@[simp] theorem State.fpEnd_sent (s : State) (t : FpSt) (p : PvSet) : (s.fpEnd t p).sent = s.sent := rfl
@[simp] theorem State.fpEnd_recorded (s : State) (t : FpSt) (p : PvSet) : (s.fpEnd t p).recorded = s.recorded := rfl
@[simp] theorem State.fpEnd_binds (s : State) (t : FpSt) (p : PvSet) : (s.fpEnd t p).binds = s.binds := rfl
@[simp] theorem State.fpEnd_chans (s : State) (t : FpSt) (p : PvSet) : (s.fpEnd t p).chans = s.chans := rfl
@[simp] theorem State.fpEnd_barriers (s : State) (t : FpSt) (p : PvSet) : (s.fpEnd t p).barriers = s.barriers := rfl
@[simp] theorem State.fpEnd_jobSeq (s : State) (t : FpSt) (p : PvSet) : (s.fpEnd t p).jobSeq = s.jobSeq := rfl
@[simp] theorem State.fpEnd_engq (s : State) (t : FpSt) (p : PvSet) : (s.fpEnd t p).engq = s.engq := rfl
@[simp] theorem State.fpEnd_sreads (s : State) (t : FpSt) (p : PvSet) : (s.fpEnd t p).sreads = s.sreads := rfl
@[simp] theorem State.fpEnd_gateq (s : State) (t : FpSt) (p : PvSet) : (s.fpEnd t p).gateq = s.gateq := rfl
@[simp] theorem State.fpEnd_deliveries (s : State) (t : FpSt) (p : PvSet) : (s.fpEnd t p).deliveries = s.deliveries := rfl
@[simp] theorem State.fpEnd_policies (s : State) (t : FpSt) (p : PvSet) : (s.fpEnd t p).policies = s.policies := rfl
@[simp] theorem State.fpEnd_epoch (s : State) (t : FpSt) (p : PvSet) : (s.fpEnd t p).epoch = s.epoch := rfl
@[simp] theorem State.fpEnd_recSeq (s : State) (t : FpSt) (p : PvSet) : (s.fpEnd t p).recSeq = s.recSeq := rfl
@[simp] theorem State.fpEnd_qtable (s : State) (t : FpSt) (p : PvSet) : (s.fpEnd t p).qtable = s.qtable := rfl
@[simp] theorem State.fpEnd_queues (s : State) (t : FpSt) (p : PvSet) : (s.fpEnd t p).queues = s.queues := rfl
@[simp] theorem State.fpEnd_served (s : State) (t : FpSt) (p : PvSet) : (s.fpEnd t p).served = s.served := rfl
@[simp] theorem State.fpEnd_tasks (s : State) (t : FpSt) (p : PvSet) : (s.fpEnd t p).tasks = s.tasks := rfl
@[simp] theorem State.fpEnd_taskSeq (s : State) (t : FpSt) (p : PvSet) : (s.fpEnd t p).taskSeq = s.taskSeq := rfl
@[simp] theorem State.fpEnd_chosen (s : State) (t : FpSt) (p : PvSet) : (s.fpEnd t p).chosen = s.chosen := rfl
@[simp] theorem State.fpEnd_mqBase (s : State) (t : FpSt) (p : PvSet) : (s.fpEnd t p).mqBase = s.mqBase := rfl
@[simp] theorem State.fpEnd_mqSize (s : State) (t : FpSt) (p : PvSet) : (s.fpEnd t p).mqSize = s.mqSize := rfl
@[simp] theorem State.fpEnd_mqTail (s : State) (t : FpSt) (p : PvSet) : (s.fpEnd t p).mqTail = s.mqTail := rfl
@[simp] theorem State.fpEnd_mqHead (s : State) (t : FpSt) (p : PvSet) : (s.fpEnd t p).mqHead = s.mqHead := rfl
@[simp] theorem State.fpEnd_elog (s : State) (t : FpSt) (p : PvSet) : (s.fpEnd t p).elog = s.elog := rfl
@[simp] theorem State.fpEnd_elogSeq (s : State) (t : FpSt) (p : PvSet) : (s.fpEnd t p).elogSeq = s.elogSeq := rfl
@[simp] theorem State.fpEnd_boot (s : State) (t : FpSt) (p : PvSet) : (s.fpEnd t p).boot = s.boot := rfl
@[simp] theorem State.fpEnd_fw (s : State) (t : FpSt) (p : PvSet) : (s.fpEnd t p).fw = s.fw := rfl
@[simp] theorem State.fpEnd_staged (s : State) (t : FpSt) (p : PvSet) : (s.fpEnd t p).staged = s.staged := rfl
@[simp] theorem State.fpEnd_activate (s : State) (t : FpSt) (p : PvSet) : (s.fpEnd t p).activate = s.activate := rfl
@[simp] theorem State.fpEnd_fusedSvn (s : State) (t : FpSt) (p : PvSet) : (s.fpEnd t p).fusedSvn = s.fusedSvn := rfl
@[simp] theorem State.fpEnd_power (s : State) (t : FpSt) (p : PvSet) : (s.fpEnd t p).power = s.power := rfl
@[simp] theorem State.fpEnd_powerCmd (s : State) (t : FpSt) (p : PvSet) : (s.fpEnd t p).powerCmd = s.powerCmd := rfl
@[simp] theorem State.fpEnd_forcedNeap (s : State) (t : FpSt) (p : PvSet) : (s.fpEnd t p).forcedNeap = s.forcedNeap := rfl
@[simp] theorem State.fpEnd_limitAt (s : State) (t : FpSt) (p : PvSet) : (s.fpEnd t p).limitAt = s.limitAt := rfl
@[simp] theorem State.fpEnd_stopped (s : State) (t : FpSt) (p : PvSet) : (s.fpEnd t p).stopped = s.stopped := rfl
@[simp] theorem State.fpEnd_repairs (s : State) (t : FpSt) (p : PvSet) : (s.fpEnd t p).repairs = s.repairs := rfl
@[simp] theorem State.fpEnd_routes (s : State) (t : FpSt) (p : PvSet) : (s.fpEnd t p).routes = s.routes := rfl
@[simp] theorem State.fpEnd_savedFrames (s : State) (t : FpSt) (p : PvSet) : (s.fpEnd t p).savedFrames = s.savedFrames := rfl
@[simp] theorem State.fpEnd_freeCtr (s : State) (t : FpSt) (p : PvSet) : (s.fpEnd t p).freeCtr = s.freeCtr := rfl
@[simp] theorem retire_hart_core (s : State) : (retire s).hart.core = s.hart.core := rfl
@[simp] theorem retire_hart_ix (s : State) : (retire s).hart.ix = s.hart.ix := rfl
@[simp] theorem retire_hart_status (s : State) : (retire s).hart.status = .running := rfl
@[simp] theorem retire_hart_s (s : State) : (retire s).hart.s = s.hart.s := rfl
@[simp] theorem retire_hart_sp (s : State) : (retire s).hart.sp = s.hart.sp := rfl
@[simp] theorem retire_hart_pc (s : State) : (retire s).hart.pc = if s.hart.cur.isSome then s.hart.pc else s.hart.pc + 8 := rfl
@[simp] theorem retire_hart_mode (s : State) : (retire s).hart.mode = s.hart.mode := rfl
@[simp] theorem retire_hart_ctx (s : State) : (retire s).hart.ctx = s.hart.ctx := rfl
@[simp] theorem retire_hart_csr (s : State) : (retire s).hart.csr = { s.hart.csr with instret := s.hart.csr.instret + 1 } := rfl
@[simp] theorem retire_hart_vec (s : State) : (retire s).hart.vec = s.hart.vec := rfl
@[simp] theorem retire_hart_laneLo (s : State) : (retire s).hart.laneLo = s.hart.laneLo := rfl
@[simp] theorem retire_hart_laneN (s : State) : (retire s).hart.laneN = s.hart.laneN := rfl
@[simp] theorem retire_hart_parent (s : State) : (retire s).hart.parent = s.hart.parent := rfl
@[simp] theorem retire_hart_children (s : State) : (retire s).hart.children = s.hart.children := rfl
@[simp] theorem retire_hart_event (s : State) : (retire s).hart.event = s.hart.event := rfl
@[simp] theorem retire_hart_watch (s : State) : (retire s).hart.watch = s.hart.watch := rfl
@[simp] theorem retire_hart_asideS (s : State) : (retire s).hart.asideS = s.hart.asideS := rfl
@[simp] theorem retire_hart_asideH (s : State) : (retire s).hart.asideH = s.hart.asideH := rfl
@[simp] theorem retire_hart_tags (s : State) : (retire s).hart.tags = s.hart.tags := rfl
@[simp] theorem retire_hart_queue (s : State) : (retire s).hart.queue = s.hart.queue := rfl
@[simp] theorem retire_hart_heldBy (s : State) : (retire s).hart.heldBy = s.hart.heldBy := rfl
@[simp] theorem retire_hart_resume (s : State) : (retire s).hart.resume = s.hart.resume := rfl
@[simp] theorem retire_hart_cur (s : State) : (retire s).hart.cur = s.hart.cur := rfl
@[simp] theorem retire_hart_mq (s : State) : (retire s).hart.mq = s.hart.mq := rfl
@[simp] theorem retire_hart_mstat (s : State) : (retire s).hart.mstat = s.hart.mstat := rfl
@[simp] theorem retire_hart_mset (s : State) : (retire s).hart.mset = s.hart.mset := rfl
@[simp] theorem retire_hart_deferred (s : State) : (retire s).hart.deferred = s.hart.deferred := rfl
@[simp] theorem retire_hart_remote (s : State) : (retire s).hart.remote = s.hart.remote := rfl
@[simp] theorem retire_hart_vreq (s : State) : (retire s).hart.vreq = s.hart.vreq := rfl
@[simp] theorem retire_hart_prog (s : State) : (retire s).hart.prog = s.hart.prog := rfl
@[simp] theorem retire_hart_send (s : State) : (retire s).hart.send = s.hart.send := rfl
@[simp] theorem retire_hart_arrival (s : State) : (retire s).hart.arrival = s.hart.arrival := rfl
@[simp] theorem retire_hart_asideBarS (s : State) : (retire s).hart.asideBarS = s.hart.asideBarS := rfl
@[simp] theorem retire_hart_asideBarH (s : State) : (retire s).hart.asideBarH = s.hart.asideBarH := rfl
@[simp] theorem retire_hart_fetchTaken (s : State) : (retire s).hart.fetchTaken = false := rfl
@[simp] theorem retire_hart_posted (s : State) : (retire s).hart.posted = s.hart.posted := rfl
@[simp] theorem retire_hart_heldSeq (s : State) : (retire s).hart.heldSeq = s.hart.heldSeq := rfl
@[simp] theorem retire_hart_spills (s : State) : (retire s).hart.spills = s.hart.spills := rfl
@[simp] theorem retire_hart_lastTrap (s : State) : (retire s).hart.lastTrap = s.hart.lastTrap := rfl
@[simp] theorem Hart.setS_core (h : Hart) (r : BitVec 5) (v : Word) (p : PvSet) : (h.setS r v p).core = h.core := by unfold Hart.setS; split <;> rfl
@[simp] theorem Hart.setS_ix (h : Hart) (r : BitVec 5) (v : Word) (p : PvSet) : (h.setS r v p).ix = h.ix := by unfold Hart.setS; split <;> rfl
@[simp] theorem Hart.setS_status (h : Hart) (r : BitVec 5) (v : Word) (p : PvSet) : (h.setS r v p).status = h.status := by unfold Hart.setS; split <;> rfl
@[simp] theorem Hart.setS_pc (h : Hart) (r : BitVec 5) (v : Word) (p : PvSet) : (h.setS r v p).pc = h.pc := by unfold Hart.setS; split <;> rfl
@[simp] theorem Hart.setS_mode (h : Hart) (r : BitVec 5) (v : Word) (p : PvSet) : (h.setS r v p).mode = h.mode := by unfold Hart.setS; split <;> rfl
@[simp] theorem Hart.setS_ctx (h : Hart) (r : BitVec 5) (v : Word) (p : PvSet) : (h.setS r v p).ctx = h.ctx := by unfold Hart.setS; split <;> rfl
@[simp] theorem Hart.setS_csr (h : Hart) (r : BitVec 5) (v : Word) (p : PvSet) : (h.setS r v p).csr = h.csr := by unfold Hart.setS; split <;> rfl
@[simp] theorem Hart.setS_vec (h : Hart) (r : BitVec 5) (v : Word) (p : PvSet) : (h.setS r v p).vec = h.vec := by unfold Hart.setS; split <;> rfl
@[simp] theorem Hart.setS_laneLo (h : Hart) (r : BitVec 5) (v : Word) (p : PvSet) : (h.setS r v p).laneLo = h.laneLo := by unfold Hart.setS; split <;> rfl
@[simp] theorem Hart.setS_laneN (h : Hart) (r : BitVec 5) (v : Word) (p : PvSet) : (h.setS r v p).laneN = h.laneN := by unfold Hart.setS; split <;> rfl
@[simp] theorem Hart.setS_parent (h : Hart) (r : BitVec 5) (v : Word) (p : PvSet) : (h.setS r v p).parent = h.parent := by unfold Hart.setS; split <;> rfl
@[simp] theorem Hart.setS_children (h : Hart) (r : BitVec 5) (v : Word) (p : PvSet) : (h.setS r v p).children = h.children := by unfold Hart.setS; split <;> rfl
@[simp] theorem Hart.setS_event (h : Hart) (r : BitVec 5) (v : Word) (p : PvSet) : (h.setS r v p).event = h.event := by unfold Hart.setS; split <;> rfl
@[simp] theorem Hart.setS_watch (h : Hart) (r : BitVec 5) (v : Word) (p : PvSet) : (h.setS r v p).watch = h.watch := by unfold Hart.setS; split <;> rfl
@[simp] theorem Hart.setS_asideS (h : Hart) (r : BitVec 5) (v : Word) (p : PvSet) : (h.setS r v p).asideS = h.asideS := by unfold Hart.setS; split <;> rfl
@[simp] theorem Hart.setS_asideH (h : Hart) (r : BitVec 5) (v : Word) (p : PvSet) : (h.setS r v p).asideH = h.asideH := by unfold Hart.setS; split <;> rfl
@[simp] theorem Hart.setS_tags (h : Hart) (r : BitVec 5) (v : Word) (p : PvSet) : (h.setS r v p).tags = h.tags := by unfold Hart.setS; split <;> rfl
@[simp] theorem Hart.setS_queue (h : Hart) (r : BitVec 5) (v : Word) (p : PvSet) : (h.setS r v p).queue = h.queue := by unfold Hart.setS; split <;> rfl
@[simp] theorem Hart.setS_heldBy (h : Hart) (r : BitVec 5) (v : Word) (p : PvSet) : (h.setS r v p).heldBy = h.heldBy := by unfold Hart.setS; split <;> rfl
@[simp] theorem Hart.setS_resume (h : Hart) (r : BitVec 5) (v : Word) (p : PvSet) : (h.setS r v p).resume = h.resume := by unfold Hart.setS; split <;> rfl
@[simp] theorem Hart.setS_cur (h : Hart) (r : BitVec 5) (v : Word) (p : PvSet) : (h.setS r v p).cur = h.cur := by unfold Hart.setS; split <;> rfl
@[simp] theorem Hart.setS_mq (h : Hart) (r : BitVec 5) (v : Word) (p : PvSet) : (h.setS r v p).mq = h.mq := by unfold Hart.setS; split <;> rfl
@[simp] theorem Hart.setS_mstat (h : Hart) (r : BitVec 5) (v : Word) (p : PvSet) : (h.setS r v p).mstat = h.mstat := by unfold Hart.setS; split <;> rfl
@[simp] theorem Hart.setS_mset (h : Hart) (r : BitVec 5) (v : Word) (p : PvSet) : (h.setS r v p).mset = h.mset := by unfold Hart.setS; split <;> rfl
@[simp] theorem Hart.setS_deferred (h : Hart) (r : BitVec 5) (v : Word) (p : PvSet) : (h.setS r v p).deferred = h.deferred := by unfold Hart.setS; split <;> rfl
@[simp] theorem Hart.setS_remote (h : Hart) (r : BitVec 5) (v : Word) (p : PvSet) : (h.setS r v p).remote = h.remote := by unfold Hart.setS; split <;> rfl
@[simp] theorem Hart.setS_vreq (h : Hart) (r : BitVec 5) (v : Word) (p : PvSet) : (h.setS r v p).vreq = h.vreq := by unfold Hart.setS; split <;> rfl
@[simp] theorem Hart.setS_prog (h : Hart) (r : BitVec 5) (v : Word) (p : PvSet) : (h.setS r v p).prog = h.prog := by unfold Hart.setS; split <;> rfl
@[simp] theorem Hart.setS_send (h : Hart) (r : BitVec 5) (v : Word) (p : PvSet) : (h.setS r v p).send = h.send := by unfold Hart.setS; split <;> rfl
@[simp] theorem Hart.setS_arrival (h : Hart) (r : BitVec 5) (v : Word) (p : PvSet) : (h.setS r v p).arrival = h.arrival := by unfold Hart.setS; split <;> rfl
@[simp] theorem Hart.setS_asideBarS (h : Hart) (r : BitVec 5) (v : Word) (p : PvSet) : (h.setS r v p).asideBarS = h.asideBarS := by unfold Hart.setS; split <;> rfl
@[simp] theorem Hart.setS_asideBarH (h : Hart) (r : BitVec 5) (v : Word) (p : PvSet) : (h.setS r v p).asideBarH = h.asideBarH := by unfold Hart.setS; split <;> rfl
@[simp] theorem Hart.setS_fetchTaken (h : Hart) (r : BitVec 5) (v : Word) (p : PvSet) : (h.setS r v p).fetchTaken = h.fetchTaken := by unfold Hart.setS; split <;> rfl
@[simp] theorem Hart.setS_posted (h : Hart) (r : BitVec 5) (v : Word) (p : PvSet) : (h.setS r v p).posted = h.posted := by unfold Hart.setS; split <;> rfl
@[simp] theorem Hart.setS_heldSeq (h : Hart) (r : BitVec 5) (v : Word) (p : PvSet) : (h.setS r v p).heldSeq = h.heldSeq := by unfold Hart.setS; split <;> rfl
@[simp] theorem Hart.setS_spills (h : Hart) (r : BitVec 5) (v : Word) (p : PvSet) : (h.setS r v p).spills = h.spills := by unfold Hart.setS; split <;> rfl
@[simp] theorem Hart.setS_lastTrap (h : Hart) (r : BitVec 5) (v : Word) (p : PvSet) : (h.setS r v p).lastTrap = h.lastTrap := by unfold Hart.setS; split <;> rfl
@[simp] theorem Hart.setCsrPv_core (h : Hart) (n : Nat) (p : PvSet) : (h.setCsrPv n p).core = h.core := rfl
@[simp] theorem Hart.setCsrPv_ix (h : Hart) (n : Nat) (p : PvSet) : (h.setCsrPv n p).ix = h.ix := rfl
@[simp] theorem Hart.setCsrPv_status (h : Hart) (n : Nat) (p : PvSet) : (h.setCsrPv n p).status = h.status := rfl
@[simp] theorem Hart.setCsrPv_s (h : Hart) (n : Nat) (p : PvSet) : (h.setCsrPv n p).s = h.s := rfl
@[simp] theorem Hart.setCsrPv_sp (h : Hart) (n : Nat) (p : PvSet) : (h.setCsrPv n p).sp = h.sp := rfl
@[simp] theorem Hart.setCsrPv_pc (h : Hart) (n : Nat) (p : PvSet) : (h.setCsrPv n p).pc = h.pc := rfl
@[simp] theorem Hart.setCsrPv_mode (h : Hart) (n : Nat) (p : PvSet) : (h.setCsrPv n p).mode = h.mode := rfl
@[simp] theorem Hart.setCsrPv_ctx (h : Hart) (n : Nat) (p : PvSet) : (h.setCsrPv n p).ctx = h.ctx := rfl
@[simp] theorem Hart.setCsrPv_vec (h : Hart) (n : Nat) (p : PvSet) : (h.setCsrPv n p).vec = h.vec := rfl
@[simp] theorem Hart.setCsrPv_laneLo (h : Hart) (n : Nat) (p : PvSet) : (h.setCsrPv n p).laneLo = h.laneLo := rfl
@[simp] theorem Hart.setCsrPv_laneN (h : Hart) (n : Nat) (p : PvSet) : (h.setCsrPv n p).laneN = h.laneN := rfl
@[simp] theorem Hart.setCsrPv_parent (h : Hart) (n : Nat) (p : PvSet) : (h.setCsrPv n p).parent = h.parent := rfl
@[simp] theorem Hart.setCsrPv_children (h : Hart) (n : Nat) (p : PvSet) : (h.setCsrPv n p).children = h.children := rfl
@[simp] theorem Hart.setCsrPv_event (h : Hart) (n : Nat) (p : PvSet) : (h.setCsrPv n p).event = h.event := rfl
@[simp] theorem Hart.setCsrPv_watch (h : Hart) (n : Nat) (p : PvSet) : (h.setCsrPv n p).watch = h.watch := rfl
@[simp] theorem Hart.setCsrPv_asideS (h : Hart) (n : Nat) (p : PvSet) : (h.setCsrPv n p).asideS = h.asideS := rfl
@[simp] theorem Hart.setCsrPv_asideH (h : Hart) (n : Nat) (p : PvSet) : (h.setCsrPv n p).asideH = h.asideH := rfl
@[simp] theorem Hart.setCsrPv_tags (h : Hart) (n : Nat) (p : PvSet) : (h.setCsrPv n p).tags = h.tags := rfl
@[simp] theorem Hart.setCsrPv_queue (h : Hart) (n : Nat) (p : PvSet) : (h.setCsrPv n p).queue = h.queue := rfl
@[simp] theorem Hart.setCsrPv_heldBy (h : Hart) (n : Nat) (p : PvSet) : (h.setCsrPv n p).heldBy = h.heldBy := rfl
@[simp] theorem Hart.setCsrPv_resume (h : Hart) (n : Nat) (p : PvSet) : (h.setCsrPv n p).resume = h.resume := rfl
@[simp] theorem Hart.setCsrPv_cur (h : Hart) (n : Nat) (p : PvSet) : (h.setCsrPv n p).cur = h.cur := rfl
@[simp] theorem Hart.setCsrPv_mq (h : Hart) (n : Nat) (p : PvSet) : (h.setCsrPv n p).mq = h.mq := rfl
@[simp] theorem Hart.setCsrPv_mstat (h : Hart) (n : Nat) (p : PvSet) : (h.setCsrPv n p).mstat = h.mstat := rfl
@[simp] theorem Hart.setCsrPv_mset (h : Hart) (n : Nat) (p : PvSet) : (h.setCsrPv n p).mset = h.mset := rfl
@[simp] theorem Hart.setCsrPv_deferred (h : Hart) (n : Nat) (p : PvSet) : (h.setCsrPv n p).deferred = h.deferred := rfl
@[simp] theorem Hart.setCsrPv_remote (h : Hart) (n : Nat) (p : PvSet) : (h.setCsrPv n p).remote = h.remote := rfl
@[simp] theorem Hart.setCsrPv_vreq (h : Hart) (n : Nat) (p : PvSet) : (h.setCsrPv n p).vreq = h.vreq := rfl
@[simp] theorem Hart.setCsrPv_prog (h : Hart) (n : Nat) (p : PvSet) : (h.setCsrPv n p).prog = h.prog := rfl
@[simp] theorem Hart.setCsrPv_send (h : Hart) (n : Nat) (p : PvSet) : (h.setCsrPv n p).send = h.send := rfl
@[simp] theorem Hart.setCsrPv_arrival (h : Hart) (n : Nat) (p : PvSet) : (h.setCsrPv n p).arrival = h.arrival := rfl
@[simp] theorem Hart.setCsrPv_asideBarS (h : Hart) (n : Nat) (p : PvSet) : (h.setCsrPv n p).asideBarS = h.asideBarS := rfl
@[simp] theorem Hart.setCsrPv_asideBarH (h : Hart) (n : Nat) (p : PvSet) : (h.setCsrPv n p).asideBarH = h.asideBarH := rfl
@[simp] theorem Hart.setCsrPv_fetchTaken (h : Hart) (n : Nat) (p : PvSet) : (h.setCsrPv n p).fetchTaken = h.fetchTaken := rfl
@[simp] theorem Hart.setCsrPv_posted (h : Hart) (n : Nat) (p : PvSet) : (h.setCsrPv n p).posted = h.posted := rfl
@[simp] theorem Hart.setCsrPv_heldSeq (h : Hart) (n : Nat) (p : PvSet) : (h.setCsrPv n p).heldSeq = h.heldSeq := rfl
@[simp] theorem Hart.setCsrPv_spills (h : Hart) (n : Nat) (p : PvSet) : (h.setCsrPv n p).spills = h.spills := rfl
@[simp] theorem Hart.setCsrPv_lastTrap (h : Hart) (n : Nat) (p : PvSet) : (h.setCsrPv n p).lastTrap = h.lastTrap := rfl
@[simp] theorem Hart.setCsrPv_csr_vl (h : Hart) (n : Nat) (p : PvSet) : (h.setCsrPv n p).csr.vl = h.csr.vl := rfl
@[simp] theorem Hart.setCsrPv_csr_sew (h : Hart) (n : Nat) (p : PvSet) : (h.setCsrPv n p).csr.sew = h.csr.sew := rfl
@[simp] theorem Hart.setCsrPv_csr_g (h : Hart) (n : Nat) (p : PvSet) : (h.setCsrPv n p).csr.g = h.csr.g := rfl
@[simp] theorem Hart.setCsrPv_csr_vlcut (h : Hart) (n : Nat) (p : PvSet) : (h.setCsrPv n p).csr.vlcut = h.csr.vlcut := rfl
@[simp] theorem Hart.setCsrPv_csr_fstat (h : Hart) (n : Nat) (p : PvSet) : (h.setCsrPv n p).csr.fstat = h.csr.fstat := rfl
@[simp] theorem Hart.setCsrPv_csr_frm (h : Hart) (n : Nat) (p : PvSet) : (h.setCsrPv n p).csr.frm = h.csr.frm := rfl
@[simp] theorem Hart.setCsrPv_csr_srstate (h : Hart) (n : Nat) (p : PvSet) : (h.setCsrPv n p).csr.srstate = h.csr.srstate := rfl
@[simp] theorem Hart.setCsrPv_csr_segmask (h : Hart) (n : Nat) (p : PvSet) : (h.setCsrPv n p).csr.segmask = h.csr.segmask := rfl
@[simp] theorem Hart.setCsrPv_csr_mshout (h : Hart) (n : Nat) (p : PvSet) : (h.setCsrPv n p).csr.mshout = h.csr.mshout := rfl
@[simp] theorem Hart.setCsrPv_csr_xcnt2 (h : Hart) (n : Nat) (p : PvSet) : (h.setCsrPv n p).csr.xcnt2 = h.csr.xcnt2 := rfl
@[simp] theorem Hart.setCsrPv_csr_wstruck (h : Hart) (n : Nat) (p : PvSet) : (h.setCsrPv n p).csr.wstruck = h.csr.wstruck := rfl
@[simp] theorem Hart.setCsrPv_csr_wfull (h : Hart) (n : Nat) (p : PvSet) : (h.setCsrPv n p).csr.wfull = h.csr.wfull := rfl
@[simp] theorem Hart.setCsrPv_csr_tplost (h : Hart) (n : Nat) (p : PvSet) : (h.setCsrPv n p).csr.tplost = h.csr.tplost := rfl
@[simp] theorem Hart.setCsrPv_csr_evaddr (h : Hart) (n : Nat) (p : PvSet) : (h.setCsrPv n p).csr.evaddr = h.csr.evaddr := rfl
@[simp] theorem Hart.setCsrPv_csr_evline (h : Hart) (n : Nat) (p : PvSet) : (h.setCsrPv n p).csr.evline = h.csr.evline := rfl
@[simp] theorem Hart.setCsrPv_csr_argaddr (h : Hart) (n : Nat) (p : PvSet) : (h.setCsrPv n p).csr.argaddr = h.csr.argaddr := rfl
@[simp] theorem Hart.setCsrPv_csr_evtimer (h : Hart) (n : Nat) (p : PvSet) : (h.setCsrPv n p).csr.evtimer = h.csr.evtimer := rfl
@[simp] theorem Hart.setCsrPv_csr_timerArmed (h : Hart) (n : Nat) (p : PvSet) : (h.setCsrPv n p).csr.timerArmed = h.csr.timerArmed := rfl
@[simp] theorem Hart.setCsrPv_csr_instret (h : Hart) (n : Nat) (p : PvSet) : (h.setCsrPv n p).csr.instret = h.csr.instret := rfl
@[simp] theorem Hart.setCsrPv_csr_tvec (h : Hart) (n : Nat) (p : PvSet) : (h.setCsrPv n p).csr.tvec = h.csr.tvec := rfl
@[simp] theorem Hart.setCsrPv_csr_sscratch (h : Hart) (n : Nat) (p : PvSet) : (h.setCsrPv n p).csr.sscratch = h.csr.sscratch := rfl
@[simp] theorem Hart.setCsrPv_csr_ptroot (h : Hart) (n : Nat) (p : PvSet) : (h.setCsrPv n p).csr.ptroot = h.csr.ptroot := rfl
@[simp] theorem Hart.setCsrPv_csr_partSel (h : Hart) (n : Nat) (p : PvSet) : (h.setCsrPv n p).csr.partSel = h.csr.partSel := rfl
@[simp] theorem Hart.setCsrPv_csr_tr (h : Hart) (n : Nat) (p : PvSet) : (h.setCsrPv n p).csr.tr = h.csr.tr := rfl
@[simp] theorem Hart.setCsrPv_csr_htr (h : Hart) (n : Nat) (p : PvSet) : (h.setCsrPv n p).csr.htr = h.csr.htr := rfl
@[simp] theorem Hart.setV_core (h : Hart) (r : Nat) (x : VReg) : (h.setV r x).core = h.core := rfl
@[simp] theorem Hart.setM_core (h : Hart) (r : Nat) (x : BReg) : (h.setM r x).core = h.core := rfl
@[simp] theorem Hart.setK_core (h : Hart) (r : Nat) (x : BReg) : (h.setK r x).core = h.core := rfl
@[simp] theorem Hart.setV_ix (h : Hart) (r : Nat) (x : VReg) : (h.setV r x).ix = h.ix := rfl
@[simp] theorem Hart.setM_ix (h : Hart) (r : Nat) (x : BReg) : (h.setM r x).ix = h.ix := rfl
@[simp] theorem Hart.setK_ix (h : Hart) (r : Nat) (x : BReg) : (h.setK r x).ix = h.ix := rfl
@[simp] theorem Hart.setV_status (h : Hart) (r : Nat) (x : VReg) : (h.setV r x).status = h.status := rfl
@[simp] theorem Hart.setM_status (h : Hart) (r : Nat) (x : BReg) : (h.setM r x).status = h.status := rfl
@[simp] theorem Hart.setK_status (h : Hart) (r : Nat) (x : BReg) : (h.setK r x).status = h.status := rfl
@[simp] theorem Hart.setV_s (h : Hart) (r : Nat) (x : VReg) : (h.setV r x).s = h.s := rfl
@[simp] theorem Hart.setM_s (h : Hart) (r : Nat) (x : BReg) : (h.setM r x).s = h.s := rfl
@[simp] theorem Hart.setK_s (h : Hart) (r : Nat) (x : BReg) : (h.setK r x).s = h.s := rfl
@[simp] theorem Hart.setV_sp (h : Hart) (r : Nat) (x : VReg) : (h.setV r x).sp = h.sp := rfl
@[simp] theorem Hart.setM_sp (h : Hart) (r : Nat) (x : BReg) : (h.setM r x).sp = h.sp := rfl
@[simp] theorem Hart.setK_sp (h : Hart) (r : Nat) (x : BReg) : (h.setK r x).sp = h.sp := rfl
@[simp] theorem Hart.setV_pc (h : Hart) (r : Nat) (x : VReg) : (h.setV r x).pc = h.pc := rfl
@[simp] theorem Hart.setM_pc (h : Hart) (r : Nat) (x : BReg) : (h.setM r x).pc = h.pc := rfl
@[simp] theorem Hart.setK_pc (h : Hart) (r : Nat) (x : BReg) : (h.setK r x).pc = h.pc := rfl
@[simp] theorem Hart.setV_mode (h : Hart) (r : Nat) (x : VReg) : (h.setV r x).mode = h.mode := rfl
@[simp] theorem Hart.setM_mode (h : Hart) (r : Nat) (x : BReg) : (h.setM r x).mode = h.mode := rfl
@[simp] theorem Hart.setK_mode (h : Hart) (r : Nat) (x : BReg) : (h.setK r x).mode = h.mode := rfl
@[simp] theorem Hart.setV_ctx (h : Hart) (r : Nat) (x : VReg) : (h.setV r x).ctx = h.ctx := rfl
@[simp] theorem Hart.setM_ctx (h : Hart) (r : Nat) (x : BReg) : (h.setM r x).ctx = h.ctx := rfl
@[simp] theorem Hart.setK_ctx (h : Hart) (r : Nat) (x : BReg) : (h.setK r x).ctx = h.ctx := rfl
@[simp] theorem Hart.setV_csr (h : Hart) (r : Nat) (x : VReg) : (h.setV r x).csr = h.csr := rfl
@[simp] theorem Hart.setM_csr (h : Hart) (r : Nat) (x : BReg) : (h.setM r x).csr = h.csr := rfl
@[simp] theorem Hart.setK_csr (h : Hart) (r : Nat) (x : BReg) : (h.setK r x).csr = h.csr := rfl
@[simp] theorem Hart.setV_laneLo (h : Hart) (r : Nat) (x : VReg) : (h.setV r x).laneLo = h.laneLo := rfl
@[simp] theorem Hart.setM_laneLo (h : Hart) (r : Nat) (x : BReg) : (h.setM r x).laneLo = h.laneLo := rfl
@[simp] theorem Hart.setK_laneLo (h : Hart) (r : Nat) (x : BReg) : (h.setK r x).laneLo = h.laneLo := rfl
@[simp] theorem Hart.setV_laneN (h : Hart) (r : Nat) (x : VReg) : (h.setV r x).laneN = h.laneN := rfl
@[simp] theorem Hart.setM_laneN (h : Hart) (r : Nat) (x : BReg) : (h.setM r x).laneN = h.laneN := rfl
@[simp] theorem Hart.setK_laneN (h : Hart) (r : Nat) (x : BReg) : (h.setK r x).laneN = h.laneN := rfl
@[simp] theorem Hart.setV_parent (h : Hart) (r : Nat) (x : VReg) : (h.setV r x).parent = h.parent := rfl
@[simp] theorem Hart.setM_parent (h : Hart) (r : Nat) (x : BReg) : (h.setM r x).parent = h.parent := rfl
@[simp] theorem Hart.setK_parent (h : Hart) (r : Nat) (x : BReg) : (h.setK r x).parent = h.parent := rfl
@[simp] theorem Hart.setV_children (h : Hart) (r : Nat) (x : VReg) : (h.setV r x).children = h.children := rfl
@[simp] theorem Hart.setM_children (h : Hart) (r : Nat) (x : BReg) : (h.setM r x).children = h.children := rfl
@[simp] theorem Hart.setK_children (h : Hart) (r : Nat) (x : BReg) : (h.setK r x).children = h.children := rfl
@[simp] theorem Hart.setV_event (h : Hart) (r : Nat) (x : VReg) : (h.setV r x).event = h.event := rfl
@[simp] theorem Hart.setM_event (h : Hart) (r : Nat) (x : BReg) : (h.setM r x).event = h.event := rfl
@[simp] theorem Hart.setK_event (h : Hart) (r : Nat) (x : BReg) : (h.setK r x).event = h.event := rfl
@[simp] theorem Hart.setV_watch (h : Hart) (r : Nat) (x : VReg) : (h.setV r x).watch = h.watch := rfl
@[simp] theorem Hart.setM_watch (h : Hart) (r : Nat) (x : BReg) : (h.setM r x).watch = h.watch := rfl
@[simp] theorem Hart.setK_watch (h : Hart) (r : Nat) (x : BReg) : (h.setK r x).watch = h.watch := rfl
@[simp] theorem Hart.setV_asideS (h : Hart) (r : Nat) (x : VReg) : (h.setV r x).asideS = h.asideS := rfl
@[simp] theorem Hart.setM_asideS (h : Hart) (r : Nat) (x : BReg) : (h.setM r x).asideS = h.asideS := rfl
@[simp] theorem Hart.setK_asideS (h : Hart) (r : Nat) (x : BReg) : (h.setK r x).asideS = h.asideS := rfl
@[simp] theorem Hart.setV_asideH (h : Hart) (r : Nat) (x : VReg) : (h.setV r x).asideH = h.asideH := rfl
@[simp] theorem Hart.setM_asideH (h : Hart) (r : Nat) (x : BReg) : (h.setM r x).asideH = h.asideH := rfl
@[simp] theorem Hart.setK_asideH (h : Hart) (r : Nat) (x : BReg) : (h.setK r x).asideH = h.asideH := rfl
@[simp] theorem Hart.setV_tags (h : Hart) (r : Nat) (x : VReg) : (h.setV r x).tags = h.tags := rfl
@[simp] theorem Hart.setM_tags (h : Hart) (r : Nat) (x : BReg) : (h.setM r x).tags = h.tags := rfl
@[simp] theorem Hart.setK_tags (h : Hart) (r : Nat) (x : BReg) : (h.setK r x).tags = h.tags := rfl
@[simp] theorem Hart.setV_queue (h : Hart) (r : Nat) (x : VReg) : (h.setV r x).queue = h.queue := rfl
@[simp] theorem Hart.setM_queue (h : Hart) (r : Nat) (x : BReg) : (h.setM r x).queue = h.queue := rfl
@[simp] theorem Hart.setK_queue (h : Hart) (r : Nat) (x : BReg) : (h.setK r x).queue = h.queue := rfl
@[simp] theorem Hart.setV_heldBy (h : Hart) (r : Nat) (x : VReg) : (h.setV r x).heldBy = h.heldBy := rfl
@[simp] theorem Hart.setM_heldBy (h : Hart) (r : Nat) (x : BReg) : (h.setM r x).heldBy = h.heldBy := rfl
@[simp] theorem Hart.setK_heldBy (h : Hart) (r : Nat) (x : BReg) : (h.setK r x).heldBy = h.heldBy := rfl
@[simp] theorem Hart.setV_resume (h : Hart) (r : Nat) (x : VReg) : (h.setV r x).resume = h.resume := rfl
@[simp] theorem Hart.setM_resume (h : Hart) (r : Nat) (x : BReg) : (h.setM r x).resume = h.resume := rfl
@[simp] theorem Hart.setK_resume (h : Hart) (r : Nat) (x : BReg) : (h.setK r x).resume = h.resume := rfl
@[simp] theorem Hart.setV_cur (h : Hart) (r : Nat) (x : VReg) : (h.setV r x).cur = h.cur := rfl
@[simp] theorem Hart.setM_cur (h : Hart) (r : Nat) (x : BReg) : (h.setM r x).cur = h.cur := rfl
@[simp] theorem Hart.setK_cur (h : Hart) (r : Nat) (x : BReg) : (h.setK r x).cur = h.cur := rfl
@[simp] theorem Hart.setV_mq (h : Hart) (r : Nat) (x : VReg) : (h.setV r x).mq = h.mq := rfl
@[simp] theorem Hart.setM_mq (h : Hart) (r : Nat) (x : BReg) : (h.setM r x).mq = h.mq := rfl
@[simp] theorem Hart.setK_mq (h : Hart) (r : Nat) (x : BReg) : (h.setK r x).mq = h.mq := rfl
@[simp] theorem Hart.setV_mstat (h : Hart) (r : Nat) (x : VReg) : (h.setV r x).mstat = h.mstat := rfl
@[simp] theorem Hart.setM_mstat (h : Hart) (r : Nat) (x : BReg) : (h.setM r x).mstat = h.mstat := rfl
@[simp] theorem Hart.setK_mstat (h : Hart) (r : Nat) (x : BReg) : (h.setK r x).mstat = h.mstat := rfl
@[simp] theorem Hart.setV_mset (h : Hart) (r : Nat) (x : VReg) : (h.setV r x).mset = h.mset := rfl
@[simp] theorem Hart.setM_mset (h : Hart) (r : Nat) (x : BReg) : (h.setM r x).mset = h.mset := rfl
@[simp] theorem Hart.setK_mset (h : Hart) (r : Nat) (x : BReg) : (h.setK r x).mset = h.mset := rfl
@[simp] theorem Hart.setV_deferred (h : Hart) (r : Nat) (x : VReg) : (h.setV r x).deferred = h.deferred := rfl
@[simp] theorem Hart.setM_deferred (h : Hart) (r : Nat) (x : BReg) : (h.setM r x).deferred = h.deferred := rfl
@[simp] theorem Hart.setK_deferred (h : Hart) (r : Nat) (x : BReg) : (h.setK r x).deferred = h.deferred := rfl
@[simp] theorem Hart.setV_remote (h : Hart) (r : Nat) (x : VReg) : (h.setV r x).remote = h.remote := rfl
@[simp] theorem Hart.setM_remote (h : Hart) (r : Nat) (x : BReg) : (h.setM r x).remote = h.remote := rfl
@[simp] theorem Hart.setK_remote (h : Hart) (r : Nat) (x : BReg) : (h.setK r x).remote = h.remote := rfl
@[simp] theorem Hart.setV_vreq (h : Hart) (r : Nat) (x : VReg) : (h.setV r x).vreq = h.vreq := rfl
@[simp] theorem Hart.setM_vreq (h : Hart) (r : Nat) (x : BReg) : (h.setM r x).vreq = h.vreq := rfl
@[simp] theorem Hart.setK_vreq (h : Hart) (r : Nat) (x : BReg) : (h.setK r x).vreq = h.vreq := rfl
@[simp] theorem Hart.setV_prog (h : Hart) (r : Nat) (x : VReg) : (h.setV r x).prog = h.prog := rfl
@[simp] theorem Hart.setM_prog (h : Hart) (r : Nat) (x : BReg) : (h.setM r x).prog = h.prog := rfl
@[simp] theorem Hart.setK_prog (h : Hart) (r : Nat) (x : BReg) : (h.setK r x).prog = h.prog := rfl
@[simp] theorem Hart.setV_send (h : Hart) (r : Nat) (x : VReg) : (h.setV r x).send = h.send := rfl
@[simp] theorem Hart.setM_send (h : Hart) (r : Nat) (x : BReg) : (h.setM r x).send = h.send := rfl
@[simp] theorem Hart.setK_send (h : Hart) (r : Nat) (x : BReg) : (h.setK r x).send = h.send := rfl
@[simp] theorem Hart.setV_arrival (h : Hart) (r : Nat) (x : VReg) : (h.setV r x).arrival = h.arrival := rfl
@[simp] theorem Hart.setM_arrival (h : Hart) (r : Nat) (x : BReg) : (h.setM r x).arrival = h.arrival := rfl
@[simp] theorem Hart.setK_arrival (h : Hart) (r : Nat) (x : BReg) : (h.setK r x).arrival = h.arrival := rfl
@[simp] theorem Hart.setV_asideBarS (h : Hart) (r : Nat) (x : VReg) : (h.setV r x).asideBarS = h.asideBarS := rfl
@[simp] theorem Hart.setM_asideBarS (h : Hart) (r : Nat) (x : BReg) : (h.setM r x).asideBarS = h.asideBarS := rfl
@[simp] theorem Hart.setK_asideBarS (h : Hart) (r : Nat) (x : BReg) : (h.setK r x).asideBarS = h.asideBarS := rfl
@[simp] theorem Hart.setV_asideBarH (h : Hart) (r : Nat) (x : VReg) : (h.setV r x).asideBarH = h.asideBarH := rfl
@[simp] theorem Hart.setM_asideBarH (h : Hart) (r : Nat) (x : BReg) : (h.setM r x).asideBarH = h.asideBarH := rfl
@[simp] theorem Hart.setK_asideBarH (h : Hart) (r : Nat) (x : BReg) : (h.setK r x).asideBarH = h.asideBarH := rfl
@[simp] theorem Hart.setV_fetchTaken (h : Hart) (r : Nat) (x : VReg) : (h.setV r x).fetchTaken = h.fetchTaken := rfl
@[simp] theorem Hart.setM_fetchTaken (h : Hart) (r : Nat) (x : BReg) : (h.setM r x).fetchTaken = h.fetchTaken := rfl
@[simp] theorem Hart.setK_fetchTaken (h : Hart) (r : Nat) (x : BReg) : (h.setK r x).fetchTaken = h.fetchTaken := rfl
@[simp] theorem Hart.setV_posted (h : Hart) (r : Nat) (x : VReg) : (h.setV r x).posted = h.posted := rfl
@[simp] theorem Hart.setM_posted (h : Hart) (r : Nat) (x : BReg) : (h.setM r x).posted = h.posted := rfl
@[simp] theorem Hart.setK_posted (h : Hart) (r : Nat) (x : BReg) : (h.setK r x).posted = h.posted := rfl
@[simp] theorem Hart.setV_heldSeq (h : Hart) (r : Nat) (x : VReg) : (h.setV r x).heldSeq = h.heldSeq := rfl
@[simp] theorem Hart.setM_heldSeq (h : Hart) (r : Nat) (x : BReg) : (h.setM r x).heldSeq = h.heldSeq := rfl
@[simp] theorem Hart.setK_heldSeq (h : Hart) (r : Nat) (x : BReg) : (h.setK r x).heldSeq = h.heldSeq := rfl
@[simp] theorem Hart.setV_spills (h : Hart) (r : Nat) (x : VReg) : (h.setV r x).spills = h.spills := rfl
@[simp] theorem Hart.setM_spills (h : Hart) (r : Nat) (x : BReg) : (h.setM r x).spills = h.spills := rfl
@[simp] theorem Hart.setK_spills (h : Hart) (r : Nat) (x : BReg) : (h.setK r x).spills = h.spills := rfl
@[simp] theorem Hart.setV_lastTrap (h : Hart) (r : Nat) (x : VReg) : (h.setV r x).lastTrap = h.lastTrap := rfl
@[simp] theorem Hart.setM_lastTrap (h : Hart) (r : Nat) (x : BReg) : (h.setM r x).lastTrap = h.lastTrap := rfl
@[simp] theorem Hart.setK_lastTrap (h : Hart) (r : Nat) (x : BReg) : (h.setK r x).lastTrap = h.lastTrap := rfl

end Sys2Proof.Machine
end

