-- ==== Sys2Proof/Laws/Scalar.lean ====
section
/-! SUPPORT. Reading scalar registers after a write, and what the shared scalar operations do, in the terms of `Safety`. -/

namespace Sys2Proof.Machine

open Sys2Proof.Safety

/-- s0 reads as zero. -/
@[simp] theorem getS_zero (s : State) : s.getS 0 = 0 := rfl
/-- The set of s0 is empty. -/
@[simp] theorem getP_zero (s : State) : s.getP 0 = 0 := rfl

/-- A written register reads as written. -/
theorem Hart.getS_setS_same (h : Hart) (r : BitVec 5) (v : Word) (p : PvSet) (hr : r ≠ 0) :
    (h.setS r v p).getS r = v ∧ (h.setS r v p).getP r = p := by
  have hb : (r == 0) = false := by simpa using hr
  unfold Hart.setS Hart.getS Hart.getP
  simp only [hb, Bool.false_eq_true, if_false]
  exact ⟨Vector.getElem_set_self .., Vector.getElem_set_self ..⟩

/-- A write leaves every other register alone. -/
theorem Hart.getS_setS_ne (h : Hart) (r q : BitVec 5) (v : Word) (p : PvSet) (hq : q ≠ r) :
    (h.setS r v p).getS q = h.getS q ∧ (h.setS r v p).getP q = h.getP q := by
  have hne : r.toFin.val ≠ q.toFin.val := fun h1 => hq (BitVec.eq_of_toNat_eq h1).symm
  unfold Hart.setS Hart.getS Hart.getP
  split
  · exact ⟨rfl, rfl⟩
  · split
    · exact ⟨rfl, rfl⟩
    · exact ⟨Vector.getElem_set_ne r.toFin.isLt q.toFin.isLt hne, Vector.getElem_set_ne r.toFin.isLt q.toFin.isLt hne⟩

/-- A register write, as a state. -/
theorem setS_wrote (s : State) (sd : BitVec 5) (v : Word) (p : PvSet) : Wrote sd v p s (s.setS sd v p) where
  result h := Hart.getS_setS_same s.hart sd v p h
  zero := ⟨rfl, rfl⟩
  others r h := Hart.getS_setS_ne s.hart sd r v p h

/-- A write that reaches the registers and nothing else of the hart. -/
theorem Hart.setS_eq (h : Hart) (r : BitVec 5) (v : Word) (p : PvSet) :
    h.setS r v p = { h with s := (h.setS r v p).s, sp := (h.setS r v p).sp } := by
  unfold Hart.setS; split <;> rfl

/-- What passes the instruction leaves the registers as they are. -/
theorem wrote_retire {sd : BitVec 5} {v : Word} {p : PvSet} {s t : State} (h : Wrote sd v p s t) : Wrote sd v p s (retire t) :=
  ⟨h.result, h.zero, h.others⟩

/-- A state that differs in the hart alone, its mode the same, reads memory as before. -/
theorem loadByte_congr (s : State) (h : Hart) (hm : h.mode = s.hart.mode) (a : Nat) :
    ({ s with hart := h } : State).loadByte a = s.loadByte a := by
  have e : ({ s with hart := h } : State).barByte a = s.barByte a := by
    unfold State.barByte; rw [show ({ s with hart := h } : State).hart.mode = s.hart.mode from hm]
  unfold State.loadByte
  rw [e]
  rfl

/-- Only the hart changed, and not its mode. -/
theorem hartOnly_of_eq {s t : State} (h : t = { s with hart := t.hart }) (hm : t.hart.mode = s.hart.mode) : HartOnly s t :=
  ⟨h, fun a => by rw [h]; exact loadByte_congr _ _ hm a⟩

/-- A scalar result followed by the pc: the completion of every SALU, SIMM and CSR read form. -/
theorem scalarStep_of (s : State) (sd : BitVec 5) (v : Word) (p : PvSet) :
    ScalarStep sd v p s.ctx s (retire (s.setS sd v p)) where
  wrote := wrote_retire (setS_wrote s sd v p)
  hart := by
    show (retire (s.setS sd v p)).hart = _
    unfold retire State.setS State.mapHart Hart.setS
    split <;> rfl
  only := hartOnly_of_eq rfl (by
    show ((s.hart.setS sd v p).mode) = _
    unfold Hart.setS; split <;> rfl)

/-- The completion of a form with a result. -/
theorem completes_scalar {i : Instr} {s : State} {sd : BitVec 5} {v w : Word} {p q : PvSet}
    (h : exec i s = .next (retire (s.setS sd v p))) (hv : v = w) (hp : p = q) :
    Completes i s (ScalarStep sd w q s.ctx s) := by
  subst hv hp; exact ⟨_, h, scalarStep_of s sd v p⟩

end Sys2Proof.Machine
end

