-- ==== Sys2Proof/Laws/Store.lean ====
section
/-! SUPPORT. What the shared operations of stores, translation and traps do to memory. -/

namespace Sys2Proof.Machine

/-- An act that keeps a property keeps it over a range. -/
theorem forRange_keeps (P : State → Prop) (f : Nat → State → State) (hf : ∀ l s, P s → P (f l s)) (lo n : Nat) (s : State)
    (h : P s) : P (forRange f lo n s) := by
  induction n generalizing lo s with
  | zero => exact h
  | succ n ih => exact ih (lo + 1) _ (hf lo s h)

/-- An act that leaves a view of the state alone leaves it alone over a range. -/
theorem forRange_same {α : Type} (v : State → α) (f : Nat → State → State) (hf : ∀ l s, v (f l s) = v s) (lo n : Nat)
    (s : State) : v (forRange f lo n s) = v s := by
  induction n generalizing lo s with
  | zero => rfl
  | succ n ih => rw [forRange, ih, hf]

theorem setProv_mem (s : State) (w : ProvWord) : (s.setProv w).mem = s.mem := rfl
theorem setTide_mem (s : State) (t : TideFrame) : (s.setTide t).mem = s.mem := rfl
theorem setSector_mem (s : State) (x : Sector) : (s.setSector x).mem = s.mem := rfl
theorem mapHarts_mem (s : State) (f : Hart → Hart) : (s.mapHarts f).mem = s.mem := rfl
theorem mapCores_mem (s : State) (f : Core → Core) : (s.mapCores f).mem = s.mem := rfl
theorem strikeSectors_mem (hit : Nat → Bool) (p : PvSet) (s : State) : (strikeSectors hit p s).mem = s.mem := rfl

/-- The growth of a current set leaves memory alone. -/
theorem growCur_mem (pa : Nat) (p : PvSet) (s : State) : (growCur pa p s).mem = s.mem := by
  unfold growCur; split
  · rfl
  · dsimp only; split
    · rfl
    · unfold strikeFrame; rw [strikeSectors_mem, mapCores_mem, setProv_mem]

theorem settleChecks_mem (l : Nat) (s : State) : (settleChecks l s).mem = s.mem := rfl
theorem ghostOthers_mem (e : Option Nat) (l : Nat) (s : State) : (ghostOthers e l s).mem = s.mem := rfl
theorem homeSector_mem (w : Option Nat) (n : Nat) (s : State) : (homeSector w n s).mem = s.mem := rfl
theorem startClear_mem (pa : Nat) (s : State) : (startClear pa s).mem = s.mem := by
  unfold startClear; dsimp only; split <;> rfl
theorem grantSector_mem (c : Nat) (d : Bool) (n : Nat) (s : State) : (grantSector c d n s).mem = s.mem := by
  unfold grantSector; dsimp only; split <;> rfl

/-- Another core in focus: memory is the same. -/
theorem focusCore_mem' (n : Nat) (s : State) : (focusCore n s).mem = s.mem := by unfold focusCore; split <;> rfl

/-- An act of another core leaves memory alone where the act does. -/
theorem onCore_mem (n : Nat) (f : State → State) (hf : ∀ s, (f s).mem = s.mem) (s : State) : (onCore n f s).mem = s.mem := by
  unfold onCore; rw [focusCore_mem', hf, focusCore_mem']

theorem disown_mem (l : Nat) (s : State) : (disown l s).mem = s.mem := rfl

/-- A fold of acts that leave memory alone leaves it alone. -/
theorem foldl_mem {α : Type} (f : State → α → State) (hf : ∀ s x, (f s x).mem = s.mem) (l : List α) (s : State) :
    (l.foldl f s).mem = s.mem := by
  induction l generalizing s with
  | nil => rfl
  | cons x l ih => rw [List.foldl_cons, ih, hf]

/-- Copies written back and replaced: their data stand at their homes already. -/
theorem evictCopies_mem (p : Copy → Bool) (s : State) : (evictCopies p s).mem = s.mem := by
  unfold evictCopies
  exact foldl_mem (fun s (k : Copy) => disown k.line s) (fun s k => disown_mem k.line s) _ s

theorem installCopy_mem (k : Copy) (s : State) : (installCopy k s).2.mem = s.mem := by
  unfold installCopy
  dsimp only
  split
  · rfl
  · split
    · rfl
    · split
      · rfl
      · show (evictCopies _ _).mem = _
        rw [evictCopies_mem]; rfl

theorem holdForStore_mem (l : Nat) (s : State) : (holdForStore l s).2.mem = s.mem := by
  unfold holdForStore
  split
  · rfl
  · split
    · rfl
    · exact installCopy_mem _ s

theorem ownLine_mem (x0 xn l : Nat) (s : State) : (ownLine x0 xn l s).mem = s.mem := by
  unfold ownLine
  dsimp only
  have h := holdForStore_mem l s
  split
  · next s' e =>
    rw [e] at h
    rw [forRange_same State.mem _ (fun l s => grantSector_mem _ _ l s)]; exact h
  · next s' e =>
    rw [e] at h
    rw [forRange_same State.mem _ (fun l s => homeSector_mem _ l s)]; exact h

theorem orOwnCopy_mem (l : Nat) (p : PvSet) (s : State) : (orOwnCopy l p s).mem = s.mem := rfl
theorem updateRemote_mem (pa : Nat) (b : List Byte) (p : PvSet) (s : State) : (updateRemote pa b p s).mem = s.mem := rfl
theorem clearPoison_mem (pa n : Nat) (s : State) : (clearPoison pa n s).mem = s.mem := rfl
theorem wakeLine_mem (w : Option HartId) (l : Nat) (s : State) : (wakeLine w l s).mem = s.mem := rfl

/-- The lines of a write keep memory canonical. -/
theorem holdLines_memWf (pa n : Nat) (s : State) (h : memWf s.mem = true) : memWf (holdLines pa n s).mem = true := by
  unfold holdLines
  split
  · refine forRange_keeps (fun s => memWf s.mem = true) _ ?_ _ _ _ h
    intro l s h
    dsimp only
    split
    · exact h
    · rw [setTide_mem]
      split
      · exact h
      · rw [onCore_mem _ _ (fun s => evictCopies_mem _ s)]; exact h
  · exact h

/-- The lines of a backed frame that cease to read as zero keep memory canonical. -/
theorem unzero_memWf (pa n : Nat) (s : State) (h : memWf s.mem = true) : memWf (unzero pa n s).mem = true := by
  unfold unzero
  split
  · exact h
  · refine forRange_keeps (fun s => memWf s.mem = true) _ ?_ _ _ _ h
    intro l s h
    dsimp only
    split
    · exact memWf_memErase _ _ _ h
    · exact h

/-- The bytes of a write keep memory canonical. -/
theorem landBytes_memWf (pa : Nat) (l : List Byte) (s : State) (h : memWf s.mem = true) :
    memWf (landBytes pa l s).mem = true := by
  induction l generalizing pa s with
  | nil => exact h
  | cons v l ih => exact ih (pa + 1) _ (memWf_memWrite _ _ _ h)

/-- What of a write follows its grants keeps memory canonical. -/
theorem land_memWf (pa : Nat) (b : List Byte) (s : State) (h : memWf s.mem = true) :
    memWf (clearPoison pa b.length (landBytes pa b (holdLines pa b.length s))).mem = true :=
  landBytes_memWf _ _ _ (holdLines_memWf _ _ _ h)

/-- The checks and grants that precede a hart's write leave memory alone. -/
theorem storeGrants_mem (pa n : Nat) (p : PvSet) (s : State) :
    (let s := growCur pa p (startClear pa s)
     let s := forRange settleChecks (units 128 pa n).1 (units 128 pa n).2 s
     let s := if s.inHost pa then s
       else if s.inPeer pa then forRange (homeSector (some s.core.num)) (units 32 pa n).1 (units 32 pa n).2 s
       else forRange (ownLine (units 32 pa n).1 (units 32 pa n).2) (units 128 pa n).1 (units 128 pa n).2 s
     forRange (fun l => orOwnCopy l p) (units 128 pa n).1 (units 128 pa n).2 s).mem = s.mem := by
  have h : ∀ l s, (orOwnCopy l p s).mem = s.mem := fun l s => orOwnCopy_mem l p s
  dsimp only
  rw [forRange_same State.mem _ h]
  have g : (forRange settleChecks (units 128 pa n).1 (units 128 pa n).2 (growCur pa p (startClear pa s))).mem = s.mem := by
    rw [forRange_same State.mem _ (fun l s => settleChecks_mem l s), growCur_mem, startClear_mem]
  generalize forRange settleChecks (units 128 pa n).1 (units 128 pa n).2 (growCur pa p (startClear pa s)) = S at g ⊢
  split
  · exact g
  · split
    · rw [forRange_same State.mem _ (fun l s => homeSector_mem _ l s)]; exact g
    · rw [forRange_same State.mem _ (fun l s => ownLine_mem _ _ l s)]; exact g

/-- A store of a hart keeps memory canonical. -/
theorem storePa_memWf (pa : Nat) (b : List Byte) (p : PvSet) (s : State) (h : memWf s.mem = true) :
    memWf (storePa pa b p s).mem = true := by
  have hu := unzero_memWf pa b.length s h
  unfold storePa
  dsimp only
  generalize unzero pa b.length s = u at hu ⊢
  generalize u.place pa = pa
  have g := storeGrants_mem pa b.length p u
  dsimp only at g
  rw [forRange_same State.mem _ (fun l s => wakeLine_mem _ l s)]
  revert g
  generalize forRange (fun l => orOwnCopy l p) (units 128 pa b.length).1 (units 128 pa b.length).2 _ = T
  intro g
  have hT : memWf T.mem = true := by rw [g]; exact hu
  split <;> split <;> exact land_memWf pa b _ hT

/-- A write at a home keeps memory canonical. -/
theorem storeHome_memWf (pa : Nat) (b : List Byte) (p : PvSet) (s : State) (h : memWf s.mem = true) :
    memWf (storeHome pa b p s).mem = true := by
  unfold storeHome
  dsimp only
  have hu := unzero_memWf pa b.length s h
  generalize unzero pa b.length s = u at hu ⊢
  rw [forRange_same State.mem _ (fun l s => wakeLine_mem _ l s)]
  refine land_memWf _ _ _ ?_
  split
  · rw [growCur_mem, startClear_mem]; exact hu
  · rw [forRange_same State.mem _ (fun l s => homeSector_mem _ l s), growCur_mem, startClear_mem]; exact hu

/-- The write of an atomic keeps memory canonical. -/
theorem storeAtomic_memWf (pa n : Nat) (b : Option (List Byte)) (p : PvSet) (s : State) (h : memWf s.mem = true) :
    memWf (storeAtomic pa n b p s).mem = true := by
  unfold storeAtomic
  dsimp only
  have hu : memWf (if b.isSome = true then unzero pa n s else s).mem = true := by
    split
    · exact unzero_memWf _ _ _ h
    · exact h
  generalize (if b.isSome = true then unzero pa n s else s) = s at hu ⊢
  generalize s.place pa = pa
  clear h
  have h := hu
  have g : (forRange settleChecks (units 128 pa n).1 (units 128 pa n).2 (growCur pa p s)).mem = s.mem := by
    rw [forRange_same State.mem _ (fun l s => settleChecks_mem l s), growCur_mem]
  generalize forRange settleChecks (units 128 pa n).1 (units 128 pa n).2 (growCur pa p s) = S at g ⊢
  have h2 : memWf (if S.inHost pa = true then S else forRange (homeSector none) (units 32 pa n).1 (units 32 pa n).2 S).mem = true := by
    split
    · rw [g]; exact h
    · rw [forRange_same State.mem _ (fun l s => homeSector_mem _ l s), g]; exact h
  generalize (if S.inHost pa = true then S else forRange (homeSector none) (units 32 pa n).1 (units 32 pa n).2 S) = T at h2 ⊢
  split
  · exact h2
  · rw [forRange_same State.mem _ (fun l s => wakeLine_mem _ l s)]
    exact landBytes_memWf _ _ _ (holdLines_memWf _ _ _ h2)

/-- A TLB entry leaves memory alone. -/
theorem tlbPut_mem (e : TlbEntry) (u : TlbUnit) (s : State) : (tlbPut e u s).mem = s.mem := by
  unfold tlbPut; dsimp only
  split
  · rfl
  · split <;> rfl

theorem tlbFill_mem (v : Via) (va : Nat) (e : TlbEntry) (s : State) : (tlbFill v va e s).mem = s.mem := by
  unfold tlbFill
  exact foldl_mem (fun s (u : TlbUnit) => tlbPut e u s) (fun s u => tlbPut_mem e u s) _ s

/-- A walk's marks keep memory canonical. -/
theorem installLeaf_memWf (v : Via) (asid va : Nat) (p : Perm) (l : Leaf) (s : State) (h : memWf s.mem = true) :
    memWf (installLeaf v asid va p l s).1.mem = true := by
  unfold installLeaf
  dsimp only
  rw [tlbFill_mem, tlbPut_mem]
  generalize l.pte ||| 64 ||| (if (p == Perm.write) = true then 128 else 0) = want
  show memWf (if (want == l.pte) = true then s else storeHome l.at_ (toLeBytes 8 want) pvEmpty s).mem = true
  split
  · exact h
  · exact storeHome_memWf _ _ _ _ h

/-- Translation keeps memory canonical. -/
theorem xlatWith_memWf (v : Via) (r : Word) (m : Mode) (va : Word) (p : Perm) (s : State) (x : Nat × TlbEntry × State)
    (hx : xlatWith v r m va p s = .ok x) (h : memWf s.mem = true) : memWf x.2.2.mem = true := by
  unfold xlatWith at hx
  dsimp only at hx
  split at hx
  · exact nomatch hx
  · split at hx
    · split at hx
      · injection hx with hx
        subst hx
        show memWf (ite _ s (tlbFill _ _ _ s)).mem = true
        split
        · exact h
        · rw [tlbFill_mem]; exact h
      · exact nomatch hx
    · split at hx
      · exact nomatch hx
      · split at hx
        · exact nomatch hx
        · split at hx
          · exact nomatch hx
          · injection hx with hx; subst hx
            exact installLeaf_memWf _ _ _ _ _ _ h

/-- The kept translation of a check leaves memory alone. -/
theorem keepPin_mem (e : TlbEntry) (s : State) : (keepPin e s).mem = s.mem := by unfold keepPin; split <;> rfl

/-- Translation for the current hart keeps memory canonical. -/
theorem xlatVia_memWf (v : Via) (va : Word) (p : Perm) (s : State) (x : Nat × TlbEntry × State) (hx : xlatVia v va p s = .ok x)
    (h : memWf s.mem = true) : memWf x.2.2.mem = true := by
  unfold xlatVia at hx
  split at hx
  · next e a b t _ hw => injection hx with hx; subst hx; exact xlatWith_memWf _ _ _ _ _ _ (a, b, t) hw h
  · injection hx with hx; subst hx; exact h
  · next pa e t _ hw =>
    injection hx with hx; subst hx
    rw [keepPin_mem]; exact xlatWith_memWf _ _ _ _ _ _ (pa, e, t) hw h
  · exact nomatch hx

theorem recordTide_mem (pa : Nat) (e : TlbEntry) (s : State) : (recordTide pa e s).mem = s.mem := by
  unfold recordTide; split <;> rfl

theorem fillAts_mem (pa : Nat) (s : State) : (fillAts pa s).mem = s.mem := by
  unfold fillAts; dsimp only; split <;> rfl

/-- The marks of pages translated keep memory canonical. -/
theorem touch_memWf (va : Word) (p : Perm) (s : State) (h : memWf s.mem = true) : memWf (touch va p s).mem = true := by
  unfold touch
  split
  · rename_i x y t hx; exact xlatVia_memWf _ _ _ _ _ hx h
  · exact h

/-- An access that goes ahead keeps memory canonical. -/
theorem accessVia_memWf (v : Via) (va : Word) (n : Nat) (p : Perm) (acc : Nat) (r : Bool) (s t : State) (pa : Nat)
    (ha : accessVia v va n p acc r s = .ok pa t) (h : memWf s.mem = true) : memWf t.mem = true := by
  unfold accessVia at ha
  split at ha
  · exact nomatch ha
  · rename_i q e u hx
    have hu := xlatVia_memWf _ _ _ _ _ hx h
    split at ha
    · exact nomatch ha
    · split at ha
      · exact nomatch ha
      · split at ha
        · exact nomatch ha
        · split at ha
          · exact nomatch ha
          · split at ha
            · exact nomatch ha
            · injection ha with h1 h2
              subst h2
              rw [fillAts_mem, startClear_mem, recordTide_mem]; exact hu

/-- An access of the scalar unit that goes ahead keeps memory canonical. -/
theorem access_memWf (va : Word) (n : Nat) (p : Perm) (acc : Nat) (r : Bool) (s t : State) (pa : Nat)
    (ha : access va n p acc r s = .ok pa t) (h : memWf s.mem = true) : memWf t.mem = true :=
  accessVia_memWf _ _ _ _ _ _ _ _ _ ha h

/-- The clears that a walk starts leave memory alone. -/
theorem walkClear_mem (r va : Word) (s : State) : (walkClear r va s).mem = s.mem := by
  unfold walkClear; split
  · rfl
  · exact foldl_mem _ (fun s a => startClear_mem a s) _ s

/-- Taking an exception leaves memory alone. -/
theorem deliver_mem (t : TrapRec) (pc : Word) (s : State) : (deliver t pc s).mem = s.mem := by
  unfold deliver
  dsimp only
  have g : (if (t.cause == 8) = true then walkClear (leaveReef s).hart.csr.ptroot t.info (leaveReef s) else leaveReef s).mem = s.mem := by
    split
    · rw [walkClear_mem]; rfl
    · rfl
  generalize (if (t.cause == 8) = true then walkClear (leaveReef s).hart.csr.ptroot t.info (leaveReef s) else leaveReef s) = u at g ⊢
  rw [← g]
  split
  · split <;> rfl
  · rfl

theorem trapAt_mem (t : TrapRec) (s : State) : (trapAt t s).mem = s.mem := deliver_mem _ _ _
theorem waitFor_mem' (w : Wait) (s : State) : (waitFor w s).mem = s.mem := rfl

theorem scalarTrap_mem (t : TrapRec) (s : State) : (scalarTrap t s).mem = s.mem := by
  unfold scalarTrap trapBehind; split
  · rfl
  · split
    · exact trapAt_mem _ _
    · rfl

theorem decodeTrap_mem (t : TrapRec) (s : State) : (decodeTrap t s).mem = s.mem := by
  unfold decodeTrap trapBehind; split
  · rfl
  · split
    · exact trapAt_mem _ _
    · rfl

theorem vtrapItem_mem (t : TrapRec) (it : Item) (r : Word) (s : State) : (vtrapItem t it r s).mem = s.mem := by
  unfold vtrapItem; exact deliver_mem _ _ _

theorem vtrap_mem (t : TrapRec) (w : Word) (s : State) : (vtrap t w s).mem = s.mem := by
  unfold vtrap; split
  · rfl
  · exact vtrapItem_mem _ _ _ _

/-- What the decoder's checks answer keeps a property that traps and the meaning keep. -/
theorem gated_keeps (P : State → Prop) (i : Instr) (f : State → State) (s : State) (ht : ∀ t, P (decodeTrap t s))
    (hf : P (f s)) : P (gated i f s) := by
  unfold gated
  split
  · exact hf
  · split
    · exact ht _
    · exact hf

/-- What the watch gate answers keeps a property that waits, traps and the meaning keep. -/
theorem watchGate_keeps (P : State → Prop) (f : State → State) (s : State) (hw : ∀ w, P (waitFor w s))
    (ht : ∀ t, P (scalarTrap t s)) (hf : P (f s)) : P (watchGate f s) := by
  unfold watchGate
  split
  · exact hw _
  · split
    · exact hw _
    · dsimp only
      split
      · exact ht _
      · exact hf

theorem watchGateIf_keeps (P : State → Prop) (b : Bool) (f : State → State) (s : State) (hw : ∀ w, P (waitFor w s))
    (ht : ∀ t, P (scalarTrap t s)) (hf : P (f s)) : P (watchGateIf b f s) := by
  unfold watchGateIf
  split
  · exact watchGate_keeps P f s hw ht hf
  · exact hf

end Sys2Proof.Machine
end

