-- ==== Sys2Proof/Tests/Slice0.lean ====
section
/-! SUPPORT. Tests of the model, all by the kernel's evaluation. The words of the decode tests are written out from the
encoding tables of the spec (R27-R49): each as its fields with the place of their lowest bit. The terms of the WellFormed
tests each break one rule. The witnesses show, for each statement with hypotheses, states and operands that meet them. -/

namespace Sys2Proof.Tests

open Sys2Proof.Machine Sys2Proof.Safety

set_option Elab.async false

/-! ### Decoding, by words written out from the spec -/

/-- The word with the given field values, each with the place of its lowest bit. -/
def word (l : List (Nat × Nat)) : Word := BitVec.ofNat 64 (l.map fun x => x.1 * 2 ^ x.2).sum

/-- The word decodes to the instruction, and the instruction encodes to the word. -/
def means (w : Word) (i : Instr) : Bool :=
  (match decode w with
   | .ok j => j == i
   | .error _ => false) && encode i == w

/-- R30: sd at 45, sa at 40, sb at 35, sc at 30. -/
def meansR (major sd sa sb sc : Nat) (l : List (Nat × (RFmt → Instr))) : Bool :=
  l.all fun x => means (word [(major, 58), (x.1, 50), (sd, 45), (sa, 40), (sb, 35), (sc, 30)])
    (x.2 ⟨BitVec.ofNat 5 sd, BitVec.ofNat 5 sa, BitVec.ofNat 5 sb, BitVec.ofNat 5 sc⟩)

/-- R31: sd at 45, sa at 40, imm32 at 0. -/
def meansI (major sd sa imm : Nat) (l : List (Nat × (IFmt → Instr))) : Bool :=
  l.all fun x => means (word [(major, 58), (x.1, 50), (sd, 45), (sa, 40), (imm, 0)])
    (x.2 ⟨BitVec.ofNat 5 sd, BitVec.ofNat 5 sa, BitVec.ofNat 32 imm⟩)

/-- R32: sd at 45, sa at 40, sb at 35, sc at 30, scope at 27, imm24 at 0. -/
def meansM (major sd sa sb sc scope imm : Nat) (l : List (Nat × (MFmt → Instr))) : Bool :=
  l.all fun x => means (word [(major, 58), (x.1, 50), (sd, 45), (sa, 40), (sb, 35), (sc, 30), (scope, 27), (imm, 0)])
    (x.2 ⟨BitVec.ofNat 5 sd, BitVec.ofNat 5 sa, BitVec.ofNat 5 sb, BitVec.ofNat 5 sc, BitVec.ofNat 3 scope, BitVec.ofNat 24 imm⟩)

/-- R33: cond at 54, sd at 45, sa at 40, sb at 35, imm32 at 0. -/
def meansB (major sd sa sb imm : Nat) (l : List (Nat × (BFmt → Instr))) : Bool :=
  l.all fun x => means (word [(major, 58), (x.1, 54), (sd, 45), (sa, 40), (sb, 35), (imm, 0)])
    (x.2 ⟨BitVec.ofNat 5 sd, BitVec.ofNat 5 sa, BitVec.ofNat 5 sb, BitVec.ofNat 32 imm⟩)

/-- R34: CV at 57, vd at 45, va at 40, Ca at 39, vb at 34, Cb at 33, vc at 28, Cc at 27, mk at 24, DT at 23, ZM at 22, MD at
18, ss at 13, SB at 12, imm12 at 0. -/
def meansV (major : Nat) (f : VFmt) (l : List (Nat × (VFmt → Instr))) : Bool :=
  l.all fun x => means (word [(major, 58), (f.cv.toNat, 57), (x.1, 50), (f.vd.toNat, 45), (f.va.toNat, 40), (f.ca.toNat, 39),
    (f.vb.toNat, 34), (f.cb.toNat, 33), (f.vc.toNat, 28), (f.cc.toNat, 27), (f.gm.toNat, 24), (f.dt.toNat, 23), (f.zm.toNat, 22),
    (f.md.toNat, 18), (f.ss.toNat, 13), (f.sb.toNat, 12), (f.imm.toNat, 0)]) (x.2 f)

/-- R35: CV at 57, vd at 45, sa at 40, sb at 35, Ci at 34, scope at 31, AQRL at 30, mk at 24, DT at 23, ZM at 22, imm22 at 0. -/
def meansVM (major : Nat) (f : VMFmt) (l : List (Nat × (VMFmt → Instr))) : Bool :=
  l.all fun x => means (word [(major, 58), (f.cv.toNat, 57), (x.1, 50), (f.vd.toNat, 45), (f.sa.toNat, 40), (f.sb.toNat, 35),
    (f.ci.toNat, 34), (f.scope.toNat, 31), (f.aqrl.toNat, 30), (f.gm.toNat, 24), (f.dt.toNat, 23), (f.zm.toNat, 22),
    (f.imm.toNat, 0)]) (x.2 f)

/-- R37: acc at 47, slotA at 42, slotB at 37, H at 36, sa at 31, sb at 26, imm26 at 0. -/
def meansT (major : Nat) (f : TFmt) (l : List (Nat × (TFmt → Instr))) : Bool :=
  l.all fun x => means (word [(major, 58), (x.1, 50), (f.acc.toNat, 47), (f.slotA.toNat, 42), (f.slotB.toNat, 37), (f.h.toNat, 36),
    (f.sa.toNat, 31), (f.sb.toNat, 26), (f.imm.toNat, 0)]) (x.2 f)

/-- A V word with every field zero but vd, va and the tag of its operands. -/
def v0 : VFmt := ⟨false, 3, 1, false, 0, false, 0, false, 0, false, false, 0, 0, false, 0⟩
/-- A VM word with vd, sa and an offset. -/
def m0 : VMFmt := ⟨false, 3, 1, 0, false, 0, false, 0, false, false, 0x3FFFF8⟩
/-- A T word with every field zero. -/
def t0 : TFmt := ⟨0, 0, 0, false, 0, 0, 0⟩

-- R43, R44, R73: the SALU major.
theorem test_decode_salu : (meansR 0x01 3 31 2 0 [(1, .add), (2, .sub), (3, .and), (4, .or), (5, .xor), (6, .andn), (7, .sll),
    (8, .srl), (9, .sra), (10, .mul), (11, .mulh)] && meansR 0x01 31 1 2 0 [(12, .mulhu), (13, .div), (14, .divu), (15, .rem),
    (16, .remu), (17, .min), (18, .max), (19, .minu), (20, .maxu), (21, .slt), (22, .sltu)] &&
    meansR 0x01 3 1 0 0 [(23, .clz), (24, .ctz), (25, .popc)] && meansR 0x01 3 1 2 31 [(26, .sel)]) = true := by decide +kernel

-- R44, R75: the SIMM major.
theorem test_decode_simm : (meansI 0x02 3 1 0xFFFFFFF0 [(1, .addi), (2, .andi), (3, .ori), (4, .xori), (8, .slti), (9, .sltiu),
    (11, .lih)] && meansI 0x02 3 1 63 [(5, .slli), (6, .srli), (7, .srai)] && meansI 0x02 3 0 0xFFFFFFFF [(10, .li)]) = true := by
  decide +kernel

-- R46: op in [6:4], size in [3:2], U in bit 1, ordered in bit 0.
theorem test_decode_smem : (meansM 0x03 3 1 0 0 0 0xFFFFF8 [(16, (Instr.lb · false)), (18, (Instr.lbu · false)), (20, (Instr.lh · false)),
    (22, (Instr.lhu · false)), (24, (Instr.lw · false)), (26, (Instr.lwu · false)), (28, (Instr.ld · false)), (32, (Instr.sb · false)), (36, (Instr.sh · false)),
    (40, (Instr.sw · false)), (44, (Instr.sd · false))] && meansM 0x03 3 1 0 0 5 8 [(17, (Instr.lb · true)), (19, (Instr.lbu · true)), (21, (Instr.lh · true)),
    (23, (Instr.lhu · true)), (25, (Instr.lw · true)), (27, (Instr.lwu · true)), (29, (Instr.ld · true)), (33, (Instr.sb · true)), (37, (Instr.sh · true)),
    (41, (Instr.sw · true)), (45, (Instr.sd · true))] && meansM 0x03 3 1 0 0 0 8 [(48, .wldB), (52, .wldH), (56, .wldW), (60, .wldD)]) = true := by
  decide +kernel

-- R47: op * 8 + size * 4 + aq * 2 + rl.
theorem test_decode_samo : (meansM 0x04 3 1 2 0 3 8 [(10, (Instr.amoadd · false true false)), (17, (Instr.amoand · false false true)),
    (27, (Instr.amoor · false true true)), (39, (Instr.amoxor · true true true))] && meansM 0x04 3 1 2 0 0 0 [(40, (Instr.amomin · false false false)),
    (52, (Instr.amomax · true false false)), (60, (Instr.amominu · true false false)), (64, (Instr.amomaxu · false false false)),
    (72, (Instr.amoswap · false false false))] && meansM 0x04 3 1 2 4 0 0 [(80, (Instr.amocas · false false false))] &&
    meansM 0x04 3 1 2 4 4 0 [(87, (Instr.amocas · true true true))]) = true := by decide +kernel

-- R49: branches by cond, BMZ and BMNZ with a mask number in sb; JAL and JALR.
theorem test_decode_branches : (meansB 0x05 0 1 2 0xFFFFFFFE [(0, .beq), (1, .bne), (2, .blt), (3, .bge), (4, .bltu), (5, .bgeu)] &&
    meansB 0x05 0 0 7 2 [(6, .bmz), (7, .bmnz)]) = true := by decide +kernel

-- R44, R45: SYS.
theorem test_decode_sys : (meansI 0x07 0 0 77 [(1, .scall), (3, .brk)] && meansI 0x07 7 0 0x001 [(5, .csrrd)] &&
    meansI 0x07 7 4 0x103 [(6, .csrwr), (7, .csrset), (8, .csrclr)] && meansI 0x07 0 0 (8 + 3) [(9, .fence)] &&
    [(2, Instr.eret), (4, .wfe), (10, .ifence), (11, .nop)].all (fun x => means (word [(0x07, 58), (x.1, 50)]) x.2)) = true := by
  decide +kernel

-- R44, R45: CFG, PROV, SYNC, ENG and SUP.
theorem test_decode_cfg_to_sup : (meansI 0x08 4 3 0x23 [(1, .setvl)] && meansI 0x08 4 0 0x15 [(2, .vtag), (3, .vretag)] &&
    meansR 0x08 4 3 0 0 [(4, .vtagrd)] && meansI 0x08 4 0 0xFFFFFFFE [(5, .fork)] && means (word [(0x08, 58), (6, 50)]) .join &&
    meansR 0x09 4 3 2 0 [(1, .pvrd)] && meansR 0x09 4 3 0 0 [(2, .pvctx), (7, .tpprobe)] && means (word [(0x09, 58), (3, 50)]) .pvclr &&
    meansI 0x09 4 0 0xFFFFFFFE [(4, .wchk)] && means (word [(0x09, 58), (5, 50)]) .wclr && meansR 0x09 0 3 2 0 [(6, .discard)] &&
    meansI 0x0A 4 3 (31 * 8 + 3) [(1, .bar)] && meansR 0x0A 0 3 2 5 [(2, .wmpub)] && meansR 0x0A 4 3 2 5 [(3, .wmwait)] &&
    meansR 0x0A 4 3 2 0 [(4, .launch)]) = true := by decide +kernel

theorem test_decode_eng_and_sup : (meansR 0x0B 4 3 0 0 [(1, .copy), (2, .decomp), (3, .sread), (4, .gate), (5, .twait), (6, .tpoll)] &&
    meansR 0x0C 4 3 0 0 [(1, .vsave), (3, .frsave), (5, .xfreeze), (10, .gateinst)] &&
    meansR 0x0C 0 3 0 0 [(2, .vrestore), (4, .frload), (6, .xthaw)] && meansR 0x0C 4 3 2 0 [(7, .reserve)] &&
    meansR 0x0C 0 3 2 0 [(8, .migrate), (9, .tlbinv), (11, .pgfree)]) = true := by decide +kernel

-- R44: VINT and VMULI.
theorem test_decode_vint : (meansV 0x10 { v0 with cv := true, ca := true, vb := 2, cb := true, gm := 2, dt := true, zm := true } [(1, .vadd),
    (2, .vsub), (5, .vand), (6, .vor), (7, .vxor), (8, .vandn), (9, .vsll), (10, .vsrl), (11, .vsra)] &&
    meansV 0x10 { v0 with vb := 31 } [(12, .vmin), (13, .vmax), (14, .vminu), (15, .vmaxu), (16, .vabsd), (17, .vsadd), (18, .vssub)] &&
    meansV 0x10 { v0 with vb := 2, vc := 5, imm := 6 } [(3, .vadc), (4, .vsbc)] &&
    meansV 0x11 { v0 with ss := 9, sb := true } [(2, .vmulh), (3, .vmulhu), (6, .vwmul)] &&
    meansV 0x11 { v0 with vb := 2, md := 8 } [(1, .vmul), (4, .vmac), (5, .vdot16)]) = true := by decide +kernel

-- R44: VCMPM and MASK.
theorem test_decode_vcmpm_and_mask : (meansV 0x12 { v0 with vb := 2, md := 9 } [(1, .vcmp)] &&
    meansV 0x12 { v0 with vb := 2, vc := 7 } [(2, .vsel)] && meansV 0x12 v0 [(3, .vmv)] &&
    meansV 0x12 { v0 with va := 0, ss := 9 } [(4, .vsplat)] && meansV 0x12 { v0 with imm := 5 } [(5, .vext)] &&
    meansV 0x12 { v0 with va := 0, ss := 9, imm := 5 } [(6, .vins)] && meansV 0x13 { v0 with vb := 2 } [(1, .mand), (2, .mor), (3, .mxor),
    (4, .mandn)] && meansV 0x13 v0 [(5, .mnot), (9, .mpopc), (10, .mfirst), (11, .mlast)] &&
    meansV 0x13 { v0 with imm := 128 + 64 } [(6, .mshl), (7, .mshr)] && meansV 0x13 { v0 with va := 0, imm := 1 } [(8, .mset)] &&
    meansV 0x13 { v0 with ss := 9 } [(12, .mbit)]) = true := by decide +kernel

-- R44: VFP, VFSPEC and VCVT.
theorem test_decode_vfp : (meansV 0x14 { v0 with vb := 2, md := 6 } [(1, .vfadd), (2, .vfsub), (3, .vfmul), (8, .vfdiv)] &&
    meansV 0x14 { v0 with vb := 2, vc := 4, cc := true } [(4, .vfma), (5, .vfms), (6, .vfnma), (7, .vfnms)] &&
    meansV 0x14 { v0 with md := 5 } [(9, .vfsqrt)] && meansV 0x14 { v0 with vb := 2 } [(10, .vfmin), (11, .vfmax)] &&
    meansV 0x14 { v0 with vb := 2, md := 7 } [(12, .vfcmp)] && meansV 0x14 v0 [(13, .vfclass), (14, .vfabs), (15, .vfneg)] &&
    meansV 0x15 v0 [(1, .vfrcp), (2, .vfrsq), (3, .vfexp2), (4, .vflog2)] &&
    meansV 0x16 { v0 with md := 9, imm := 0x3FF } [(1, .vcvt)] && meansV 0x16 v0 [(2, .vwiden)] &&
    meansV 0x16 { v0 with md := 12, imm := 1 } [(3, .vnarrow)] && meansV 0x16 { v0 with vc := 7, imm := 10 } [(4, .vscale), (5, .vquant)]) =
    true := by decide +kernel

-- R44: VRED, VPERM and VPIX.
theorem test_decode_vred_and_vperm : (meansV 0x17 { v0 with imm := 7, md := 8 } [(1, .vred), (3, .vscan)] &&
    meansV 0x17 { v0 with ss := 9, sb := true, imm := 24 } [(2, .vfred), (4, .vfscan)] &&
    meansV 0x17 { v0 with va := 0, imm := 1 } [(5, .vsegpack)] && meansV 0x18 { v0 with vb := 2 } [(1, .vperm), (4, .vzip)] &&
    meansV 0x18 { v0 with imm := 0xFFF } [(2, .vslideup), (3, .vslidedn), (7, .vbcast)] && meansV 0x18 { v0 with imm := 1 } [(5, .vunzip)] &&
    meansV 0x18 { v0 with gm := 2 } [(6, .vcompress)] && meansV 0x19 { v0 with imm := 31 } [(1, .vunpk)] &&
    meansV 0x19 { v0 with md := 8, imm := 31 } [(2, .vpackpx)]) = true := by decide +kernel

-- R44, R48: VLOAD, VSTORE, VAMO (op * 8 + O * 4) and KMEM.
theorem test_decode_vector_memory : (meansVM 0x1A { m0 with cv := true, gm := 2, dt := true, zm := true } [(1, .vld), (5, .vwld)] &&
    meansVM 0x1A { m0 with sb := 2, scope := 5, aqrl := true } [(2, .vlds)] && meansVM 0x1A { m0 with sb := 2, ci := true } [(3, .vldx),
    (4, .vldxo)] && meansVM 0x1A { m0 with sb := 2 } [(6, .vwlds)] && meansVM 0x1B m0 [(1, .vst)] && meansVM 0x1B { m0 with sb := 2 }
    [(2, .vsts), (3, .vstx), (4, .vstxo)] && meansVM 0x1C { m0 with sb := 2 } [(8, .vamoadd), (16, .vamoand), (24, .vamoor), (32, .vamoxor),
    (40, .vamomin), (48, .vamomax), (56, .vamominu), (64, .vamomaxu), (72, .vamoswap)] && meansVM 0x1C { m0 with sb := 2 } [(12, .vamooadd),
    (20, .vamooand), (28, .vamooor), (36, .vamooxor), (44, .vamoomin), (52, .vamoomax), (60, .vamoominu), (68, .vamoomaxu),
    (76, .vamooswap)] && meansVM 0x1D m0 [(1, .kld), (2, .kst)]) = true := by decide +kernel

-- R36: slot at 53, CW at 52, vo1 at 47, vo2 at 42, vi1 at 37, C1 at 36, vi2 at 31, C2 at 30, vi3 at 25, C3 at 24, mk at 21, DT at
-- 20, sp at 15, sd at 10; R44: XMGT and CHAN.
theorem test_decode_reef_and_channels : (means (word [(0x20, 58), (5, 53), (1, 52), (1, 47), (2, 42), (3, 37), (1, 36), (4, 31), (1, 30),
    (6, 25), (1, 24), (2, 21), (1, 20), (7, 15), (8, 10)]) (.xop ⟨5, true, 1, 2, 3, true, 4, true, 6, true, 2, true, 7, 8⟩) &&
    meansR 0x21 4 3 0 0 [(1, .bind)] && meansR 0x21 15 0 0 0 [(2, .unbind)] && meansR 0x21 4 3 15 0 [(3, .xstat)] &&
    meansR 0x22 4 3 2 0 [(1, .chopen), (4, .chrecv), (5, .chwait), (6, .chstat)] && meansR 0x22 0 3 0 0 [(2, .chclose)] &&
    meansR 0x22 0 3 2 4 [(3, .chsend)]) = true := by decide +kernel

-- R44: MOP and MTILE.
theorem test_decode_matrix : (meansT 0x28 { t0 with acc := 5, slotA := 3, slotB := 31, h := true } [(1, .mma), (3, .mmab)] &&
    meansT 0x28 { t0 with acc := 5, slotA := 3, slotB := 4 } [(2, .mman)] && meansT 0x28 { t0 with acc := 7, sa := 3, sb := 4, imm := 1185 } [(4, .macinit)] && meansT 0x28 { t0 with acc := 7 } [(5, .mdrain), (6, .mzero)] &&
    meansT 0x28 { t0 with sa := 3, sb := 4 } [(7, .mstat)] && meansT 0x29 { t0 with slotA := 31 } [(1, .mclaim), (2, .mrels)] &&
    meansT 0x29 { t0 with slotA := 31, h := true, sa := 3, sb := 4, imm := 4 + 13 * 8 } [(3, .mload)] &&
    meansT 0x29 { t0 with slotA := 31, sa := 3, sb := 4 } [(4, .mfill)] && meansT 0x29 { t0 with slotA := 31, sa := 3, imm := 2 } [(5, .mhdr)]) =
    true := by decide +kernel

-- The worked words of the spec: vadd v3, v1, v2^ ?m2; lw.aq.die s5, -16(sp); and its unordered form.
theorem test_decode_worked_words : (means 0x4004610A02000000 (.vadd { v0 with vb := 2, cb := true, gm := 2 }) &&
    means 0x0C64BD0010FFFFF0 (.lw ⟨5, 29, 0, 0, 2, 0xFFFFF0⟩ true) && means 0x0C60BD0000FFFFF0 (.lw ⟨5, 29, 0, 0, 0, 0xFFFFF0⟩ false)) =
    true := by decide +kernel

-- R43, R44, R50: words that are no instruction. A zero word, reserved majors, FN 0 and FN past the list, CV outside V and VM, a
-- scope code of 6, a nonzero zero field, a reserved op of SMEM, VAMO with FN[0] set, MD 7 as a rounding field.
theorem test_decode_rejects : ([word [], word [(0x0D, 58), (1, 50)], word [(0x3F, 58), (1, 50)], word [(0x01, 58)], word [(0x01, 58), (27, 50)],
    word [(0x01, 58), (1, 57), (1, 50)], word [(0x03, 58), (25, 50), (6, 27)], word [(0x01, 58), (1, 50), (1, 0)],
    word [(0x03, 58), (64, 50)], word [(0x1C, 58), (9, 50)], word [(0x14, 58), (1, 50), (7, 18)], word [(0x01, 58), (23, 50), (2, 35)]].all
    fun w => match decode w with
      | .ok _ => false
      | .error _ => true) = true := by decide +kernel

/-! ### Well-formedness: one ill-formed term for each check -/

/-- None of the terms is an instruction word. -/
def illFormed (l : List Instr) : Bool := l.all fun i => !i.wf
/-- A scalar word with no field but the given ones. -/
def r0 : RFmt := ⟨0, 0, 0, 0⟩
/-- An immediate word. -/
def i0 (imm : BitVec 32) : IFmt := ⟨0, 0, imm⟩
/-- A load or store word. -/
def s0 : MFmt := ⟨3, 1, 0, 0, 0, 8⟩
/-- A reef word. -/
def x0 : XFmt := ⟨0, false, 1, 0, 2, false, 0, false, 0, false, 0, false, 0, 0⟩

-- R28, R29: register fields that a form does not use; R31: bits of an immediate past its field.
theorem test_wf_zero_fields : illFormed [.add { r0 with sc := 1 }, .clz { r0 with sb := 1 }, .discard { r0 with sd := 1 },
    .pvctx { r0 with sb := 1 }, .slli (i0 64), .li ⟨1, 1, 0⟩, .csrrd ⟨1, 1, 0⟩, .csrwr (i0 4096), .setvl (i0 64), .vtag ⟨1, 1, 0⟩,
    .vretag (i0 1024), .scall ⟨1, 0, 0⟩] = true := by decide +kernel

-- R38: scope codes and zero scope fields; R32, R356: unused register fields of SMEM and SAMO.
theorem test_wf_scopes : illFormed [.lw { s0 with scope := 1 } false, .lw { s0 with scope := 6 } true, .lw { s0 with sb := 1 } false,
    .sd { s0 with sc := 1 } true, .wldB { s0 with scope := 1 }, .amoadd { s0 with sc := 1 } true false false,
    .amoadd { s0 with scope := 2 } true false false, .amocas { s0 with scope := 7 } true true false, .wmpub { r0 with sc := 6 },
    .wmwait { r0 with sc := 8 }, .bar (i0 4), .bar (i0 0)] = true := by decide +kernel

-- R49: BMZ names a mask in sb; R359: the kinds of FENCE; R100: PVRD; R132: slot fields.
theorem test_wf_scalar_rules : illFormed [.beq ⟨1, 0, 0, 0⟩, .bmz ⟨0, 1, 0, 0⟩, .bmnz ⟨0, 0, 8, 0⟩, .jal ⟨0, 1, 0, 0⟩, .jalr ⟨0, 0, 1, 0⟩,
    .fence (i0 0), .fence (i0 40), .fence (i0 14), .pvrd { r0 with sb := 4 }, .pvrd { r0 with sb := 2, sa := 8 }, .bind { r0 with sd := 16 },
    .xstat { r0 with sb := 16 }] = true := by decide +kernel

-- R40, R41, R42: governing mask fields, second sources, mask and scale numbers.
theorem test_wf_vector_fields : illFormed [.vadd { v0 with dt := true }, .vadd { v0 with zm := true }, .vext { v0 with gm := 1 },
    .vadd { v0 with ss := 1 }, .vadd { v0 with vb := 1, sb := true }, .vsel { v0 with sb := true }, .vmv { v0 with vb := 1 },
    .vsplat { v0 with va := 1 }, .vadd { v0 with vc := 1 }, .vsel { v0 with vc := 8 }, .vadc { v0 with imm := 8 },
    .vcmp { v0 with vd := 8 }] = true := by decide +kernel

-- R39: MD as a rounding field, with and without saturation; R121, R123, R201: immediates.
theorem test_wf_vector_modes : illFormed [.vfadd { v0 with md := 7 }, .vcvt { v0 with md := 15 }, .vmul { v0 with md := 1 },
    .vcmp { v0 with md := 10 }, .vfcmp { v0 with md := 8 }, .vcvt { v0 with imm := 1024 }, .vext { v0 with vb := 1 },
    .vext { v0 with sb := true, imm := 1 }, .mshl { v0 with imm := 0 }, .mshr { v0 with imm := 65 }, .vfred { v0 with imm := 3 },
    .vfred { v0 with imm := 9, ss := 1 }] = true := by decide +kernel

theorem test_wf_masks_and_reductions : illFormed [.mand { v0 with gm := 1 }, .mand { v0 with va := 8 }, .mnot { v0 with vb := 1 },
    .mset { v0 with imm := 2, va := 0 }, .mbit { v0 with imm := 1 }, .vred { v0 with zm := true, gm := 1 }, .vred { v0 with imm := 8 },
    .vfscan { v0 with imm := 16 }, .vcompress { v0 with zm := true, gm := 1 }, .vunpk { v0 with imm := 32 }, .vunzip { v0 with imm := 2 },
    .vzip { v0 with sb := true }] = true := by decide +kernel

-- R35, R40, R124, R211: VM words.
theorem test_wf_vector_memory : illFormed [.vld { m0 with dt := true }, .vld { m0 with scope := 1 }, .vld { m0 with scope := 6, aqrl := true },
    .vld { m0 with sb := 1 }, .vlds { m0 with ci := true }, .vwld { m0 with aqrl := true }, .vwlds { m0 with ci := true },
    .vst { m0 with gm := 1, zm := true }, .vstx { m0 with scope := 1 }, .vamoadd { m0 with gm := 1, zm := true }, .kld { m0 with vd := 8 },
    .kst { m0 with gm := 1 }] = true := by decide +kernel

-- R36, R40: XOP; R299-R313: T words.
theorem test_wf_reef_and_matrix : illFormed [.xop { x0 with dt := true }, .xop { x0 with sd := 1 }, .mma { t0 with sa := 1 },
    .mman { t0 with h := true }, .mdrain { t0 with slotA := 1 }, .mstat { t0 with acc := 1 }, .mclaim { t0 with imm := 3 },
    .mclaim { t0 with acc := 1 }, .mrels { t0 with imm := 1 }, .mload { t0 with imm := 0 }, .mfill { t0 with h := true },
    .mhdr { t0 with imm := 3 }] = true := by decide +kernel

theorem test_wf_matrix_immediates : illFormed [.macinit t0, .macinit { t0 with imm := 1024 + 16 * 10 + 2 + 4 },
    .macinit { t0 with imm := 1024 + 16 * 10 + 8 + 2 }, .macinit { t0 with imm := 1024 + 16 * 11 + 512 }, .macinit { t0 with imm := 1024 + 16 * 10 },
    .macinit { t0 with slotB := 1, imm := 1024 + 16 * 10 + 1 }, .mload { t0 with imm := 1 }, .mload { t0 with imm := 1 + 8 * 11 + 256 },
    .mload { t0 with imm := 3 + 8 * 11 }, .mload { t0 with h := true, imm := 1 + 8 * 11 }, .mload { t0 with slotB := 1, imm := 1 + 8 * 11 },
    .illegalWord 0] = true := by decide +kernel

/-! ### States for the witnesses -/

/-- A page of 1 GiB at address 0, readable, writable and executable by the user, accessed and modified (R321). -/
def page (u : TlbUnit) : TlbEntry := ⟨0, 0, 0, 30, 0xDF, u⟩
/-- A hart in user mode with eight lane groups, over that page, which every translation structure holds. -/
def user : State :=
  { State.reset with
    hart := { Hart.initial 0 0 with status := .running, laneN := 8 }
    core := { Core.initial 0 with tlb := [page .scalar, page .instr, page .large, page (.unitStride 0)] } }
/-- The state with another hart. -/
def withHart (f : Hart → Hart) (s : State) : State := { s with hart := f s.hart }
/-- The state with other control registers. -/
def withCsr (f : Csrs → Csrs) (s : State) : State := withHart (fun h => { h with csr := f h.csr }) s
/-- The hart in another mode. -/
def inMode (m : Mode) (s : State) : State := withHart (fun h => { h with mode := m }) s
/-- The partition of the hart's cove, with a hypervisor's handler and a roster of two. -/
def part1 : Part := ⟨1, 1, 0, [], [], [(0, 64)], none, none, [5, 6], [], [], 0, 0, 0x200, 0⟩
/-- The hart in that partition. -/
def tenant (s : State) : State := { s with parts := [part1] }
/-- Scalar register values. -/
def withS (l : List (BitVec 5 × Word)) (s : State) : State := l.foldl (fun s x => s.setS x.1 x.2 0) s
/-- Bytes laid in memory from an address on. -/
def withBytes (a : Nat) (l : List Byte) (s : State) : State := { s with mem := memWriteList a l s.mem }
/-- A double laid in memory. -/
def withWord (a : Nat) (w : Word) (s : State) : State := withBytes a (toLeBytes 8 w.toNat) s

/-- `MemoryCanonical`, `GateOpen`, `ToSupervisor`, `FenceOpen`, `Allowed`, and a place with no redirect, as tests. -/
def canonicalB (s : State) : Bool := memWf s.mem
def gateOpenB (s : State) : Bool := s.mqEntered && resolved s.hart.watch && struckBits 0 s.hart.watch == 0
def toSupervisorB (c : Nat) (s : State) : Bool :=
  s.hart.cur.isNone && s.postedDone && c != 3 && (s.hart.mode == .user || (s.hart.mode == .supervisor && c != 4 && c != 5 && !nestOf s.hart.csr.tr.status))
def fenceOpenB (reads writes : Bool) (s : State) : Bool :=
  s.mqEntered && s.queueDone && (!reads || !s.core.isl.fillsOf (postedBefore s)) && (!writes || !s.core.isl.writesOf (postedBefore s))
def allowedB (i : Instr) (s : State) : Bool := s.hart.cur.isSome || gate i s == none
def plainB (pa : Nat) (s : State) : Bool := !s.inTide pa

theorem canonicalB_iff (s : State) : canonicalB s = true ↔ MemoryCanonical s := Iff.rfl
theorem gateOpenB_iff (s : State) : gateOpenB s = true ↔ GateOpen s := by simp [gateOpenB, GateOpen, and_assoc]
theorem fenceOpenB_iff (r w : Bool) (s : State) : fenceOpenB r w s = true ↔ FenceOpen r w s := by
  cases r <;> cases w <;> simp [fenceOpenB, FenceOpen, and_assoc]
theorem toSupervisorB_iff (c : Nat) (s : State) : toSupervisorB c s = true ↔ ToSupervisor c s := by
  simp [toSupervisorB, ToSupervisor, and_assoc]
theorem allowedB_iff (i : Instr) (s : State) : allowedB i s = true ↔ Allowed i s := by simp [allowedB, Allowed]
theorem plainB_unredirected (pa : Nat) (s : State) (h : plainB pa s = true) : Unredirected pa s := by
  simp [plainB] at h; exact .inl h

/-- What holds of the place and the state that an access answers. -/
def reached (x : Acc) (p : Nat → State → Bool) : Bool :=
  match x with
  | .ok pa u => p pa u
  | _ => false

/-! ### Witnesses of the hypotheses: decoding, the step, traps -/

theorem witness_EncodedWordsDecodeBack : (Instr.add ⟨31, 31, 31, 0⟩).wf = true ∧ (Instr.lw ⟨31, 31, 0, 0, 5, 0xFFFFFF⟩ true).wf = true ∧
    (Instr.vadc { v0 with vc := 7, imm := 7 }).wf = true ∧ (Instr.mload { t0 with imm := 3 + 8 * 17 + 512 }).wf = true := by decide +kernel

theorem witness_DecodedWordIsItsEncoding : means 0x0404611000000000 (.add ⟨3, 1, 2, 0⟩) = true := by decide +kernel

/-- The state about to run a word at address 0, with the words that follow. -/
def aboutTo (l : List Word) : State :=
  withBytes 0 (l.flatMap fun w => toLeBytes 8 w.toNat) { user with grants := [⟨0, 0⟩] }

-- A scalar word, and a vector word with no word of its convoy after it, by a grant; and a FORK, by a turn at the vector-class slot.
theorem witness_StepRunsDecodedInstruction : ([(0x0404611000000000, Instr.add ⟨3, 1, 2, 0⟩, false, false),
    (0x4004610A02000000, .vadd { v0 with vb := 2, cb := true, gm := 2 }, true, true),
    (encode (.fork ⟨4, 0, 2⟩), .fork ⟨4, 0, 2⟩, false, false)].all fun x =>
      let i := x.2.1
      let fork := slotOf i (aboutTo []) == .vector
      let s0 := { aboutTo [x.1] with grants := [] }
      let s := if fork then { s0 with vgrants := [⟨0, 0⟩] } else { s0 with grants := [⟨0, 0⟩] }
      s.pending.isEmpty && (s.grants == (if fork then [] else [s.hart.id])) && s.vgrants == (if fork then [s.hart.id] else []) &&
      (slotOf i s0 == .vector) == fork && !s0.levelStops i && s.core.num == s.hart.core && s.hart.mayIssue && s.hart.deferred.isEmpty &&
      s.hart.queue.isEmpty && s.hart.heldBy == none && s.hart.pc.toNat % 8 == 0 && means x.1 i && !convoyBit x.1 &&
      s0.hasSlot i && isQueued i s0 == x.2.2.2 && !scalarHolds i s0 && (inConvoyFormat i && (gate i s0).isNone) == x.2.2.1 &&
      (match fetchAt s.hart.pc s0 with
       | (.ok _ u, w) => w == x.1 && u.mayPost 1 && s0.mayPost 1 && s0.startsAtOnce i && !drainHolds [i] u.jobSeq u &&
         (!x.2.2.1 || (match convoyTail allWords (s.hart.pc + 8) u with
         | .words [] v => !drainHolds [i] v.jobSeq v
         | _ => false))
       | _ => false)) = true := by decide +kernel

theorem witness_ArrivalsComeFirst : { user with pending := [Instr.epochTick] }.pending = Instr.epochTick :: [] ∧
    (user.pending = [] ∧ user.grants = [] ∧ user.vgrants = []) ∧
    (let s := { user with vgrants := [⟨0, 0⟩] }
     s.pending = [] ∧ s.grants = [] ∧ s.vgrants = s.hart.id :: [] ∧ s.core.num = s.hart.core ∧ s.hart.mayIssue = true) ∧
    (let s := { State.reset with vgrants := [⟨0, 0⟩] }
     s.pending = [] ∧ s.grants = [] ∧ s.vgrants = s.hart.id :: [] ∧ s.core.num = s.hart.core ∧ s.hart.mayIssue = false) ∧
    (let s := { State.reset with grants := [⟨0, 0⟩] }
     s.pending = [] ∧ s.grants = s.hart.id :: [] ∧ s.core.num = s.hart.core ∧ s.hart.mayIssue = false) := by decide +kernel

theorem witness_TrapEntryToSupervisor : toSupervisorB 1 user = true ∧ toSupervisorB 255 (inMode .supervisor user) = true ∧ 255 < 256 := by
  decide +kernel

theorem witness_TrapEntryToHypervisor :
    ((tenant user).htvec ≠ 0 ∧ (tenant user).hart.mode ≠ .hypervisor) ∧
    (let s := withCsr (fun c => { c with tr := { c.tr with status := 8 } }) (inMode .supervisor (tenant user))
     s.htvec ≠ 0 ∧ s.hart.mode = .supervisor ∧ nestOf s.hart.csr.tr.status = true) ∧
    (let s := withCsr (fun c => { c with htr := { c.htr with status := 8 } }) (inMode .hypervisor user)
     s.hart.mode = .hypervisor ∧ nestOf s.hart.csr.htr.status = true) := by decide +kernel

theorem witness_SystemCallsAndBreakpoints : (user.hart.mode = .user ∧ user.postedDone = true) ∧
    (let s := inMode .supervisor (tenant user)
     s.hart.mode = .supervisor ∧ s.postedDone = true ∧ s.htvec ≠ 0) ∧ toSupervisorB 6 user = true ∧
    (inMode .hypervisor user).hart.mode = .hypervisor := by decide +kernel

theorem witness_EretReturns : (let s := inMode .supervisor user
     s.hart.mode = .supervisor ∧ exitOf s.hart.csr.tr.status = false ∧ s.hart.csr.tr.pc.toNat % 8 = 0) ∧
    (let s := inMode .hypervisor user
     s.hart.mode = .hypervisor ∧ exitOf s.hart.csr.htr.status = false ∧ s.hart.csr.htr.pc.toNat % 8 = 0) ∧
    user.hart.mode = .user := by decide +kernel

theorem witness_IllegalWordsTrap : (user.hart.pc.toNat % 8 = 0 ∧ toSupervisorB 1 user = true) ∧
    (let s := withHart (fun h => { h with pc := 4 }) user
     s.hart.pc.toNat % 8 ≠ 0 ∧ toSupervisorB 2 s = true) ∧
    (means 0x4204610002000000 (.vadd { v0 with cv := true, vb := 0, gm := 2 }) = true ∧ (0x4204610002000000 : Word).getLsbD 57 = true) := by
  decide +kernel

theorem witness_PrivilegeAndFeatureTraps : (user.hart.cur = none ∧ user.hart.mode = .user ∧ user.postedDone = true) ∧
    (let s := { user with parts := [{ part1 with hfmask := 0x7F }] }
     s.hart.pastDecode = false ∧ s.hart.mode ≠ .hypervisor ∧ s.htvec ≠ 0 ∧ s.postedDone = true ∧ (List.range 7).all (s.hfmask.getLsbD ·) = true) := by
  decide +kernel

/-! ### Scalar instructions, control registers and memory -/

theorem witness_DivisionResults :
    (let s := withS [(1, 7)] user
     s.getS 2 = 0) ∧
    (let s := withS [(1, 0x8000000000000000), (2, 0xFFFFFFFFFFFFFFFF)] user
     s.getS 1 = 0x8000000000000000 ∧ s.getS 2 = 0xFFFFFFFFFFFFFFFF ∧ s.getS 2 ≠ 0) := by decide +kernel

theorem witness_HighProductsAndBitCounts : 64 ≤ 64 ∧ 0 ≤ 64 ∧ (withS [(1, 1)] user).getS 1 = 1 := by decide +kernel

theorem witness_BranchesTransfer : (user.hart.pc + (0xFFFFFFFF : BitVec 32).signExtend 64 * 8).toNat % 8 = 0 := by decide +kernel

theorem witness_JumpsLink : ((user.getS 1 + (2 : BitVec 32).signExtend 64 * 8).toNat % 8 = 0) ∧
    (let s := withS [(1, 4)] user
     (s.getS 1 + (2 : BitVec 32).signExtend 64 * 8).toNat % 8 ≠ 0 ∧ s.hart.mode = .user ∧ s.postedDone = true) := by decide +kernel

theorem witness_CvBitOnlyInVectorFormats :
    let w : Word := word [(1, 58), (1, 57), (1, 50)]
    w.getLsbD 57 = true ∧ Sys2Proof.fmtOf (majorOf w) (fnOf w) ≠ some .v ∧ Sys2Proof.fmtOf (majorOf w) (fnOf w) ≠ some .vm := by
  decide +kernel

theorem witness_RegisterZero : (31 : BitVec 5) ≠ 0 ∧ (30 : BitVec 5) ≠ 31 := by decide

-- No such register; one that user mode may not reach; one it may only read, that a higher mode writes, and one that none writes;
-- and one that it may read.
theorem witness_ControlRegisterAccess : csrAccess 0x0FF = none ∧
    (csrAccess 0x100).all (fun x => x.1 == .none) = true ∧ (csrAccess 0x100).isSome = true ∧
    (csrAccess 0x00C).all (fun x => x.1 == .ro && (x.2.1 == .rw || x.2.2 == .rw)) = true ∧ (csrAccess 0x00C).isSome = true ∧
    (csrAccess 0x001).all (fun x => x.1 == .ro && x.2.1 != .rw && x.2.2 != .rw) = true ∧ (csrAccess 0x001).isSome = true := by
  decide +kernel

theorem witness_ControlRegisterWrites : ((0x003, 0x3F) : Nat × Word) ∈ [((0x003, 0x3F) : Nat × Word)] ∧ (0x003 : BitVec 32).toNat % 4096 = 0x003 ∧
    (1 : BitVec 5) ≠ 0 ∧ 0x003 < 0x100 ∧ (inMode .hypervisor user).hart.mode = .hypervisor ∧ 0x106 < 0x200 ∧
    (inMode .supervisor user).hart.mode = .supervisor := by decide +kernel

-- A rounding mode taken and one refused; PVCTX in the roster and past it; EVADDR of a page and of none; a selected partition and none.
theorem witness_ControlRegisterWrites_values : (¬ (6 ≤ (5 : Word).toNat % 8) ∧ 6 ≤ (6 : Word).toNat % 8) ∧
    ((3 : Word).toNat % 2 ^ 16 < 2 ^ (inMode .supervisor (tenant user)).roster ∧ 2 ^ (tenant user).roster ≤ (4 : Word).toNat % 2 ^ 16) ∧
    (match xlat 8 .read (user.setS 3 0 0), xlat 0x80000000 .read (user.setS 3 0 0) with
     | .ok _, .error _ => true
     | _, _ => false) = true ∧
    ((withCsr (fun c => { c with partSel := 1 }) (tenant user)).selPart ≠ none ∧ user.selPart = none) ∧
    ((findBy Part.num 1 (tenant user).parts).isSome = true ∧ (findBy Part.num 2 (tenant user).parts).isSome = false) := by decide +kernel

theorem witness_SystemFormsComplete : user.hart.event = false ∧ (withHart (fun h => { h with event := true }) user).hart.event = true ∧
    gateOpenB user = true ∧ (i0 19).imm.getLsbD 4 = true ∧ 2 ≤ (i0 19).imm.toNat % 8 ∧ user.mqEntered = true ∧ fenceOpenB true true user = true ∧
    fenceOpenB false true user = true ∧ fenceOpenB true true (withHart (fun h => { h with queue := [h.mkItem [encode (.vld m0)]] }) user) = false := by
  decide +kernel

/-- A page table of one table per level and a leaf of 64 KiB, and a PTROOT to it (R319-R322). -/
def paged : State := withCsr (fun c => { c with ptroot := 0x100000 })
  (withWord 0x100000 0x110001 (withWord 0x110000 0x120001 (withWord 0x120000 0x130001 (withWord 0x130000 0x140001
    (withWord 0x140000 0x11F { user with core := Core.initial 0 })))))

-- A walk, and an entry of the TLB.
theorem witness_TranslationEffects : canonicalB paged = true ∧ reached (access 8 8 .write 3 false paged) (fun pa _ => pa == 8) = true ∧
    (match paged.walkFrom 8 4 (rootOf paged.hart.csr.ptroot) with
     | .ok l => plainB l.at_ paged
     | .error _ => false) = true ∧ canonicalB user = true ∧ reached (access 8 8 .write 3 false user) (fun pa _ => pa == 8) = true := by
  decide +kernel

-- The last place of a page for each size, and its first.
theorem witness_LoadsReadMemory : ([(1, 0x3FFFFFF7), (2, 0x3FFFFFF6), (4, 0x3FFFFFF4), (8, 0x3FFFFFF0), (8, 0xFFFFFFFFFFFFFFF8)].all fun x =>
    let s := withS [(1, BitVec.ofNat 64 x.2)] user
    let a := effective s0 s
    a.toNat % x.1 == 0 && reached (access a x.1 .read 2 true s) (fun pa _ => pa == (x.2 + 8) % 2 ^ 64)) = true := by decide +kernel

theorem witness_StoresWriteMemory : gateOpenB user = true ∧ ([(1, 0x3FFFFFF7), (2, 0x3FFFFFF6), (4, 0x3FFFFFF4), (8, 0x3FFFFFF0)].all fun x =>
    let s := withS [(1, BitVec.ofNat 64 x.2)] user
    let a := effective s0 s
    a.toNat % x.1 == 0 && reached (access a x.1 .write 3 false s) (fun pa u => pa % x.1 == 0 && canonicalB u && plainB pa u &&
      writeCheck a pa (s.getP s0.sd ||| (u.ctx ||| s.getP s0.sa)) 3 u == none)) = true := by decide +kernel

/-- The user hart with data of set 1 in s3, over a frame whose ceiling is empty. -/
def underCeiling : State := { user.setS 3 5 1 with prov := [⟨0, 0, 0⟩] }
/-- The user hart with a page in the host window. -/
def overHost : State :=
  let s := user.setS 3 5 1
  { s with core := { s.core with tlb := [⟨0, 0, 0x40000000000, 30, 0xDF, .scalar⟩, ⟨0, 0, 0x40000000000, 30, 0xDF, .large⟩] } }

theorem witness_AccessChecksTrap : (gateOpenB user && user.hart.remote.isNone && allowedB (.sd s0 true) user && allowedB (.amocas s0 true true true) user &&
      toSupervisorB 7 user && (effective s0 (withS [(1, 1)] user)).toNat % 2 != 0 && (effective s0 (withS [(1, 4)] user)).toNat % 8 != 0) = true ∧
    ((effective s0 underCeiling).toNat % 8 == 0 && reached (access (effective s0 underCeiling) 8 .write 3 false underCeiling) (fun pa u =>
      !u.inHost pa && !u.outsideZone pa && !pvSubset ((u.provAt pa).cur ||| (underCeiling.getP 3 ||| (u.ctx ||| underCeiling.getP 1)))
        (u.provAt pa).ceil) && toSupervisorB 9 (touch (effective s0 underCeiling) .write underCeiling)) = true ∧
    (reached (access (effective s0 overHost) 8 .write 3 false overHost) (fun pa u => u.inHost pa) &&
      overHost.getP 3 != 0 && toSupervisorB 22 (touch (effective s0 overHost) .write overHost)) = true := by decide +kernel

/-- A confirmed watch entry. -/
def entry0 : WatchEntry := ⟨0, 0, 1, 1, .confirmed, 0, [], 0⟩

-- A hit in the host window; a full table; a table with one place left.
theorem witness_WatchedLoadsRecord : allowedB (.wldD s0) user = true ∧ (user.dry = false ∧ user.mqEntered = true) ∧
    reached (access (effective s0 overHost) 8 .read 5 true overHost) (fun pa u => u.inHost pa) = true ∧
    ([31, 32].all fun n =>
      let s := withHart (fun h => { h with watch := List.replicate n entry0 }) user
      (effective s0 s).toNat % 8 == 0 && reached (access (effective s0 s) 8 .read 5 true s) (fun pa u => !u.inHost pa &&
        u.hart.watch.length == n)) = true := by decide +kernel

-- Both orders of the operand and the stored value under the signed comparison, and an equal one.
theorem witness_ScalarAtomics : ([(0, 0), (5, 0), (0xFFFFFFFFFFFFFFFF, 0)].all fun x =>
    let s := withS [(2, x.1)] user
    let f := { s0 with sb := 2, sc := 4 }
    gateOpenB s && s.hart.remote.isNone && (effective f s).toNat % 8 == 0 && reached (access (effective f s) 8 .write 4 true s) (fun pa u =>
      !u.inHost pa && !u.inPeer pa && pa % 8 == 0 && canonicalB u && plainB pa u && u.homeNum pa 8 == x.2 &&
      writeCheck (effective f s) pa (s.getP 2 ||| s.getP 4 ||| (u.ctx ||| s.getP 1)) 4 u == none &&
      writeCheck (effective f s) pa (s.getP 2 ||| 0 ||| (u.ctx ||| s.getP 1)) 4 u == none)) = true := by decide +kernel
/-- The user hart with a page at a place outside own memory. -/
def beyond (pa : Nat) : State := { user with core := { user.core with tlb := [⟨0, 0, pa, 30, 0xDF, .scalar⟩] } }
/-- A matrix fill of the user hart that its queue has handed over and that has not been performed. -/
def filling (s : State) : State :=
  let x : MqItem := ⟨⟨0, 0⟩, 0, encode (.mfill t0), 0, 0, 0, 0, 0, .user, [], 0, 0⟩
  { s with core := { s.core with isl := { Island.empty with fills := [x] } } }
-- The host window, and a peer of the zone: the request, with the hart's fills performed and not; and its answers.
theorem witness_ScalarAtomics_outside : ([(0x40000000000, true), (0x80000000000, false)].all fun x => [true, false].all fun done =>
    let b := { beyond x.1 with zone := [1], prov := [⟨0x8000000, 0, 0⟩] }
    let s := if done then b else filling b
    s.hart.remote.isNone && gateOpenB s && (effective s0 s).toNat % 8 == 0 && reached (access (effective s0 s) 8 .write 4 true s) (fun pa u =>
      u.inHost pa == x.2 && u.inPeer pa == !x.2 && fenceOpenB true true u == done &&
      writeCheck (effective s0 s) pa (s.getP 0 ||| s.getP 0 ||| (u.ctx ||| s.getP 1)) 4 u == none &&
      writeCheck (effective s0 s) pa (s.getP 0 ||| 0 ||| (u.ctx ||| s.getP 1)) 4 u == none)) = true ∧
    ([(none, none), (some (5 : Word), none), (none, some 2)].all fun x =>
      let q : Remote := ⟨0x80000000000, ⟨1, 8, 0, 0, 0⟩, x.1, x.2, 0, 0⟩
      let s := withHart (fun h => { h with remote := some q }) (beyond 0x80000000000)
      s.hart.remote == some q && s.postedDone) = true := by decide +kernel
-- A compare that fails, with release, after the hart's fills and before.
theorem witness_ScalarAtomics_failing : ([true, false].all fun done =>
    let b := withS [(2, 5)] user
    let s := if done then b else filling b
    let f := { s0 with sb := 2, sc := 4 }
    gateOpenB s && s.hart.remote.isNone && reached (access (effective f s) 8 .write 4 true s) (fun pa u => u.homeNum pa 8 != 5 &&
      !u.inHost pa && !u.inPeer pa && pa % 8 == 0 && canonicalB u && plainB pa u && fenceOpenB true true u == done &&
      writeCheck (effective f s) pa (s.getP 2 ||| s.getP 4 ||| (u.ctx ||| s.getP 1)) 4 u == none)) = true := by decide +kernel

/-! ### Configuration, provenance and tidepool -/

-- The same level; another level with all earlier work done; and with an item that another hart posted before it.
theorem witness_VectorLengthIsSet : (user.level = 1 ∧ (0x23 : BitVec 32).toNat / 16 % 4 = 2 ∧ user.hart.core = user.core.num ∧
      user.hart.cur = none ∧ user.hart.levelSeq = none ∧ user.levelReady user.jobSeq = true) ∧
    (let s := { user with harts := [{ Hart.initial 0 1 with status := .running, queue := [user.hart.mkItem [encode (.vadd v0)]] }], jobSeq := 1 }
     s.level = 1 ∧ s.hart.levelSeq = none ∧ s.levelReady s.jobSeq = false) := by decide +kernel

-- The last legal type code, a block length on each scaled type, FP6, and the widest group at its last place.
theorem witness_TagsAreWritten : [0x14, 13 + 7 * 128, 14 + 128, 17 + 128, 15, 16, 1 + 3 * 32].all (fun imm =>
    let x := imm % 32
    let ty := if x == 15 || x == 16 then (tagImm imm).ty else x
    decide (ty < 21) && (imm / 128 % 8 == 0 || ty == 13 || ty == 14 || ty == 17)) = true ∧ 24 % 2 ^ (0x61 / 32 % 4) = 0 := by decide +kernel

/-- A context number of a core whose hart has four lane groups. -/
def forks : State := withHart (fun h => { h with laneN := 4 }) user
/-- A hart with a child that has ended. -/
def joins : State := withHart (fun h => { h with children := [⟨1, 4, 4, some 1⟩] }) user
/-- The user hart on a core whose contexts 1 to 7 all run. -/
def crowded : State := { user with harts := (List.range 7).map fun k => { Hart.initial 0 (k + 1) with status := .running } }

theorem witness_ForkAndJoin : ([.fork (i0 2), .join].all fun i => [forks, joins, user].all fun s =>
      allowedB i s && s.postedDone && gateOpenB s && s.core.num == s.hart.core) = true ∧
    (withHart (fun h => { h with laneN := 1 }) user).hart.laneN ≤ 1 ∧ (2 ≤ crowded.hart.laneN ∧ crowded.freeHart = none) ∧
    (2 ≤ forks.hart.laneN ∧ forks.freeHart = some 1) ∧
    (joins.hart.children.getLast? = some ⟨1, 4, 4, some 1⟩) ∧
    (user.hart.children = [] ∧ user.hart.parent = none) ∧
    (let s := { withHart (fun h => { h with parent := some 0, ix := 1 }) user with harts := [Hart.initial 0 0] }
     s.hart.children = [] ∧ s.hart.parent = some 0 ∧ 0 ≠ s.hart.ix ∧ (s.hartAt ⟨s.hart.core, 0⟩).id = ⟨s.hart.core, 0⟩ ∧ allowedB .join s = true) := by
  decide +kernel

-- Sets below and past a roster of two.
theorem witness_ProvenanceForms : ((3 : Word).toNat < 2 ^ min (tenant user).roster 16 ∧ 2 ^ min (tenant user).roster 16 ≤ (4 : Word).toNat) ∧
    user.postedDone = true ∧ user.hart.enginesDone = true ∧ gateOpenB user = true := by decide +kernel

/-- A hart with one watch entry in a state. -/
def watching (x : WatchState) : State := withHart (fun h => { h with watch := [{ entry0 with state := x, pv := 2 }] }) user

theorem witness_WatchChecks : (allowedB (.wchk (i0 2)) user && allowedB .wclr user && user.mqEntered && (watching .struck).mqEntered) = true ∧
    resolved (watching .pending).hart.watch = false ∧
    (resolved (watching .confirmed).hart.watch = true ∧ struckBits 0 (watching .confirmed).hart.watch = 0) ∧
    (resolved (watching .struck).hart.watch = true ∧ struckBits 0 (watching .struck).hart.watch ≠ 0 ∧
      ((watching .struck).hart.pc + (2 : BitVec 32).signExtend 64 * 8).toNat % 8 = 0) := by decide +kernel

/-- A hart over a tidepool page of 64 KiB, frame 0 of die 0, whose slot its partition holds. -/
def poolside : State :=
  let s := tenant user
  { s with slots := [⟨0, 0, 1⟩], core := { s.core with tlb := [⟨0, 0, 0x60000000000, 16, 0x2DF, .scalar⟩, ⟨0, 0x10000, 0, 16, 0xDF, .scalar⟩] } }

-- A whole page, and nothing; a probe of a tidepool page and of another.
theorem witness_TidepoolForms : ([65536, 128].all fun n =>
      n % 128 == 0 && (match discardParts 0 n poolside (n / 65536 + 2) with
        | .ok ([x], u) => x.pa == 0x60000000000 && x.len == n && x.pa % 128 == 0 && decide (x.pa % 65536 + n ≤ 65536) && u.inTide x.pa &&
          canonicalB u && (u.tideAt (x.pa / 65536)).state == .resident
        | _ => false)) = true ∧
    ([(0, true), (0x10000, false)].all fun x => match xlat (BitVec.ofNat 64 x.1) .read poolside with
      | .ok (pa, e, u) => !u.frameBusy pa && (recordTide pa e u).inTide pa == x.2 && ((recordTide pa e u).tideAt (pa / 65536)).frame == pa / 65536
      | _ => false) = true := by decide +kernel

theorem witness_InstructionsKeepMemoryCanonical : canonicalB paged = true ∧ ([.add r0, .lw s0 false, .scall (i0 0), .nop].all fun i =>
    match exec i user with
    | .next _ => true
    | _ => false) = true := by decide +kernel

/-! ### Vector instructions -/

/-- `GroupReady`, `DestReady`, `SourcesReady` and `Apart`, as tests. -/
def groupB (r : BitVec 5) (s : State) : Bool := (s.tagOf r).code != 0 && s.groupOk r && s.holdsElems r s.vl
def destB (vd : BitVec 5) (d : Tag) (s : State) : Bool :=
  vd.toNat % d.count == 0 && (d.width == 0 || decide (s.vl ≤ capacity d.width d.count s.level))
def sourcesB (f : VFmt) (s : State) : Bool := groupB f.va s && (f.sb || (groupB f.vb s && s.tagOf f.vb == s.tagOf f.va))
def apartB (f : VFmt) (d : Tag) (s : State) : Bool := !s.overlapSrc f.vd d f.va && (f.sb || !s.overlapSrc f.vd d f.vb)

theorem groupB_iff (r : BitVec 5) (s : State) : groupB r s = true ↔ GroupReady r s := by simp [groupB, GroupReady, and_assoc]
theorem destB_iff (vd : BitVec 5) (d : Tag) (s : State) : destB vd d s = true ↔ DestReady vd d s := by simp [destB, DestReady]
theorem sourcesB_iff (f : VFmt) (s : State) : sourcesB f s = true ↔ SourcesReady f s := by
  cases h : f.sb <;> simp [sourcesB, SourcesReady, groupB_iff, h]
theorem apartB_iff (f : VFmt) (d : Tag) (s : State) : apartB f d s = true ↔ Apart f d s := by
  cases h : f.sb <;> simp [apartB, Apart, h]

/-- A hart with vl and vector registers of given tags: type code, grouping code, block-length code. -/
def tagged (vl : Nat) (l : List (Nat × Nat × Nat × Nat)) : State :=
  withHart (fun h => l.foldl (fun h x => h.setV x.1 ⟨0, ⟨BitVec.ofNat 5 x.2.1, BitVec.ofNat 2 x.2.2.1, BitVec.ofNat 3 x.2.2.2⟩, false, 0⟩) h)
    (withCsr (fun c => { c with vl := vl }) user)
/-- v3 from v1 and v2. -/
def three : VFmt := { v0 with vb := 2 }

-- The first and the last integer type at a full register, and no element at all.
theorem witness_VectorIntegerResults : ([(1, 1024), (8, 128), (7, 0)].all fun x =>
    let s := tagged x.2 [(1, x.1, 0, 0), (2, x.1, 0, 0)]
    let t := s.tagOf 1
    decide (1 ≤ t.code) && decide (t.code ≤ 8) && sourcesB three s && destB 3 t s && apartB three t s && destB 3 (unsignedOf t) s &&
    apartB three (unsignedOf t) s) = true := by decide +kernel

-- The carries and VMAC; VWMUL into a pair; VDOT16.
theorem witness_VectorCarryAndProducts : ([1, 8].all fun x =>
    let s := tagged 4 [(1, x, 0, 0), (2, x, 0, 0), (3, x, 0, 0)]
    let t := s.tagOf 1
    decide (1 ≤ t.code) && decide (t.code ≤ 8) && sourcesB three s && destB 3 t s && apartB three t s && groupB 3 s && s.tagOf 3 == t) = true ∧
    (let s := tagged 4 [(1, 6, 0, 0), (2, 6, 0, 0)]
     let f := { three with vd := 4 }
     (decide ((s.tagOf 1).code ≤ 6) && (s.tagOf 1).g != 3 && sourcesB f s && destB 4 (wideTag (s.tagOf 1)) s &&
       !s.overlapAny 4 (wideTag (s.tagOf 1)) 1 && !s.overlapAny 4 (wideTag (s.tagOf 1)) 2) = true) ∧
    ([3, 4].all fun x =>
      let s := tagged 4 [(1, x, 0, 0), (2, x, 0, 0), (3, x + 2, 0, 0)]
      sourcesB three s && (s.tagOf 3).g == (s.tagOf 1).g && groupB 3 s && s.holdsElems 1 (2 * s.vl) && s.holdsElems 2 (2 * s.vl) &&
      !s.overlapAny 3 (s.tagOf 3) 1 && !s.overlapAny 3 (s.tagOf 3) 2) = true := by decide +kernel

-- VINS and VEXT at the last element of a register and just past it.
theorem witness_VectorComparesAndMoves : (let s := tagged 4 [(1, 5, 0, 0), (2, 5, 0, 0), (3, 5, 0, 0)]
    let t := s.tagOf 1
    sourcesB three s && groupB 1 s && groupB 2 s && s.tagOf 2 == t && destB 3 t s && !s.overlapSrc 3 t 1 && !s.overlapSrc 3 t 2 && groupB 3 s &&
    t.code != 0 && s.groupOk 1 && (s.tagOf 3).code != 0 && s.groupOk 3 && decide (255 < capacity 32 1 s.level) &&
    decide (capacity 32 1 s.level ≤ 256) && decide ((9 : Nat) ≤ 9)) = true := by decide +kernel

-- A mask with no bit below vl, and one with its first and last bit at places 1 and 3.
theorem witness_MaskInstructionResults : (let s := tagged 4 []
    (List.range s.vl).all fun k => !(s.hart.mreg 1).bits.testBit k) = true ∧
    (let s := withHart (fun h => h.setM 1 ⟨10, 0⟩) (tagged 4 [])
     let b := (s.hart.mreg 1).bits
     1 < s.vl ∧ b.testBit 1 = true ∧ b.testBit 0 = false ∧ 3 < s.vl ∧ b.testBit 3 = true) := by decide +kernel

theorem witness_VectorFloatResults : ([9, 10, 11, 12].all fun x =>
    let s := tagged 4 [(1, x, 0, 0), (2, x, 0, 0), (4, x, 0, 0)]
    let f := { three with vc := 4 }
    let t := s.tagOf 1
    decide (9 ≤ t.code) && decide (t.code ≤ 12) && destB 3 t s && groupB 1 s && !s.overlapSrc 3 t 1 && sourcesB f s && apartB f t s &&
    groupB 4 s && s.tagOf 4 == t && !s.overlapSrc 3 t 4) = true := by decide +kernel

-- VFCLASS of each type; conversions of an integer, a float and a scaled type, the last with saturation.
theorem witness_VectorFloatComparesAndConversions : ([(9, 8), (10, 6), (11, 4), (12, 4)].all fun x =>
      let s := tagged 4 [(1, x.1, 0, 0), (2, x.1, 0, 0)]
      sourcesB three s && destB 3 ⟨BitVec.ofNat 5 x.2, 0, 0⟩ s && !s.overlapSrc 3 ⟨BitVec.ofNat 5 x.2, 0, 0⟩ 1) = true ∧
    ([(1, 10, false), (14, 17, false), (9, 8, true), (17, 14, true)].all fun x =>
      let s := tagged 4 [(1, x.1, 0, 0)]
      let y := tagImm x.2.1
      groupB 1 s && isCvt (s.tagOf 1).code && y.ok && isCvt y.ty && (!x.2.2 || isInt y.ty || y.ty == 14) && destB 3 y.tag s &&
      !s.overlapSrc 3 y.tag 1) = true ∧
    ([1, 17, 10].all fun x =>
      let s := tagged 4 [(1, x, 0, 0)]
      let d : Tag := ⟨BitVec.ofNat 5 (widenType x), 1, 0⟩
      groupB 1 s && widenType x != 0 && (s.tagOf 1).g != 3 && destB 4 d s && !s.overlapSrc 4 d 1) = true ∧
    ([(3, false, true), (10, true, false), (12, true, true)].all fun x =>
      let s := tagged 4 [(1, x.1, 0, 0)]
      let d := narrowType x.1 x.2.1
      groupB 1 s && d != 0 && (!x.2.2 || isInt d || d == 14) && destB 3 ⟨BitVec.ofNat 5 d, 0, 0⟩ s &&
      !s.overlapSrc 3 ⟨BitVec.ofNat 5 d, 0, 0⟩ 1) = true ∧
    ([(13, 9, 5), (17, 12, 0)].all fun x =>
      let s := tagged 4 [(1, x.1, 0, x.2.2), (2, x.2.1, 0, 0)]
      let y := tagImm x.2.1
      let z := tagImm (x.1 + 128 * x.2.2)
      groupB 1 s && isScaled (s.tagOf 1).code && y.ok && !beyondScale (s.govern 0).1 (s.tagOf 1).bl.toNat && destB 3 y.tag s &&
      !s.overlapSrc 3 y.tag 1 && groupB 2 s && z.ok && isScaled z.ty && !beyondScale (s.govern 0).1 z.bl && destB 4 z.tag s &&
      !s.overlapSrc 4 z.tag 2) = true := by decide +kernel

/-- Two segments of two elements: SEGMASK names m1, whose bit 2 starts the second (R199). -/
def segmented (l : List (Nat × Nat × Nat × Nat)) : State :=
  withHart (fun h => h.setM 1 ⟨4, 0⟩) (withCsr (fun c => { c with segmask := 1 }) (tagged 4 l))

theorem witness_ReductionsAndScans : (let s := segmented [(1, 1, 0, 0), (3, 1, 0, 0)]
    let t := s.tagOf 1
    groupB 1 s && s.groupOk 3 && s.holdsElems 3 s.vl && s.tagOf 3 == t && decide (1 ≤ t.code) && decide (t.code ≤ 8) && !s.overlapAny 3 t 1 &&
    !s.overlapSrc 3 t 1) = true ∧
    ([(0, false), (1, false), (24, true)].all fun x =>
      let s := segmented [(1, 11, 0, 0), (3, 10, 0, 0), (2, 10, 0, 0)]
      let f := { v0 with imm := BitVec.ofNat 12 x.1, sb := x.2 }
      tagReason (s.vfredCheck f) s == none && tagReason (s.fredReads f) s == none && !s.overlapAny 3 (s.tagOf 3) 1 &&
      !s.overlapSrc 3 (s.tagOf 3) 1) = true ∧
    (let s := segmented [(3, 8, 0, 0)]
     decide (1 ≤ (s.tagOf 3).code) && decide ((s.tagOf 3).code ≤ 8) && s.groupOk 3 && s.holdsElems 3 s.vl) = true := by decide +kernel

-- Each shift of the pixel forms at its largest.
theorem witness_PermutationResults : ([1, 17].all fun x =>
    let s := tagged 4 [(1, x, 0, 0), (3, x, 0, 0), (2, x, 0, 0), (4, 8, 0, 0)]
    let t := s.tagOf 1
    s.tagOf 3 == t && isPerm t.code && groupB 1 s && s.groupOk 3 && s.holdsElems 3 s.vl && !s.overlapAny 3 t 1 && groupB 2 s &&
    !s.overlapAny 3 t 2 && groupB 4 s && isInt (s.tagOf 4).code && !s.overlapAny 3 t 4 && s.tagOf 2 == t && s.holdsElems 3 (2 * s.vl)) = true ∧
    ([(18, 4, 6), (20, 6, 18)].all fun x =>
      let s := tagged 4 [(1, x.1, 0, 0), (3, x.2.1, 0, 0)]
      groupB 1 s && groupB 3 s && !s.overlapAny 3 (s.tagOf 3) 1 && isPixel (s.tagOf 1).code && isPixWide (s.tagOf 3).code &&
      decide (x.2.2 ≤ (s.tagOf 3).width - (s.tagOf 1).width) && !s.overlapAny 1 (s.tagOf 1) 3 && decide (15 ≤ (s.tagOf 3).width - 1)) = true := by
  decide +kernel

/-- A VM word at address 0 of s1 with v3 and the index v2. -/
def vm : VMFmt := { m0 with sb := 2, imm := 64 }
/-- The places that a translation answers meet a test. -/
def runsB (x : Except (Sum TrapRec Wait) (List PRun × State)) (p : List PRun → State → Bool) : Bool :=
  match x with
  | .ok (l, u) => p l u
  | .error _ => false
/-- `PlainRuns`, as a test that implies it. -/
def plainRunsB (l : List PRun) (s : State) : Bool :=
  l.all fun r => decide (1 ≤ r.n) && decide (r.n ≤ 8) && 65536 % r.n == 0 && r.pa % r.n == 0 && !s.inTide r.pa
theorem plainRunsB_plain (l : List PRun) (s : State) (h : plainRunsB l s = true) : PlainRuns l s := by
  intro r hr
  simp only [plainRunsB, List.all_eq_true, Bool.and_eq_true, decide_eq_true_eq, beq_iff_eq, Bool.not_eq_true'] at h
  obtain ⟨⟨⟨⟨h1, h2⟩, h3⟩, h4⟩, h5⟩ := h r hr
  exact ⟨h1, h2, h3, h4, .inl h5⟩

-- Unit stride with a packed width, a stride of 8, and indexes; with no element and with four.
theorem witness_VectorLoadsAndStores : ([0, 4].all fun n => [(17, 1), (5, 1), (8, 2)].all fun x =>
    let s := withS [(2, 8)] (tagged n [(3, x.1, 0, 0), (2, x.2, 0, 0)])
    [s.unitShape vm, s.strideShape vm, s.indexShape vm].all fun sh =>
      let els := activeOf (s.govern 0).1 s.vl
      (x.1 == 17 || isByteWidth (s.tagOf 3).width) && groupB 3 s && groupB 2 s && isInt (s.tagOf 2).code && !s.overlapSrc 3 (s.tagOf 3) 2 &&
      (x.1 == 17 || (sh.bad els == none && runsB (translateRuns sh.via .read 2 true (sh.runs els) s) (fun l _ => l.length == n) &&
        runsB (translateRuns sh.via .write 3 false (sh.runs els) s) (fun l u =>
          let b := u.addCtx sh.flow
          l.length == n && gateOpenB s && canonicalB b && plainRunsB l b &&
          (checkRuns (b.pvOf 3 ||| (b.govern 0).2 ||| b.vlPv ||| b.ctx) 3 b l).isNone)))) = true := by decide +kernel

theorem witness_VectorAtomics : ([(5, 1), (8, 8)].all fun x =>
    let s := tagged 2 [(3, x.1, 0, 0), (2, x.2, 0, 0)]
    let sh := s.indexShape vm
    let els := activeOf (s.govern 0).1 s.vl
    groupB 3 s && groupB 2 s && isInt (s.tagOf 2).code && gateOpenB s && sh.bad els == none &&
    s.hart.vreq.isNone && runsB (translateRuns sh.via .write 4 true (sh.runs els) s) (fun l u =>
      let b := u.addCtx sh.flow
      l.length == 2 && !u.dry && l.all (fun r => !u.inHost r.pa && !u.inPeer r.pa) && canonicalB b && plainRunsB l b &&
      (checkRuns (b.pvOf 3 ||| b.pvOf 2 ||| (b.govern 0).2 ||| b.vlPv ||| b.ctx) 4 b l).isNone)) = true := by decide +kernel

-- Elements in the host window and at a peer; and requests answered, still out, refused, and none left.
theorem witness_VectorAtomics_outside : ([(0x40000000000, true), (0x80000000000, false)].all fun x =>
      let b := tagged 2 [(3, 5, 0, 0), (2, 1, 0, 0)]
      let s := { b with core := { b.core with tlb := [⟨0, 0, x.1, 30, 0xDF, .large⟩] }, zone := [1], prov := [⟨0x8000000, 0, 0⟩] }
      let sh := s.indexShape vm
      let els := activeOf (s.govern 0).1 s.vl
      groupB 3 s && groupB 2 s && gateOpenB s && sh.bad els == none && s.hart.vreq.isNone &&
      runsB (translateRuns sh.via .write 4 true (sh.runs els) s) (fun l u =>
        let b := u.addCtx sh.flow
        l.length == 2 && !u.dry && l.all (fun r => u.isRemote r.pa && u.inHost r.pa == x.2) &&
        (checkRuns (b.pvOf 3 ||| b.pvOf 2 ||| (b.govern 0).2 ||| b.vlPv ||| b.ctx) 4 b l).isNone)) = true ∧
    (let r (a : Option Word) (e : Option Nat) : Flight := ⟨0, ⟨0x80000000000, ⟨1, 8, 0, 0, 0⟩, a, e, 0, 0⟩⟩
     let s (l : List Flight) := withHart (fun h => { h with vreq := some ⟨encode (.vamoadd vm), 1, 8, 0, 2, [], l⟩ }) user
     [[r none none], [r (some 5) none, r (some 6) none], [r (some 5) none, r none (some 1)]].all (fun l =>
       (s l).hart.vreq == some ⟨encode (.vamoadd vm), 1, 8, 0, 2, [], l⟩) = true) := by decide +kernel

-- Scale registers; watched loads with no element, in the host window, with a full table, and with one place left.
theorem witness_ScaleAndWatchedVectorAccess : (let base := user.getS vm.sa + vm.imm.signExtend 64
    base.toNat % 2 == 0 && runsB (translateRuns .unit .read 2 true (scaleRuns base) user) (fun l _ => l.length == 256) &&
    runsB (translateRuns .unit .write 3 false (scaleRuns base) user) (fun l u => gateOpenB user && canonicalB u && plainRunsB l u &&
      (checkRuns ((u.hart.kreg 3).pv ||| u.ctx) 3 u l).isNone)) = true ∧
    ([(0, 0, false), (2, 0, true), (2, 31, false), (2, 32, false)].all fun x =>
      let t := withHart (fun h => { h with watch := List.replicate x.2.1 entry0 }) (withS [(2, 16)] (tagged x.1 [(3, 8, 0, 0)]))
      let s := if x.2.2 then { t with core := overHost.core } else t
      allowedB (.vwld vm) s && groupB 3 s && [s.unitShape vm, s.strideShape vm].all fun sh =>
        let els := activeOf (s.govern 0).1 s.vl
        sh.bad els == none && runsB (translateRuns sh.via .read 5 true (sh.runs els) s) (fun l u => (u.addCtx sh.flow).vl == s.vl &&
          (x.1 == 0 || l.any (fun r => u.inHost r.pa) == x.2.2) && u.hart.watch.length == x.2.1)) = true := by decide +kernel

/-! ### Channels, synchronisation and engines -/

/-- A descriptor of one branch: a ring of two slots of one line at address 0, both ends on core 0, a window of 2 (R248). -/
def descr0 : Nat := 2 * 2 ^ 64 + 2 ^ 80 + 2 ^ 88 + 2 * 2 ^ 160
/-- A hart with that descriptor in memory at 0x40, which it reaches at 0x10040. -/
def opener : State := withS [(1, 0x10040)] (withBytes 0x40 (toLeBytes 64 descr0) poolside)
/-- Its channel as opened. -/
def chan0 : Chan := { (Descr.of descr0).chan 0x40 [0x6000000] 0 with sendOpen := true }
/-- Its branch, with tokens in the elastic buffer. -/
def branch0 : Branch := ⟨0, 2, 0, true, true, false, 1, 1, 0, 0, 1, 0, [[[⟨0, 5⟩, ⟨1, 0⟩]]], none, 0, 0, [], [], [], []⟩
/-- A hart with both ends of a channel open: handles 0 and 0x1001. -/
def piped (c : Chan) : State :=
  let s := withHart (fun h => h.setV 2 ⟨7, ⟨8, 0, 0⟩, false, 0⟩) (withCsr (fun c => { c with vl := 2 }) opener)
  { s with chans := [c], core := { s.core with ends := [⟨0, 0x40, 0, 0, 0⟩, ⟨1, 0x40, 1, 0, 0⟩] } }
/-- The channel with its branch. -/
def open0 : Chan := { chan0 with branches := [branch0] }

-- CHOPEN of the send end and of the receive end.
theorem witness_ChannelForms_open : ([0, 1].all fun sel =>
    let d := Descr.of (opener.loadNum 0x40 64)
    allowedB (.chopen r0) opener && (opener.getS 1).toNat % 64 == 0 && reached (access (opener.getS 1) 64 .read 2 true opener) (fun pa u =>
      pa == 0x40 && d.ok opener.roster opener.coreInPart && decide (sel ≤ d.nbr) &&
      (match ringPages d.ring ((d.ring.toNat % 65536 + d.nslot * d.slotl * 128 + 65535) / 65536) (u.addCtx (opener.getP 1)) with
       | some (l, v) =>
         let c := (v.chanAt pa).getD (d.chan pa l 0)
         v.chanAt pa == none && v.freeEnd == some 0 && c.prod == v.core.num && !c.sendOpen &&
         (sel == 0 || ((c.branch (sel - 1)).any fun b => b.core == v.core.num && !b.isOpen &&
           takeFrames b.core v (b.edepth * c.slotl) (v.heldFrames 0) == some []))
       | none => false))) = true := by decide +kernel

-- Both handles; CHCLOSE with and without an unpublished slot; CHSEND; CHRECV of tokens and of a closed channel.
theorem witness_ChannelForms_move : ((piped open0).handle 0).isSome = true ∧ ((piped open0).handle 0x1001).isSome = true ∧
    allowedB (.chclose r0) (piped open0) = true ∧ canonicalB (piped open0) = true ∧
    (open0.branch 0).isSome = true ∧ open0.published = open0.fills ∧ { open0 with fills := 1 }.published ≠ { open0 with fills := 1 }.fills ∧
    ([0, 5].all fun k =>
      let s := piped open0
      let c := open0
      let p := s.pvOf 2 ||| s.vlPv ||| s.segBits.2 ||| s.ctx
      let toks := sendToks s 2 k
      let w := (releaseAt c.scope (c.key / 128) s).mapHart fun h => { h with send := some ⟨toks, p⟩ }
      allowedB (.chsend r0) s && groupB 2 s && isPerm (s.tagOf 2).code && (ringCheck c p s).isNone && gateOpenB s && s.hart.send.isNone &&
      decide (1 ≤ c.slotl) && (sendRuns c.key p (toks.length + 1) toks w).1.isNone) = true ∧
    ([(open0, 1, 1), ({ open0 with branches := [{ branch0 with buf := [], filled := 0, seen := 0, ringTaken := 0 }], sendClosed := true }, 8, 0)].all fun x =>
      let s := piped x.1
      let d := s.tagOf 2
      let cap := capacity d.width d.count s.level
      allowedB (.chrecv r0) s && groupB 2 s && isPerm d.code && (match recvToks 0x40 0 cap d.width (cap + 2) (s.imgOf 2) s with
        | .ok (kind, n, _, _) => kind == x.2.1 && n == x.2.2
        | .error _ => false)) = true := by decide +kernel

-- CHWAIT past the limit, at the count, past the count, and with no counting branch; CHSTAT.
theorem witness_ChannelForms_count : allowedB (.chwait r0) (piped open0) = true ∧ open0.limitOf 0 = some 2 ∧ open0.countOf 0 = some 1 ∧
    (2 : Int) < 3 ∧ { open0 with branches := [{ branch0 with filled := 0 }] }.countOf 0 = some 2 ∧ open0.limitOf 1 = some 2 ∧
    open0.countOf 1 = some 1 ∧
    ({ open0 with branches := [{ branch0 with isOpen := false, closed := true }] } : Chan).limitOf 0 = none ∧ allowedB (.chstat r0) (piped open0) = true ∧
    (open0.branch 0).isSome = true ∧ (r0.sb = 0 ∧ { r0 with sb := 1 }.sb ≠ 0) ∧ open0.branches.length ≤ 8 := by decide +kernel

-- An episode that is over and one that is open; counts of 0, 1, 2 and 2560; watermarks below, at and above the value.
theorem witness_BarriersAndWatermarks : (let x : Arrival := ⟨512, 1, 0, 0, 0, 0⟩
    let b (n : Nat) : Barrier := ⟨512, 1, 0, 0, n, 2, 1⟩
    let s (n : Nat) := { withHart (fun h => { h with arrival := some x }) user with barriers := [b n] }
    (s 1).hart.arrival = some x ∧ x.episode < ((s 1).barrierAt x).episodes ∧ ((s 0).barrierAt x).episodes ≤ x.episode) ∧
    (user.hart.arrival = none ∧ gateOpenB user = true ∧ ¬ (1 ≤ 0) ∧
      (let b := user.barrierAt ⟨(user.unitOf 1).1, 1, (user.unitOf 1).2.1, 0, 0, 0⟩
       b.arrived = 0 ∧ b.arrived + 1 = 1 ∧ b.arrived + 1 ≠ 2560 ∧ 2560 ≤ 2560)) ∧
    ([0, 5, 6].all fun v =>
      let s := withS [(2, BitVec.ofNat 64 v)] (withWord 0x40 5 user)
      gateOpenB s && (0x40 : Nat) % 8 == 0 && reached (access 0x40 8 .write 3 false s) (fun pa u => !u.inHost pa && !u.inPeer pa &&
        pa % 8 == 0 && canonicalB u && plainB pa u && writeCheck 0x40 pa (s.getP 2 ||| u.ctx) 3 u == none &&
        (decide (u.homeNum pa 8 < v) == (v == 6))) && reached (access 0x40 8 .read 2 true s) (fun pa u =>
        !u.inHost pa && decide (v ≤ u.homeNum pa 8) == (v != 6))) = true := by decide +kernel

-- A watermark in the host window, and at a peer, whose answer is still to come, or has come.
theorem witness_BarriersAndWatermarks_outside : ([(0x40000000000, true), (0x80000000000, false)].all fun x =>
      let s := { beyond x.1 with zone := [1], prov := [⟨0x8000000, 0, 0⟩] }
      s.hart.remote.isNone && gateOpenB s && reached (access 0 8 .write 3 false s) (fun pa u => u.inHost pa == x.2 && u.inPeer pa == !x.2 &&
        writeCheck 0 pa (s.getP 2 ||| u.ctx) 3 u == none) && reached (access 0 8 .read 2 true s) (fun pa u => u.inHost pa == x.2)) = true ∧
    (let q : Remote := ⟨0x80000000000, ⟨8, 8, 0, 0, 0⟩, some 5, none, 0, 0⟩
     (withHart (fun h => { h with remote := some q }) user).hart.remote = some q) := by decide +kernel

/-- Control blocks of the engines: two doubles of operands in use, and the operands in order. -/
def blocks : List (Nat × Instr × List Word) :=
  [(1, .copy r0, [0x1000, 0x2000, 2 ^ 32, 0, 0, 5]), (2, .decomp r0, [0x1000, 0x2000, 1, 64, 2, 0]),
   (3, .sread r0, [0x1000, 63, 0, 65536, 0, 0]), (4, .gate r0, [0x1000, 64, 1, 0, 256, 0])]
/-- A tenant with a namespace bound at index 63 and a control block at 0x40. -/
def blocked (l : List Word) : State :=
  let s := withS [(1, 0x40)] { tenant user with parts := [{ part1 with ns := [(63, 1, 1, 0)] }] }
  l.zipIdx.foldl (fun s x => withWord (0x40 + 8 * x.2) x.1 s) s
/-- Tags 0 to n - 1, the first of them complete. -/
def tagList (n : Nat) : List EngTag := (List.range n).map fun k => ⟨k, if k == 0 then .done 0 else .running, k, 0⟩

-- Each engine with a free tag, the last one, and none.
theorem witness_EnginesAreIssued : (blocks.all fun x =>
      let s := blocked x.2.2
      allowedB x.2.1 s && reached (access 0x40 64 .read 2 true s) (fun pa u =>
        let ops := (List.range 6).map fun k => BitVec.ofNat 64 (bitsAt (u.loadNum pa 64) (64 * k) 64)
        ops == x.2.2 && blockOk x.1 ops s && (x.1 != 3 || (u.nsAt 63).isSome) && (x.1 != 4 || gateOpenB s))) = true ∧
    user.hart.freeTag = some 0 ∧ (withHart (fun h => { h with tags := tagList 63 }) user).hart.freeTag = some 63 ∧
    (withHart (fun h => { h with tags := tagList 64 }) user).hart.freeTag = none := by decide +kernel

/-- A launch queue of two slots at 0x20000, device-fed, its descriptor at 0x10000 (R391); HEAD and TAIL as given. -/
def queued (head tail : Word) (dev : Bool) : State :=
  let s := withS [(1, 0x40)] (withWord 0x40 9 (tenant user))
  { withWord 0x10030 head (withWord 0x10020 tail (withWord 0x10008 (2 + 2 ^ 40 + (if dev then 3 else 1) * 2 ^ 56) (withWord 0x10000 0x20000 s)))
    with qtable := some 0x10000 }

-- Tags out of range, running, complete and free; a queue that is full and one with a slot left.
theorem witness_EnginesAreIssued_tags_and_queues : (let s := withHart (fun h => { h with tags := tagList 64 }) user
    allowedB (.twait r0) s && allowedB (.tpoll r0) s && (match s.tagAnswer 64, s.tagAnswer 288, s.tagAnswer 1, s.tagAnswer 0, s.tagAnswer 256,
        user.tagAnswer 63 with
      | .bad, .bad, .running _, .word _ _, .word _ _, .word _ _ => true
      | _, _, _, _, _, _ => false)) = true ∧
    ([(0, 1), (0, 2)].all fun x =>
      let s := queued x.1 x.2 true
      allowedB (.launch r0) s && gateOpenB s && (match s.qdesc 0 with
        | some d => d.dev && s.part.map Part.num == some d.part && d.size == 2 && decide (d.size ≤ (d.tail - d.head).toNat) == (x.2 == 2) &&
          d.base + 64 * (d.tail.toNat % d.size) == (if x.2 == 1 then 0x20040 else 0x20000) && reached (access 0x40 64 .read 2 true (releaseFence 3 s))
          (fun pa u => pa == 0x40 && canonicalB u && plainB 0x20040 u && plainB 0x10020 u && u.deadFrame 0x20040 64 == none &&
            writeCheck 0x20040 0x20040 (u.loadPv pa ||| u.ctx) 3 u == none)
        | none => false)) = true := by decide +kernel

-- How many blocks a controller takes is the configuration's: either side may hold.
theorem witness_EnginesAreIssued_limit (ctl ns n : Nat) : maxBlocks ctl ns < n ∨ ¬ maxBlocks ctl ns < n := Classical.em _

/-! ### Matrix and reef -/

/-- A hart whose process has claimed slots 0 and 31 and accumulators 32 and 39, with `n` words in its matrix queue. -/
def claimed (n : Nat) : State :=
  let s := user
  let x : MqItem := ⟨s.hart.id, 0, 0, 0, 0, 0, 0, 0, .user, [], 0, 0⟩
  withHart (fun h => { h with mq := List.replicate n x }) { s with core := { s.core with isl := { Island.empty with
    claims := [⟨0, 0, false⟩, ⟨31, 0, false⟩, ⟨32, 0, false⟩, ⟨39, 0, false⟩] } } }

-- An empty queue and one with a single place; claimed and unclaimed numbers; the claim limits.
theorem witness_MatrixWordsArePosted : ([0, 63].all fun n =>
      let s := claimed n
      decide (s.hart.mq.length < 64) && [Instr.mma t0, .mdrain t0, .mhdr t0, .macinit t0, .mstat t0, .mclaim t0, .mrels t0, .mload t0,
        .mfill t0].all (allowedB · s) && s.claims 32 && s.claims 39 && s.claims 0 && s.claims 31 && !s.claims 33 && !s.claims 1) = true ∧
    (let s := claimed 0
     (s.isl.claimOf 1 = none ∧ (s.isl.claims.filter fun c => c.asid == 0 && (decide (32 ≤ c.num) == false)).length < s.claimLimit false) ∧
     (s.isl.claimOf 33 = none ∧ (s.isl.claims.filter fun c => c.asid == 0 && (decide (32 ≤ c.num) == true)).length < s.claimLimit true) ∧
     (s.isl.claimOf 31).isSome = true) ∧
    (let s := claimed 0
     (match fillPages (mloadParts 1 11 0 256) s with
      | .ok (l, _) => l.length == 128
      | .error _ => false) && reached (access 64 64 .read 6 true s) (fun pb x => pb == 64 && (x.homeByte pb).toNat != 2) &&
     (match fillPages (((64 : Word), 64) :: pageParts 2 128 32768) s with
      | .ok (l, u) => l.length == 2 && u.hart.watch.isEmpty
      | .error _ => false)) = true := by decide +kernel

/-- An image with one node, a P node that passes its input on, from vi1 to vo1 (R233-R236). -/
def image0 : Nat :=
  0x52454546 + 2 ^ 32 + 2 ^ 48 + 2 * 2 ^ 56 + 2 ^ 64 + 2 ^ 72 + 96 * 2 ^ 96 + 2 ^ 512 * 0 +
    2 ^ 640 * 0x80 + 2 ^ 704 * (0x88 * 2 ^ 16)
/-- A tenant with that image at 0x40. -/
def imaged : State := withS [(1, 0x40)] (withBytes 0x40 (toLeBytes 96 image0) (tenant user))
/-- A running opcode of hart 0 in a phase, with its nodes and edges empty. -/
def run0 (p : RPhase) : RRun :=
  let im : RImage := ⟨1, 1, 0, 0, [⟨0, 0, 0, 0, false, false, false, 0, 0⟩], [⟨0, 0x80, 0, 0, 0⟩, ⟨0, 0, 0, 0x88, 0⟩]⟩
  ⟨0, 0, 5, im, [], x0, 0, 0, 0, 0, [⟨0, 0, [], [], [], 0⟩], [[], []], [⟨0, 0, false⟩], [⟨0, 0, false⟩], [none, none], ⟨none, 0, false⟩, 0, 0, 0, false, p, none⟩
/-- A hart whose opcode runs. -/
def reefed (r : RRun) : State := { user with core := { user.core with reef := { Reef.empty with run := some r } } }

theorem witness_ReefForms : imaged.reefTurn = true ∧ allowedB (.bind r0) imaged = true ∧
    (match readImage 0x40 imaged with
     | .ok (im, _, _) => im.nodes.length == 1 && im.edges.length == 2
     | .error _ => false) = true ∧ allowedB (.unbind r0) user = true ∧ allowedB (.xstat r0) user = true ∧ user.bindOf 0 15 = none ∧
    (let s := { user with binds := [⟨0, 0, 15, 0x40, (run0 .running).img, 0⟩] }
     (s.bindOf 0 15).any (fun b => decide (b.img.iar ≤ 3) && decide (b.img.oar ≤ 3)) = true) ∧
    ([RPhase.running, .complete, .more].all fun p => allowedB (.xop x0) (reefed (run0 p)) && (reefed (run0 p)).core.reef.run == some (run0 p) &&
      (run0 p).hart == (reefed (run0 p)).hart.ix) = true := by decide +kernel

/-! ### The SUP major -/

/-- A tenant in supervisor mode, with s1 at 0x10000. -/
def super : State := withS [(1, 0x10000)] (inMode .supervisor (tenant user))
/-- The pieces of an area meet a test. -/
def areaB (x : Except (Sum TrapRec Wait) (List (Nat × Nat) × State)) (p : List (Nat × Nat) → State → Bool) : Bool :=
  match x with
  | .ok (l, u) => p l u
  | .error _ => false
/-- Whether a reading goes ahead. -/
def readsB {ε α : Type} (x : Except ε α) : Bool :=
  match x with
  | .ok _ => true
  | .error _ => false
/-- A saved area of 64 bytes that begin with a format number of 7, and for which addresses it stands. -/
def saved0 (addrs : List Word) : SavedFrame := ⟨toLeBytes 64 7, [], [], 0, 0, addrs, none, [], []⟩

-- The areas of VSAVE, FRSAVE and XFREEZE, at the first and at the last place in a page; VRESTORE; FRLOAD and XTHAW.
theorem witness_SupervisorFormsComplete_areas : ([((vsaveBytes super).length, 0x10000), (64, 0x1FFC0)].all fun x =>
      let s := withS [(1, BitVec.ofNat 64 x.2)] super
      [Instr.vsave r0, .frsave r0, .xfreeze r0, .vrestore r0, .frload r0, .xthaw r0].all (allowedB · s) && x.2 % 64 == 0 && s.hart.queue.isEmpty &&
      areaB (areaWrite s.ctx (pageParts (x.1 / 65536 + 2) (BitVec.ofNat 64 x.2) x.1) s) (fun l u => canonicalB u &&
        l.all fun y => decide (y.1 % 65536 + y.2 ≤ 65536) && plainB y.1 u)) = true ∧
    (let s := super
     match loadArea 0x10000 256 s with
     | .ok (hd, _, _) => readsB (loadArea 0x10000 (areaSize hd.toArray) s)
     | .error _ => false) = true ∧
    ([[], [0x40]].all fun l =>
      let s := { withBytes 0x10000 (toLeBytes 64 7) super with savedFrames := [saved0 l], fw := ⟨0, 0, 7, 7⟩ }
      match findSaved 0x10000 (s.savedFrames.filter fun x => x.addrs.isEmpty == l.isEmpty) s with
      | .ok (some (x, _, _)) => leNum (x.bytes.take 8) == s.fw.frameFmt.toNat && s.hart.mq.isEmpty
      | _ => false) = true := by decide +kernel

/-- A running opcode with a load that has been issued and waits, where `busy`, for a frame that moves. -/
def freezing (busy : Bool) : State :=
  let m : RNode := ⟨4, 0, 5, 0, false, false, false, 0, 0⟩
  let r := run0 .running
  let r := { r with img := { r.img with nodes := [m] }, nodes := [⟨0, 0, [], [], if busy then [⟨0, 0⟩] else [], 0⟩] }
  let p := if busy then { poolside with
      tide := [⟨0x6000000, .moving, 0, 0, 0, false, false, none, none, none, false, none⟩]
      core := { poolside.core with tlb := [⟨0, 0, 0x60000000000, 16, 0x2DF, .gather 0⟩] } }
    else super
  inMode .supervisor { p with core := { p.core with reef := { Reef.empty with run := some r } } }

-- An opcode of the process at XFREEZE, with an access that waits for its page, and without.
theorem witness_SupervisorFormsComplete_freeze : ([true, false].all fun busy =>
    let s := freezing busy
    allowedB (.xfreeze r0) s && s.core.reef.run.any (fun r => r.asid == s.asid) && (freezeRun s).runWaits == busy) = true := by decide +kernel

/-- A policy document of one party and one destination in the host window, signed by that party (R440-R442), and the hash of the
party's key; made by hand from the public test key of seed bytes 1. -/
def policy0 : Nat := 0x3200000000000000640000000100000009010100014c4f5042 +
  0x0 * 2 ^ 256 +
  0xa835364f14c4d5140e03efbaf3b38effbd808bb10cb95d0aab9e30e78a728437 * 2 ^ 512 +
  0x45e312f52fb0fe88e0420ec4f2a554aeb4fc9636d097da03b752fec140bee158 * 2 ^ 768 +
  0x4000000400000000000000000000000103 * 2 ^ 1024 +
  0x5c6f0fb4018874f31b12941dbf0967ca725dba3c2ddb52fd95f10974dde3888a * 2 ^ 1280 +
  0x9a543cac144890a8128fbc7bf8e03d3825a086c750e40d5c089068b697ffb7bf * 2 ^ 1536 +
  0x61cc8438ef4d2ee245355c0b6bf6da5054526b06d7aca5479e1822dff5c5dc7 * 2 ^ 1792
def keyHash : Nat := 0xa835364f14c4d5140e03efbaf3b38effbd808bb10cb95d0aab9e30e78a728437 +
  0x45e312f52fb0fe88e0420ec4f2a554aeb4fc9636d097da03b752fec140bee158 * 2 ^ 256
/-- A tenant whose roster holds that party, with the document at 0x10000, another signature byte changed by `d`. -/
def signer (d : Nat) : State := { withBytes 0x10000 (toLeBytes 256 (policy0 + d)) super with parts := [{ part1 with roster := [keyHash] }] }

-- A signed document, and one whose signature is altered.
theorem witness_SupervisorFormsComplete_policies : ([(0, true), (2 ^ 2000, false)].all fun x =>
    let s := signer x.1
    allowedB (.gateinst r0) s && (match readParts [(0x10000, 64)] s with
      | .ok (hd, _, _) =>
        let h := PolicyDoc.of hd.toArray
        h.ok hd.toArray s.roster && (match readParts (pageParts 2 0x10000 (h.body + 96 * h.nparty)) s with
          | .ok (d, _, u) =>
            (match checkPolicy d.toArray s with
             | .ok pol => x.2 && (match installPolicy pol u with
               | (.ok _, _) => true
               | (.error _, _) => false)
             | .error c => !x.2 && c == 2)
          | .error _ => false)
      | .error _ => false)) = true := by decide +kernel

/-- A tenant in supervisor mode whose page 0 is frame 0 of the tidepool by a walk, holding slot 0 of die 0. -/
def migrant : State :=
  let s := tenant (withWord 0x140000 0x6000000031F paged)
  inMode .supervisor { s with slots := [⟨0, 0, 1⟩] }

-- RESERVE of no slot, of all, of one too many for those free, and of fewer than are held; MIGRATE; the kinds of TLBINV; PGFREE.
theorem witness_SupervisorFormsComplete_frames : (let s := super
      let free (s : State) := (List.range 12).filter fun k => s.slots.all fun x => !(x.die == 0 && x.slot == k)
      allowedB (.reserve r0) s && (s.slotsOf 0 s.partNum).isEmpty && (free s).length == 12 &&
      (free { s with slots := [⟨0, 3, 2⟩] }).length == 11 && ({ s with slots := [⟨0, 3, 1⟩] }.slotsOf 0 s.partNum).length == 1 && s.tide.isEmpty &&
      !(let x := { s with slots := [⟨0, 3, 1⟩] }
        x.inFlight fun a k => x.inTide a && x.frameIn 0 [3] (a / 65536) && k != 0)) = true ∧
    (let s := migrant
     let dst := 0x60000010000
     allowedB (.migrate r0) s && canonical 0 && (match s.walkFrom 0 4 (rootOf s.hart.csr.ptroot) with
      | .ok l => l.pte.testBit 9 && bitsAt l.pte 16 36 * 65536 == 0x60000000000 && !s.inTide l.at_ && l.at_ % 8 == 0
      | .error _ => false) && s.slotOk (s.part.map Part.num) 0x60000000000 && s.inTide dst && s.paExists dst &&
     (s.slotsOf (dieOfTide (paLocal dst)) s.partNum).contains (dst / 65536 % 65536 / 160) && !s.frameBusy 0x60000000000 && !s.frameBusy dst &&
     !(s.tideAt (dst / 65536)).elastic && 0x60000000000 / 65536 != dst / 65536 &&
     canonicalB s) = true ∧
    (allowedB (.tlbinv r0) super && [0, 1, 2, 0xFFFF0000].all (fun n => decide (n < 2 ^ 32) && n / 4 % 2 ^ 14 == 0 && n % 4 != 3) &&
      super.core.num == super.hart.core && !super.entriesUsed (fun _ => true) &&
      (let q : VReq := ⟨encode (.vamoadd vm), 1, 8, 0, 1, [⟨8, 8, 1⟩], []⟩
       (withHart (fun h => { h with vreq := some q }) super).entriesUsed fun _ => true)) = true ∧
    (allowedB (.pgfree r0) super && part1.owns 0 64 && part1.owns 63 1 && !part1.owns 63 2 && canonicalB super &&
      super.part == some part1) = true := by decide +kernel

/-! ### Steps of the machine's own agents -/

/-- Whether a translation goes ahead. -/
def xlatB (x : Except WalkErr (Nat × TlbEntry × State)) : Bool :=
  match x with
  | .ok _ => true
  | .error _ => false
/-- A hart in supervisor mode whose TRAPSTATUS asks for the hart's end, with children. -/
def ending (l : List Child) : State :=
  withHart (fun h => { h with children := l }) (withCsr (fun c => { c with tr := { c.tr with status := 16 } }) (inMode .supervisor user))

/-- The user hart with an item in its queue. -/
def queueing (i : Instr) : State := withHart (fun h => { h with queue := [h.mkItem [encode i]] }) user

theorem witness_RegisterWriteAndTimerSteps : ((1 : Word) ≠ 0 ∧ (1 : Word).ule { user with clk := 1 }.clk = true ∧ ¬ ((2 : Word).ule { user with clk := 1 }.clk = true)) ∧
    (xlatB (xlat 8 .read user) = true ∧ xlatB (xlat 0x80000000 .read user) = false) ∧
    (user.postedDone = true ∧ (queueing (.vadd v0)).postedDone = false ∧ xlatB (xlat 0x80000000 .read (queueing (.vadd v0))) = false) ∧
    (((3 : Word).extractLsb' 0 16).toNat < 2 ^ (tenant user).roster ∧ 2 ^ (tenant user).roster ≤ ((4 : Word).extractLsb' 0 16).toNat) ∧
    ((withCsr (fun c => { c with partSel := 1 }) (tenant user)).selPart = some part1 ∧ user.selPart = none) ∧
    ((3 : Word).extractLsb' 0 2 = 3 ∧ (user.hart.mode ≠ .hypervisor ∧ (2 : Word).extractLsb' 0 2 = 2) ∧ (1 : Word).extractLsb' 0 2 ≠ 3) ∧
    (user.mqHead = user.mqTail ∧ paPkg 64 = user.pkg ∧ spaceOf (paLocal 64) = .ezmos ∧ user.boot ≠ .failed ∧
      { user with boot := .failed }.boot = .failed ∧ { user with mqTail := 1 }.mqHead ≠ 1 ∧ (4096 : Word).toNat = 2 ^ 12 ∧ 12 ≤ 12) := by
  decide +kernel

theorem witness_RegisterWriteAndTimerSteps_harts : (let s := withCsr (fun c => { c with timerArmed := true, evtimer := 1, evaddr := 8 }) { user with clk := 1 }
      (s.hartAt ⟨0, 0⟩).id = ⟨0, 0⟩ ∧ (s.hartAt ⟨0, 0⟩).csr.timerArmed = true ∧ (s.hartAt ⟨0, 0⟩).csr.evtimer.ule s.clk = true ∧
      (s.hartAt ⟨0, 0⟩).csr.evaddr ≠ 0 ∧ (user.hartAt ⟨0, 0⟩).csr.evaddr = 0) ∧
    ((2 : BitVec 2) ≠ 0 ∧ levelOf (2 : BitVec 2).toNat ≠ (user.coreAt 0).level ∧ levelOf (1 : BitVec 2).toNat = (user.coreAt 0).level) ∧
    ([[], [⟨1, 0, 4, some 0⟩], [⟨1, 0, 4, none⟩]].all fun l =>
      [none, some Mode.supervisor].all fun held =>
        let s := withHart (fun h => { h with heldBy := held, queue := if held.isSome then [h.mkItem [encode (.vld m0)]] else [] }) (ending l)
        s.hart.mode != .user && exitOf s.handlerRegs.status && (discardHeld s).postedDone && s.hart.enginesDone && resolved s.hart.aside &&
        struckBits 0 s.hart.aside == 0 && s.hart.heldBy == held) = true ∧
    (let s := { withHart (fun h => { h with ix := 1, parent := some 0 }) (ending []) with harts := [Hart.initial 0 0] }
     s.hart.parent = some 0 ∧ (0 : Nat) ≠ s.hart.ix ∧ (s.hartAt ⟨0, 0⟩).id = ⟨0, 0⟩) ∧
    ({ user with stopped := true }.stopped = true ∧ user.stopped = false ∧ user.boot ≠ .booted ∧ user.chans = [] ∧ user.engq = [] ∧
      user.harts = [] ∧ user.cores = [] ∧ user.core.isl = Island.empty ∧ user.core.reef.run = none ∧ user.hart.ix < 8 ∧ entriesOf user.hart = [] ∧ user.hart.remote = none ∧
      user.hart.vreq = none ∧ user.core.failing = false ∧ { user.core with failing := true }.failing = true) := by
  decide +kernel

/-- A hart whose watch table holds one entry of one line in a phase. -/
def checking (p : CheckPhase) : State :=
  withHart (fun h => { h with watch := [⟨0, 0, 1, 8, .pending, 0, [⟨0, [⟨0, 0⟩], 0, 0, p⟩], 0⟩] }) user

-- Posting a vector word; the groups of a hart with and without an item; a deferred trap; a walk that succeeds and one that fails.
theorem witness_PipeWalkerSliceAndWatchSteps : (let w : Word := 0x4004610A02000000
      let s := withHart (fun h => h.setV 1 ⟨0, ⟨1, 0, 0⟩, false, 0⟩) (aboutTo [w])
      s.core.num == s.hart.core && s.hart.status == .running && s.hart.heldBy == none && s.hart.queue.isEmpty && s.hart.deferred.isEmpty &&
      s.hart.pc.toNat % 8 == 0 && (match fetchAt s.hart.pc s with
       | (.ok pa u, x) => pa == 0 && x == w && (match convoyTail allWords (s.hart.pc + 8) u with
         | .words [] _ => true
         | _ => false)
       | _ => false) && s.hart.posted == 0 && decide ({ s.hart with posted := 3 }.posted + 1 ≤ 4) && means w (.vadd { v0 with vb := 2, cb := true, gm := 2 }) && !convoyBit w &&
      isQueued (.vadd { v0 with vb := 2, cb := true, gm := 2 }) s && inConvoyFormat (.vadd { v0 with vb := 2, cb := true, gm := 2 }) &&
      (match convoyGate s [w] with
       | .ok ms => ms.all fun x => !isReleasing x.2 s
       | _ => false)) = true ∧
    (let w := encode (.setvl ⟨4, 3, 3⟩)
     let s := aboutTo [w]
     means w (.setvl ⟨4, 3, 3⟩) && !inConvoyFormat (.setvl ⟨4, 3, 3⟩) && isQueued (.setvl ⟨4, 3, 3⟩) s &&
       readsB (convoyGate s [w]) && (s.levelWaits none).isEmpty) = true ∧
    (let s := withHart (fun h => { h with queue := [h.mkItem [0]] }) user
     (s.hartAt ⟨0, 0⟩).queue ≠ [] ∧ (s.hartAt ⟨0, 0⟩).heldBy = none ∧ (user.hartAt ⟨0, 0⟩).queue = []) ∧
    (let s := withHart (fun h => { h with deferred := [⟨20, 0, 1, 2⟩] }) user
     s.core.num = s.hart.core ∧ s.hart.deferred = [⟨20, 0, 1, 2⟩] ∧ s.hart.queue = [] ∧ s.worksFor s.hart.id = false ∧
     s.core.reef.run = none ∧ s.hart.remote = none ∧ s.hart.vreq = none ∧ toSupervisorB 20 s = true ∧ (user.hartAt ⟨0, 0⟩).deferred = [] ∧
     (filling s).worksFor s.hart.id = true ∧ (reefed { run0 .complete with frozen := true }).hart.ix = 0 ∧
     (reefed (run0 .complete)).runWaits = false) ∧
    xlatB (xlat 8 .write user) = true ∧ xlatB (xlat 0x80000000 .exec user) = false := by decide +kernel

-- The first address that does not exist, the last that does; a ghost and a valid copy; the phases of a check; the timeout.
theorem witness_PipeWalkerSliceAndWatchSteps_lines : (user.paExists 0x12000000000 = false ∧ user.paExists 0x11FFFFFFFFF = true ∧
      user.inHost 64 = false ∧ user.inPeer 64 = false ∧ user.deadFrame 64 1 = none ∧ { user with retired := [0] }.deadFrame 64 1 ≠ none ∧
      user.lineOf 64 = 0 ∧ user.inHost 0x40000000000 = true ∧
      user.paExists 0x40000000000 = true ∧ user.inPeer (2 ^ 43) = true ∧ user.paExists (2 ^ 43) = true) ∧
    (let c (x : CopyState) : Core := { Core.initial 0 with copies := [⟨0, 15, x, 0, [], 0, 0, 0⟩] }
     ({ user with core := c CopyState.ghost }.coreAt 0).copies.all (fun c => c.line != 0 || c.state == CopyState.ghost) = true ∧
     ({ user with core := c CopyState.valid }.coreAt 0).copies.any (fun c => c.line == 0 && c.state != CopyState.ghost) = true) ∧
    (user.sectorAt 2).owner ≠ some 0 ∧ ({ user with sectors := [⟨2, some 0, true, 0, 0⟩] }.sectorAt 2).owner = some 0 ∧
    ((focusCore 0 user).atOwnHome 0 = false ∧ (focusCore 0 poolside).atOwnHome (0x60000000000 / 128) = true ∧ (15 : Nat) < 16 ∧
      (focusCore 0 { tenant user with parts := [{ part1 with ways := [(0, 0xFFFF)] }] }).wayOk (linePlace 0) 15 = true ∧
      (List.range 16).all (fun w => !(focusCore 0 { tenant user with parts := [{ part1 with ways := [(0, 0)] }] }).wayOk (linePlace 0) w) = true) ∧
    (let c : Core := { Core.initial 1 with copies := [⟨0, 15, .valid, 0, [], 0, 0, 0⟩] }
     (focusCore 0 { user with cores := [c] }).sharedLine 0 0 = true ∧ (focusCore 0 user).sharedLine 0 0 = false ∧ c.num ≠ 0) ∧
    ((5 : Nat) ∉ user.clearing ∧ 5 ∈ { user with clearing := [5] }.clearing) ∧
    ((1 : BitVec 3).toNat ≤ 1 ∧ 2 ≤ (2 : BitVec 3).toNat ∧ 4 ≤ (4 : BitVec 3).toNat) ∧
    (let s := withHart (fun h => { h with status := .waiting .start }) user
     let t := withHart (fun h => { h with status := .waiting .watermark }) user
     (s.hartAt ⟨0, 0⟩).id = ⟨0, 0⟩ ∧ (s.hartAt ⟨0, 0⟩).status = .waiting .start ∧ (t.hartAt ⟨0, 0⟩).status = .waiting .watermark ∧
     (⟨0, 0⟩ : HartId) ∉ t.grants ∧ (user.hartAt ⟨0, 0⟩).status ≠ .waiting .watermark) := by decide +kernel
theorem witness_PipeWalkerSliceAndWatchSteps_timeout : ([Hart.watch, Hart.asideS, Hart.asideH].all fun tab =>
    let s := withHart (fun h => { h with asideS := h.watch, asideH := h.watch }) (checking .unsent)
    ((tab (s.hartAt ⟨0, 0⟩))[0]?.any fun e => e.lines == [⟨0, [⟨0, 0⟩], 0, 0, .unsent⟩] && e.state == .pending &&
      Nat.ble 0x100000 ((0x100000 : Word) - e.made).toNat && !Nat.ble 0x100000 ((0xFFFFF : Word) - e.made).toNat)) = true := by decide +kernel
-- The check that a core sends next, and another; a core that has sent one in this clk; a check that waits for an earlier one to its line.
theorem witness_PipeWalkerSliceAndWatchSteps_order : (let s := checking .unsent
     let next (s : State) := (oldestSenders s.allHarts).find? fun h => h.id == ⟨0, 0⟩
     next s = some s.hart ∧ s.hart.sendsNext = 0 ∧ (s.coreAt 0).checkSent = false ∧ anyUnsent s.hart.asideS = false ∧ anyUnsent s.hart.asideH = false ∧
     ({ s with core := { s.core with checkSent := true } }.coreAt 0).checkSent = true ∧ next user = none) ∧
    (let s := withHart (fun h => { h with watch := h.watch ++ h.watch }) (checking .sent)
     s.checkBehind 0 = false ∧ s.checkBehind 1 = true) := by decide +kernel

-- The first check of the package, sent and decided.
theorem witness_PipeWalkerSliceAndWatchSteps_checks :
    (let s := checking .sent
     let e := s.hart.watch.headD entry0
     CheckAt CheckPhase.isSent 0 s.hart [] e [] [] ⟨0, [⟨0, 0⟩], 0, 0, .sent⟩ [] s) ∧
    (let s := checking (.decided true 0)
     let e := s.hart.watch.headD entry0
     CheckAt CheckPhase.isDecided 0 s.hart [] e [] [] ⟨0, [⟨0, 0⟩], 0, 0, .decided true 0⟩ [] s) :=
  ⟨⟨rfl, rfl, rfl, [], [], rfl, rfl⟩, ⟨rfl, rfl, rfl, [], [], rfl, rfl⟩⟩

/-! ### The reef, the island, the channels and the engines -/

-- A hart that waits for the reef; a bound image; an opcode that is live, complete, stalled with nothing pending and with a load pending.
theorem witness_ReefIslandChannelAndEngineSteps_reef : (let s := { (withHart (fun h => { h with status := .waiting .reef }) user) with
        core := { user.core with reef := { Reef.empty with queue := [0] } } }
      (focusCore 0 s).core.reef.run = none ∧ (focusCore 0 s).core.reef.queue.filter (focusCore 0 s).reefWaits = [0]) ∧
    ((focusCore 0 (reefed (run0 .running))).core.reef.run ≠ none) ∧
    (let s := { user with binds := [⟨0, 0, 15, 0x40, (run0 .running).img, 0⟩] }
     ((focusCore 0 s).allHarts.find? (fun h => h.core == 0 && h.status != .free)).isSome = true ∧ ((focusCore 0 s).bindOf 0 15).isSome = true) ∧
    (let r := run0 .running
     let m : RNode := ⟨4, 0, 5, 0, false, false, false, 0, 0⟩
     let l := { r with img := { r.img with nodes := [m] }, nodes := [⟨0, 0, [], [], [⟨0, 64⟩], 0⟩] }
     r.phase = .running ∧ r.frozen = false ∧ { r with idle := 65536 }.pending (reefed r) = false ∧
     { r with img := { r.img with edges := ⟨0, 0x98, 0, 0, 0⟩ :: r.img.edges } }.pending (reefed r) = true ∧
     l.img.nodes[0]?.any (fun n => n.kind == 4 && decide (n.op ≤ 1)) = true ∧ l.nodes[0]?.isSome = true ∧
     r.isComplete = false ∧ { r with vi := [], vo := [] }.isComplete = true ∧ (run0 .complete).phase ≠ .running) := by decide +kernel

/-- A matrix word of hart 0. -/
def item0 (i : Instr) : MqItem := ⟨⟨0, 0⟩, 0, encode i, 0, 0, 0, 0, 0, .user, [(0, 64), (128, 32768)], 0, 0⟩
/-- A core whose island holds what is given, with slots 1 (kind 1) and 2 (kind 4) of FP16 and accumulator 0. -/
def island (f : Island → Island) : State :=
  { user with core := { user.core with isl := f { Island.empty with
    slots := [⟨1, true, 0, false, 1 + 256 * 11 + 2 ^ 16, 0, 0, 0⟩, ⟨2, true, 0, false, 4 + 256 * 11 + 2 ^ 16, 0, 0, 0⟩],
    accs := [⟨0, true, 0, 0, 0, some ⟨false, 10, false, 2, 0, 1, false, 0, 0, ⟨0, 0⟩⟩, 0, none, false⟩] } } }
/-- MMA of accumulator 0 by slots 1 and 2. -/
def mma0 : TFmt := { t0 with slotA := 1, slotB := 2 }

-- Admission, with and without an item in order; a step that begins and one that is refused; what waits.
theorem witness_ReefIslandChannelAndEngineSteps_island : (let s := withHart (fun h => { h with mq := [item0 (.mzero t0)] }) (island id)
      (focusCore 0 s).nextMq = some ⟨0, 0⟩ ∧ ((focusCore 0 s).hartAt ⟨0, 0⟩).mq.length = 1 ∧
      headRefusal (item0 (.mzero t0)) (admitted (focusCore 0 s)) = none ∧ (focusCore 0 user).nextMq = none ∧ user.core.isl.order.length ≠ 1) ∧
    (let s := island fun i => { i with order := [item0 (.mma mma0)] }
     headReady (item0 (.mma mma0)) s.isl = true ∧ s.core.failing = false ∧ headRefusal (item0 (.mma mma0)) s = none ∧ headRefusal (item0 (.mma t0)) s = some 3 ∧
     headRefusal (item0 (.mzero t0)) s = none ∧ ((focusCore 0 s).hartAt ⟨0, 0⟩).id = ⟨0, 0⟩) ∧
    (let y := item0 (.mzero { t0 with acc := 1 })
     let s := island fun i => { i with order := [item0 (.mma mma0), y], step := some (item0 (.mma mma0)) }
     headReady (item0 (.mma mma0)) s.isl = false ∧ s.core.failing = false ∧ passing s [item0 (.mma mma0)] [y] = some y ∧ passing s [item0 (.mma mma0)] [] = none) ∧
    (let s := island fun i => { i with step := some (item0 (.mma mma0)) }
     ((item0 (.mma mma0)).instr.bind stepForm).isSome = true ∧ (s.isl.acc 0).conf.all (fun d => decide ((s.isl.acc 0).count + 1 < d.k)) = true) := by
  decide +kernel

-- Drains into a slot, into memory and for the reef; a fill; no fill.
theorem witness_ReefIslandChannelAndEngineSteps_drains :
    (let s := island fun i => { i with drains := [0], accs := i.accs.map fun a => { a with drain := some (item0 (.mdrain t0)) } }
     let a := s.isl.acc 0
     a.drain.isSome && a.conf.any (fun c => [(0, 0), (1, 256), (2, 0), (3, 0)].all fun x =>
       match drainTo a { c with tgt := x.1, pitch := x.2 } (item0 (.mdrain t0)) (focus ⟨0, 0⟩ s) with
       | .done _ _ => decide (x.1 ≤ 1)
       | .wait => x.1 == 2
       | .fail => x.1 == 3)) = true ∧
    (let s := island fun i => { i with fills := [item0 (.mfill { t0 with slotA := 1 })] }
     s.isl.fills.length = 1 ∧ (item0 (.mfill { t0 with slotA := 1 })).instr = some (.mfill { t0 with slotA := 1 }) ∧ (s.isl.slot 1).live = true ∧
     (island id).isl.fills = []) := by decide +kernel

theorem witness_ReefIslandChannelAndEngineSteps_channels : (let b := { branch0 with edepth := 1, buf := [], seen := 1, ringTaken := 0 }
    let c := { open0 with branches := [b] }
    (piped c).chanAt 0x40 = some c ∧ c.branch 0 = some b ∧ b.mayMove = true ∧ branch0.mayMove = false ∧
    { b with moving := some 0 }.moving = some b.ringTaken ∧ b.ringTaken < b.seen ∧ b.skip = [] ∧ branch0.moving ≠ some branch0.ringTaken) := by decide +kernel

/-- A job of hart 0 under tag 0 with its operands. -/
def job0 (kind : Nat) (ops : List Word) : EngJob := ⟨0, 0, kind, ⟨0, 0⟩, 1, 0, 0x40, ops, 0, 0, .user, 0, 1, 1, none, none, some 0x40⟩
/-- A tenant with tag 0 running. -/
def engaged : State := withHart (fun h => { h with tags := [⟨0, .running, 0, 0⟩] }) (tenant user)
/-- A policy of the tenant with one destination. -/
def policy1 : Policy := ⟨1, 9, 1, 50, 100, [⟨3, 1, 0x40000000000, 64, 0, 0⟩]⟩

-- COPY and DECOMP to their end; GATE accepted, refused, and waiting for a moving frame; an SREAD under way and one that may start.
theorem witness_ReefIslandChannelAndEngineSteps_engines : (let j := job0 1 [0x1000, 0x2000, 8, 0, 0, 0]
      let s := { engaged with engq := [j] }
      s.jobOf ⟨0, 0⟩ 0 s.engq = some j ∧ nextJob j.engine s.engq = some j ∧ s.jobReady j = true ∧ (runCopy j (focus j.who s)).isSome = true ∧
      s.jobOf ⟨0, 0⟩ 1 s.engq = none) ∧
    (let j := job0 2 [0x1000, 0x2000, 1, 64, 0, 0]
     let s := { engaged with engq := [j] }
     s.jobOf ⟨0, 0⟩ 0 s.engq = some j ∧ (runDecomp j (focus j.who s)).1 = none) ∧
    ([(9, 0), (8, 1)].all fun x =>
      let j := job0 4 [0x1000, 64, x.1, 3, 256, 0]
      let s := { engaged with gateq := [j], policies := [policy1] }
      s.jobOf ⟨0, 0⟩ 0 s.gateq == some j && s.deliveries.isEmpty && s.nextGate == some j && s.jobReady j && (match (gateCheck j (focus j.who s)).1 with
        | .accept _ _ => x.2 == 0
        | .status _ _ _ => x.2 == 1
        | .wait => false)) = true ∧
    (let j := job0 4 [0, 64, 9, 3, 0x10100, 0]
     let p := withHart (fun h => { h with tags := [⟨0, .running, 0, 0⟩] }) poolside
     let frames : List TideFrame := [⟨0x6000000, .moving, 0, 0, 0, false, false, none, none, none, false, none⟩]
     let s := { p with gateq := [j], policies := [policy1], tide := frames }
     match (gateCheck j (focus j.who s)).1 with
     | .wait => true
     | _ => false) = true ∧
    (let j := job0 4 [0x1000, 64, 9, 3, 256, 0]
     let s := { engaged with deliveries := [⟨j, 9, ⟨3, 1, 0x40000000000, 64, 0, 0⟩, 0, [], 0, 0x100, 0⟩] }
     s.jobOf ⟨0, 0⟩ 0 (s.deliveries.map Delivery.job) = some j ∧ s.deliveries ≠ []) := by decide +kernel

/-- A task whose hart 0 has been saved. -/
def saving (s : State) : State :=
  { s with tasks := [⟨1024, 1, 0, 3, 0, [0], [0], 0, 0, 0, 0, 0, 0, .stopping, 0, [], false, [], false, [Hart.initial 0 0], []⟩] }

-- A core that waits for its swap; a drain whose hart has been saved, and one of a live hart; an MFILL; an end that a saved hart holds; a
-- job behind an item of its hart; and a COPY that waits for a frame.
theorem witness_ReefIslandChannelAndEngineSteps_waits : ({ user.core with failing := true }.failing = true ∧
      (saving user).isSaved ⟨0, 0⟩ = true ∧ user.isSaved ⟨0, 0⟩ = false) ∧
    ((piped open0).endLive 0x40 0 branch0 = true ∧ (saving (piped open0)).endLive 0x40 0 branch0 = false) ∧
    ({ job0 1 [] with uid := 1 }.kind = 1 ∧ (queueing (.vld m0)).jobReady { job0 1 [] with uid := 1 } = false) ∧
    (let j := job0 1 [0, 0x10000, 8, 0, 0, 0]
     let p := withHart (fun h => { h with tags := [⟨0, .running, 0, 0⟩] }) poolside
     let s := { p with engq := [j], tide := [⟨0x6000000, .moving, 0, 0, 0, false, false, none, none, none, false, none⟩] }
     (s.jobOf ⟨0, 0⟩ 0 s.engq == some j && nextJob j.engine s.engq == some j && s.jobReady j && (runCopy j (focus j.who s)).isNone) = true) := by
  decide +kernel

-- An SREAD of no block, whatever the size of a block.
theorem witness_ReefIslandChannelAndEngineSteps_sreads : (let j := { job0 3 [0x1000, 0, 0, 0, 0, 0] with pieces := some [] }
      let s := { engaged with sreads := [j] }
      s.jobOf ⟨0, 0⟩ 0 s.sreads = some j ∧ j.pieces = some [] ∧ s.jobOf ⟨0, 0⟩ 1 s.sreads = none) ∧
    (let j := job0 3 [0x1000, 0, 0, 0, 0, 0]
     let s := { engaged with sreads := [j] }
     s.sreadBusy 1 1 < 1024 ∧ s.nextSread 1 1 = some j ∧ s.jobReady j = true ∧ s.nextSread 1 2 = none ∧
     (match rangeSpans j .write (j.op 0) 0 (focus j.who s) with
      | .ok (dst, u) => readsB (blockPlace j j.pv u) && dst.isEmpty && (spansRefuse dst j.pv u).isNone
      | .error _ => false) = true) ∧
    ((job0 3 [0x1000, 0, 0, 0, 0, 0]).op 3).toNat = 0 := by decide +kernel
theorem witness_ReefIslandChannelAndEngineSteps_no_block (n : Nat) : (List.nil : List Byte).length = 0 * n := by simp

/-! ### Scheduling -/

/-- A launch record: its cores, its partition, its level (R395). -/
def laidRecord (conf : Word) (s : State) : State := withWord 0x20018 conf s
/-- The record that the launch queue's first slot holds. -/
def recAt (s : State) : List Word := (List.range 8).map fun k => BitVec.ofNat 64 (s.homeNum (0x20000 + 8 * k) 8)
/-- A queue with the record at its head taken. -/
def headed (h : QHead) (s : State) : State := s.setQ { s.qstate 0 with head := some h }
/-- A record of one core for the partition, at level 3, waiting since clk 0. -/
def head0 : QHead := ⟨[0, 0, 0, 1 + 2 ^ 34 + 3 * 2 ^ 30, 0, 0, 0, 0], 0, 0, 3, true⟩

theorem witness_SchedulingSteps_queues : user.qdesc 0 = none ∧
    ((queued 0 1 true).qdesc 0).any (fun d => d.dev && d.en && d.part == 1 && d.head == 0 && ((queued 0 1 true).qtail 0 d) == 1) = true ∧
    ((queued 0 1 false).qdesc 0).any (fun d => !d.dev && d.head == (queued 0 1 false).qtail 0 d) = true ∧
    ((queued 0 1 true).qstate 0).head = none ∧ ((headed head0 (queued 0 1 true)).qstate 0).head ≠ none ∧
    ((queued 0 1 true).partAt 1).isSome = true ∧
    ([((1 : Word) + 0x400000000, 0), (1, 2)].all fun x =>
      let s := laidRecord x.1 (queued 0 1 true)
      match s.qdesc 0 with
      | some d => (checkRecord part1 d (recAt s) (startClear 0x20000 s)).1 == some x.2 && !(startClear 0x20000 s).lost 0x20000 64 &&
        recWord (recAt s) 2 == 0
      | none => false) = true := by decide +kernel

-- A slot that cannot be read, and a record whose image lies in a frame that moves.
theorem witness_SchedulingSteps_records : ({ queued 0 1 true with poison := [0x20000 / 32] }.lost 0x20000 64 = true ∧
      (queued 0 1 true).lost 0x20000 64 = false ∧ ({ queued 0 1 true with poison := [0x20000 / 32] }.qdesc 0).isSome = true) ∧
    (let s := withWord 0x20020 0x10 (laidRecord 0x400000001 (queued 0 1 true))
     let e (u : TlbUnit) : TlbEntry := ⟨0, 0, 0x60000000000, 16, 0x2DF, u⟩
     let s := { s with core := { s.core with tlb := [e .scalar, e .large] }, slots := [⟨0, 0, 1⟩]
                       tide := [⟨0x6000000, .moving, 0, 0, 0, false, false, none, none, none, false, none⟩] }
     (s.qdesc 0).any (fun d => (checkRecord part1 d (recAt s) (startClear 0x20000 s)).1 == none) = true) := by decide +kernel

theorem witness_SchedulingSteps_waits : ([(0, true), (5, false)].all fun x =>
      let h := { head0 with eligible := false, record := [0, 0, 0, 0x4C0000001, 0, 0x40, 0, BitVec.ofNat 64 x.1] }
      let s := headed h (withWord 0x40 2 (queued 0 1 true))
      match s.qdesc 0, (s.qstate 0).head with
      | some d, some h => !h.eligible && (markMet part1.firstCore d (recMark h.record 0) s).1 == x.2 &&
        (!x.2 || (markMet part1.firstCore d (recMark h.record 1) (markMet part1.firstCore d (recMark h.record 0) s).2).1)
      | _, _ => false) = true ∧
    (let s := { headed head0 (queued 0 1 true) with clk := 0x400000 }
     (s.qstate 0).head = some head0 ∧ head0.eligible = true ∧ promoted head0.since head0.level s = true ∧
     promoted head0.since head0.level { s with clk := 0x3FFFFF } = false) := by decide +kernel

/-- A task of the tenant on core 0. -/
def task0 (x : TaskState) : Task := ⟨1024, 1, 0, 3, 0, [0], [0], 0, 0, 0, 0, 0, 0, x, 0, [], false, [], false, [], []⟩
/-- The tenant's hart runs that task. -/
def tasked (x : Task) (s : State) : State := { s with tasks := [x], core := { s.core with task := some 1024 } }
/-- The hart in another status. -/
def inStatus (x : HartStatus) (s : State) : State := withHart (fun h => { h with status := x }) s

theorem witness_SchedulingSteps_dispatch : (let s := { tasked (task0 .saved) (tenant user) with clk := 0x400000 }
      task0 .saved ∈ s.tasks ∧ (task0 .saved).queue = 0 ∧ (task0 .saved).state = .saved ∧
      promoted (task0 .saved).since (task0 .saved).level s = true ∧ (user.qstate 0).head = none ∧ user.tasks = []) ∧
    (let s := headed head0 (queued 0 1 true)
     (s.partAt 1).isSome && !s.activate && s.tasks.isEmpty && (match s.partQueues 1 with
       | [(q, _)] => q == 0
       | _ => false) && (s.qstate 0).head == some head0 && head0.eligible && decide (head0.level ≤ 11) &&
       !(recWord head0.record 4).getLsbD 4 && pickCores (s.freeCores part1) (recConf head0.record 0 9) == some [0]) = true ∧
    user.partAt 1 = none ∧ { user with activate := true }.activate = true := by decide +kernel

theorem witness_SchedulingSteps_tasks : (let s := inStatus .halted (tasked (task0 .running) (tenant user))
      s.taskAt 1024 = some (task0 .running) ∧ (task0 .running).harts = [] ∧ (s.taskHarts (task0 .running)).all (·.status == .halted) = true ∧
      (s.taskHarts (task0 .running)).length = 1) ∧
    (((tasked (task0 .running) (tenant user)).taskHarts (task0 .running)).any (·.status != .halted) = true) ∧
    (let j := job0 1 []
     j ∈ { user with engq := [j] }.engq ++ user.sreads ++ user.gateq ∧ j.who.core ∈ (task0 .ended).cores) ∧
    (let x := { task0 .ended with done := 0x40 }
     let s := tasked x (tenant user)
     (s.engq ++ s.sreads ++ s.gateq).isEmpty && s.taskAt 1024 == some x && (s.partAt x.part).any (fun p => p.firstCore == 0) &&
     (match userXlat 0 x.ptroot x.done .write (x.cores.foldl (fun s n => mergeCore n s) s) with
      | (some pa, u) => pa == 0x40 && canonicalB u && plainB pa u
      | _ => false)) = true ∧
    (let x := { task0 .stopping with harts := [Hart.initial 0 0] }
     let s := inStatus .free (tasked x (tenant user))
     s.taskAt 1024 = some x ∧ x.harts ≠ [] ∧ s.nextSpill x = none ∧ s.taskHarts x = [] ∧ s.marksDone x = true ∧ x.swap = []) := by decide +kernel

theorem witness_SchedulingSteps_stops : (let s := tasked (task0 .stopping) { tenant user with clk := 0x100000 }
      s.stoppingTask 0 = some (task0 .stopping) ∧ (s.hartAt ⟨0, 0⟩).id = ⟨0, 0⟩ ∧ s.mayStop (task0 .stopping) (s.hartAt ⟨0, 0⟩) = true ∧
      0x100000 ≤ (s.clk - (task0 .stopping).asked).toNat ∧ ((0xFFFFF : Word) - (task0 .stopping).asked).toNat < 0x100000) ∧
    (let s := inStatus (.waiting .stopped) (tasked (task0 .stopping) (tenant user))
     s.stoppingTask 0 = some (task0 .stopping) ∧ s.mayStop (task0 .stopping) (s.hartAt ⟨0, 0⟩) = false ∧
     (s.hartAt ⟨0, 0⟩).status = .waiting .stopped ∧ ((onHart ⟨0, 0⟩ settleHart s).hartAt ⟨0, 0⟩).id = ⟨0, 0⟩ ∧
     user.hart.status ≠ .waiting .stopped ∧ user.hart.status ≠ .halted) ∧
    (let s := inStatus .halted (tasked (task0 .stopping) (tenant user))
     s.stoppingTask 0 = some (task0 .stopping) ∧ (s.hartAt ⟨0, 0⟩).status = .halted ∧ s.mayStop (task0 .stopping) (s.hartAt ⟨0, 0⟩) = true) := by decide +kernel

/-- A task whose hart has been saved. -/
def task1 : Task := { task0 .stopping with harts := [Hart.initial 0 0] }

theorem witness_SchedulingSteps_marks : (let c := { open0 with branches := [{ branch0 with buf := [], opened := true }] }
      let s := tasked task1 (piped c)
      s.chanTask 0x40 = some task1 ∧ s.chanAt 0x40 = some c ∧ ((s.coreAt c.prod).ends.find? (fun e => e.chan == 0x40 && e.end_ == 0)).any
        (fun e => task1.hasSaved c.prod e.hart s) = true ∧ c.mark = none ∧ c.sendOpen = true ∧ c.mayMark = true) ∧
    { open0 with mark := some 0 }.mark ≠ none ∧ { open0 with sendOpen := false }.sendOpen = false ∧
    ([({ branch0 with buf := [[[⟨1, 5⟩], [⟨6, 0⟩]]] }, 0), ({ branch0 with buf := [[[⟨1, 5⟩]]], seen := 3 }, 2)].all fun (x : Branch × Nat) =>
     let y := x.1
     let f := x.2
     let c := { open0 with branches := [y], mark := some f }
     let s := tasked task1 (piped c)
     s.chanTask 0x40 == some task1 && c.branch 0 == some y && ((s.coreAt y.core).ends.find? (fun e => e.chan == 0x40 && e.end_ == 1)).any
       (fun e => task1.hasSaved y.core e.hart s) && y.isOpen && c.mark == some f && decide (y.ringTaken ≤ f + 1) && decide (f < y.seen) &&
     decide (f + 1 ≤ y.ringTaken + c.nslot) && y.skip.isEmpty) = true := by decide +kernel

/-- A tidepool frame of the task with one HELD line. -/
def tide0 (d pol : Bool) : TideFrame := ⟨0x6000000, .resident, 1, 0, 0, d, pol, some 1024, none, none, false, none⟩

-- A frame to spill, to drop and to back; a hart whose spill handler has not returned; a frame of no task.
theorem witness_SchedulingSteps_spills : ([false, true].all fun d =>
      let s := { tasked (task0 .stopping) poolside with tide := [tide0 d false] }
      ((s.tideAt 0x6000000).task.bind s.taskAt) == some (task0 .stopping) && s.nextSpill (task0 .stopping) == some (tide0 d false) &&
      !s.spillOpen (task0 .stopping) && (s.spillHart (task0 .stopping)).isSome) = true ∧
    (let p := { part1 with spillPool := some 0x30000 }
     let b := withWord 0x30008 0x40000 (withWord 0x30000 1 poolside)
     let s := { tasked (task0 .stopping) b with tide := [tide0 false true], parts := [p] }
     ((s.tideAt 0x6000000).task.bind s.taskAt) == some (task0 .stopping) && s.nextSpill (task0 .stopping) == some (tide0 false true) &&
     !s.spillOpen (task0 .stopping) && s.partAt 1 == some p && (takeSpill p 0x30000 8192 (startClear 0x30000 s)).1 == some 4 &&
     (backFrame (s.partAt 1) 0x6000000 s).1) = true ∧
    (withHart (fun h => { h with spills := [(0x6000000, none)] }) (tasked (task0 .stopping) poolside)).spillOpen (task0 .stopping) = true ∧
    (user.tideAt 0x6000000).task = none := by decide +kernel

-- An opcode of a stopped hart that has an access waiting for its page, and a job whose hart has been saved.
theorem witness_SchedulingSteps_saving : (let s := inStatus (.waiting .stopped) (tasked (task0 .stopping) (freezing true))
      s.stoppingTask 0 = some (task0 .stopping) ∧ (onHart ⟨0, 0⟩ settleHart s).opcodeWaits ⟨0, 0⟩ = true ∧
      (onHart ⟨0, 0⟩ settleHart (inStatus (.waiting .stopped) (tasked (task0 .stopping) (tenant user)))).opcodeWaits ⟨0, 0⟩ = false) ∧
    (user.savedOwner (some 1024) (job0 1 []) = none ∧
      ({ user with tasks := [{ task0 .stopping with num := 1025, harts := [{ Hart.initial 0 0 with tags := [⟨0, .running, 0, 0⟩] }] }] }.savedOwner
        (some 1024) (job0 1 [])).isSome = true) := by decide +kernel

theorem witness_SchedulingSteps_swaps : ((user.coreAt 0).task = none ∧ (user.coreAt 0).inService = true ∧ user.sparesUsed 0 < 2) ∧
    (2 ≤ { user with repairs := [⟨1, 3, 1⟩, ⟨1, 4, 2⟩] }.sparesUsed 0) ∧
    (let p := { part1 with ctxPool := some (0, 3145728) }
     let s := { tasked (task0 .running) user with parts := [p] }
     (s.coreAt 0).task.bind s.taskAt = some (task0 .running) ∧ 0 ∉ (task0 .running).swap ∧
     s.taskOver (task0 .running) = false ∧ s.canSave (task0 .running) (s.poolUsed (task0 .running).part) = true) := by decide +kernel

/-! ### Links, errors, boot and management -/

-- The last address that exists and the first that does not; a request of each kind with its answer.
theorem witness_LinkReliabilityAndBootSteps_host : (0x11FFFFFFFFF + 1 ≤ 0x12000000000 ∧ 0x12000000000 < 0x12000000000 + 1 ∧
      canonicalB user = true ∧ user.deadFrame (user.own + 0x11FFFFFFFFF) 0 = none ∧ user.boot ≠ .failed ∧ { user with boot := .failed }.boot = .failed ∧
      (let s := { user with unscrubbed := [(3, 1)] }
       (s.unscrubbed.any fun r => r.1 ≤ s.place (s.own + 0x30000) / 65536 && s.place (s.own + 0x30000) / 65536 < r.1 + r.2) = true ∧
       s.deadFrame (s.own + 0x30000) 0 = none) ∧
      (user.curAt 64 = 0 ∧ user.poisoned 64 1 = false ∧ { user with poison := [2] }.poisoned 64 1 = true)) ∧
    (0x20000000000 ≤ 0x20000000000 ∧ 0x1FFFFFFFFFF < 0x20000000000) ∧
    ([(0x40000000000, true), (0x80000000000, false)].all fun x =>
      let s := withHart (fun h => { h with remote := some ⟨x.1, ⟨1, 8, 0, 0, 0⟩, none, none, 0, 0⟩ }) user
      (s.hartAt ⟨0, 0⟩).id == ⟨0, 0⟩ && (s.hartAt ⟨0, 0⟩).remote == some ⟨x.1, ⟨1, 8, 0, 0, 0⟩, none, none, 0, 0⟩ && s.inHost x.1 == x.2 && s.inPeer x.1 == !x.2) = true ∧
    ([(0x40000000000, true), (0x80000000000, false)].all fun x =>
      let q : VReq := ⟨encode (.vamoadd vm), 1, 8, 0, 1, [], [⟨0, ⟨x.1, ⟨1, 8, 0, 0, 0⟩, none, none, 0, 0⟩⟩]⟩
      let s := withHart (fun h => { h with vreq := some q }) user
      (s.hartAt ⟨0, 0⟩).id == ⟨0, 0⟩ && (s.hartAt ⟨0, 0⟩).remote.isNone && (s.hartAt ⟨0, 0⟩).vreq == some q && q.out.length == 1 &&
      (q.answerable s.inHost == if x.2 then [0] else []) && (q.answerable s.inPeer == if x.2 then [] else [0])) = true ∧
    ((1 : Byte) ≠ 0 ∧ (user.hartAt ⟨0, 0⟩).remote = none ∧ (user.hartAt ⟨0, 0⟩).vreq = none) := by decide +kernel

/-- A peer's ADD of 1 to the double at 64. -/
def packet0 (op : Byte) : PeerPacket := ⟨1, op, 3, 0, 0, 64, 1, 0⟩

theorem witness_LinkReliabilityAndBootSteps_peers : (user.takes (packet0 1) = true ∧ user.takes (packet0 0) = false ∧ canonicalB user = true ∧
      (amoNew 1 64 0 1 0).isSome = true ∧ amoNew 10 64 7 1 0 = none) ∧
    (match exec (.peerOperationPacket (packet0 1)) user with
     | .next _ => true
     | _ => false) = true ∧ ((35 : Nat) < 36 ∧ 36 ≤ (36 : Nat) ∧ [packet0 1, packet0 0].length ≤ 7) ∧
    (user.pkg = 0 ∧ 432 ≤ 432 ∧ 431 < 432 ∧ 431 ≠ user.pkg ∧ reportOk 431 [] = false) ∧
    (let s := { tenant user with parts := [{ part1 with qps := [(7, 0)] }] }
     user.qp 7 = none ∧ (s.qp 7).any (fun x => x.1.owns 63 1 && !x.1.owns 64 1 && writeCheck 0 (63 * 65536) x.2 6 s == none) = true ∧
     (63 * 65536 + 65535) % 65536 + 1 ≤ 65536 ∧ s.deadFrame (63 * 65536) 0 = none ∧ s.qpLost 7 = false ∧ s.curAt (63 * 65536) = 0 ∧ s.poisoned (63 * 65536) 64 = false ∧ canonicalB s = true ∧ plainB (63 * 65536 + 65535) s = true) ∧
    ((tenant user).partAt 1 ≠ none ∧ user.partAt 1 = none) := by decide +kernel

theorem witness_LinkReliabilityAndBootSteps_errors : (user.elog = none ∧ { user with elog := some (0, 1) }.elog ≠ none) ∧
    (let c : Core := { Core.initial 0 with copies := [⟨0, 15, .valid, 0, [], 0, 0, 0⟩] }
     let s := { user with core := c, sectors := [⟨2, some 0, true, 0, 0⟩] }
     ((s.core :: s.cores).filter fun c => c.copies.any fun k => k.line == s.lineOf 64).map Core.num = [0] ∧ s.dirtyIn 0 64 ≠ [] ∧
     { s with sectors := [] }.dirtyIn 0 64 = []) ∧
    (user.used 6 0 < 1 ∧ 1 ≤ { user with repairs := [⟨6, 0, 3⟩] }.used 6 0 ∧ (319 : Nat) < 320 ∧ (7 : Nat) < 8 ∧ (15 : Nat) < 16 ∧ (35 : Nat) < 36) ∧
    (let s := { user with forcedNeap := true, clk := 0x100000000 }
     s.forcedNeap = true ∧ user.forcedNeap = false ∧ 0x100000000 ≤ (s.clk - s.limitAt).toNat ∧ (user.clk - user.limitAt).toNat < 0x100000000) ∧
    (user.boot = .notBooted ∧ { user with boot := .booted }.boot ≠ .notBooted ∧ ([[]] : List (List Byte)) ≠ [] ∧
      user.activate = false) ∧
    (let s := { user with activate := true }
     s.activate = true ∧ s.staged = none ∧ { s with staged := some ⟨1, 0, 0, 0⟩ }.staged = some ⟨1, 0, 0, 0⟩ ∧ s.tasks = []) := by decide +kernel
-- Where the spare rows of a core are used up; a queue pair whose port has left service; images in their order or not.
theorem witness_LinkReliabilityAndBootSteps_free (g qp : Nat) (l : List (List Byte)) :
    (user.used 5 g < 2 ∧ 2 ≤ { user with repairs := [⟨5, g, 1⟩, ⟨5, g, 2⟩] }.used 5 g) ∧
    { user with repairs := [⟨7, Config.qpPort qp, 1⟩] }.qpLost qp = true ∧
    (imagesNamed l = true ∨ imagesNamed l = false) := by
  refine ⟨⟨?_, ?_⟩, ?_, ?_⟩
  · simp [State.used, user, State.reset]
  · simp [State.used]
  · simp [State.qpLost]
  · cases imagesNamed l <;> simp
theorem witness_LinkReliabilityAndBootSteps_spare (pa : Nat) (s : State) : ∃ x : Nat × Nat × Bool,
    some x = some (2, Config.bankOf pa, decide (s.used 2 (Config.bankOf pa) < 32)) := ⟨_, rfl⟩

/-- An entry at 0x40 for a partition with its arguments. -/
def entry (n : Byte) (a b c : Word) : MqEntry := ⟨0x40, n, 0, a, b, c, 0, 0, 0, 0⟩
/-- Whether a command goes ahead into a state, or fails with a code. -/
def doneB (r : Done) (p : State → Bool) : Bool :=
  match r with
  | .ok u => p u
  | .error _ => false
def failsB (r : Done) (c : Nat) : Bool :=
  match r with
  | .ok _ => false
  | .error d => d == c && decide (d < 2147483648)

-- Entries that are answered with a code and with success; PART that names none; PCREATE where a cove is free, taken and at its bounds.
theorem witness_ManagementCommands : (((entry 1 0 0 0).at_ % 64 == 0 && failsB (mqPreset (entry 1 0 0 0) user) 1 && canonicalB user && plainB 0x44 user) = true) ∧
    (doneB (mqPreset (entry 1 0 0 0) (tenant user)) (fun u => canonicalB u && plainB 0x44 u) = true) ∧
    user.partAt (entry 1 0 0 0).part.toNat = none ∧
    (let e := entry 63 0xFFFFFFFFFF 3 0
     mqOnly e 2 = true ∧ e.w8.toNat < 0x10000000000 ∧ e.w16.toNat ≤ 3 ∧ e.part.toNat ≤ 63 ∧ user.partAt e.part.toNat = none ∧ user.parts = [] ∧
     (tenant user).partAt e.part.toNat = none ∧ part1 ∈ (tenant user).parts ∧ part1.coves &&& e.w8.extractLsb' 0 40 ≠ 0 ∧
     (tenant user).partAt (entry 1 0 0 0).part.toNat ≠ none) := by decide +kernel

theorem witness_ManagementCommands_partitions : (let s := tenant user
      (s.partAt (entry 1 0 0 0).part.toNat = some part1 ∧ mqOnly (entry 1 0 0 0) 0 = true) ∧
      (mqOnly (entry 1 0xFFFF0007 0 0) 1 = true ∧ (0xFFFF0007 : Nat) < 0x100000000 ∧ 0xFFFF0007 % 65536 < 8) ∧
      (mqOnly (entry 1 0x400F 0 0) 1 = true ∧ 0x400F % 256 < 16 ∧ 0x400F / 256 ≤ 64 ∧ s.sharesOf part1.num (0x400F % 256) + 0x400F / 256 ≤ 64 ∧
        64 < { s with parts := [part1, { part1 with num := 2, shares := [(15, 1)] }] }.sharesOf part1.num (0x400F % 256) + 0x400F / 256) ∧
      (mqOnly (entry 1 0x400000 4 0) 2 = true ∧ 0x400000 % 65536 = 0 ∧ s.ezmosRange 0x400000 (65536 * 4) = true ∧
        s.parts.all (fun k => k.frames.all fun r => !rangesMeet (0x400000 / 65536, 4) r) = true ∧
        s.parts.any (fun k => k.frames.any fun r => rangesMeet (0x3F0000 / 65536, 4) r) = true ∧ s.ezmosRange 0x3F0000 (65536 * 4) = true) ∧
      (part1.holds 0 0x400000 = true ∧ part1.holds 0 0x400001 = false ∧ part1.owns (0x3F0000 / 65536) 1 = true ∧ part1.owns (0x400000 / 65536) 1 = false) ∧
      (s.ezmosRange 0x11FFFFFFFC0 64 = true ∧ part1.roster.length < 16 ∧ 16 ≤ { part1 with roster := List.replicate 16 0 }.roster.length) ∧
      (mqOnly (entry 1 0x3F0000 0x30003 0) 2 = true ∧ (0x30003 : Nat) < 0x100000000 ∧ s.partFrame part1 (0x3F0000 / 65536) = true ∧
        part1.knows 3 = true ∧ s.inHost 0x3F0000 = false)) := by decide +kernel

theorem witness_ManagementCommands_bindings : (let s := tenant user
      (mqOnly (entry 1 0x100000F3F 3 0) 2 = true ∧ 0x100000F3F % 256 < 64 ∧ 0x100000F3F / 256 % 0x1000000 < 16 ∧ part1.knows 3 = true) ∧
      (mqOnly (entry 1 0xFFFFFF 3 0) 2 = true ∧ 0xFFFFFF < 0x1000000 ∧ s.parts.all (fun k => k.num == part1.num) = true) ∧
      (mqOnly (entry 1 0x7F 0 0) 1 = true ∧ mqOnly (entry 1 0x408 0 0) 1 = true ∧ 0x408 % 8 = 0)) ∧
    (mqOnly (entry 0 0x10000 0 0) 1 = true ∧ user.ezmosRange 0x10000 16384 = true) ∧
    (mqOnly (entry 0 0x20 0x10000 0) 2 = true ∧ 0x20 % 32 = 0 ∧ (0x10000 : Word).toNat = 2 ^ 16 ∧ user.ezmosRange 0x20 (32 * 0x10000) = true) ∧
    (mqOnly (entry 0 0x20 0x40 0) 2 = true ∧ 0x40 % 64 = 0 ∧ user.ezmosRange 0x20 64 = true ∧ user.ezmosRange 0x40 320 = true ∧ canonicalB user = true) ∧
    (mqOnly (entry 0 2 0 0) 1 = true ∧ mqOnly (entry 0 3 0 0) 1 = true ∧ mqOnly (entry 0 0 0x40 1) 3 = true ∧ user.ezmosRange 0 0x40 = true) := by
  decide +kernel
-- The facts of the namespace and the images are the configuration's: either side may hold.
theorem witness_ManagementCommands_sides (ctl ns : Nat) (l : List (List Byte)) (f : Nat) :
    ((Config.lbaMeta ctl ns = false ∧ (Config.lbaSize ctl ns = 512 ∨ Config.lbaSize ctl ns = 4096)) ∨
      ¬ (Config.lbaMeta ctl ns = false ∧ (Config.lbaSize ctl ns = 512 ∨ Config.lbaSize ctl ns = 4096))) ∧
    ((imagesNamed l = true ∧ l.all (imageOk f) = true) ∨ (imagesNamed l = false ∨ l.all (imageOk f) = false)) := by
  refine ⟨Classical.em _, ?_⟩
  cases l.all (imageOk f) <;> cases imagesNamed l <;> simp
-- A PROV that waits for an access under way, and one that does not; memory that cannot be read.
theorem witness_ManagementCommands_reads : (let e := entry 1 0x30000 0x10001 0
      let q : VReq := ⟨encode (.vamoadd vm), 1, 8, 0, 1, [⟨8, 0x30008, 1⟩], []⟩
      let s := tenant user
      provWaits e s = false ∧ provWaits e (withHart (fun h => { h with vreq := some q }) s) = true) ∧
    (user.lost 0x40 64 = false ∧ { user with poison := [2] }.lost 0x40 64 = true) := by decide +kernel

/-! ### Results by hand -/

/-- The scalar register 3 after an instruction. -/
def s3 (i : Instr) (s : State) : Option Word :=
  match exec i s with
  | .next t => some (t.getS 3)
  | _ => none

-- R106: a quotient by 0 and of the least by -1; R107: a shift by the amount modulo 64.
theorem test_division : s3 (.div ⟨3, 1, 2, 0⟩) (withS [(1, 7)] user) = some 0xFFFFFFFFFFFFFFFF ∧
    s3 (.div ⟨3, 1, 2, 0⟩) (withS [(1, 0x8000000000000000), (2, 0xFFFFFFFFFFFFFFFF)] user) = some 0x8000000000000000 := by decide +kernel
theorem test_shift : s3 (.sra ⟨3, 1, 2, 0⟩) (withS [(1, 0x8000000000000010), (2, 68)] user) = some 0xF800000000000001 := by decide +kernel
-- A source that is also the destination.
theorem test_add_wraps : s3 (.add ⟨3, 3, 3, 0⟩) (withS [(3, 0x8000000000000001)] user) = some 2 := by decide +kernel
-- SCALL at 0 saves 8 and enters supervisor mode at TVEC (R77, R84).
theorem test_scall : (match exec (.scall (i0 0)) (withCsr (fun c => { c with tvec := 0x400 }) user) with
    | .next t => t.hart.mode == .supervisor && t.hart.pc == 0x400 && t.hart.csr.tr.pc == 8
    | _ => false) = true := by decide +kernel

end Sys2Proof.Tests
end

section
/-! SUPPORT. What the shared operations of the scalar families leave of memory: releases and acquires, transfers, ends of harts, and the
gates through which an instruction passes. -/

namespace Sys2Proof.Machine

open Sys2Proof.Safety

/-- A state with the memory of a canonical one is canonical. -/
theorem memoryCanonical_of_mem_eq {s t : State} (hm : t.mem = s.mem) (h : MemoryCanonical s) : MemoryCanonical t :=
  (congrArg memWf hm).trans h

/-! ### Releases and acquires -/

theorem mergeCore_mem (n : Nat) (s : State) : (mergeCore n s).mem = s.mem := rfl
theorem dropRemote_mem (s : State) : (dropRemote s).mem = s.mem := rfl

theorem releaseAt_mem (scope line : Nat) (s : State) : (releaseAt scope line s).mem = s.mem := by
  unfold releaseAt
  dsimp only
  split
  · rfl
  · split <;> rfl

theorem releaseFence_mem (scope : Nat) (s : State) : (releaseFence scope s).mem = s.mem := by
  unfold releaseFence
  split <;> rfl

/-- Merging the cores of a record, and at DOMAIN and SYS the end of the remote copies, leaves memory alone. -/
theorem mergeRecorded_mem (b : Prop) [Decidable b] (l : List (Nat × Nat)) (s : State) :
    (if b then dropRemote (l.foldl (fun s r => mergeCore r.2 s) s) else l.foldl (fun s r => mergeCore r.2 s) s).mem = s.mem := by
  have hl := foldl_mem (fun s (r : Nat × Nat) => mergeCore r.2 s) (fun s r => mergeCore_mem r.2 s) l s
  split
  · exact (dropRemote_mem _).trans hl
  · exact hl

theorem acquireAt_mem (scope line : Nat) (s : State) : (acquireAt scope line s).mem = s.mem := by
  unfold acquireAt
  split
  · rfl
  · exact mergeRecorded_mem _ _ s

theorem acquireFence_mem (scope : Nat) (s : State) : (acquireFence scope s).mem = s.mem := by
  unfold acquireFence
  split
  · rfl
  · exact mergeRecorded_mem _ _ s

/-! ### Harts and spills -/

theorem setHart_mem (s : State) (h : Hart) : (s.setHart h).mem = s.mem := by
  unfold State.setHart
  split <;> rfl

theorem endSpills_mem (p : Option Mode → Bool) (s : State) : (endSpills p s).mem = s.mem := rfl

theorem tellParent_mem (s : State) : (tellParent s).mem = s.mem := by
  unfold tellParent
  dsimp only
  split
  · rfl
  · exact setHart_mem _ _

theorem endHart_mem (s : State) : (endHart s).mem = s.mem :=
  (endSpills_mem (fun _ => true) (tellParent s)).trans (tellParent_mem s)

theorem discardHeld_mem (s : State) : (discardHeld s).mem = s.mem := by
  unfold discardHeld
  dsimp only
  split <;> rfl

theorem returnFrom_mem (s : State) : (returnFrom s).mem = s.mem := rfl

/-! ### Transfers -/

/-- A transfer leaves memory as the instruction's other effects have left it. -/
theorem jumpTo_mem (target : Word) {s0 s : State} (h : s.mem = s0.mem) : (jumpTo target s0 s).mem = s0.mem := by
  unfold jumpTo
  split
  · split
    · rfl
    · rw [trapAt_mem]; exact h
  · exact h

theorem branch_mem (f : BFmt) (c : Word → Word → Bool) (s : State) : (branch f c s).mem = s.mem := by
  unfold branch
  dsimp only
  split
  · exact jumpTo_mem _ rfl
  · rfl

theorem maskBranch_mem (f : BFmt) (onSet : Bool) (s : State) : (maskBranch f onSet s).mem = s.mem := by
  unfold maskBranch
  dsimp only
  split
  · exact jumpTo_mem _ rfl
  · rfl

/-! ### Storage level and tags -/

theorem changeLevel_mem (level : Nat) (self : Option Nat) (s : State) : (changeLevel level self s).mem = s.mem :=
  evictCopies_mem _ s

theorem setFsub_mem (b : Bool) (s : State) : (setFsub b s).mem = s.mem := by
  unfold setFsub
  split <;> rfl

theorem tagForm_mem (i : Instr) (f : IFmt) (clear : Bool) (s : State) : (tagForm i f clear s).mem = s.mem := by
  unfold tagForm
  dsimp only
  split
  · exact vtrap_mem _ _ _
  · split
    · exact vtrap_mem _ _ _
    · exact setFsub_mem _ s

theorem forkTo_mem (f : IFmt) (c : Nat) (s : State) : (forkTo f c s).mem = s.mem := by
  unfold forkTo
  dsimp only
  rw [retire_mem, setHart_mem]

/-! ### Gates -/

section
variable {s : State} (h : MemoryCanonical s)
include h

theorem waitFor_canonical (w : Wait) : MemoryCanonical (waitFor w s) := h

theorem scalarTrap_canonical (t : TrapRec) : MemoryCanonical (scalarTrap t s) := memoryCanonical_of_mem_eq (scalarTrap_mem t s) h

/-- A trap whose instruction has left the walker's marks. -/
theorem scalarTrap_touch_canonical (t : TrapRec) (va : Word) (p : Perm) : MemoryCanonical (scalarTrap t (touch va p s)) :=
  scalarTrap_canonical (touch_memWf va p s h) t

theorem gated_canonical {i : Instr} {f : State → State} (hf : MemoryCanonical (f s)) : MemoryCanonical (gated i f s) :=
  gated_keeps MemoryCanonical i f s (fun t => memoryCanonical_of_mem_eq (decodeTrap_mem t s) h) hf

theorem watchGate_canonical {f : State → State} (hf : MemoryCanonical (f s)) : MemoryCanonical (watchGate f s) :=
  watchGate_keeps MemoryCanonical f s (waitFor_canonical h) (scalarTrap_canonical h) hf

theorem watchGateIf_canonical {b : Bool} {f : State → State} (hf : MemoryCanonical (f s)) : MemoryCanonical (watchGateIf b f s) :=
  watchGateIf_keeps MemoryCanonical b f s (waitFor_canonical h) (scalarTrap_canonical h) hf

theorem fenceGate_canonical {reads writes : Bool} {f : State → State} (hf : MemoryCanonical (f s)) :
    MemoryCanonical (fenceGate reads writes f s) := by
  unfold fenceGate
  extract_lets
  split
  · exact h
  · exact hf

/-- Translation for the scalar unit keeps memory canonical. -/
theorem xlat_canonical {va : Word} {p : Perm} {pa : Nat} {e : TlbEntry} {t : State} (hx : xlat va p s = .ok (pa, e, t)) :
    MemoryCanonical t := xlatVia_memWf _ _ _ _ _ hx h

end

/-! ### From a meaning to its instruction -/

/-- An instruction keeps memory canonical where its meaning does. -/
theorem keepsMemory_of_meaning {i : Instr} {f : State → State} (hi : ∀ s, exec i s = .next (f s))
    (hf : ∀ s, MemoryCanonical s → MemoryCanonical (f s)) : KeepsMemory i := by
  intro s t h ht
  rw [hi s] at ht
  injection ht with ht
  exact ht ▸ hf s h

/-- An instruction keeps memory canonical where its meaning leaves memory alone. -/
theorem keepsMemory_of_mem_eq {i : Instr} {f : State → State} (hi : ∀ s, exec i s = .next (f s)) (hf : ∀ s, (f s).mem = s.mem) :
    KeepsMemory i :=
  keepsMemory_of_meaning hi fun s => memoryCanonical_of_mem_eq (hf s)

end Sys2Proof.Machine
end

section
/-! SUPPORT. Scalar memory instructions keep memory canonical (R77-R80, R356-R358). -/

namespace Sys2Proof.Machine

open Sys2Proof.Safety

theorem orderAmo_mem (writes aq rl : Bool) (scope line : Nat) (s : State) : (orderAmo writes aq rl scope line s).mem = s.mem := by
  have hr : (if rl then (if writes then releaseAt scope line s else releaseFence scope s) else s).mem = s.mem := by
    split
    · split
      · exact releaseAt_mem scope line s
      · exact releaseFence_mem scope s
    · rfl
  unfold orderAmo
  dsimp only
  split
  · exact (acquireAt_mem _ _ _).trans hr
  · exact hr

theorem sendPacket_mem (r : AmoReq) (pa : Nat) (s : State) : (sendPacket r pa s).mem = s.mem := by
  unfold sendPacket
  split <;> rfl

/-- A request that leaves the package leaves its memory alone. -/
theorem sendAmo_mem (r : AmoReq) (rl : Bool) (scope pa : Nat) (s : State) : (sendAmo r rl scope pa s).mem = s.mem := by
  unfold sendAmo
  dsimp only
  rw [waitFor_mem, State.mapHart_mem, sendPacket_mem]
  split
  · rw [releaseAt_mem]
    split
    · exact releaseFence_mem _ _
    · rfl
  · rfl

variable {s : State} (h : MemoryCanonical s)
include h

theorem loadScalar_canonical (f : MFmt) (n : Nat) (signed acq : Bool) : MemoryCanonical (loadScalar f n signed acq s) := by
  unfold loadScalar
  dsimp only
  split
  · exact scalarTrap_canonical h _
  · split
    case h_1 => exact scalarTrap_touch_canonical h _ _ _
    case h_2 => exact h
    case h_3 pa t ha =>
      have ht : MemoryCanonical t := access_memWf _ _ _ _ _ _ _ _ ha h
      cases acq
      · exact ht
      · exact memoryCanonical_of_mem_eq (acquireAt_mem _ _ _) ht

theorem storeScalar_canonical (f : MFmt) (n : Nat) (rel : Bool) : MemoryCanonical (storeScalar f n rel s) := by
  refine watchGateIf_canonical h ?_
  dsimp only
  split
  · exact scalarTrap_canonical h _
  · split
    case h_1 => exact scalarTrap_touch_canonical h _ _ _
    case h_2 => exact h
    case h_3 pa t ha =>
      have ht : MemoryCanonical t := access_memWf _ _ _ _ _ _ _ _ ha h
      split
      · exact scalarTrap_touch_canonical h _ _ _
      · refine storePa_memWf _ _ _ _ ?_
        cases rel
        · exact ht
        · exact memoryCanonical_of_mem_eq (releaseAt_mem _ _ _) ht

theorem watchScalar_canonical (i : Instr) (f : MFmt) (n : Nat) : MemoryCanonical (watchScalar i f n s) := by
  refine gated_canonical h ?_
  dsimp only
  split
  · exact scalarTrap_canonical h _
  · split
    case h_1 => exact scalarTrap_touch_canonical h _ _ _
    case h_2 => exact h
    case h_3 pa t ha =>
      have ht : MemoryCanonical t := access_memWf _ _ _ _ _ _ _ _ ha h
      split
      · exact ht
      · split <;> exact ht

theorem casGate_canonical {on : Bool} {f : State → State} (hf : MemoryCanonical (f s)) : MemoryCanonical (casGate on f s) := by
  unfold casGate
  split
  · exact fenceGate_canonical h hf
  · exact hf

/-- An atomic on the package's own memory keeps it canonical. -/
theorem localAmo_canonical (f : MFmt) (r : AmoReq) (aq rl : Bool) (pa : Nat) : MemoryCanonical (localAmo f r aq rl pa s) :=
  storeAtomic_memWf _ _ _ _ _ (memoryCanonical_of_mem_eq (orderAmo_mem _ _ _ _ _ s) h)

/-- The answer to an atomic keeps memory canonical where its completion does. -/
theorem amoAnswered_canonical {ea : Word} {acc : Nat} {q : Remote} {done : Word → State → State}
    (hd : ∀ old t, MemoryCanonical t → MemoryCanonical (done old t)) : MemoryCanonical (amoAnswered ea acc q done s) := by
  unfold amoAnswered
  split
  · split
    · exact memoryCanonical_of_mem_eq (trapAt_mem _ _) h
    · exact h
  · exact hd _ _ h
  · exact h

theorem amoScalar_canonical (i : Instr) (f : MFmt) (op : Nat) (d aq rl : Bool) : MemoryCanonical (amoScalar i f op d aq rl s) := by
  unfold amoScalar
  extract_lets n ea
  split
  · exact amoAnswered_canonical h fun _ t ht => memoryCanonical_of_mem_eq (orderAmo_mem _ _ _ _ _ (t.addCtx _)) ht
  · refine watchGateIf_canonical h ?_
    split
    · exact scalarTrap_canonical h _
    · split
      case h_1 => exact scalarTrap_touch_canonical h _ _ _
      case h_2 => exact h
      case h_3 pa t ha =>
        have hu : MemoryCanonical t := access_memWf _ _ _ _ _ _ _ _ ha h
        have ht : MemoryCanonical (t.addCtx (s.getP f.sa)) := hu
        dsimp only
        split
        · exact scalarTrap_canonical h _
        · split
          · exact scalarTrap_touch_canonical h _ _ _
          · refine casGate_canonical ht ?_
            split
            · exact memoryCanonical_of_mem_eq (sendAmo_mem _ _ _ _ _) ht
            · exact localAmo_canonical ht _ _ _ _ _

end Sys2Proof.Machine
end

section
/-! SUPPORT. Control registers, returns, configuration, provenance and tidepool instructions keep memory canonical. -/

namespace Sys2Proof.Machine

open Sys2Proof.Safety

theorem exitHart_mem (s : State) : (exitHart s).mem = s.mem := by
  have hd := discardHeld_mem s
  unfold exitHart
  dsimp only
  generalize discardHeld s = u at hd ⊢
  rw [← hd]
  split
  · rfl
  · split
    · rfl
    · split
      · exact trapAt_mem _ _
      · split
        · rfl
        · exact endHart_mem u

theorem eretOrdinary_mem (s : State) : (eretOrdinary s).mem = s.mem := by
  unfold eretOrdinary
  dsimp only
  split
  · rw [deliver_mem, returnFrom_mem]
  · exact returnFrom_mem s

theorem writeHfmask_mem (v : Word) (p : PvSet) (s : State) : (writeHfmask v p s).mem = s.mem := by
  unfold writeHfmask
  split <;> rfl

theorem writeHtvec_mem (v : Word) (p : PvSet) (s : State) : (writeHtvec v p s).mem = s.mem := by
  unfold writeHtvec
  split <;> rfl

theorem writePartid_mem (v : Word) (s : State) : (writePartid v s).mem = s.mem := by
  unfold writePartid
  split <;> rfl

theorem writePvctx_mem {v info : Word} {s t : State} (hw : writePvctx v info s = .ok t) : t.mem = s.mem := by
  unfold writePvctx at hw
  dsimp only at hw
  split at hw
  · exact nomatch hw
  · injection hw with hw; exact hw ▸ rfl

theorem bumpGen_mem (frame : Nat) (s : State) : (bumpGen frame s).mem = s.mem := rfl

section
variable {s : State} (h : MemoryCanonical s)
include h

/-- A write of EVADDR walks the tables as a load does, and no more. -/
theorem writeEvaddr_canonical {v : Word} {t : State} (hw : writeEvaddr v s = .ok t) : MemoryCanonical t := by
  unfold writeEvaddr at hw
  split at hw
  · injection hw with hw; exact hw ▸ h
  · split at hw
    · exact nomatch hw
    · next hx => injection hw with hw; exact hw ▸ (xlat_canonical h hx : MemoryCanonical _)

/-- A control-register write that is not refused keeps memory canonical. -/
theorem csrWrite_canonical {n : Nat} {v info : Word} {p : PvSet} {t : State} (hw : csrWrite n v info p s = .ok t) :
    MemoryCanonical t := by
  unfold csrWrite at hw
  dsimp only at hw
  split at hw
  · split at hw
    · exact nomatch hw
    · next hc => injection hw with hw; subst hw; exact (memoryCanonical_of_mem_eq (writePvctx_mem hc) h : MemoryCanonical _)
  · split at hw
    · exact nomatch hw
    · next hc => injection hw with hw; subst hw; exact (writeEvaddr_canonical h hc : MemoryCanonical _)
  all_goals injection hw with hw; subst hw
  case h_5 => exact memoryCanonical_of_mem_eq (writeHfmask_mem _ _ _) h
  case h_7 => exact memoryCanonical_of_mem_eq (writeHtvec_mem _ _ _) h
  case h_8 => exact memoryCanonical_of_mem_eq (writePartid_mem _ _) h
  all_goals exact h

theorem csrForm_canonical (i : Instr) (f : IFmt) (write : Bool) (new : Word → Word → Word) :
    MemoryCanonical (csrForm i f write new s) := by
  unfold csrForm
  dsimp only
  split
  · exact scalarTrap_canonical h _
  · split
    · split
      · next hw => exact (csrWrite_canonical (s := s.setS _ _ _) h hw : MemoryCanonical _)
      · exact scalarTrap_canonical h _
    · exact h

/-- A line dropped from the tidepool leaves memory canonical. -/
theorem dropLine_canonical (line : Nat) : MemoryCanonical (dropLine line s) := by
  unfold dropLine
  dsimp only
  split <;> exact memWf_memErase _ _ _ h

theorem discardPart_canonical (p : DiscardPart) : MemoryCanonical (discardPart p s) :=
  forRange_keeps MemoryCanonical dropLine (fun l _ hs => dropLine_canonical hs l) _ _ _ h

end

/-- The translation of a DISCARD range keeps memory canonical. -/
theorem discardParts_canonical (fuel : Nat) {va : Word} {len : Nat} {s t : State} {l : List DiscardPart} (h : MemoryCanonical s)
    (hp : discardParts va len s fuel = .ok (l, t)) : MemoryCanonical t := by
  induction fuel generalizing va len s t l with
  | zero => injection hp with hp; injection hp with _ ht; exact ht ▸ h
  | succ n ih =>
    unfold discardParts at hp
    split at hp
    · injection hp with hp; injection hp with _ ht; exact ht ▸ h
    · dsimp only at hp
      split at hp
      · exact nomatch hp
      · next hx =>
        split at hp
        · exact nomatch hp
        · split at hp
          · exact nomatch hp
          · split at hp
            · exact nomatch hp
            · next hr =>
              injection hp with hp
              injection hp with _ ht
              exact ht ▸ ih (memoryCanonical_of_mem_eq (recordTide_mem _ _ _) (xlat_canonical h hx)) hr

/-- Dropping the parts of a DISCARD one after another keeps memory canonical. -/
theorem discardAll_canonical (l : List DiscardPart) {s : State} (h : MemoryCanonical s) :
    MemoryCanonical (l.foldl (fun t p => discardPart p t) s) := by
  induction l generalizing s with
  | nil => exact h
  | cons p l ih => exact ih (discardPart_canonical h p)

/-! ### The instructions of these families -/

section
variable {i : Instr}

/-- An instruction whose effect is one scalar result keeps memory canonical. -/
theorem keepsMemory_of_result {sd : BitVec 5} {v : State → Word} {p : State → PvSet}
    (hi : ∀ s, exec i s = .next (retire (s.setS sd (v s) (p s)))) : KeepsMemory i :=
  keepsMemory_of_mem_eq hi fun _ => rfl

theorem keepsMemory_of_load {f : MFmt} {n : Nat} {signed acq : Bool} (hi : ∀ s, exec i s = .next (loadScalar f n signed acq s)) :
    KeepsMemory i := keepsMemory_of_meaning hi fun _ h => loadScalar_canonical h f n signed acq

theorem keepsMemory_of_store {f : MFmt} {n : Nat} {rel : Bool} (hi : ∀ s, exec i s = .next (storeScalar f n rel s)) :
    KeepsMemory i := keepsMemory_of_meaning hi fun _ h => storeScalar_canonical h f n rel

theorem keepsMemory_of_watchedLoad {j : Instr} {f : MFmt} {n : Nat} (hi : ∀ s, exec i s = .next (watchScalar j f n s)) :
    KeepsMemory i := keepsMemory_of_meaning hi fun _ h => watchScalar_canonical h j f n

theorem keepsMemory_of_amo {j : Instr} {f : MFmt} {op : Nat} {d aq rl : Bool}
    (hi : ∀ s, exec i s = .next (amoScalar j f op d aq rl s)) : KeepsMemory i :=
  keepsMemory_of_meaning hi fun _ h => amoScalar_canonical h j f op d aq rl

theorem keepsMemory_of_branch {f : BFmt} {c : Word → Word → Bool} (hi : ∀ s, exec i s = .next (branch f c s)) : KeepsMemory i :=
  keepsMemory_of_mem_eq hi (branch_mem f c)

theorem keepsMemory_of_maskBranch {f : BFmt} {onSet : Bool} (hi : ∀ s, exec i s = .next (maskBranch f onSet s)) : KeepsMemory i :=
  keepsMemory_of_mem_eq hi (maskBranch_mem f onSet)

theorem keepsMemory_of_csrForm {j : Instr} {f : IFmt} {write : Bool} {new : Word → Word → Word}
    (hi : ∀ s, exec i s = .next (csrForm j f write new s)) : KeepsMemory i :=
  keepsMemory_of_meaning hi fun _ h => csrForm_canonical h j f write new

theorem keepsMemory_of_tagForm {j : Instr} {f : IFmt} {clear : Bool} (hi : ∀ s, exec i s = .next (tagForm j f clear s)) :
    KeepsMemory i := keepsMemory_of_mem_eq hi (tagForm_mem j f clear)

end

theorem jal_keepsMemory (f : BFmt) : KeepsMemory (.jal f) := keepsMemory_of_mem_eq (fun _ => rfl) fun _ => jumpTo_mem _ rfl

theorem jalr_keepsMemory (f : BFmt) : KeepsMemory (.jalr f) := keepsMemory_of_mem_eq (fun _ => rfl) fun _ => jumpTo_mem _ rfl

theorem scall_keepsMemory (f : IFmt) : KeepsMemory (.scall f) := by
  refine keepsMemory_of_mem_eq (fun _ => rfl) fun s => ?_
  split
  · exact scalarTrap_mem _ s
  · split
    · exact deliver_mem _ _ s
    · rfl

theorem brk_keepsMemory (f : IFmt) : KeepsMemory (.brk f) := keepsMemory_of_mem_eq (fun _ => rfl) (scalarTrap_mem _)

theorem nop_keepsMemory : KeepsMemory .nop := keepsMemory_of_mem_eq (fun _ => rfl) retire_mem

theorem eret_keepsMemory : KeepsMemory .eret := by
  refine keepsMemory_of_mem_eq (fun _ => rfl) fun s => ?_
  split
  · exact scalarTrap_mem _ s
  · split
    · exact exitHart_mem s
    · exact eretOrdinary_mem s

theorem wfe_keepsMemory : KeepsMemory .wfe := by
  refine keepsMemory_of_mem_eq (fun _ => rfl) fun s => ?_
  split <;> rfl

/-- A fence merges sectors, whose bytes stand at their homes already. -/
theorem fence_keepsMemory (f : IFmt) : KeepsMemory (.fence f) := by
  refine keepsMemory_of_meaning (fun _ => rfl) fun s h => watchGateIf_canonical h (fenceGate_canonical h ?_)
  refine memoryCanonical_of_mem_eq (retire_mem _) ?_
  split
  · refine memoryCanonical_of_mem_eq (acquireFence_mem _ _) ?_
    split
    · exact memoryCanonical_of_mem_eq (releaseFence_mem _ _) h
    · exact h
  · split
    · exact memoryCanonical_of_mem_eq (releaseFence_mem _ _) h
    · exact h

theorem ifence_keepsMemory : KeepsMemory .ifence :=
  keepsMemory_of_meaning (fun _ => rfl) fun _ h => fenceGate_canonical h h

theorem setvl_keepsMemory (f : IFmt) : KeepsMemory (.setvl f) := by
  intro s t h (ht : execSetvl f s = .next t)
  unfold execSetvl at ht
  extract_lets lc level n at ht
  injection ht with ht
  subst ht
  refine memoryCanonical_of_mem_eq ?_ h
  split
  · rw [waitFor_mem]
  · next u vl p v w _ =>
      have hu : u.mem = s.mem := by
        unfold u
        split
        · exact changeLevel_mem _ _ s
        · rfl
      calc (retire (w.setS f.sd (BitVec.ofNat 64 vl) p)).mem
        _ = w.mem := by rw [retire_mem, State.setS_mem]
        _ = u.mem := by simp only [w, v, State.mapHart_mem]
        _ = s.mem := hu

theorem fork_keepsMemory (f : IFmt) : KeepsMemory (.fork f) := by
  refine keepsMemory_of_meaning (fun _ => rfl) fun s h => gated_canonical h ?_
  split
  · exact h
  · refine watchGate_canonical h ?_
    split
    · exact scalarTrap_canonical h _
    · split
      · exact scalarTrap_canonical h _
      · exact memoryCanonical_of_mem_eq (forkTo_mem _ _ s) h

theorem join_keepsMemory : KeepsMemory .join := by
  refine keepsMemory_of_meaning (fun _ => rfl) fun s h => gated_canonical h ?_
  split
  · exact h
  · refine watchGate_canonical h ?_
    split
    · split <;> exact h
    · split
      · exact memoryCanonical_of_mem_eq (endHart_mem s) h
      · exact scalarTrap_canonical h _

theorem pvctx_keepsMemory (f : RFmt) : KeepsMemory (.pvctx f) := by
  refine keepsMemory_of_mem_eq (fun _ => rfl) fun s => ?_
  split
  · exact scalarTrap_mem _ s
  · rfl

theorem pvclr_keepsMemory : KeepsMemory .pvclr := by
  refine keepsMemory_of_meaning (fun _ => rfl) fun s h => ?_
  split
  · exact h
  · refine watchGate_canonical h (memoryCanonical_of_mem_eq ?_ h)
    rw [retire_mem, State.mapHart_mem, State.mapCore_mem]

theorem wchk_keepsMemory (f : IFmt) : KeepsMemory (.wchk f) := by
  refine keepsMemory_of_meaning (fun _ => rfl) fun s h => gated_canonical h ?_
  split
  · exact h
  · dsimp only
    split
    · exact memoryCanonical_of_mem_eq (jumpTo_mem _ rfl) h
    · exact h

theorem wclr_keepsMemory : KeepsMemory .wclr := keepsMemory_of_meaning (fun _ => rfl) fun _ h => gated_canonical h h

theorem discard_keepsMemory (f : RFmt) : KeepsMemory (.discard f) := by
  refine keepsMemory_of_meaning (fun _ => rfl) fun s h => ?_
  split
  · exact scalarTrap_canonical h _
  · split
    case h_1 => exact scalarTrap_canonical h _
    case h_2 => exact h
    case h_3 l t hp =>
      have ht : MemoryCanonical t := discardParts_canonical _ h hp
      have hu : MemoryCanonical (t.addCtx (s.getP f.sa ||| s.getP f.sb)) := ht
      exact memoryCanonical_of_mem_eq (foldl_mem _ (fun t n => bumpGen_mem n t) _ _) (discardAll_canonical l hu)

theorem tpprobe_keepsMemory (f : RFmt) : KeepsMemory (.tpprobe f) := by
  refine keepsMemory_of_meaning (fun _ => rfl) fun s h => ?_
  split
  · exact scalarTrap_canonical h _
  · next pa e t hx =>
    split
    · exact h
    · exact memoryCanonical_of_mem_eq (recordTide_mem pa e t) (xlat_canonical h hx)

end Sys2Proof.Machine
end

section
open Sys2Proof Sys2Proof.Machine Sys2Proof.Safety

/-- Settles O7: the memory of the reset state is the empty list. -/
theorem resetMemoryCanonical : Obligations.ResetMemoryCanonical := by
  unfold Obligations.ResetMemoryCanonical MemoryCanonical
  rfl

/-- Settles O37, family by family: the results of SALU and SIMM leave memory alone; loads, stores, watched loads and atomics change it
by translation and by writes that keep its form; of the rest, only EVADDR's and the tidepool's translations and DISCARD reach it. -/
theorem instructionsKeepMemoryCanonical : Obligations.InstructionsKeepMemoryCanonical := by
  intro r n b m o d q
  simp only [List.forall_mem_cons, List.not_mem_nil, false_implies, implies_true, and_true]
  refine ⟨?_, ?_, ?_, ?_⟩
  · and_intros <;> exact keepsMemory_of_result fun _ => rfl
  · and_intros
    iterate 7 exact keepsMemory_of_load fun _ => rfl
    iterate 4 exact keepsMemory_of_store fun _ => rfl
    iterate 4 exact keepsMemory_of_watchedLoad fun _ => rfl
  · and_intros <;> exact keepsMemory_of_amo fun _ => rfl
  · refine ⟨?_, ?_, ?_, ?_, ?_, ?_, ?_, ?_, jal_keepsMemory b, jalr_keepsMemory b, scall_keepsMemory n, brk_keepsMemory n,
      eret_keepsMemory, wfe_keepsMemory, nop_keepsMemory, fence_keepsMemory n, ifence_keepsMemory, ?_, ?_, ?_, ?_, setvl_keepsMemory n,
      ?_, ?_, ?_, fork_keepsMemory n, join_keepsMemory, ?_, pvctx_keepsMemory r, pvclr_keepsMemory, wchk_keepsMemory n,
      wclr_keepsMemory, discard_keepsMemory r, tpprobe_keepsMemory r⟩
    iterate 6 exact keepsMemory_of_branch fun _ => rfl
    iterate 2 exact keepsMemory_of_maskBranch fun _ => rfl
    iterate 4 exact keepsMemory_of_csrForm fun _ => rfl
    iterate 2 exact keepsMemory_of_tagForm fun _ => rfl
    iterate 2 exact keepsMemory_of_result fun _ => rfl

end

section
/-! SUPPORT. The decoder and the encoder undo each other: what a decoded word satisfies, format by format. -/

namespace Sys2Proof.Laws.RoundTrip

/-- The decoder reads the word of every well-formed instruction as that instruction: the lemmas of the constructors, in their order. -/
theorem decode_encode (i : Instr) : Statement i :=
  Instr.rec (motive := Statement) add sub and or xor andn sll srl sra mul mulh mulhu div divu rem remu min max minu maxu slt
    sltu clz ctz popc sel addi andi ori xori slli srli srai slti sltiu li lih lb lbu lh lhu lw lwu ld sb sh sw sd wldB wldH wldW
    wldD amoadd amoand amoor amoxor amomin amomax amominu amomaxu amoswap amocas beq bne blt bge bltu bgeu bmz bmnz jal jalr
    scall brk csrrd csrwr csrset csrclr fence setvl vtag vretag vtagrd fork pvrd pvctx wchk discard tpprobe bar wmpub wmwait
    launch copy decomp sread gate twait tpoll vsave vrestore frsave frload xfreeze xthaw reserve migrate tlbinv gateinst pgfree
    vadd vsub vadc vsbc vand vor vxor vandn vsll vsrl vsra vmin vmax vminu vmaxu vabsd vsadd vssub vmul vmulh vmulhu vmac vdot16
    vwmul vcmp vsel vmv vsplat vext vins mand mor mxor mandn mnot mshl mshr mset mpopc mfirst mlast mbit vfadd vfsub vfmul vfma
    vfms vfnma vfnms vfdiv vfsqrt vfmin vfmax vfcmp vfclass vfabs vfneg vfrcp vfrsq vfexp2 vflog2 vcvt vwiden vnarrow vscale
    vquant vred vfred vscan vfscan vsegpack vperm vslideup vslidedn vzip vunzip vcompress vbcast vunpk vpackpx vld vlds vldx
    vldxo vwld vwlds vst vsts vstx vstxo vamoadd vamoand vamoor vamoxor vamomin vamomax vamominu vamomaxu vamoswap vamooadd
    vamooand vamooor vamooxor vamoomin vamoomax vamoominu vamoomaxu vamooswap kld kst xop bind unbind xstat chopen chclose
    chsend chrecv chwait chstat mma mman mmab macinit mdrain mzero mstat mclaim mrels mload mfill mhdr illegalWord eret wfe
    ifence nop join pvclr wclr hartExit evaddrWrite evtimerWrite pvctxCsrWrite hfmaskWrite htvecWrite partidWrite
    trapstatusWrite registerWrite timerEvent evaddrLineWrite levelChange vectorPost issueClk elementGroupProcess
    elementGroupEmit loadGroupReturn storeGroupPerform deferredTranslationGroup deferredVectorTrap pageTableWalk lineFill
    ownershipGrant acquireMerge lazyMergeTimeout unscrubClearDone watermarkWake watchCheckSend watchCheckDecide watchReplyRecord
    watchTimeoutStrike reefQueueHead imagePlacement nodeFiring mNodeLoadReturn portTokenMove reefStallTimeout opcodeComplete
    islandOrderAdmit matrixStepBegin stepResult accumulatorDrain drainWritesPerformed fillDataWrite slotPublish
    channelCounterArrive elasticMoveStart elasticMoveDone engineComplete nvmeCompletion sreadQueueSlot breakwaterRequest
    breakwaterDeliveryDone epochTick queueTailObserve recordTake dependenceWatermarkMet dispatchDecision levelPromotion
    hartStart taskEnd completionSignalWrite preemptHartStop hartContextSave markFillPublish markTake markWaitTimeout
    preemptionComplete tidepoolSpillTrap tidepoolBacking hostCxlMemRequest priPageRequest priResponse atomicopCompletion
    functionLevelReset flitReceive peerOperationPacket peerResponse peerResponseTimeout packageUnreachable roceIncomingData
    roceReadRequest hostWorkRequest errorRetry uncorrectableReread lastingFaultRepair coreSwap thermalLimit thermalStop neapExit
    boot mqtailWrite pcreate preset pdestroy ways bwshare mem qtable ctxpool spillpool roster prov nsbind qpbind fmask hvec elog
    attest fwupdate fwupdateActivate power springStateChange domainAssembly i

end Sys2Proof.Laws.RoundTrip

namespace Sys2Proof

/-- A number is read back from its bytes. -/
theorem leBytes_toLeBytes (n x : Nat) : leBytes (toLeBytes n x) = x % 256 ^ n := by
  induction n generalizing x with
  | zero => simp [toLeBytes, leBytes, Nat.mod_one]
  | succ n ih =>
    simp only [toLeBytes, leBytes, ih, BitVec.toNat_ofNat]
    exact (congrArg (x % ·) (Nat.pow_succ' (m := 256))).trans (Nat.mod_mul ..) |>.symm

theorem length_toLeBytes (n x : Nat) : (toLeBytes n x).length = n := by
  induction n generalizing x with
  | zero => rfl
  | succ n ih => simp [toLeBytes, ih]

/-- The decoder of bytes reads the eight bytes of a word as the decoder of words reads the word, and leaves what follows. -/
theorem decodeBytes_toLeBytes {w : Word} {i : Instr} (h : decode w = .ok i) (rest : List Byte) :
    decodeBytes (toLeBytes 8 w.toNat ++ rest) = .ok (i, rest) := by
  have hl : (toLeBytes 8 w.toNat).length = 8 := length_toLeBytes 8 _
  have hw : BitVec.ofNat 64 (leBytes (toLeBytes 8 w.toNat)) = w := by
    rw [leBytes_toLeBytes, Nat.mod_eq_of_lt (show w.toNat < 256 ^ 8 from w.isLt), BitVec.ofNat_toNat, BitVec.setWidth_eq]
  unfold decodeBytes
  rw [List.take_left' hl, List.drop_left' hl, hw, h, if_neg (by simp [hl])]

/-! ### What the decoder accepts -/

/-- What a decoded word satisfies: it has a format, its fields build the instruction, and every check passes. -/
theorem decode_eq_ok_iff (w : Word) (i : Instr) : decode w = .ok i ↔
    ∃ k, fmtOf (majorOf w) (fnOf w) = some k ∧ build (majorOf w) (fnOf w) (unpack k w) = some i ∧ convoyBitOk k w = true ∧
      formatZeroOk k w = true ∧ bareOk (majorOf w) (fnOf w) w = true ∧ i.wf = true := by
  unfold decode
  constructor
  · intro h
    split at h
    · cases h
    · next k hk =>
      refine ⟨k, hk, ?_⟩
      split at h
      · cases h
      · next j hj =>
        split at h
        · cases h
        · split at h
          · cases h
          · split at h
            · cases h; simp_all
            · cases h
  · rintro ⟨k, hk, hb, hc, hz, hbare, hwf⟩
    simp [hk, hb, hc, hz, hbare, hwf]

/-- Bit 57 set in a format that has no convoy bit: the decoder turns the word away (R28). -/
theorem decode_error_of_convoyBit {w : Word} (h57 : w.getLsbD 57 = true) (hv : fmtOf (majorOf w) (fnOf w) ≠ some .v)
    (hvm : fmtOf (majorOf w) (fnOf w) ≠ some .vm) : ∃ e, decode w = .error e := by
  cases hd : decode w with
  | error e => exact ⟨e, rfl⟩
  | ok i =>
    obtain ⟨k, hk, -, hc, -⟩ := (decode_eq_ok_iff w i).mp hd
    cases k <;> simp_all [convoyBitOk]

/-! ### The fields of a word and the word of fields -/

/-- Neighbouring fields of a word joined. -/
theorem fld_append (w : Word) (hi m lo n : Nat) (h : hi = lo + n) : fld w hi m ++ fld w lo n = fld w lo (m + n) :=
  BitVec.extractLsb'_append_extractLsb'_eq_extractLsb' h

theorem bit_getLsbD (w : Word) (k : Nat) : bit (w.getLsbD k) = fld w k 1 := by
  refine BitVec.eq_of_getLsbD_eq fun j hj => ?_
  obtain rfl : j = 0 := by omega
  cases h : w.getLsbD k <;> simp [bit, fld, h]

theorem ofNat_fld (w : Word) (lo n : Nat) : BitVec.ofNat n (fld w lo n).toNat = fld w lo n := by
  rw [BitVec.ofNat_toNat, BitVec.setWidth_eq]

/-- The parts of a zero field are zero. -/
theorem fld_eq_zero {w : Word} {m lo n : Nat} (h : fld w 0 m = 0) (hm : lo + n ≤ m) : fld w lo n = 0 := by
  refine BitVec.eq_of_getLsbD_eq fun j hj => ?_
  have := congrArg (fun x => BitVec.getLsbD x (lo + j)) h
  simp only [fld, BitVec.getLsbD_extractLsb', BitVec.ofNat_eq_ofNat, BitVec.getLsbD_zero] at this ⊢
  simpa [hj, show lo + j < m by omega] using this

/-- The formats whose function code stands in FN: all but B and X. -/
theorem fnOf_eq_fld {w : Word} {k : Fmt} (h : fmtOf (majorOf w) (fnOf w) = some k) (hb : k ≠ .b) (hx : k ≠ .x) :
    fnOf w = (fld w 50 7).toNat := by
  have h5 : majorOf w ≠ 5 := fun e => hb (by simpa [e, fmtOf] using h.symm)
  have h6 : majorOf w ≠ 6 := fun e => hb (by simpa [e, fmtOf] using h.symm)
  have h20 : majorOf w ≠ 0x20 := fun e => hx (by simpa [e, fmtOf] using h.symm)
  simp [fnOf, h5, h6, h20]

/-- The B format is that of the majors 5 and 6, whose condition stands in three bits. -/
theorem fnOf_eq_cond {w : Word} (h : fmtOf (majorOf w) (fnOf w) = some .b) : fnOf w = (fld w 54 3).toNat := by
  have hm : majorOf w = 5 ∨ majorOf w = 6 := by
    unfold fmtOf at h
    split at h <;> simp_all [ite_eq_iff]
  rcases hm with hm | hm <;> simp [fnOf, hm]

/-- Bit 57 of a word whose format has no convoy bit. -/
theorem convoy_fld {k : Fmt} {w : Word} (h : convoyBitOk k w = true) (hv : k ≠ .v) (hvm : k ≠ .vm) : 0#1 = fld w 57 1 := by
  have h57 : w.getLsbD 57 = false := by simpa [convoyBitOk, hv, hvm] using h
  rw [← bit_getLsbD, h57]
  rfl

/-- A word whose zero fields are zero is packed again from its fields: neighbouring fields join, down to the whole word (R30-R37). -/
theorem pack_unpack {k : Fmt} {w : Word} (hk : fmtOf (majorOf w) (fnOf w) = some k) (hc : convoyBitOk k w = true)
    (hz : formatZeroOk k w = true) : pack (majorOf w) (fnOf w) (unpack k w) = w := by
  have whole : fld w 0 64 = w := BitVec.extractLsb'_eq_self
  cases k with
  | r =>
    have h0 : 0#30 = fld w 0 30 := (by simpa [formatZeroOk] using hz : _ = 0#30).symm
    rw [fnOf_eq_fld hk nofun nofun]
    simp only [pack, unpack, majorOf, ofNat_fld, convoy_fld hc nofun nofun, h0]
    simpa (disch := decide) only [fld_append] using whole
  | i =>
    have h32 : 0#8 = fld w 32 8 := (by simpa [formatZeroOk] using hz : _ = 0#8).symm
    rw [fnOf_eq_fld hk nofun nofun]
    simp only [pack, unpack, majorOf, ofNat_fld, convoy_fld hc nofun nofun, h32]
    simpa (disch := decide) only [fld_append] using whole
  | m =>
    have h24 : 0#3 = fld w 24 3 := (by simpa [formatZeroOk] using hz : _ = 0#3).symm
    rw [fnOf_eq_fld hk nofun nofun]
    simp only [pack, unpack, majorOf, ofNat_fld, convoy_fld hc nofun nofun, h24]
    simpa (disch := decide) only [fld_append] using whole
  | b =>
    obtain ⟨h50, h32⟩ : fld w 50 4 = 0#4 ∧ fld w 32 3 = 0#3 := by simpa [formatZeroOk] using hz
    rw [fnOf_eq_cond hk]
    simp only [pack, unpack, majorOf, ofNat_fld, convoy_fld hc nofun nofun, ← h50, ← h32]
    simpa (disch := decide) only [fld_append] using whole
  | v =>
    rw [fnOf_eq_fld hk nofun nofun]
    simp only [pack, unpack, majorOf, ofNat_fld, bit_getLsbD]
    simpa (disch := decide) only [fld_append] using whole
  | vm =>
    have h27 : 0#3 = fld w 27 3 := (by simpa [formatZeroOk] using hz : _ = 0#3).symm
    rw [fnOf_eq_fld hk nofun nofun]
    simp only [pack, unpack, majorOf, ofNat_fld, bit_getLsbD, h27]
    simpa (disch := decide) only [fld_append] using whole
  | x =>
    have h0 : 0#10 = fld w 0 10 := (by simpa [formatZeroOk] using hz : _ = 0#10).symm
    simp only [pack, unpack, majorOf, ofNat_fld, bit_getLsbD, convoy_fld hc nofun nofun, h0]
    simpa (disch := decide) only [fld_append] using whole
  | t =>
    rw [fnOf_eq_fld hk nofun nofun]
    simp only [pack, unpack, majorOf, ofNat_fld, bit_getLsbD, convoy_fld hc nofun nofun]
    simpa (disch := decide) only [fld_append] using whole

/-! ### The form that a function code builds, and its code -/

/-- An R form has the code it was built from; a word that builds one of those that use no field has its fields zero. -/
theorem code_of_buildRFmt {j n : Nat} {w : Word} {i : Instr} (h : build j n (unpack .r w) = some i) (hbare : bareOk j n w = true) :
    i.code = some (j, n, unpack .r w) := by
  have bare (h0 : fld w 0 50 = 0) : Fields.r ⟨0, 0, 0, 0⟩ = unpack .r w := by
    simp [unpack, fld_eq_zero h0]
  simp only [unpack, build, buildRFmt] at h
  repeat' split at h
  all_goals cases h
  all_goals try rfl
  -- The forms without a field remain.
  all_goals exact congrArg (fun f => some (_, _, f)) (bare (by simpa [bareOk] using hbare))

/-- A form has the code it was built from. -/
theorem code_of_build {k : Fmt} {j n : Nat} {w : Word} {i : Instr} (h : build j n (unpack k w) = some i) (hbare : bareOk j n w = true) :
    i.code = some (j, n, unpack k w) := by
  cases k
  case r => exact code_of_buildRFmt h hbare
  all_goals
    simp only [unpack, build, buildIFmt, buildMFmt, buildBFmt, buildVFmt, buildVMFmt, buildXFmt, buildTFmt] at h
    repeat' split at h
    all_goals cases h
    all_goals rfl

/-- The word of the instruction that a word decodes to is that word. -/
theorem encode_of_decode {w : Word} {i : Instr} (h : decode w = .ok i) : encode i = w := by
  obtain ⟨k, hk, hb, hc, hz, hbare, -⟩ := (decode_eq_ok_iff w i).mp h
  rw [encode, code_of_build hb hbare]
  exact pack_unpack hk hc hz

end Sys2Proof
end

section
open Sys2Proof Sys2Proof.Laws.RoundTrip

/-- Settles O1, by the round trip of each constructor. -/
theorem encodedWordsDecodeBack : Obligations.EncodedWordsDecodeBack := fun i rest hw =>
  ⟨decode_encode i hw, decodeBytes_toLeBytes (decode_encode i hw) rest⟩

/-- Settles O2: the checks that a decoded word has passed leave no bit outside its code and its fields. -/
theorem decodedWordIsItsEncoding : Obligations.DecodedWordIsItsEncoding := fun w i h =>
  have ⟨_, _, _, _, _, _, hwf⟩ := (decode_eq_ok_iff w i).mp h
  ⟨hwf, encode_of_decode h⟩

/-- Settles O3: each word is the encoding of its instruction, which is well formed; major 0 is reserved. -/
theorem specWordsDecode : Obligations.SpecWordsDecode :=
  ⟨decode_encode (.csrrd ⟨7, 0, 1⟩) rfl, decode_encode (.setvl ⟨4, 3, 0x23⟩) rfl, decode_encode .nop rfl,
    decode_encode (.add ⟨3, 1, 2, 0⟩) rfl, decode_encode (.lw ⟨3, 1, 0, 0, 0, 8⟩ false) rfl, decode_encode (.beq ⟨0, 1, 2, 2⟩) rfl,
    decode_encode (.vadd ⟨false, 3, 1, false, 2, true, 0, false, 2, false, false, 0, 0, false, 0⟩) rfl,
    decode_encode (.lw ⟨5, 29, 0, 0, 2, 0xFFFFF0⟩ true) rfl, rfl⟩

/-- Settles O20: the check of bit 57 stands before every word that decodes. -/
theorem cvBitOnlyInVectorFormats : Obligations.CvBitOnlyInVectorFormats := fun _ h57 hv hvm => decode_error_of_convoyBit h57 hv hvm

end

section
/-! SUPPORT. The entry of a trap to a handler, and the gate of the decoder's checks, in the terms of `Safety`. -/

namespace Sys2Proof.Machine

open Sys2Proof.Safety

/-! ### Delivery (R409-R411) -/

theorem startClear_eq (pa : Nat) (s : State) : startClear pa s = { s with clearing := (startClear pa s).clearing } := by
  unfold startClear
  dsimp only
  split <;> rfl

theorem foldl_startClear_eq (l : List Nat) (s : State) :
    l.foldl (fun s a => startClear a s) s = { s with clearing := (l.foldl (fun s a => startClear a s) s).clearing } := by
  induction l generalizing s with
  | nil => rfl
  | cons a l ih =>
    rw [List.foldl_cons, ih, startClear_eq a s]

/-- A failed walk starts clears and changes nothing else. -/
theorem walkClear_eq (r va : Word) (s : State) : walkClear r va s = { s with clearing := (walkClear r va s).clearing } := by
  unfold walkClear
  split
  · rfl
  · exact foldl_startClear_eq _ s

/-- What comes before the entry proper leaves the hart, the partitions and memory alone. -/
theorem beforeDelivery_keeps (t : TrapRec) (s : State) :
    let u := if t.cause == 8 then walkClear (leaveReef s).hart.csr.ptroot t.info (leaveReef s) else leaveReef s
    u.hart = s.hart ∧ u.parts = s.parts := by
  dsimp only
  split
  · rw [walkClear_eq]; exact ⟨rfl, rfl⟩
  · exact ⟨rfl, rfl⟩

theorem statusWord_eq_entryStatus (acc detail : Nat) (m : Mode) : statusWord acc detail false m = entryStatus acc detail m := by
  simp only [statusWord, entryStatus, Bool.false_eq_true, if_false]
  congr 1
  omega

/-- The spill traps that a hart has taken, after a trap to a handler (R461). -/
def Hart.notedSpills (t : TrapRec) (m : Mode) (h : Hart) : List (Nat × Option Mode) :=
  if t.cause == 21 then h.spills.map fun x => if x.1 == (t.info.extractLsb' 16 36).toNat then (x.1, some m) else x else h.spills

/-- The hart in the supervisor's handler. -/
def Hart.inSupervisor (t : TrapRec) (pc : Word) (h : Hart) : Hart :=
  ((({ h with
    lastTrap := some t, spills := h.notedSpills t .supervisor, mode := .supervisor, pc := h.csr.tvec, asideS := h.watch, watch := []
    status := .running, fetchTaken := true, asideBarS := h.arrival, arrival := none
    csr := { h.csr with tr := ⟨BitVec.ofNat 64 t.cause, t.info, pc, statusWord t.acc t.detail h.heldBy.isSome h.mode⟩ } }
    ).setCsrPv 0x100 h.ctx).setCsrPv 0x101 h.ctx).setCsrPv 0x102 h.ctx |>.setCsrPv 0x103 h.ctx

theorem deliver_hart_supervisor {t : TrapRec} {s : State} (pc : Word) (hr : route s.hart t.cause = (.supervisor, false)) :
    (deliver t pc s).hart = s.hart.inSupervisor t pc := by
  obtain ⟨hu, -⟩ := beforeDelivery_keeps t s
  unfold deliver
  dsimp only at hu ⊢
  rw [hu, hr]
  rfl

/-- A trap that is routed to the supervisor enters it (R410, R411); ctx is unchanged. -/
theorem deliver_supervisor {t : TrapRec} {s : State} (pc : Word) (hr : route s.hart t.cause = (.supervisor, false)) :
    EntersSupervisor t pc s (deliver t pc s) ∧ (deliver t pc s).ctx = s.ctx := by
  have h := deliver_hart_supervisor pc hr
  refine ⟨⟨?_, ?_, ?_, fun hh => ?_, ?_, ?_, ?_, ?_, ?_, deliver_mem t pc s⟩, ?_⟩
  case refine_4 => simp [h, Hart.inSupervisor, Hart.setCsrPv, hh, statusWord_eq_entryStatus]
  all_goals simp [h, Hart.inSupervisor, Hart.setCsrPv, State.ctx]

/-- What a hart holds after its trap has entered the hypervisor with a cause and a detail (R411, R474). -/
structure EntersHypervisor (cause detail : Nat) (t : TrapRec) (at_ : Word) (s u : State) : Prop where
  cause : u.hart.csr.htr.cause = BitVec.ofNat 64 cause
  info : u.hart.csr.htr.info = t.info
  pcSaved : u.hart.csr.htr.pc = at_
  status : s.hart.heldBy = none → u.hart.csr.htr.status = entryStatus t.acc detail s.hart.mode
  mode : u.hart.mode = .hypervisor
  pc : u.hart.pc = s.htvec
  watch : u.hart.watch = [] ∧ u.hart.asideH = s.hart.watch
  regs : u.hart.s = s.hart.s ∧ u.hart.sp = s.hart.sp ∧ u.hart.vec = s.hart.vec
  supervisor : u.hart.csr.tr = s.hart.csr.tr
  memory : u.mem = s.mem

/-- The hart in the hypervisor's handler at a vector, with the partition that it finds selected. -/
def Hart.inHypervisor (t : TrapRec) (cause detail : Nat) (pc vec : Word) (part : Nat) (h : Hart) : Hart :=
  ((({ h with
    lastTrap := some t, spills := h.notedSpills t .hypervisor, mode := .hypervisor, pc := vec, asideH := h.watch, watch := []
    status := .running, fetchTaken := true, asideBarH := h.arrival, arrival := none
    csr := { h.csr with
      htr := ⟨BitVec.ofNat 64 cause, t.info, pc, statusWord t.acc detail h.heldBy.isSome h.mode⟩, partSel := part } }
    ).setCsrPv 0x201 h.ctx).setCsrPv 0x202 h.ctx).setCsrPv 0x203 h.ctx |>.setCsrPv 0x204 h.ctx

theorem deliver_hart_hypervisor {t : TrapRec} {s : State} {double : Bool} (pc : Word)
    (hr : route s.hart t.cause = (.hypervisor, double)) (hm : s.hart.mode ≠ .hypervisor) (hv : s.htvec ≠ 0) :
    (deliver t pc s).hart =
      s.hart.inHypervisor t (if double then 23 else t.cause) (if double then t.cause else t.detail) pc s.htvec s.partNum := by
  obtain ⟨hu, hp⟩ := beforeDelivery_keeps t s
  unfold deliver
  dsimp only at hu hp ⊢
  generalize (if (t.cause == 8) = true then walkClear (leaveReef s).hart.csr.ptroot t.info (leaveReef s) else leaveReef s) = u at hu hp ⊢
  have hpart : u.part = s.part := by simp only [State.part, State.partOfCore, hu, hp]
  have ht : u.htvec = s.htvec := by simp only [State.htvec, hpart]
  have hgo : ((s.hart.mode == .hypervisor && nestOf s.hart.csr.htr.status) || s.htvec == 0#64) = false := by
    simp [hm]; exact hv
  rw [hu, hr, ht]
  dsimp only
  rw [if_neg (by simp [hgo])]
  dsimp only
  rw [show s.partNum = ({ u with hart := s.hart } : State).partNum by simp only [State.partNum, State.part, State.partOfCore, hp]]
  rfl

/-- A trap that is routed to the hypervisor, which has a vector and in which the hart is not, enters it. -/
theorem deliver_hypervisor {t : TrapRec} {s : State} {double : Bool} (pc : Word) (hr : route s.hart t.cause = (.hypervisor, double))
    (hm : s.hart.mode ≠ .hypervisor) (hv : s.htvec ≠ 0) :
    EntersHypervisor (if double then 23 else t.cause) (if double then t.cause else t.detail) t pc s (deliver t pc s) := by
  have h := deliver_hart_hypervisor pc hr hm hv
  refine ⟨?_, ?_, ?_, fun hh => ?_, ?_, ?_, ?_, ?_, ?_, deliver_mem t pc s⟩
  case refine_4 => simp [h, Hart.inHypervisor, Hart.setCsrPv, hh, statusWord_eq_entryStatus]
  all_goals simp [h, Hart.inHypervisor, Hart.setCsrPv]

/-- The traps that go to the supervisor (R409). -/
theorem route_supervisor {s : State} {cause : Nat} (h : ToSupervisor cause s) : route s.hart cause = (.supervisor, false) := by
  obtain ⟨-, -, h3, hu | ⟨hs, h4, h5, hn⟩⟩ := h
  · simp [route, hu, h3]
  · simp [route, hs, h3, h4, h5, hn]

/-- A masked feature's trap goes to the hypervisor (R409). -/
theorem route_feature {h : Hart} (hm : h.mode ≠ .hypervisor) : route h 3 = (.hypervisor, false) := by
  simp [route, hm]

/-! ### Traps at once (R415) -/

theorem trapBehind_eq_trapAt (w : Wait) (t : TrapRec) {s : State} (hc : s.hart.cur = none) (hp : s.postedDone = true) :
    trapBehind w t s = trapAt t s := by
  simp [trapBehind, hc, hp]

/-- A trap of the decoder's checks enters the supervisor at once. -/
theorem decodeTrap_supervisor {t : TrapRec} {s : State} (h : ToSupervisor t.cause s) :
    EntersSupervisor t s.hart.pc s (decodeTrap t s) := by
  rw [decodeTrap, trapBehind_eq_trapAt _ _ h.1 h.2.1]
  exact (deliver_supervisor _ (route_supervisor h)).1

/-! ### The decoder's checks (R50, R51, R55) -/

theorem gated_of_allowed {i : Instr} {s : State} (f : State → State) (h : Allowed i s) : gated i f s = f s := by
  unfold gated
  rcases h with h | h
  · rw [if_pos h]
  · split
    · rfl
    · rw [h]

theorem gated_of_gate {i : Instr} {s : State} {t : TrapRec} (f : State → State) (hc : s.hart.cur = none) (h : gate i s = some t) :
    gated i f s = decodeTrap t s := by
  simp [gated, hc, h]

/-- A form of the SUP major in user mode has no privilege (R50, R373): it is in no group of the feature mask. -/
theorem gate_sup {i : Instr} {s : State} (hi : Instr.isSup i = true) (hg : Instr.group i = none) (hm : s.hart.mode = .user) :
    gate i s = some (privilege (encode i)) := by
  simp [gate, hg, hi, hm]

/-- An instruction of a masked feature that is not past decode (R51, R55, R473). -/
theorem gate_masked {i : Instr} {s : State} {b : Nat} (hg : Instr.group i = some b) (hb : s.hfmask.getLsbD b = true)
    (hm : s.hart.mode ≠ .hypervisor) (hd : s.hart.pastDecode = false) : gate i s = some ⟨3, encode i, b, 0⟩ := by
  simp [gate, hg, hb, hm, hd]

end Sys2Proof.Machine
end

section
/-! SUPPORT. Words that are no instruction, the decoder's checks, branches and jumps, in the terms of `Safety`. -/

namespace Sys2Proof.Machine

open Sys2Proof.Safety

/-! ### Traps of the decoder's checks -/

/-- What the decoder's checks of privilege turn away completes as the entry to the supervisor. -/
theorem completes_privilege {i : Instr} {f : State → State} {s : State} (hi : exec i s = .next (gated i f s)) (hsup : Instr.isSup i = true)
    (hg : Instr.group i = none) (hc : s.hart.cur = none) (hm : s.hart.mode = .user) (hp : s.postedDone = true) :
    Completes i s fun t => EntersSupervisor ⟨4, encode i, 0, 0⟩ s.hart.pc s t :=
  ⟨_, hi.trans (congrArg _ (gated_of_gate f hc (gate_sup hsup hg hm))), decodeTrap_supervisor (t := privilege _) ⟨hc, hp, (by decide : 4 ≠ 3), .inl hm⟩⟩

/-- What the feature mask turns away completes as the entry to the hypervisor. -/
theorem completes_masked {i : Instr} {f : State → State} {s : State} {b : Nat} (hi : exec i s = .next (gated i f s))
    (hg : Instr.group i = some b) (hb : s.hfmask.getLsbD b = true) (hd : s.hart.pastDecode = false) (hm : s.hart.mode ≠ .hypervisor)
    (hv : s.htvec ≠ 0) (hp : s.postedDone = true) :
    Completes i s fun t => EntersHypervisor 3 b ⟨3, encode i, b, 0⟩ s.hart.pc s t := by
  have hc : s.hart.cur = none := by
    simpa using (Bool.or_eq_false_iff.mp hd).1
  refine ⟨_, hi.trans (congrArg _ (gated_of_gate f hc (gate_masked hg hb hm hd))), ?_⟩
  rw [decodeTrap, trapBehind_eq_trapAt _ _ hc hp]
  exact deliver_hypervisor (t := ⟨3, encode i, b, 0⟩) _ (route_feature hm) hm hv

/-! ### Branches (R81) -/

/-- A transfer to an aligned target. -/
theorem jumpTo_of_aligned {target : Word} (s0 s : State) (h : target.toNat % 8 = 0) :
    jumpTo target s0 s = (retire s).mapHart fun h => { h with pc := target, fetchTaken := true } := by
  simp [jumpTo, h]

theorem branchStep_taken (s : State) (p : PvSet) (target : Word) :
    BranchStep (s.ctx ||| p) target true s ((retire (s.addCtx p)).mapHart fun h => { h with pc := target, fetchTaken := true }) :=
  ⟨rfl, hartOnly_of_eq rfl rfl⟩

theorem branchStep_untaken (s : State) (p : PvSet) : BranchStep (s.ctx ||| p) (nextPc s) false s (retire (s.addCtx p)) :=
  ⟨rfl, hartOnly_of_eq rfl rfl⟩

/-- A branch on a condition, taken or not, with the set that ctx gains. -/
theorem completes_transfer {i : Instr} {s : State} {p : PvSet} {target : Word} {b : Bool} {c : Prop}
    (hi : exec i s = .next (if b then jumpTo target s (s.addCtx p) else retire (s.addCtx p))) (hb : b = true ↔ c)
    (ht : target.toNat % 8 = 0) :
    Completes i s fun t =>
      (c → BranchStep (s.ctx ||| p) target true s t) ∧ (¬ c → BranchStep (s.ctx ||| p) (nextPc s) false s t) := by
  refine ⟨_, hi, fun h => ?_, fun h => ?_⟩
  · rw [if_pos (hb.mpr h), jumpTo_of_aligned _ _ ht]
    exact branchStep_taken s p target
  · rw [if_neg (fun h' => h (hb.mp h'))]
    exact branchStep_untaken s p

/-- The low bits of a number are not all zero where one of them is set. -/
theorem mod_two_pow_ne_zero_iff (x n : Nat) : x % 2 ^ n ≠ 0 ↔ ∃ k, k < n ∧ x.testBit k = true := by
  constructor
  · intro h
    obtain ⟨k, hk⟩ := Nat.exists_testBit_of_ne_zero h
    rw [Nat.testBit_mod_two_pow, Bool.and_eq_true, decide_eq_true_eq] at hk
    exact ⟨k, hk⟩
  · rintro ⟨k, hk, hx⟩ h
    have := Nat.testBit_mod_two_pow x n k
    simp [h, hk, hx] at this

/-! ### Jumps (R82) -/

/-- A register write is known by the registers that it leaves. -/
theorem wrote_congr {sd : BitVec 5} {v : Word} {p : PvSet} {s u t : State} (h : Wrote sd v p s u) (hs : t.hart.s = u.hart.s)
    (hp : t.hart.sp = u.hart.sp) : Wrote sd v p s t := by
  have hS (r : BitVec 5) : t.getS r = u.getS r := by simp only [State.getS, Hart.getS, hs]
  have hP (r : BitVec 5) : t.getP r = u.getP r := by simp only [State.getP, Hart.getP, hp]
  exact ⟨fun h0 => by simpa only [hS, hP] using h.result h0, by simpa only [hS, hP] using h.zero,
    fun r hr => by simpa only [hS, hP] using h.others r hr⟩

/-- The link write of a jump, with ctx as the jump leaves it. -/
def linked (sd : BitVec 5) (p c : PvSet) (s : State) : State :=
  (s.mapHart fun h => { h with ctx := c }).setS sd (s.hart.pc + 8) p

theorem linked_wrote (sd : BitVec 5) (p c : PvSet) (s : State) : Wrote sd (s.hart.pc + 8) p s (linked sd p c s) :=
  have h := setS_wrote (s.mapHart fun h => { h with ctx := c }) sd (s.hart.pc + 8) p
  ⟨h.result, h.zero, h.others⟩

/-- A jump to an aligned target completes with its link register. -/
theorem jumpStep_linked (sd : BitVec 5) (p c : PvSet) (s : State) {target : Word} (ht : target.toNat % 8 = 0) :
    JumpStep sd (s.hart.pc + 8) p c target s (jumpTo target s (linked sd p c s)) := by
  rw [jumpTo_of_aligned _ _ ht]
  have hw := linked_wrote sd p c s
  refine ⟨⟨hw.result, hw.zero, hw.others⟩, ?_, hartOnly_of_eq rfl ?_⟩
  · unfold linked
    simp only [State.setS, State.mapHart, retire, Hart.setS]
    split <;> rfl
  · exact Hart.setS_mode ..

/-- A jump of user mode to a misaligned target, with earlier matrix work done: the link is written, and the trap reports the jump
(R27). -/
theorem jumpTo_misaligned (sd : BitVec 5) (p c : PvSet) (s : State) {target : Word} (ht : target.toNat % 8 ≠ 0)
    (hm : s.hart.mode = .user) (hp : s.postedDone = true) :
    let t := jumpTo target s (linked sd p c s)
    Wrote sd (s.hart.pc + 8) p s t ∧ t.ctx = c ∧ t.hart.mode = .supervisor ∧ t.hart.pc = s.hart.csr.tvec ∧
      t.hart.csr.tr.cause = 2 ∧ t.hart.csr.tr.info = target ∧ t.hart.csr.tr.pc = s.hart.pc ∧ t.mem = s.mem := by
  let u := (linked sd p c s).mapCsr fun c => { c with instret := c.instret + 1 }
  have hj : jumpTo target s (linked sd p c s) = trapAt ⟨2, target, 0, 0⟩ u := by simp [jumpTo, ht, hp, u]
  have hu : u.hart.pc = s.hart.pc ∧ u.hart.mode = .user ∧ u.hart.csr.tvec = s.hart.csr.tvec ∧ u.ctx = c := by
    simp [u, linked, State.setS, State.mapCsr, State.mapHart, State.ctx, hm]
  obtain ⟨hpc, humode, htvec, hctx⟩ := hu
  obtain ⟨he, hc⟩ := deliver_supervisor (t := ⟨2, target, 0, 0⟩) u.hart.pc (show route u.hart 2 = _ by simp [route, humode])
  rw [hj]
  exact ⟨wrote_congr (linked_wrote sd p c s) he.regs.1 he.regs.2.1, hc.trans hctx, he.mode, he.pc.trans htvec, he.cause, he.info,
    he.pcSaved.trans hpc, he.memory⟩

end Sys2Proof.Machine
end

section
open Sys2Proof Sys2Proof.Machine Sys2Proof.Safety

/-- Settles O12: each word reaches the trap of the first check of `ILLEGAL_WORD` that it fails. -/
theorem illegalWordsTrap : Obligations.IllegalWordsTrap := by
  refine ⟨fun w e s hpc hd h => ?_, fun w s hpc h => ?_, fun w i s hpc hd h57 h => ?_⟩
  · refine ⟨decodeTrap (illegal w) s, ?_, decodeTrap_supervisor (t := illegal w) h⟩
    simp [exec, execIllegalWord, hpc, hd]
  · refine ⟨decodeTrap ⟨2, s.hart.pc, 0, 1⟩ s, ?_, decodeTrap_supervisor (t := ⟨2, s.hart.pc, 0, 1⟩) h⟩
    simp [exec, execIllegalWord, hpc]
  · refine ⟨decodeTrap (illegal w) s, ?_, decodeTrap_supervisor (t := illegal w) h⟩
    simp [exec, execIllegalWord, hpc, hd, h57]

/-- Settles O13: every one of the forms stands behind the decoder's checks. -/
theorem privilegeAndFeatureTraps : Obligations.PrivilegeAndFeatureTraps := by
  refine ⟨fun f s hc hm hp => ?_, fun r m n s hd hm hv hp => ?_⟩
  · simp only [List.forall_mem_cons, List.not_mem_nil, false_implies, implies_true, and_true]
    and_intros <;> exact completes_privilege rfl rfl rfl hc hm hp
  · have masked {i : Instr} {b : Nat} {f : State → State} (hi : exec i s = .next (gated i f s)) (hg : Instr.group i = some b)
        (hb : s.hfmask.getLsbD b = true) : Completes i s fun t => t.hart.mode = .hypervisor ∧ t.hart.pc = s.htvec ∧
          t.hart.csr.htr.cause = 3 ∧ t.hart.csr.htr.info = encode i ∧
          (s.hart.heldBy = none → t.hart.csr.htr.status = entryStatus 0 b s.hart.mode) ∧
          t.hart.csr.htr.pc = s.hart.pc ∧ t.hart.s = s.hart.s ∧ t.mem = s.mem := by
      obtain ⟨t, ht, he⟩ := completes_masked hi hg hb hd hm hv hp
      exact ⟨t, ht, he.mode, he.pc, he.cause, he.info, he.status, he.pcSaved, he.regs.1, he.memory⟩
    simp only [List.forall_mem_cons, List.not_mem_nil, false_implies, implies_true, and_true]
    and_intros <;> exact masked rfl rfl

/-- Settles O18: a branch jumps on its comparison, which decides the condition of the statement. -/
theorem branchesTransfer : Obligations.BranchesTransfer := by
  intro f s a b target m any goes two ht
  refine ⟨completes_transfer rfl beq_iff_eq ht, completes_transfer rfl bne_iff_ne ht, completes_transfer rfl ?_ ht,
    completes_transfer rfl ?_ ht, completes_transfer rfl ?_ ht, completes_transfer rfl ?_ ht, completes_transfer rfl ?_ ht,
    completes_transfer rfl ?_ ht⟩
  · exact BitVec.slt_iff_toInt_lt
  · rw [Bool.not_eq_true', ← Bool.not_eq_true, BitVec.slt_iff_toInt_lt, not_lt]
  · exact BitVec.ult_iff_lt
  · rw [Bool.not_eq_true', ← Bool.not_eq_true, BitVec.ult_iff_lt, BitVec.not_lt, BitVec.le_def]
  · have h := mod_two_pow_ne_zero_iff m.bits s.vl
    simp [any, ← h, m, State.vl]
  · have h := mod_two_pow_ne_zero_iff m.bits s.vl
    simp [any, ← h, m, State.vl]

/-- Settles O19: both jumps write the link and then transfer, or trap, with the target taken before the link write. -/
theorem jumpsLink : Obligations.JumpsLink := by
  refine ⟨fun f s => ⟨fun ht => ⟨_, rfl, ?_⟩, fun ht => ⟨_, rfl, ?_⟩⟩, ?_⟩
  · exact jumpStep_linked f.sd s.ctx s.ctx s ht
  · exact jumpStep_linked f.sd (s.ctx ||| s.getP f.sa) (s.ctx ||| s.getP f.sa) s ht
  · intro f s target ht hm hp
    obtain ⟨hw, hctx, hmode, hpc, hcause, hinfo, hpcs, hmem⟩ :=
      jumpTo_misaligned f.sd (s.ctx ||| s.getP f.sa) (s.ctx ||| s.getP f.sa) s ht hm hp
    exact ⟨_, rfl, hw, hmode, hpc, hcause, hinfo, hpcs, hctx, hmem⟩

end

section
/-! SUPPORT. What accesses leave alone: the hart's registers and pc, the core's level and tables, the partitions and the channels. -/

namespace Sys2Proof.Machine

/-- A hart without what the memory system changes in it: its watch tables, its event flag, and the translations that the check of a
convoy keeps. -/
def Hart.bare (h : Hart) : Hart :=
  { h with watch := [], asideS := [], asideH := [], event := false, cur := h.cur.map fun it => { it with pins := [] } }

/-- A core without what the memory system changes in it: its slice's copies, its TLB and its instruction cache. -/
def Core.bare (c : Core) : Core := { c with copies := [], tlb := [], icache := [] }

/-- What the memory system leaves alone. -/
structure Kept where
  hart : Hart
  core : Core
  parts : List Part
  chans : List Chan

def State.kept (s : State) : Kept := ⟨s.hart.bare, s.core.bare, s.parts, s.chans⟩

/-! ### Harts and cores -/

theorem mapHarts_kept {f : Hart → Hart} (s : State) (hf : ∀ h, (f h).bare = h.bare) : (s.mapHarts f).kept = s.kept := by
  simp only [State.kept, State.mapHarts, hf]

theorem mapCores_kept {f : Core → Core} (s : State) (hf : ∀ c, (f c).bare = c.bare) : (s.mapCores f).kept = s.kept := by
  simp only [State.kept, State.mapCores, hf]

theorem mapCore_kept {f : Core → Core} (s : State) (hf : (f s.core).bare = s.core.bare) : (s.mapCore f).kept = s.kept := by
  simp only [State.kept, State.mapCore, hf]

theorem foldl_kept {α : Type} (f : State → α → State) (hf : ∀ s x, (f s x).kept = s.kept) (l : List α) (s : State) :
    (l.foldl f s).kept = s.kept := by
  induction l generalizing s with
  | nil => rfl
  | cons x l ih => rw [List.foldl_cons, ih, hf]

/-- Acting on another core keeps what the act keeps, where the act leaves the list of the other cores alone. -/
theorem onCore_kept (n : Nat) {f : State → State} (s : State) (hf : ∀ u, (f u).kept = u.kept) (hc : ∀ u, (f u).cores = u.cores) :
    (onCore n f s).kept = s.kept := by
  have hnum (u : State) : (f u).core.num = u.core.num := congrArg (·.core.num) (hf u)
  obtain ⟨l, hl⟩ := focusCore_eq s.core.num (f (focusCore n s))
  obtain ⟨l', hl'⟩ := focusCore_eq n s
  have hcore : ((f (focusCore n s)).coreAt s.core.num).bare = s.core.bare := by
    by_cases h : s.core.num = n
    · rw [show focusCore n s = s by simp [focusCore, h], State.coreAt, if_pos (by simp [hnum])]
      exact congrArg (·.core) (hf s)
    · have hn : (focusCore n s).core.num = n := by rw [focusCore_core, coreAt_num]
      have hne : ¬ (n == s.core.num) = true := by simpa using fun e => h e.symm
      have hat : (f (focusCore n s)).coreAt s.core.num = (focusCore n s).coreAt s.core.num := by
        simp only [State.coreAt, hnum, hn, hne, hc, Bool.false_eq_true, if_false]
      rw [hat, coreAt_focusCore, State.coreAt, if_pos (by simp)]
  have hu := hf (focusCore n s)
  have hhart : (f (focusCore n s)).hart.bare = s.hart.bare := (congrArg (·.hart) hu).trans (by rw [hl']; rfl)
  have hparts : (f (focusCore n s)).parts = s.parts := (congrArg (·.parts) hu).trans (by rw [hl']; rfl)
  have hchans : (f (focusCore n s)).chans = s.chans := (congrArg (·.chans) hu).trans (by rw [hl']; rfl)
  rw [onCore, hl]
  simp only [State.kept, hhart, hcore, hparts, hchans]

theorem ite_kept {c : Prop} [Decidable c] {s t : State} {k : Kept} (hs : s.kept = k) (ht : t.kept = k) :
    (if c then s else t).kept = k := by
  split <;> assumption

/-! ### Writes -/

theorem growCur_kept (pa : Nat) (p : PvSet) (s : State) : (growCur pa p s).kept = s.kept := by
  unfold growCur
  split
  · rfl
  · dsimp only
    split
    · rfl
    · rfl

theorem settleChecks_kept (line : Nat) (s : State) : (settleChecks line s).kept = s.kept :=
  mapHarts_kept s fun h => by split <;> rfl

theorem wakeLine_kept (w : Option HartId) (line : Nat) (s : State) : (wakeLine w line s).kept = s.kept :=
  mapHarts_kept s fun h => by split <;> rfl

theorem ghostOthers_kept (e : Option Nat) (line : Nat) (s : State) : (ghostOthers e line s).kept = s.kept :=
  mapCores_kept s fun c => by split <;> rfl

theorem homeSector_kept (w : Option Nat) (n : Nat) (s : State) : (homeSector w n s).kept = s.kept := ghostOthers_kept w (n / 4) s

theorem grantSector_kept (core : Nat) (d : Bool) (n : Nat) (s : State) : (grantSector core d n s).kept = s.kept := by
  unfold grantSector
  dsimp only
  split
  · rfl
  · exact ghostOthers_kept (some core) (n / 4) s

/-- Copies that are replaced leave the directory and the slice, and nothing else of the state changes. -/
theorem evictCopies_eq (p : Copy → Bool) (s : State) : ∃ x y, evictCopies p s =
    { s with sectors := x, core := { s.core with copies := y } } := by
  have hd (l : List Copy) (s : State) : ∃ x, l.foldl (fun s k => disown k.line s) s = { s with sectors := x } := by
    induction l generalizing s with
    | nil => exact ⟨s.sectors, rfl⟩
    | cons k l ih => exact ih (disown k.line s)
  obtain ⟨x, hx⟩ := hd (s.core.copies.filter p) s
  exact ⟨x, s.core.copies.filter fun k => !p k, by rw [evictCopies, hx]; rfl⟩

theorem evictCopies_kept (p : Copy → Bool) (s : State) : (evictCopies p s).kept = s.kept := by
  obtain ⟨x, y, h⟩ := evictCopies_eq p s; rw [h]; rfl
theorem evictCopies_cores (p : Copy → Bool) (s : State) : (evictCopies p s).cores = s.cores := by
  obtain ⟨x, y, h⟩ := evictCopies_eq p s; rw [h]

theorem installCopy_kept (k : Copy) (s : State) : (installCopy k s).2.kept = s.kept := by
  unfold installCopy
  dsimp only
  split
  · rfl
  · split
    · rfl
    · split
      · rfl
      · exact (mapCore_kept _ rfl).trans (evictCopies_kept _ _)

theorem holdForStore_kept (line : Nat) (s : State) : (holdForStore line s).2.kept = s.kept := by
  unfold holdForStore
  split
  · rfl
  · split
    · rfl
    · exact installCopy_kept _ s

theorem ownLine_kept (x0 xn line : Nat) (s : State) : (ownLine x0 xn line s).kept = s.kept := by
  have hs := holdForStore_kept line s
  unfold ownLine
  split
  · next u hu => rw [hu] at hs; exact (forRange_same State.kept _ (fun n s => grantSector_kept _ _ n s) _ _ _).trans hs
  · next u hu => rw [hu] at hs; exact (forRange_same State.kept _ (fun n s => homeSector_kept _ n s) _ _ _).trans hs

theorem holdLines_kept (pa n : Nat) (s : State) : (holdLines pa n s).kept = s.kept := by
  unfold holdLines
  split
  · refine forRange_same State.kept _ (fun l s => ?_) _ _ s
    dsimp only
    split
    · rfl
    · split
      · rfl
      · exact onCore_kept _ s (evictCopies_kept _) (evictCopies_cores _)
  · rfl

theorem unzero_kept (pa n : Nat) (s : State) : (unzero pa n s).kept = s.kept := by
  unfold unzero
  split
  · rfl
  · refine forRange_same State.kept _ (fun l s => ?_) _ _ s
    dsimp only
    split <;> rfl

theorem landBytes_kept (pa : Nat) (b : List Byte) (s : State) : (landBytes pa b s).kept = s.kept := by
  induction b generalizing pa s with
  | nil => rfl
  | cons v b ih => exact ih (pa + 1) _

theorem startClear_kept (pa : Nat) (s : State) : (startClear pa s).kept = s.kept := by
  unfold startClear
  dsimp only
  split <;> rfl

/-- What comes before the bytes of a write land. -/
theorem storeHome_kept (pa : Nat) (b : List Byte) (p : PvSet) (s : State) : (storeHome pa b p s).kept = s.kept := by
  unfold storeHome
  dsimp only
  rw [forRange_same State.kept _ (wakeLine_kept none)]
  refine (landBytes_kept _ _ _).trans ((holdLines_kept _ _ _).trans ?_)
  split
  · rw [growCur_kept, startClear_kept, unzero_kept]
  · rw [forRange_same State.kept _ (homeSector_kept none), growCur_kept, startClear_kept, unzero_kept]

theorem orOwnCopy_kept (line : Nat) (p : PvSet) (s : State) : (orOwnCopy line p s).kept = s.kept := rfl
theorem updateRemote_kept (pa : Nat) (b : List Byte) (p : PvSet) (s : State) : (updateRemote pa b p s).kept = s.kept := rfl

theorem storePa_kept (pa : Nat) (b : List Byte) (p : PvSet) (s : State) : (storePa pa b p s).kept = s.kept := by
  unfold storePa
  dsimp only
  rw [forRange_same State.kept _ (wakeLine_kept _)]
  generalize hx : clearPoison _ _ (landBytes _ _ _) = x
  suffices h : x.kept = s.kept from ite_kept h h
  rw [← hx]
  refine (landBytes_kept _ _ _).trans ((holdLines_kept _ _ _).trans ?_)
  have hgrow (a : Nat) (u : State) : (growCur a p (startClear a u)).kept = u.kept := (growCur_kept ..).trans (startClear_kept ..)
  have hown (l0 ln x0 xn a : Nat) (u : State) :
      (if u.inHost a then u else if u.inPeer a then forRange (homeSector (some u.core.num)) x0 xn u
        else forRange (ownLine x0 xn) l0 ln u).kept = u.kept :=
    ite_kept rfl (ite_kept (forRange_same State.kept _ (homeSector_kept _) _ _ u) (forRange_same State.kept _ (ownLine_kept x0 xn) _ _ u))
  refine ite_kept ((updateRemote_kept ..).trans ?_) ?_
  all_goals
    rw [forRange_same State.kept _ (orOwnCopy_kept · p), hown, forRange_same State.kept _ settleChecks_kept, hgrow, unzero_kept]

/-! ### Translation and access -/

theorem tlbPut_kept (e : TlbEntry) (u : TlbUnit) (s : State) : (tlbPut e u s).kept = s.kept := by
  unfold tlbPut
  dsimp only
  split
  · rfl
  · split <;> rfl

theorem tlbFill_kept (v : Via) (va : Nat) (e : TlbEntry) (s : State) : (tlbFill v va e s).kept = s.kept :=
  foldl_kept (fun s u => tlbPut e u s) (fun s u => tlbPut_kept e u s) _ s

theorem installLeaf_kept (v : Via) (asid va : Nat) (p : Perm) (l : Leaf) (s : State) : (installLeaf v asid va p l s).1.kept = s.kept := by
  unfold installLeaf
  dsimp only
  rw [tlbFill_kept, tlbPut_kept]
  exact (mapCore_kept _ rfl).trans (ite_kept rfl (storeHome_kept ..))

theorem xlatWith_kept {v : Via} {r : Word} {m : Mode} {va : Word} {p : Perm} {s : State} {x : Nat × TlbEntry × State}
    (hx : xlatWith v r m va p s = .ok x) : x.2.2.kept = s.kept := by
  unfold xlatWith at hx
  dsimp only at hx
  split at hx
  · exact nomatch hx
  · split at hx
    · split at hx
      · cases hx
        dsimp only
        split
        · rfl
        · exact tlbFill_kept ..
      · exact nomatch hx
    · split at hx
      · exact nomatch hx
      · split at hx
        · exact nomatch hx
        · split at hx
          · exact nomatch hx
          · cases hx
            exact installLeaf_kept ..

theorem keepPin_kept (e : TlbEntry) (s : State) : (keepPin e s).kept = s.kept := by
  unfold keepPin
  split
  · simp only [State.kept, State.mapHart, Hart.bare, Option.map_map]
    congr 3
    funext it
    simp only [Function.comp]
    split <;> rfl
  · rfl

theorem xlatVia_kept {v : Via} {va : Word} {p : Perm} {s : State} {x : Nat × TlbEntry × State} (hx : xlatVia v va p s = .ok x) :
    x.2.2.kept = s.kept := by
  unfold xlatVia at hx
  split at hx
  · next e a b t _ hw => cases hx; exact xlatWith_kept (x := (a, b, t)) hw
  · cases hx; rfl
  · next hw => cases hx; exact (keepPin_kept _ _).trans (xlatWith_kept hw)
  · exact nomatch hx

theorem recordTide_kept (pa : Nat) (e : TlbEntry) (s : State) : (recordTide pa e s).kept = s.kept := by
  unfold recordTide; split <;> rfl
theorem fillAts_kept (pa : Nat) (s : State) : (fillAts pa s).kept = s.kept := by
  unfold fillAts; dsimp only; split <;> rfl

theorem accessVia_kept {v : Via} {va : Word} {n : Nat} {p : Perm} {acc : Nat} {r : Bool} {s t : State} {pa : Nat}
    (ha : accessVia v va n p acc r s = .ok pa t) : t.kept = s.kept := by
  unfold accessVia at ha
  split at ha
  · exact nomatch ha
  · next hx =>
    have hu := xlatVia_kept hx
    repeat' split at ha
    all_goals cases ha
    rw [fillAts_kept, startClear_kept, recordTide_kept]
    exact hu

/-- An access that goes ahead. -/
theorem access_kept {va : Word} {n : Nat} {p : Perm} {acc : Nat} {r : Bool} {s t : State} {pa : Nat}
    (ha : access va n p acc r s = .ok pa t) : t.kept = s.kept := accessVia_kept ha

/-! ### Fetch -/

theorem fillInstr_kept (line : Nat) (s : State) : (fillInstr line s).kept = s.kept := by
  unfold fillInstr
  dsimp only
  repeat' split
  all_goals rfl

theorem fetchWord_kept (pa : Nat) (s : State) : (fetchWord pa s).2.kept = s.kept := by
  unfold fetchWord
  dsimp only
  split
  · exact fillInstr_kept ..
  · split
    · exact fillInstr_kept ..
    · exact fillInstr_kept (pa / 128) s

theorem fetchAt_kept {va : Word} {s t : State} {pa : Nat} {w : Word} (h : fetchAt va s = (.ok pa t, w)) : t.kept = s.kept := by
  unfold fetchAt at h
  split at h
  · next ha => cases h; exact (fetchWord_kept _ _).trans (access_kept ha)
  · cases h
  · cases h

/-! ### Releases and acquires -/

theorem releaseAt_kept (scope line : Nat) (s : State) : (releaseAt scope line s).kept = s.kept := by
  unfold releaseAt
  dsimp only
  split
  · rfl
  · split <;> rfl

theorem acquireAt_kept (scope line : Nat) (s : State) : (acquireAt scope line s).kept = s.kept := by
  unfold acquireAt
  split
  · rfl
  · have h := foldl_kept (fun (s : State) (r : Nat × Nat) => mergeCore r.2 s) (fun _ _ => rfl)
      (s.recorded.filter fun r => r.1 == s.lineOf (line * 128)) s
    dsimp only
    split
    · exact h
    · exact h

end Sys2Proof.Machine
end

section
/-! SUPPORT. A granted hart's step, from the grant to the instruction at its pc. -/

namespace Sys2Proof.Machine

/-- The decoder's checks see nothing that a fetch changes. -/
theorem gate_congr {s t : State} (h : t.kept = s.kept) (i : Instr) : gate i t = gate i s := by
  have hmode : t.hart.mode = s.hart.mode := congrArg (·.hart.mode) h
  have hcore : t.hart.core = s.hart.core := congrArg (·.hart.core) h
  have hstatus : t.hart.status = s.hart.status := congrArg (·.hart.status) h
  have hcur : t.hart.cur.isSome = s.hart.cur.isSome := by
    simpa only [State.kept, Hart.bare, Option.isSome_map] using congrArg (·.hart.cur.isSome) h
  have hparts : t.parts = s.parts := congrArg (·.parts) h
  have hpart : t.part = s.part := by simp only [State.part, State.partOfCore, hcore, hparts]
  have hpast : t.hart.pastDecode = s.hart.pastDecode := by simp only [Hart.pastDecode, hstatus, hcur]
  have hmask : t.hfmask = s.hfmask := by simp only [State.hfmask, hpart]
  rw [gate, gate, hmode, hmask, hpast]

/-! ### Grants -/

/-- The step of a granted hart that is in focus. -/
theorem step_of_grant {s : State} {l : List HartId} (hp : s.pending = []) (hg : s.grants = s.hart.id :: l)
    (hc : s.core.num = s.hart.core) (hm : s.hart.mayIssue = true) : step s = runGranted { s with grants := l } := by
  have hfocus : focus s.hart.id { s with grants := l } = { s with grants := l } := focus_self _ hc
  unfold step advance
  split
  · next he => cases hp.symm.trans he
  · split
    · next he =>
      cases hg.symm.trans he
      dsimp only
      rw [hfocus]
      exact if_pos hm
    · next he => cases hg.symm.trans he

/-- The step of a hart in focus whose turn at the vector-class slot comes. -/
theorem step_of_vgrant {s : State} {l : List HartId} (hp : s.pending = []) (hg : s.grants = []) (hv : s.vgrants = s.hart.id :: l)
    (hc : s.core.num = s.hart.core) (hm : s.hart.mayIssue = true) : step s = runVector { s with vgrants := l } := by
  have hfocus : focus s.hart.id { s with vgrants := l } = { s with vgrants := l } := focus_self _ hc
  unfold step advance
  split
  · next he => cases hp.symm.trans he
  · split
    · next he => cases hg.symm.trans he
    · split
      · next he =>
        cases hv.symm.trans he
        dsimp only
        rw [hfocus]
        exact if_pos hm
      · next he => cases hv.symm.trans he

theorem runGranted_eq_runSlot {s : State} {i : Instr} (hd : s.hart.deferred = []) (hn : s.nextInstr = i) (hk : slotOf i s ≠ .vector) :
    runGranted s = runSlot i s := by
  simp [runGranted, hd, hn, hk]

theorem runVector_eq_runSlot {s : State} {i : Instr} (hq : s.hart.queue = []) (hd : s.hart.deferred = []) (hn : s.nextInstr = i)
    (hk : slotOf i s = .vector) (hl : s.levelStops i = false) : runVector s = runSlot i s := by
  simp [runVector, State.items, hq, hd, hn, hk, hl]

/-! ### The word at the pc -/

section

variable {s u x : State} {pa : Nat} {w : Word} {i : Instr}
variable (hpc : s.hart.pc.toNat % 8 = 0) (hf : fetchAt s.hart.pc s = (.ok pa u, w)) (hd : decode w = .ok i) (hcv : convoyBit w = false)

include hpc hf hd in
theorem nextInstr_of_fetch : s.nextInstr = i := by
  simp [State.nextInstr, hpc, hf, hd]

include hpc hf hd hcv in
/-- A word that the decoder's checks turn away, or that opens no convoy, executes where it stands. -/
theorem runWord_of_no_convoy (h : ¬ (inConvoyFormat i = true ∧ gate i s = none)) : runWord s = afterExec w i u (exec i u) := by
  have hg : (inConvoyFormat i && (gate i u).isNone) = false := by
    rw [gate_congr (fetchAt_kept hf)]
    simpa [Option.isSome_iff_ne_none] using h
  simp [runWord, hpc, hf, hd, hcv, hg]

include hpc hf hd hcv in
/-- A word that stands alone in its convoy executes once the word behind it has been fetched. -/
theorem nextWord_of_convoy (hg : gate i s = none) (hi : inConvoyFormat i = true)
    (ht : convoyTail allWords (s.hart.pc + 8) u = .words [] x) : nextWord s = postOrHold [w] [i] s x := by
  simp [nextWord, hpc, hf, hd, hcv, hg, hi, convoyGate, show convoyTail allWords (s.hart.pc + 8#64) u = .words [] x from ht]

include hpc hf hd hcv in
/-- What the scalar unit does with a word that opens no convoy. -/
theorem nextWord_of_no_convoy (hh : s.hart.heldBy = none) (h : ¬ (inConvoyFormat i = true ∧ gate i s = none)) :
    nextWord s = if (gate i s).isSome then .pc else if isQueued i s then postOrHold [w] [i] s u
      else if scalarHolds i s then .hold .hazard else .pc := by
  cases hg : gate i s with
  | some t => simp [nextWord, hpc, hf, hd, hcv, hg]
  | none =>
    have hi : inConvoyFormat i = false := by simpa [hg] using h
    simp [nextWord, hpc, hf, hd, hcv, hg, hi, hh]

/-- A word that may issue as it is posted is posted, where nothing is queued before it. -/
theorem postOrHold_of_startsAtOnce (hq : s.hart.queue = []) (hh : s.hart.heldBy = none) (hs : s.startsAtOnce i = true) :
    postOrHold [w] [i] s x = .post [w] [i] x := by
  have hl : (s.levelWaits none).isEmpty = true := by
    simp only [State.startsAtOnce, Bool.and_eq_true] at hs
    exact hs.1.2
  simp [postOrHold, State.items, State.queued, State.pendingRegs, queueDepth, hq, hh, hl]

theorem issuePosted_of_startsAtOnce (hm : s.mayPost 1 = true) (hs : s.startsAtOnce i = true) (hd : drainHolds [i] x.jobSeq x = false) :
    issuePosted [w] [i] x s = afterExec w i x (exec i x) := by
  simp [issuePosted, hm, hs, hd]

end

end Sys2Proof.Machine
end

section
open Sys2Proof Sys2Proof.Machine Sys2Proof.Safety

/-- Settles O4: each kind of grant comes to the word at the pc, which is executed there, or posted and executed at once. -/
theorem stepRunsDecodedInstruction : Obligations.StepRunsDecodedInstruction := by
  intro s s0 u x l pa w i vector hgrant hpend hcore hmay hdef hq hh hpc hf hd hcv hslot htail hx hscalar hqueued
  have hhart : s0.hart = s.hart := by rcases hgrant with ⟨-, rfl, -⟩ | ⟨-, -, rfl, -⟩ <;> rfl
  rw [← hhart] at hmay hdef hq hh hpc hf htail
  have hrun : runHart s0 = afterExec w i x (exec i x) := by
    have hqueue : isQueued i s0 = true → (issuePosted [w] [i] x s0 = afterExec w i x (exec i x) ∧
        postOrHold [w] [i] s0 x = .post [w] [i] x) := fun h =>
      have ⟨hpost, hstart, hdrain⟩ := hqueued h
      ⟨issuePosted_of_startsAtOnce hpost hstart hdrain, postOrHold_of_startsAtOnce hq hh hstart⟩
    have hdef' : (!s0.hart.deferred.isEmpty) = false := by simp [hdef]
    rw [runHart, hdef', if_neg (by simp)]
    by_cases hv : vector
    · obtain ⟨hi, hg⟩ := hv
      obtain ⟨hissue, hpost⟩ := hqueue (by simp [isQueued, hi])
      rw [nextWord_of_convoy hpc hf hd hcv hg hi (htail ⟨hi, hg⟩), hpost]
      exact hissue
    · obtain rfl := hx hv
      have hword := runWord_of_no_convoy hpc hf hd hcv hv
      rw [nextWord_of_no_convoy hpc hf hd hcv hh hv]
      by_cases hg : (gate i s0).isSome = true
      · rw [if_pos hg]
        exact hword
      · rw [if_neg hg]
        by_cases hiq : isQueued i s0 = true
        · obtain ⟨hissue, hpost⟩ := hqueue hiq
          rw [if_pos hiq, hpost]
          exact hissue
        · rw [if_neg hiq, hscalar (by simpa using hiq)]
          exact hword
  have hslotRun : runSlot i s0 = match afterExec w i x (exec i x) with
      | .next t => .next (if hasIssued s.hart t.hart = true then takeSlot i s0 t else t)
      | o => o := by
    rw [runSlot, hslot, if_neg (by simp), hrun, hhart] <;> rfl
  refine Eq.trans ?_ hslotRun
  have hnext : s0.nextInstr = i := nextInstr_of_fetch hpc hf hd
  rcases hgrant with ⟨hg, rfl, hkind⟩ | ⟨hg, hv, rfl, hkind, hlevel⟩
  · rw [step_of_grant hpend hg hcore hmay]
    exact runGranted_eq_runSlot hdef hnext hkind
  · rw [step_of_vgrant hpend hg hv hcore hmay]
    exact runVector_eq_runSlot hq hdef hnext hkind hlevel

end

section
/-! SUPPORT. Channel records and ends: lookup, opening and closing (R248-R258). -/

namespace Sys2Proof.Machine

open Sys2Proof.Safety

/-! ### Completion -/

/-- What `Passed` reads of a hart. -/
def Hart.going (h : Hart) : Bool × Word × Word × Mode × Nat × Nat := (h.cur.isSome, h.pc, h.csr.instret, h.mode, h.core, h.ix)

/-- Completion is told of the state before it by its hart's progress alone. -/
theorem passed_of_going {s w t : State} (h : w.hart.going = s.hart.going) (hp : Passed w t) : Passed s t := by
  simp only [Hart.going, Prod.mk.injEq] at h
  obtain ⟨hcur, hpc, hin, hmode, hcore, hix⟩ := h
  have hnext : nextPc w = nextPc s := by simp only [nextPc, hcur, hpc]
  exact ⟨hp.pc.trans hnext, by rw [hp.instret, hin], hp.running, hp.mode.trans hmode, hp.place.1.trans hcore, hp.place.2.trans hix⟩

theorem passed_retire {s u : State} (h : u.hart.going = s.hart.going) : Passed s (retire u) :=
  passed_of_going h ⟨rfl, rfl, rfl, rfl, rfl, rfl⟩

theorem setS_going (h : Hart) (r : BitVec 5) (v : Word) (p : PvSet) : (h.setS r v p).going = h.going := by
  unfold Hart.setS; split <;> rfl

theorem going_of_bare {g h : Hart} (e : g.bare = h.bare) : g.going = h.going := by
  have hcur : g.cur.isSome = h.cur.isSome := by
    simpa only [Hart.bare, Option.isSome_map] using congrArg (·.cur.isSome) e
  have hrest := congrArg (fun x : Hart => (x.pc, x.csr.instret, x.mode, x.core, x.ix)) e
  simp only [Hart.bare, Prod.mk.injEq] at hrest
  simp only [Hart.going, hcur, hrest]

/-- A form that the decoder's checks let run answers its meaning. -/
theorem exec_of_allowed {i : Instr} {f : State → State} {s : State} (hi : exec i s = .next (gated i f s)) (h : Allowed i s) :
    exec i s = .next (f s) := hi.trans (congrArg _ (gated_of_allowed f h))

/-! ### Records -/

theorem branch_setBranch {c : Chan} {b : Nat} {x : Branch} (h : c.branch b = some x) (y : Branch) :
    (c.setBranch b y).branch b = some y := by
  have hb : b < c.branches.length := (List.getElem?_eq_some_iff.mp h).1
  simp [Chan.setBranch, Chan.branch, hb]

theorem chanAt_setChan_of_key {c : Chan} {k : Nat} (h : c.key = k) (s : State) : (s.setChan c).chanAt k = some c :=
  h ▸ chanAt_setChan_same s c

/-- A handle names an entry of the core's table, whose channel it finds. -/
theorem chanAt_of_handle {s : State} {h : Word} {e : EndEntry} {c : Chan} (hh : s.handle h = some (e, c)) :
    s.chanAt e.chan = some c := by
  unfold State.handle at hh
  split at hh
  · cases hh
  · split at hh
    · cases hh
    · split at hh
      · obtain ⟨c', hc, he⟩ := Option.map_eq_some_iff.mp hh
        cases he
        exact hc
      · cases hh

/-! ### CHOPEN -/

section

variable {f : RFmt} {s u v : State} {pa : Nat} {l : List Nat}

/-- The record that CHOPEN finds at the descriptor's address, or makes there. -/
def foundChan (s u v : State) (pa : Nat) (l : List Nat) : Chan :=
  (v.chanAt pa).getD ((Descr.of (u.loadNum pa 64)).chan pa l s.hart.csr.ptroot)

theorem foundChan_key : (foundChan s u v pa l).key = pa := by
  unfold foundChan
  cases h : v.chanAt pa with
  | none => rfl
  | some c => exact chanAt_key h

/-- A CHOPEN past its checks answers what opening the end answers. -/
theorem chopen_eq (hallow : Allowed (.chopen f) s) (ha : (s.getS f.sa).toNat % 64 = 0)
    (hacc : access (s.getS f.sa) 64 .read 2 true s = .ok pa u)
    (hok : (Descr.of (u.loadNum pa 64)).ok s.roster s.coreInPart = true)
    (hring : ringPages (Descr.of (u.loadNum pa 64)).ring (((Descr.of (u.loadNum pa 64)).ring.toNat % 65536 +
      (Descr.of (u.loadNum pa 64)).nslot * (Descr.of (u.loadNum pa 64)).slotl * 128 + 65535) / 65536) (u.addCtx (s.getP f.sa)) =
        some (l, v))
    (hsame : ∀ r, v.chanAt pa = some r → r.desc = (Descr.of (u.loadNum pa 64)).num)
    (hsel : (s.getS f.sb).toNat ≤ (Descr.of (u.loadNum pa 64)).nbr) {h : Word} {t : State}
    (hopen : openEnd (foundChan s u v pa l) (s.getS f.sb).toNat v = .ok (h, t)) (hctx : t.ctx = v.ctx) :
    exec (.chopen f) s = .next (retire (t.setS f.sd h (s.getP f.sa ||| s.getP f.sb ||| v.ctx ||| u.loadPv pa))) := by
  rw [← hctx]
  have hrec : (match v.chanAt pa with | some c => c.desc == (Descr.of (u.loadNum pa 64)).num | none => true) = true := by
    split
    · next r hr => simpa using hsame r hr
    · rfl
  unfold foundChan at hopen
  refine (exec_of_allowed rfl hallow).trans (congrArg _ ?_)
  dsimp only
  rw [if_neg (by simp [ha]), hacc]
  dsimp only
  rw [if_neg (by simp [hok]), hring]
  dsimp only
  refine (if_neg fun hn => Bool.false_ne_true (((Bool.not_eq_true' _).mp hn).symm.trans hrec)).trans ?_
  rw [if_neg (by omega), hopen]

end

/-- A channel whose send end has been opened. -/
def Chan.openSend (c : Chan) : Chan := { c with sendOpen := true }

/-- A branch whose receive end has been opened with the frames of its buffer. -/
def Branch.openWith (b : Branch) (frames : List Nat) : Branch := { b with opened := true, isOpen := true, frames := frames }

/-- The table entry and the record of an end that has been opened. -/
def putEnd (idx sel : Nat) (c : Chan) (s : State) : State :=
  (s.setChan c).mapCore fun k => { k with ends := putBy EndEntry.idx ⟨idx, c.key, sel, asidOf s.hart.csr.ptroot, s.hart.ix⟩ k.ends }

theorem openEnd_send {c : Chan} {s : State} {i : Nat} (hp : c.prod = s.core.num) (ho : c.sendOpen = false) (hi : s.freeEnd = some i) :
    openEnd c 0 s = .ok (handleWord i 0, putEnd i 0 c.openSend s) := by
  simp [openEnd, hp, ho, hi, putEnd, Chan.openSend]

theorem openEnd_receive {c : Chan} {s : State} {i sel : Nat} {b : Branch} {frames : List Nat} (hs : 1 ≤ sel)
    (hb : c.branch (sel - 1) = some b) (hc : b.core = s.core.num) (ho : b.isOpen = false) (hi : s.freeEnd = some i)
    (hf : takeFrames b.core s (b.edepth * c.slotl) (s.heldFrames (b.core / 40)) = some frames) :
    openEnd c sel s = .ok (handleWord i sel, putEnd i sel
      (c.setBranch (sel - 1) (b.openWith frames)) (setElastic true c.key frames s)) := by
  have hs0 : ¬ (sel == 0) = true := by simp; omega
  unfold openEnd
  rw [if_neg hs0, hb]
  dsimp only
  rw [if_neg (by simp [hc, ho]), hi, hf]
  rfl

/-- The frames of a buffer are marked in their records alone. -/
theorem setElastic_true_eq (key : Nat) (l : List Nat) (s : State) : ∃ x, setElastic true key l s = { s with tide := x } := by
  unfold setElastic
  induction l generalizing s with
  | nil => exact ⟨s.tide, rfl⟩
  | cons f l ih =>
    obtain ⟨x, hx⟩ := ih (s.setTide { s.tideAt f with elastic := true, chan := some key })
    exact ⟨x, hx⟩

theorem setElastic_true_ctx (key : Nat) (l : List Nat) (s : State) : (setElastic true key l s).ctx = s.ctx := by
  obtain ⟨x, h⟩ := setElastic_true_eq key l s
  rw [h]
  rfl

/-- An end was opened: its handle stands in `sd`, and its entry in the core's table. -/
theorem opened_putEnd {s t : State} (sd : BitVec 5) (h : Word) (p : PvSet) (i sel : Nat) {c : Chan} {pa : Nat} (hc : c.key = pa)
    (ht : ∃ x, t = { s with tide := x }) :
    let u := retire ((putEnd i sel c t).setS sd h p)
    Wrote sd h p s u ∧ Passed s u ∧ u.mem = s.mem ∧ ∃ e ∈ u.core.ends, e.idx = i ∧ e.end_ = sel ∧ e.chan = pa := by
  obtain ⟨x, rfl⟩ := ht
  subst hc
  have hw := setS_wrote s sd h p
  exact ⟨⟨hw.result, hw.zero, hw.others⟩, passed_retire (setS_going ..), rfl, _, mem_putBy_self .., rfl, rfl, rfl⟩

theorem chanAt_putEnd (i sel : Nat) {c : Chan} {pa : Nat} (hc : c.key = pa) (s : State) (sd : BitVec 5) (h : Word) (p : PvSet) :
    (retire ((putEnd i sel c s).setS sd h p)).chanAt pa = some c := chanAt_setChan_of_key hc s

end Sys2Proof.Machine
end

section
/-! SUPPORT. Closing the ends of channels (R250, R252, R258). -/

namespace Sys2Proof.Machine

open Sys2Proof.Safety

/-! ### The frames of an elastic buffer -/

/-- A frame of an elastic buffer returns, empty (R253). -/
def returnFrame (f : Nat) (s : State) : State :=
  ({ s with mem := memErase (f * 65536) 65536 s.mem } : State).setTide { s.tideAt f with elastic := false, chan := none, held := 0 }

theorem setElastic_false_cons (key f : Nat) (l : List Nat) (s : State) :
    setElastic false key (f :: l) s = setElastic false key l (returnFrame f s) := rfl

/-- A frame that returns stays where it is, resident or backed. -/
theorem tideAt_returnFrame (f g : Nat) (s : State) :
    ((returnFrame f s).tideAt g).state = (s.tideAt g).state ∧ ((returnFrame f s).tideAt g).zmap = (s.tideAt g).zmap := by
  have hf : (s.tideAt f).frame = f := tideAt_frame s f
  let t : TideFrame := { s.tideAt f with elastic := false, chan := none, held := 0 }
  by_cases h : g = f
  · have : (returnFrame f s).tideAt f = t := by
      have hsame := tideAt_setTide_same ({ s with mem := memErase (f * 65536) 65536 s.mem } : State) t
      rwa [show t.frame = f from hf] at hsame
    rw [h, this]
    exact ⟨rfl, rfl⟩
  · have : (returnFrame f s).tideAt g = s.tideAt g := tideAt_setTide_ne _ t g (by rw [show t.frame = f from hf]; exact h)
    rw [this]
    exact ⟨rfl, rfl⟩

theorem place_returnFrame (f a : Nat) (s : State) : (returnFrame f s).place a = s.place a := by
  unfold State.place
  rw [(tideAt_returnFrame f (a / 65536) s).1]
  rfl

theorem zeroLine_returnFrame (f a : Nat) (s : State) : (returnFrame f s).zeroLine a = s.zeroLine a := by
  obtain ⟨hstate, hzmap⟩ := tideAt_returnFrame f (a / 65536) s
  unfold State.zeroLine
  simp only [hstate, hzmap]
  rfl

/-- The bytes of a frame that returns read as zero, and every other byte as before. -/
theorem homeByte_returnFrame (f a : Nat) {s : State} (h : MemoryCanonical s) :
    (returnFrame f s).homeByte a = if f = s.place a / 65536 then 0 else s.homeByte a := by
  have hr : memRead (s.place a) (returnFrame f s).mem = if f = s.place a / 65536 then 0 else memRead (s.place a) s.mem := by
    refine (memRead_memErase (f * 65536) 65536 (s.place a) s.mem h).trans ?_
    congr 1
    simp only [eq_iff_iff]
    omega
  unfold State.homeByte
  rw [zeroLine_returnFrame, place_returnFrame, hr]
  split
  · split <;> rfl
  · rfl

/-- The bytes of the frames that return read as zero, and every other byte as before (R253). -/
theorem homeByte_setElastic_false (key : Nat) (l : List Nat) {s : State} (h : MemoryCanonical s) (a : Nat) :
    (setElastic false key l s).homeByte a = if l.contains (s.place a / 65536) then 0 else s.homeByte a := by
  induction l generalizing s with
  | nil => rfl
  | cons f l ih =>
    have hc : MemoryCanonical (returnFrame f s) := memWf_memErase (f * 65536) 65536 s.mem h
    rw [setElastic_false_cons, ih hc, place_returnFrame, homeByte_returnFrame f a h, List.contains_cons]
    by_cases hf : f = s.place a / 65536
    · simp [hf]
    · simp [hf, Ne.symm hf]

/-- Frames that return change memory and their own records alone. -/
theorem setElastic_false_eq (key : Nat) (l : List Nat) (s : State) :
    ∃ m x, setElastic false key l s = { s with mem := m, tide := x } := by
  induction l generalizing s with
  | nil => exact ⟨s.mem, s.tide, rfl⟩
  | cons f l ih =>
    obtain ⟨m, x, h⟩ := ih (returnFrame f s)
    exact ⟨m, x, by rw [setElastic_false_cons, h]; rfl⟩

/-! ### The record -/

theorem dropIfClosed_eq (key : Nat) (s : State) : ∃ l, dropIfClosed key s = { s with chans := l } := by
  unfold dropIfClosed
  split
  · split
    · exact ⟨_, rfl⟩
    · exact ⟨s.chans, rfl⟩
  · exact ⟨s.chans, rfl⟩

/-- A record that a closing has written is dropped, or stands as written. -/
theorem chanAt_dropIfClosed {c r : Chan} {s : State} (h : (dropIfClosed c.key (s.setChan c)).chanAt c.key = some r) : r = c := by
  unfold dropIfClosed at h
  rw [chanAt_setChan_same] at h
  dsimp only at h
  split at h
  · exact nomatch (findBy_eraseBy_same Chan.key c.key (s.setChan c).chans).symm.trans h
  · exact Option.some.inj (h.symm.trans (chanAt_setChan_same s c))

/-- The branch of a receive end that has been closed (R252, R258). -/
def Branch.shut (x : Branch) : Branch :=
  { x with isOpen := false, closed := true, freed := x.filled, ringTaken := x.filled, seen := x.filled, buf := [], moving := none,
           line := 0, pos := 0, frames := [], recorded := [], inject := [], skip := [] }

/-- The state with an entry out of the current core's table. -/
def dropEntry (e : EndEntry) (s : State) : State := s.mapCore fun k => { k with ends := eraseBy EndEntry.idx e.idx k.ends }

/-! ### Closing -/

section

variable {e : EndEntry} {c : Chan} {s : State} (hc : s.chanAt e.chan = some c)
include hc

theorem closeEntry_send (he : e.end_ = 0) :
    closeEntry e s = dropIfClosed e.chan ((dropEntry e s).setChan { c with sendOpen := false, sendClosed := true }) := by
  have h : (dropEntry e s).chanAt e.chan = some c := hc
  unfold dropEntry at h
  simp only [closeEntry, he, closeSend, h, beq_self_eq_true, if_true, dropEntry]

theorem closeEntry_receive {x : Branch} (he : 1 ≤ e.end_) (hx : c.branch (e.end_ - 1) = some x) :
    closeEntry e s =
      dropIfClosed e.chan ((setElastic false e.chan x.frames (dropEntry e s)).setChan (c.setBranch (e.end_ - 1) x.shut)) := by
  have h : (dropEntry e s).chanAt e.chan = some c := hc
  unfold dropEntry at h
  have he' : ¬ (e.end_ == 0) = true := by simp; omega
  unfold closeEntry
  rw [if_neg he', closeReceive, h]
  dsimp only
  rw [hx]
  rfl

theorem closeEntry_noBranch (he : 1 ≤ e.end_) (hx : c.branch (e.end_ - 1) = none) : closeEntry e s = dropEntry e s := by
  have h : (dropEntry e s).chanAt e.chan = some c := hc
  unfold dropEntry at h
  have he' : ¬ (e.end_ == 0) = true := by simp; omega
  unfold closeEntry
  rw [if_neg he', closeReceive, h]
  dsimp only
  rw [hx]
  rfl

/-- Closing an end changes memory, the records of frames and channels, and takes the entry out of the table. -/
theorem closeEntry_eq : ∃ m x l, closeEntry e s = { dropEntry e s with mem := m, tide := x, chans := l } := by
  rcases Nat.eq_zero_or_pos e.end_ with he | he
  · rw [closeEntry_send hc he]
    obtain ⟨l, h⟩ := dropIfClosed_eq e.chan ((dropEntry e s).setChan { c with sendOpen := false, sendClosed := true })
    exact ⟨s.mem, s.tide, l, h⟩
  · cases hx : c.branch (e.end_ - 1) with
    | none => exact ⟨s.mem, s.tide, s.chans, closeEntry_noBranch hc he hx⟩
    | some x =>
      rw [closeEntry_receive hc he hx]
      obtain ⟨m, t, h'⟩ := setElastic_false_eq e.chan x.frames (dropEntry e s)
      rw [h']
      obtain ⟨l, h⟩ := dropIfClosed_eq e.chan
        (({ dropEntry e s with mem := m, tide := t } : State).setChan (c.setBranch (e.end_ - 1) x.shut))
      exact ⟨m, t, l, h⟩

theorem closeEntry_send_mem (he : e.end_ = 0) : (closeEntry e s).mem = s.mem := by
  rw [closeEntry_send hc he]
  obtain ⟨l, h⟩ := dropIfClosed_eq e.chan ((dropEntry e s).setChan { c with sendOpen := false, sendClosed := true })
  rw [h]
  rfl

theorem chanAt_closeEntry_send {r : Chan} (he : e.end_ = 0) (hr : (closeEntry e s).chanAt e.chan = some r) :
    r = { c with sendOpen := false, sendClosed := true } := by
  rw [closeEntry_send hc he, ← chanAt_key hc] at hr
  exact chanAt_dropIfClosed (c := { c with sendOpen := false, sendClosed := true }) hr

theorem chanAt_closeEntry_receive {r : Chan} {y : Branch} (he : 1 ≤ e.end_) (hr : (closeEntry e s).chanAt e.chan = some r)
    (hy : r.branch (e.end_ - 1) = some y) : ∃ x : Branch, y = x.shut := by
  cases hx : c.branch (e.end_ - 1) with
  | none =>
    rw [closeEntry_noBranch hc he hx] at hr
    cases Option.some.inj (hc.symm.trans hr)
    exact nomatch hx.symm.trans hy
  | some x =>
    rw [closeEntry_receive hc he hx, ← chanAt_key hc] at hr
    have := chanAt_dropIfClosed (c := c.setBranch (e.end_ - 1) x.shut) hr
    rw [this, branch_setBranch hx] at hy
    exact ⟨x, (Option.some.inj hy).symm⟩

theorem homeByte_closeEntry_receive {x : Branch} (he : 1 ≤ e.end_) (hx : c.branch (e.end_ - 1) = some x) (hm : MemoryCanonical s) (a : Nat) :
    (closeEntry e s).homeByte a = if x.frames.contains (s.place a / 65536) then 0 else s.homeByte a := by
  rw [closeEntry_receive hc he hx]
  obtain ⟨l, h⟩ := dropIfClosed_eq e.chan
    ((setElastic false e.chan x.frames (dropEntry e s)).setChan (c.setBranch (e.end_ - 1) x.shut))
  rw [h]
  exact homeByte_setElastic_false e.chan x.frames (s := dropEntry e s) hm a

end

/-- The entries of the table but the one that a closing takes out. -/
theorem mem_closeEntry_ends {e : EndEntry} {c : Chan} {s : State} (hc : s.chanAt e.chan = some c) (x : EndEntry) :
    x ∈ (closeEntry e s).core.ends ↔ x ∈ s.core.ends ∧ x.idx ≠ e.idx := by
  obtain ⟨m, t, l, h⟩ := closeEntry_eq hc
  rw [h]
  simp [dropEntry, State.mapCore, eraseBy, List.mem_filter]

theorem closeEntry_hart {e : EndEntry} {c : Chan} {s : State} (hc : s.chanAt e.chan = some c) : (closeEntry e s).hart = s.hart := by
  obtain ⟨m, t, l, h⟩ := closeEntry_eq hc
  rw [h]
  rfl

end Sys2Proof.Machine
end

section
/-! SUPPORT. The scalar channel forms: CHOPEN, CHCLOSE, CHWAIT and CHSTAT (R250-R261). -/

namespace Sys2Proof.Machine

open Sys2Proof.Safety

/-! ### CHCLOSE -/

/-- A send end with a slot that is not published yet waits (R258). -/
theorem chclose_waits {f : RFmt} {s : State} {e : EndEntry} {c : Chan} (hallow : Allowed (.chclose f) s)
    (hh : s.handle (s.getS f.sa) = some (e, c)) (he : e.end_ = 0) (hp : c.published ≠ c.fills) :
    exec (.chclose f) s = .next (waitFor .chan s) := by
  refine (exec_of_allowed rfl hallow).trans (congrArg _ ?_)
  rw [hh]
  exact if_pos (by simp [he, hp])

theorem chclose_closes {f : RFmt} {s : State} {e : EndEntry} {c : Chan} (hallow : Allowed (.chclose f) s)
    (hh : s.handle (s.getS f.sa) = some (e, c)) (h : e.end_ ≠ 0 ∨ c.published = c.fills) :
    exec (.chclose f) s = .next (retire (closeEntry e s)) := by
  refine (exec_of_allowed rfl hallow).trans (congrArg _ ?_)
  rw [hh]
  refine if_neg ?_
  rcases h with h | h <;> simp [h]

/-- What the closing of an end leaves (R252, R255, R258). -/
theorem closeEntry_spec {e : EndEntry} {c : Chan} {s : State} (hc : s.chanAt e.chan = some c) :
    let t := retire (closeEntry e s)
    Passed s t ∧ t.hart.s = s.hart.s ∧ (e.end_ = 0 → t.mem = s.mem) ∧
      (∀ x, 1 ≤ e.end_ → c.branch (e.end_ - 1) = some x → MemoryCanonical s → ∀ a,
        t.homeByte a = if x.frames.contains (s.place a / 65536) then 0 else s.homeByte a) ∧
      (∀ x ∈ t.core.ends, x.idx ≠ e.idx) ∧ (∀ x ∈ s.core.ends, x.idx ≠ e.idx → x ∈ t.core.ends) ∧
      (e.end_ = 0 → ∀ r, t.chanAt e.chan = some r → r.sendClosed = true ∧ r.sendOpen = false) ∧
      (1 ≤ e.end_ → ∀ r x, t.chanAt e.chan = some r → r.branch (e.end_ - 1) = some x → x.isOpen = false ∧ x.closed = true) := by
  have hhart := closeEntry_hart hc
  refine ⟨passed_retire (congrArg _ hhart), congrArg (·.s) hhart, fun he => closeEntry_send_mem hc he,
    fun x he hx hm a => homeByte_closeEntry_receive hc he hx hm a, fun x hx => ((mem_closeEntry_ends hc x).mp hx).2,
    fun x hx hne => (mem_closeEntry_ends hc x).mpr ⟨hx, hne⟩, fun he r hr => ?_, fun he r x hr hx => ?_⟩
  · rw [chanAt_closeEntry_send hc he hr]
    exact ⟨rfl, rfl⟩
  · obtain ⟨y, rfl⟩ := chanAt_closeEntry_receive hc he hr hx
    exact ⟨rfl, rfl⟩

/-! ### CHWAIT -/

/-- The completion of CHWAIT with a value (R261). -/
def waited (f : RFmt) (c : Chan) (w : Word) (s t : State) : State :=
  retire ((t.addCtx c.pv).setS f.sd w (s.getP f.sa ||| s.getP f.sb ||| (t.addCtx c.pv).ctx))

theorem scalarStep_waited (f : RFmt) (c : Chan) (w : Word) (s : State) :
    ScalarStep f.sd w (s.getP f.sa ||| s.getP f.sb ||| (s.ctx ||| c.pv)) (s.ctx ||| c.pv) s (waited f c w s s) := by
  have hw := setS_wrote (s.addCtx c.pv) f.sd w (s.getP f.sa ||| s.getP f.sb ||| (s.ctx ||| c.pv))
  refine ⟨⟨hw.result, hw.zero, hw.others⟩, ?_, hartOnly_of_eq rfl ?_⟩
  · simp only [waited, State.setS, State.mapHart, State.addCtx, retire, Hart.setS]
    split <;> rfl
  · exact Hart.setS_mode ..

section

variable {f : RFmt} {s : State} {e : EndEntry} {c : Chan} (hallow : Allowed (.chwait f) s) (hh : s.handle (s.getS f.sa) = some (e, c))
include hallow hh

/-- CHWAIT with counting branches: a count beyond the end's reach traps, a count reached completes, any other waits (R261). -/
theorem chwait_eq {lim n : Int} (hl : c.limitOf e.end_ = some lim) (hn : c.countOf e.end_ = some n) :
    exec (.chwait f) s = .next (if lim < ((s.getS f.sb).toNat : Int) then scalarTrap ⟨16, encode (.chwait f), 6, 0⟩ s
      else if ((s.getS f.sb).toNat : Int) ≤ n ∨ ((s.getS f.sb).toNat : Int) = 0 ∨ (e.end_ ≠ 0 ∧ c.sendClosed = true) then
        waited f c (BitVec.ofInt 64 n) s s
      else waitFor .chan s) := by
  refine (exec_of_allowed rfl hallow).trans (congrArg _ ?_)
  dsimp only
  rw [hh]
  dsimp only
  rw [hl, hn]
  dsimp only
  refine if_congr Iff.rfl rfl (if_congr ?_ rfl rfl)
  simp only [Bool.or_eq_true, Bool.and_eq_true, decide_eq_true_eq, bne_iff_ne, beq_iff_eq]
  tauto

theorem chwait_free (hl : c.limitOf e.end_ = none) :
    exec (.chwait f) s = .next (waited f c (Config.freeWord s.freeCtr) s { s with freeCtr := s.freeCtr + 1 }) := by
  refine (exec_of_allowed rfl hallow).trans (congrArg _ ?_)
  dsimp only
  rw [hh]
  dsimp only
  rw [hl]
  rfl

end

/-! ### CHSTAT -/

/-- The word of CHSTAT (R261). -/
def statWord (c : Chan) (x : Branch) : Word :=
  BitVec.ofNat 64 (x.out % 2 ^ 16 * 2 ^ 48 + intMod 16 x.window * 2 ^ 32 + c.fills % 2 ^ 16 * 2 ^ 16
    + c.branches.length * 2 ^ 12 + (if c.sendClosed then 4 else 0) + (if x.closed && !x.isOpen then 2 else 0)
    + (if x.isOpen then 1 else 0))

/-- The fields of a number made of disjoint parts. -/
theorem statParts_fields {o w f n b c d N : Nat} (hN : N = o * 281474976710656 + w * 4294967296 + f * 65536 + n * 4096 + 4 * b + 2 * c + d)
    (ho : o < 65536) (hw : w < 65536) (hf : f < 65536) (hn : n ≤ 8) (hb : b < 2) (hc : c < 2) (hd : d < 2) :
    N < 18446744073709551616 ∧ N % 2 = d ∧ N / 2 % 2 = c ∧ N / 4 % 2 = b ∧ N / 4096 % 16 = n ∧ N / 65536 % 65536 = f ∧
      N / 4294967296 % 65536 = w ∧ N / 281474976710656 % 65536 = o := by
  refine ⟨?_, ?_, ?_, ?_, ?_, ?_, ?_, ?_⟩ <;> omega

theorem statWord_toNat (c : Chan) (x : Branch) (h : c.branches.length ≤ 8) :
    (statWord c x).toNat = x.out % 65536 * 281474976710656 + intMod 16 x.window * 4294967296 + c.fills % 65536 * 65536
      + c.branches.length * 4096 + 4 * c.sendClosed.toNat + 2 * (x.closed && !x.isOpen).toNat + x.isOpen.toNat := by
  have hw : intMod 16 x.window < 65536 := by unfold intMod; omega
  have hite (b : Bool) (k : Nat) : (if b then k else 0) = k * b.toNat := by cases b <;> simp
  have hlt := (statParts_fields rfl (Nat.mod_lt x.out (by decide)) hw (Nat.mod_lt c.fills (by decide)) h c.sendClosed.toNat_lt
    (x.closed && !x.isOpen).toNat_lt x.isOpen.toNat_lt).1
  rw [statWord, BitVec.toNat_ofNat, hite, hite, hite, Nat.one_mul]
  exact Nat.mod_eq_of_lt hlt

/-- What CHSTAT's word reports (R261). -/
theorem statWord_fields (c : Chan) (x : Branch) (h : c.branches.length ≤ 8) :
    (statWord c x).getLsbD 0 = x.isOpen ∧ (statWord c x).getLsbD 1 = (x.closed && !x.isOpen) ∧ (statWord c x).getLsbD 2 = c.sendClosed ∧
      ((statWord c x).extractLsb' 12 4).toNat = c.branches.length ∧ ((statWord c x).extractLsb' 16 16).toNat = c.fills % 65536 ∧
      (statWord c x).extractLsb' 32 16 = BitVec.ofInt 16 x.window ∧ ((statWord c x).extractLsb' 48 16).toNat = x.out % 65536 := by
  have hw : intMod 16 x.window < 65536 := by unfold intMod; omega
  have hwin : (BitVec.ofInt 16 x.window).toNat = intMod 16 x.window := by rw [BitVec.toNat_ofInt]; rfl
  obtain ⟨-, h0, h1, h2, h12, h16, h32, h48⟩ := statParts_fields (statWord_toNat c x h) (Nat.mod_lt x.out (by decide)) hw
    (Nat.mod_lt c.fills (by decide)) h c.sendClosed.toNat_lt (x.closed && !x.isOpen).toNat_lt x.isOpen.toNat_lt
  have hbit (k : Nat) {b : Bool} (hb : (statWord c x).toNat / 2 ^ k % 2 = b.toNat) : (statWord c x).getLsbD k = b := by
    rw [BitVec.getLsbD, Nat.testBit_eq_decide_div_mod_eq, hb]
    cases b <;> rfl
  have hfield (i n : Nat) : ((statWord c x).extractLsb' i n).toNat = (statWord c x).toNat / 2 ^ i % 2 ^ n := by
    rw [BitVec.extractLsb'_toNat, Nat.shiftRight_eq_div_pow]
  exact ⟨hbit 0 (by rwa [Nat.pow_zero, Nat.div_one]), hbit 1 h1, hbit 2 h2, (hfield 12 4).trans h12, (hfield 16 16).trans h16,
    BitVec.eq_of_toNat_eq ((hfield 32 16).trans (h32.trans hwin.symm)), (hfield 48 16).trans h48⟩

theorem chstat_illegal {f : RFmt} {s : State} {e : EndEntry} {c : Chan} (hallow : Allowed (.chstat f) s)
    (hh : s.handle (s.getS f.sa) = some (e, c)) (he : e.end_ ≠ 0) (hsb : f.sb ≠ 0) :
    exec (.chstat f) s = .next (scalarTrap (illegal (encode (.chstat f))) s) := by
  refine (exec_of_allowed rfl hallow).trans (congrArg _ ?_)
  dsimp only
  rw [hh]
  exact if_pos (Bool.and_eq_true_iff.mpr ⟨bne_iff_ne.mpr he, bne_iff_ne.mpr hsb⟩)

theorem chstat_reads {f : RFmt} {s : State} {e : EndEntry} {c : Chan} {x : Branch} (hallow : Allowed (.chstat f) s)
    (hh : s.handle (s.getS f.sa) = some (e, c)) (h : e.end_ = 0 ∨ f.sb = 0)
    (hx : c.branch (if e.end_ = 0 then (s.getS f.sb).toNat else e.end_ - 1) = some x) :
    exec (.chstat f) s = .next (retire (s.setS f.sd (statWord c x) (s.getP f.sa ||| s.getP f.sb ||| c.pv ||| s.ctx))) := by
  refine (exec_of_allowed rfl hallow).trans (congrArg _ ?_)
  have hb : (if (e.end_ == 0) = true then (s.getS f.sb).toNat else e.end_ - 1) = if e.end_ = 0 then (s.getS f.sb).toNat else e.end_ - 1 :=
    if_congr beq_iff_eq rfl rfl
  dsimp only
  rw [hh]
  dsimp only
  rw [hb, hx]
  exact if_neg (by rcases h with h | h <;> simp [h])

end Sys2Proof.Machine
end

section
/-! SUPPORT. CHSEND: the slots that it fills, and what it leaves alone (R251, R252, R259). -/

namespace Sys2Proof.Machine

open Sys2Proof.Safety

/-! ### Checks -/

/-- A group that is ready passes the checks of a form that reads it alone (R109). -/
theorem tagReason_read {s : State} {r : BitVec 5} {a : Bool} (h : GroupReady r s) (ha : a = true) :
    tagReason { reads := [r], accept := a } s = none := by
  obtain ⟨hcode, hgroup, hholds⟩ := h
  simp [tagReason, TagCheck.dstStart, TagCheck.dstHolds, hcode, hgroup, hholds, ha]

/-- An open gate lets the effect happen. -/
theorem watchGate_open {s : State} (f : State → State) (h : GateOpen s) : watchGate f s = f s := by
  obtain ⟨hmq, hres, hstruck⟩ := h
  simp [watchGate, hmq, hres, hstruck]

/-! ### Slots -/

theorem writeSlot_kept {c : Chan} {n : Nat} {p : PvSet} {k : Nat} {xs : List Nat} {s t : State} (h : writeSlot c n p k xs s = .ok t) :
    t.kept = s.kept := by
  induction xs generalizing k s with
  | nil => cases h; rfl
  | cons x xs ih =>
    simp only [writeSlot] at h
    split at h
    · cases h
    · cases h
    · next ha =>
      split at h
      · cases h
      · exact (ih h).trans ((storePa_kept ..).trans (access_kept ha))

/-- What a CHSEND in hand leaves alone of its hart. -/
def Hart.sendless (h : Hart) : Hart := { h.bare with send := none }

/-- One slot less is to be filled for the tokens that stay behind it. -/
theorem slots_succ {n k : Nat} (hk : 1 ≤ k) (hn : 1 ≤ n) : (n + k - 1) / k = 1 + (n - k + k - 1) / k := by
  rcases Nat.lt_or_ge n k with h | h
  · rw [Nat.sub_eq_zero_of_le h.le, Nat.div_eq_of_lt (by omega : 0 + k - 1 < k)]
    exact Nat.div_eq_of_lt_le (by omega) (by omega)
  · rw [show n + k - 1 = n - k + k - 1 + k by omega, Nat.add_div_right _ (by omega), Nat.add_comm]

/-- Tokens that have all been sent filled one slot for each `15 L` of them, and changed nothing else of the hart (R251, R259). -/
theorem sendRuns_sent {key : Nat} {p : PvSet} {n : Nat} {toks : List Tok} {s u : State} {c : Chan} (hc : s.chanAt key = some c)
    (hl : toks.length < n) (h1 : 1 ≤ c.slotl) (h : sendRuns key p n toks s = (none, u)) :
    u.hart.sendless = s.hart.sendless ∧
      ∃ r, u.chanAt key = some r ∧ r.fills = c.fills + (toks.length + 15 * c.slotl - 1) / (15 * c.slotl) := by
  induction n generalizing toks s c with
  | zero => exact absurd hl (Nat.not_lt_zero _)
  | succ n ih =>
    cases toks with
    | nil =>
      simp only [sendRuns, hc, Prod.mk.injEq, true_and] at h
      subst h
      exact ⟨rfl, c, hc, by rw [Nat.div_eq_of_lt (by simp; omega)]; rfl⟩
    | cons k ks =>
      simp only [sendRuns, hc] at h
      split at h
      · cases h
      · split at h
        · cases h
        · next t hw =>
          have hkept := writeSlot_kept hw
          have hnext : ((t.setChan c.fill).mapHart fun h => { h with send := some ⟨(k :: ks).drop (15 * c.slotl), p⟩ }).chanAt key =
            some c.fill := chanAt_setChan_of_key (show c.fill.key = key from chanAt_key (c := c) hc) t
          obtain ⟨hhart, r, hr, hfills⟩ := ih hnext (by simp only [List.length_drop, List.length_cons] at *; omega) h1 h
          refine ⟨hhart.trans (congrArg (fun k : Kept => { k.hart with send := none }) hkept), r, hr, ?_⟩
          rw [hfills, slots_succ (by omega) (by simp : 1 ≤ (k :: ks).length), List.length_drop, ← Nat.add_assoc]
          rfl

/-! ### The form -/

theorem growRing_kept (c : Chan) (p : PvSet) (s : State) : (growRing c p s).kept = s.kept :=
  foldl_kept _ (fun s f => growCur_kept (f * 65536) p s) c.ringFrames s

theorem growRing_mem (c : Chan) (p : PvSet) (s : State) : (growRing c p s).mem = s.mem := by
  unfold growRing
  induction c.ringFrames generalizing s with
  | nil => rfl
  | cons f l ih => rw [List.foldl_cons, ih, growCur_mem]

/-- What a CHSEND in hand leaves alone reaches the state after it. -/
theorem sendless_fields {g h : Hart} (e : g.sendless = h.sendless) :
    g.going = h.going ∧ g.s = h.s ∧ g.vec = h.vec ∧ g.ctx = h.ctx :=
  ⟨going_of_bare (g := { g with send := none }) (h := { h with send := none }) e, congrArg (·.s) e, congrArg (·.vec) e,
    congrArg (·.ctx) e⟩

/-- A CHSEND whose tokens have all been sent completes (R259). -/
theorem sendOn_sent {i : Instr} {key : Nat} {q : Sending} {s u : State} {c : Chan} (hc : s.chanAt key = some c) (h1 : 1 ≤ c.slotl)
    (h : sendRuns key q.set (q.toks.length + 1) q.toks s = (none, u)) :
    let t := sendOn i key q s
    Passed s t ∧ t.hart.s = s.hart.s ∧ t.hart.vec = s.hart.vec ∧ t.ctx = s.ctx ∧ t.mem = u.mem ∧
      ∀ r, t.chanAt key = some r → r.fills = c.fills + (q.toks.length + 15 * c.slotl - 1) / (15 * c.slotl) := by
  obtain ⟨hhart, r, hr, hfills⟩ := sendRuns_sent hc (Nat.lt_succ_self _) h1 h
  have ht : sendOn i key q s =
      retire (((growRing r q.set u).setChan { r with pv := r.pv ||| q.set }).mapHart fun h => { h with send := none }) := by
    simp only [sendOn, h, hr]
  have hg : (growRing r q.set u).hart.sendless = s.hart.sendless :=
    (congrArg (fun k : Kept => { k.hart with send := none }) (growRing_kept r q.set u)).trans hhart
  obtain ⟨hgoing, hs, hvec, hctx⟩ := sendless_fields hg
  rw [ht]
  refine ⟨passed_retire hgoing, hs, hvec, hctx, growRing_mem r q.set u, fun x hx => ?_⟩
  have hkey : r.key = key := chanAt_key hr
  have hsame := chanAt_setChan_of_key (c := { r with pv := r.pv ||| q.set }) hkey (growRing r q.set u)
  exact (congrArg Chan.fills (Option.some.inj (hx.symm.trans hsame))).trans hfills

/-- The set of a CHSEND's tokens (R259). -/
def sendSet (f : RFmt) (x : State) : PvSet := x.pvOf f.sb ||| x.vlPv ||| x.getP f.sc ||| x.segBits.2 ||| x.ctx

/-- The state in which a CHSEND past its checks begins to send. -/
def sending (f : RFmt) (c : Chan) (toks : List Tok) (x : State) : State :=
  (releaseAt c.scope (c.key / 128) x).mapHart fun h => { h with send := some ⟨toks, sendSet f x⟩ }

theorem sending_fields (f : RFmt) (c : Chan) (toks : List Tok) (x : State) :
    (sending f c toks x).hart.sendless = x.hart.sendless ∧ (sending f c toks x).chans = x.chans := by
  have h := releaseAt_kept c.scope (c.key / 128) x
  exact ⟨congrArg (fun k : Kept => { k.hart with send := none }) h, congrArg Kept.chans h⟩

/-- A CHSEND whose tokens have all been sent, told of the state before it (R259). -/
theorem sent_spec {i : Instr} {f : RFmt} {s u : State} {e : EndEntry} {c : Chan} (hc : s.chanAt e.chan = some c) (h1 : 1 ≤ c.slotl)
    (p : PvSet) {toks : List Tok} (h : sendRuns c.key (sendSet f (s.addCtx p)) (toks.length + 1) toks (sending f c toks (s.addCtx p)) = (none, u)) :
    let t := sendOn i c.key ⟨toks, sendSet f (s.addCtx p)⟩ (sending f c toks (s.addCtx p))
    Passed s t ∧ t.hart.s = s.hart.s ∧ t.hart.vec = s.hart.vec ∧ t.ctx = s.ctx ||| p ∧ t.mem = u.mem ∧
      ∀ r, t.chanAt c.key = some r → r.fills = c.fills + (toks.length + 15 * c.slotl - 1) / (15 * c.slotl) := by
  obtain ⟨hhart, hchans⟩ := sending_fields f c toks (s.addCtx p)
  obtain ⟨hgoing, hs, hvec, hctx⟩ := sendless_fields hhart
  have hat : (sending f c toks (s.addCtx p)).chanAt c.key = some c := by
    rw [State.chanAt, hchans, chanAt_key hc]
    exact hc
  obtain ⟨hpassed, hts, htvec, htctx, hmem, hfills⟩ := sendOn_sent (i := i) (q := ⟨toks, sendSet f (s.addCtx p)⟩) hat h1 h
  exact ⟨passed_of_going hgoing hpassed, hts.trans hs, htvec.trans hvec, htctx.trans hctx, hmem, hfills⟩

/-- A CHSEND past its checks sends its tokens (R259). -/
theorem chsend_sends {f : RFmt} {s : State} {e : EndEntry} {c : Chan} (hallow : Allowed (.chsend f) s)
    (hh : s.handle (s.getS f.sa) = some (e, c)) (he : e.end_ = 0) (hk : (s.getS f.sc).toNat < 6) (hready : GroupReady f.sb s)
    (hperm : isPerm (s.tagOf f.sb).code = true) (hring : ringCheck c (sendSet f (s.addCtx (s.getP f.sa))) (s.addCtx (s.getP f.sa)) = none)
    (hgate : GateOpen s) (hsend : s.hart.send = none) :
    let x := s.addCtx (s.getP f.sa)
    let toks := sendToks x f.sb (s.getS f.sc).toNat
    exec (.chsend f) s = .next (sendOn (.chsend f) c.key ⟨toks, sendSet f x⟩ (sending f c toks x)) := by
  refine (exec_of_allowed rfl hallow).trans (congrArg _ ?_)
  rw [hh]
  dsimp only
  rw [if_neg (by simp [he]), hsend]
  dsimp only
  rw [if_neg (by simp; omega), tagReason_read hready hperm]
  dsimp only
  unfold sendSet at hring
  rw [hring]
  refine (watchGate_open _ hgate).trans ?_
  rw [Nat.mod_eq_of_lt (by omega : (s.getS f.sc).toNat < 8)]
  rfl

end Sys2Proof.Machine
end

section
/-! SUPPORT. CHRECV: the tokens that it takes, and the group that it writes (R251-R253, R260). -/

namespace Sys2Proof.Machine

open Sys2Proof.Safety

/-! ### Register groups (R108, R112) -/

theorem Hart.vreg_setV_same (h : Hart) {r q : Nat} (x : VReg) (e : q % 32 = r % 32) : (h.setV r x).vreg q = x := by
  unfold Hart.vreg Hart.setV
  simp only [Vector.get_eq_getElem, e]
  exact Vector.getElem_set_self ..

theorem Hart.vreg_setV_ne (h : Hart) {r q : Nat} (x : VReg) (e : q % 32 ≠ r % 32) : (h.setV r x).vreg q = h.vreg q := by
  unfold Hart.vreg Hart.setV
  exact Vector.getElem_set_ne (Nat.mod_lt _ (by decide)) (Nat.mod_lt _ (by decide)) (Ne.symm e)

/-- Writing a group changes the vector file alone. -/
theorem Hart.putGroup_eq (level : Nat) (tag : Tag) (pv : PvSet) (r img n : Nat) (h : Hart) :
    ∃ x, Hart.putGroup level tag pv r img n h = { h with vec := x } := by
  induction n generalizing r img h with
  | zero => exact ⟨h.vec, rfl⟩
  | succ n ih =>
    obtain ⟨x, hx⟩ := ih (r + 1) (img / 2 ^ (8192 * level)) (h.setV r ⟨img % 2 ^ (8192 * level), tag, true, pv⟩)
    exact ⟨x, hx⟩

/-- A register outside the group keeps what it held. -/
theorem Hart.vreg_putGroup_ne (level : Nat) (tag : Tag) (pv : PvSet) {r n q : Nat} (img : Nat) (h : Hart) (hn : r + n ≤ 32) (hq : q < 32)
    (hne : ∀ j < n, q ≠ r + j) : (Hart.putGroup level tag pv r img n h).vreg q = h.vreg q := by
  induction n generalizing r img h with
  | zero => rfl
  | succ n ih =>
    have h0 := hne 0 (Nat.succ_pos n)
    refine (ih _ _ (by omega) fun j hj => ?_).trans (Hart.vreg_setV_ne _ _ (by omega))
    have := hne (j + 1) (by omega)
    omega

/-- The first register of the group. -/
theorem Hart.vreg_putGroup_first (level : Nat) (tag : Tag) (pv : PvSet) {r n : Nat} (img : Nat) (h : Hart) (hn : r + (n + 1) ≤ 32) :
    (Hart.putGroup level tag pv r img (n + 1) h).vreg r = ⟨img % 2 ^ (8192 * level), tag, true, pv⟩ := by
  rw [Hart.putGroup]
  exact (Hart.vreg_putGroup_ne _ _ _ _ _ (by omega) (by omega) fun j _ => by omega).trans (Hart.vreg_setV_same h _ rfl)

/-- The image of the group is what was written, as far as its registers hold it. -/
theorem Hart.groupImg_putGroup (level : Nat) (tag : Tag) (pv : PvSet) {r n : Nat} (img : Nat) (h : Hart) (hn : r + n ≤ 32) :
    (Hart.putGroup level tag pv r img n h).groupImg level r n = img % 2 ^ (8192 * level * n) := by
  induction n generalizing r img h with
  | zero => simp [Hart.groupImg, Nat.mod_one]
  | succ n ih =>
    rw [Hart.groupImg, Hart.vreg_putGroup_first level tag pv img h hn, Hart.putGroup, ih _ _ (by omega), Nat.mul_succ, Nat.pow_add,
      Nat.mul_comm (2 ^ (8192 * level * n)), Nat.mod_mul, Nat.mul_comm (2 ^ (8192 * level))]

theorem Hart.groupImg_congr {g h : Hart} (e : g.vec = h.vec) (level r n : Nat) : g.groupImg level r n = h.groupImg level r n := by
  induction n generalizing r with
  | zero => rfl
  | succ n ih => rw [Hart.groupImg, Hart.groupImg, ih, Hart.vreg, e]; rfl

theorem bitsAt_mod {x off w n : Nat} (h : off + w ≤ n) : bitsAt (x % 2 ^ n) off w = bitsAt x off w := by
  apply Nat.eq_of_testBit_eq
  intro i
  simp only [bitsAt, Nat.testBit_mod_two_pow, Nat.testBit_shiftRight]
  by_cases hi : i < w
  · simp [hi, show off + i < n by omega]
  · simp [hi]

/-- A group that starts at a multiple of its size lies in the file. -/
theorem group_fits {s : State} {r : BitVec 5} (h : s.groupOk r = true) : r.toNat + (s.tagOf r).count ≤ 32 := by
  have hmod : r.toNat % (s.tagOf r).count = 0 := by
    have := (Bool.and_eq_true_iff.mp h).1
    simpa using this
  have hr := r.isLt
  have hg := (s.tagOf r).g.isLt
  revert hmod
  unfold Tag.count groupOf
  have : (s.tagOf r).g.toNat = 0 ∨ (s.tagOf r).g.toNat = 1 ∨ (s.tagOf r).g.toNat = 2 ∨ (s.tagOf r).g.toNat = 3 := by omega
  rcases this with h | h | h | h <;> rw [h] <;> intro hmod <;> omega

/-! ### Taking tokens -/

/-- What a CHRECV in hand leaves alone of its hart, and of its core. -/
def State.untaken (s : State) : Hart × Core := ({ s.hart.bare with prog := 0 }, s.core.bare)

theorem untaken_of_kept {s t : State} (h : t.kept = s.kept) : t.untaken = s.untaken :=
  congrArg (fun k : Kept => (({ k.hart with prog := 0 } : Hart), k.core)) h

theorem readLine_untaken {c : Chan} {n k : Nat} {s t : State} {l : List Tok} (h : readLine c n k s = .ok (l, t)) : t.untaken = s.untaken := by
  unfold readLine at h
  split at h
  · cases h; rfl
  · split at h
    · cases h
    · cases h
    · next ha => cases h; exact untaken_of_kept (access_kept ha)

theorem headLine_untaken {c : Chan} {x : Branch} {k : Nat} {s t : State} {l : List Tok} (h : headLine c x k s = some (.ok (l, t))) :
    t.untaken = s.untaken := by
  unfold headLine at h
  split at h
  · cases h; rfl
  · split at h
    · exact readLine_untaken (Option.some.inj h)
    · cases h

/-- The state that a look at the next token shows with what it found. -/
def Peek.shown : Peek × State → State
  | (.tok _ _ u, _) => u
  | (_, u) => u

theorem peekTok_untaken (key b n : Nat) (s : State) : (Peek.shown (peekTok key b n s)).untaken = s.untaken := by
  induction n generalizing s with
  | zero => rfl
  | succ n ih =>
    unfold peekTok
    split
    · rfl
    · split
      · rfl
      · split
        · split <;> rfl
        · rfl
        · next hh =>
          have ht := headLine_untaken hh
          split
          · exact (ih _).trans ht
          · split
            · exact (ih _).trans ht
            · split
              · exact ht
              · split
                · exact ht
                · next hh' => exact (headLine_untaken hh').trans ht
                · exact ht

theorem takeTok_untaken (key b : Nat) (last : Bool) (s : State) : (takeTok key b last s).untaken = s.untaken := by
  unfold takeTok
  split
  · rfl
  · split <;> rfl

theorem recvToks_untaken {key b cap w fuel img kind n img' : Nat} {s u : State}
    (h : recvToks key b cap w fuel img s = .ok (kind, n, img', u)) : u.untaken = s.untaken := by
  induction fuel generalizing img s with
  | zero => cases h; rfl
  | succ fuel ih =>
    have hp := peekTok_untaken key b peekBound s
    unfold recvToks at h
    split at h
    · next hpeek => rw [hpeek] at hp; cases h; exact hp
    · cases h
    · cases h
    · next hpeek =>
      rw [hpeek] at hp
      dsimp only at h
      split at h
      · split at h
        · exact (ih h).trans ((takeTok_untaken ..).trans hp)
        · cases h; exact hp
      · split at h
        · cases h; exact hp
        · cases h; exact (takeTok_untaken ..).trans hp

/-! ### The form -/

/-- The destination group of a CHRECV with what it has taken (R260). -/
def recvPut (f : RFmt) (c : Chan) (img : Nat) (s u : State) : State :=
  let d := s.tagOf f.sd
  let p := u.hart.groupPv f.sd.toNat d.count ||| s.getP f.sa ||| c.pv ||| u.ringPv c ||| u.ctx
  u.mapHart fun h => h.putGroup u.level d p f.sd.toNat img d.count

/-- The registers of a CHRECV: the group, VL and the ending kind (R260). -/
def recvRegs (f : RFmt) (c : Chan) (kind n img : Nat) (s u : State) : State :=
  let x := recvPut f c img s u
  let p := x.setOfDst f.sd
  (x.mapHart fun h => ({ h with prog := 0, csr := { h.csr with vl := n } }).setCsrPv 1 p).setS f.sb (BitVec.ofNat 64 kind) p

/-- The completion of a CHRECV, whose acquire is of the channel (R260, R262). -/
def received (f : RFmt) (c : Chan) (kind n img : Nat) (s u : State) : State :=
  retire (acquireAt c.scope (c.key / 128) (recvRegs f c kind n img s u))

theorem chrecv_receives {f : RFmt} {s u : State} {e : EndEntry} {c : Chan} {kind n img : Nat} (hallow : Allowed (.chrecv f) s)
    (hh : s.handle (s.getS f.sa) = some (e, c)) (he : e.end_ ≠ 0) (hready : GroupReady f.sd s)
    (hperm : isPerm (s.tagOf f.sd).code = true)
    (hrecv : recvToks c.key (e.end_ - 1) (capacity (s.tagOf f.sd).width (s.tagOf f.sd).count s.level) (s.tagOf f.sd).width
      (capacity (s.tagOf f.sd).width (s.tagOf f.sd).count s.level + 2) (s.imgOf f.sd) s = .ok (kind, n, img, u)) :
    exec (.chrecv f) s = .next (received f c kind n img s u) := by
  refine (exec_of_allowed rfl hallow).trans (congrArg _ ?_)
  rw [hh]
  dsimp only
  rw [if_neg (by simp [he]), tagReason_read hready hperm]
  dsimp only
  rw [hrecv]
  rfl

theorem Hart.csrPv_setCsrPv_same (h : Hart) (n : Nat) (p : PvSet) : (h.setCsrPv n p).csrPv n = p := Vector.getElem_set_self ..

section

variable (f : RFmt) (c : Chan) (kind n img : Nat) (s u : State)

/-- A CHRECV's acquire and its completion leave its registers alone. -/
theorem received_recvRegs :
    let x := recvRegs f c kind n img s u
    let t := received f c kind n img s u
    Passed x t ∧ t.hart.s = x.hart.s ∧ t.hart.vec = x.hart.vec ∧ t.vl = x.vl ∧ t.vlPv = x.vlPv ∧ t.level = x.level ∧ t.mem = x.mem := by
  have hkept := acquireAt_kept c.scope (c.key / 128) (recvRegs f c kind n img s u)
  have hhart := congrArg Kept.hart hkept
  exact ⟨passed_retire (going_of_bare hhart), congrArg (·.s) hhart, congrArg (·.vec) hhart, congrArg (·.csr.vl) hhart,
    congrArg (·.csrPv 1) hhart, congrArg (·.core.level) hkept, acquireAt_mem ..⟩

theorem recvRegs_vec : (recvRegs f c kind n img s u).hart.vec = (recvPut f c img s u).hart.vec := Hart.setS_vec ..

theorem recvRegs_vl : (recvRegs f c kind n img s u).vl = n := congrArg Csrs.vl (Hart.setS_csr ..)

theorem recvRegs_vlPv : (recvRegs f c kind n img s u).vlPv = (recvPut f c img s u).setOfDst f.sd := by
  have h : (recvRegs f c kind n img s u).vlPv = (((recvPut f c img s u).mapHart fun h =>
      ({ h with prog := 0, csr := { h.csr with vl := n } }).setCsrPv 1 ((recvPut f c img s u).setOfDst f.sd)).hart).csrPv 1 :=
    congrArg (fun x : Csrs => x.pv.get ⟨csrIx 1, csrIx_lt 1⟩) (Hart.setS_csr ..)
  exact h.trans (Hart.csrPv_setCsrPv_same ..)

/-- Writing the group changes the vector file alone. -/
theorem recvPut_eq : ∃ x, recvPut f c img s u = u.mapHart fun h => { h with vec := x } := by
  obtain ⟨x, hx⟩ := Hart.putGroup_eq u.level (s.tagOf f.sd) (u.hart.groupPv f.sd.toNat (s.tagOf f.sd).count ||| s.getP f.sa ||| c.pv |||
    u.ringPv c ||| u.ctx) f.sd.toNat img (s.tagOf f.sd).count u.hart
  exact ⟨x, congrArg (fun h : Hart => ({ u with hart := h } : State)) hx⟩

theorem recvRegs_going : (recvRegs f c kind n img s u).hart.going = u.hart.going := by
  obtain ⟨x, hx⟩ := recvPut_eq f c img s u
  unfold recvRegs
  rw [hx]
  exact setS_going ..

theorem recvRegs_level : (recvRegs f c kind n img s u).level = u.level := rfl

theorem recvRegs_mem : (recvRegs f c kind n img s u).mem = u.mem := rfl

theorem recvRegs_getS_same (h : f.sb ≠ 0) : (recvRegs f c kind n img s u).getS f.sb = BitVec.ofNat 64 kind :=
  (Hart.getS_setS_same _ _ _ _ h).1

theorem recvRegs_getS_ne (r : BitVec 5) (h : r ≠ f.sb) : (recvRegs f c kind n img s u).getS r = u.getS r := by
  obtain ⟨x, hx⟩ := recvPut_eq f c img s u
  unfold recvRegs
  rw [hx]
  exact (Hart.getS_setS_ne _ _ _ _ _ h).1

end

/-- The group that a CHRECV leaves in its destination (R260). -/
theorem recvPut_group (f : RFmt) (c : Chan) (img : Nat) {s : State} (u : State) (h : s.groupOk f.sd = true) :
    (recvPut f c img s u).hart.groupImg u.level f.sd.toNat (s.tagOf f.sd).count = img % 2 ^ (8192 * u.level * (s.tagOf f.sd).count) ∧
      ∀ r < 32, (∀ j < (s.tagOf f.sd).count, r ≠ f.sd.toNat + j) → (recvPut f c img s u).hart.vreg r = u.hart.vreg r :=
  ⟨Hart.groupImg_putGroup _ _ _ _ _ (group_fits h), fun _ hr hne => Hart.vreg_putGroup_ne _ _ _ _ _ (group_fits h) hr hne⟩

/-- A CHRECV that has taken its tokens completes with them (R260). -/
theorem received_spec (f : RFmt) (c : Chan) (kind n img : Nat) {s u : State} (hgroup : s.groupOk f.sd = true) (hu : u.untaken = s.untaken) :
    let d := s.tagOf f.sd
    let t := received f c kind n img s u
    t.vl = n ∧ (f.sb ≠ 0 → t.getS f.sb = BitVec.ofNat 64 kind) ∧ t.vlPv = (t.hart.vreg f.sd.toNat).pv ∧
      (∀ r, r ≠ f.sb → t.getS r = u.getS r) ∧ Passed s t ∧ t.mem = u.mem ∧
      (∀ k, (k + 1) * d.width ≤ 8192 * s.level * d.count → Safety.elemAt t f.sd d k = bitsAt img (k * d.width) d.width) ∧
      (∀ r < 32, (∀ j < d.count, r ≠ f.sd.toNat + j) → t.hart.vreg r = u.hart.vreg r) := by
  intro d t
  obtain ⟨hpassed, hs, hvec, hvl, hvlPv, hlevel, hmem⟩ := received_recvRegs f c kind n img s u
  have hgoing : u.hart.going = s.hart.going := going_of_bare (g := { u.hart with prog := 0 }) (h := { s.hart with prog := 0 }) (congrArg Prod.fst hu)
  have hul : u.level = s.level := congrArg (fun x : Hart × Core => x.2.level) hu
  have hput : t.hart.vec = (recvPut f c img s u).hart.vec := hvec.trans (recvRegs_vec ..)
  have hreg (r : Nat) : t.hart.vreg r = (recvPut f c img s u).hart.vreg r := congrArg (fun v : VecFile => v.v.get ⟨r % 32, _⟩) hput
  have hgetS (r : BitVec 5) : t.getS r = (recvRegs f c kind n img s u).getS r := by simp only [State.getS, Hart.getS, hs, t]
  obtain ⟨himg, hother⟩ := recvPut_group f c img u hgroup
  refine ⟨hvl.trans (recvRegs_vl ..), fun h => (hgetS _).trans (recvRegs_getS_same _ _ _ _ _ _ _ h), ?_,
    fun r h => (hgetS r).trans (recvRegs_getS_ne _ _ _ _ _ _ _ r h), passed_of_going ((recvRegs_going ..).trans hgoing) hpassed,
    hmem.trans (recvRegs_mem ..), fun k hk => ?_, fun r hr hne => (hreg r).trans (hother r hr hne)⟩
  · rw [hreg]
    exact hvlPv.trans (recvRegs_vlPv ..)
  · have hdst : t.dstImg f.sd d = img % 2 ^ (8192 * s.level * d.count) := by
      rw [State.dstImg, hlevel.trans (recvRegs_level ..), Hart.groupImg_congr hput, himg, hul]
    rw [Safety.elemAt, hdst]
    exact bitsAt_mod (by rwa [Nat.add_mul, Nat.one_mul] at hk)

end Sys2Proof.Machine
end

section
open Sys2Proof Sys2Proof.Machine Sys2Proof.Safety

/-- Settles O49: CHOPEN by the end that it opens, CHCLOSE by the record that it leaves, CHSEND by its slots, CHRECV by its tokens, and CHWAIT
and CHSTAT by what they read. -/
theorem channelForms : Obligations.ChannelForms := by
  intro f s u v
  refine ⟨fun pa i l hallow ha hacc hok hring hsame hfree hsel => ?_, fun e c hh => ?_⟩
  · have hkey := foundChan_key (s := s) (u := u) (v := v) (pa := pa) (l := l)
    refine ⟨fun h0 hprod hclosed => ?_, fun b frames h1 hb hcore hclosed hframes => ?_⟩
    · have hopen := h0 ▸ openEnd_send (c := foundChan s u v pa l) hprod hclosed hfree
      have hrec : (foundChan s u v pa l).openSend.key = pa := hkey
      exact ⟨_, chopen_eq hallow ha hacc hok hring hsame hsel hopen rfl, opened_putEnd _ _ _ _ _ hrec ⟨v.tide, rfl⟩, _,
        chanAt_putEnd _ _ hrec _ _ _ _, rfl⟩
    · have hopen := openEnd_receive (c := foundChan s u v pa l) h1 hb hcore hclosed hfree hframes
      have hrec : ((foundChan s u v pa l).setBranch ((s.getS f.sb).toNat - 1) (b.openWith frames)).key = pa := hkey
      exact ⟨_, chopen_eq hallow ha hacc hok hring hsame hsel hopen (setElastic_true_ctx ..), opened_putEnd _ _ _ _ _ hrec
          (setElastic_true_eq ..), _, b.openWith frames,
        chanAt_putEnd _ _ hrec _ _ _ _, branch_setBranch hb _, rfl, rfl, rfl⟩
  have hat := chanAt_of_handle hh
  refine ⟨fun hallow => ⟨fun he hp => chclose_waits hallow hh he hp, fun h => ?_⟩, ?_, ?_, ?_, ?_, ?_, ?_⟩
  · exact ⟨_, chclose_closes hallow hh h, closeEntry_spec hat⟩
  · intro hallow he hk hready hperm x p toks w hring hgate hsend h1 hsent
    exact ⟨_, chsend_sends hallow hh he hk hready hperm hring hgate hsend, sent_spec hat h1 _ hsent⟩
  · intro hallow he hready hperm d cap kind n img hrecv
    exact ⟨_, chrecv_receives hallow hh he hready hperm hrecv, received_spec f c kind n img hready.2.1 (recvToks_untaken hrecv)⟩
  · intro hallow lim n want hl hn
    have hx := chwait_eq hallow hh hl hn
    refine ⟨fun h => hx.trans (congrArg _ (if_pos h)), fun h hdone => ?_, fun h hlt hne hopen => ?_⟩
    · exact ⟨_, hx.trans (congrArg _ ((if_neg (Int.not_lt.mpr h)).trans (if_pos hdone))), scalarStep_waited f c _ s⟩
    · refine hx.trans (congrArg _ ((if_neg (Int.not_lt.mpr h)).trans (if_neg ?_)))
      rintro (hle | h0 | ⟨he, hclosed⟩)
      · exact Int.not_lt.mpr hle hlt
      · exact hne h0
      · exact hopen.elim he fun hopen => Bool.false_ne_true (hopen.symm.trans hclosed)
  · intro hallow hl
    have hw := scalarStep_waited f c (Config.freeWord s.freeCtr) s
    refine ⟨_, _, chwait_free hallow hh hl, ⟨hw.wrote.result, hw.wrote.zero, hw.wrote.others⟩, ?_, rfl⟩
    exact passed_retire (setS_going ..)
  · exact fun hallow he hsb => chstat_illegal hallow hh he hsb
  · intro hallow h x hx hlen
    obtain ⟨h0, h1, h2, h12, h16, h32, h48⟩ := statWord_fields c x hlen
    exact ⟨statWord c x, h0, h1, h2, h12, h16, h32, h48, _, chstat_reads hallow hh h hx, scalarStep_of ..⟩

end

section
/-! SUPPORT. The values of the scalar forms: comparisons, products, division and bit counts by what they compute (R73-R75). -/

namespace Sys2Proof.Machine

open Sys2Proof.Safety

/-! ### Comparisons and immediates -/

theorem ofBool_eq_ite {b : Bool} {c : Prop} [Decidable c] (h : b = true ↔ c) : ofBool b = if c then 1 else 0 := by
  simp only [ofBool, h]

/-- A choice by the negated comparison. -/
theorem ite_slt_swap (a b : Word) : (if b.slt a then b else a) = if a.toInt ≤ b.toInt then a else b := by
  simp only [BitVec.slt_iff_toInt_lt, ← not_le, ite_not]

theorem ite_ult_swap (a b : Word) : (if b.ult a then b else a) = if a.toNat ≤ b.toNat then a else b := by
  simp only [BitVec.ult_iff_lt, BitVec.lt_def, ← not_le, ite_not]

/-- The greater of two by the order either way round: a tie is no difference. -/
theorem ite_slt_le (a b : Word) : (if a.slt b then b else a) = if b.toInt ≤ a.toInt then a else b := by
  simp only [BitVec.slt_iff_toInt_lt, ← not_le, ite_not]

theorem ite_ult_le (a b : Word) : (if a.ult b then b else a) = if b.toNat ≤ a.toNat then a else b := by
  simp only [BitVec.ult_iff_lt, BitVec.lt_def, ← not_le, ite_not]

/-- LIH's word: the immediate above the low half. -/
theorem append_low (x : BitVec 32) (a : Word) : x ++ a.extractLsb' 0 32 = BitVec.ofNat 64 (x.toNat * 2 ^ 32 + a.toNat % 2 ^ 32) := by
  apply BitVec.eq_of_toNat_eq
  have h : a.toNat % 2 ^ 32 < 2 ^ 32 := Nat.mod_lt _ (by decide)
  rw [BitVec.toNat_append, BitVec.extractLsb'_toNat, Nat.shiftRight_zero, Nat.shiftLeft_eq, mul_comm, ← Nat.two_pow_add_eq_or_of_lt h,
    BitVec.toNat_ofNat]
  have := x.isLt
  omega

/-! ### High products -/

theorem mulHigh_eq (a b : Word) : mulHigh a b = BitVec.ofInt 64 (a.toInt * b.toInt / 2 ^ 64) := by
  have hx : a.signExtend 128 * b.signExtend 128 = BitVec.ofInt 128 (a.toInt * b.toInt) := by
    simp only [BitVec.signExtend, BitVec.ofInt_mul]
  apply BitVec.eq_of_toNat_eq
  simp only [mulHigh, hx, BitVec.extractLsb'_toNat, BitVec.toNat_ofInt, Nat.shiftRight_eq_div_pow]
  generalize a.toInt * b.toInt = x
  omega

theorem mulHighU_eq (a b : Word) : mulHighU a b = BitVec.ofNat 64 (a.toNat * b.toNat / 2 ^ 64) := by
  apply BitVec.eq_of_toNat_eq
  have ha := a.isLt
  have hb := b.isLt
  have h : a.toNat * b.toNat < 2 ^ 128 := by
    calc a.toNat * b.toNat < 2 ^ 64 * 2 ^ 64 := Nat.mul_lt_mul'' ha hb
      _ = 2 ^ 128 := by norm_num
  simp only [mulHighU, BitVec.extractLsb'_toNat, BitVec.toNat_mul, BitVec.toNat_setWidth, BitVec.toNat_ofNat, Nat.shiftRight_eq_div_pow]
  rw [Nat.mod_eq_of_lt (show a.toNat < 2 ^ 128 by omega), Nat.mod_eq_of_lt (show b.toNat < 2 ^ 128 by omega), Nat.mod_eq_of_lt h]

/-! ### Division -/

theorem divS_eq {a b : Word} (hb : b ≠ 0) : divS a b = BitVec.ofInt 64 (a.toInt.tdiv b.toInt) := by
  rw [divS, if_neg (by simpa using hb)]
  apply BitVec.eq_of_toInt_eq
  rw [BitVec.toInt_sdiv, BitVec.toInt_ofInt]

theorem remS_eq {a b : Word} (hb : b ≠ 0) : remS a b = BitVec.ofInt 64 (a.toInt.tmod b.toInt) := by
  rw [remS, if_neg (by simpa using hb)]
  apply BitVec.eq_of_toInt_eq
  rw [← BitVec.toInt_srem, BitVec.ofInt_toInt]

theorem divU_eq {a b : Word} (hb : b ≠ 0) : divU a b = BitVec.ofNat 64 (a.toNat / b.toNat) := by
  rw [divU, if_neg (by simpa using hb), ← BitVec.toNat_udiv, BitVec.ofNat_toNat, BitVec.setWidth_eq]

theorem remU_eq {a b : Word} (hb : b ≠ 0) : remU a b = BitVec.ofNat 64 (a.toNat % b.toNat) := by
  rw [remU, if_neg (by simpa using hb), ← BitVec.toNat_umod, BitVec.ofNat_toNat, BitVec.setWidth_eq]

/-! ### Bit counts -/

theorem popCount_eq_countP (x n : Nat) : popCount x n = (List.range n).countP fun k => x.testBit k := by
  induction n with
  | zero => rfl
  | succ n ih => simp only [popCount, ih, List.range_succ, List.countP_append, List.countP_singleton]

/-- CLZ counts the zeros above the highest set bit. -/
theorem clz64_spec (a : Word) : ∃ n ≤ 64, (∀ k, 64 - n ≤ k → a.getLsbD k = false) ∧ (n < 64 → a.getLsbD (63 - n) = true) ∧
    clz64 a = BitVec.ofNat 64 n := by
  by_cases h : a = 0
  · exact ⟨64, le_refl _, fun k _ => by rw [h]; exact BitVec.getLsbD_zero, fun h => absurd h (lt_irrefl _),
      by rw [clz64, if_pos (by simpa using h)]; rfl⟩
  · have h0 : a.toNat ≠ 0 := fun e => h (BitVec.eq_of_toNat_eq e)
    have hl : a.toNat.log2 < 64 := (Nat.log2_lt h0).mpr a.isLt
    refine ⟨63 - a.toNat.log2, by omega, fun k hk => ?_, fun _ => ?_, by rw [clz64, if_neg (by simpa using h)]⟩
    · exact Nat.testBit_lt_two_pow (lt_of_lt_of_le Nat.lt_log2_self (Nat.pow_le_pow_right (by decide) (by omega)))
    · rw [show 63 - (63 - a.toNat.log2) = a.toNat.log2 by omega]
      exact Nat.testBit_log2 h0

/-- A word and its negation share the lowest set bit alone. -/
theorem and_neg_eq_twoPow {a : Word} {n : Nat} (hn : a.getLsbD n = true) (hlow : ∀ k < n, a.getLsbD k = false) :
    a &&& -a = BitVec.twoPow 64 n := by
  have hlt : n < 64 := BitVec.lt_of_getLsbD hn
  apply BitVec.eq_of_getLsbD_eq
  intro i hi
  rw [BitVec.getLsbD_and, BitVec.getLsbD_neg, BitVec.getLsbD_twoPow]
  rcases Nat.lt_trichotomy i n with h | rfl | h
  · simp [hlow i h, Nat.ne_of_gt h]
  · have hno : ¬ ∃ j < i, a.getLsbD j = true := fun ⟨j, hj, h⟩ => by simp [hlow j hj] at h
    simp only [hn, hno, hlt]; decide
  · have : ∃ j < i, a.getLsbD j = true := ⟨n, h, hn⟩
    simp [hi, this, Nat.ne_of_lt h]

/-- CTZ counts the zeros below the lowest set bit. -/
theorem ctz64_spec (a : Word) : ∃ n ≤ 64, (∀ k < n, a.getLsbD k = false) ∧ (n < 64 → a.getLsbD n = true) ∧
    ctz64 a = BitVec.ofNat 64 n := by
  by_cases h : a = 0
  · exact ⟨64, le_refl _, fun k _ => by rw [h]; exact BitVec.getLsbD_zero, fun h => absurd h (lt_irrefl _),
      by rw [ctz64, if_pos (by simpa using h)]; rfl⟩
  · have hex : ∃ k, a.getLsbD k = true :=
      ⟨_, Nat.testBit_log2 fun e => h (BitVec.eq_of_toNat_eq e)⟩
    have hn := Nat.find_spec hex
    have hlow (k : Nat) (hk : k < Nat.find hex) : a.getLsbD k = false := by simpa using Nat.find_min hex hk
    have hlt : Nat.find hex < 64 := BitVec.lt_of_getLsbD hn
    refine ⟨Nat.find hex, hlt.le, hlow, fun _ => hn, ?_⟩
    rw [ctz64, if_neg (by simpa using h), and_neg_eq_twoPow hn hlow, BitVec.toNat_twoPow,
      Nat.mod_eq_of_lt (Nat.pow_lt_pow_right (by decide) hlt), Nat.log2_two_pow]

end Sys2Proof.Machine
end

section
open Sys2Proof Sys2Proof.Machine Sys2Proof.Safety

/-- Settles O6: the reset state lists no hart but the current one, which is as every context before its first task. -/
theorem resetState : Obligations.ResetState := by
  have hat (h : HartId) : State.reset.hartAt h = Hart.initial h.core h.hart := by
    unfold State.hartAt
    split
    · next e =>
      rw [Bool.and_eq_true, beq_iff_eq, beq_iff_eq] at e
      rw [← e.1, ← e.2]
      rfl
    · rfl
  refine ⟨rfl, fun a => ?_, rfl, rfl, rfl, rfl, rfl, rfl, rfl, rfl, fun h => by rw [hat]; exact ⟨rfl, rfl⟩, fun h r => ?_⟩
  · unfold State.homeByte
    split <;> rfl
  · rw [hat, Hart.getS, Hart.getP]
    constructor
    · split
      · rfl
      · exact Vector.getElem_replicate ..
    · split
      · rfl
      · exact Vector.getElem_replicate ..

/-- Settles O21: a write of s0 is dropped, and any other register is an entry of its own. -/
theorem registerZero : Obligations.RegisterZero := fun s r v p =>
  ⟨rfl, rfl, rfl, Hart.getS_setS_same s.hart r v p, fun q => Hart.getS_setS_ne s.hart r q v p⟩

/-- Settles O14: each form writes the value of its row; comparisons are those of the integers that the words stand for. -/
theorem saluResults : Obligations.SaluResults := by
  intro f s a b two
  have two' {i : Instr} {v w : Word} (h : exec i s = .next (retire (s.setS f.sd v (s.getP f.sa ||| s.getP f.sb ||| s.ctx)))) (e : v = w) :
      Completes i s (two w) := completes_scalar h e rfl
  refine ⟨two' rfl rfl, two' rfl rfl, two' rfl rfl, two' rfl rfl, two' rfl rfl, two' rfl rfl, two' rfl rfl, two' rfl rfl, two' rfl rfl,
    two' rfl rfl, two' rfl (ite_slt_swap a b), two' rfl (ite_slt_le a b), two' rfl (ite_ult_swap a b), two' rfl (ite_ult_le a b),
    two' rfl (ofBool_eq_ite BitVec.slt_iff_toInt_lt), two' rfl (ofBool_eq_ite ?_), completes_scalar rfl ?_ rfl⟩
  · rw [BitVec.ult_iff_lt, BitVec.lt_def]
  · simp only [bne_iff_ne, ne_eq, ite_not, a, b]

/-- Settles O17, with the immediate extended as each row says. -/
theorem simmResults : Obligations.SimmResults := by
  intro f s a x one
  have one' {i : Instr} {v w : Word} (h : exec i s = .next (retire (s.setS f.sd v (s.getP f.sa ||| s.ctx)))) (e : v = w) :
      Completes i s (one w) := completes_scalar h e rfl
  refine ⟨one' rfl rfl, one' rfl rfl, one' rfl rfl, one' rfl rfl, one' rfl rfl, one' rfl rfl, one' rfl rfl,
    one' rfl (ofBool_eq_ite BitVec.slt_iff_toInt_lt), one' rfl (ofBool_eq_ite ?_), completes_scalar rfl rfl rfl,
    one' rfl (append_low f.imm a)⟩
  rw [BitVec.ult_iff_lt, BitVec.lt_def]
  rfl

/-- Settles O15: the quotients and remainders of the integers, and the corners of the table. -/
theorem divisionResults : Obligations.DivisionResults := by
  intro f s a b two
  have two' {i : Instr} {v w : Word} (h : exec i s = .next (retire (s.setS f.sd v (s.getP f.sa ||| s.getP f.sb ||| s.ctx)))) (e : v = w) :
      Completes i s (two w) := completes_scalar h e rfl
  have div {w : Word} : divS a b = w → Completes (.div f) s (two w) := two' rfl
  have divu {w : Word} : divU a b = w → Completes (.divu f) s (two w) := two' rfl
  have rem {w : Word} : remS a b = w → Completes (.rem f) s (two w) := two' rfl
  have remu {w : Word} : remU a b = w → Completes (.remu f) s (two w) := two' rfl
  refine ⟨fun hb => ?_, fun ha hb => ?_, fun hb => ?_, ?_⟩
  · have hb' : (b == 0) = true := beq_iff_eq.mpr hb
    exact ⟨div (if_pos hb'), divu (if_pos hb'), rem (if_pos hb'), remu (if_pos hb')⟩
  · exact ⟨div (by rw [ha, hb]; decide), rem (by rw [ha, hb]; decide)⟩
  · exact ⟨div (divS_eq hb), rem (remS_eq hb), divu (divU_eq hb), remu (remU_eq hb)⟩
  · simp only [List.forall_mem_cons, List.not_mem_nil, false_implies, implies_true, and_true]
    and_intros <;> exact ⟨_, _, completes_scalar rfl rfl rfl⟩

/-- Settles O16: the high half is the floor of the exact product, and each count is known by the bits it counts. -/
theorem highProductsAndBitCounts : Obligations.HighProductsAndBitCounts := by
  intro f s a b two one
  obtain ⟨n, hn, hzero, hset, hclz⟩ := clz64_spec a
  obtain ⟨m, hm, hzero', hset', hctz⟩ := ctz64_spec a
  exact ⟨completes_scalar rfl (mulHigh_eq a b) rfl, completes_scalar rfl (mulHighU_eq a b) rfl,
    ⟨n, hn, hzero, hset, completes_scalar rfl hclz rfl⟩, ⟨m, hm, hzero', hset', completes_scalar rfl hctz rfl⟩,
    completes_scalar rfl (congrArg _ (popCount_eq_countP _ _)) rfl⟩

end

section
/-! SUPPORT. Returns from handlers, and the traps of the scalar unit, in the terms of `Safety` (R84, R85, R409-R411). -/

namespace Sys2Proof.Machine

open Sys2Proof.Safety

/-! ### Traps of the scalar unit -/

/-- A trap of the scalar unit enters the supervisor at once (R409, R415). -/
theorem scalarTrap_supervisor {t : TrapRec} {s : State} (h : ToSupervisor t.cause s) :
    EntersSupervisor t s.hart.pc s (scalarTrap t s) := by
  rw [scalarTrap, trapBehind_eq_trapAt _ _ h.1 h.2.1]
  exact (deliver_supervisor _ (route_supervisor h)).1

/-- SCALL's own trap goes to the supervisor from user mode and to the hypervisor from supervisor mode (R84, R409). -/
theorem scall_eq {f : IFmt} {s : State} (hm : s.hart.mode ≠ .hypervisor) (hp : s.postedDone = true) :
    exec (.scall f) s = .next (deliver ⟨5, f.imm.zeroExtend 64, 0, 0⟩ (s.hart.pc + 8) s) := by
  simp [exec, execScall, hm, hp]

/-! ### Ordinary returns -/

/-- A return to an aligned pc raises nothing. -/
theorem eretOrdinary_of_aligned {s : State} (h : s.handlerRegs.pc.toNat % 8 = 0) : eretOrdinary s = returnFrom s := by
  have hpc : (returnFrom s).hart.pc = s.handlerRegs.pc := rfl
  simp [eretOrdinary, hpc, h]

theorem eret_returns {s : State} (hm : s.hart.mode ≠ .user) (he : exitOf s.handlerRegs.status = false)
    (ha : s.handlerRegs.pc.toNat % 8 = 0) : exec .eret s = .next (returnFrom s) := by
  simp [exec, execEret, hm, he, eretOrdinary_of_aligned ha]

theorem handlerRegs_supervisor {s : State} (h : s.hart.mode = .supervisor) : s.handlerRegs = s.hart.csr.tr := by
  simp [State.handlerRegs, h]

theorem handlerRegs_hypervisor {s : State} (h : s.hart.mode = .hypervisor) : s.handlerRegs = s.hart.csr.htr := by
  simp [State.handlerRegs, h]

/-- The hart that a supervisor's handler returns to (R85, R411, R456). -/
theorem returnFrom_supervisor {s : State} (h : s.hart.mode = .supervisor) :
    (returnFrom s).hart.csr.tr.status = s.hart.csr.tr.status &&& ~~~12 ∧ (returnFrom s).hart.watch = s.hart.asideS ∧
      (returnFrom s).hart.csr.htr = s.hart.csr.htr := by
  simp [returnFrom, settleFrames, endSpills, h, handlerRegs_supervisor h]

/-- The hart that a hypervisor's handler returns to. -/
theorem returnFrom_hypervisor {s : State} (h : s.hart.mode = .hypervisor) :
    (returnFrom s).hart.csr.htr.status = s.hart.csr.htr.status &&& ~~~12 ∧ (returnFrom s).hart.watch = s.hart.asideH ∧
      (returnFrom s).hart.csr.tr = s.hart.csr.tr := by
  simp [returnFrom, settleFrames, endSpills, h, handlerRegs_hypervisor h]

/-- Either return leaves the scalar registers, their sets and ctx. -/
theorem returnFrom_regs (s : State) :
    (returnFrom s).hart.s = s.hart.s ∧ (returnFrom s).hart.sp = s.hart.sp ∧ (returnFrom s).hart.ctx = s.hart.ctx := by
  unfold returnFrom
  dsimp only [settleFrames, endSpills]
  cases s.hart.mode <;> exact ⟨rfl, rfl, rfl⟩

/-! ### Control-register access (R68, R69) -/

section

variable {i : Instr} {f : IFmt} {write : Bool} {new : Word → Word → Word} {s : State}

theorem csrForm_of_trap {c : Nat} (h : csrCheck (f.imm.toNat % 4096) s.hart.mode write = some c) :
    csrForm i f write new s = scalarTrap ⟨c, encode i, 0, 0⟩ s := by
  simp only [csrForm, h]

/-- A form that writes nothing gives the old value. -/
theorem csrForm_of_read (h : csrCheck (f.imm.toNat % 4096) s.hart.mode false = none) :
    csrForm i f false new s = retire (s.setS f.sd (csrRead (f.imm.toNat % 4096) s) (csrReadPv (f.imm.toNat % 4096) s ||| s.ctx)) := by
  simp [csrForm, h]

end

/-- The access that a mode has, of the three columns. -/
def accessIn (m : Mode) (u v h : CsrAccess) : CsrAccess := match m with | .user => u | .supervisor => v | .hypervisor => h

theorem csrCheck_unlisted {n : Nat} (h : csrAccess n = none) (m : Mode) (write : Bool) : csrCheck n m write = some 1 := by
  simp only [csrCheck, h]

/-- The fate of an access to a listed register. -/
theorem csrCheck_listed {n : Nat} {u v h : CsrAccess} (hn : csrAccess n = some (u, v, h)) (m : Mode) (write : Bool) :
    csrCheck n m write = if accessIn m u v h = .none then some 4
      else if write = true ∧ accessIn m u v h = .ro then (if h = .rw ∨ v = .rw then some 4 else some 1) else none := by
  simp only [csrCheck, hn, accessIn, beq_iff_eq, Bool.and_eq_true, Bool.or_eq_true]
  rfl

end Sys2Proof.Machine
end

section
open Sys2Proof Sys2Proof.Machine Sys2Proof.Safety

/-- Settles O10: both traps are delivered at once, SCALL's with the pc past it. -/
theorem systemCallsAndBreakpoints : Obligations.SystemCallsAndBreakpoints := by
  refine ⟨fun f s hm hp => ?_, fun f s hm hp hv => ?_, fun f s h => ?_, fun f s hm => ?_⟩
  · exact ⟨_, scall_eq (by simp [hm]) hp, (deliver_supervisor _ (by simp [route, hm])).1⟩
  · have hne : s.hart.mode ≠ .hypervisor := by simp [hm]
    obtain he := deliver_hypervisor (t := ⟨5, f.imm.zeroExtend 64, 0, 0⟩) (double := false) (s.hart.pc + 8)
      (by simp [route, hm]) hne hv
    exact ⟨_, scall_eq hne hp, he.mode, he.pc, he.cause, he.info, he.pcSaved, he.regs.1, he.memory⟩
  · exact ⟨_, rfl, scalarTrap_supervisor (t := ⟨6, f.imm.zeroExtend 64, 0, 0⟩) h⟩
  · simp [exec, execScall, hm]

/-- Settles O11: an ordinary return, from the registers of the handler in hand. -/
theorem eretReturns : Obligations.EretReturns := by
  refine ⟨fun s hm he ha => ?_, fun s hm he ha => ?_, fun s hm => ?_⟩
  · have hr := handlerRegs_supervisor hm
    obtain ⟨hst, hw, hh⟩ := returnFrom_supervisor hm
    obtain ⟨h1, h2, h3⟩ := returnFrom_regs s
    rw [← hr] at he ha
    exact ⟨_, eret_returns (by simp [hm]) he ha, congrArg TrapRegs.pc hr, by rw [← hr]; rfl, hst, hw, h1, h2, h3, hh, returnFrom_mem s⟩
  · have hr := handlerRegs_hypervisor hm
    obtain ⟨hst, hw, hh⟩ := returnFrom_hypervisor hm
    obtain ⟨h1, h2, h3⟩ := returnFrom_regs s
    rw [← hr] at he ha
    exact ⟨_, eret_returns (by simp [hm]) he ha, congrArg TrapRegs.pc hr, by rw [← hr]; rfl, hst, hw, h1, h2, h3, hh, returnFrom_mem s⟩
  · simp [exec, execEret, hm]

/-- Settles O22: the access check comes first, and names the trap. -/
theorem controlRegisterAccess : Obligations.ControlRegisterAccess := by
  intro f s n traps rd wr st cl all writing
  have hst : exec st s = .next (csrForm st f (f.sa != 0) (fun o a => o ||| a) s) := rfl
  have hcl : exec cl s = .next (csrForm cl f (f.sa != 0) (fun o a => o &&& ~~~a) s) := rfl
  -- a check that refuses reads, and so writes too, or writes alone
  have refuses {c : Nat} (h : ∀ w, csrCheck n s.hart.mode w = some c) : all (traps c) :=
    ⟨congrArg _ (csrForm_of_trap (h _)), congrArg _ (csrForm_of_trap (h _)), congrArg _ (csrForm_of_trap (h _)),
      congrArg _ (csrForm_of_trap (h _))⟩
  have refusesWrites {c : Nat} (h : csrCheck n s.hart.mode true = some c) : writing (traps c) := by
    refine ⟨congrArg _ (csrForm_of_trap h), fun hsa => ?_⟩
    have hw : (f.sa != 0) = true := bne_iff_ne.mpr hsa
    exact ⟨congrArg _ (csrForm_of_trap (by rw [hw]; exact h)), congrArg _ (csrForm_of_trap (by rw [hw]; exact h))⟩
  refine ⟨fun hn => refuses (csrCheck_unlisted hn _), ?_⟩
  intro u v h hn here
  have check (w : Bool) := csrCheck_listed hn s.hart.mode w
  have hhere : accessIn s.hart.mode u v h = here := rfl
  rw [hhere] at check
  refine ⟨fun h0 => refuses fun w => by rw [check, if_pos h0], fun hro hrw => refusesWrites ?_, fun hro hv hh => refusesWrites ?_, fun h0 => ?_,
    fun h0 hsa => ?_⟩
  · rw [check, hro, if_neg (by decide), if_pos ⟨rfl, rfl⟩, if_pos hrw.symm]
  · rw [check, hro, if_neg (by decide), if_pos ⟨rfl, rfl⟩, if_neg (by simp [hv, hh])]
  all_goals have hread : csrCheck n s.hart.mode false = none := by rw [check, if_neg h0, if_neg (by simp)]
  · exact completes_scalar (congrArg _ (csrForm_of_read hread)) rfl rfl
  · have hw : (f.sa != 0) = false := by simp [hsa]
    rw [hw] at hst hcl
    exact ⟨completes_scalar (hst.trans (congrArg _ (csrForm_of_read hread))) rfl rfl,
      completes_scalar (hcl.trans (congrArg _ (csrForm_of_read hread))) rfl rfl⟩

end

section
/-! SUPPORT. Where bytes lie, and the bytes of a hart's store (R327-R334, R463). -/

namespace Sys2Proof.Machine

open Sys2Proof.Safety

/-! ### Layout: what the place of a byte and its zero line are read from -/

/-- What decides where the byte of an address lies and whether its line reads as zero: the package, and of each tidepool frame its state
and its zero map. -/
def State.layout (s : State) : Nat × (Nat → TideState × Nat) := (s.pkg, fun f => ((s.tideAt f).state, (s.tideAt f).zmap))

section

variable {s t : State}

theorem inTide_congr (h : t.layout = s.layout) (a : Nat) : t.inTide a = s.inTide a := by
  unfold State.inTide
  rw [show t.pkg = s.pkg from congrArg Prod.fst h]

theorem tideState_congr (h : t.layout = s.layout) (f : Nat) : (t.tideAt f).state = (s.tideAt f).state :=
  congrArg (fun x : Nat × (Nat → TideState × Nat) => (x.2 f).1) h

theorem tideZmap_congr (h : t.layout = s.layout) (f : Nat) : (t.tideAt f).zmap = (s.tideAt f).zmap :=
  congrArg (fun x : Nat × (Nat → TideState × Nat) => (x.2 f).2) h

theorem place_congr (h : t.layout = s.layout) (a : Nat) : t.place a = s.place a := by
  unfold State.place
  rw [inTide_congr h, tideState_congr h]

theorem zeroLine_congr (h : t.layout = s.layout) (a : Nat) : t.zeroLine a = s.zeroLine a := by
  unfold State.zeroLine
  simp only [inTide_congr h, tideState_congr h, tideZmap_congr h]

/-- A byte reads as before where the layout and memory are as before. -/
theorem homeByte_congr (h : t.layout = s.layout) (hm : t.mem = s.mem) (a : Nat) : t.homeByte a = s.homeByte a := by
  unfold State.homeByte
  rw [zeroLine_congr h, place_congr h, hm]

end

theorem ite_layout {c : Prop} [Decidable c] {s t u : State} (hs : s.layout = u.layout) (ht : t.layout = u.layout) :
    (if c then s else t).layout = u.layout := by
  split <;> assumption

theorem foldl_layout {α : Type} (f : State → α → State) (hf : ∀ s x, (f s x).layout = s.layout) (l : List α) (s : State) :
    (l.foldl f s).layout = s.layout := by
  induction l generalizing s with
  | nil => rfl
  | cons x l ih => rw [List.foldl_cons, ih, hf]

theorem focusCore_layout (n : Nat) (s : State) : (focusCore n s).layout = s.layout := by
  obtain ⟨l, h⟩ := focusCore_eq n s; rw [h]; rfl

theorem onCore_layout (n : Nat) {f : State → State} (hf : ∀ u, (f u).layout = u.layout) (s : State) : (onCore n f s).layout = s.layout := by
  rw [onCore, focusCore_layout, hf, focusCore_layout]

/-- A frame's record with the same state and zero map. -/
theorem setTide_layout (s : State) (t : TideFrame) (hs : t.state = (s.tideAt t.frame).state) (hz : t.zmap = (s.tideAt t.frame).zmap) :
    (s.setTide t).layout = s.layout := by
  refine Prod.ext rfl (funext fun f => ?_)
  by_cases h : f = t.frame
  · subst h; simp only [State.layout, tideAt_setTide_same, hs, hz]
  · simp only [State.layout, tideAt_setTide_ne s t f h]

/-! ### Grants and holds leave the layout -/

theorem growCur_layout (pa : Nat) (p : PvSet) (s : State) : (growCur pa p s).layout = s.layout := by
  unfold growCur
  dsimp only
  split
  · rfl
  · split <;> rfl

theorem startClear_layout (pa : Nat) (s : State) : (startClear pa s).layout = s.layout := by rw [startClear_eq]; rfl
theorem settleChecks_layout (line : Nat) (s : State) : (settleChecks line s).layout = s.layout := rfl
theorem homeSector_layout (w : Option Nat) (n : Nat) (s : State) : (homeSector w n s).layout = s.layout := rfl
theorem orOwnCopy_layout (line : Nat) (p : PvSet) (s : State) : (orOwnCopy line p s).layout = s.layout := rfl
theorem wakeLine_layout (w : Option HartId) (line : Nat) (s : State) : (wakeLine w line s).layout = s.layout := rfl

theorem grantSector_layout (core : Nat) (d : Bool) (n : Nat) (s : State) : (grantSector core d n s).layout = s.layout := by
  unfold grantSector
  dsimp only
  split <;> rfl

theorem evictCopies_layout (p : Copy → Bool) (s : State) : (evictCopies p s).layout = s.layout := by
  obtain ⟨x, y, h⟩ := evictCopies_eq p s; rw [h]; rfl

theorem installCopy_layout (k : Copy) (s : State) : (installCopy k s).2.layout = s.layout := by
  unfold installCopy
  dsimp only
  split
  · rfl
  · split
    · rfl
    · split
      · rfl
      · exact evictCopies_layout _ _

theorem holdForStore_layout (line : Nat) (s : State) : (holdForStore line s).2.layout = s.layout := by
  unfold holdForStore
  split
  · rfl
  · split
    · rfl
    · exact installCopy_layout _ s

theorem ownLine_layout (x0 xn line : Nat) (s : State) : (ownLine x0 xn line s).layout = s.layout := by
  have hs := holdForStore_layout line s
  unfold ownLine
  split
  · next u hu => rw [hu] at hs; exact (forRange_same State.layout _ (fun n s => grantSector_layout _ _ n s) _ _ _).trans hs
  · next u hu => rw [hu] at hs; exact (forRange_same State.layout _ (fun n s => homeSector_layout _ n s) _ _ _).trans hs

/-- The lines that become HELD stay where they are. -/
theorem holdLines_layout (pa n : Nat) (s : State) : (holdLines pa n s).layout = s.layout := by
  unfold holdLines
  split
  · refine forRange_same State.layout _ (fun l s => ?_) _ _ s
    dsimp only
    split
    · rfl
    · have hevict : (ite ((s.tideAt (l / 512)).held.testBit (l % 512) = true) s (onCore (homeOfTide (paLocal (l * 128)))
          (evictCopies fun k => linePlace k.line == tidePlace l &&
            k.way == s.slotWay (homeOfTide (paLocal (l * 128))) (tidePlace l) (l / 512 % 65536 / 160)) s)).layout = s.layout :=
        ite_layout rfl (onCore_layout _ (evictCopies_layout _) s)
      refine (setTide_layout _ _ ?_ ?_).trans hevict <;> dsimp only <;> rw [tideAt_frame]
      · exact (tideState_congr hevict _).symm
      · exact (tideZmap_congr hevict _).symm
  · rfl

theorem landBytes_layout (pa : Nat) (b : List Byte) (s : State) : (landBytes pa b s).layout = s.layout := by
  induction b generalizing pa s with
  | nil => rfl
  | cons v b ih => exact ih (pa + 1) _

/-- Holding lines writes no byte. -/
theorem holdLines_mem (pa n : Nat) (s : State) : (holdLines pa n s).mem = s.mem := by
  unfold holdLines
  split
  · refine forRange_same State.mem _ (fun l s => ?_) _ _ s
    dsimp only
    split
    · rfl
    · rw [setTide_mem]
      split
      · rfl
      · exact onCore_mem _ _ (evictCopies_mem _) s
  · rfl

theorem releaseAt_layout (scope line : Nat) (s : State) : (releaseAt scope line s).layout = s.layout := by
  unfold releaseAt
  dsimp only
  split
  · rfl
  · split <;> rfl

/-! ### Places that are not redirected -/

theorem spaceOf_eq_tide_iff (x : Nat) :
    spaceOf x = .tide ↔ 0x60000000000 ≤ x ∧ x < 0x60800000000 ∧ x / 2 ^ 16 % 2 ^ 16 < 1920 := by
  unfold spaceOf
  split_ifs <;> simp only [false_iff, true_iff] <;> omega

/-- The tidepool is made of whole frames. -/
theorem inTide_of_frame {a b : Nat} (s : State) (h : a / 65536 = b / 65536) : s.inTide a = s.inTide b := by
  unfold State.inTide
  rw [Bool.eq_iff_iff]
  simp only [Bool.and_eq_true, beq_iff_eq, spaceOf_eq_tide_iff, paLocal, paPkg]
  rw [show a / 2 ^ 43 = b / 2 ^ 43 by omega]
  omega

/-- A byte that is not redirected lies where it stands, and so do the others of its frame. -/
theorem unredirected_of_frame {s : State} {a b : Nat} (ha : Unredirected a s) (h : b / 65536 = a / 65536) : Unredirected b s := by
  unfold Unredirected
  rw [inTide_of_frame s h, h]
  exact ha

theorem unredirected_congr {s t : State} {a : Nat} (ha : Unredirected a s) (h : t.layout = s.layout) : Unredirected a t := by
  unfold Unredirected
  rw [inTide_congr h, tideState_congr h]
  exact ha

theorem place_of_unredirected {s : State} {a : Nat} (ha : Unredirected a s) : s.place a = a := by
  unfold State.place
  rcases ha with h | h
  · rw [if_neg (by simp [h])]
  · split
    · split
      · next f hf => exact absurd hf (h f)
      · rfl
    · rfl

theorem zeroLine_of_unredirected {s : State} {a : Nat} (ha : Unredirected a s) : s.zeroLine a = false := by
  unfold State.zeroLine
  rcases ha with h | h
  · rw [h, Bool.false_and]
  · dsimp only
    split
    · next f hf => exact absurd hf (h f)
    · exact Bool.and_false _

theorem homeByte_of_unredirected {s : State} {a : Nat} (ha : Unredirected a s) : s.homeByte a = memRead a s.mem := by
  unfold State.homeByte
  rw [zeroLine_of_unredirected ha, place_of_unredirected ha, if_neg Bool.false_ne_true]

/-- No line of such a write reads as zero before it. -/
theorem unzero_of_unredirected {s : State} {a : Nat} (ha : Unredirected a s) (n : Nat) : unzero a n s = s := by
  unfold unzero
  rw [if_pos (by rw [place_of_unredirected ha]; exact beq_self_eq_true a)]

/-! ### The bytes of a store -/

/-- Bytes that land at an address which is not redirected, within its frame. -/
theorem landBytes_mem {a : Nat} (b : List Byte) {s : State} (ha : Unredirected a s) (hb : a % 65536 + b.length ≤ 65536) :
    (landBytes a b s).mem = memWriteList a b s.mem := by
  induction b generalizing a s with
  | nil => rfl
  | cons v b ih =>
    simp only [List.length_cons] at hb
    rw [landBytes, place_of_unredirected ha]
    cases b with
    | nil => rfl
    | cons w b =>
      simp only [List.length_cons] at hb ih
      refine ih ?_ (by omega)
      exact unredirected_congr (unredirected_of_frame ha (by omega)) rfl

theorem storeGrants_layout (l0 ln x0 xn pa : Nat) (p : PvSet) (s : State) :
    (let s := forRange settleChecks l0 ln (growCur pa p (startClear pa s))
     let s := if s.inHost pa then s
       else if s.inPeer pa then forRange (homeSector (some s.core.num)) x0 xn s
       else forRange (ownLine x0 xn) l0 ln s
     forRange (fun l => orOwnCopy l p) l0 ln s).layout = s.layout := by
  dsimp only
  rw [forRange_same State.layout _ (fun l s => orOwnCopy_layout l p s)]
  have hgrow : (forRange settleChecks l0 ln (growCur pa p (startClear pa s))).layout = s.layout := by
    rw [forRange_same State.layout _ settleChecks_layout, growCur_layout, startClear_layout]
  generalize forRange settleChecks l0 ln (growCur pa p (startClear pa s)) = u at hgrow ⊢
  refine (ite_layout rfl (ite_layout ?_ ?_)).trans hgrow
  · exact forRange_same State.layout _ (homeSector_layout _) _ _ _
  · exact forRange_same State.layout _ (ownLine_layout _ _) _ _ _

/-- A store at an address that is not redirected leaves the layout, and its bytes are written where the address is. -/
theorem storePa_layout_mem {pa : Nat} {b : List Byte} (p : PvSet) {s : State} (ha : Unredirected pa s) (hb : pa % 65536 + b.length ≤ 65536) :
    (storePa pa b p s).layout = s.layout ∧ (storePa pa b p s).mem = memWriteList pa b s.mem := by
  unfold storePa
  dsimp only
  rw [unzero_of_unredirected ha, place_of_unredirected ha, forRange_same State.layout _ (wakeLine_layout _),
    forRange_same State.mem _ (wakeLine_mem _)]
  have hl := storeGrants_layout (units 128 pa b.length).1 (units 128 pa b.length).2 (units 32 pa b.length).1 (units 32 pa b.length).2 pa p s
  have hm := storeGrants_mem pa b.length p s
  dsimp only at hl hm
  generalize forRange (fun l => orOwnCopy l p) (units 128 pa b.length).1 (units 128 pa b.length).2 _ = u at hl hm ⊢
  have hu : (if u.inPeer pa = true then updateRemote pa b p u else u).layout = s.layout ∧
      (if u.inPeer pa = true then updateRemote pa b p u else u).mem = s.mem := by
    split <;> exact ⟨hl, hm⟩
  generalize (if u.inPeer pa = true then updateRemote pa b p u else u) = w at hu ⊢
  have hw : Unredirected pa (holdLines pa b.length w) := unredirected_congr ha ((holdLines_layout ..).trans hu.1)
  have hland : (clearPoison pa b.length (landBytes pa b (holdLines pa b.length w))).layout = s.layout ∧
      (clearPoison pa b.length (landBytes pa b (holdLines pa b.length w))).mem = memWriteList pa b s.mem :=
    ⟨(landBytes_layout ..).trans ((holdLines_layout ..).trans hu.1), (landBytes_mem b hw hb).trans (by rw [holdLines_mem, hu.2])⟩
  split <;> exact hland

/-- The bytes of a number, one by one. -/
theorem getElem_toLeBytes (n x k : Nat) (h : k < (toLeBytes n x).length) : (toLeBytes n x)[k] = BitVec.ofNat 8 (x / 256 ^ k) := by
  induction n generalizing x k with
  | zero => exact absurd h (Nat.not_lt_zero k)
  | succ n ih =>
    cases k with
    | zero => simp [toLeBytes]
    | succ k =>
      simp only [toLeBytes, List.getElem_cons_succ, ih, Nat.div_div_eq_div_mul, Nat.pow_succ']

/-- A store at an address that is not redirected, within its frame: its bytes, and no other (R77). -/
theorem bytesStored_storePa {pa n : Nat} (v : Nat) (p : PvSet) {s : State} (ha : Unredirected pa s) (hn : pa % 65536 + n ≤ 65536)
    (hc : MemoryCanonical s) : BytesStored pa n v s (storePa pa (toLeBytes n v) p s) := by
  have hlen : (toLeBytes n v).length = n := length_toLeBytes n v
  obtain ⟨hl, hm⟩ := storePa_layout_mem p ha (b := toLeBytes n v) (by rw [hlen]; exact hn)
  refine ⟨fun k hk => ?_, fun a hout => ?_⟩
  · have hframe : (pa + k) / 65536 = pa / 65536 := by omega
    rw [homeByte_of_unredirected (unredirected_congr (unredirected_of_frame ha hframe) hl), hm,
      memRead_memWriteList pa k _ _ hc (by rw [hlen]; exact hk), getElem_toLeBytes]
  · rw [place_of_unredirected ha] at hout
    unfold State.homeByte
    rw [zeroLine_congr hl, place_congr hl, hm, memRead_memWriteList_ne _ _ _ _ hc (by rw [hlen]; exact hout)]

theorem bytesStored_congr {pa n v : Nat} {s t t' : State} (h : BytesStored pa n v s t) (e : ∀ a, t'.homeByte a = t.homeByte a) :
    BytesStored pa n v s t' :=
  ⟨fun k hk => (e _).trans (h.stored k hk), fun a ha => (e a).trans (h.outside a ha)⟩

/-- The bytes stored, told of an earlier state of the same layout and memory. -/
theorem bytesStored_of_same {pa n v : Nat} {s s' t : State} (h : BytesStored pa n v s t) (hl : s.layout = s'.layout) (hm : s.mem = s'.mem) :
    BytesStored pa n v s' t :=
  ⟨h.stored, fun a ha => (h.outside a (by rw [place_congr hl, place_congr hl]; exact ha)).trans (homeByte_congr hl hm a)⟩

end Sys2Proof.Machine
end

section
/-! SUPPORT. Scalar loads, stores, watched loads and atomics at an address that translation answers, or that fails a check (R77-R80, R356). -/

namespace Sys2Proof.Machine

open Sys2Proof.Safety

/-! ### Values -/

/-- A number's signed reading at a width is that of its bit vector. -/
theorem toInt_ofNat_eq_sint {w : Nat} (hw : 0 < w) (x : Nat) : (BitVec.ofNat w x).toInt = sint w x := by
  obtain ⟨w, rfl⟩ : ∃ v, w = v + 1 := ⟨w - 1, by omega⟩
  rw [BitVec.toInt_eq_toNat_cond, BitVec.toNat_ofNat, sint, Nat.add_sub_cancel, Nat.pow_succ]
  split <;> split <;> omega

theorem extendLoad_eq {n : Nat} (hn : 0 < n) (signed : Bool) (x : Nat) :
    extendLoad n signed x = if signed then signedWord n x else BitVec.ofNat 64 x := by
  rw [extendLoad, signedWord, BitVec.signExtend, toInt_ofNat_eq_sint (by omega)]

/-! ### Loads (R77-R79) -/

theorem loadScalar_eq {f : MFmt} {n pa : Nat} {acq : Bool} {s u : State} (signed : Bool) (hn : (effective f s).toNat % n = 0)
    (ha : access (effective f s) n .read 2 true s = .ok pa u) :
    let b := addressed f acq pa s u
    loadScalar f n signed acq s = retire (b.setS f.sd (extendLoad n signed (b.loadNum pa n)) (b.loadPv pa ||| b.ctx)) := by
  have hm : memAddr f s = effective f s := rfl
  simp [loadScalar, hm, hn, ha, addressed]

/-- A load whose access goes ahead. -/
theorem completes_load {i : Instr} {f : MFmt} {n pa : Nat} {signed acq : Bool} {s u : State}
    (hi : exec i s = .next (loadScalar f n signed acq s)) (hn0 : 0 < n) (hn : (effective f s).toNat % n = 0)
    (ha : access (effective f s) n .read 2 true s = .ok pa u) :
    let b := addressed f acq pa s u
    Completes i s (ScalarStep f.sd (if signed then signedWord n (b.loadNum pa n) else BitVec.ofNat 64 (b.loadNum pa n))
      (b.loadPv pa ||| b.ctx) b.ctx b) := by
  intro b
  refine ⟨_, hi.trans (congrArg _ (loadScalar_eq signed hn ha)), ?_⟩
  rw [← extendLoad_eq hn0]
  exact scalarStep_of b f.sd _ _

/-! ### Stores (R77-R79, R104) -/

theorem watchGateIf_open {rel : Bool} {s : State} (f : State → State) (h : rel = true → GateOpen s) : watchGateIf rel f s = f s := by
  unfold watchGateIf
  split
  · next hr => exact watchGate_open f (h (Bool.and_eq_true_iff.mp hr).1)
  · rfl

/-- The state in which a store's bytes are written: ctx has gained the address register's set, and a release has had its effect. -/
def releasing (f : MFmt) (rel : Bool) (pa : Nat) (s u : State) : State :=
  let t := u.addCtx (s.getP f.sa)
  if rel then releaseAt f.scope.toNat (pa / 128) t else t

theorem releasing_same (f : MFmt) (rel : Bool) (pa : Nat) (s u : State) :
    (releasing f rel pa s u).layout = u.layout ∧ (releasing f rel pa s u).mem = u.mem ∧
      (releasing f rel pa s u).kept = (u.addCtx (s.getP f.sa)).kept := by
  unfold releasing
  dsimp only
  split
  · exact ⟨releaseAt_layout .., releaseAt_mem .., releaseAt_kept ..⟩
  · exact ⟨rfl, rfl, rfl⟩

section

variable {f : MFmt} {n pa : Nat} {rel : Bool} {s u : State} (hg : rel = true → GateOpen s) (hn : (effective f s).toNat % n = 0)
  (ha : access (effective f s) n .write 3 false s = .ok pa u)

include hg hn ha

theorem storeScalar_eq (hw : writeCheck (effective f s) pa (s.getP f.sd ||| (u.ctx ||| s.getP f.sa)) 3 u = none) :
    storeScalar f n rel s =
      retire (storePa pa (toLeBytes n (s.getS f.sd).toNat) (s.getP f.sd ||| (u.ctx ||| s.getP f.sa)) (releasing f rel pa s u)) := by
  have hm : memAddr f s = effective f s := rfl
  have hc : (u.addCtx (s.getP f.sa)).ctx = u.ctx ||| s.getP f.sa := rfl
  have hw' : writeCheck (effective f s) pa (s.getP f.sd ||| (u.ctx ||| s.getP f.sa)) 3 (u.addCtx (s.getP f.sa)) = none := hw
  rw [storeScalar, watchGateIf_open _ hg]
  simp [hm, hn, ha, hc, hw', releasing]

theorem storeScalar_refused {t : TrapRec}
    (hw : writeCheck (effective f s) pa (s.getP f.sd ||| (u.ctx ||| s.getP f.sa)) 3 u = some t) :
    storeScalar f n rel s = scalarTrap t (touch (effective f s) .write s) := by
  have hm : memAddr f s = effective f s := rfl
  have hc : (u.addCtx (s.getP f.sa)).ctx = u.ctx ||| s.getP f.sa := rfl
  have hw' : writeCheck (effective f s) pa (s.getP f.sd ||| (u.ctx ||| s.getP f.sa)) 3 (u.addCtx (s.getP f.sa)) = some t := hw
  rw [storeScalar, watchGateIf_open _ hg]
  simp [hm, hn, ha, hc, hw']

end

theorem hartFields_of_kept {s t : State} (h : t.kept = s.kept) :
    t.hart.s = s.hart.s ∧ t.hart.sp = s.hart.sp ∧ t.ctx = s.ctx ∧ t.hart.pc = s.hart.pc ∧ t.hart.csr = s.hart.csr ∧
      t.hart.vec = s.hart.vec ∧ t.hart.mode = s.hart.mode ∧ nextPc t = nextPc s := by
  have hb : t.hart.bare = s.hart.bare := congrArg Kept.hart h
  have hcur : t.hart.cur.isSome = s.hart.cur.isSome := by
    simpa only [Hart.bare, Option.isSome_map] using congrArg (·.cur.isSome) hb
  have hpc : t.hart.pc = s.hart.pc := congrArg (·.pc) hb
  exact ⟨congrArg (·.s) hb, congrArg (·.sp) hb, congrArg (·.ctx) hb, hpc, congrArg (·.csr) hb, congrArg (·.vec) hb,
    congrArg (·.mode) hb, by simp only [nextPc, hcur, hpc]⟩

/-- A store of the scalar unit, its bytes within a frame that is not redirected. -/
theorem storeStep_storePa {f : MFmt} {rel : Bool} {n pa : Nat} {s u : State} (v : Word) (p : PvSet) (hn : pa % 65536 + n ≤ 65536)
    (hc : MemoryCanonical u) (hr : Unredirected pa u) :
    StoreStep pa n v (u.ctx ||| s.getP f.sa) u (retire (storePa pa (toLeBytes n v.toNat) p (releasing f rel pa s u))) := by
  obtain ⟨hl, hm, hk⟩ := releasing_same f rel pa s u
  have hbytes := bytesStored_storePa v.toNat p (unredirected_congr hr hl) hn (s := releasing f rel pa s u) (by rwa [MemoryCanonical, hm])
  obtain ⟨h1, h2, h3, h4, h5, h6, h7, h8⟩ := hartFields_of_kept ((storePa_kept pa (toLeBytes n v.toNat) p _).trans hk)
  exact ⟨bytesStored_congr (bytesStored_of_same hbytes hl hm) fun _ => rfl, ⟨h1, h2⟩, h3, h8, congrArg (fun c : Csrs =>
    { c with instret := c.instret + 1 }) h5, h6, h7⟩

/-! ### Watched loads (R80, R447) -/

section

variable {i : Instr} {f : MFmt} {n pa : Nat} {s u : State} (hi : exec i s = .next (watchScalar i f n s)) (hallow : Allowed i s)
  (hn : (effective f s).toNat % n = 0) (ha : access (effective f s) n .read 5 true s = .ok pa u)

include hi hallow hn ha

theorem watch_host (hh : u.inHost pa = true) :
    let b := u.addCtx (s.getP f.sa)
    exec i s = .next (retire (b.setS f.sd (extendLoad n true (b.loadNum pa n)) (b.loadPv pa ||| b.ctx))) := by
  have hm : memAddr f s = effective f s := rfl
  have hh' : (u.addCtx (s.getP f.sa)).inHost pa = true := hh
  rw [hi, watchScalar, gated_of_allowed _ hallow]
  simp [hm, hn, ha, hh']

theorem watch_full (hh : u.inHost pa = false) (hl : 32 ≤ u.hart.watch.length) :
    let b := u.addCtx (s.getP f.sa)
    exec i s = .next (retire (countFull (b.setS f.sd (extendLoad n true (b.loadNum pa n)) (b.loadPv pa ||| b.ctx)))) := by
  have hm : memAddr f s = effective f s := rfl
  have hh' : (u.addCtx (s.getP f.sa)).inHost pa = false := hh
  rw [hi, watchScalar, gated_of_allowed _ hallow]
  simp [hm, hn, ha, hh', hl]

theorem watch_recorded (hh : u.inHost pa = false) (hl : u.hart.watch.length < 32) :
    let b := u.addCtx (s.getP f.sa)
    exec i s = .next (retire ((b.mapHart fun h => { h with watch := h.watch ++ [b.makeEntry (effective f s) 0 1 n [b.place pa / 32]] }).setS
      f.sd (extendLoad n true (b.watchNum pa n)) (b.watchPv pa ||| b.ctx))) := by
  have hm : memAddr f s = effective f s := rfl
  have hh' : (u.addCtx (s.getP f.sa)).inHost pa = false := hh
  rw [hi, watchScalar, gated_of_allowed _ hallow]
  simp [hm, hn, ha, hh', Nat.not_le.mpr hl]
  rfl

end

/-- One sector's footprint is one line. -/
theorem makeEntry_lines (b : State) (ea stride : Word) (c n x : Nat) :
    (b.makeEntry ea stride c n [x]).lines.map WatchLine.line = [x / 4] := by
  have hl (line : Nat) (l : List Nat) : (b.lineCheck line l).line = line := by
    unfold State.lineCheck
    split
    · rfl
    · dsimp only
      split <;> rfl
  simp [State.makeEntry, gatherLines, putBy, findBy, hl]

/-- The count of WFULL stays at its maximum. -/
theorem countFull_eq (s : State) : countFull s =
    s.mapCsr fun c => { c with wfull := if c.wfull = 0xFFFFFFFFFFFFFFFF then c.wfull else c.wfull + 1 } := by
  unfold countFull
  simp only [beq_iff_eq]
  rfl

/-- The hart past a register write. -/
theorem retire_setS_hart (s : State) (r : BitVec 5) (v : Word) (p : PvSet) :
    (retire (s.setS r v p)).hart = past s { s.hart with s := (s.hart.setS r v p).s, sp := (s.hart.setS r v p).sp } := by
  unfold retire State.setS State.mapHart Hart.setS
  split <;> rfl

/-! ### Misaligned accesses (R77, R80, R356) -/

/-- A meaning that traps as misaligned. -/
theorem completes_misaligned {i : Instr} {f : MFmt} {acc : Nat} {s : State} (hi : exec i s = .next (scalarTrap ⟨7, effective f s, 0, acc⟩ s))
    (ht : ToSupervisor 7 s) : Completes i s fun t => EntersSupervisor ⟨7, effective f s, 0, acc⟩ s.hart.pc s t :=
  ⟨_, hi, scalarTrap_supervisor (t := ⟨7, effective f s, 0, acc⟩) ht⟩

section

variable {f : MFmt} {n : Nat} {s : State} (hn : (effective f s).toNat % n ≠ 0)

include hn

theorem loadScalar_misaligned (signed acq : Bool) : loadScalar f n signed acq s = scalarTrap ⟨7, effective f s, 0, 2⟩ s := by
  have hm : memAddr f s = effective f s := rfl
  simp [loadScalar, hm, hn]

theorem storeScalar_misaligned (rel : Bool) (hg : GateOpen s) : storeScalar f n rel s = scalarTrap ⟨7, effective f s, 0, 3⟩ s := by
  have hm : memAddr f s = effective f s := rfl
  rw [storeScalar, watchGateIf_open _ fun _ => hg]
  simp [hm, hn]

theorem watchScalar_misaligned {i : Instr} (hallow : Allowed i s) : watchScalar i f n s = scalarTrap ⟨7, effective f s, 0, 5⟩ s := by
  have hm : memAddr f s = effective f s := rfl
  rw [watchScalar, gated_of_allowed _ hallow]
  simp [hm, hn]

end

theorem amoScalar_misaligned {f : MFmt} {s : State} (i : Instr) (op : Nat) {d : Bool} (aq rl : Bool) (hg : GateOpen s) (hr : s.hart.remote = none)
    (hn : (effective f s).toNat % (if d then 8 else 4) ≠ 0) : amoScalar i f op d aq rl s = scalarTrap ⟨7, effective f s, 0, 4⟩ s := by
  have hm : memAddr f s = effective f s := rfl
  unfold amoScalar
  simp only [hr, watchGateIf_open _ fun _ => hg, hm]
  rw [if_pos (by simpa using hn)]

end Sys2Proof.Machine
end

section
open Sys2Proof Sys2Proof.Machine Sys2Proof.Safety

/-- Settles O26: each form is the one load, of its size and extension. -/
theorem loadsReadMemory : Obligations.LoadsReadMemory := by
  intro f o i n signed s u pa hmem hn ha
  obtain ⟨hi, hpos⟩ : exec i s = .next (loadScalar f n signed o s) ∧ 0 < n := by
    simp only [List.mem_cons, Prod.mk.injEq, List.not_mem_nil, or_false] at hmem
    obtain ⟨rfl, rfl, rfl⟩ | ⟨rfl, rfl, rfl⟩ | ⟨rfl, rfl, rfl⟩ | ⟨rfl, rfl, rfl⟩ | ⟨rfl, rfl, rfl⟩ | ⟨rfl, rfl, rfl⟩ | ⟨rfl, rfl, rfl⟩ := hmem
    all_goals exact ⟨rfl, by decide⟩
  exact completes_load hi hpos hn ha

/-- Settles O27: each form is the one store; an aligned run of at most eight bytes lies in one frame. -/
theorem storesWriteMemory : Obligations.StoresWriteMemory := by
  intro f o i n s u pa hmem hg hn ha hpa hc hr hw
  obtain ⟨hi, hfit⟩ : exec i s = .next (storeScalar f n o s) ∧ pa % 65536 + n ≤ 65536 := by
    simp only [List.mem_cons, Prod.mk.injEq, List.not_mem_nil, or_false] at hmem
    obtain ⟨rfl, rfl⟩ | ⟨rfl, rfl⟩ | ⟨rfl, rfl⟩ | ⟨rfl, rfl⟩ := hmem
    all_goals exact ⟨rfl, by omega⟩
  exact ⟨_, hi.trans (congrArg _ (storeScalar_eq hg hn ha hw)), storeStep_storePa _ _ hfit hc hr⟩

/-- Settles O28: the alignment check of each family, and the write check of the one store. -/
theorem accessChecksTrap : Obligations.AccessChecksTrap := by
  constructor
  · intro f o d q i n acc s hmem hg hallow ht hr hn
    refine completes_misaligned ?_ ht
    simp only [List.mem_cons, Prod.mk.injEq, List.not_mem_nil, or_false] at hmem
    rcases hmem with h | h
    · obtain ⟨rfl, rfl, rfl⟩ | ⟨rfl, rfl, rfl⟩ | ⟨rfl, rfl, rfl⟩ | ⟨rfl, rfl, rfl⟩ | ⟨rfl, rfl, rfl⟩ | ⟨rfl, rfl, rfl⟩ | ⟨rfl, rfl, rfl⟩ |
        ⟨rfl, rfl, rfl⟩ | ⟨rfl, rfl, rfl⟩ | ⟨rfl, rfl, rfl⟩ | ⟨rfl, rfl, rfl⟩ := h
      iterate 5 exact congrArg _ (loadScalar_misaligned hn _ o)
      iterate 3 exact congrArg _ (storeScalar_misaligned hn o hg)
      iterate 3 exact congrArg _ (watchScalar_misaligned hn hallow)
    · obtain ⟨rfl, rfl, rfl⟩ | ⟨rfl, rfl, rfl⟩ | ⟨rfl, rfl, rfl⟩ | ⟨rfl, rfl, rfl⟩ | ⟨rfl, rfl, rfl⟩ | ⟨rfl, rfl, rfl⟩ | ⟨rfl, rfl, rfl⟩ |
        ⟨rfl, rfl, rfl⟩ | ⟨rfl, rfl, rfl⟩ | ⟨rfl, rfl, rfl⟩ := h
      all_goals exact congrArg _ (amoScalar_misaligned _ _ o q hg hr hn)
  · intro f i n s u pa hmem hn ha p v
    have hi : exec i s = .next (storeScalar f n false s) := by
      simp only [List.mem_cons, Prod.mk.injEq, List.not_mem_nil, or_false] at hmem
      obtain ⟨rfl, rfl⟩ | ⟨rfl, rfl⟩ | ⟨rfl, rfl⟩ | ⟨rfl, rfl⟩ := hmem
      all_goals rfl
    have refused {t : TrapRec} (hw : writeCheck (effective f s) pa p 3 u = some t) (ht : ToSupervisor t.cause v) :
        Completes i s fun x => EntersSupervisor t v.hart.pc v x :=
      ⟨_, hi.trans (congrArg _ (storeScalar_refused (rel := false) (fun h => absurd h Bool.false_ne_true) hn ha hw)), scalarTrap_supervisor ht⟩
    refine ⟨fun hh hz hceil ht => refused (t := ⟨9, effective f s, 1, 3⟩) ?_ ht, fun hh hp ht => refused (t := ⟨22, effective f s, 0, 3⟩) ?_ ht⟩
    · simp [writeCheck, hh, hz, hceil]
    · simpa [writeCheck, hh] using hp

/-- Settles O29: each form is the one watched load, by where its address lies and whether the table has room. -/
theorem watchedLoadsRecord : Obligations.WatchedLoadsRecord := by
  intro f i n s u pa hmem hallow hn ha b
  obtain ⟨hi, hpos⟩ : exec i s = .next (watchScalar i f n s) ∧ 0 < n := by
    simp only [List.mem_cons, Prod.mk.injEq, List.not_mem_nil, or_false] at hmem
    obtain ⟨rfl, rfl⟩ | ⟨rfl, rfl⟩ | ⟨rfl, rfl⟩ | ⟨rfl, rfl⟩ := hmem
    all_goals exact ⟨rfl, by decide⟩
  have hext (x : Nat) : extendLoad n true x = signedWord n x := extendLoad_eq hpos true x
  refine ⟨fun hh => ?_, fun hh hl => ?_, fun hh hl => ?_⟩
  · exact ⟨_, watch_host hi hallow hn ha hh, by rw [hext]; exact scalarStep_of b f.sd _ _⟩
  · refine ⟨_, watch_full hi hallow hn ha hh hl, ?_⟩
    rw [hext]
    refine ⟨wrote_retire (wrote_congr (setS_wrote b f.sd _ _) rfl rfl), hartOnly_of_eq rfl (Hart.setS_mode ..), ?_⟩
    rw [countFull_eq]
    simp only [retire, State.mapCsr, State.mapHart, State.setS, Hart.setS]
    split <;> rfl
  · refine ⟨_, watch_recorded hi hallow hn ha hh hl, b.makeEntry (effective f s) 0 1 n [b.place pa / 32], rfl, rfl, rfl, rfl, rfl, ?_, ?_⟩
    · rw [makeEntry_lines, State.lineOf, Nat.div_div_eq_div_mul]
    · rw [hext]
      have hw := setS_wrote (b.mapHart fun h => { h with watch := h.watch ++ [b.makeEntry (effective f s) 0 1 n [b.place pa / 32]] }) f.sd
        (signedWord n (b.watchNum pa n)) (b.watchPv pa ||| b.ctx)
      exact ⟨⟨hw.result, hw.zero, hw.others⟩, hartOnly_of_eq rfl (Hart.setS_mode ..), retire_setS_hart ..⟩

end

section
/-! SUPPORT. Watch checks, provenance instructions and fences, in the terms of `Safety` (R83, R100-R104, R344-R361). -/

namespace Sys2Proof.Machine

open Sys2Proof.Safety

/-! ### Sets of control registers -/

theorem Hart.csrPv_setCsrPv (h : Hart) (n m : Nat) (p : PvSet) :
    (h.setCsrPv n p).csrPv m = if csrIx m = csrIx n then p else h.csrPv m := by
  unfold Hart.csrPv Hart.setCsrPv
  simp only [Vector.get_eq_getElem, Vector.getElem_set, eq_comm (a := csrIx n)]

/-! ### WCHK (R103) -/

/-- The state of a WCHK that goes on or branches, before its transfer: the table is empty and WSTRUCK holds its struck entries. -/
def watchChecked (c : PvSet) (s : State) : State :=
  s.mapHart fun h => { h with ctx := c, watch := [], csr := { h.csr with
    wstruck := BitVec.ofNat 32 (struckBits 0 s.hart.watch), pv := h.csr.pv.set (csrIx 0x009) c (csrIx_lt _) } }

theorem watchChecked_wstruckPv (c : PvSet) (s : State) : (watchChecked c s).hart.csrPv 0x009 = c := Hart.csrPv_setCsrPv_same s.hart 0x009 c

section

variable {f : IFmt} {s : State} (hallow : Allowed (.wchk f) s)

include hallow

theorem wchk_waits (hr : resolved s.hart.watch = false) : exec (.wchk f) s = .next (waitFor .watch s) :=
  (exec_of_allowed rfl hallow).trans (by simp [hr])

theorem wchk_goesOn (hr : resolved s.hart.watch = true) (hb : struckBits 0 s.hart.watch = 0) :
    exec (.wchk f) s = .next (retire (watchChecked s.ctx s)) :=
  (exec_of_allowed rfl hallow).trans (by simp [hr, hb, watchChecked, State.mapHart, Hart.setCsrPv, State.ctx])

theorem wchk_branches (hr : resolved s.hart.watch = true) (hb : struckBits 0 s.hart.watch ≠ 0) :
    exec (.wchk f) s = .next (jumpTo (s.hart.pc + f.imm.signExtend 64 * 8) s
      ((watchChecked (s.ctx ||| struckPv s.hart.watch) s).setS f.sd (s.hart.pc + 8) (s.ctx ||| struckPv s.hart.watch))) :=
  (exec_of_allowed rfl hallow).trans (by
    simp [hr, hb, watchChecked, State.mapHart, Hart.setCsrPv, State.ctx, State.addCtx, offset8, sext64])

end

/-- A release of a store behind the watch gate. -/
theorem storeScalar_gate {f : MFmt} {n : Nat} {s : State} (hd : s.dry = false) : ∃ g, storeScalar f n true s = watchGate g s :=
  ⟨_, by rw [storeScalar, watchGateIf, if_pos (by simp [hd])]⟩

theorem watchGate_waits {f : State → State} {s : State} (hm : s.mqEntered = true) (hr : resolved s.hart.watch = false) :
    watchGate f s = waitFor .watch s := by
  simp [watchGate, hm, hr]

theorem watchGate_struck {f : State → State} {s : State} (hm : s.mqEntered = true) (hr : resolved s.hart.watch = true)
    (hb : struckBits 0 s.hart.watch ≠ 0) :
    watchGate f s = scalarTrap ⟨14, BitVec.ofNat 64 (struckBits 0 s.hart.watch), 0, 0⟩ s := by
  simp [watchGate, hm, hr, hb]

/-! ### Provenance (R101, R102) -/

/-- PVCTX takes parties of the roster alone. -/
theorem pvctx_eq (f : RFmt) (s : State) : exec (.pvctx f) s = .next (
    if (s.getS f.sa).toNat < 2 ^ min s.roster 16 then
      retire ((s.addCtx ((s.getS f.sa).extractLsb' 0 16)).setS f.sd
        ((s.ctx ||| (s.getS f.sa).extractLsb' 0 16).zeroExtend 64) (s.ctx ||| (s.getS f.sa).extractLsb' 0 16))
    else scalarTrap ⟨9, s.getS f.sa, 2, 0⟩ s) := by
  have h : (s.getS f.sa).toNat / 2 ^ min s.roster 16 = 0 ↔ (s.getS f.sa).toNat < 2 ^ min s.roster 16 :=
    Nat.div_eq_zero_iff_lt (Nat.two_pow_pos _)
  simp only [exec, execPvctx, bne_iff_ne, ne_eq, h, ite_not]
  rfl

/-- A result beside a growth of ctx. -/
theorem scalarStep_addCtx (s : State) (sd : BitVec 5) (v : Word) (p q : PvSet) :
    ScalarStep sd v p (s.ctx ||| q) s (retire ((s.addCtx q).setS sd v p)) := by
  have hw := setS_wrote (s.addCtx q) sd v p
  refine ⟨⟨hw.result, hw.zero, hw.others⟩, ?_, hartOnly_of_eq rfl (Hart.setS_mode ..)⟩
  simp only [retire, State.addCtx, State.mapHart, State.setS, Hart.setS]
  split <;> rfl

/-- The state after PVCLR, before the pc moves on. -/
def provCleared (s : State) : State :=
  (s.mapCore fun c => { c with reef := { c.reef with conts := c.reef.conts.filter fun r => r.hart != s.hart.ix } }).mapHart Hart.pvclr

theorem pvclr_eq {s : State} (hp : s.postedDone = true) (he : s.hart.enginesDone = true) (hg : GateOpen s) :
    exec .pvclr s = .next (retire (provCleared s)) := by
  simp only [exec, execPvclr, hp, he, Bool.not_true, Bool.or_self, Bool.false_eq_true, if_false]
  rw [watchGate_open _ hg]
  rfl

theorem pvclr_regs (h : Hart) (r : BitVec 5) : h.pvclr.getS r = 0 ∧ h.pvclr.getP r = 0 := by
  unfold Hart.getS Hart.getP
  split
  · exact ⟨rfl, rfl⟩
  · exact ⟨Vector.getElem_replicate .., Vector.getElem_replicate ..⟩

/-- The set of VL, one of the five that PVCLR empties. -/
theorem pvclr_vlPv (h : Hart) : h.pvclr.csrPv 1 = 0 := by
  simp only [Hart.pvclr, List.foldl_cons, List.foldl_nil]
  change Hart.csrPv (Hart.setCsrPv _ 9 _) 1 = 0
  simp [Hart.csrPv_setCsrPv, csrIx, pvEmpty]

/-! ### WFE (R86) -/

theorem wfe_taken {s : State} (he : s.hart.event = true) :
    exec .wfe s = .next (retire (s.mapHart fun h => { h with event := false })) := congrArg _ (if_pos he)

theorem wfe_waits {s : State} (he : s.hart.event = false) : exec .wfe s = .next (waitFor .wfe s) := by
  simp [exec, execWfe, he]

/-! ### Fences (R344, R347, R359-R361) -/

theorem fenceGate_eq (reads writes : Bool) (f : State → State) (s : State) : fenceGate reads writes f s =
    if !s.mqEntered || !s.queueDone || (reads && s.core.isl.fillsOf (postedBefore s)) || (writes && s.core.isl.writesOf (postedBefore s))
    then waitFor .drain s else f s := rfl

theorem fenceClosed_iff (reads writes : Bool) (s : State) :
    (!s.mqEntered || !s.queueDone || (reads && s.core.isl.fillsOf (postedBefore s)) || (writes && s.core.isl.writesOf (postedBefore s))) = true ↔
      ¬ FenceOpen reads writes s := by
  simp only [FenceOpen, Bool.or_eq_true, Bool.and_eq_true, Bool.not_eq_true', ← Bool.not_eq_true]
  tauto

theorem fenceGate_open {reads writes : Bool} {f : State → State} {s : State} (h : FenceOpen reads writes s) : fenceGate reads writes f s = f s := by
  rw [fenceGate_eq, if_neg fun hc => (fenceClosed_iff reads writes s).mp hc h]

theorem fenceGate_closed {reads writes : Bool} {f : State → State} {s : State} (h : ¬ FenceOpen reads writes s) :
    fenceGate reads writes f s = waitFor .drain s := by
  rw [fenceGate_eq, if_pos ((fenceClosed_iff reads writes s).mpr h)]

/-- What merges and dropped remote copies leave: all but the directory, the record of releases, and the copies of the current core. -/
structure MergeKept (s t : State) : Prop where
  rest : t = { s with sectors := t.sectors, recorded := t.recorded, core := { s.core with copies := t.core.copies } }

theorem MergeKept.refl (s : State) : MergeKept s s := ⟨rfl⟩

theorem MergeKept.trans {s t u : State} (h : MergeKept s t) (h' : MergeKept t u) : MergeKept s u :=
  ⟨by rw [h'.rest, h.rest]⟩

theorem mergeCore_mergeKept (n : Nat) (s : State) : MergeKept s (mergeCore n s) := ⟨rfl⟩
theorem dropRemote_mergeKept (s : State) : MergeKept s (dropRemote s) := ⟨rfl⟩

/-- No sector that core `n` owns is dirty. -/
def CleanOf (n : Nat) (s : State) : Prop := ∀ x ∈ s.sectors, x.owner = some n → x.dirty = false

theorem cleanOf_mergeCore (n : Nat) (s : State) : CleanOf n (mergeCore n s) := by
  intro x hx ho
  simp only [mergeCore, List.mem_map] at hx
  obtain ⟨y, -, rfl⟩ := hx
  split at ho
  · next h => rw [if_pos h]
  · next h => exact absurd (beq_iff_eq.mpr ho) h

/-- A merge makes no sector dirty. -/
theorem cleanOf_mergeCore_of {n : Nat} (m : Nat) {s : State} (h : CleanOf n s) : CleanOf n (mergeCore m s) := by
  intro x hx ho
  simp only [mergeCore, List.mem_map] at hx
  obtain ⟨y, hy, rfl⟩ := hx
  split at ho
  · next hm => rw [if_pos hm]
  · next hm => rw [if_neg hm]; exact h y hy ho

/-- The merges of the recorded cores: each of them is clean afterwards, and a core that was clean stays so. -/
theorem mergeAll_spec (l : List (Nat × Nat)) (s : State) :
    MergeKept s (l.foldl (fun s r => mergeCore r.2 s) s) ∧ (∀ n, CleanOf n s → CleanOf n (l.foldl (fun s r => mergeCore r.2 s) s)) ∧
      ∀ n ∈ l.map Prod.snd, CleanOf n (l.foldl (fun s r => mergeCore r.2 s) s) := by
  induction l generalizing s with
  | nil => exact ⟨.refl s, fun _ h => h, fun n h => absurd h List.not_mem_nil⟩
  | cons r l ih =>
    obtain ⟨hk, hkeep, hmerged⟩ := ih (mergeCore r.2 s)
    refine ⟨(mergeCore_mergeKept r.2 s).trans hk, fun n h => hkeep n (cleanOf_mergeCore_of r.2 h), fun n hn => ?_⟩
    rcases List.mem_cons.mp hn with rfl | hn
    · exact hkeep _ (cleanOf_mergeCore r.2 s)
    · exact hmerged n hn

/-- No remote copy stands in the current core's slice. -/
def NoRemote (s : State) : Prop := ∀ c ∈ s.core.copies, c.state ≠ .remote

theorem noRemote_dropRemote (s : State) : NoRemote (dropRemote s) := by
  intro c hc
  simp only [dropRemote, State.mapCore, List.mem_map] at hc
  obtain ⟨k, -, rfl⟩ := hc
  split
  · exact fun h => nomatch h
  · next h => simpa using h

/-- An acquire fence merges the recorded cores, and from DOMAIN scope on leaves no remote copy (R347). -/
theorem acquireFence_spec (scope : Nat) (s : State) :
    MergeKept s (acquireFence scope s) ∧ (∀ n, CleanOf n s → CleanOf n (acquireFence scope s)) ∧
      (2 ≤ scope → ∀ n ∈ s.recorded.map Prod.snd, CleanOf n (acquireFence scope s)) ∧ (4 ≤ scope → NoRemote (acquireFence scope s)) := by
  unfold acquireFence
  obtain ⟨hk, hkeep, hmerged⟩ := mergeAll_spec s.recorded s
  split
  · exact ⟨.refl s, fun _ h => h, fun h => absurd h (by omega), fun h => absurd h (by omega)⟩
  · dsimp only
    split
    · exact ⟨hk.trans (dropRemote_mergeKept _), hkeep, fun _ => hmerged, fun _ => noRemote_dropRemote _⟩
    · next h => exact ⟨hk, hkeep, fun _ => hmerged, fun h' => absurd h' h⟩

/-- A release fence cleans the core's own sectors from DIE scope on; the cores still recorded are those that it has not cleaned. -/
theorem releaseFence_spec (scope : Nat) (s : State) :
    MergeKept s (releaseFence scope s) ∧ (2 ≤ scope → CleanOf s.core.num (releaseFence scope s)) ∧
      (∀ n ∈ s.recorded.map Prod.snd, n ∈ (releaseFence scope s).recorded.map Prod.snd ∨ CleanOf n (releaseFence scope s)) := by
  unfold releaseFence
  split
  · exact ⟨.refl s, fun h => absurd h (by omega), fun _ h => .inl h⟩
  · refine ⟨mergeCore_mergeKept .., fun _ => cleanOf_mergeCore _ s, fun n hn => ?_⟩
    by_cases h : n = s.core.num
    · rw [h]; exact .inr (cleanOf_mergeCore _ s)
    · obtain ⟨r, hr, rfl⟩ := List.mem_map.mp hn
      exact .inl (List.mem_map.mpr ⟨r, List.mem_filter.mpr ⟨hr, by simpa using h⟩, rfl⟩)

/-- A fence's two halves, of which each may be absent. -/
def fenced (aq rl : Bool) (scope : Nat) (s : State) : State :=
  let t := if rl then releaseFence scope s else s
  if aq then acquireFence scope t else t

theorem fenced_spec (aq rl : Bool) (scope : Nat) (s : State) :
    MergeKept s (fenced aq rl scope s) ∧ (rl = true → 2 ≤ scope → CleanOf s.core.num (fenced aq rl scope s)) ∧
      (aq = true → 2 ≤ scope → Merged (s.recorded.map Prod.snd) (fenced aq rl scope s) ∧ (4 ≤ scope → NoRemote (fenced aq rl scope s))) := by
  obtain ⟨hk, hclean, hleft⟩ : MergeKept s (if rl then releaseFence scope s else s) ∧
      (rl = true → 2 ≤ scope → CleanOf s.core.num (if rl then releaseFence scope s else s)) ∧
      (∀ n ∈ s.recorded.map Prod.snd, n ∈ (if rl then releaseFence scope s else s).recorded.map Prod.snd ∨
        CleanOf n (if rl then releaseFence scope s else s)) := by
    obtain ⟨h1, h2, h3⟩ := releaseFence_spec scope s
    cases rl
    · exact ⟨.refl s, fun h => absurd h Bool.false_ne_true, fun _ h => .inl h⟩
    · exact ⟨h1, fun _ => h2, h3⟩
  unfold fenced
  dsimp only
  generalize (if rl then releaseFence scope s else s) = t at hk hclean hleft ⊢
  obtain ⟨hk', hkeep, hmerged, hnone⟩ := acquireFence_spec scope t
  cases aq
  · exact ⟨hk, hclean, fun h => absurd h Bool.false_ne_true⟩
  · refine ⟨hk.trans hk', fun hr h2 => hkeep _ (hclean hr h2), fun _ h2 => ⟨fun x hx n hn ho => ?_, hnone⟩⟩
    rcases hleft n hn with hn | hn
    · exact hmerged h2 n hn x hx ho
    · exact hkeep n hn x hx ho

theorem fence_eq {f : IFmt} {s : State} (hg : (f.imm.getLsbD 4 || f.imm.getLsbD 5) = true → GateOpen s) :
    exec (.fence f) s = .next (fenceGate true (f.imm.getLsbD 4 || f.imm.getLsbD 5) (fun s => retire
      (fenced (f.imm.getLsbD 3 || f.imm.getLsbD 5) (f.imm.getLsbD 4 || f.imm.getLsbD 5) (f.imm.toNat % 8) s)) s) := by
  simp only [exec, execFence]
  rw [watchGateIf_open _ hg]
  rfl

theorem ifence_eq (s : State) : exec .ifence s = .next (fenceGate false true
    (fun s => retire (s.mapCore fun c => { c with icache := s.freshLines c.icache })) s) := rfl

/-- The lines that are fresh are those whose bytes are memory's. -/
theorem mem_freshLines (s : State) (l : List ILine) (x : ILine) :
    x ∈ s.freshLines l ↔ x ∈ l ∧ x.data = s.homeNum (x.line * 128) 128 := by
  simp [State.freshLines]

end Sys2Proof.Machine
end

section
open Sys2Proof Sys2Proof.Machine Sys2Proof.Safety

/-- Settles O35: WCHK by the table's resolution and strikes; a releasing store stands behind the same table. -/
theorem watchChecks : Obligations.WatchChecks := by
  refine ⟨?_, fun s hallow => ⟨_, exec_of_allowed rfl hallow, rfl, hartOnly_of_eq rfl rfl⟩, fun f s hd hm i hi => ?_⟩
  · intro f s hallow bits c target same
    refine ⟨wchk_waits hallow, fun hr hb => ⟨_, wchk_goesOn hallow hr hb, ?_, rfl, rfl, passed_retire rfl⟩, fun hr hb ht =>
      ⟨_, wchk_branches hallow hr hb, ?_, ?_, ?_, ?_, ?_⟩⟩
    · exact ⟨rfl, rfl, watchChecked_wstruckPv _ s, rfl, hartOnly_of_eq rfl rfl⟩
    all_goals rw [jumpTo_of_aligned _ _ ht]
    · refine ⟨Hart.setS_watch .., congrArg Csrs.wstruck (Hart.setS_csr ..), ?_, Hart.setS_vec .., hartOnly_of_eq rfl (Hart.setS_mode ..)⟩
      refine (congrArg (fun c : Csrs => c.pv.get ⟨csrIx 0x009, csrIx_lt _⟩) (Hart.setS_csr ..)).trans ?_
      exact (watchChecked_wstruckPv _ s).trans (Hart.setS_ctx (watchChecked _ s).hart f.sd _ _).symm
    · exact Hart.setS_ctx ..
    · have hw := setS_wrote (watchChecked c s) f.sd (s.hart.pc + 8) c
      exact ⟨hw.result, hw.zero, hw.others⟩
    · rfl
    · exact (congrArg (fun c : Csrs => c.instret + 1) (Hart.setS_csr (watchChecked c s).hart f.sd (s.hart.pc + 8) c)).trans rfl
  · have gate {n : Nat} (he : exec i s = .next (storeScalar f n true s)) :
        (resolved s.hart.watch = false → exec i s = .next (waitFor .watch s)) ∧ (resolved s.hart.watch = true →
          struckBits 0 s.hart.watch ≠ 0 → exec i s = .next (scalarTrap ⟨14, BitVec.ofNat 64 (struckBits 0 s.hart.watch), 0, 0⟩ s)) := by
      obtain ⟨g, hgate⟩ := storeScalar_gate (f := f) (n := n) hd
      rw [he, hgate]
      exact ⟨fun hr => congrArg _ (watchGate_waits hm hr), fun hr hb => congrArg _ (watchGate_struck hm hr hb)⟩
    simp only [List.mem_cons, List.not_mem_nil, or_false] at hi
    obtain rfl | rfl | rfl | rfl := hi
    all_goals exact gate rfl

/-- Settles O34: PVRD by the class that sb names, PVCTX by the roster, PVCLR by what it leaves of the hart. -/
theorem provenanceForms : Obligations.ProvenanceForms := by
  refine ⟨?_, ?_, fun s hp he hg => ?_⟩
  · intro f s rd
    have read {p : PvSet} (h : exec (.pvrd f) s = .next (retire (s.setS f.sd (p.zeroExtend 64) s.ctx))) : rd p := completes_scalar h rfl rfl
    refine ⟨fun h => read ?_, fun h => read ?_, fun h => read ?_, fun h => read ?_⟩
    all_goals simp only [exec, execPvrd, h]
    all_goals rfl
  · intro f s v c
    have he := pvctx_eq f s
    refine ⟨fun h => ?_, fun h => ?_⟩
    · rw [if_pos h] at he
      exact ⟨_, he, scalarStep_addCtx ..⟩
    · rw [if_neg (Nat.not_lt.mpr h)] at he
      exact he
  · refine ⟨_, pvclr_eq hp he hg, pvclr_regs s.hart, rfl, rfl, pvclr_vlPv s.hart, rfl, rfl, rfl, rfl, rfl, rfl, rfl, rfl, rfl,
      passed_retire rfl, rfl, ?_⟩
    exact List.all_eq_true.mpr fun r hr => (List.mem_filter.mp hr).2

/-- Settles O24: NOP and WFE by the event flag, the fences behind the gate of the accesses that they order. -/
theorem systemFormsComplete : Obligations.SystemFormsComplete := by
  refine ⟨fun s => ⟨⟨_, rfl, rfl, hartOnly_of_eq rfl rfl⟩, fun he => ⟨_, wfe_taken he, rfl, hartOnly_of_eq rfl rfl⟩, wfe_waits⟩,
    fun s => ⟨fun h => ?_, fun h => congrArg _ (fenceGate_closed h)⟩, ?_⟩
  · exact ⟨_, (ifence_eq s).trans (congrArg _ (fenceGate_open h)), rfl, rfl, mem_freshLines s s.core.icache⟩
  · intro f s aq rl hg
    refine ⟨fun h => ⟨_, (fence_eq hg).trans (congrArg _ (fenceGate_open h)), ?_⟩, fun h => (fence_eq hg).trans (congrArg _ (fenceGate_closed h))⟩
    obtain ⟨hk, hclean, hacq⟩ := fenced_spec aq rl (f.imm.toNat % 8) s
    have hrest := hk.rest
    generalize fenced aq rl (f.imm.toNat % 8) s = t at hclean hacq hrest ⊢
    have hlayout : t.layout = s.layout := by rw [hrest]; rfl
    have hmem : t.mem = s.mem := by rw [hrest]
    refine ⟨?_, hmem, by rw [hrest]; rfl, by rw [hrest]; rfl, by rw [hrest]; rfl, homeByte_congr hlayout hmem, hclean, hacq⟩
    rw [hrest]
    rfl

end

section
/-! SUPPORT. The tags of a register group, and the vector length with the storage level (R88-R95). -/

namespace Sys2Proof.Machine

open Sys2Proof.Safety

/-! ### Groups of vector registers -/

/-- A change of a group reaches the vector registers alone. -/
theorem Hart.mapV_eq (f : VReg → VReg) (r n : Nat) (h : Hart) :
    ∃ v, Hart.mapV f r n h = { h with vec := { h.vec with v := v } } := by
  induction n generalizing r h with
  | zero => exact ⟨h.vec.v, rfl⟩
  | succ n ih =>
    obtain ⟨v, hv⟩ := ih (r + 1) (h.setV r (f (h.vreg r)))
    exact ⟨v, hv⟩

/-- A register outside the group keeps what it held. -/
theorem Hart.vreg_mapV_ne (f : VReg → VReg) {r n q : Nat} (h : Hart) (hn : r + n ≤ 32) (hq : q < 32) (hne : ∀ j < n, q ≠ r + j) :
    (Hart.mapV f r n h).vreg q = h.vreg q := by
  induction n generalizing r h with
  | zero => rfl
  | succ n ih =>
    have h0 := hne 0 n.succ_pos
    refine (ih _ (by omega) fun j hj => ?_).trans (Hart.vreg_setV_ne _ _ (by omega))
    have := hne (j + 1) (by omega)
    omega

/-- A register of the group takes its new contents. -/
theorem Hart.vreg_mapV_in (f : VReg → VReg) {r n j : Nat} (h : Hart) (hn : r + n ≤ 32) (hj : j < n) :
    (Hart.mapV f r n h).vreg (r + j) = f (h.vreg (r + j)) := by
  induction n generalizing r j h with
  | zero => omega
  | succ n ih =>
    rw [Hart.mapV]
    obtain rfl | ⟨j, rfl⟩ : j = 0 ∨ ∃ i, j = i + 1 := by cases j <;> simp
    · exact (Hart.vreg_mapV_ne f _ (by omega) (by omega) fun i _ => by omega).trans (Hart.vreg_setV_same _ _ rfl)
    · rw [show r + (j + 1) = r + 1 + j by omega, ih _ (by omega) (by omega), Hart.vreg_setV_ne _ _ (by omega)]

/-- A group starts at a multiple of its size, and so ends within the 32 registers. -/
theorem group_within {r c : Nat} (hc : c < 4) (hr : r < 32) (h : r % 2 ^ c = 0) : r + 2 ^ c ≤ 32 := by
  obtain rfl | rfl | rfl | rfl : c = 0 ∨ c = 1 ∨ c = 2 ∨ c = 3 := by omega
  all_goals omega

/-! ### Tags (R93, R94) -/

/-- What a tag form does to a register of its group, under a context set. -/
def retag (t : TagImm) (clear : Bool) (ctx : PvSet) (r : VReg) : VReg :=
  if clear then ⟨0, t.tag, false, ctx⟩ else { r with tag := t.tag, pv := r.pv ||| ctx }

/-- FSUB joins FSTAT of a hart where the type was substituted (R54). -/
def Hart.joinFsub (b : Bool) (h : Hart) : Hart := { h with csr := { h.csr with fstat := h.csr.fstat ||| if b then 32 else 0 } }

theorem setFsub_eq (b : Bool) (s : State) : setFsub b s = s.mapHart (Hart.joinFsub b) := by
  cases b
  · show s = { s with hart := { s.hart with csr := { s.hart.csr with fstat := s.hart.csr.fstat ||| 0 } } }
    rw [show s.hart.csr.fstat ||| 0 = s.hart.csr.fstat from BitVec.or_zero]
  · rfl

/-- With a legal immediate and an aligned register, a tag form changes its group, FSUB, and the pc. -/
theorem tagForm_eq {i : Instr} {f : IFmt} {clear : Bool} {s : State} (ht : (tagImm f.imm.toNat).ty < 21)
    (hbl : (tagImm f.imm.toNat).bl = 0 ∨ isScaled (tagImm f.imm.toNat).ty = true)
    (hal : f.sd.toNat % groupOf (tagImm f.imm.toNat).g = 0) :
    tagForm i f clear s = retire ((setFsub (tagImm f.imm.toNat).sub s).mapHart fun h =>
      Hart.mapV (retag (tagImm f.imm.toNat) clear h.ctx) f.sd.toNat (groupOf (tagImm f.imm.toNat).g) h) := by
  have h1 : ((tagImm f.imm.toNat).bl != 0 && !isScaled (tagImm f.imm.toNat).ty) = false := by
    rcases hbl with h | h <;> simp [h]
  simp only [tagForm, h1, hal, Bool.or_false, decide_eq_true_eq, ge_iff_le, Nat.not_le.2 ht, if_false, bne_self_eq_false,
    Bool.false_eq_true]
  rfl

/-- The state after a tag form: the group retagged, every other register and the rest of the hart as before. -/
theorem tagForm_spec (t : TagImm) (clear : Bool) {r : Nat} (s : State) (hn : r + groupOf t.g ≤ 32) :
    let u := retire ((setFsub t.sub s).mapHart fun h => Hart.mapV (retag t clear h.ctx) r (groupOf t.g) h)
    ((∀ q < 32, (∀ j < groupOf t.g, q ≠ r + j) → u.hart.vreg q = s.hart.vreg q) ∧ u.hart.vec.m = s.hart.vec.m ∧
      u.hart.vec.k = s.hart.vec.k ∧ u.hart.s = s.hart.s ∧ Passed s u ∧ HartOnly s u ∧
      u.hart.csr.fstat = s.hart.csr.fstat ||| if t.sub then 32 else 0) ∧
    ∀ j < groupOf t.g, u.hart.vreg (r + j) = retag t clear s.ctx (s.hart.vreg (r + j)) := by
  rw [setFsub_eq]
  intro u
  obtain ⟨v, hv⟩ := Hart.mapV_eq (retag t clear s.ctx) r (groupOf t.g) (s.hart.joinFsub t.sub)
  have hu : u = retire (s.mapHart fun h => { h.joinFsub t.sub with vec := { h.vec with v := v } }) :=
    congrArg (fun h => retire { s with hart := h }) hv
  have hreg (q : Nat) : u.hart.vreg q = (Hart.mapV (retag t clear s.ctx) r (groupOf t.g) (s.hart.joinFsub t.sub)).vreg q := rfl
  refine ⟨⟨fun q hq hne => (hreg q).trans (Hart.vreg_mapV_ne _ _ hn hq hne), ?_⟩,
    fun j hj => (hreg _).trans (Hart.vreg_mapV_in _ _ hn hj)⟩
  rw [hu]
  exact ⟨rfl, rfl, rfl, passed_retire rfl, hartOnly_of_eq rfl rfl, rfl⟩

/-- The type that a tag immediate names: code 15 stands for 13 and 16 for 14 (R54). -/
theorem tagImm_ty (n : Nat) : (tagImm n).ty = if n % 32 = 15 ∨ n % 32 = 16 then (tagImm n).ty else n % 32 := by
  split
  · rfl
  next h =>
    have h15 : n % 32 ≠ 15 := fun e => h (.inl e)
    have h16 : n % 32 ≠ 16 := fun e => h (.inr e)
    simp [tagImm, fp6, h15, h16]

/-- A tag form with a legal immediate, in the terms of its three fields. -/
theorem tagForm_completes {i : Instr} {f : IFmt} {clear : Bool} {s : State} (he : exec i s = .next (tagForm i f clear s))
    (hty : (tagImm f.imm.toNat).ty < 21)
    (hbl : f.imm.toNat / 128 % 8 = 0 ∨ (tagImm f.imm.toNat).ty = 13 ∨ (tagImm f.imm.toNat).ty = 14 ∨ (tagImm f.imm.toNat).ty = 17)
    (hal : f.sd.toNat % 2 ^ (f.imm.toNat / 32 % 4) = 0) :
    Completes i s fun t => ((∀ q < 32, (∀ j < 2 ^ (f.imm.toNat / 32 % 4), q ≠ f.sd.toNat + j) → t.hart.vreg q = s.hart.vreg q) ∧
        t.hart.vec.m = s.hart.vec.m ∧ t.hart.vec.k = s.hart.vec.k ∧ t.hart.s = s.hart.s ∧ Passed s t ∧ HartOnly s t ∧
        t.hart.csr.fstat = s.hart.csr.fstat ||| if f.imm.toNat % 32 = 15 ∨ f.imm.toNat % 32 = 16 then 32 else 0) ∧
      ∀ j < 2 ^ (f.imm.toNat / 32 % 4), t.hart.vreg (f.sd.toNat + j) =
        retag (tagImm f.imm.toNat) clear s.ctx (s.hart.vreg (f.sd.toNat + j)) := by
  have hs : isScaled (tagImm f.imm.toNat).ty = true ∨ (tagImm f.imm.toNat).bl = 0 := by
    rcases hbl with h | h | h | h
    · exact .inr h
    all_goals exact .inl (by rw [h]; rfl)
  rw [tagForm_eq hty hs.symm hal] at he
  refine ⟨_, he, ?_⟩
  have hsub : (if f.imm.toNat % 32 = 15 ∨ f.imm.toNat % 32 = 16 then (32 : BitVec 6) else 0) =
      if (tagImm f.imm.toNat).sub then 32 else 0 := by simp [tagImm]
  obtain ⟨⟨hothers, hm, hk, hs, hpast, honly, hfsub⟩, hgroup⟩ :=
    tagForm_spec (tagImm f.imm.toNat) clear s (group_within (Nat.mod_lt _ (by decide)) f.sd.isLt hal)
  exact ⟨⟨hothers, hm, hk, hs, hpast, honly, hfsub.trans (congrArg (s.hart.csr.fstat ||| ·) hsub.symm)⟩, hgroup⟩

/-! ### The vector length and the storage level (R88-R91) -/

/-- What a change of the storage level of core `n` does to a hart; the hart that changes it keeps its vl (R91). -/
def Hart.releveled (level n : Nat) (self : Option Nat) (h : Hart) : Hart :=
  if h.core == n then
    if some h.ix == self then { h with vec := h.vec.fit level } else ({ h with vec := h.vec.fit level } : Hart).cutVl level
  else h

/-- A change of the level reaches the harts of the core, its copies and their owners, and its level. -/
theorem changeLevel_eq (level : Nat) (self : Option Nat) (s : State) : ∃ x y, changeLevel level self s =
    { s with sectors := x, core := { s.core with copies := y, level := level }, hart := s.hart.releveled level s.core.num self,
             harts := s.harts.map (Hart.releveled level s.core.num self) } := by
  obtain ⟨x, y, h⟩ := evictCopies_eq (fun k => decide (16 - borrowedWays level <= k.way)) s
  exact ⟨x, y, by unfold changeLevel clearBorrowed; rw [h]; rfl⟩

/-- The hart that changes the level keeps the bits that its registers hold at the new one. -/
theorem Hart.releveled_self {level n : Nat} {h : Hart} (hc : h.core = n) :
    h.releveled level n (some h.ix) = { h with vec := h.vec.fit level } := by
  simp [Hart.releveled, hc]

/-- A vector register at a storage level. -/
theorem Hart.vreg_fit (level r : Nat) (h : Hart) :
    ({ h with vec := h.vec.fit level } : Hart).vreg r = { h.vreg r with img := (h.vreg r).img % 2 ^ (8192 * level) } := by
  unfold Hart.vreg VecFile.fit
  simp only [Vector.get_eq_getElem, Vector.getElem_map]

/-- No vl stays beyond the maximum of the level (R91). -/
theorem Hart.cutVl_vl (level : Nat) (h : Hart) :
    (h.cutVl level).csr.vl ≤ vlmax (h.cutVl level).csr.sew.toNat (h.cutVl level).csr.g.toNat level := by
  unfold Hart.cutVl
  dsimp only
  split
  · exact le_rfl
  · omega

theorem Hart.releveled_core (level n : Nat) (self : Option Nat) (h : Hart) : (h.releveled level n self).core = h.core := by
  unfold Hart.releveled Hart.cutVl; dsimp only; repeat' split
  all_goals rfl
theorem Hart.releveled_ix (level n : Nat) (self : Option Nat) (h : Hart) : (h.releveled level n self).ix = h.ix := by
  unfold Hart.releveled Hart.cutVl; dsimp only; repeat' split
  all_goals rfl

/-- Another hart of the core has no vl beyond its maximum. -/
theorem Hart.releveled_vl {level n i : Nat} {h : Hart} (hc : h.core = n) (hi : h.ix ≠ i) :
    (h.releveled level n (some i)).csr.vl ≤
      vlmax (h.releveled level n (some i)).csr.sew.toNat (h.releveled level n (some i)).csr.g.toNat level := by
  have he : h.releveled level n (some i) = ({ h with vec := h.vec.fit level } : Hart).cutVl level := by
    simp [Hart.releveled, hc, hi]
  rw [he]
  exact Hart.cutVl_vl level _

/-- The code's level, 0 for the one that the core has. -/
def levelAsked (lc : Nat) (s : State) : Nat := if lc == 0 then s.core.level else levelOf lc

theorem levelAsked_eq (lc : Nat) (s : State) : levelAsked lc s = if lc = 0 then s.level else if lc = 3 then 4 else lc := by
  simp only [levelAsked, levelOf, beq_iff_eq, State.level]

/-- A hart with the vector length, its set, and the width and grouping of a SETVL. -/
def Hart.setVl (f : IFmt) (vl : Nat) (p : PvSet) (h : Hart) : Hart :=
  ({ h with csr := { h.csr with vl := vl, sew := f.imm.extractLsb' 0 2, g := f.imm.extractLsb' 2 2, vlcut := false } } : Hart).setCsrPv 1 p

/-- SETVL's own writes, at the level that the core has by then. -/
def setvlTo (f : IFmt) (level : Nat) (u : State) : State :=
  let vl := min (u.getS f.sa).toNat (vlmax (f.imm.toNat % 4) (f.imm.toNat / 4 % 4) level)
  let p := u.getP f.sa ||| u.ctx
  retire ((u.mapHart (Hart.setVl f vl p)).setS f.sd (BitVec.ofNat 64 vl) p)

theorem setvlTo_vec (f : IFmt) (level : Nat) (u : State) : (setvlTo f level u).hart.vec = u.hart.vec := Hart.setS_vec _ _ _ _
theorem setvlTo_harts (f : IFmt) (level : Nat) (u : State) : (setvlTo f level u).harts = u.harts := rfl
theorem Hart.vreg_of_vec {h k : Hart} (e : h.vec = k.vec) (r : Nat) : h.vreg r = k.vreg r := by unfold Hart.vreg; rw [e]

/-- The number in the order of posting that a change of the level takes when it is first tried. -/
def levelTurn (s : State) : Nat := (s.hart.cur.map Item.seq).getD (s.hart.levelSeq.getD s.jobSeq)

theorem setvl_same {f : IFmt} {s : State} (h : levelAsked (f.imm.toNat / 16 % 4) s = s.level) :
    exec (.setvl f) s = .next (setvlTo f (levelAsked (f.imm.toNat / 16 % 4) s) s) := by
  have hb : (levelAsked (f.imm.toNat / 16 % 4) s != s.core.level) = false := by rw [h]; exact bne_self_eq_false _
  show execSetvl f s = _
  unfold execSetvl
  change Host.Outcome.next (if (levelAsked (f.imm.toNat / 16 % 4) s != s.core.level && _) = true then _ else _) = _
  rw [hb]
  change Host.Outcome.next (setvlTo f _ (if (levelAsked (f.imm.toNat / 16 % 4) s != s.core.level) = true then _ else s)) = _
  rw [hb]
  rfl

theorem setvl_change {f : IFmt} {s : State} (h : levelAsked (f.imm.toNat / 16 % 4) s ≠ s.level)
    (hr : s.levelReady (levelTurn s) = true) :
    exec (.setvl f) s = .next (setvlTo f (levelAsked (f.imm.toNat / 16 % 4) s)
      (changeLevel (levelAsked (f.imm.toNat / 16 % 4) s) (some s.hart.ix) s)) := by
  have hb : (levelAsked (f.imm.toNat / 16 % 4) s != s.core.level) = true := bne_iff_ne.2 h
  show execSetvl f s = _
  unfold execSetvl
  change Host.Outcome.next (if (levelAsked (f.imm.toNat / 16 % 4) s != s.core.level && !s.levelReady (levelTurn s)) = true
    then _ else _) = _
  rw [hr, hb]
  change Host.Outcome.next (setvlTo f _ (if (levelAsked (f.imm.toNat / 16 % 4) s != s.core.level) = true then _ else s)) = _
  rw [hb]
  rfl

theorem setvl_waits {f : IFmt} {s : State} (h : levelAsked (f.imm.toNat / 16 % 4) s ≠ s.level)
    (hr : s.levelReady (levelTurn s) = false) :
    exec (.setvl f) s = .next (waitFor (.level (levelTurn s))
      { s with jobSeq := if levelTurn s = s.jobSeq then s.jobSeq + 1 else s.jobSeq }) := by
  have hb : (levelAsked (f.imm.toNat / 16 % 4) s != s.core.level) = true := bne_iff_ne.2 h
  show execSetvl f s = _
  unfold execSetvl
  change Host.Outcome.next (if (levelAsked (f.imm.toNat / 16 % 4) s != s.core.level && !s.levelReady (levelTurn s)) = true
    then waitFor (.level (levelTurn s)) { s with jobSeq := if (levelTurn s == s.jobSeq) = true then _ else _ } else _) = _
  rw [hr, hb]
  simp only [beq_iff_eq]
  rfl

/-- A register write is told of any state with the same registers before it. -/
theorem wrote_of_same {sd : BitVec 5} {v : Word} {p : PvSet} {s u t : State} (hs : u.hart.s = s.hart.s) (hp : u.hart.sp = s.hart.sp)
    (h : Wrote sd v p u t) : Wrote sd v p s t := by
  have hS (r : BitVec 5) : u.getS r = s.getS r := by simp only [State.getS, Hart.getS, hs]
  have hP (r : BitVec 5) : u.getP r = s.getP r := by simp only [State.getP, Hart.getP, hp]
  exact ⟨h.result, h.zero, fun r hr => by simpa only [hS, hP] using h.others r hr⟩

/-- What SETVL writes, read from a state that agrees with `s` in the hart's registers, its progress and memory. -/
theorem setvlTo_spec (f : IFmt) (level : Nat) {s u : State} (hs : u.hart.s = s.hart.s) (hsp : u.hart.sp = s.hart.sp)
    (hctx : u.ctx = s.ctx) (hgo : u.hart.going = s.hart.going) (hm : u.mem = s.mem) (hl : u.level = level) :
    let vl := min (s.getS f.sa).toNat (vlmax (f.imm.toNat % 4) (f.imm.toNat / 4 % 4) level)
    let p := s.getP f.sa ||| s.ctx
    let t := setvlTo f level u
    t.vl = vl ∧ Wrote f.sd (BitVec.ofNat 64 vl) p s t ∧ t.vlPv = p ∧ t.level = level ∧ Passed s t ∧
      t.hart.csr.sew.toNat = f.imm.toNat % 4 ∧ t.hart.csr.g.toNat = f.imm.toNat / 4 % 4 ∧ t.hart.csr.vlcut = false ∧ t.mem = s.mem := by
  have hS (r) : u.getS r = s.getS r := by simp only [State.getS, Hart.getS, hs]
  have hP (r) : u.getP r = s.getP r := by simp only [State.getP, Hart.getP, hsp]
  intro vl p t
  have ht : t = retire ((u.mapHart (Hart.setVl f vl p)).setS f.sd (BitVec.ofNat 64 vl) p) := by
    show setvlTo f level u = _
    unfold setvlTo
    rw [hS, hP, hctx]
  have hh : t.hart = (retire ((u.mapHart (Hart.setVl f vl p)).setS f.sd (BitVec.ofNat 64 vl) p)).hart := congrArg State.hart ht
  have hcsr : t.hart.csr = { (u.hart.setVl f vl p).csr with instret := t.hart.csr.instret } := by
    rw [hh]
    unfold retire State.setS State.mapHart Hart.setS
    split <;> rfl
  refine ⟨congrArg Csrs.vl hcsr, ?_, ?_, by rw [← hl, ht]; rfl, ?_, ?_, ?_, congrArg Csrs.vlcut hcsr, by rw [← hm, ht]; rfl⟩
  · rw [ht]
    exact wrote_of_same (u := u.mapHart (Hart.setVl f vl p)) hs hsp (wrote_retire (setS_wrote (u.mapHart (Hart.setVl f vl p)) _ _ _))
  · have hpv : t.hart.csrPv 1 = (u.hart.setVl f vl p).csrPv 1 := by unfold Hart.csrPv; rw [hcsr]
    exact hpv.trans (Hart.csrPv_setCsrPv_same _ 1 p)
  · rw [ht]
    exact passed_retire ((setS_going _ _ _ _).trans hgo)
  · rw [hcsr]
    show (f.imm.extractLsb' 0 2).toNat = _
    simp
  · rw [hcsr]
    show (f.imm.extractLsb' 2 2).toNat = _
    simp [BitVec.extractLsb'_toNat, Nat.shiftRight_eq_div_pow]

end Sys2Proof.Machine
end

section

open Sys2Proof Sys2Proof.Machine Sys2Proof.Safety

/-- Settles O32: VTAG and VRETAG change the group alone, by `tagForm_completes`; VTAGRD is a scalar result. -/
theorem tagsAreWritten : Obligations.TagsAreWritten := by
  unfold Obligations.TagsAreWritten
  refine ⟨?_, ?_⟩
  · intro f s x ty bl g tag others hty hbl hal
    have he : ty = (tagImm f.imm.toNat).ty := (tagImm_ty _).symm
    have htag : (tagImm f.imm.toNat).tag = tag := by
      show Tag.mk (BitVec.ofNat 5 (tagImm f.imm.toNat).ty) _ _ = Tag.mk (BitVec.ofNat 5 ty) _ _
      rw [he]
      rfl
    rw [he] at hty hbl
    have hv := tagForm_completes (i := .vtag f) (clear := true) (s := s) rfl hty hbl hal
    have hr := tagForm_completes (i := .vretag f) (clear := false) (s := s) rfl hty hbl hal
    rw [← htag]
    exact ⟨hv, hr⟩
  · intro f s r
    exact completes_scalar (i := .vtagrd f) rfl
      (congrArg (BitVec.ofNat 64) (congrArg (· + _) (by show r.tag.num = _; unfold Tag.num; omega))) rfl

end

section

open Sys2Proof Sys2Proof.Machine Sys2Proof.Safety

/-- Settles O31: `setvlTo_spec` at the state that the change of the level, if any, leaves (`changeLevel_eq`). -/
theorem vectorLengthIsSet : Obligations.VectorLengthIsSet := by
  unfold Obligations.VectorLengthIsSet
  intro f s sew g lc level n vl p did
  have hlevel : levelAsked lc s = level := levelAsked_eq lc s
  refine ⟨fun h => ?_, fun h hcore hr => ?_, fun h hr => setvl_waits (hlevel.trans_ne h) hr⟩
  · have he := setvl_same (f := f) (hlevel.trans h)
    rw [show levelAsked (f.imm.toNat / 16 % 4) s = level from hlevel] at he
    refine ⟨_, he, setvlTo_spec f level rfl rfl rfl rfl rfl h.symm, ?_, ?_⟩
    · exact setvlTo_vec f level s
    · exact hartOnly_of_eq rfl (Hart.setS_mode _ _ _ _)
  · have he := setvl_change (f := f) (hlevel.trans_ne h) hr
    rw [show levelAsked (f.imm.toNat / 16 % 4) s = level from hlevel] at he
    obtain ⟨x, y, hu⟩ := changeLevel_eq level (some s.hart.ix) s
    rw [Hart.releveled_self hcore] at hu
    have hview {α : Type} (v : State → α) := congrArg v hu
    refine ⟨_, he, setvlTo_spec f level (hview (·.hart.s)) (hview (·.hart.sp)) (hview (·.hart.ctx)) (hview (·.hart.going))
      (hview State.mem) (hview (·.core.level)), fun r _ => ?_, fun h hmem hc hi => ?_⟩
    · have hv := (Hart.vreg_of_vec (setvlTo_vec f level _) r).trans
        ((congrArg (fun w : State => w.hart.vreg r) hu).trans (Hart.vreg_fit level r s.hart))
      rw [hv]
      exact ⟨rfl, rfl, rfl⟩
    · have hm : h ∈ s.harts.map (Hart.releveled level s.core.num (some s.hart.ix)) := by
        rw [setvlTo_harts, hu] at hmem
        exact hmem
      obtain ⟨k, -, rfl⟩ := List.mem_map.1 hm
      rw [Hart.releveled_core] at hc
      rw [Hart.releveled_ix] at hi
      exact Hart.releveled_vl hc hi

end

section
/-! SUPPORT. FORK and JOIN (R96, R97, R98). -/

namespace Sys2Proof.Machine

open Sys2Proof.Safety

/-! ### Replacing a hart context -/

theorem setHart_of_ne {s : State} {h : Hart} (hne : (s.hart.core == h.core && s.hart.ix == h.ix) = false) :
    s.setHart h = { s with harts := putBy Hart.key h s.harts } := by
  simp only [State.setHart, hne, Bool.false_eq_true, if_false]

/-- A context that was put in, found by its identity while another hart runs. -/
theorem hartAt_putBy {s : State} {h : Hart} {i : HartId} (l : List Hart) (hi : h.id = i) (hl : s.harts = putBy Hart.key h l)
    (hne : (s.hart.core == h.core && s.hart.ix == h.ix) = false) : s.hartAt i = h := by
  subst hi
  rw [hartAt_of_ne hne, hl, hidKey_id, findBy_putBy_same]
  rfl

/-! ### FORK -/

/-- The child that FORK makes in context `c` (R97). -/
def forkChild (f : IFmt) (c : Nat) (p : Hart) : Hart :=
  let half := p.laneN / 2
  let out := (srStep p.csr.srstate).2
  ({ Hart.initial p.core c with
    status := .running, s := p.s, sp := p.sp, pc := p.pc + offset8 f.imm, mode := p.mode, ctx := p.ctx,
    csr := p.csr.child (if out == 0 then 1 else out), laneLo := p.laneLo + half, laneN := half,
    parent := some p.ix, fetchTaken := true } : Hart).setS f.sd 1 p.ctx

/-- The parent that FORK leaves, before its register write (R97). -/
def forkParent (f : IFmt) (c : Nat) (p : Hart) : Hart :=
  let half := p.laneN / 2
  ({ p with csr := { p.csr with srstate := (srStep p.csr.srstate).1 }, laneN := half,
            children := p.children ++ [Child.mk c (forkChild f c p).laneLo half none] } : Hart).clearVec

/-- A context that is found free for a child is not the parent's. -/
theorem freeHart_ne {s : State} {c : Nat} (h : s.freeHart = some c) : c ≠ s.hart.ix := by
  have hf := List.find?_some h
  simp only [Bool.and_eq_true, bne_iff_ne] at hf
  exact hf.2

theorem forkChild_core (f : IFmt) (c : Nat) (p : Hart) : (forkChild f c p).core = p.core := Hart.setS_core ..
theorem forkChild_ix (f : IFmt) (c : Nat) (p : Hart) : (forkChild f c p).ix = c := Hart.setS_ix ..

/-- FORK with a free context: the parent's writes, and the child put among the other harts. -/
theorem forkTo_eq {f : IFmt} {c : Nat} {s : State} (hc : c ≠ s.hart.ix) :
    forkTo f c s = retire { s with hart := (forkParent f c s.hart).setS f.sd 0 s.ctx,
                                   harts := putBy Hart.key (forkChild f c s.hart) s.harts } := by
  have hne : (((forkParent f c s.hart).setS f.sd 0 s.ctx).core == (forkChild f c s.hart).core &&
      ((forkParent f c s.hart).setS f.sd 0 s.ctx).ix == (forkChild f c s.hart).ix) = false := by
    rw [Hart.setS_ix, forkChild_ix]
    exact Bool.and_eq_false_imp.2 fun _ => beq_false_of_ne (Ne.symm hc)
  have he : forkTo f c s = retire ((s.mapHart fun p => (forkParent f c p).setS f.sd 0 p.ctx).setHart (forkChild f c s.hart)) := rfl
  rw [he, setHart_of_ne hne]
  rfl

theorem fork_eq {f : IFmt} {s : State} (ha : Allowed (.fork f) s) (hd : s.postedDone = true) (hg : GateOpen s) :
    exec (.fork f) s = .next (if s.hart.laneN ≤ 1 then forkTrap (.fork f) 1 s else
      match s.freeHart with
      | none => forkTrap (.fork f) 2 s
      | some c => forkTo f c s) := by
  refine (exec_of_allowed (i := .fork f) rfl ha).trans ?_
  rw [hd]
  exact congrArg Host.Outcome.next ((if_neg (by decide)).trans (watchGate_open _ hg))

theorem join_eq {s : State} (ha : Allowed .join s) (hd : s.postedDone = true) (hg : GateOpen s) :
    exec .join s = .next (match s.hart.children.getLast? with
      | some c =>
        match c.done with
        | some (p : PvSet) => joinChild c p s
        | none => waitFor .join s
      | none => if s.hart.parent.isSome then endHart s else forkTrap .join 3 s) := by
  refine (exec_of_allowed (i := .join) rfl ha).trans ?_
  rw [hd]
  exact congrArg Host.Outcome.next ((if_neg (by decide)).trans (watchGate_open _ hg))

/-- The child that FORK leaves in its context. -/
theorem forkTo_child {f : IFmt} {c : Nat} {s : State} (hc : c ≠ s.hart.ix) :
    (forkTo f c s).hartAt ⟨s.hart.core, c⟩ = forkChild f c s.hart := by
  refine hartAt_putBy s.harts ((hart_id_eq_iff _ _).2 ⟨forkChild_core .., forkChild_ix ..⟩) ?_ ?_
  · rw [forkTo_eq hc]
    rfl
  · rw [forkTo_eq hc]
    show (((forkParent f c s.hart).setS f.sd 0 s.ctx).core == _ && ((forkParent f c s.hart).setS f.sd 0 s.ctx).ix == _) = false
    rw [Hart.setS_ix, forkChild_ix]
    exact Bool.and_eq_false_imp.2 fun _ => beq_false_of_ne (Ne.symm hc)

/-- The child starts at the target with half of the lane groups, the parent's scalar registers, and nothing on its vector side. -/
theorem forkChild_spec (f : IFmt) (c : Nat) (p : Hart) :
    let k := forkChild f c p
    k.status = .running ∧ k.pc = p.pc + f.imm.signExtend 64 * 8 ∧ k.mode = p.mode ∧ k.ctx = p.ctx ∧
      k.laneN = p.laneN / 2 ∧ k.laneLo = p.laneLo + p.laneN / 2 ∧ k.vec = VecFile.zero ∧ k.csr.vl = 0 ∧
      k.parent = some p.ix ∧ (f.sd ≠ 0 → k.getS f.sd = 1) ∧ (∀ r, r ≠ f.sd → k.getS r = p.getS r ∧ k.getP r = p.getP r) := by
  refine ⟨Hart.setS_status .., Hart.setS_pc .., Hart.setS_mode .., Hart.setS_ctx .., Hart.setS_laneN .., Hart.setS_laneLo ..,
    Hart.setS_vec .., ?_, Hart.setS_parent .., fun h => (Hart.getS_setS_same _ _ _ _ h).1, fun r h => Hart.getS_setS_ne _ _ _ _ _ h⟩
  exact congrArg Csrs.vl (Hart.setS_csr ..)

/-- The parent keeps the other half of the lane groups, its vector side cleared. -/
theorem forkTo_parent {f : IFmt} {c : Nat} {s : State} (hc : c ≠ s.hart.ix) :
    let t := forkTo f c s
    t.hart.laneN = s.hart.laneN / 2 ∧ t.hart.vec = VecFile.zero ∧ t.vl = 0 ∧ Wrote f.sd 0 s.ctx s t ∧ Passed s t ∧
      t.mem = s.mem ∧ t.hart.children.length = s.hart.children.length + 1 := by
  rw [forkTo_eq hc]
  refine ⟨Hart.setS_laneN .., Hart.setS_vec .., congrArg Csrs.vl (Hart.setS_csr ..), ?_, passed_retire (setS_going ..), rfl, ?_⟩
  · exact wrote_of_same (u := { s with hart := forkParent f c s.hart }) rfl rfl (wrote_retire
      ⟨(setS_wrote { s with hart := forkParent f c s.hart } f.sd 0 s.ctx).result, ⟨rfl, rfl⟩,
       (setS_wrote { s with hart := forkParent f c s.hart } f.sd 0 s.ctx).others⟩)
  · exact (congrArg List.length (Hart.setS_children ..)).trans (by simp [forkParent, Hart.clearVec, Hart.setCsrPv])

/-! ### JOIN -/

/-- The parent's context as a child's end leaves it (R98). -/
def Hart.told (ix : Nat) (p : PvSet) (q : Hart) : Hart :=
  { q with children := q.children.map fun c => if c.ix == ix then { c with done := some p } else c }

theorem tellParent_eq {s : State} {q : Nat} (hp : s.hart.parent = some q) (hq : q ≠ s.hart.ix)
    (hid : (s.hartAt ⟨s.hart.core, q⟩).id = ⟨s.hart.core, q⟩) :
    tellParent s = { s with harts := putBy Hart.key ((s.hartAt ⟨s.hart.core, q⟩).told s.hart.ix s.hart.ctx) s.harts } := by
  have hix : (s.hartAt ⟨s.hart.core, q⟩).ix = q := ((hart_id_eq_iff _ _).1 hid).2
  have hne : (s.hart.core == ((s.hartAt ⟨s.hart.core, q⟩).told s.hart.ix s.hart.ctx).core &&
      s.hart.ix == ((s.hartAt ⟨s.hart.core, q⟩).told s.hart.ix s.hart.ctx).ix) = false := by
    show (_ && s.hart.ix == (s.hartAt ⟨s.hart.core, q⟩).ix) = false
    rw [hix]
    exact Bool.and_eq_false_imp.2 fun _ => beq_false_of_ne (Ne.symm hq)
  refine Eq.trans ?_ (setHart_of_ne hne)
  unfold tellParent
  simp only [hp]
  rfl

/-- A child's end frees its context, and its parent is told the final context set. -/
theorem endHart_child {s : State} {q : Nat} (hp : s.hart.parent = some q) (hq : q ≠ s.hart.ix)
    (hid : (s.hartAt ⟨s.hart.core, q⟩).id = ⟨s.hart.core, q⟩) :
    (endHart s).hart = s.hart.freed ∧ (endHart s).mem = s.mem ∧
      (endHart s).hartAt ⟨s.hart.core, q⟩ = (s.hartAt ⟨s.hart.core, q⟩).told s.hart.ix s.hart.ctx := by
  unfold endHart
  rw [tellParent_eq hp hq hid]
  refine ⟨rfl, rfl, ?_⟩
  refine hartAt_putBy s.harts ?_ rfl ?_
  · exact hid
  · show (s.hart.core == _ && s.hart.ix == (s.hartAt ⟨s.hart.core, q⟩).ix) = false
    rw [((hart_id_eq_iff _ _).1 hid).2]
    exact Bool.and_eq_false_imp.2 fun _ => beq_false_of_ne (Ne.symm hq)

/-- A told child has its final context set. -/
theorem Hart.told_done {ix : Nat} {p : PvSet} {q : Hart} {c : Child} (hc : c ∈ (q.told ix p).children) (hi : c.ix = ix) :
    c.done = some p := by
  obtain ⟨d, -, rfl⟩ := List.mem_map.1 hc
  by_cases h : (d.ix == ix) = true
  · rw [if_pos h]
  · rw [if_neg h] at hi
    exact absurd (beq_iff_eq.2 hi) h

end Sys2Proof.Machine
end

section

open Sys2Proof Sys2Proof.Machine Sys2Proof.Safety

/-- Settles O33: each branch of FORK and of JOIN by its own equation. -/
theorem forkAndJoin : Obligations.ForkAndJoin := by
  unfold Obligations.ForkAndJoin
  refine ⟨fun f c s ha hd hg _ => ⟨fun h => ?_, fun h hf => ?_, fun h hf => ?_⟩,
    fun s c p ha hd hg => ⟨fun hl hdone => ?_, fun q hch hp hq hid => ?_, fun hch hp => ?_⟩⟩
  · exact (fork_eq ha hd hg).trans (congrArg _ (if_pos h))
  · refine (fork_eq ha hd hg).trans (congrArg _ ?_)
    rw [if_neg (by omega), hf]
    rfl
  · have he : exec (.fork f) s = .next (forkTo f c s) := by
      rw [fork_eq ha hd hg, if_neg (by omega), hf]
    refine ⟨_, he, ?_⟩
    have hne := freeHart_ne hf
    simp only [forkTo_child hne]
    obtain ⟨h1, h2, h3, h4, h5, h6, h7⟩ := forkTo_parent (f := f) hne
    exact ⟨h1, h2, h3, h4, h5, h6, h7, forkChild_spec f c s.hart⟩
  · have he : exec .join s = .next (joinChild c p s) := by
      rw [join_eq ha hd hg, hl]
      simp only [hdone]
    exact ⟨_, he, rfl, rfl, rfl, rfl, rfl, rfl, passed_retire rfl, rfl⟩
  · have he : exec .join s = .next (endHart s) := by rw [join_eq ha hd hg, hch, hp]; rfl
    obtain ⟨hh, hm, hat⟩ := endHart_child hp hq hid
    refine ⟨_, he, hh, ?_, ?_, ?_, hm, fun c hc => Hart.told_done (hat ▸ hc)⟩
    all_goals rw [hh]; rfl
  · rw [join_eq ha hd hg, hch, hp]
    rfl

end

section
/-! SUPPORT. DISCARD and TPPROBE (R105, R106, R107, R460). -/

namespace Sys2Proof.Machine

open Sys2Proof.Safety

/-- A frame's record, once written. -/
theorem tideAt_setTide_of_frame (s : State) {t : TideFrame} {f : Nat} (h : t.frame = f) : (s.setTide t).tideAt f = t := by
  subst h; exact tideAt_setTide_same s t

/-! ### Lines that are dropped (R105, R459) -/

/-- From `s` to `t` the bytes from `lo` to `hi` of memory became zero, and neither the layout, nor a generation, nor the hart changed. -/
structure Dropped (lo hi : Nat) (s t : State) : Prop where
  layout : t.layout = s.layout
  canonical : MemoryCanonical t
  bytes : ∀ a, memRead a t.mem = if lo ≤ a ∧ a < hi then 0 else memRead a s.mem
  gen : ∀ f, (t.tideAt f).gen = (s.tideAt f).gen
  hart : t.hart = s.hart

theorem dropped_none (lo : Nat) {s : State} (h : MemoryCanonical s) : Dropped lo lo s s :=
  ⟨rfl, h, fun a => (if_neg (by omega)).symm, fun _ => rfl, rfl⟩

/-- Two ranges that meet. -/
theorem Dropped.trans {a b c : Nat} {s t u : State} (hab : a ≤ b) (hbc : b ≤ c) (h : Dropped a b s t) (k : Dropped b c t u) :
    Dropped a c s u where
  layout := k.layout.trans h.layout
  canonical := k.canonical
  bytes x := by
    rw [k.bytes, h.bytes]
    split_ifs <;> first | rfl | omega
  gen f := (k.gen f).trans (h.gen f)
  hart := k.hart.trans h.hart

/-- The copies, owners and marks of a line go before its bytes do. -/
def forgetLine (line : Nat) (s : State) : State :=
  let at_ := s.lineOf (line * 128)
  let s := (endOwners (fun x => x / 4 == at_) (dropCopies at_ s)).mapCores fun c =>
    { c with icache := c.icache.filter fun k => k.line != line && k.line != at_ }
  { s with poison := s.poison.filter fun x => x / 4 != at_ }

/-- A line of a frame that is not backed leaves the HELD lines of its frame. -/
def unheld (line : Nat) (t : TideFrame) : TideFrame :=
  { t with held := if t.held.testBit (line % 512) then t.held - 2 ^ (line % 512) else t.held }

theorem dropLine_eq {line : Nat} {s : State} (h : ∀ f, (s.tideAt (line / 512)).state ≠ .backed f) :
    dropLine line s = ({ forgetLine line s with mem := memErase (line * 128) 128 s.mem } : State).setTide
      (unheld line (s.tideAt (line / 512))) := by
  unfold dropLine
  dsimp only
  split
  · next f hf => exact absurd hf (h f)
  · rfl

/-- Dropping one line of a frame that is not backed. -/
theorem dropLine_dropped {line : Nat} {s : State} (h : ∀ f, (s.tideAt (line / 512)).state ≠ .backed f) (hm : MemoryCanonical s) :
    Dropped (line * 128) (line * 128 + 128) s (dropLine line s) := by
  rw [dropLine_eq h]
  have hframe : (unheld line (s.tideAt (line / 512))).frame = line / 512 := tideAt_frame s _
  refine ⟨?_, memWf_memErase _ _ _ hm, fun a => memRead_memErase _ _ a _ hm, fun f => ?_, rfl⟩
  · refine (setTide_layout _ _ ?_ ?_).trans rfl
    all_goals rw [hframe]; rfl
  · by_cases hf : f = line / 512
    · rw [hf, tideAt_setTide_of_frame _ hframe]
      rfl
    · rw [tideAt_setTide_ne _ _ _ (by rw [hframe]; exact hf)]
      rfl

/-- Dropping a run of lines within one frame that is not backed. -/
theorem dropLines_dropped (frame : Nat) {line n : Nat} {s : State} (hl : n = 0 ∨ line / 512 = frame ∧ (line + n - 1) / 512 = frame)
    (h : ∀ f, (s.tideAt frame).state ≠ .backed f) (hm : MemoryCanonical s) :
    Dropped (line * 128) ((line + n) * 128) s (forRange dropLine line n s) := by
  induction n generalizing line s with
  | zero => exact dropped_none _ hm
  | succ n ih =>
    have hline : line / 512 = frame := by omega
    have h1 := dropLine_dropped (line := line) (by rw [hline]; exact h) hm
    have h2 := ih (line := line + 1) (s := dropLine line s) (by omega)
      (fun f => by rw [tideState_congr h1.layout]; exact h f) h1.canonical
    rw [show (line + 1) * 128 = line * 128 + 128 by omega, show line + 1 + n = line + (n + 1) by omega] at h2
    exact h1.trans (by omega) (by omega) h2

/-! ### The generation of a frame (R460) -/

theorem bumpGen_layout (f : Nat) (s : State) : (bumpGen f s).layout = s.layout := by
  refine setTide_layout _ _ ?_ ?_
  all_goals dsimp only; rw [tideAt_frame]

theorem bumpGen_gen (f : Nat) (s : State) : ((bumpGen f s).tideAt f).gen = (s.tideAt f).gen + 1 :=
  congrArg TideFrame.gen
    (tideAt_setTide_of_frame s (t := { s.tideAt f with gen := (s.tideAt f).gen + 1 }) (tideAt_frame s f))

/-- The state after a DISCARD of the whole lines of one part. -/
def discarded (q : PvSet) (pa n : Nat) (u : State) : State :=
  retire (bumpGen (pa / 65536) (discardPart ⟨pa, n⟩ (u.addCtx q)))

theorem discard_eq {f : RFmt} {s u : State} {pa n : Nat} (ha : (s.getS f.sa).toNat % 128 = 0) (hn : (s.getS f.sb).toNat = n)
    (hn128 : n % 128 = 0) (hp : discardParts (s.getS f.sa) n s (n / 65536 + 2) = .ok ([⟨pa, n⟩], u)) :
    exec (.discard f) s = .next (discarded (s.getP f.sa ||| s.getP f.sb) pa n u) := by
  subst hn
  show execDiscard f s = _
  simp only [execDiscard, ha, hn128, hp, bne_self_eq_false, Bool.or_self, Bool.false_eq_true, if_false]
  rfl

/-- A DISCARD within one page of the tidepool that is not backed: its bytes read as zero, and its page counts one generation. -/
theorem discarded_spec {pa n : Nat} {u : State} (q : PvSet) (hpa : pa % 128 = 0) (hn : n % 128 = 0) (hin : pa % 65536 + n ≤ 65536)
    (ht : u.inTide pa = true) (hm : MemoryCanonical u) (hu : Unredirected pa u) :
    let t := discarded q pa n u
    (∀ k < n, t.homeByte (pa + k) = 0) ∧ (∀ x, (u.place x < pa ∨ pa + n ≤ u.place x) → t.homeByte x = u.homeByte x) ∧
      (t.tideAt (pa / 65536)).gen = (u.tideAt (pa / 65536)).gen + 1 ∧ t.ctx = u.ctx ||| q ∧
      t.hart.s = u.hart.s ∧ t.hart.vec = u.hart.vec ∧ Passed u t := by
  intro t
  have hback : ∀ f, (u.tideAt (pa / 65536)).state ≠ .backed f := hu.resolve_left (by rw [ht]; decide)
  have hd := dropLines_dropped (pa / 65536) (line := pa / 128) (n := n / 128) (s := u.addCtx q) (by omega) hback hm
  rw [show pa / 128 * 128 = pa by omega, show (pa / 128 + n / 128) * 128 = pa + n by omega] at hd
  have hlayout : t.layout = u.layout := (bumpGen_layout _ _).trans (hd.layout.trans rfl)
  have hmem : t.mem = (forRange dropLine (pa / 128) (n / 128) (u.addCtx q)).mem := rfl
  refine ⟨fun k hk => ?_, fun x hx => ?_, ?_, ?_, ?_, ?_, ?_⟩
  · have hk' : Unredirected (pa + k) t := unredirected_congr (unredirected_of_frame hu (by omega)) hlayout
    rw [homeByte_of_unredirected hk', hmem, hd.bytes, if_pos (by omega)]
  · have hbyte : memRead (u.place x) t.mem = memRead (u.place x) u.mem := by
      rw [hmem, hd.bytes, if_neg (by omega)]
      rfl
    unfold State.homeByte
    rw [zeroLine_congr hlayout, place_congr hlayout, hbyte]
  · exact (bumpGen_gen _ _).trans (congrArg (· + 1) (hd.gen _))
  · exact (congrArg Hart.ctx hd.hart :)
  · exact (congrArg Hart.s hd.hart :)
  · exact (congrArg Hart.vec hd.hart :)
  · exact passed_retire (congrArg Hart.going hd.hart :)

/-! ### TPPROBE (R107) -/

/-- The frame is redirected to a spill frame. -/
def TideFrame.isBacked (t : TideFrame) : Bool := match t.state with | .backed _ => true | _ => false

theorem isBacked_eq (t : TideFrame) : (!t.isBacked) = (t.state matches .resident | .pending _ | .moving) := by
  unfold TideFrame.isBacked
  cases t.state <;> rfl

/-- The word of TPPROBE as a number. -/
def tideNum (t : TideFrame) : Nat :=
  t.gen.toNat * 2 ^ 32 + t.frame * 65536 / 2 ^ 32 % 8 * 256 + (if t.isBacked then 16 else 0)
    + (if t.pol then 8 else 0) + (if t.d then 4 else 0) + (if t.isBacked then 0 else 2) + 1

theorem tideWord_eq (t : TideFrame) : tideWord t = BitVec.ofNat 64 (tideNum t) := rfl

theorem tideNum_lt (t : TideFrame) : tideNum t < 2 ^ 64 := by
  have h := t.gen.isLt
  unfold tideNum
  split_ifs <;> omega

/-- A bit of TPPROBE's word, read off its number. -/
theorem tideWord_bit (t : TideFrame) {i : Nat} (hi : i < 64) : (tideWord t).getLsbD i = decide (tideNum t / 2 ^ i % 2 = 1) := by
  rw [tideWord_eq, BitVec.getLsbD_ofNat, Nat.testBit_eq_decide_div_mod_eq, decide_eq_true hi, Bool.true_and]

/-- The fields of TPPROBE's word: valid, resident, D, POLICY, backed, die and GEN. -/
theorem tideWord_fields (t : TideFrame) :
    (tideWord t).getLsbD 0 = true ∧ (tideWord t).getLsbD 1 = !t.isBacked ∧ (tideWord t).getLsbD 2 = t.d ∧ (tideWord t).getLsbD 3 = t.pol ∧
      (tideWord t).getLsbD 4 = t.isBacked ∧ (tideWord t).extractLsb' 32 32 = t.gen ∧
      ((tideWord t).extractLsb' 8 3).toNat = t.frame * 65536 / 2 ^ 32 % 8 := by
  have hlt := tideNum_lt t
  have hnum : (tideWord t).toNat = tideNum t := by rw [tideWord_eq, BitVec.toNat_ofNat, Nat.mod_eq_of_lt hlt]
  have hdie : t.frame * 65536 / 2 ^ 32 % 8 < 8 := Nat.mod_lt _ (by decide)
  have hgen := t.gen.isLt
  refine ⟨?_, ?_, ?_, ?_, ?_, BitVec.eq_of_toNat_eq ?_, ?_⟩
  iterate 5
    rw [tideWord_bit t (by decide)]
    unfold tideNum
    cases t.isBacked <;> cases t.pol <;> cases t.d <;>
      simp only [Bool.false_eq_true, if_true, if_false, decide_eq_true_eq, decide_eq_false_iff_not, Bool.not_true, Bool.not_false] <;>
      omega
  all_goals
    rw [BitVec.extractLsb'_toNat, hnum, Nat.shiftRight_eq_div_pow]
    unfold tideNum
    split_ifs <;> omega

theorem tpprobe_eq {f : RFmt} {s u : State} {pa : Nat} {e : TlbEntry} (hx : xlat (s.getS f.sa) .read s = .ok (pa, e, u))
    (hb : u.frameBusy pa = false) :
    exec (.tpprobe f) s = .next (retire ((recordTide pa e u).setS f.sd
      (if (recordTide pa e u).inTide pa then tideWord ((recordTide pa e u).tideAt (pa / 65536)) else 0) (s.getP f.sa ||| s.ctx))) := by
  show execTpprobe f s = _
  simp only [execTpprobe, hx, hb, Bool.false_eq_true, if_false]

end Sys2Proof.Machine
end

section

open Sys2Proof Sys2Proof.Machine Sys2Proof.Safety

/-- Settles O36: DISCARD drops its lines one by one (`dropLines_dropped`); TPPROBE's word by its fields. -/
theorem tidepoolForms : Obligations.TidepoolForms := by
  unfold Obligations.TidepoolForms
  refine ⟨?_, ?_⟩
  · intro f s u pa a n ha hn hp hpa hin ht hm hu
    exact ⟨_, discard_eq ha rfl hn hp, discarded_spec _ hpa hn hin ht hm hu⟩
  · intro f s u pa e hx hb b x p
    refine ⟨fun hin => ?_, fun hin hframe => ⟨tideWord x, ?_, ?_⟩⟩
    · have he := tpprobe_eq hx hb
      rw [if_neg (by rw [hin]; decide)] at he
      exact ⟨_, he, scalarStep_of b f.sd 0 p⟩
    · have he := tpprobe_eq hx hb
      rw [if_pos hin] at he
      exact ⟨_, he, scalarStep_of b f.sd (tideWord x) p⟩
    · obtain ⟨hvalid, hres, hd, hpol, hback, hgen, hdie⟩ := tideWord_fields x
      refine ⟨hvalid, hres.trans (isBacked_eq x), hd, hpol, ?_, hgen, hdie.trans ?_⟩
      · rw [hback, hres, Bool.not_not]
      · rw [hframe]
        omega

end

section
/-! SUPPORT. Writes of control registers: what each register takes, and what reads as before (R68-R70, R86, R101, R411, R473, R474). -/

namespace Sys2Proof.Machine

open Sys2Proof.Safety

/-! ### What reading a control register depends on -/

/-- Completion changes INSTRET alone of what a control register reads. -/
theorem csrRead_retire {m : Nat} (h : m ≠ 0x014) (s : State) : csrRead m (retire s) = csrRead m s := by
  unfold csrRead
  split
  case h_18 => exact absurd rfl h
  all_goals rfl

/-- A register's set is no part of what it reads as. -/
theorem csrRead_setCsrPv (m n : Nat) (p : PvSet) (s : State) : csrRead m (s.mapHart (·.setCsrPv n p)) = csrRead m s := rfl

/-- Scalar registers are no part of what a control register reads as. -/
theorem csrRead_setS (m : Nat) (r : BitVec 5) (v : Word) (p : PvSet) (s : State) : csrRead m (s.setS r v p) = csrRead m s := by
  have h : s.setS r v p = s.mapHart fun h => { h with s := (h.setS r v p).s, sp := (h.setS r v p).sp } :=
    congrArg (fun h => { s with hart := h }) (Hart.setS_eq s.hart r v p)
  rw [h]
  rfl

/-- What of the package a clk goes by, and the memory system leaves alone: its number, CLK, the slots granted, and how many other hart
contexts are listed. -/
def State.clock (s : State) : Nat × Word × List HartId × List HartId × Nat := (s.pkg, s.clk, s.grants, s.vgrants, s.harts.length)

/-- A state that agrees in the clock and in what accesses keep reads as before. -/
theorem csrRead_of_kept {s t : State} (hk : t.kept = s.kept) (hc : t.clock = s.clock) (m : Nat) : csrRead m t = csrRead m s := by
  have hh : t.hart.bare = s.hart.bare := congrArg Kept.hart hk
  have hcsr : t.hart.csr = s.hart.csr := (congrArg (·.csr) hh :)
  have hctx : t.hart.ctx = s.hart.ctx := (congrArg (·.ctx) hh :)
  have hlanes : t.hart.laneN = s.hart.laneN := (congrArg (·.laneN) hh :)
  have hcore : t.hart.core = s.hart.core := (congrArg (·.core) hh :)
  have hix : t.hart.ix = s.hart.ix := (congrArg (·.ix) hh :)
  have hmode : t.hart.mode = s.hart.mode := (congrArg (·.mode) hh :)
  have hlevel : t.core.level = s.core.level := (congrArg (fun k : Kept => k.core.level) hk :)
  have hparts : t.parts = s.parts := congrArg Kept.parts hk
  have hpkg : t.pkg = s.pkg := congrArg Prod.fst hc
  have hclk : t.clk = s.clk := (congrArg (·.2.1) hc :)
  simp only [csrRead, State.vstat, State.hartid, State.roster, State.selPart, State.partNum, State.part, State.partOfCore,
    hcsr, hctx, hlanes, hcore, hix, hmode, hlevel, hparts, hpkg, hclk]

/-! ### The effect of a write -/

/-- A step changed control register `n`, and of those in `except_` what it may: every other one reads as before, and so do the other
registers of the hart and its progress. -/
structure CsrTook (n : Nat) (except_ : List Nat) (s t : State) : Prop where
  csrs : ∀ m, m ≠ n → m ∉ except_ → csrRead m t = csrRead m s
  scalar : t.hart.s = s.hart.s ∧ t.hart.sp = s.hart.sp
  vec : t.hart.vec = s.hart.vec
  going : t.hart.going = s.hart.going

/-- Register `n` was written with a value and a set. -/
structure CsrTakes (n : Nat) (except_ : List Nat) (w : Word) (p : PvSet) (s t : State) : Prop where
  took : CsrTook n except_ s t
  value : csrRead n t = w
  set : csrReadPv n t = p

/-- The set of a register that keeps its own. -/
theorem csrReadPv_setCsrPv {n : Nat} (h0 : n ≠ 0x200) (h5 : n ≠ 0x205) (p : PvSet) (s : State) :
    csrReadPv n (s.mapHart (·.setCsrPv n p)) = p := by
  unfold csrReadPv
  split
  · exact absurd rfl h0
  · exact absurd rfl h5
  · exact Hart.csrPv_setCsrPv_same s.hart n p

/-- A write followed by the write of the register's set. -/
theorem CsrTook.withSet {n : Nat} {l : List Nat} {s t : State} {w : Word} (h : CsrTook n l s t) (hv : csrRead n t = w)
    (h0 : n ≠ 0x200) (h5 : n ≠ 0x205) (p : PvSet) : CsrTakes n l w p s (t.mapHart (·.setCsrPv n p)) :=
  ⟨⟨fun m hm hl => h.csrs m hm hl, h.scalar, h.vec, h.going⟩, hv, csrReadPv_setCsrPv h0 h5 p t⟩

theorem CsrTakes.csrOnly {n : Nat} {w : Word} {p : PvSet} {s t : State} (h : CsrTakes n [] w p s t) (hm : t.mem = s.mem) : CsrOnly n s t := by
  have hg := h.took.going
  simp only [Hart.going, Prod.mk.injEq] at hg
  obtain ⟨-, hpc, -, hmode, -⟩ := hg
  exact ⟨fun m hn => h.took.csrs m hn List.not_mem_nil, h.took.scalar, h.took.vec, ⟨hpc, hmode⟩, hm⟩

/-! ### Registers without behaviour of their own (R70) -/

theorem writePlain_took (n : Nat) (v : Word) (s : State) : CsrTook n [] s (writePlain n v s) := by
  refine ⟨fun m h _ => ?_, ⟨rfl, rfl⟩, rfl, ?_⟩
  · -- register by register: each write changes one field, which no other register reads
    unfold writePlain State.mapCsr State.mapHart
    dsimp only
    split
    case h_2 => split <;> [rfl; (unfold csrRead; split <;> first | rfl | exact absurd rfl h)]
    case h_7 => split <;> [rfl; (unfold csrRead; split <;> first | rfl | exact absurd rfl h)]
    all_goals
      unfold csrRead
      split <;> first | rfl | exact absurd rfl h
  · unfold writePlain State.mapCsr State.mapHart
    dsimp only
    split
    case h_2 => split <;> rfl
    case h_7 => split <;> rfl
    all_goals rfl

/-- The plain registers whose write is masked, with their masks (R70, R410). -/
def plainMasks : List (Nat × Word) :=
  [(0x003, 0x3F), (0x005, 0xFFFFFFFFFFFFFFFF), (0x006, 7), (0x007, 0xFFFFFFFFFFFFFFFF),
   (0x00A, 0xFFFFFFFFFFFFFFFF), (0x100, 0xFF), (0x101, 0xFFFFFFFFFFFFFFFF), (0x102, 0xFFFFFFFFFFFFFFFF), (0x104, 0xFFFFFFFFFFFFFFF8),
   (0x105, 0xFFFFFFFFFFFFFFFF), (0x106, 0xFFFFFFFFFFFFF000), (0x201, 0xFF), (0x202, 0xFFFFFFFFFFFFFFFF), (0x203, 0xFFFFFFFFFFFFFFFF)]

/-- The low bits of a word, as a mask. -/
theorem extract_low_eq_and (v : Word) {k : Nat} (hk : k ≤ 64) : (v.extractLsb' 0 k).zeroExtend 64 = v &&& BitVec.ofNat 64 (2 ^ k - 1) := by
  have hpow : 2 ^ k ≤ 2 ^ 64 := Nat.pow_le_pow_right (by decide) hk
  have hpos : 0 < 2 ^ k := Nat.two_pow_pos k
  refine BitVec.eq_of_toNat_eq ?_
  rw [BitVec.toNat_and, BitVec.toNat_ofNat, Nat.mod_eq_of_lt (a := 2 ^ k - 1) (by omega), Nat.and_two_pow_sub_one_eq_mod]
  simp only [BitVec.truncate_eq_setWidth, BitVec.toNat_setWidth, BitVec.extractLsb'_toNat, Nat.shiftRight_zero]
  exact Nat.mod_eq_of_lt ((Nat.mod_lt _ hpos).trans_le hpow)

theorem and_all (v : Word) : v = v &&& 0xFFFFFFFFFFFFFFFF := (BitVec.and_allOnes (x := v)).symm

/-- A plain register takes the bits that its mask lets through. -/
theorem csrRead_writePlain {n : Nat} {mask : Word} (h : (n, mask) ∈ plainMasks) (v : Word) (s : State) :
    csrRead n (writePlain n v s) = v &&& mask := by
  simp only [plainMasks, List.mem_cons, Prod.mk.injEq, List.not_mem_nil, or_false] at h
  rcases h with ⟨rfl, rfl⟩ | ⟨rfl, rfl⟩ | ⟨rfl, rfl⟩ | ⟨rfl, rfl⟩ | ⟨rfl, rfl⟩ | ⟨rfl, rfl⟩ | ⟨rfl, rfl⟩ | ⟨rfl, rfl⟩ | ⟨rfl, rfl⟩ |
    ⟨rfl, rfl⟩ | ⟨rfl, rfl⟩ | ⟨rfl, rfl⟩ | ⟨rfl, rfl⟩ | ⟨rfl, rfl⟩
  case inl => exact extract_low_eq_and v (by decide)
  case inr.inr.inl => exact extract_low_eq_and v (by decide)
  all_goals first | rfl | exact and_all v

/-- FRM keeps its value when the new one is 6 or 7. -/
theorem csrRead_writeFrm (v : Word) (s : State) :
    csrRead 0x004 (writePlain 0x004 v s) = if 6 ≤ v.toNat % 8 then csrRead 0x004 s else v &&& 7 := by
  have hn : (v.extractLsb' 0 3).toNat = v.toNat % 8 := by simp
  show ((if 6 ≤ (v.extractLsb' 0 3).toNat then s.hart.csr else { s.hart.csr with frm := v.extractLsb' 0 3 } : Csrs).frm).zeroExtend 64 = _
  rw [hn]
  split
  · rfl
  · exact extract_low_eq_and v (by decide)

/-- TPLOST is cleared by a write with bit 0 clear. -/
theorem csrRead_writeTplost (v : Word) (s : State) :
    csrRead 0x00B (writePlain 0x00B v s) = if v.getLsbD 0 = true then csrRead 0x00B s else 0 := by
  show ofBool (if v.getLsbD 0 = true then s.hart.csr else { s.hart.csr with tplost := false } : Csrs).tplost = _
  split <;> rfl

/-! ### The status registers (R411) -/

/-- TRAPSTATUS or HTRAPSTATUS, by number. -/
def statusNum (hyp : Bool) : Nat := if hyp then 0x204 else 0x103

theorem writeStatus_took (hyp : Bool) (v : Word) (s : State) : CsrTook (statusNum hyp) [] s (writeStatus hyp v s) := by
  refine ⟨fun m h _ => ?_, by cases hyp <;> exact ⟨rfl, rfl⟩, by cases hyp <;> rfl, by cases hyp <;> rfl⟩
  unfold csrRead
  cases hyp with
  | false =>
    split
    case h_23 => exact absurd rfl h
    all_goals rfl
  | true =>
    split
    case h_32 => exact absurd rfl h
    all_goals rfl

theorem csrRead_writeStatus (hyp : Bool) (v : Word) (s : State) :
    csrRead (statusNum hyp) (writeStatus hyp v s) =
      statusWrite hyp (s.hart.mode == .hypervisor) (csrRead (statusNum hyp) s) v := by
  cases hyp <;> rfl

theorem extract_two_eq_iff (v : Word) {k : Nat} (hk : k < 4) : v.extractLsb' 0 2 = BitVec.ofNat 2 k ↔ v.toNat % 4 = k := by
  rw [← BitVec.toNat_inj, BitVec.extractLsb'_toNat, BitVec.toNat_ofNat, Nat.shiftRight_zero]
  omega

/-- The PM field that a write of a status register may not take. -/
def pmRefused (hyp byHyp : Bool) (v : Word) : Prop := v.toNat % 4 = 3 ∨ hyp = false ∧ byHyp = false ∧ v.toNat % 4 = 2

theorem statusWrite_eq (hyp byHyp : Bool) (old v : Word) : ∃ pm, statusWrite hyp byHyp old v = (v &&& 0xF0FF18) ||| (old &&& 4) ||| pm &&& 3 ∧
    (pmRefused hyp byHyp v → pm = old) ∧ (¬ pmRefused hyp byHyp v → pm = v) := by
  have hiff : ((v.extractLsb' 0 2 == 3) || (!hyp && !byHyp && v.extractLsb' 0 2 == 2)) = true ↔ pmRefused hyp byHyp v := by
    simp only [Bool.or_eq_true, Bool.and_eq_true, beq_iff_eq, Bool.not_eq_true', pmRefused, and_assoc,
      show v.extractLsb' 0 2 = 3 ↔ _ from extract_two_eq_iff v (k := 3) (by decide),
      show v.extractLsb' 0 2 = 2 ↔ _ from extract_two_eq_iff v (k := 2) (by decide)]
  unfold statusWrite
  dsimp only
  by_cases h : pmRefused hyp byHyp v
  · rw [if_pos (hiff.2 h)]
    exact ⟨old, rfl, fun _ => rfl, fun hn => absurd h hn⟩
  · rw [if_neg (fun hc => h (hiff.1 hc))]
    exact ⟨v, rfl, fun hr => absurd hr h, fun _ => rfl⟩

/-! ### EVTIMER, EVADDR, PVCTX and PARTID (R86, R101, R473) -/

theorem writeEvtimer_took (v : Word) (s : State) : CsrTook 0x107 [] s (writeEvtimer v s) := by
  refine ⟨fun m h _ => ?_, ⟨rfl, rfl⟩, rfl, rfl⟩
  unfold csrRead
  split
  case h_27 => exact absurd rfl h
  all_goals rfl

/-- A hart that watches a line, or none. -/
def watchLineAt (v : Word) (line : Option Nat) (s : State) : State := s.mapCsr fun c => { c with evaddr := v, evline := line }

theorem watchLineAt_took (v : Word) (line : Option Nat) (s : State) : CsrTook 0x00D [] s (watchLineAt v line s) := by
  refine ⟨fun m h _ => ?_, ⟨rfl, rfl⟩, rfl, rfl⟩
  unfold csrRead
  split
  case h_13 => exact absurd rfl h
  all_goals rfl

theorem writeEvaddr_zero (s : State) : writeEvaddr 0 s = .ok (watchLineAt 0 none s) := rfl
theorem writeEvaddr_ok {v : Word} {s u : State} {pa : Nat} {e : TlbEntry} (hv : v ≠ 0) (hx : xlat v .read s = .ok (pa, e, u)) :
    writeEvaddr v s = .ok (watchLineAt v (some (pa / 128)) u) := by
  simp only [writeEvaddr, beq_iff_eq, hv, if_false, hx]
  rfl
theorem writeEvaddr_error {v : Word} {s : State} {e : WalkErr} (hv : v ≠ 0) (hx : xlat v .read s = .error e) :
    writeEvaddr v s = .error (walkTrap v 2 e) := by
  simp only [writeEvaddr, beq_iff_eq, hv, if_false, hx]

/-- A hart with a context set. -/
def withCtx (c : PvSet) (s : State) : State := s.mapHart fun h => { h with ctx := c }

theorem withCtx_took (c : PvSet) (s : State) : CsrTook 0x00C [] s (withCtx c s) := by
  refine ⟨fun m h _ => ?_, ⟨rfl, rfl⟩, rfl, rfl⟩
  unfold csrRead
  split
  case h_12 => exact absurd rfl h
  all_goals rfl

theorem writePvctx_ok {v info : Word} {s : State} (h : v.toNat % 2 ^ 16 < 2 ^ s.roster) :
    writePvctx v info s = .ok (withCtx (v.extractLsb' 0 16) s) := by
  have h0 : (v.extractLsb' 0 16).toNat / 2 ^ s.roster = 0 := by
    rw [BitVec.extractLsb'_toNat, Nat.shiftRight_zero]
    exact Nat.div_eq_of_lt h
  unfold writePvctx
  dsimp only
  rw [h0]
  rfl
theorem writePvctx_error {v info : Word} {s : State} (h : 2 ^ s.roster ≤ v.toNat % 2 ^ 16) :
    writePvctx v info s = .error ⟨9, info, 2, 0⟩ := by
  have h0 : (v.extractLsb' 0 16).toNat / 2 ^ s.roster ≠ 0 := by
    rw [BitVec.extractLsb'_toNat, Nat.shiftRight_zero]
    exact (Nat.div_pos h (Nat.two_pow_pos _)).ne'
  unfold writePvctx
  dsimp only
  rw [if_pos (bne_iff_ne.2 h0)]

theorem writePartid_eq (v : Word) (s : State) : writePartid v s =
    s.mapCsr fun c => { c with partSel := if (findBy Part.num v.toNat s.parts).isSome = true then v.toNat else s.hart.csr.partSel } := by
  unfold writePartid
  split <;> rfl

/-- PARTID changes what HFMASK and HTVEC select. -/
theorem writePartid_took (v : Word) (s : State) : CsrTook 0x206 [0x200, 0x205] s (writePartid v s) := by
  rw [writePartid_eq]
  refine ⟨fun m h hl => ?_, ⟨rfl, rfl⟩, rfl, rfl⟩
  simp only [List.mem_cons, List.not_mem_nil, or_false, not_or] at hl
  obtain ⟨h200, h205⟩ := hl
  generalize (if (findBy Part.num v.toNat s.parts).isSome = true then v.toNat else s.hart.csr.partSel) = k
  unfold csrRead
  split
  case h_28 => exact absurd rfl h200
  case h_33 => exact absurd rfl h205
  case h_34 => exact absurd rfl h
  all_goals rfl

/-- In hypervisor mode PARTID reads as the selector. -/
theorem csrRead_partid {s : State} (hm : s.hart.mode = .hypervisor) : csrRead 0x206 s = BitVec.ofNat 64 s.hart.csr.partSel := by
  have hb : (s.hart.mode == .hypervisor) = true := by rw [hm]; rfl
  exact congrArg (BitVec.ofNat 64) (if_pos hb)

theorem csrRead_writePartid {s : State} (hm : s.hart.mode = .hypervisor) (v : Word) :
    csrRead 0x206 (writePartid v s) = if (findBy Part.num v.toNat s.parts).isSome = true then v else csrRead 0x206 s := by
  have hp : (writePartid v s).hart.csr.partSel = if (findBy Part.num v.toNat s.parts).isSome = true then v.toNat else s.hart.csr.partSel := by
    rw [writePartid_eq]
    rfl
  have hm' : (writePartid v s).hart.mode = .hypervisor := by
    rw [writePartid_eq]
    exact hm
  rw [csrRead_partid hm', csrRead_partid hm, hp]
  split
  · exact (BitVec.ofNat_toNat 64 v).trans (BitVec.setWidth_eq v)
  · rfl

/-! ### HFMASK and HTVEC of the selected partition (R473, R474) -/

/-- A partition's record in place of its old one. -/
def putPart (q : Part) (s : State) : State := { s with parts := putBy Part.num q s.parts }

/-- The selected partition, once written. -/
theorem selPart_putPart {q r : Part} {s : State} (hs : s.selPart = some q) (hr : r.num = q.num) : (putPart r s).selPart = some r := by
  have hq : q.num = s.hart.csr.partSel := findBy_key hs
  show findBy Part.num s.hart.csr.partSel (putBy Part.num r s.parts) = some r
  rw [← hq, ← hr]
  exact findBy_putBy_same ..

theorem writeHfmask_some {v : Word} {p : PvSet} {q : Part} {s : State} (hs : s.selPart = some q) :
    writeHfmask v p s = putPart { q with hfmask := v.extractLsb' 0 7, hfmaskPv := p } s := by
  simp only [writeHfmask, hs]
  rfl
theorem writeHtvec_some {v : Word} {p : PvSet} {q : Part} {s : State} (hs : s.selPart = some q) :
    writeHtvec v p s = putPart { q with htvec := v &&& ~~~7, htvecPv := p } s := by
  simp only [writeHtvec, hs]
  rfl
theorem writeHfmask_none {v : Word} {p : PvSet} {s : State} (hs : s.selPart = none) : writeHfmask v p s = s := by
  simp only [writeHfmask, hs]
theorem writeHtvec_none {v : Word} {p : PvSet} {s : State} (hs : s.selPart = none) : writeHtvec v p s = s := by
  simp only [writeHtvec, hs]

/-- Neither write touches the hart or memory. -/
theorem writeHfmask_hart (v : Word) (p : PvSet) (s : State) : (writeHfmask v p s).hart = s.hart ∧ (writeHfmask v p s).mem = s.mem := by
  unfold writeHfmask; split <;> exact ⟨rfl, rfl⟩
theorem writeHtvec_hart (v : Word) (p : PvSet) (s : State) : (writeHtvec v p s).hart = s.hart ∧ (writeHtvec v p s).mem = s.mem := by
  unfold writeHtvec; split <;> exact ⟨rfl, rfl⟩

/-- A partition's record reaches HFMASK, HTVEC, ROSTER and what a hart below the hypervisor reads of PARTID. -/
theorem csrRead_putPart {m : Nat} (q : Part) {s : State} (hm : s.hart.mode = .hypervisor) (h200 : m ≠ 0x200) (h205 : m ≠ 0x205) (h15 : m ≠ 0x015) :
    csrRead m (putPart q s) = csrRead m s := by
  by_cases h206 : m = 0x206
  · rw [h206, csrRead_partid hm, csrRead_partid (s := putPart q s) hm]
    rfl
  unfold csrRead
  split
  case h_19 => exact absurd rfl h15
  case h_28 => exact absurd rfl h200
  case h_33 => exact absurd rfl h205
  case h_34 => exact absurd rfl h206
  all_goals rfl

theorem csrRead_hfmask {q : Part} {s : State} (h : s.selPart = some q) :
    csrRead 0x200 s = q.hfmask.zeroExtend 64 ∧ csrReadPv 0x200 s = q.hfmaskPv := by
  simp only [csrRead, csrReadPv, h, and_self]
theorem csrRead_htvec {q : Part} {s : State} (h : s.selPart = some q) : csrRead 0x205 s = q.htvec ∧ csrReadPv 0x205 s = q.htvecPv := by
  simp only [csrRead, csrReadPv, h, and_self]

/-- HFMASK reaches the selected partition, and no other control register but ROSTER. -/
theorem writeHfmask_took (v : Word) (p : PvSet) {s : State} (hm : s.hart.mode = .hypervisor) : CsrTook 0x200 [0x015] s (writeHfmask v p s) := by
  cases hs : s.selPart with
  | none => rw [writeHfmask_none hs]; exact ⟨fun _ _ _ => rfl, ⟨rfl, rfl⟩, rfl, rfl⟩
  | some q =>
    rw [writeHfmask_some hs]
    refine ⟨fun m h hl => ?_, ⟨rfl, rfl⟩, rfl, rfl⟩
    by_cases h205 : m = 0x205
    · rw [h205, (csrRead_htvec (selPart_putPart hs (by rfl))).1, (csrRead_htvec hs).1]
    · exact csrRead_putPart _ hm h h205 (List.ne_of_not_mem_cons hl)

/-- HTVEC reaches the selected partition, and no other control register but ROSTER. -/
theorem writeHtvec_took (v : Word) (p : PvSet) {s : State} (hm : s.hart.mode = .hypervisor) : CsrTook 0x205 [0x015] s (writeHtvec v p s) := by
  cases hs : s.selPart with
  | none => rw [writeHtvec_none hs]; exact ⟨fun _ _ _ => rfl, ⟨rfl, rfl⟩, rfl, rfl⟩
  | some q =>
    rw [writeHtvec_some hs]
    refine ⟨fun m h hl => ?_, ⟨rfl, rfl⟩, rfl, rfl⟩
    by_cases h200 : m = 0x200
    · rw [h200, (csrRead_hfmask (selPart_putPart hs (by rfl))).1, (csrRead_hfmask hs).1]
    · exact csrRead_putPart _ hm h200 h (List.ne_of_not_mem_cons hl)

/-- What the selected partition reads after a write of HFMASK or HTVEC. -/
theorem csrRead_writeHfmask {v : Word} {p : PvSet} {q : Part} {s : State} (hs : s.selPart = some q) :
    csrRead 0x200 (writeHfmask v p s) = v &&& 0x7F ∧ csrReadPv 0x200 (writeHfmask v p s) = p := by
  rw [writeHfmask_some hs]
  obtain ⟨hv, hp⟩ := csrRead_hfmask (selPart_putPart hs (r := { q with hfmask := v.extractLsb' 0 7, hfmaskPv := p }) rfl)
  exact ⟨hv.trans (extract_low_eq_and v (by decide)), hp⟩
theorem csrRead_writeHtvec {v : Word} {p : PvSet} {q : Part} {s : State} (hs : s.selPart = some q) :
    csrRead 0x205 (writeHtvec v p s) = v &&& ~~~7 ∧ csrReadPv 0x205 (writeHtvec v p s) = p := by
  rw [writeHtvec_some hs]
  exact csrRead_htvec (selPart_putPart hs (r := { q with htvec := v &&& ~~~7, htvecPv := p }) rfl)

end Sys2Proof.Machine
end

section
/-! SUPPORT. What accesses leave of the clock and the event flag, and the CSR forms that write (R69, R86, R87). -/

namespace Sys2Proof.Machine

open Sys2Proof.Safety

/-! ### Accesses leave the clock, and clear no event flag -/

/-- From `s` to `t` the memory system has worked for a hart: the clock stands, and no event flag is lost. -/
structure Calm (s t : State) : Prop where
  clock : t.clock = s.clock
  event : s.hart.event = true → t.hart.event = true

namespace Calm

theorem refl (s : State) : Calm s s := ⟨rfl, id⟩
theorem trans {s t u : State} (h : Calm s t) (k : Calm t u) : Calm s u := ⟨k.clock.trans h.clock, fun e => k.event (h.event e)⟩
theorem ite {c : Prop} [Decidable c] {s t u : State} (ht : Calm s t) (hu : Calm s u) : Calm s (if c then t else u) := by
  split <;> assumption

theorem forRange {f : Nat → State → State} (hf : ∀ l s, Calm s (f l s)) (lo n : Nat) (s : State) : Calm s (forRange f lo n s) := by
  induction n generalizing lo s with
  | zero => exact refl s
  | succ n ih => exact (hf lo s).trans (ih (lo + 1) _)

/-- A change of every hart that clears no event flag. -/
theorem mapHarts {f : Hart → Hart} (hf : ∀ h, h.event = true → (f h).event = true) (s : State) : Calm s (s.mapHarts f) :=
  ⟨by simp only [State.clock, State.mapHarts, List.length_map], hf s.hart⟩

theorem focusCore (n : Nat) (s : State) : Calm s (focusCore n s) := by
  obtain ⟨l, h⟩ := focusCore_eq n s; rw [h]; exact ⟨rfl, id⟩

theorem onCore (n : Nat) {f : State → State} (hf : ∀ u, Calm u (f u)) (s : State) : Calm s (onCore n f s) :=
  ((focusCore n s).trans (hf _)).trans (focusCore _ _)

theorem evictCopies (p : Copy → Bool) (s : State) : Calm s (evictCopies p s) := by
  obtain ⟨x, y, h⟩ := evictCopies_eq p s; rw [h]; exact ⟨rfl, id⟩

theorem setTide (t : TideFrame) (s : State) : Calm s (s.setTide t) := ⟨rfl, id⟩
theorem clearPoison (pa n : Nat) (s : State) : Calm s (clearPoison pa n s) := ⟨rfl, id⟩
theorem mapCore (f : Core → Core) (s : State) : Calm s (s.mapCore f) := ⟨rfl, id⟩
theorem mapCores (f : Core → Core) (s : State) : Calm s (s.mapCores f) := ⟨rfl, id⟩
theorem setProv (w : ProvWord) (s : State) : Calm s (s.setProv w) := ⟨rfl, id⟩
theorem homeSector (w : Option Nat) (n : Nat) (s : State) : Calm s (homeSector w n s) := ⟨rfl, id⟩

theorem strikeFrame (frame : Nat) (p : PvSet) (s : State) : Calm s (strikeFrame frame p s) :=
  ⟨by simp only [State.clock, Machine.strikeFrame, strikeSectors, State.mapHarts, List.length_map], id⟩

theorem holdLines (pa n : Nat) (s : State) : Calm s (holdLines pa n s) := by
  unfold Machine.holdLines
  split
  · refine forRange (fun l s => ?_) _ _ s
    dsimp only
    split
    · exact refl s
    · refine trans ?_ (setTide _ _)
      exact ite (refl s) (onCore _ (evictCopies _) s)
  · exact refl s

theorem unzero (pa n : Nat) (s : State) : Calm s (unzero pa n s) := by
  unfold Machine.unzero
  split
  · exact refl s
  · refine forRange (fun l s => ?_) _ _ s
    exact ite ⟨rfl, id⟩ (refl s)

theorem landBytes (pa : Nat) (b : List Byte) (s : State) : Calm s (landBytes pa b s) := by
  induction b generalizing pa s with
  | nil => exact refl s
  | cons v b ih =>
    have h := ih (pa + 1) { s with mem := memWrite (s.place pa) v s.mem }
    exact ⟨h.clock, h.event⟩

theorem startClear (pa : Nat) (s : State) : Calm s (startClear pa s) := by
  rw [startClear_eq]; exact ⟨rfl, id⟩

theorem growCur (pa : Nat) (p : PvSet) (s : State) : Calm s (growCur pa p s) := by
  unfold Machine.growCur
  refine ite (refl s) (ite (refl s) ?_)
  exact ((setProv _ s).trans (mapCores _ _)).trans (strikeFrame _ _ _)

theorem wakeLine (w : Option HartId) (line : Nat) (s : State) : Calm s (wakeLine w line s) :=
  mapHarts (fun h he => by split <;> [rfl; exact he]) s

theorem storeHome (pa : Nat) (b : List Byte) (p : PvSet) (s : State) : Calm s (storeHome pa b p s) := by
  have hgrow (q : Nat) : Calm s (Machine.growCur q p (Machine.startClear q (Machine.unzero pa b.length s))) :=
    ((unzero _ _ s).trans (startClear _ _)).trans (growCur _ _ _)
  unfold Machine.storeHome
  dsimp only
  refine trans ?_ (forRange (wakeLine none) _ _ _)
  refine trans (trans (trans ?_ (holdLines _ _ _)) (landBytes _ _ _)) (clearPoison _ _ _)
  exact ite (hgrow _) ((hgrow _).trans (forRange (homeSector none) _ _ _))

theorem tlbPut (e : TlbEntry) (u : TlbUnit) (s : State) : Calm s (tlbPut e u s) := by
  unfold Machine.tlbPut
  dsimp only
  split
  · exact ⟨rfl, id⟩
  · split
    · exact ⟨rfl, id⟩
    · exact refl s

theorem tlbFill (v : Via) (va : Nat) (e : TlbEntry) (s : State) : Calm s (tlbFill v va e s) := by
  unfold Machine.tlbFill
  induction v.firsts s.hart.ix va e.bits generalizing s with
  | nil => exact refl s
  | cons u l ih => exact (tlbPut e u s).trans (ih _)

theorem installLeaf (v : Via) (asid va : Nat) (p : Perm) (l : Leaf) (s : State) : Calm s (installLeaf v asid va p l s).1 := by
  unfold Machine.installLeaf
  dsimp only
  refine trans (trans (trans ?_ (mapCore _ _)) (tlbPut _ _ _)) (tlbFill _ _ _ _)
  exact ite (refl s) (storeHome _ _ _ s)

theorem xlatWith {v : Via} {r : Word} {m : Mode} {va : Word} {p : Perm} {s : State} {x : Nat × TlbEntry × State}
    (hx : xlatWith v r m va p s = .ok x) : Calm s x.2.2 := by
  unfold Machine.xlatWith at hx
  dsimp only at hx
  split at hx
  · exact nomatch hx
  split at hx
  · split at hx
    · cases hx
      exact ite (refl s) (tlbFill ..)
    · exact nomatch hx
  split at hx
  · exact nomatch hx
  split at hx
  · exact nomatch hx
  split at hx
  · exact nomatch hx
  · cases hx
    exact installLeaf ..

theorem xlatVia {v : Via} {va : Word} {p : Perm} {s : State} {x : Nat × TlbEntry × State} (hx : xlatVia v va p s = .ok x) :
    Calm s x.2.2 := by
  unfold Machine.xlatVia at hx
  split at hx
  · next e a b t _ hw => cases hx; exact xlatWith (x := (a, b, t)) hw
  · cases hx; exact refl s
  · next e a t hw =>
    cases hx
    refine trans (xlatWith hw) ?_
    unfold keepPin
    exact ite ⟨rfl, id⟩ (refl _)
  · exact nomatch hx

end Calm

/-- Translation changes nothing that a control register reads. -/
theorem xlat_took (n : Nat) {va : Word} {p : Perm} {s u : State} {pa : Nat} {e : TlbEntry} (hx : xlat va p s = .ok (pa, e, u)) :
    CsrTook n [] s u := by
  have hk : u.kept = s.kept := xlatVia_kept hx
  have hh : u.hart.bare = s.hart.bare := congrArg Kept.hart hk
  exact ⟨fun m _ _ => csrRead_of_kept hk (Calm.xlatVia hx).clock m, ⟨(congrArg (·.s) hh :), (congrArg (·.sp) hh :)⟩, (congrArg (·.vec) hh :),
    going_of_bare hh⟩

theorem CsrTook.trans {n : Nat} {l : List Nat} {s t u : State} (h : CsrTook n l s t) (k : CsrTook n l t u) : CsrTook n l s u :=
  ⟨fun m hm hl => (k.csrs m hm hl).trans (h.csrs m hm hl), ⟨k.scalar.1.trans h.scalar.1, k.scalar.2.trans h.scalar.2⟩, k.vec.trans h.vec,
    k.going.trans h.going⟩

/-! ### The forms (R87) -/

/-- The state in which a form writes its register: s[sd] has taken the old value. -/
def csrRead1 (f : IFmt) (s : State) : State :=
  s.setS f.sd (csrRead (f.imm.toNat % 4096) s) (csrReadPv (f.imm.toNat % 4096) s ||| s.ctx)

/-- A form that writes: the old value to s[sd], then the new value to the register, or its trap. -/
theorem csrForm_of_write {i : Instr} {f : IFmt} {new : Word → Word → Word} {s : State}
    (h : csrCheck (f.imm.toNat % 4096) s.hart.mode true = none) : csrForm i f true new s =
      match csrWrite (f.imm.toNat % 4096) (new (csrRead (f.imm.toNat % 4096) s) (s.getS f.sa)) (s.getS f.sa) (s.getP f.sa ||| s.ctx) (csrRead1 f s) with
      | .ok t => retire t
      | .error e => scalarTrap e s := by
  simp only [csrForm, h]
  rfl

/-- The three writing forms of R87, by the value that each offers. -/
def Offers (f : IFmt) (i : Instr) (v : Word) (s : State) : Prop :=
  (i = .csrwr f ∧ v = s.getS f.sa) ∨ (f.sa ≠ 0 ∧ i = .csrset f ∧ v = csrRead (f.imm.toNat % 4096) s ||| s.getS f.sa) ∨
    (f.sa ≠ 0 ∧ i = .csrclr f ∧ v = csrRead (f.imm.toNat % 4096) s &&& ~~~s.getS f.sa)

section

variable {f : IFmt} {i : Instr} {v : Word} {s t : State}

theorem exec_of_offers (h : Offers f i v s) (hc : csrCheck (f.imm.toNat % 4096) s.hart.mode true = none) :
    exec i s = .next (match csrWrite (f.imm.toNat % 4096) v (s.getS f.sa) (s.getP f.sa ||| s.ctx) (csrRead1 f s) with
      | .ok t => retire t
      | .error e => scalarTrap e s) := by
  rcases h with ⟨rfl, rfl⟩ | ⟨h0, rfl, rfl⟩ | ⟨h0, rfl, rfl⟩
  · exact congrArg _ (csrForm_of_write hc)
  · have hb : (f.sa != 0) = true := bne_iff_ne.2 h0
    show Host.Outcome.next (csrForm _ f (f.sa != 0) _ s) = _
    rw [hb, csrForm_of_write hc]
  · have hb : (f.sa != 0) = true := bne_iff_ne.2 h0
    show Host.Outcome.next (csrForm _ f (f.sa != 0) _ s) = _
    rw [hb, csrForm_of_write hc]

/-- The registers that a mode with access writes. -/
def writable : List Nat := plainMasks.map Prod.fst ++ [0x004, 0x00B, 0x103, 0x204, 0x107, 0x00D, 0x200, 0x205, 0x206]

/-- The mode reaches the register's column (R68). -/
def reaches (n : Nat) (m : Mode) : Prop := n < 0x100 ∨ m = .hypervisor ∨ (n < 0x200 ∧ m = .supervisor)

theorem csrCheck_writable {n : Nat} {m : Mode} (hn : n ∈ writable) (hm : reaches n m) : csrCheck n m true = none := by
  unfold reaches at hm
  cases m
  all_goals revert n; decide

theorem csrCheck_pvctx {m : Mode} (hm : m ≠ .user) : csrCheck 0x00C m true = none := by
  cases m
  · exact absurd rfl hm
  all_goals rfl

theorem csrRead1_ctx : (csrRead1 f s).ctx = s.ctx := Hart.setS_ctx ..
theorem csrRead1_mode : (csrRead1 f s).hart.mode = s.hart.mode := Hart.setS_mode ..
theorem csrRead1_event : (csrRead1 f s).hart.event = s.hart.event := Hart.setS_event ..
theorem csrRead1_roster : (csrRead1 f s).roster = s.roster := by
  have hcore : (csrRead1 f s).hart.core = s.hart.core := Hart.setS_core ..
  simp only [State.roster, State.part, State.partOfCore, hcore]
  rfl
theorem csrRead1_selPart : (csrRead1 f s).selPart = s.selPart := by
  have hcsr : (csrRead1 f s).hart.csr = s.hart.csr := Hart.setS_csr ..
  simp only [State.selPart, hcsr]
  rfl

/-- What a completed write leaves of the registers and the hart's progress. -/
theorem did_of_took {n : Nat} {l : List Nat} (h : CsrTook n l (csrRead1 f s) t) :
    Wrote f.sd (csrRead (f.imm.toNat % 4096) s) (csrReadPv (f.imm.toNat % 4096) s ||| s.ctx) s (retire t) ∧ Passed s (retire t) ∧
      (retire t).hart.vec = s.hart.vec ∧ ∀ m, m ≠ n → m ≠ 0x014 → m ∉ l → csrRead m (retire t) = csrRead m s :=
  ⟨wrote_congr (setS_wrote ..) h.scalar.1 h.scalar.2, passed_retire (h.going.trans (setS_going ..)), h.vec.trans (Hart.setS_vec ..),
    fun m hm h14 hl => (csrRead_retire h14 t).trans ((h.csrs m hm hl).trans (csrRead_setS ..))⟩

/-- What the register reads as after a completed write. -/
theorem takes_of_takes {n : Nat} {l : List Nat} {w : Word} {p : PvSet} (h : CsrTakes n l w p (csrRead1 f s) t) (h14 : n ≠ 0x014) :
    csrRead n (retire t) = w ∧ csrReadPv n (retire t) = p := ⟨(csrRead_retire h14 t).trans h.value, h.set⟩

/-- A write that reaches the hart alone. -/
theorem hartOnly_csr (h : t = { csrRead1 f s with hart := t.hart }) (hm : t.hart.going = (csrRead1 f s).hart.going) : HartOnly s (retire t) := by
  have hmode : t.hart.mode = s.hart.mode := (congrArg (fun x : Bool × Word × Word × Mode × Nat × Nat => x.2.2.2.1) hm).trans csrRead1_mode
  refine hartOnly_of_eq ?_ hmode
  rw [h]
  rfl

/-- A completed write of register `n`. -/
theorem exec_written {n : Nat} (hn : f.imm.toNat % 4096 = n) (h : Offers f i v s) (hc : csrCheck n s.hart.mode true = none)
    (hw : csrWrite n v (s.getS f.sa) (s.getP f.sa ||| s.ctx) (csrRead1 f s) = .ok t) : exec i s = .next (retire t) := by
  subst hn
  rw [exec_of_offers h hc, hw]

/-- A write of register `n` that traps. -/
theorem exec_refused {n : Nat} {e : TrapRec} (hn : f.imm.toNat % 4096 = n) (h : Offers f i v s) (hc : csrCheck n s.hart.mode true = none)
    (hw : csrWrite n v (s.getS f.sa) (s.getP f.sa ||| s.ctx) (csrRead1 f s) = .error e) : exec i s = .next (scalarTrap e s) := by
  subst hn
  rw [exec_of_offers h hc, hw]

end

/-! ### The registers, one by one -/

section

variable {n : Nat} {mask v info : Word} {p : PvSet} {s : State}

theorem plainMasks_num (h : (n, mask) ∈ plainMasks) : n ∈ writable ∧ n ≠ 0x200 ∧ n ≠ 0x205 ∧ n ≠ 0x014 := by
  have hall : ∀ x ∈ plainMasks, x.1 ∈ writable ∧ x.1 ≠ 0x200 ∧ x.1 ≠ 0x205 ∧ x.1 ≠ 0x014 := by decide
  exact hall _ h

theorem csrWrite_plain (h : (n, mask) ∈ plainMasks) : csrWrite n v info p s = .ok ((writePlain n v s).mapHart (·.setCsrPv n p)) := by
  simp only [plainMasks, List.mem_cons, Prod.mk.injEq, List.not_mem_nil, or_false] at h
  rcases h with ⟨rfl, -⟩ | ⟨rfl, -⟩ | ⟨rfl, -⟩ | ⟨rfl, -⟩ | ⟨rfl, -⟩ | ⟨rfl, -⟩ | ⟨rfl, -⟩ | ⟨rfl, -⟩ | ⟨rfl, -⟩ | ⟨rfl, -⟩ | ⟨rfl, -⟩ | ⟨rfl, -⟩ |
    ⟨rfl, -⟩ | ⟨rfl, -⟩ <;> rfl

theorem takes_plain (h : (n, mask) ∈ plainMasks) :
    CsrTakes n [] (v &&& mask) p s ((writePlain n v s).mapHart (·.setCsrPv n p)) := by
  obtain ⟨-, h0, h5, -⟩ := plainMasks_num h
  exact (writePlain_took n v s).withSet (csrRead_writePlain h v s) h0 h5 p

/-- A status register's new value, by whether its PM is refused. -/
theorem statusWrite_if (hyp byHyp : Bool) (old v : Word) {c : Prop} [Decidable c] (hc : c ↔ pmRefused hyp byHyp v) :
    statusWrite hyp byHyp old v = (v &&& 0xF0FF18) ||| (old &&& 4) ||| if c then old &&& 3 else v &&& 3 := by
  obtain ⟨pm, he, hold, hnew⟩ := statusWrite_eq hyp byHyp old v
  rw [he]
  split
  · rw [hold (hc.1 ‹c›)]
  · rw [hnew fun h => ‹¬ c› (hc.2 h)]

/-- In a mode that reaches the register, a PM is refused as R411 says. -/
theorem pmRefused_iff {hyp : Bool} {m : Mode} (hn : n = statusNum hyp) (hm : reaches n m) :
    v.toNat % 4 = 3 ∨ (n = 0x103 ∧ m = .supervisor ∧ v.toNat % 4 = 2) ↔ pmRefused hyp (m == .hypervisor) v := by
  subst hn
  unfold pmRefused reaches at *
  cases hyp <;> cases m <;> simp_all [statusNum]

theorem csrWrite_status (hyp : Bool) :
    csrWrite (statusNum hyp) v info p s = .ok ((writeStatus hyp v s).mapHart (·.setCsrPv (statusNum hyp) p)) := by
  cases hyp <;> rfl

theorem takes_status (hyp : Bool) :
    CsrTakes (statusNum hyp) [] (statusWrite hyp (s.hart.mode == .hypervisor) (csrRead (statusNum hyp) s) v) p s
      ((writeStatus hyp v s).mapHart (·.setCsrPv (statusNum hyp) p)) :=
  (writeStatus_took hyp v s).withSet (csrRead_writeStatus hyp v s) (by cases hyp <;> decide) (by cases hyp <;> decide) p

theorem takes_evtimer : CsrTakes 0x107 [] v p s ((writeEvtimer v s).mapHart (·.setCsrPv 0x107 p)) :=
  (writeEvtimer_took v s).withSet rfl (by decide) (by decide) p

theorem takes_evaddr {line : Option Nat} : CsrTakes 0x00D [] v p s ((watchLineAt v line s).mapHart (·.setCsrPv 0x00D p)) :=
  (watchLineAt_took v line s).withSet rfl (by decide) (by decide) p

theorem csrWrite_evaddr_zero : csrWrite 0x00D 0 info p s = .ok ((watchLineAt 0 none s).mapHart (·.setCsrPv 0x00D p)) := rfl
theorem csrWrite_evaddr_ok {u : State} {pa : Nat} {e : TlbEntry} (hv : v ≠ 0) (hx : xlat v .read s = .ok (pa, e, u)) :
    csrWrite 0x00D v info p s = .ok ((watchLineAt v (some (pa / 128)) u).mapHart (·.setCsrPv 0x00D p)) := by
  simp only [csrWrite, writeEvaddr_ok hv hx]
theorem csrWrite_evaddr_error {e : WalkErr} (hv : v ≠ 0) (hx : xlat v .read s = .error e) :
    csrWrite 0x00D v info p s = .error (walkTrap v 2 e) := by
  simp only [csrWrite, writeEvaddr_error hv hx]

theorem csrWrite_pvctx_ok (h : v.toNat % 2 ^ 16 < 2 ^ s.roster) :
    csrWrite 0x00C v info p s = .ok ((withCtx (v.extractLsb' 0 16) s).mapHart (·.setCsrPv 0x00C p)) := by
  simp only [csrWrite, writePvctx_ok h]
theorem csrWrite_pvctx_error (h : 2 ^ s.roster ≤ v.toNat % 2 ^ 16) : csrWrite 0x00C v info p s = .error ⟨9, info, 2, 0⟩ := by
  simp only [csrWrite, writePvctx_error h]

theorem takes_pvctx : CsrTakes 0x00C [] (v &&& 0xFFFF) p s ((withCtx (v.extractLsb' 0 16) s).mapHart (·.setCsrPv 0x00C p)) :=
  (withCtx_took _ s).withSet (extract_low_eq_and v (by decide)) (by decide) (by decide) p

theorem takes_partid (hm : s.hart.mode = .hypervisor) :
    CsrTakes 0x206 [0x200, 0x205] (if (findBy Part.num v.toNat s.parts).isSome = true then v else csrRead 0x206 s) p s
      ((writePartid v s).mapHart (·.setCsrPv 0x206 p)) :=
  (writePartid_took v s).withSet (csrRead_writePartid hm v) (by decide) (by decide) p

end

end Sys2Proof.Machine
end

section

open Sys2Proof Sys2Proof.Machine Sys2Proof.Safety

/-- Settles O23: `csrWrite` register by register, on the state in which s[sd] has taken the old value. -/
theorem controlRegisterWrites : Obligations.ControlRegisterWrites := by
  unfold Obligations.ControlRegisterWrites
  intro f i v s n old a p did takes hi hreach
  have hoffers : Offers f i v s := hi
  have hread (m : Nat) : csrRead m (csrRead1 f s) = csrRead m s := csrRead_setS ..
  have hwrites {k : Nat} (hk : n = k) (hn : k ∈ writable) : csrCheck k s.hart.mode true = none := csrCheck_writable hn (hk ▸ hreach)
  -- a completed write, in the terms of the statement
  have written {k : Nat} {l : List Nat} {t : State} (hk : n = k) (hc : csrCheck k s.hart.mode true = none)
      (hw : csrWrite k v a p (csrRead1 f s) = .ok t) (ht : CsrTook k l (csrRead1 f s) t) : exec i s = .next (retire t) ∧ did l (retire t) := by
    subst hk
    exact ⟨exec_written rfl hoffers hc hw, did_of_took ht⟩
  have taken {k : Nat} {l : List Nat} {t : State} {w : Word} (hk : n = k) (h14 : k ≠ 0x014) (ht : CsrTakes k l w p (csrRead1 f s) t) :
      takes w (retire t) := by
    subst hk
    exact takes_of_takes ht h14
  -- one of the hart alone that keeps ctx
  have own {k : Nat} {l : List Nat} {t : State} {w : Word} (hk : n = k) (hn : k ∈ writable) (h14 : k ≠ 0x014)
      (hw : csrWrite k v a p (csrRead1 f s) = .ok t) (ht : CsrTakes k l w p (csrRead1 f s) t) (hrest : t = { csrRead1 f s with hart := t.hart })
      (hctx : t.ctx = (csrRead1 f s).ctx) :
      exec i s = .next (retire t) ∧ did l (retire t) ∧ takes w (retire t) ∧ (retire t).ctx = s.ctx ∧ HartOnly s (retire t) := by
    obtain ⟨he, hdid⟩ := written hk (hwrites hk hn) hw ht.took
    exact ⟨he, hdid, taken hk h14 ht, hctx.trans csrRead1_ctx, hartOnly_csr hrest ht.took.going⟩
  have hold {k : Nat} (hk : n = k) : csrRead k (csrRead1 f s) = old := (hread k).trans (congrArg (csrRead · s) hk.symm)
  have hhyp (h : 0x200 ≤ n) : (csrRead1 f s).hart.mode = .hypervisor := by
    refine csrRead1_mode.trans ?_
    rcases hreach with hlt | hm | ⟨hlt, -⟩
    · omega
    · exact hm
    · omega
  refine ⟨fun mask hmem => ?_, fun hn => ?_, fun hn => ?_, fun hn => ?_, fun hn hm => ⟨fun hv => ?_, fun hv => ?_⟩, fun hn => ?_,
    fun hn => ⟨fun hv => ?_, fun hv => ?_⟩, fun mask hmem => ?_, fun hn => ?_⟩
  · have hplain : (n, mask) ∈ plainMasks := hmem
    obtain ⟨hn, -, -, h14⟩ := plainMasks_num hplain
    exact ⟨_, own rfl hn h14 (csrWrite_plain hplain) (takes_plain hplain) rfl rfl⟩
  · rw [← hold hn]
    exact ⟨_, own hn (by decide) (by decide) rfl ((writePlain_took _ v _).withSet (csrRead_writeFrm v _) (by decide) (by decide) p) rfl rfl⟩
  · rw [← hold hn]
    exact ⟨_, own hn (by decide) (by decide) rfl ((writePlain_took _ v _).withSet (csrRead_writeTplost v _) (by decide) (by decide) p) rfl rfl⟩
  · obtain ⟨hyp, hk⟩ : ∃ hyp, n = statusNum hyp := hn.elim (fun h => ⟨false, h⟩) (fun h => ⟨true, h⟩)
    have hc : v.toNat % 4 = 3 ∨ (n = 0x103 ∧ s.hart.mode = .supervisor ∧ v.toNat % 4 = 2) ↔
        pmRefused hyp ((csrRead1 f s).hart.mode == .hypervisor) v := by
      rw [csrRead1_mode]
      exact pmRefused_iff hk hreach
    rw [← statusWrite_if hyp _ old v hc, ← hold hk]
    exact ⟨_, own hk (by cases hyp <;> decide) (by cases hyp <;> decide) (csrWrite_status hyp) (takes_status hyp) rfl rfl⟩
  · obtain ⟨he, hdid⟩ := written hn (csrCheck_pvctx hm) (csrWrite_pvctx_ok (by rw [csrRead1_roster]; exact hv)) takes_pvctx.took
    exact ⟨_, he, hdid, taken hn (by decide) takes_pvctx, rfl, hartOnly_csr rfl takes_pvctx.took.going⟩
  · exact exec_refused hn hoffers (csrCheck_pvctx hm) (csrWrite_pvctx_error (by rw [csrRead1_roster]; exact hv))
  · obtain ⟨he, hdid, htakes, hctx, honly⟩ := own (t := (writeEvtimer v (csrRead1 f s)).mapHart (·.setCsrPv 0x107 p)) hn (by decide) (by decide)
      rfl takes_evtimer rfl rfl
    refine ⟨_, he, hdid, htakes, hctx, honly, congrArg (· || (v != 0 && v.ule s.clk)) csrRead1_event, ?_⟩
    show (v != 0 && !(v != 0 && v.ule s.clk)) = _
    cases (v != 0) <;> rfl
  · subst hv
    obtain ⟨he, hdid, htakes, hctx, honly⟩ := own hn (by decide) (by decide) csrWrite_evaddr_zero takes_evaddr rfl rfl
    exact ⟨_, he, hdid, htakes, hctx, rfl, honly⟩
  · show match xlat v .read (csrRead1 f s) with | .ok (pa, _, u) => _ | .error e => _
    cases hx : xlat v .read (csrRead1 f s) with
    | error e => exact exec_refused hn hoffers (hwrites hn (by decide)) (csrWrite_evaddr_error hv hx)
    | ok x =>
      obtain ⟨pa, e, u⟩ := x
      have ht : CsrTakes 0x00D [] v p u ((watchLineAt v (some (pa / 128)) u).mapHart (·.setCsrPv 0x00D p)) := takes_evaddr
      have htook := (xlat_took 0x00D hx).trans ht.took
      have hctx : u.ctx = (csrRead1 f s).ctx := (congrArg (fun k : Kept => k.hart.ctx) (xlatVia_kept hx :) :)
      obtain ⟨he, hdid⟩ := written hn (hwrites hn (by decide)) (csrWrite_evaddr_ok hv hx) htook
      exact ⟨_, he, hdid, taken hn (by decide) ⟨htook, ht.value, ht.set⟩, hctx.trans csrRead1_ctx, rfl, rfl⟩
  · simp only [List.mem_cons, Prod.mk.injEq, List.not_mem_nil, or_false] at hmem
    rcases hmem with ⟨hn, rfl⟩ | ⟨hn, rfl⟩
    · have htook := writeHfmask_took v p (hhyp (by omega))
      obtain ⟨he, hdid⟩ := written hn (hwrites hn (by decide)) rfl htook
      obtain ⟨hhart, hmem⟩ := writeHfmask_hart v p (csrRead1 f s)
      refine ⟨_, he, hdid, fun hsel => ?_, (congrArg Hart.ctx hhart).trans csrRead1_ctx, hmem⟩
      obtain ⟨q, hq⟩ := Option.ne_none_iff_exists'.1 hsel
      obtain ⟨hv, hp⟩ := csrRead_writeHfmask (v := v) (p := p) (csrRead1_selPart.trans hq)
      exact taken hn (by decide) ⟨htook, hv, hp⟩
    · have htook := writeHtvec_took v p (hhyp (by omega))
      obtain ⟨he, hdid⟩ := written hn (hwrites hn (by decide)) rfl htook
      obtain ⟨hhart, hmem⟩ := writeHtvec_hart v p (csrRead1 f s)
      refine ⟨_, he, hdid, fun hsel => ?_, (congrArg Hart.ctx hhart).trans csrRead1_ctx, hmem⟩
      obtain ⟨q, hq⟩ := Option.ne_none_iff_exists'.1 hsel
      obtain ⟨hv, hp⟩ := csrRead_writeHtvec (v := v) (p := p) (csrRead1_selPart.trans hq)
      exact taken hn (by decide) ⟨htook, hv, hp⟩
  · rw [← hold hn]
    obtain ⟨he, hdid, htakes, hctx, honly⟩ := own hn (by decide) (by decide) rfl (takes_partid (v := v) (p := p) (hhyp (by omega)))
      (by rw [writePartid_eq]; rfl) (by rw [writePartid_eq]; rfl)
    exact ⟨_, he, hdid, hctx, honly, htakes⟩

end

section
/-! SUPPORT. Register writes as steps of their own, and writes of BAR0 (R70, R86, R101, R411, R470, R473, R474). -/

namespace Sys2Proof.Machine

open Sys2Proof.Safety

/-! ### A write as a step -/

section

variable {n : Nat} {v : Word} {p : PvSet} {s t : State} {e : TrapRec}

theorem writeStep_ok (h : csrWrite n v v p s = .ok t) : writeStep n v p s = t := by
  simp only [writeStep, h]

/-- A refused write traps at the pc, once the hart's posted work is done. -/
theorem writeStep_error (h : csrWrite n v v p s = .error e) :
    (s.postedDone = true → writeStep n v p s = trapAt e s) ∧
    (s.postedDone = false → writeStep n v p s = { s with hart := { s.hart with deferred := s.hart.deferred ++ [e] } }) := by
  unfold writeStep
  rw [h]
  exact ⟨fun hd => if_pos hd, fun hd => if_neg (by rw [hd]; decide)⟩

end

/-! ### The bits of a status word (R411) -/

/-- The writable fields, FR and PM of a status word stand apart. -/
theorem status_fields (v old pm : Word) :
    let r := (v &&& 0xF0FF18) ||| (old &&& 4) ||| pm &&& 3
    r.extractLsb' 0 2 = pm.extractLsb' 0 2 ∧ r.getLsbD 2 = old.getLsbD 2 ∧ r &&& 0xF0FF18 = v &&& 0xF0FF18 ∧ r &&& ~~~0xF0FF1F = 0 := by
  refine ⟨?_, ?_, ?_, ?_⟩
  · ext i hi
    have h2 : i = 0 ∨ i = 1 := by omega
    rcases h2 with rfl | rfl <;> simp
  · simp
  · rw [BitVec.and_or_distrib_right, BitVec.and_or_distrib_right, BitVec.and_assoc, BitVec.and_assoc, BitVec.and_assoc]
    simp
  · rw [BitVec.and_or_distrib_right, BitVec.and_or_distrib_right, BitVec.and_assoc, BitVec.and_assoc, BitVec.and_assoc]
    simp

/-- What a status register reads as after a write. -/
theorem statusWrite_fields (hyp byHyp : Bool) (old v : Word) :
    let r := statusWrite hyp byHyp old v
    (pmRefused hyp byHyp v → r.extractLsb' 0 2 = old.extractLsb' 0 2) ∧ (¬ pmRefused hyp byHyp v → r.extractLsb' 0 2 = v.extractLsb' 0 2) ∧
      r.getLsbD 2 = old.getLsbD 2 ∧ r &&& 0xF0FF18 = v &&& 0xF0FF18 ∧ r &&& ~~~0xF0FF1F = 0 := by
  obtain ⟨pm, he, hold, hnew⟩ := statusWrite_eq hyp byHyp old v
  obtain ⟨h1, h2, h3, h4⟩ := status_fields v old pm
  rw [he]
  exact ⟨fun h => by rw [h1, hold h], fun h => by rw [h1, hnew h], h2, h3, h4⟩

/-- A PM is refused, as its two bits say. -/
theorem pmRefused_iff_bits (hyp : Bool) (m : Mode) (v : Word) :
    (v.extractLsb' 0 2 = 3 ∨ (hyp = false ∧ m ≠ .hypervisor ∧ v.extractLsb' 0 2 = 2)) ↔ pmRefused hyp (m == .hypervisor) v := by
  rw [show v.extractLsb' 0 2 = 3 ↔ _ from extract_two_eq_iff v (k := 3) (by decide),
    show v.extractLsb' 0 2 = 2 ↔ _ from extract_two_eq_iff v (k := 2) (by decide)]
  unfold pmRefused
  cases m <;> simp

/-! ### BAR0 (R470) -/

section

variable {off : Nat} {v : Word} {s : State}

theorem writeBar0_failed (h : s.boot = .failed) : writeBar0 off v s = s := by
  unfold writeBar0
  rw [if_pos (by rw [h]; rfl)]

theorem boot_ne_failed (h : s.boot ≠ .failed) : ¬ (s.boot == .failed) = true := fun e => h (eq_of_beq e)

theorem writeBar0_tail (h : s.boot ≠ .failed) : writeBar0 0x10 v s = { s with mqTail := v } := by
  unfold writeBar0
  rw [if_neg (boot_ne_failed h), if_pos (by rfl)]

/-- While an entry is outstanding only MQTAIL is written. -/
theorem writeBar0_outstanding (h : s.boot ≠ .failed) (hoff : off ≠ 0x10) (hq : s.mqHead ≠ s.mqTail) : writeBar0 off v s = s := by
  unfold writeBar0
  rw [if_neg (boot_ne_failed h), if_neg (fun e => hoff (eq_of_beq e)), if_pos (bne_iff_ne.2 hq)]

theorem writeBar0_base (h : s.boot ≠ .failed) (hq : s.mqHead = s.mqTail) (h64 : v.toNat % 64 = 0) (hpkg : paPkg v.toNat = s.pkg)
    (hsp : spaceOf (paLocal v.toNat) = .ezmos) : writeBar0 0 v s = { s with mqBase := v.toNat } := by
  unfold writeBar0
  rw [if_neg (boot_ne_failed h), if_neg (by decide), if_neg (by rw [hq]; exact fun e => absurd rfl (bne_iff_ne.1 e)),
    if_pos (by simp [h64, hpkg, hsp])]

/-- A ring holds a power of two of entries, 4,096 at most. -/
theorem writeBar0_size {k : Nat} (h : s.boot ≠ .failed) (hk : k ≤ 12) (hq : s.mqHead = s.mqTail) (hv : v.toNat = 2 ^ k) :
    writeBar0 8 v s = { s with mqSize := v.toNat } := by
  have hpow : ∀ k ≤ 12, isPow2 (2 ^ k) 4096 = true := by decide
  unfold writeBar0
  rw [if_neg (boot_ne_failed h), if_neg (by decide), if_neg (by rw [hq]; exact fun e => absurd rfl (bne_iff_ne.1 e)),
    if_neg (by simp), if_pos (by rw [hv, hpow k hk]; rfl)]

end

/-- A register without behaviour of its own, as a step. -/
theorem plainMasks_access {n : Nat} {mask : Word} (h : (n, mask) ∈ plainMasks) :
    n < 4096 ∧ (csrAccess n).isSome = true := by
  have hall : ∀ x ∈ plainMasks, x.1 < 4096 ∧ (csrAccess x.1).isSome = true := by decide
  exact hall _ h

/-! ### Each register's write as a step -/

section

variable (v : Word) (p : PvSet) (s : State)

theorem evtimerWrite_completes : let due := v ≠ 0 ∧ v.ule s.clk = true
    Completes (.evtimerWrite v p) s (fun t => csrRead 0x107 t = v ∧ csrReadPv 0x107 t = p ∧ CsrOnly 0x107 s t ∧
      (due → t.hart.event = true ∧ t.hart.csr.timerArmed = false) ∧
      (¬ due → t.hart.event = s.hart.event ∧ t.hart.csr.timerArmed = (v != 0))) := by
  intro due
  have ht : CsrTakes 0x107 [] v p s ((writeEvtimer v s).mapHart (·.setCsrPv 0x107 p)) := takes_evtimer
  have hfields (b : Bool) (hb : (v != 0 && v.ule s.clk) = b) :
      (writeEvtimer v s).hart.event = (s.hart.event || b) ∧ (writeEvtimer v s).hart.csr.timerArmed = (v != 0 && !b) := by
    subst hb; exact ⟨rfl, rfl⟩
  refine ⟨_, rfl, ht.value, ht.set, ht.csrOnly rfl, fun hd => ?_, fun hd => ?_⟩
  · obtain ⟨he, ha⟩ := hfields true (by rw [bne_iff_ne.2 hd.1, hd.2]; rfl)
    exact ⟨he.trans (Bool.or_true _), ha.trans (Bool.and_false _)⟩
  · obtain ⟨he, ha⟩ := hfields false (Bool.eq_false_iff.2 fun h => hd (by rwa [Bool.and_eq_true, bne_iff_ne] at h))
    exact ⟨he.trans (Bool.or_false _), ha.trans (Bool.and_true _)⟩

theorem evaddrWrite_zero_completes : Completes (.evaddrWrite 0 p) s (fun t => csrRead 0x00D t = 0 ∧ csrReadPv 0x00D t = p ∧ CsrOnly 0x00D s t ∧
    t.hart.csr.evline = none) := by
  have ht : CsrTakes 0x00D [] 0 p s _ := takes_evaddr (line := none)
  exact ⟨_, congrArg Host.Outcome.next (writeStep_ok csrWrite_evaddr_zero), ht.value, ht.set, ht.csrOnly rfl, rfl⟩

theorem evaddrWrite_completes {v : Word} {s u : State} {pa : Nat} {x : TlbEntry} (hv : v ≠ 0) (hx : xlat v .read s = .ok (pa, x, u)) :
    Completes (.evaddrWrite v p) s (fun t => csrRead 0x00D t = v ∧ csrReadPv 0x00D t = p ∧ CsrOnly 0x00D u t ∧
      t.hart.csr.evline = some (pa / 128)) := by
  have ht : CsrTakes 0x00D [] v p u _ := takes_evaddr (line := some (pa / 128))
  exact ⟨_, congrArg Host.Outcome.next (writeStep_ok (csrWrite_evaddr_ok hv hx)), ht.value, ht.set, ht.csrOnly rfl, rfl⟩

theorem pvctxCsrWrite_completes {v : Word} {s : State} (h : v.toNat % 2 ^ 16 < 2 ^ s.roster) :
    Completes (.pvctxCsrWrite ⟨v, p⟩) s (fun t => t.ctx = v.extractLsb' 0 16 ∧ csrReadPv 0x00C t = p ∧ CsrOnly 0x00C s t) := by
  have ht : CsrTakes 0x00C [] _ p s _ := takes_pvctx (v := v)
  exact ⟨_, congrArg Host.Outcome.next (writeStep_ok (csrWrite_pvctx_ok h)), rfl, ht.set, ht.csrOnly rfl⟩

theorem hfmaskWrite_completes {s : State} {q : Part} (hq : s.selPart = some q) :
    Completes (.hfmaskWrite v p) s (fun t => csrRead 0x200 t = (v.extractLsb' 0 7).zeroExtend 64 ∧ csrReadPv 0x200 t = p ∧
      csrRead 0x205 t = csrRead 0x205 s ∧ t.hart = s.hart ∧ t.mem = s.mem) := by
  obtain ⟨hhart, hmem⟩ := writeHfmask_hart v p s
  obtain ⟨hval, hset⟩ := csrRead_writeHfmask (v := v) (p := p) hq
  refine ⟨_, rfl, hval.trans (extract_low_eq_and v (k := 7) (by decide)).symm, hset, ?_, hhart, hmem⟩
  show csrRead 0x205 (writeHfmask v p s) = _
  rw [writeHfmask_some hq, (csrRead_htvec (selPart_putPart hq (by rfl))).1, (csrRead_htvec hq).1]

theorem htvecWrite_completes {s : State} {q : Part} (hq : s.selPart = some q) :
    Completes (.htvecWrite v p) s (fun t => csrRead 0x205 t = v &&& ~~~7 ∧ csrReadPv 0x205 t = p ∧
      csrRead 0x200 t = csrRead 0x200 s ∧ t.hart = s.hart ∧ t.mem = s.mem) := by
  obtain ⟨hhart, hmem⟩ := writeHtvec_hart v p s
  obtain ⟨hval, hset⟩ := csrRead_writeHtvec (v := v) (p := p) hq
  refine ⟨_, rfl, hval, hset, ?_, hhart, hmem⟩
  show csrRead 0x200 (writeHtvec v p s) = _
  rw [writeHtvec_some hq, (csrRead_hfmask (selPart_putPart hq (by rfl))).1, (csrRead_hfmask hq).1]

theorem partidWrite_completes : Completes (.partidWrite v p) s (fun t => csrReadPv 0x206 t = p ∧ t.mem = s.mem ∧ t.hart.s = s.hart.s ∧
    t.hart.pc = s.hart.pc ∧ t.hart.csr.partSel = if (s.partAt v.toNat).isSome then v.toNat else s.hart.csr.partSel) := by
  refine ⟨_, rfl, csrReadPv_setCsrPv (by decide) (by decide) p (writePartid v s), ?_⟩
  show (writePartid v s).mem = _ ∧ (writePartid v s).hart.s = _ ∧ (writePartid v s).hart.pc = _ ∧ (writePartid v s).hart.csr.partSel = _
  rw [writePartid_eq]
  exact ⟨rfl, rfl, rfl, rfl⟩

theorem trapstatusWrite_completes (hyp : Bool) :
    let n := statusNum hyp
    let old := csrRead n s
    let refused := v.extractLsb' 0 2 = 3 ∨ (hyp = false ∧ s.hart.mode ≠ .hypervisor ∧ v.extractLsb' 0 2 = 2)
    Completes (.trapstatusWrite hyp v p) s (fun t => csrReadPv n t = p ∧ CsrOnly n s t ∧
      (refused → (csrRead n t).extractLsb' 0 2 = old.extractLsb' 0 2) ∧ (¬ refused → (csrRead n t).extractLsb' 0 2 = v.extractLsb' 0 2) ∧
      (csrRead n t).getLsbD 2 = old.getLsbD 2 ∧ csrRead n t &&& 0xF0FF18 = v &&& 0xF0FF18 ∧ csrRead n t &&& ~~~0xF0FF1F = 0) := by
  intro n old refused
  have hstep : exec (.trapstatusWrite hyp v p) s = .next ((writeStatus hyp v s).mapHart (·.setCsrPv n p)) :=
    congrArg Host.Outcome.next (writeStep_ok (csrWrite_status hyp))
  have ht : CsrTakes n [] _ p s _ := takes_status (v := v) hyp
  obtain ⟨hold, hnew, hfr, hmask, hzero⟩ := statusWrite_fields hyp (s.hart.mode == .hypervisor) old v
  rw [← show _ = statusWrite hyp (s.hart.mode == .hypervisor) old v from ht.value] at hold hnew hfr hmask hzero
  have hpm : refused ↔ _ := pmRefused_iff_bits hyp s.hart.mode v
  exact ⟨_, hstep, ht.set, ht.csrOnly rfl, fun h => hold (hpm.1 h), fun h => hnew fun hr => h (hpm.2 hr), hfr, hmask, hzero⟩

theorem registerWrite_plain_completes {n : Nat} {mask : Word} (h : (n, mask) ∈ plainMasks) :
    Completes (.registerWrite (.csr (BitVec.ofNat 12 n)) v p) s (fun t => csrRead n t = v &&& mask ∧ csrReadPv n t = p ∧ CsrOnly n s t) := by
  obtain ⟨hlt, hacc⟩ := plainMasks_access h
  have hn : (BitVec.ofNat 12 n).toNat = n := by rw [BitVec.toNat_ofNat]; exact Nat.mod_eq_of_lt hlt
  have he : exec (.registerWrite (.csr (BitVec.ofNat 12 n)) v p) s = .next (if (csrAccess n).isSome then writeStep n v p s else s) := by
    show Host.Outcome.next (if (csrAccess (BitVec.ofNat 12 n).toNat).isSome then writeStep (BitVec.ofNat 12 n).toNat v p s else s) = _
    rw [hn]
  rw [if_pos hacc, writeStep_ok (csrWrite_plain h)] at he
  have ht : CsrTakes n [] (v &&& mask) p s _ := takes_plain h
  exact ⟨_, he, ht.value, ht.set, ht.csrOnly rfl⟩

/-- A step whose write is refused traps at the pc, once the hart's posted work is done. -/
theorem refused_step {i : Instr} {n : Nat} {e : TrapRec} (hi : exec i s = .next (writeStep n v p s)) (h : csrWrite n v v p s = .error e) :
    (s.postedDone = true → exec i s = .next (trapAt e s)) ∧
    (s.postedDone = false → exec i s = .next { s with hart := { s.hart with deferred := s.hart.deferred ++ [e] } }) := by
  obtain ⟨hdone, hnot⟩ := writeStep_error h
  exact ⟨fun hp => hi.trans (congrArg _ (hdone hp)), fun hp => hi.trans (congrArg _ (hnot hp))⟩

end

end Sys2Proof.Machine
end


section
/-! SUPPORT. Timer and line events, a change of a core's level, and the end of a hart (R85, R86, R90, R91, R98). -/

namespace Sys2Proof.Machine

open Sys2Proof.Safety

/-! ### Events of a hart (R86) -/

theorem focus_clk (i : HartId) (s : State) : (focus i s).clk = s.clk := by
  unfold focus
  obtain ⟨l, h⟩ := focusCore_eq i.core
    (if s.hart.core == i.core && s.hart.ix == i.hart then s
     else { s with hart := s.hartAt i, harts := putBy Hart.key s.hart (eraseBy Hart.key (hidKey i) s.harts) })
  rw [h]
  show State.clk (ite _ _ _) = _
  split <;> rfl

/-- A change of a named hart that reads the clock. -/
theorem onHart_clocked (i : HartId) (g : Word → Hart → Hart) (s : State) :
    onHart i (fun s => s.mapHart (g s.clk)) s = onHart i (fun u => u.mapHart (g s.clk)) s := by
  show focus s.hart.id ((focus i s).mapHart (g (focus i s).clk)) = _
  rw [focus_clk]
  rfl

/-- A timer that is due sets the event flag, once. -/
def Hart.timed (clk : Word) (h : Hart) : Hart :=
  if h.csr.timerArmed && h.csr.evtimer.ule clk then { h with event := true, csr := { h.csr with timerArmed := false } } else h

theorem Hart.timed_id (clk : Word) (h : Hart) : (h.timed clk).id = h.id := by
  unfold Hart.timed; split <;> rfl

theorem Hart.timed_due {clk : Word} {h : Hart} (hd : h.csr.timerArmed = true ∧ h.csr.evtimer.ule clk = true) :
    h.timed clk = { h with event := true, csr := { h.csr with timerArmed := false } } := if_pos (by rw [hd.1, hd.2]; rfl)
theorem Hart.timed_not_due {clk : Word} {h : Hart} (hd : ¬ (h.csr.timerArmed = true ∧ h.csr.evtimer.ule clk = true)) : h.timed clk = h :=
  if_neg (by rw [Bool.and_eq_true]; exact hd)

theorem timerEvent_becomes {who : HartId} {s : State} (hid : (s.hartAt who).id = who) :
    Completes (.timerEvent who) s (HartBecomes who ((s.hartAt who).timed s.clk) s) :=
  ⟨_, congrArg Host.Outcome.next (onHart_clocked who Hart.timed s), onHart_mapHart who (Hart.timed s.clk) s hid ((Hart.timed_id ..).trans hid)⟩

/-- A hart with an address in EVADDR sees its line written. -/
def Hart.lineSeen (h : Hart) : Hart := if h.csr.evaddr != 0 then { h with event := true } else h

theorem evaddrLineWrite_becomes {who : HartId} {s : State} (hid : (s.hartAt who).id = who) :
    Completes (.evaddrLineWrite who) s (HartBecomes who (s.hartAt who).lineSeen s) := by
  have hkeep (h : Hart) : h.lineSeen.id = h.id := by unfold Hart.lineSeen; split <;> rfl
  exact ⟨_, rfl, onHart_mapHart who Hart.lineSeen s hid ((hkeep _).trans hid)⟩

/-! ### Owners of sectors (R328) -/

theorem sectorAt_endOwners (p : Nat → Bool) (s : State) (n : Nat) :
    ((endOwners p s).sectorAt n).owner = if p n then none else (s.sectorAt n).owner := by
  have hf := findBy_map Sector.sector (fun x : Sector => if p x.sector then { x with owner := none, dirty := false } else x)
    (fun x => by split <;> rfl) n s.sectors
  unfold State.sectorAt endOwners
  rw [hf]
  cases h : findBy Sector.sector n s.sectors with
  | none => simp
  | some x =>
    have hx : x.sector = n := findBy_key h
    simp only [Option.map_some, Option.getD_some, hx]
    split <;> rfl

/-- The current core owns no sector of a line that it has given up, and gains none. -/
theorem sectorAt_disown (line : Nat) (s : State) (n : Nat) :
    (n / 4 = line → ((disown line s).sectorAt n).owner ≠ some s.core.num) ∧
    ((s.sectorAt n).owner ≠ some s.core.num → ((disown line s).sectorAt n).owner ≠ some s.core.num) := by
  unfold disown
  rw [sectorAt_endOwners]
  constructor
  · intro hn
    split
    · exact nofun
    · next h => intro ho; exact h (by simp [hn, ho])
  · intro ho
    split
    · exact nofun
    · exact ho

theorem foldl_disown (l : List Copy) (s : State) :
    (∃ x, l.foldl (fun s k => disown k.line s) s = { s with sectors := x }) ∧
    (∀ n, (s.sectorAt n).owner ≠ some s.core.num → ((l.foldl (fun s k => disown k.line s) s).sectorAt n).owner ≠ some s.core.num) ∧
    ∀ k ∈ l, ∀ n, n / 4 = k.line → ((l.foldl (fun s k => disown k.line s) s).sectorAt n).owner ≠ some s.core.num := by
  induction l generalizing s with
  | nil => exact ⟨⟨s.sectors, rfl⟩, fun _ h => h, nofun⟩
  | cons k l ih =>
    obtain ⟨⟨x, hx⟩, hkeep, hnew⟩ := ih (disown k.line s)
    refine ⟨⟨x, hx⟩, fun n h => hkeep n ((sectorAt_disown k.line s n).2 h), fun c hc n hn => ?_⟩
    rcases List.mem_cons.1 hc with rfl | hc
    · exact hkeep n ((sectorAt_disown c.line s n).1 hn)
    · exact hnew c hc n hn

/-- Copies that are replaced leave the slice, and their sectors are no longer owned by the core. -/
theorem evictCopies_spec (p : Copy → Bool) (s : State) :
    (∃ x, evictCopies p s = { s with sectors := x, core := { s.core with copies := s.core.copies.filter fun k => !p k } }) ∧
    ∀ k ∈ s.core.copies, p k = true → ∀ n, n / 4 = k.line → ((evictCopies p s).sectorAt n).owner ≠ some s.core.num := by
  obtain ⟨⟨x, hx⟩, -, hnew⟩ := foldl_disown (s.core.copies.filter p) s
  refine ⟨⟨x, by rw [evictCopies, hx]; rfl⟩, fun k hk hp n hn => ?_⟩
  exact hnew k (List.mem_filter.2 ⟨hk, hp⟩) n hn

/-! ### A change of the level as a step (R90, R91) -/

/-- Every hart of a list changed by a map that keeps its place. -/
theorem hartAt_mapHarts {f : Hart → Hart} (hcore : ∀ h, (f h).core = h.core) (hix : ∀ h, (f h).ix = h.ix) (w : HartId) (s : State) :
    (s.mapHarts f).hartAt w = f (s.hartAt w) ∨
      ((s.mapHarts f).hartAt w = s.hartAt w ∧ s.hartAt w = Hart.initial w.core w.hart) := by
  have hkey (h : Hart) : (f h).key = h.key := by simp only [Hart.key, hcore, hix]
  unfold State.hartAt State.mapHarts
  simp only [hcore, hix, findBy_map Hart.key f hkey]
  split
  · exact .inl rfl
  · cases findBy Hart.key (hidKey w) s.harts with
    | none => exact .inr ⟨rfl, rfl⟩
    | some h => exact .inl rfl

/-- A fall of the level cuts vl to its maximum, and says so. -/
theorem Hart.cutVl_eq (level : Nat) (h : Hart) : h.cutVl level =
    { h with csr := { h.csr with vl := min h.csr.vl (vlmax h.csr.sew.toNat h.csr.g.toNat level),
                                 vlcut := h.csr.vlcut || decide (vlmax h.csr.sew.toNat h.csr.g.toNat level < h.csr.vl) } } := by
  unfold Hart.cutVl
  dsimp only
  split
  · next hlt => rw [min_eq_right hlt.le, decide_eq_true hlt, Bool.or_true]
  · next hge => rw [min_eq_left (Nat.le_of_not_lt hge), decide_eq_false hge, Bool.or_false]

theorem Hart.releveled_none {level n : Nat} {h : Hart} (hc : h.core = n) :
    h.releveled level n none = ({ h with vec := h.vec.fit level } : Hart).cutVl level := by
  simp [Hart.releveled, hc]
theorem Hart.releveled_other {level n : Nat} {self : Option Nat} {h : Hart} (hc : h.core ≠ n) : h.releveled level n self = h := by
  simp [Hart.releveled, hc]

/-- A level that drained vector work changes: the core's level and copies, the owners, and the harts of the core. -/
theorem changeLevel_spec (level : Nat) (s : State) :
    (∃ x, changeLevel level none s = { s with
        sectors := x
        core := { s.core with level := level, copies := s.core.copies.filter fun k => !decide (16 - borrowedWays level ≤ k.way) }
        hart := s.hart.releveled level s.core.num none
        harts := s.harts.map (Hart.releveled level s.core.num none) }) ∧
    ∀ k ∈ s.core.copies, 16 - borrowedWays level ≤ k.way → ∀ n, n / 4 = k.line →
      ((changeLevel level none s).sectorAt n).owner ≠ some s.core.num := by
  obtain ⟨⟨x, hx⟩, hown⟩ := evictCopies_spec (fun k => decide (16 - borrowedWays level ≤ k.way)) s
  have hx' : clearBorrowed level s = _ := hx
  refine ⟨⟨x, by unfold changeLevel; rw [hx']; rfl⟩, fun k hk hw n hn => ?_⟩
  exact hown k hk (decide_eq_true hw) n hn

/-- The code names the level that the core has, or none. -/
def levelStays (code : BitVec 2) (s : State) : Bool := code == 0 || levelOf code.toNat == s.core.level

theorem levelChange_eq (core : Nat) (code : BitVec 2) (s : State) : exec (.levelChange core code) s =
    .next (focusCore s.core.num (if levelStays code (focusCore core s) then focusCore core s
      else changeLevel (levelOf code.toNat) none (focusCore core s))) := rfl

/-- A code that asks for no change leaves every core as it was. -/
theorem levelChange_stays {core : Nat} {code : BitVec 2} {s : State} (h : levelStays code (focusCore core s) = true) :
    Completes (.levelChange core code) s (CoreBecomes core (s.coreAt core) s) := by
  refine ⟨_, levelChange_eq core code s, ?_⟩
  rw [if_pos h]
  exact onCore_same core s

/-- A level code names 1, 2 or 4. -/
theorem levelOf_pos {code : BitVec 2} (h : code ≠ 0) : 1 ≤ levelOf code.toNat ∧ levelOf code.toNat ≤ 4 := by
  have hpos : code.toNat ≠ 0 := fun e => h (BitVec.eq_of_toNat_eq e)
  have hlt := code.isLt
  unfold levelOf
  split <;> omega

/-- What a change of the level as a step leaves: the core, the owners of the copies that went, and every hart. -/
theorem levelChange_changes {core : Nat} {code : BitVec 2} {s : State} (hcode : code ≠ 0) (hlevel : levelOf code.toNat ≠ (s.coreAt core).level) :
    let level := levelOf code.toNat
    Completes (.levelChange core code) s fun t =>
      t.coreAt core = { s.coreAt core with level := level, copies := (s.coreAt core).copies.filter fun k => decide (k.way < 17 - level) } ∧
      t.mem = s.mem ∧ (∀ k ∈ (s.coreAt core).copies, 17 - level ≤ k.way → ∀ n, n / 4 = k.line → (t.sectorAt n).owner ≠ some core) ∧
      ∀ w, t.hartAt w = (s.hartAt w).releveled level core none ∨ (t.hartAt w = s.hartAt w ∧ s.hartAt w = Hart.initial w.core w.hart) := by
  intro level
  have hfocus : (focusCore core s).core = s.coreAt core := focusCore_core core s
  have hnum : (focusCore core s).core.num = core := by rw [hfocus, coreAt_num]
  have hstays : levelStays code (focusCore core s) = false := by
    simp only [levelStays, hfocus, beq_eq_false_iff_ne.2 hcode, beq_eq_false_iff_ne.2 hlevel, Bool.or_self]
  have hways : 16 - borrowedWays level = 17 - level := by
    have := levelOf_pos hcode
    unfold borrowedWays
    omega
  obtain ⟨⟨x, hx⟩, hown⟩ := changeLevel_spec level (focusCore core s)
  rw [hnum, hways] at hx hown
  have hback := levelChange_eq core code s
  rw [if_neg (by rw [hstays]; decide)] at hback
  obtain ⟨l, hl⟩ := focusCore_eq s.core.num (changeLevel level none (focusCore core s))
  refine ⟨_, hback, ?_, ?_, fun k hk hw n hn => ?_, fun w => ?_⟩
  · rw [coreAt_focusCore, hx]
    show State.coreAt _ core = _
    have hat : ((changeLevel level none (focusCore core s)).core.num == core) = true := by rw [hx]; exact beq_iff_eq.2 hnum
    rw [← hx, State.coreAt, if_pos hat, hx, hfocus]
    simp only [← Nat.not_le, decide_not]
  · rw [focusCore_mem, hx]
    exact focusCore_mem core s
  · have ho := hown k (by rw [hfocus]; exact hk) hw n hn
    rw [hl]
    exact ho
  · rw [focusCore_hartAt]
    have hat : (changeLevel level none (focusCore core s)).hartAt w = ((focusCore core s).mapHarts (Hart.releveled level core none)).hartAt w := by
      rw [hx]
      rfl
    rw [hat, ← focusCore_hartAt core w s]
    exact hartAt_mapHarts (Hart.releveled_core level core none) (Hart.releveled_ix level core none) w _

/-- A hart of the core after a change of the level: vl within its maximum, VLCUT where it was cut. -/
theorem releveled_spec {level core : Nat} {h k : Hart} {w : HartId}
    (hk : k = h.releveled level core none ∨ (k = h ∧ h = Hart.initial w.core w.hart)) :
    let most := vlmax h.csr.sew.toNat h.csr.g.toNat level
    (h.core = core → k.csr.vl = min h.csr.vl most ∧ k.csr.vlcut = (h.csr.vlcut || decide (most < h.csr.vl)) ∧ k.s = h.s ∧ k.pc = h.pc) ∧
    (h.core ≠ core → k = h) := by
  rcases hk with rfl | ⟨rfl, hinit⟩
  · refine ⟨fun hc => ?_, fun hc => Hart.releveled_other hc⟩
    rw [Hart.releveled_none hc, Hart.cutVl_eq]
    exact ⟨rfl, rfl, rfl, rfl⟩
  · have hvl : k.csr.vl = 0 := by rw [hinit]; rfl
    refine ⟨fun _ => ⟨?_, ?_, rfl, rfl⟩, fun _ => rfl⟩
    · rw [hvl, Nat.zero_min]
    · rw [hvl, decide_eq_false (Nat.not_lt_zero _), Bool.or_false]

/-! ### The end of a hart (R85, R98) -/

/-- Telling the parent changes of the current hart its children at most. -/
theorem tellParent_hart (s : State) : (∃ l, (tellParent s).hart = { s.hart with children := l }) ∧ (tellParent s).mem = s.mem ∧
    (tellParent s).core = s.core := by
  unfold tellParent
  dsimp only
  split
  · exact ⟨⟨_, rfl⟩, rfl, rfl⟩
  · next p hp =>
    unfold State.setHart
    split
    · next hq =>
      refine ⟨?_, rfl, rfl⟩
      have hself : s.hartAt ⟨s.hart.core, p⟩ = s.hart := by
        by_cases hpx : s.hart.ix = p
        · simp [State.hartAt, hpx]
        · have hne : (s.hart.core == s.hart.core && s.hart.ix == p) = false := by simp [hpx]
          have hat := hartAt_of_ne (s := s) (i := ⟨s.hart.core, p⟩) hne
          have hkey : (s.hartAt ⟨s.hart.core, p⟩).key = s.hart.core * 8 + p := by
            rw [hat]
            cases hf : findBy Hart.key (hidKey ⟨s.hart.core, p⟩) s.harts with
            | none => rfl
            | some h => exact findBy_key hf
          simp only [Bool.and_eq_true, beq_iff_eq] at hq
          obtain ⟨hc, hi⟩ := hq
          simp only [Hart.key, ← hc, ← hi] at hkey
          omega
      have htold (q : Hart) (h : q = s.hart) : ∃ l, q.told s.hart.ix s.hart.ctx = { s.hart with children := l } := by
        subst h; exact ⟨_, rfl⟩
      exact htold _ hself
    · exact ⟨⟨_, rfl⟩, rfl, rfl⟩

/-- A hart's end frees its context and drops its continuations. -/
theorem endHart_frees (s : State) : (endHart s).hart = s.hart.freed ∧ (endHart s).mem = s.mem ∧
    ∀ r ∈ (endHart s).core.reef.conts, r.hart ≠ s.hart.ix := by
  obtain ⟨⟨l, hl⟩, hm, hc⟩ := tellParent_hart s
  have hh : (endHart s).hart = (tellParent s).hart.freed := rfl
  refine ⟨hh.trans (by rw [hl]; rfl), hm, fun r hr => ?_⟩
  have hix : (tellParent s).hart.ix = s.hart.ix := by rw [hl]
  have hmem : r ∈ ((tellParent s).core.dropConts (tellParent s).hart.ix).reef.conts := hr
  rw [hix] at hmem
  exact bne_iff_ne.1 (List.mem_filter.1 hmem).2

/-- Discarding a held frame empties the hart's queues, and changes nothing that its end reads. -/
theorem discardHeld_spec (s : State) : let v := discardHeld s
    v.hart.enginesDone = s.hart.enginesDone ∧ v.hart.aside = s.hart.aside ∧ v.hart.children = s.hart.children ∧ v.hart.parent = s.hart.parent ∧
      v.hart.core = s.hart.core ∧ v.hart.ix = s.hart.ix ∧ v.hart.ctx = s.hart.ctx ∧ v.hart.s = s.hart.s ∧ v.hart.vec = s.hart.vec ∧
      v.mem = s.mem ∧ v.harts = s.harts ∧ (s.hart.heldBy = none → v = s) ∧
      (s.hart.heldBy ≠ none → v.hart.queue = [] ∧ v.hart.mq = []) := by
  unfold discardHeld
  dsimp only
  split
  · next h => exact ⟨rfl, rfl, rfl, rfl, rfl, rfl, rfl, rfl, rfl, rfl, rfl, fun _ => rfl, fun hn => absurd (Option.isNone_iff_eq_none.1 h) hn⟩
  · next h => exact ⟨rfl, rfl, rfl, rfl, rfl, rfl, rfl, rfl, rfl, rfl, rfl, fun hn => absurd (by rw [hn]; rfl) h, fun _ => ⟨rfl, rfl⟩⟩

section

variable {s : State}

/-- A hart whose posted work is done and whose table is examined waits for its live children, and then ends. -/
theorem hartExit_eq (hm : s.hart.mode ≠ .user) (he : exitOf s.handlerRegs.status = true) (hp : (discardHeld s).postedDone = true)
    (hg : s.hart.enginesDone = true) (hr : resolved s.hart.aside = true) (hb : struckBits 0 s.hart.aside = 0) :
    exec .hartExit s = .next (if s.hart.children.any (fun c => c.done.isNone) then waitFor .exit (discardHeld s) else endHart (discardHeld s)) := by
  obtain ⟨h1, h2, h3, -⟩ := discardHeld_spec s
  have hrun : (s.hart.mode != .user && exitOf s.handlerRegs.status) = true := by rw [bne_iff_ne.2 hm, he]; rfl
  show Host.Outcome.next (if _ then exitHart s else s) = _
  rw [if_pos hrun]
  unfold exitHart
  simp only [hp, h1, h2, h3, hg, hr, hb]
  rfl

theorem hartExit_same (h : s.hart.mode = .user ∨ exitOf s.handlerRegs.status = false) : exec .hartExit s = .next s := by
  have hrun : (s.hart.mode != .user && exitOf s.handlerRegs.status) = false := by
    rcases h with h | h
    · rw [h]; rfl
    · rw [h, Bool.and_false]
  show Host.Outcome.next (if _ then exitHart s else s) = _
  rw [if_neg (by rw [hrun]; decide)]

/-- The parent of a hart that has ended, whose held frame was discarded first. -/
theorem endHart_tells {v : State} {p : Nat} {q : Hart} (hparent : v.hart.parent = some p) (hp : p ≠ v.hart.ix)
    (hq : v.hartAt ⟨v.hart.core, p⟩ = q) (hid : q.id = ⟨v.hart.core, p⟩) {c : Child}
    (hc : c ∈ ((endHart v).hartAt ⟨v.hart.core, p⟩).children) (hi : c.ix = v.hart.ix) : c.done = some v.hart.ctx := by
  obtain ⟨-, -, hat⟩ := endHart_child hparent hp (hq.symm ▸ hid)
  exact Hart.told_done (hat ▸ hc) hi

end

end Sys2Proof.Machine
end

section
/-! SUPPORT. One clk of a package whose only listed hart runs or is free (R148, R406, R407). -/

namespace Sys2Proof.Machine

open Sys2Proof.Safety

/-! ### Posting keeps the hart where it is (R148) -/

/-- From `s` to `t` words were fetched or posted: beyond `Calm`, the hart and its core are the same, and a hart that runs goes on running. -/
structure Posted (s t : State) : Prop extends Calm s t where
  place : t.hart.id = s.hart.id
  core : t.core.num = s.core.num ∧ t.core.failing = s.core.failing
  timer : t.hart.csr.timerArmed = s.hart.csr.timerArmed
  running : s.hart.status = .running → t.hart.status = .running

namespace Posted

theorem refl (s : State) : Posted s s := ⟨.refl s, rfl, ⟨rfl, rfl⟩, rfl, id⟩
theorem trans {s t u : State} (h : Posted s t) (k : Posted t u) : Posted s u :=
  ⟨h.toCalm.trans k.toCalm, k.place.trans h.place, ⟨k.core.1.trans h.core.1, k.core.2.trans h.core.2⟩, k.timer.trans h.timer,
    fun r => k.running (h.running r)⟩

theorem ite {c : Prop} [Decidable c] {s t u : State} (ht : Posted s t) (hu : Posted s u) : Posted s (if c then t else u) := by
  split <;> assumption

/-- What accesses keep is what a posting must keep. -/
theorem of_kept {s t : State} (hc : Calm s t) (hk : t.kept = s.kept) : Posted s t := by
  have hh : t.hart.bare = s.hart.bare := congrArg Kept.hart hk
  exact ⟨hc, (congrArg (fun h : Hart => h.id) hh :), ⟨(congrArg (·.core.num) hk :), (congrArg (·.core.failing) hk :)⟩,
    (congrArg (·.csr.timerArmed) hh :), fun hs => ((congrArg (·.status) hh :) : t.hart.status = s.hart.status).trans hs⟩

end Posted

/-! ### Fetches and posting -/

theorem Calm.recordTide (pa : Nat) (e : TlbEntry) (s : State) : Calm s (recordTide pa e s) := by
  unfold Machine.recordTide
  exact .ite (.setTide _ _) (.refl _)

theorem Calm.fillAts (pa : Nat) (s : State) : Calm s (fillAts pa s) := by
  unfold Machine.fillAts
  exact .ite ⟨rfl, id⟩ (.refl _)

theorem Calm.accessVia {v : Via} {va : Word} {n : Nat} {p : Perm} {acc : Nat} {r : Bool} {s t : State} {pa : Nat}
    (ha : accessVia v va n p acc r s = .ok pa t) : Calm s t := by
  unfold Machine.accessVia at ha
  split at ha
  · exact nomatch ha
  · next hx =>
    have hu := Calm.xlatVia hx
    repeat' split at ha
    all_goals cases ha
    exact ((hu.trans (.recordTide _ _ _)).trans (.startClear _ _)).trans (.fillAts _ _)

theorem Calm.fillInstr (line : Nat) (s : State) : Calm s (fillInstr line s) := by
  unfold Machine.fillInstr
  dsimp only
  refine .ite (.refl s) (.ite (.mapCore _ s) ?_)
  split
  · exact ⟨rfl, id⟩
  · exact .refl s

theorem Calm.fetchWord (pa : Nat) (s : State) : Calm s (fetchWord pa s).2 := by
  unfold Machine.fetchWord
  dsimp only
  split
  · exact .fillInstr ..
  · split
    · exact .fillInstr ..
    · exact (Calm.fillInstr (pa / 128) s).trans ⟨rfl, id⟩

theorem Posted.fetchAt {va : Word} {s t : State} {pa : Nat} {w : Word} (h : fetchAt va s = (.ok pa t, w)) : Posted s t := by
  refine .of_kept ?_ (fetchAt_kept h)
  unfold Machine.fetchAt at h
  split at h
  · next pa' u ha =>
    cases h
    exact (Calm.accessVia ha).trans (Calm.fetchWord _ _)
  · cases h
  · cases h

theorem Posted.convoyTail {n : Nat} {va : Word} {s u : State} {l : List Word} (h : convoyTail n va s = .words l u) : Posted s u := by
  induction n generalizing va s l with
  | zero => cases h; exact .refl _
  | succ n ih =>
    unfold Machine.convoyTail at h
    split at h
    · next hf =>
      have hfetch := Posted.fetchAt hf
      split at h
      · split at h
        · cases h
        · split at h
          · cases h
          · split at h
            · next ht => cases h; exact hfetch.trans (ih ht)
            · next hno => exact absurd h (hno _ _)
      · cases h
        exact hfetch
    · cases h
    · cases h

theorem postOrHold_post {l l' : List Word} {is is' : List Instr} {s t u : State} (h : postOrHold l is s t = .post l' is' u) : u = t := by
  unfold postOrHold at h
  split at h
  · cases h
  · split at h
    · cases h
    · cases h
      rfl

/-- The state that a word to be posted was fetched in. -/
theorem Posted.nextWord {l : List Word} {is : List Instr} {s t : State} (h : nextWord s = .post l is t) : Posted s t := by
  unfold Machine.nextWord at h
  dsimp only at h
  split at h
  · cases h
  split at h
  · next hf =>
    have hfetch := Posted.fetchAt hf
    split at h
    · cases h
    split at h
    · cases h
    split at h
    · split at h
      · next ht =>
        split at h
        · cases h
        · rw [postOrHold_post h]
          exact hfetch.trans (.convoyTail ht)
      · cases h
    split at h
    · cases h
    split at h
    · rw [postOrHold_post h]
      exact hfetch
    split at h <;> cases h
  · cases h

/-- Posting changes the hart's queue and pc, and for a SETVL its register. -/
theorem Posted.postItem (l : List Word) (s : State) : Posted s (postItem l s) := by
  have hset (r : BitVec 5) (v : Word) (p : PvSet) (u : State) : Posted u (u.setS r v p) :=
    ⟨⟨rfl, fun h => (Hart.setS_event ..).trans h⟩, congrArg₂ HartId.mk (Hart.setS_core ..) (Hart.setS_ix ..), ⟨rfl, rfl⟩,
      congrArg (·.timerArmed) (Hart.setS_csr ..), fun h => (Hart.setS_status ..).trans h⟩
  have hkill (r : BitVec 5) (u : State) : Posted u (killDest r u) := by
    unfold killDest
    split
    · exact .refl u
    · exact ⟨⟨rfl, id⟩, rfl, ⟨rfl, rfl⟩, rfl, id⟩
  unfold Machine.postItem
  dsimp only
  split
  · split
    · refine Posted.trans ?_ ((hkill _ _).trans (hset _ _ _ _))
      exact ⟨⟨rfl, id⟩, rfl, ⟨rfl, rfl⟩, rfl, id⟩
    · exact ⟨⟨rfl, id⟩, rfl, ⟨rfl, rfl⟩, rfl, id⟩
  · exact ⟨⟨rfl, id⟩, rfl, ⟨rfl, rfl⟩, rfl, id⟩

theorem Posted.resumed (s : State) : Posted s (s.mapHart fun h => { h with status := .running }) :=
  ⟨⟨rfl, id⟩, rfl, ⟨rfl, rfl⟩, rfl, fun _ => rfl⟩

theorem Posted.postNext (s : State) : Posted s (postNext s) := by
  unfold Machine.postNext
  refine .ite (.refl s) ?_
  split
  · next hw =>
    exact .ite (.refl s) (((Posted.nextWord hw).trans (.postItem _ _)).trans (.resumed _))
  · exact .refl s

theorem Posted.postUpTo (n : Nat) (s : State) : Posted s (postUpTo n s) := by
  induction n generalizing s with
  | zero => exact .refl s
  | succ n ih =>
    unfold Machine.postUpTo
    dsimp only
    split
    · exact .postNext s
    · exact (Posted.postNext s).trans (ih _)

/-! ### A package with one listed hart -/

/-- The current hart is the only one listed, and stands on the current core. -/
structure Alone (s : State) : Prop where
  harts : s.harts = []
  home : s.core.num = s.hart.core

theorem Alone.allHarts {s : State} (h : Alone s) : s.allHarts = [s.hart] := by
  simp only [State.allHarts, h.harts, putBy]

theorem Alone.posted {s t : State} (h : Alone s) (hp : Posted s t) : Alone t := by
  have hlen : t.harts.length = 0 := by
    rw [show t.harts.length = s.harts.length from (congrArg (·.2.2.2.2) hp.clock :), h.harts]
    rfl
  exact ⟨List.length_eq_zero_iff.1 hlen, hp.core.1.trans (h.home.trans (congrArg (·.core) hp.place :).symm)⟩

/-- The one hart acts for itself. -/
theorem onHart_alone {s : State} {f : State → State} (h : Alone s) (hp : Posted s (f s)) : onHart s.hart.id f s = f s := by
  unfold onHart
  rw [focus_self s h.home, ← hp.place]
  exact focus_self _ (h.posted hp).home

/-- The hart with its count of posted words cleared. -/
def Hart.unposted (h : Hart) : Hart := { h with posted := 0 }

/-- Posting, for the one hart: nothing where it may not issue. -/
theorem postHarts_alone {s : State} (h : Alone s) : postHarts s =
    if s.hart.mayIssue then postClk (s.mapHarts Hart.unposted) else s.mapHarts Hart.unposted := by
  have hall : (s.mapHarts Hart.unposted).allHarts = [s.hart.unposted] := by
    simp only [State.allHarts, State.mapHarts, h.harts, List.map_nil, putBy]
  have hu : Alone (s.mapHarts Hart.unposted) := ⟨by simp only [State.mapHarts, h.harts, List.map_nil], h.home⟩
  show (((s.mapHarts Hart.unposted).allHarts.filter Hart.mayIssue).map Hart.id).foldl (fun s w => onHart w postClk s) _ = _
  rw [hall]
  cases hm : s.hart.mayIssue with
  | false =>
    have hneg : ¬ s.hart.unposted.mayIssue = true := fun h => Bool.false_ne_true (hm.symm.trans h)
    rw [List.filter_cons_of_neg hneg]
    rfl
  | true =>
    have hpos : s.hart.unposted.mayIssue = true := hm
    rw [List.filter_cons_of_pos hpos]
    exact onHart_alone hu (Posted.postUpTo 4 _)

/-! ### The machine's own agents, with nothing to do -/

/-- Nothing waits for an agent of the package: no channel, engine job, delivery, island or reef work, watch entry or remote request. -/
structure Idle (s : State) : Prop extends Alone s where
  chans : s.chans = []
  engq : s.engq = []
  sreads : s.sreads = []
  gateq : s.gateq = []
  deliveries : s.deliveries = []
  cores : s.cores = []
  isl : s.core.isl = Island.empty
  run : s.core.reef.run = none
  mq : s.hart.mq = []
  watch : entriesOf s.hart = []
  remote : s.hart.remote = none
  vreq : s.hart.vreq = none

/-- What the agents change while idle: the page requests' ages, and the sectors' marks. -/
def aged (x : List PriReq) (y : List Sector) (s : State) : State := { s with pri := x, sectors := y }

theorem Idle.aged {s : State} (h : Idle s) (x : List PriReq) (y : List Sector) : Idle (aged x y s) :=
  ⟨⟨h.harts, h.home⟩, h.chans, h.engq, h.sreads, h.gateq, h.deliveries, h.cores, h.isl, h.run, h.mq, h.watch, h.remote, h.vreq⟩

section

variable {s : State}

theorem linkClk_idle (h : Idle s) : ∃ x, linkClk s = Machine.aged x s.sectors s := by
  unfold linkClk
  dsimp only
  generalize s.pri.map _ = x
  have hall : ({ s with pri := x } : State).allHarts = [s.hart] := h.toAlone.allHarts
  refine ⟨x, ?_⟩
  simp only [hall, List.filter_cons, h.remote, Option.any_none, Bool.false_eq_true, if_false, List.filter_nil, List.foldl_nil,
    List.flatMap_cons, h.vreq, Option.elim_none, List.flatMap_nil, List.append_nil]
  rfl

theorem channelClk_idle (h : Idle s) : channelClk s = s := by
  unfold channelClk; rw [h.chans]; rfl
theorem enginesClk_idle (h : Idle s) : enginesClk s = s := by
  unfold enginesClk; rw [h.engq]; rfl
theorem sreadsClk_idle (h : Idle s) : sreadsClk s = s := by
  unfold sreadsClk; rw [h.sreads]; rfl
theorem breakwaterClk_idle (h : Idle s) : breakwaterClk s = s := by
  unfold breakwaterClk State.nextGate; rw [h.deliveries, h.gateq]; rfl

theorem mapIsl_same {f : Island → Island} (h : f s.core.isl = s.core.isl) : s.mapIsl f = s := by
  show { s with core := { s.core with isl := f s.core.isl } } = s
  rw [h]

/-- No hart context of the core has a matrix queue. -/
theorem nextMq_idle (h : Idle s) : s.nextMq = none := by
  have hmq (i : HartId) : (s.hartAt i).mq = [] := by
    unfold State.hartAt
    split
    · exact h.mq
    · rw [h.harts]; rfl
  unfold State.nextMq
  refine List.findSome?_eq_none_iff.2 fun n _ => ?_
  simp [hmq]

theorem islandClk_idle (h : Idle s) : islandClk s = s := by
  have hisl : s.isl = Island.empty := h.isl
  have hquiet : s.mapIsl (fun i => { i with accs := i.accs.map fun a => { a with writing := false } }) = s :=
    mapIsl_same (by rw [h.isl]; rfl)
  have hdrain : runDrain s = s := by unfold runDrain; rw [hisl]; rfl
  have hstep : finishStep s = s := by unfold finishStep; rw [hisl]; rfl
  have hfill : finishFill s = s := by unfold finishFill; rw [hisl]; rfl
  have hhead : runHead s = s := by
    unfold runHead
    split
    · rfl
    · rw [hisl]; rfl
  have hadmit : admitted s = s := by unfold admitted; rw [nextMq_idle h]
  unfold islandClk
  simp only [hquiet, hdrain, hstep, hfill, hhead, hadmit]

theorem reefClk_idle (h : Idle s) : reefClk s = s := by
  unfold reefClk onRun; rw [h.run]

theorem workCores_idle (h : Idle s) : s.workCores = [s.core.num] := by
  unfold State.workCores
  rw [h.toAlone.allHarts, h.cores, List.filter_cons_of_neg (by rw [h.mq]; decide)]
  rfl

/-- A hart without entries is the same to the watch units. -/
theorem watchClk_idle (h : Idle s) : watchClk s = s := by
  obtain ⟨⟨hw, hs⟩, hh⟩ : (s.hart.watch = [] ∧ s.hart.asideS = []) ∧ s.hart.asideH = [] := by
    have he := h.watch
    simpa only [entriesOf, List.append_eq_nil_iff] using he
  have hunsent : s.hart.unsent = none := by
    unfold Hart.unsent
    rw [hw, hs, hh]
    rfl
  have hsame {f : Hart → Hart} (hf : f s.hart = s.hart) : s.mapHarts f = s := by
    have hnone : s.harts.map f = s.harts := by rw [h.harts]; rfl
    unfold State.mapHarts
    rw [hf, hnone]
  unfold watchClk
  dsimp only
  rw [hsame (by rw [hw, hs, hh]; rfl), h.toAlone.allHarts]
  simp only [oldestSenders, List.foldl_cons, hunsent, List.foldl_nil]

/-- The agents with nothing to do. -/
theorem agentsClk_idle (h : Idle s) : ∃ x y, agentsClk s = Machine.aged x y s := by
  obtain ⟨x, hx⟩ := linkClk_idle h
  obtain ⟨y, hm⟩ : ∃ y, lazyMerge (linkClk s) = Machine.aged x y s := ⟨_, by rw [hx]; rfl⟩
  refine ⟨x, y, ?_⟩
  unfold agentsClk
  rw [hm]
  have h2 := h.aged x y
  generalize Machine.aged x y s = u at h2 ⊢
  have hself : focusCore u.core.num u = u := if_pos (beq_self_eq_true _)
  have hcore : onCore u.core.num (fun s => reefClk (islandClk s)) u = u := by
    show focusCore u.core.num (reefClk (islandClk (focusCore u.core.num u))) = u
    rw [hself, islandClk_idle h2, reefClk_idle h2, hself]
  simp only [channelClk_idle h2, enginesClk_idle h2, sreadsClk_idle h2, breakwaterClk_idle h2, workCores_idle h2, List.foldl_cons,
    List.foldl_nil, hcore, watchClk_idle h2]

end

/-! ### The grants of one clk (R406) -/

/-- Every slot free. -/
def Core.freeSlots (c : Core) : Core := { c with firstIssue := none, secondIssue := false, vectorIssue := false, checkSent := false }

/-- Among the contexts from a pointer on, each stands once. -/
theorem fromPointer_filter (p : Nat) {n : Nat} (hn : n < 8) : (fromPointer p).filter (· == n) = [n] := by
  have hmod : fromPointer p = fromPointer (p % 8) := by
    unfold fromPointer
    exact List.map_congr_left fun k _ => by omega
  rw [hmod]
  have hall : ∀ q < 8, ∀ n < 8, (fromPointer q).filter (· == n) = [n] := by decide
  exact hall _ (Nat.mod_lt _ (by decide)) n hn

/-- Of the contexts of a core with one listed hart, that hart alone may issue. -/
theorem issuers_alone {s : State} (h : s.harts = []) (hix : s.hart.ix < 8) (hm : s.hart.mayIssue = true) (p : Nat) :
    ((fromPointer p).map fun n => (⟨s.hart.core, n⟩ : HartId)).filter (fun w => (s.hartAt w).mayIssue) = [s.hart.id] := by
  have hone (n : Nat) : (s.hartAt ⟨s.hart.core, n⟩).mayIssue = (n == s.hart.ix) := by
    by_cases hn : n = s.hart.ix
    · subst hn
      simp [State.hartAt, hm]
    · have hne : (s.hart.core == s.hart.core && s.hart.ix == n) = false := by simp [Ne.symm hn]
      rw [hartAt_of_ne hne, h, beq_eq_false_iff_ne.2 hn]
      rfl
  rw [List.filter_map]
  simp only [Function.comp_def, hone, fromPointer_filter p hix]
  rfl

/-- The cores on which the one hart may issue. -/
theorem activeCores_alone {s : State} (h : Alone s) : s.activeCores = if s.hart.mayIssue then [s.hart.core] else [] := by
  unfold State.activeCores
  rw [h.allHarts]
  cases hm : s.hart.mayIssue <;> simp [hm]

/-- The grants of the one hart's core: two scalar slots, and one of the vector slot unless the core waits for its swap. -/
theorem coreGrants_alone {s : State} (h : Alone s) (hix : s.hart.ix < 8) (hm : s.hart.mayIssue = true) :
    coreGrants s.hart.core s = ([s.hart.id, s.hart.id], if s.core.failing then [] else [s.hart.id]) := by
  have hcore : s.coreAt s.hart.core = s.core := if_pos (beq_iff_eq.2 h.home)
  unfold coreGrants
  simp only [hcore, issuers_alone h.harts hix hm]
  rfl

/-- The grants of a clk, where one hart is listed. -/
theorem allGrants_alone {s : State} (h : Alone s) (hix : s.hart.ix < 8) : allGrants s =
    if s.hart.mayIssue then { s.mapCores Core.freeSlots with
      grants := s.grants ++ [s.hart.id, s.hart.id], vgrants := s.vgrants ++ if s.core.failing then [] else [s.hart.id] }
    else s.mapCores Core.freeSlots := by
  have hu : Alone (s.mapCores Core.freeSlots) := ⟨h.harts, h.home⟩
  have hact : (s.mapCores Core.freeSlots).activeCores = if s.hart.mayIssue then [s.hart.core] else [] := activeCores_alone hu
  show (s.mapCores Core.freeSlots).activeCores.foldl (fun s c => _) (s.mapCores Core.freeSlots) = _
  rw [hact]
  cases hm : s.hart.mayIssue with
  | false => rfl
  | true =>
    have hg : coreGrants s.hart.core (s.mapCores Core.freeSlots) = _ := coreGrants_alone hu hix hm
    simp only [if_true, List.foldl_cons, List.foldl_nil, hg]
    rfl

/-! ### ISSUE_CLK (R406, R407) -/

/-- The state in which the harts post: the clk counted, due timers raised, the agents' turn taken. -/
def ticked (x : List PriReq) (y : List Sector) (s : State) : State := aged x y (timers { s with clk := s.clk + 1 })

theorem issueClk_stopped {s : State} (h : s.stopped = true) : exec .issueClk s = .next { s with clk := s.clk + 1 } := by
  show Host.Outcome.next (if s.stopped = true then _ else _) = _
  rw [if_pos h]

theorem timers_eq (s : State) : timers s = s.mapHarts (Hart.timed s.clk) := rfl

/-- Timers leave what the agents look at. -/
theorem Idle.timers {s : State} (h : Idle s) : Idle (timers { s with clk := s.clk + 1 }) := by
  have hkeep (c : Word) (h : Hart) : (h.timed c).core = h.core ∧ (h.timed c).mq = h.mq ∧ entriesOf (h.timed c) = entriesOf h ∧
      (h.timed c).remote = h.remote ∧ (h.timed c).vreq = h.vreq := by
    unfold Hart.timed
    split <;> exact ⟨rfl, rfl, rfl, rfl, rfl⟩
  obtain ⟨hc, hq, hw, hr, hv⟩ := hkeep (s.clk + 1) s.hart
  have hharts : s.harts.map (Hart.timed (s.clk + 1)) = [] := by rw [h.harts]; rfl
  exact ⟨⟨hharts, h.home.trans hc.symm⟩, h.chans, h.engq, h.sreads, h.gateq, h.deliveries, h.cores, h.isl, h.run, hq.trans h.mq,
    hw.trans h.watch, hr.trans h.remote, hv.trans h.vreq⟩

/-- One clk of a package with nothing to do but issue. -/
theorem issueClk_idle {s : State} (hs : s.stopped = false) (hb : s.boot ≠ .booted) (h : Idle s) :
    ∃ x y, exec .issueClk s = .next (allGrants (postHarts (ticked x y s))) ∧ Alone (ticked x y s) := by
  obtain ⟨x, y, hxy⟩ := agentsClk_idle h.timers
  refine ⟨x, y, ?_, (h.timers.aged x y).toAlone⟩
  have hfw : firmwareClk (ticked x y s) = ticked x y s := if_neg fun e => hb (eq_of_beq e)
  show Host.Outcome.next (if s.stopped = true then _ else
    allGrants (postHarts (firmwareClk (agentsClk (Machine.timers { s with clk := s.clk + 1 }))))) = _
  rw [if_neg (by rw [hs]; decide), hxy]
  exact congrArg (fun u => Host.Outcome.next (allGrants (postHarts u))) hfw

/-- What a clk leaves of the state in which the hart posts: its grants, and no slot taken. -/
theorem issued_spec {u : State} (h : Alone u) (hix : u.hart.ix < 8) :
    let t := allGrants (postHarts u)
    t.clk = u.clk ∧ t.core.firstIssue = none ∧ t.core.secondIssue = false ∧ t.core.vectorIssue = false ∧ t.core.checkSent = false ∧
      (u.hart.event = true → t.hart.event = true) ∧ t.hart.csr.timerArmed = u.hart.csr.timerArmed ∧
      (u.hart.status = .running → t.grants = u.grants ++ [u.hart.id, u.hart.id] ∧
        t.vgrants = u.vgrants ++ (if u.core.failing then [] else [u.hart.id])) ∧
      (u.hart.status = .free → t.grants = u.grants ∧ t.vgrants = u.vgrants ∧ t.mem = u.mem) := by
  intro t
  have hclear : Posted u (u.mapHarts Hart.unposted) :=
    ⟨.mapHarts (f := Hart.unposted) (fun _ e => e) u, rfl, ⟨rfl, rfl⟩, rfl, id⟩
  have hposted : Posted u (postHarts u) := by
    rw [postHarts_alone h]
    exact .ite (hclear.trans (.postUpTo 4 _)) hclear
  have hid : (postHarts u).hart.id = u.hart.id := hposted.place
  have hix' : (postHarts u).hart.ix < 8 := by rw [show (postHarts u).hart.ix = u.hart.ix from congrArg HartId.hart hid]; exact hix
  have hgrants : (postHarts u).grants = u.grants := (congrArg (·.2.2.1) hposted.clock :)
  have hvgrants : (postHarts u).vgrants = u.vgrants := (congrArg (·.2.2.2.1) hposted.clock :)
  have hclk : (postHarts u).clk = u.clk := (congrArg (·.2.1) hposted.clock :)
  have ht : t = _ := allGrants_alone (h.posted hposted) hix'
  refine ⟨?_, ?_, ?_, ?_, ?_, fun he => ?_, ?_, fun hr => ?_, fun hf => ?_⟩
  · rw [← hclk, ht]; split <;> rfl
  iterate 4 · rw [ht]; split <;> rfl
  · have he' := hposted.event he
    rw [ht]; split <;> exact he'
  · rw [← hposted.timer, ht]; split <;> rfl
  · have hm : (postHarts u).hart.mayIssue = true := by unfold Hart.mayIssue; rw [hposted.running hr]
    rw [ht, if_pos hm, ← hgrants, ← hvgrants, ← hid, ← hposted.core.2]
    exact ⟨rfl, rfl⟩
  · have hm : u.hart.mayIssue = false := by unfold Hart.mayIssue; rw [hf]
    have hp : postHarts u = u.mapHarts Hart.unposted := by rw [postHarts_alone h, hm]; rfl
    have hm' : ¬ (postHarts u).hart.mayIssue = true := by
      rw [hp]
      exact fun e => Bool.false_ne_true (hm.symm.trans e)
    rw [ht, if_neg hm', hp]
    exact ⟨rfl, rfl, rfl⟩

end Sys2Proof.Machine
end

section

open Sys2Proof Sys2Proof.Machine Sys2Proof.Safety

/-- Settles O55: register writes by `csrWrite`'s cases, the events by `onHart`, a level by `changeLevel_spec`, a clk by `issueClk_idle`. -/
theorem registerWriteAndTimerSteps : Obligations.RegisterWriteAndTimerSteps := by
  unfold Obligations.RegisterWriteAndTimerSteps
  refine ⟨fun v p s => ?_, fun n mask v p s => ?_, fun who s hid => ?_, fun core code s => ?_, fun s => ?_, fun s h => hartExit_same h,
    fun s h => issueClk_stopped h, fun s hs hb h1 h2 h3 h4 h5 h6 h7 h8 h9 h10 h11 hix h12 h13 h14 => ?_⟩
  · refine ⟨evtimerWrite_completes v p s, evaddrWrite_zero_completes p s,
      fun hv => ⟨fun pa x u hx => evaddrWrite_completes p hv hx, fun e hx => refused_step v p s rfl (csrWrite_evaddr_error hv hx)⟩,
      fun hv => pvctxCsrWrite_completes p (by simpa using hv), fun hv => refused_step v p s rfl (csrWrite_pvctx_error (by simpa using hv)),
      fun q hq => ⟨hfmaskWrite_completes v p hq, htvecWrite_completes v p hq⟩,
      fun hq => ⟨congrArg Host.Outcome.next (writeHfmask_none hq), congrArg Host.Outcome.next (writeHtvec_none hq)⟩,
      partidWrite_completes v p s, trapstatusWrite_completes v p s⟩
  · exact ⟨fun hmem => registerWrite_plain_completes v p s hmem, rfl, rfl, rfl, rfl, rfl, rfl, rfl, rfl,
      fun hb => ⟨fun hq h64 hpkg hsp => congrArg Host.Outcome.next (writeBar0_base hb hq h64 hpkg hsp),
        fun k hk hq hv => congrArg Host.Outcome.next (writeBar0_size hb hk hq hv), congrArg Host.Outcome.next (writeBar0_tail hb),
        fun off hoff hq => congrArg Host.Outcome.next (writeBar0_outstanding hb (fun h => hoff (BitVec.eq_of_toNat_eq h)) hq)⟩,
      fun off hb => congrArg Host.Outcome.next (writeBar0_failed hb)⟩
  · intro h due
    have ht := timerEvent_becomes hid
    have hl := evaddrLineWrite_becomes hid
    refine ⟨fun hd => ?_, fun hd => ?_, fun he => ?_, fun he => ?_⟩
    · rwa [Hart.timed_due hd] at ht
    · rwa [Hart.timed_not_due hd] at ht
    · rwa [Hart.lineSeen, if_pos (bne_iff_ne.2 he)] at hl
    · rwa [Hart.lineSeen, if_neg (fun hb => bne_iff_ne.1 hb he)] at hl
  · intro level
    refine ⟨fun hcode hlevel => ?_, fun h => ?_⟩
    · obtain ⟨t, he, hcore, hmem, hown, hharts⟩ := levelChange_changes hcode hlevel
      exact ⟨t, he, hcore, hmem, hown, fun w => releveled_spec (hharts w)⟩
    · refine levelChange_stays ?_
      simp only [levelStays, focusCore_core, Bool.or_eq_true, beq_iff_eq]
      exact h
  · intro v hm he hp hg hr hb
    have hexit := hartExit_eq hm he hp hg hr hb
    obtain ⟨-, -, -, hparent, hcore, hix, hctx, hregs, hvec, hmem, hharts, hsame, hempty⟩ := discardHeld_spec s
    refine ⟨fun hall => ?_, fun ⟨c, hc, hlive⟩ => ?_, hsame, hempty⟩
    · have hnone : (s.hart.children.any fun c => c.done.isNone) = false := by
        simpa only [List.any_eq_false, Option.isNone_iff_eq_none] using hall
      rw [if_neg (by rw [hnone]; decide)] at hexit
      obtain ⟨hfreed, hfmem, hconts⟩ := endHart_frees v
      refine ⟨_, hexit, hfreed, by rw [hfreed]; rfl, (congrArg Hart.s hfreed).trans hregs, (congrArg Hart.vec hfreed).trans hvec,
        hfmem.trans hmem, fun r hr => hix ▸ hconts r hr, fun p hp hne hid c hc hi => ?_⟩
      have hat : v.hartAt ⟨v.hart.core, p⟩ = s.hartAt ⟨s.hart.core, p⟩ := by
        have h1 : (v.hart.core == s.hart.core && v.hart.ix == p) = false := by
          rw [hix]
          exact Bool.and_eq_false_imp.2 fun _ => beq_false_of_ne (Ne.symm hne)
        have h2 : (s.hart.core == s.hart.core && s.hart.ix == p) = false :=
          Bool.and_eq_false_imp.2 fun _ => beq_false_of_ne (Ne.symm hne)
        rw [hcore, hartAt_of_ne h1, hartAt_of_ne h2, hharts]
      have hdone := endHart_tells (v := v) (hparent.trans hp) (by rw [hix]; exact hne) hat (by rw [hcore]; exact hid) (c := c)
        (by rw [hcore]; exact hc) (by rw [hix]; exact hi)
      rw [hdone, hctx]
    · have hany : (s.hart.children.any fun c => c.done.isNone) = true :=
        List.any_eq_true.2 ⟨c, hc, Option.isNone_iff_eq_none.2 hlive⟩
      rwa [if_pos hany] at hexit
  · obtain ⟨x, y, he, halone⟩ := issueClk_idle hs hb ⟨⟨h6, h11⟩, h1, h2, h3, h4, h5, h7, h8, h9, h10, h12, h13, h14⟩
    have htimed : (ticked x y s).hart = s.hart.timed (s.clk + 1) := rfl
    have hkeep : (s.hart.timed (s.clk + 1)).id = s.hart.id ∧ (s.hart.timed (s.clk + 1)).ix = s.hart.ix ∧
        (s.hart.timed (s.clk + 1)).status = s.hart.status := by
      unfold Hart.timed
      split <;> exact ⟨rfl, rfl, rfl⟩
    obtain ⟨hid, hix', hstatus⟩ := hkeep
    obtain ⟨h1, h2, h3, h4, h5, hevent, htimer, hrun, hfree⟩ := issued_spec halone (by rw [htimed, hix']; exact hix)
    rw [htimed] at hevent htimer hrun hfree
    refine ⟨_, he, h1, h2, h3, h4, h5, fun ha hd => ?_, fun hr => ?_, fun hf => hfree (hstatus.trans hf)⟩
    · rw [Hart.timed_due ⟨ha, hd⟩] at hevent htimer
      exact ⟨hevent rfl, htimer⟩
    · have hg := hrun (hstatus.trans hr)
      rw [hid] at hg
      exact hg

end

section
/-! SUPPORT. A state in which a tidepool frame is backed by a frame of another package: what its core's slice then holds of a line of that
frame is a remote copy, so that a sector which the core owns counts as shared. -/

namespace Sys2Proof.Machine

/-- The first frame of the tidepool window of package 0, backed by the first frame of package 1. -/
def peerBackedFrame : TideFrame :=
  ⟨0x6000000, .backed (2 ^ 27), 0, 0, 0, false, false, none, none, none, false, none⟩

/-- A partition of cove 0 with every way of the slices of die 0. -/
def allWaysPart : Part := ⟨0, 1, 0, [(0, 0xFFFF)], [], [], none, none, [], [], [], 0, 0, 0, 0⟩

/-- Reset, with that frame and partition, and with core 0 the owner of the first sector of the frame, at version 5. -/
def ownedPeerSector : State :=
  { State.reset with parts := [allWaysPart], tide := [peerBackedFrame], sectors := [⟨2 ^ 38, some 0, false, 5, 0⟩] }

/-- The version that a step's next state has for a sector. -/
def verAfter (n : Nat) : Out → Option Nat
  | .next t => some (t.sectorAt n).ver
  | _ => none

/-- No copy of the line stands anywhere, and core 0 may take it in way 0. -/
theorem ownedPeerSector_unshared :
    ownedPeerSector.sharedLine 0 (2 ^ 36) = false ∧ ownedPeerSector.wayOk (linePlace (2 ^ 36)) 0 = true := by
  decide

/-- The grant installs a remote copy first, and so raises the version of the sector. -/
theorem ownedPeerSector_granted : verAfter (2 ^ 38) (exec (.ownershipGrant 0 0x60000000000) ownedPeerSector) = some 6 := by
  decide

end Sys2Proof.Machine
end

section
open Sys2Proof Sys2Proof.Machine Sys2Proof.Safety

/-- Refutes O56, in its clause on OWNERSHIP_GRANT: core 0 owns the sector and no copy of its line stands anywhere, yet the grant raises the
version from 5 to 6. The statement asks that the address be of the own package, but not that the frame which backs it is: here the tidepool
frame of the address is backed by a frame of package 1, so the slice takes a remote copy of the line, and with that the sector is shared. -/
theorem not_pipeWalkerSliceAndWatchSteps : ¬ Obligations.PipeWalkerSliceAndWatchSteps := by
  unfold Obligations.PipeWalkerSliceAndWatchSteps
  rintro ⟨-, -, -, -, -, slices, -⟩
  obtain ⟨-, -, -, grants, -⟩ := slices 0 0x60000000000 ownedPeerSector
  obtain ⟨granted, -⟩ := grants (by decide) (by decide) (by decide)
  obtain ⟨unshared, way⟩ := ownedPeerSector_unshared
  obtain ⟨t, step, -, -, -, keepsVersion, -⟩ := granted (.inr ⟨0, by decide, way⟩)
  have kept : (t.sectorAt (2 ^ 38)).ver = 5 := keepsVersion (by decide) unshared
  have raised := ownedPeerSector_granted
  rw [step] at raised
  have six : some (t.sectorAt (2 ^ 38)).ver = some 6 := raised
  rw [kept] at six
  exact absurd six (by decide)

end

section
/-! SUPPORT. Bit images, element by element: reading and writing runs of bits, and the element-wise effect (R7, R112). -/

namespace Sys2Proof.Machine

open Sys2Proof.Safety

/-! ### Runs of bits -/

theorem testBit_bitsAt (x off w i : Nat) : (bitsAt x off w).testBit i = (decide (i < w) && x.testBit (off + i)) := by
  rw [bitsAt, Nat.testBit_mod_two_pow, Nat.testBit_shiftRight]

theorem bitsAt_lt (x off w : Nat) : bitsAt x off w < 2 ^ w := Nat.mod_lt _ (Nat.two_pow_pos w)

theorem testBit_setBitsAt (x off w v i : Nat) :
    (setBitsAt x off w v).testBit i = if off ≤ i ∧ i < off + w then v.testBit (i - off) else x.testBit i := by
  rw [setBitsAt, Nat.testBit_xor, Nat.testBit_shiftLeft, Nat.testBit_xor, testBit_bitsAt, Nat.testBit_mod_two_pow]
  by_cases hi : off ≤ i
  · rw [show off + (i - off) = i by omega]
    by_cases hw : i < off + w
    · simp [hi, hw, show i - off < w by omega]
    · simp [hi, hw, show ¬ i - off < w by omega]
  · simp [hi]

/-- A run that was written reads as written. -/
theorem bitsAt_setBitsAt_same (x off w v : Nat) : bitsAt (setBitsAt x off w v) off w = v % 2 ^ w := by
  apply Nat.eq_of_testBit_eq
  intro i
  rw [testBit_bitsAt, testBit_setBitsAt, Nat.testBit_mod_two_pow]
  by_cases hi : i < w <;> simp [hi]

/-- A run apart from the one written reads as before. -/
theorem bitsAt_setBitsAt_apart {x off w v lo n : Nat} (h : lo + n ≤ off ∨ off + w ≤ lo) :
    bitsAt (setBitsAt x off w v) lo n = bitsAt x lo n := by
  apply Nat.eq_of_testBit_eq
  intro i
  rw [testBit_bitsAt, testBit_bitsAt, testBit_setBitsAt]
  by_cases hi : i < n
  · rw [if_neg (by omega)]
  · simp [hi]

/-- Elements of one width are apart. -/
theorem element_apart {k i w : Nat} (h : k ≠ i) : k * w + w ≤ i * w ∨ i * w + w ≤ k * w := by
  rcases Nat.lt_or_gt_of_ne h with h | h
  · exact .inl (by simpa only [Nat.succ_mul] using Nat.mul_le_mul_right w h)
  · exact .inr (by simpa only [Nat.succ_mul] using Nat.mul_le_mul_right w h)

/-! ### The element-wise effect -/

/-- An image after one element of the element-wise effect: written where active, zeroed or kept where masked. -/
def Gov.put (g : Gov) (wd v i img : Nat) : Nat :=
  if g.act.testBit i then setBitsAt img (i * wd) wd v else if g.zeroes i then setBitsAt img (i * wd) wd 0 else img

/-- What the element-wise effect leaves in an element, given what it held. -/
def Gov.result (g : Gov) (wd v i old : Nat) : Nat := if g.act.testBit i then v % 2 ^ wd else if g.zeroes i then 0 else old

theorem bitsAt_put_same (g : Gov) (wd v i img : Nat) :
    bitsAt (g.put wd v i img) (i * wd) wd = g.result wd v i (bitsAt img (i * wd) wd) := by
  unfold Gov.put Gov.result
  split
  · exact bitsAt_setBitsAt_same ..
  · split
    · rw [bitsAt_setBitsAt_same, Nat.zero_mod]
    · rfl

theorem bitsAt_put_apart (g : Gov) (wd v : Nat) {i img lo n : Nat} (h : lo + n ≤ i * wd ∨ i * wd + wd ≤ lo) :
    bitsAt (g.put wd v i img) lo n = bitsAt img lo n := by
  unfold Gov.put
  split
  · exact bitsAt_setBitsAt_apart h
  · split
    · exact bitsAt_setBitsAt_apart h
    · rfl

/-- The effect over elements `i` to `i + n - 1`, as a function of the image alone. -/
def Gov.run (g : Gov) (wd : Nat) (f : Nat → Nat) (n i img : Nat) : Nat := (elemRun g wd (fun i (u : Unit) => (f i, u)) n i (img, ())).1

theorem Gov.run_succ (g : Gov) (wd : Nat) (f : Nat → Nat) (n i img : Nat) :
    g.run wd f (n + 1) i img = g.run wd f n (i + 1) (g.put wd (f i) i img) := by
  unfold Gov.run Gov.put
  rw [elemRun]
  split
  · rfl
  · split <;> rfl

/-- The effect leaves every bit outside its elements. -/
theorem bitsAt_run_apart (g : Gov) (wd : Nat) (f : Nat → Nat) {n i img lo m : Nat} (h : lo + m ≤ i * wd ∨ (i + n) * wd ≤ lo) :
    bitsAt (g.run wd f n i img) lo m = bitsAt img lo m := by
  induction n generalizing i img with
  | zero => rfl
  | succ n ih =>
    have hi : (i + 1) * wd = i * wd + wd := Nat.succ_mul i wd
    have hn : (i + 1 + n) * wd ≤ (i + (n + 1)) * wd := Nat.mul_le_mul_right wd (by omega)
    have hs : (i + 1) * wd ≤ (i + (n + 1)) * wd := Nat.mul_le_mul_right wd (by omega)
    rw [Gov.run_succ, ih (by omega), bitsAt_put_apart _ _ _ (by omega)]

/-- Each element of the effect. -/
theorem bitsAt_run (g : Gov) (wd : Nat) (f : Nat → Nat) {n i k img : Nat} (hi : i ≤ k) (hk : k < i + n) :
    bitsAt (g.run wd f n i img) (k * wd) wd = g.result wd (f k) k (bitsAt img (k * wd) wd) := by
  induction n generalizing i img with
  | zero => omega
  | succ n ih =>
    rw [Gov.run_succ]
    obtain rfl | hne := eq_or_ne k i
    · rw [bitsAt_run_apart _ _ _ (.inl (Nat.succ_mul k wd).ge), bitsAt_put_same]
    · rw [ih (by omega) (by omega), bitsAt_put_apart _ _ _ (element_apart hne)]

theorem bitsAt_elemwise (g : Gov) (wd : Nat) (f : Nat → Nat) (img : Nat) {k : Nat} (hk : k < g.vl) :
    bitsAt (elemwise g wd f img) (k * wd) wd = g.result wd (f k) k (bitsAt img (k * wd) wd) :=
  bitsAt_run g wd f (Nat.zero_le k) (by omega)

theorem bitsAt_elemwise_tail (g : Gov) (wd : Nat) (f : Nat → Nat) (img : Nat) {k : Nat} (hk : g.vl ≤ k) :
    bitsAt (elemwise g wd f img) (k * wd) wd = bitsAt img (k * wd) wd :=
  bitsAt_run_apart g wd f (.inr (by rw [Nat.zero_add]; exact Nat.mul_le_mul_right wd hk))

end Sys2Proof.Machine
end

section
/-! SUPPORT. A vector group that is written as a whole, and the completion of the forms that write one (R108, R109, R112). -/

namespace Sys2Proof.Machine

open Sys2Proof.Safety

/-! ### Groups -/

/-- A register of the group takes its share of the image, and the tag, the dirty bit and the set. -/
theorem Hart.vreg_putGroup_in (level : Nat) (tag : Tag) (pv : PvSet) {r n j : Nat} (img : Nat) (h : Hart) (hn : r + n ≤ 32) (hj : j < n) :
    (Hart.putGroup level tag pv r img n h).vreg (r + j) = ⟨img / 2 ^ (8192 * level * j) % 2 ^ (8192 * level), tag, true, pv⟩ := by
  induction n generalizing r j img h with
  | zero => omega
  | succ n ih =>
    cases j with
    | zero => simpa using Hart.vreg_putGroup_first level tag pv img h hn
    | succ j =>
      rw [Hart.putGroup, show r + (j + 1) = r + 1 + j by omega, ih _ _ (by omega) (by omega), Nat.div_div_eq_div_mul, ← Nat.pow_add,
        Nat.mul_succ, Nat.add_comm]

/-- A group that starts at a multiple of its size lies in the file. -/
theorem dest_fits {s : State} {vd : BitVec 5} {d : Tag} (h : DestReady vd d s) : vd.toNat + d.count ≤ 32 :=
  group_within d.g.isLt vd.isLt h.1

/-- A group that is ready is one that may be written under its own tag. -/
theorem destReady_of_ready {r : BitVec 5} {s : State} (h : GroupReady r s) : DestReady r (s.tagOf r) s := by
  obtain ⟨-, hgroup, hholds⟩ := h
  simp only [State.groupOk, Bool.and_eq_true, beq_iff_eq] at hgroup
  exact ⟨hgroup.1, by simpa [State.holdsElems] using hholds⟩

/-- The elements below vl of a group lie in its registers. -/
theorem element_within {vd : BitVec 5} {d : Tag} {s : State} (h : DestReady vd d s) {k : Nat} (hk : k < s.vl) :
    (k + 1) * d.width ≤ 8192 * s.level * d.count := by
  rcases h.2 with h0 | hcap
  · rw [h0]; exact Nat.zero_le _
  · exact (Nat.mul_le_mul_right _ (hk.trans_le hcap)).trans (Nat.div_mul_le_self ..)

theorem elemAt_lt (s : State) (r : BitVec 5) (t : Tag) (k : Nat) : Safety.elemAt s r t k < 2 ^ t.width := bitsAt_lt ..

/-- The state with a group's image, tag and set written; `writeDst` gives it the set of its rule. -/
def State.putDst (s : State) (vd : BitVec 5) (d : Tag) (q : PvSet) (img : Nat) : State :=
  s.mapHart fun h => h.putGroup s.level d q vd.toNat img d.count

theorem writeDst_eq_putDst (s : State) (vd : BitVec 5) (d : Tag) (img : Nat) (p : PvSet) :
    s.writeDst vd d img p = s.putDst vd d (s.hart.groupPv vd.toNat d.count ||| p ||| s.vlPv ||| s.ctx) img := rfl

/-- An element of the group just written is that of the image. -/
theorem elemAt_putDst {s : State} {vd : BitVec 5} {d : Tag} (q : PvSet) (img : Nat) (hfit : vd.toNat + d.count ≤ 32) {k : Nat}
    (hk : (k + 1) * d.width ≤ 8192 * s.level * d.count) :
    Safety.elemAt (retire (s.putDst vd d q img)) vd d k = bitsAt img (k * d.width) d.width := by
  have himg : (retire (s.putDst vd d q img)).dstImg vd d = img % 2 ^ (8192 * s.level * d.count) :=
    (Hart.groupImg_congr (g := (retire (s.putDst vd d q img)).hart) (h := (s.putDst vd d q img).hart) rfl _ _ _).trans
      (Hart.groupImg_putGroup s.level _ _ img s.hart hfit)
  rw [Safety.elemAt, himg, bitsAt_mod (by rwa [← Nat.succ_mul])]

theorem elemAt_writeDst {s : State} {vd : BitVec 5} {d : Tag} (img : Nat) (p : PvSet) (hfit : vd.toNat + d.count ≤ 32) {k : Nat}
    (hk : (k + 1) * d.width ≤ 8192 * s.level * d.count) :
    Safety.elemAt (retire (s.writeDst vd d img p)) vd d k = bitsAt img (k * d.width) d.width := elemAt_putDst _ img hfit hk

theorem groupTagged_writeDst {s : State} {vd : BitVec 5} {d : Tag} (img : Nat) (p : PvSet) (hfit : vd.toNat + d.count ≤ 32) :
    GroupTagged vd d p s (retire (s.writeDst vd d img p)) where
  group j hj := by
    rw [show (retire (s.writeDst vd d img p)).hart.vreg (vd.toNat + j) = _ from Hart.vreg_putGroup_in _ _ _ img s.hart hfit hj]
    exact ⟨rfl, rfl, rfl⟩
  others r hr hne := Hart.vreg_putGroup_ne _ _ _ img s.hart hfit hr hne

/-- Writing a group reaches the vector registers alone. -/
theorem putGroup_masks (level : Nat) (tag : Tag) (pv : PvSet) (r img n : Nat) (h : Hart) :
    (Hart.putGroup level tag pv r img n h).vec.m = h.vec.m ∧ (Hart.putGroup level tag pv r img n h).vec.k = h.vec.k := by
  induction n generalizing r img h with
  | zero => exact ⟨rfl, rfl⟩
  | succ n ih => exact ih _ _ _

/-- The element-wise effect on a group: elements below vl by the mask, the others as they were. -/
theorem groupElems_writeDst {s : State} {vd : BitVec 5} {d : Tag} {g : Gov} {f res : Nat → Nat} (p : PvSet) (hd : DestReady vd d s)
    (hg : g.vl = s.vl) (hres : ∀ k, f k % 2 ^ d.width = res k % 2 ^ d.width) :
    GroupElems vd d g res s (retire (s.writeDst vd d (elemwise g d.width f (s.dstImg vd d)) p)) := by
  have below {k : Nat} (hk : k < s.vl) : Safety.elemAt (retire (s.writeDst vd d (elemwise g d.width f (s.dstImg vd d)) p)) vd d k =
      g.result d.width (f k) k (Safety.elemAt s vd d k) :=
    (elemAt_writeDst _ p (dest_fits hd) (element_within hd hk)).trans (bitsAt_elemwise g d.width f _ (hg ▸ hk))
  refine ⟨fun k hk ha => ?_, fun k hk ha => ?_, fun k hk hw => ?_⟩
  · rw [below hk, Gov.result, if_pos ha, hres]
  · rw [below hk, Gov.result, if_neg (by simp [ha])]
  · exact (elemAt_writeDst _ p (dest_fits hd) hw).trans (bitsAt_elemwise_tail g d.width f _ (hg ▸ hk))

theorem groupWritten_writeDst {s : State} {vd : BitVec 5} {d : Tag} {g : Gov} {f res : Nat → Nat} (p : PvSet) (hd : DestReady vd d s)
    (hg : g.vl = s.vl) (hres : ∀ k, f k % 2 ^ d.width = res k % 2 ^ d.width) :
    GroupWritten vd d g res p s (retire (s.writeDst vd d (elemwise g d.width f (s.dstImg vd d)) p)) :=
  ⟨groupElems_writeDst p hd hg hres, groupTagged_writeDst _ p (dest_fits hd), putGroup_masks ..⟩

/-! ### Completion -/

/-- A form that changes the vector file alone, and completes. -/
theorem vectorStep_of {s u : State} {x : VecFile} (h : u = { s with hart := { s.hart with vec := x } }) : VectorStep s (retire u) := by
  subst h
  exact ⟨rfl, hartOnly_of_eq rfl rfl⟩

/-- Writing a group reaches the vector file alone. -/
theorem putDst_eq (s : State) (vd : BitVec 5) (d : Tag) (q : PvSet) (img : Nat) :
    ∃ x, s.putDst vd d q img = { s with hart := { s.hart with vec := x } } := by
  obtain ⟨x, hx⟩ := Hart.putGroup_eq s.level d q vd.toNat img d.count s.hart
  exact ⟨x, by rw [← hx]; rfl⟩

theorem vectorStep_putDst (s : State) (vd : BitVec 5) (d : Tag) (q : PvSet) (img : Nat) : VectorStep s (retire (s.putDst vd d q img)) :=
  let ⟨_, hx⟩ := putDst_eq s vd d q img
  vectorStep_of hx

theorem vectorStep_writeDst (s : State) (vd : BitVec 5) (d : Tag) (img : Nat) (p : PvSet) : VectorStep s (retire (s.writeDst vd d img p)) :=
  vectorStep_putDst ..

/-- The completion of a form whose effect is element-wise. -/
theorem completes_group {i : Instr} {s : State} {vd : BitVec 5} {d : Tag} {g : Gov} {f res : Nat → Nat} {p : PvSet}
    (h : exec i s = .next (retire (s.writeDst vd d (elemwise g d.width f (s.dstImg vd d)) p))) (hd : DestReady vd d s) (hg : g.vl = s.vl)
    (hres : ∀ k, f k % 2 ^ d.width = res k % 2 ^ d.width) :
    Completes i s (fun u => VectorStep s u ∧ GroupWritten vd d g res p s u) :=
  ⟨_, h, vectorStep_writeDst .., groupWritten_writeDst p hd hg hres⟩

/-! ### Tag checks (R109) -/

/-- A check of groups that are ready, and of a destination that is, passes. -/
theorem tagReason_ready {c : TagCheck} {s : State} (hreads : ∀ r ∈ c.reads, GroupReady r s) (htagged : c.tagged = []) (hagree : c.agree = true)
    (hholds : ∀ x ∈ c.holds, s.holdsElems x.1 x.2 = true) (hscale : c.unscaled = false) (haccept : c.accept = true)
    (hdst : c.dstStart = true ∧ c.dstHolds s.level = true) : tagReason c s = none := by
  have hcode : (c.reads.any fun r => (s.tagOf r).code == 0) = false := by
    simpa [List.any_eq_false] using fun r hr => (hreads r hr).1
  have hgroup : ((c.reads ++ c.tagged).any fun r => !s.groupOk r) = false := by
    simpa [htagged, List.any_eq_false] using fun r hr => (hreads r hr).2.1
  have hvl : ((c.reads ++ c.tagged).any fun r => !c.short.contains r && !s.holdsElems r s.vl) = false := by
    simpa [htagged, List.any_eq_false, or_iff_not_imp_left] using fun r hr _ => (hreads r hr).2.2
  have hall : (c.holds.any fun x => !s.holdsElems x.1 x.2) = false := by
    simpa [List.any_eq_false] using fun r n h => hholds (r, n) h
  simp only [tagReason, hcode, hagree, hgroup, hvl, hall, hscale, haccept, hdst, Bool.not_true, Bool.or_self, Bool.false_eq_true, if_false]

/-- The destination's own checks. -/
theorem dst_ready {vd : BitVec 5} {d : Tag} {s : State} {c : TagCheck} (h : DestReady vd d s)
    (hc : c.dst = some (vd, d.count, d.width, s.vl)) : c.dstStart = true ∧ c.dstHolds s.level = true := by
  obtain ⟨hstart, hholds⟩ := h
  simp [TagCheck.dstStart, TagCheck.dstHolds, hc, hstart, hholds]

/-- A form that passes its checks has its effect. -/
theorem vecForm_eq {i : Instr} {c : TagCheck} {ovl : Bool} {s : State} (eff : State → State) (hc : tagReason c s = none) (ho : ovl = false) :
    vecForm i c ovl eff s = retire (eff s) := by
  simp [vecForm, hc, ho]

end Sys2Proof.Machine
end

section
/-! SUPPORT. The integer forms: sources, values per tag, and the shared shape of two-source forms (R114-R118, R198). -/

namespace Sys2Proof.Machine

open Sys2Proof.Safety

/-! ### Sources -/

theorem ready_of_vsrcs {f : VFmt} {s : State} (h : SourcesReady f s) : ∀ r ∈ vsrcs f, GroupReady r s := by
  obtain ⟨ha, hb⟩ := h
  unfold vsrcs
  cases hsb : f.sb
  · simpa using ⟨ha, (hb hsb).1⟩
  · simpa using ha

theorem sources_agree {f : VFmt} {s : State} (h : SourcesReady f s) : (f.sb || s.tagOf f.vb == s.tagOf f.va) = true := by
  cases hsb : f.sb
  · simpa using (h.2 hsb).2
  · rfl

theorem apart_overlap {f : VFmt} {d : Tag} {s : State} (h : Apart f d s) :
    (s.overlapSrc f.vd d f.va || (!f.sb && s.overlapSrc f.vd d f.vb)) = false := by
  obtain ⟨ha, hb⟩ := h
  cases hsb : f.sb
  · simpa [ha] using hb hsb
  · simp [ha]

theorem second_get (f : VFmt) (w : Nat) (s : State) (k : Nat) : (s.second f w).get k = secondAt f w s k := by
  unfold State.second secondAt
  split <;> rfl

theorem second_pv (f : VFmt) (w : Nat) (s : State) : (s.second f w).pv = secondPv f s := by
  unfold State.second secondPv
  split <;> rfl

theorem secondAt_lt {f : VFmt} {s : State} (h : SourcesReady f s) (k : Nat) : secondAt f (s.tagOf f.va).width s k < 2 ^ (s.tagOf f.va).width := by
  unfold secondAt
  cases hsb : f.sb
  · rw [if_neg Bool.false_ne_true, ← (h.2 hsb).2]; exact elemAt_lt ..
  · rw [if_pos rfl]; exact Nat.mod_lt _ (Nat.two_pow_pos _)

/-! ### Values per tag (R114, R115) -/

theorem isSigned_eq {t : Nat} (h1 : 1 ≤ t) (h8 : t ≤ 8) : isSigned t = decide (t % 2 = 1) := by
  simp [isSigned, isInt, h1, h8, beq_eq_decide]

theorem isInt_of_le {t : Nat} (h1 : 1 ≤ t) (h8 : t ≤ 8) : isInt t = true := by simp [isInt, h1, h8]

theorem perTag_eq {t : Nat} (h1 : 1 ≤ t) (h8 : t ≤ 8) (w x : Nat) :
    perTag t w x = if t % 2 = 1 then sint w x else ((x % 2 ^ w : Nat) : Int) := by
  rw [perTag, isSigned_eq h1 h8]; simp only [decide_eq_true_eq]

theorem saturate_eq {t : Nat} (h1 : 1 ≤ t) (h8 : t ≤ 8) (w : Nat) (x : Int) : saturate t w x =
    intMod w (if x < (if t % 2 = 1 then -((2 ^ (w - 1) : Nat) : Int) else 0) then (if t % 2 = 1 then -((2 ^ (w - 1) : Nat) : Int) else 0)
      else if (if t % 2 = 1 then ((2 ^ (w - 1) : Nat) : Int) - 1 else ((2 ^ w : Nat) : Int) - 1) < x
        then (if t % 2 = 1 then ((2 ^ (w - 1) : Nat) : Int) - 1 else ((2 ^ w : Nat) : Int) - 1) else x) := by
  by_cases h : t % 2 = 1 <;> simp [saturate, satRange, isSigned_eq h1 h8, h]

/-- A choice by the lesser of two, either way round. -/
theorem ite_lt_eq_ite_le (x y : Int) (a b : Nat) : (if y < x then b else a) = if x ≤ y then a else b := by
  simp only [← not_le, ite_not]

/-- The bits below a width that a number lacks. -/
theorem testBit_complement {w x : Nat} (hx : x < 2 ^ w) (i : Nat) : (2 ^ w - 1 - x).testBit i = (decide (i < w) && !x.testBit i) := by
  rw [show 2 ^ w - 1 - x = 2 ^ w - (x + 1) by omega, Nat.testBit_two_pow_sub_succ hx]

/-- The bits of one number that another lacks. -/
theorem and_complement {w a b : Nat} (ha : a < 2 ^ w) (hb : b < 2 ^ w) : a &&& (2 ^ w - 1 - b) = a ^^^ (a &&& b) := by
  apply Nat.eq_of_testBit_eq
  intro i
  rw [Nat.testBit_and, testBit_complement hb, Nat.testBit_xor, Nat.testBit_and]
  by_cases hi : i < w
  · cases a.testBit i <;> cases b.testBit i <;> simp [hi]
  · simp [Nat.testBit_lt_two_pow (ha.trans_le (Nat.pow_le_pow_right (by decide) (Nat.le_of_not_lt hi)))]

/-- The unsigned type has the width of the signed one. -/
theorem unsignedOf_width (t : Tag) : (unsignedOf t).width = t.width := by
  obtain ⟨ty, g, bl⟩ := t
  revert ty
  unfold unsignedOf Tag.width Tag.code
  simp only
  decide

/-! ### Two-source forms -/

/-- A two-source integer form whose operation and whose row agree on elements, modulo the width of the result. -/
theorem completes_intBinary {i : Instr} {f : VFmt} {res : Tag → Tag} {op : Nat → Nat → Nat → Nat → Nat} {row : Nat → Nat → Nat} {s : State}
    {t d : Tag} (hi : exec i s = .next (intBinary i f res op s)) (ht : s.tagOf f.va = t) (hres : res t = d) (hsrc : SourcesReady f s)
    (hint : isInt t.code = true) (hd : DestReady f.vd d s) (hap : Apart f d s)
    (hop : ∀ a < 2 ^ t.width, ∀ b < 2 ^ t.width, op t.width t.code a b % 2 ^ d.width = row a b % 2 ^ d.width) :
    Completes i s (fun u => VectorStep s u ∧ GroupWritten f.vd d (s.gov f t.width) (fun k => row (firstAt f s k) (secondAt f t.width s k))
      (s.pvOf f.va ||| secondPv f s ||| (s.gov f t.width).pv) s u) := by
  subst ht hres
  rw [intBinary, vecForm_eq] at hi
  rotate_left
  · exact tagReason_ready (ready_of_vsrcs hsrc) rfl (sources_agree hsrc) (by simp) rfl hint (dst_ready hd rfl)
  · exact apart_overlap hap
  dsimp only at hi
  rw [second_pv] at hi
  refine completes_group hi hd rfl fun k => ?_
  rw [second_get]
  exact hop _ (elemAt_lt ..) _ (secondAt_lt hsrc k)

end Sys2Proof.Machine
end

section
open Sys2Proof Sys2Proof.Machine Sys2Proof.Safety

/-- Settles O38: each form is the one two-source form, and its operation is that of its row on elements of the width. -/
theorem vectorIntegerResults : Obligations.VectorIntegerResults := by
  intro f s t w v lo hi clamp g p did h1 h8 hsrc
  have hint := isInt_of_le h1 h8
  have hv (x : Nat) : perTag t.code w x = v x := perTag_eq h1 h8 w x
  have hsat (x : Int) : saturate t.code w x = clamp x := saturate_eq h1 h8 w x
  have form {i : Instr} {res : Tag → Tag} {op : Nat → Nat → Nat → Nat → Nat} {row : Nat → Nat → Nat}
      (hi : exec i s = .next (intBinary i f res op s)) (hd : DestReady f.vd (res t) s) (hap : Apart f (res t) s)
      (hop : ∀ a < 2 ^ w, ∀ b < 2 ^ w, op w t.code a b % 2 ^ (res t).width = row a b % 2 ^ (res t).width) : did i (res t) row :=
    completes_intBinary hi rfl rfl hsrc hint hd hap hop
  clear_value did
  refine ⟨fun hd hap => ?_, fun hd hap => form rfl hd hap fun a _ b _ => ?_⟩
  · have same {i : Instr} {op : Nat → Nat → Nat → Nat → Nat} {row : Nat → Nat → Nat} (hi : exec i s = .next (intBinary i f id op s))
        (hop : ∀ a < 2 ^ w, ∀ b < 2 ^ w, op w t.code a b % 2 ^ w = row a b % 2 ^ w) : did i t row := form hi hd hap hop
    refine ⟨same rfl ?_, same rfl ?_, same rfl ?_, same rfl ?_, same rfl ?_, same rfl ?_, same rfl ?_, same rfl ?_, same rfl ?_, same rfl ?_,
      same rfl ?_, same rfl ?_, same rfl ?_, same rfl ?_, same rfl ?_, same rfl ?_, same rfl ?_, same rfl ?_⟩ <;> intro a ha b hb
    · exact Nat.mod_mod ..
    · exact Nat.mod_mod ..
    · rfl
    · rfl
    · rfl
    · rw [and_complement ha hb]
    · rw [Nat.mod_mod, Nat.shiftLeft_eq]; rfl
    · rw [Nat.shiftRight_eq_div_pow]; rfl
    · rw [Int.shiftRight_eq_div_pow]; rfl
    · rw [ite_lt_eq_ite_le]
    · rw [ite_lt_eq_ite_le]
    · rfl
    · rfl
    · rw [hsat, hv, hv]
    · rw [hsat, hv, hv]
    · simp only [hsat, hv]
    · rw [Int.shiftRight_eq_div_pow]
    · rfl
  · rw [hv, hv, unsignedOf_width, Nat.mod_mod]
end

section
/-! SUPPORT. Mask registers written element by element, carries, and the joined products (R112, R116-R119, R198). -/

namespace Sys2Proof.Machine

open Sys2Proof.Safety

/-! ### Mask registers -/

theorem Hart.mreg_setM_same (h : Hart) {r q : Nat} (x : BReg) (e : q % 8 = r % 8) : (h.setM r x).mreg q = x := by
  unfold Hart.mreg Hart.setM
  simp only [Vector.get_eq_getElem, e]
  exact Vector.getElem_set_self ..

theorem Hart.mreg_setM_ne (h : Hart) {r q : Nat} (x : BReg) (e : q % 8 ≠ r % 8) : (h.setM r x).mreg q = h.mreg q := by
  unfold Hart.mreg Hart.setM
  exact Vector.getElem_set_ne (Nat.mod_lt _ (by decide)) (Nat.mod_lt _ (by decide)) (Ne.symm e)

/-- A bit of an image is its element of width 1. -/
theorem testBit_eq_bitsAt (x k : Nat) : x.testBit k = (bitsAt x (k * 1) 1).testBit 0 := by
  rw [testBit_bitsAt]; simp

/-- A mask that the element-wise effect has written, bit by bit below vl. -/
theorem testBit_elemwise (g : Gov) (b : Nat → Bool) (x : Nat) {k : Nat} (hk : k < g.vl) :
    (elemwise g 1 (fun k => if b k then 1 else 0) x).testBit k = if g.act.testBit k then b k else !g.zeroes k && x.testBit k := by
  rw [testBit_eq_bitsAt, bitsAt_elemwise _ _ _ _ hk, Gov.result]
  split
  · cases b k <;> rfl
  · cases g.zeroes k
    · rw [if_neg Bool.false_ne_true, ← testBit_eq_bitsAt]; rfl
    · rw [if_pos rfl, Nat.zero_testBit]; rfl

theorem testBit_elemwise_tail (g : Gov) (f : Nat → Nat) (x : Nat) {k : Nat} (hk : g.vl ≤ k) : (elemwise g 1 f x).testBit k = x.testBit k := by
  rw [testBit_eq_bitsAt, bitsAt_elemwise_tail _ _ _ _ hk, ← testBit_eq_bitsAt]

/-! ### Groups, where mask registers change too -/

theorem groupImg_congr_v {g h : Hart} (e : g.vec.v = h.vec.v) (level r n : Nat) : g.groupImg level r n = h.groupImg level r n := by
  induction n generalizing r with
  | zero => rfl
  | succ n ih => rw [Hart.groupImg, Hart.groupImg, ih, Hart.vreg, e]; rfl

/-- An element is read from the vector registers and the level alone. -/
theorem elemAt_congr {t u : State} (hv : u.hart.vec.v = t.hart.vec.v) (hl : u.level = t.level) : Safety.elemAt u = Safety.elemAt t := by
  funext r d k
  rw [Safety.elemAt, Safety.elemAt, State.dstImg, State.dstImg, hl, groupImg_congr_v hv]

theorem groupElems_congr {vd : BitVec 5} {d : Tag} {g : Gov} {res : Nat → Nat} {s t u : State} (h : GroupElems vd d g res s t)
    (hv : u.hart.vec.v = t.hart.vec.v) (hl : u.level = t.level) : GroupElems vd d g res s u := by
  refine ⟨?_, ?_, ?_⟩ <;> rw [elemAt_congr hv hl]
  · exact h.active
  · exact h.masked
  · exact h.tail

theorem groupTagged_congr {vd : BitVec 5} {d : Tag} {p : PvSet} {s t u : State} (h : GroupTagged vd d p s t)
    (hv : u.hart.vec.v = t.hart.vec.v) : GroupTagged vd d p s u := by
  have e (r : Nat) : u.hart.vreg r = t.hart.vreg r := by rw [Hart.vreg, hv]; rfl
  refine ⟨?_, ?_⟩ <;> simp only [e]
  · exact h.group
  · exact h.others

/-- The set of the group is in its result already. -/
theorem groupTagged_absorb {vd : BitVec 5} {d : Tag} {p : PvSet} {s t : State}
    (h : GroupTagged vd d (p ||| s.hart.groupPv vd.toNat d.count) s t) : GroupTagged vd d p s t := by
  have e : s.hart.groupPv vd.toNat d.count ||| (p ||| s.hart.groupPv vd.toNat d.count) = s.hart.groupPv vd.toNat d.count ||| p := by
    rw [BitVec.or_comm p, ← BitVec.or_assoc, BitVec.or_self]
  refine ⟨?_, h.others⟩
  rw [← e]
  exact h.group

/-- A mask register written beside a group. -/
theorem vectorStep_setM {s u : State} (h : ∃ x, u = { s with hart := { s.hart with vec := x } }) (r : Nat) (b : BReg) :
    VectorStep s (retire (u.mapHart fun h => h.setM r b)) := by
  obtain ⟨x, rfl⟩ := h
  exact vectorStep_of (x := { x with m := x.m.set (r % 8) b (Nat.mod_lt _ (by decide)) }) rfl

/-- A group's write leaves the mask registers. -/
theorem mreg_writeDst (s : State) (vd : BitVec 5) (d : Tag) (img : Nat) (p : PvSet) (r : Nat) :
    (s.writeDst vd d img p).hart.mreg r = s.hart.mreg r := by
  have h : (s.writeDst vd d img p).hart.vec.m = s.hart.vec.m := (putGroup_masks ..).1
  rw [Hart.mreg, h]; rfl

/-- A group written element by element, with a mask register beside it. -/
theorem groupAndMask_written {s : State} {vd : BitVec 5} {d : Tag} {g : Gov} {f res : Nat → Nat} {p : PvSet} {md : Nat} (b : BReg)
    (hd : DestReady vd d s) (hg : g.vl = s.vl) (hres : ∀ k, f k % 2 ^ d.width = res k % 2 ^ d.width) :
    let u := retire ((s.writeDst vd d (elemwise g d.width f (s.dstImg vd d)) p).mapHart fun h => h.setM md b)
    VectorStep s u ∧ GroupElems vd d g res s u ∧ GroupTagged vd d p s u ∧ u.hart.vec.k = s.hart.vec.k ∧
      (∀ r, r % 8 ≠ md % 8 → u.hart.mreg r = s.hart.mreg r) ∧ u.hart.mreg md = b := by
  intro u
  have hv : u.hart.vec.v = (retire (s.writeDst vd d (elemwise g d.width f (s.dstImg vd d)) p)).hart.vec.v := rfl
  exact ⟨vectorStep_setM (putDst_eq ..) .., groupElems_congr (groupElems_writeDst p hd hg hres) hv rfl,
    groupTagged_congr (groupTagged_writeDst _ p (dest_fits hd)) hv, (putGroup_masks ..).2,
    fun r hr => (Hart.mreg_setM_ne _ _ hr).trans (mreg_writeDst ..), Hart.mreg_setM_same _ _ rfl⟩

/-! ### Carries (R116) -/

/-- VADC and VSBC: the element-wise sums, and the carries as a mask. -/
theorem completes_carry {i : Instr} {f : VFmt} {op : Nat → Nat → Nat → Nat → Nat × Bool} {s : State} {t : Tag} {res : Nat → Nat}
    {out : Nat → Bool} (hi : exec i s = .next (carryForm i f op s)) (ht : s.tagOf f.va = t) (hsrc : SourcesReady f s)
    (hint : isInt t.code = true) (hd : DestReady f.vd t s) (hap : Apart f t s)
    (hop : ∀ k, let x := op t.width (firstAt f s k) (secondAt f t.width s k) (bitsAt (s.hart.mreg f.vc.toNat).bits k 1)
      x.1 % 2 ^ t.width = res k % 2 ^ t.width ∧ x.2 = out k) :
    let g := s.gov f t.width
    let md := f.imm.toNat % 8
    Completes i s (fun u => VectorStep s u ∧ GroupElems f.vd t g res s u ∧
      GroupTagged f.vd t (s.pvOf f.va ||| secondPv f s ||| g.pv ||| (s.hart.mreg f.vc.toNat).pv) s u ∧ u.hart.vec.k = s.hart.vec.k ∧
      (∀ r, r % 8 ≠ md → u.hart.mreg r = s.hart.mreg r) ∧
      (∀ k < s.vl, (u.hart.mreg md).bits.testBit k = if g.act.testBit k then out k else !g.zeroes k && (s.hart.mreg md).bits.testBit k) ∧
      (∀ k, s.vl ≤ k → (u.hart.mreg md).bits.testBit k = (s.hart.mreg md).bits.testBit k)) := by
  subst ht
  intro g md
  rw [carryForm, vecForm_eq] at hi
  rotate_left
  · exact tagReason_ready (ready_of_vsrcs hsrc) rfl (sources_agree hsrc) (by simp) rfl hint (dst_ready hd rfl)
  · exact apart_overlap hap
  dsimp only at hi
  simp only [second_pv, second_get] at hi
  have hout (k : Nat) := (hop k).2
  have hfirst (k : Nat) : (s.vecSrc f.va).get k = firstAt f s k := rfl
  simp only [hfirst, hout] at hi
  obtain ⟨hstep, helems, htagged, hk, hothers, hmask⟩ := groupAndMask_written (g := g) (md := md)
    (p := s.pvOf f.va ||| secondPv f s ||| g.pv ||| (s.hart.mreg f.vc.toNat).pv ||| s.hart.groupPv f.vd.toNat (s.tagOf f.va).count)
    ⟨elemwise g 1 (fun k => if out k then 1 else 0) (s.hart.mreg md).bits, _⟩ hd rfl fun k => (hop k).1
  exact ⟨_, hi, hstep, helems, groupTagged_absorb htagged, hk, fun r hr => hothers r (by omega),
    fun k hk => (congrArg (fun x : BReg => x.bits.testBit k) hmask).trans (testBit_elemwise g _ _ hk),
    fun k hk => (congrArg (fun x : BReg => x.bits.testBit k) hmask).trans (testBit_elemwise_tail g _ _ hk)⟩

/-! ### Joined products (R117, R118, R198) -/

/-- Clamping to a range is the lesser of its end and the greater of its start. -/
theorem clamp_eq_max_min {lo hi x : Int} (h : lo ≤ hi) : (if x < lo then lo else if hi < x then hi else x) = max lo (min hi x) := by
  split
  · omega
  · split <;> omega

theorem saturate_eq_max_min {t : Nat} (h1 : 1 ≤ t) (h8 : t ≤ 8) (w : Nat) (x : Int) : saturate t w x =
    if t % 2 = 1 then intMod w (max (-((2 ^ (w - 1) : Nat) : Int)) (min (((2 ^ (w - 1) : Nat) : Int) - 1) x))
    else intMod w (max 0 (min (((2 ^ w : Nat) : Int) - 1) x)) := by
  have hs : 1 ≤ 2 ^ (w - 1) := Nat.one_le_two_pow
  have hu : 1 ≤ 2 ^ w := Nat.one_le_two_pow
  rw [saturate_eq h1 h8]
  split
  · rw [clamp_eq_max_min (by omega)]
  · rw [clamp_eq_max_min (by omega)]

/-- A product form that reads its destination as a third source, or writes a group of another width: past its checks it has its
element-wise effect. -/
theorem completes_products {i : Instr} {f : VFmt} {c : TagCheck} {ovl : Bool} {s : State} {d : Tag} {g : Gov} {w wd : Nat} {eff : State → State}
    {val res : Nat → Nat} (hi : exec i s = .next (vecForm i c ovl eff s)) (hc : tagReason c s = none) (ho : ovl = false)
    (heff : eff s = s.writeDst f.vd d (elemwise g wd val (s.dstImg f.vd d)) ((s.vecSrc f.va).pv ||| (s.second f w).pv ||| g.pv))
    (hw : wd = d.width) (hd : DestReady f.vd d s) (hg : g.vl = s.vl) (hres : ∀ k, val k % 2 ^ d.width = res k % 2 ^ d.width) :
    Completes i s (fun u => VectorStep s u ∧ GroupWritten f.vd d g res (s.pvOf f.va ||| secondPv f s ||| g.pv) s u) := by
  subst hw
  rw [vecForm_eq _ hc ho, heff, second_pv] at hi
  exact completes_group hi hd hg hres

/-- The widened tag has elements of twice the width. -/
theorem wideTag_width {t : Tag} (h1 : 1 ≤ t.code) (h6 : t.code ≤ 6) : (wideTag t).width = 2 * t.width := by
  obtain ⟨ty, g, bl⟩ := t
  revert ty
  unfold wideTag Tag.width Tag.code
  simp only
  decide

theorem anyOverlap_apart {f : VFmt} {d : Tag} {s : State} (ha : s.overlapAny f.vd d f.va = false)
    (hb : f.sb = false → s.overlapAny f.vd d f.vb = false) : (s.overlapAny f.vd d f.va || (!f.sb && s.overlapAny f.vd d f.vb)) = false := by
  cases hsb : f.sb
  · simpa [ha] using hb hsb
  · simp [ha]

end Sys2Proof.Machine
end

section
open Sys2Proof Sys2Proof.Machine Sys2Proof.Safety

/-- Settles O39: the carries by the one carry form, and each product form by its checks and its element-wise effect. -/
theorem vectorCarryAndProducts : Obligations.VectorCarryAndProducts := by
  intro f s t d w v sum a b g q c md carries h1 h8 hsrc
  have hint := isInt_of_le h1 h8
  have hv (x : Nat) : perTag t.code w x = v x := perTag_eq h1 h8 w x
  have hsum (n : Nat) (x : Int) : (if f.md.getLsbD 3 then saturate t.code n x else intMod n x) = sum n x := by
    rw [saturate_eq_max_min h1 h8]
  have hva := ready_of_vsrcs hsrc
  refine ⟨fun hd hap => ⟨?_, ?_⟩, fun hvd hdt hap => ?_, fun h6 hg hd hoa hob => ?_, fun hty hg hvd hha hhb hoa hob => ?_⟩
  · exact completes_carry rfl rfl hsrc hint hd hap fun k => ⟨Nat.mod_mod .., rfl⟩
  · exact completes_carry rfl rfl hsrc hint hd hap fun k => ⟨Nat.mod_mod .., rfl⟩
  · have hd : DestReady f.vd t s := hdt ▸ destReady_of_ready hvd
    have hdt' : s.tagOf f.vd = s.tagOf f.va := hdt
    have hagree : ((f.sb || s.tagOf f.vb == s.tagOf f.va) && s.tagOf f.vd == s.tagOf f.va) = true := by
      rw [sources_agree hsrc, hdt', beq_self_eq_true]; rfl
    have hdst (k : Nat) : (s.vecSrc f.vd).get k = Safety.elemAt s f.vd t k := congrArg (fun d => Safety.elemAt s f.vd d k) hdt
    refine completes_products (i := .vmac f) rfl (tagReason_ready (by simpa using ⟨hvd, hva⟩) rfl hagree (by simp) rfl hint ⟨rfl, rfl⟩)
      (apart_overlap hap) rfl rfl hd rfl fun k => congrArg (· % 2 ^ w) ((hsum w _).trans ?_)
    rw [hv, hv, hv, hdst, second_get]
    rfl
  · have hok : (isInt t.code && decide (t.code ≤ 6) && t.g != 3) = true := by
      simp only [hint, h6, decide_true, Bool.true_and, bne_iff_ne]
      exact hg
    refine completes_products (i := .vwmul f) rfl (tagReason_ready hva rfl (sources_agree hsrc) (by simp) rfl hok (dst_ready hd (if_pos hok)))
      (anyOverlap_apart hoa hob) rfl (wideTag_width h1 h6).symm hd rfl fun k => ?_
    rw [hv, hv, second_get]
    rfl
  · obtain ⟨hw, hwd⟩ : w = 16 ∧ d.width = 32 := by
      rcases hty with ⟨ht, hd⟩ | ⟨ht, hd⟩ <;> exact ⟨congrArg typeWidth ht, congrArg typeWidth hd⟩
    have hcode : 1 ≤ d.code ∧ d.code ≤ 8 ∧ d.code % 2 = t.code % 2 := by omega
    have hok : ((t.code == 3 && d.code == 5 || t.code == 4 && d.code == 6) && d.g == t.g) = true := by
      simpa [hg] using hty
    have hholds : ∀ x ∈ (vsrcs f).map fun r => (r, 2 * s.vl), s.holdsElems x.1 x.2 = true := by
      unfold vsrcs
      cases hsb : f.sb
      · simpa using ⟨hha, hhb hsb⟩
      · simpa using hha
    have hsat (x : Int) : saturate d.code 32 x = saturate t.code 32 x := by
      rw [saturate_eq_max_min hcode.1 hcode.2.1, saturate_eq_max_min h1 h8, hcode.2.2]
    have hv16 (x : Nat) : perTag t.code 16 x = v x := by rw [← hw]; exact hv x
    have hb (k : Nat) : (s.second f 16).get k = b k := by rw [← hw]; exact second_get f w s k
    have hdst (k : Nat) : perTag d.code 32 ((s.vecSrc f.vd).get k) =
        if t.code % 2 = 1 then sint 32 (Safety.elemAt s f.vd d k) else ((Safety.elemAt s f.vd d k : Nat) : Int) := by
      have hlt : Safety.elemAt s f.vd d k < 2 ^ 32 := hwd ▸ elemAt_lt s f.vd d k
      rw [perTag_eq hcode.1 hcode.2.1, hcode.2.2]
      show (if t.code % 2 = 1 then sint 32 (Safety.elemAt s f.vd d k) else ((Safety.elemAt s f.vd d k % 2 ^ 32 : Nat) : Int)) = _
      rw [Nat.mod_eq_of_lt hlt]
    refine completes_products (i := .vdot16 f) rfl (tagReason_ready (by simpa using ⟨hvd, hva⟩) rfl (sources_agree hsrc) hholds rfl hok ⟨rfl, rfl⟩)
      (anyOverlap_apart hoa hob) rfl hwd.symm (destReady_of_ready hvd) rfl fun k => congrArg (· % 2 ^ d.width) ?_
    dsimp only
    rw [hsat, hsum, hdst, hb, hb, hv16, hv16, hv16, hv16]
    rfl

end

section
/-! SUPPORT. Mask destinations, and the forms that read or write one element (R119-R122). -/

namespace Sys2Proof.Machine

open Sys2Proof.Safety

/-! ### Mask destinations -/

/-- A mask register written with bits that follow its rule. -/
theorem maskWritten_setM {s : State} {md x : Nat} {g : Gov} {res : Nat → Bool} {p : PvSet}
    (hactive : ∀ k < s.vl, g.act.testBit k = true → x.testBit k = res k)
    (hmasked : ∀ k < s.vl, g.act.testBit k = false → x.testBit k = (!g.zeroes k && (s.hart.mreg md).bits.testBit k))
    (htail : ∀ k, s.vl ≤ k → x.testBit k = (s.hart.mreg md).bits.testBit k) :
    MaskWritten md g res p s (retire (s.mapHart fun h => h.setM md ⟨x, (h.mreg md).pv ||| p ||| s.vlPv ||| s.ctx⟩)) := by
  have hm : (retire (s.mapHart fun h => h.setM md ⟨x, (h.mreg md).pv ||| p ||| s.vlPv ||| s.ctx⟩)).hart.mreg md =
      ⟨x, (s.hart.mreg md).pv ||| p ||| s.vlPv ||| s.ctx⟩ := Hart.mreg_setM_same s.hart _ rfl
  refine ⟨?_, ?_, ?_, ?_, fun r hr => Hart.mreg_setM_ne s.hart _ hr, rfl, rfl⟩ <;> rw [hm]
  · exact hactive
  · exact hmasked
  · exact htail

/-- A mask is read from the vector file alone. -/
theorem maskWritten_congr {md : Nat} {g : Gov} {res : Nat → Bool} {p : PvSet} {s t u : State} (h : MaskWritten md g res p s t)
    (hv : u.hart.vec = t.hart.vec) : MaskWritten md g res p s u := by
  have e (r : Nat) : u.hart.mreg r = t.hart.mreg r := by rw [Hart.mreg, hv]; rfl
  refine ⟨?_, ?_, ?_, ?_, ?_, ?_⟩ <;> simp only [e, hv]
  · exact h.active
  · exact h.masked
  · exact h.tail
  · exact h.pv
  · exact h.others
  · exact h.groups

/-- The completion of a form with an element-wise mask result. -/
theorem completes_mask {i : Instr} {s : State} {md : Nat} {g : Gov} {b : Nat → Bool} {p : PvSet}
    (h : exec i s = .next (retire (s.writeMask md (elemwise g 1 (fun k => if b k then 1 else 0) (s.hart.mreg md).bits) p))) (hg : g.vl = s.vl) :
    Completes i s (fun u => VectorStep s u ∧ MaskWritten md g b p s u) := by
  refine ⟨_, h, vectorStep_setM ⟨s.hart.vec, rfl⟩ .., maskWritten_setM (fun k hk ha => ?_) (fun k hk ha => ?_) fun k hk => ?_⟩
  · rw [testBit_elemwise g b _ (hg ▸ hk), if_pos ha]
  · rw [testBit_elemwise g b _ (hg ▸ hk), if_neg (by simp [ha])]
  · exact testBit_elemwise_tail g _ _ (hg ▸ hk)

/-! ### One element (R121) -/

theorem oneElem_eq {i : Instr} {r : BitVec 5} {s : State} (eff : State → State) (hc : (s.tagOf r).code ≠ 0) (hg : s.groupOk r = true) :
    oneElem i r eff s = retire (eff s) := by
  simp [oneElem, hc, hg]

/-- An element within the capacity lies in the group's registers. -/
theorem element_in_capacity {d : Tag} {level k : Nat} (h : k < capacity d.width d.count level) : (k + 1) * d.width ≤ 8192 * level * d.count :=
  (Nat.mul_le_mul_right _ h).trans (Nat.div_mul_le_self ..)

/-- VINS within the group: one element, and the group's tag, dirty bits and set. -/
theorem elemInserted_putDst {s : State} {vd : BitVec 5} (q : PvSet) (n x : Nat) (hg : s.groupOk vd = true)
    (hn : n < capacity (s.tagOf vd).width (s.tagOf vd).count s.level) :
    let d := s.tagOf vd
    let u := retire (s.putDst vd d q (setBitsAt (s.imgOf vd) (n * d.width) d.width x))
    Safety.elemAt u vd d n = x % 2 ^ d.width ∧
      (∀ k, k ≠ n → (k + 1) * d.width ≤ 8192 * s.level * d.count → Safety.elemAt u vd d k = Safety.elemAt s vd d k) ∧
      (∀ j < d.count, (u.hart.vreg (vd.toNat + j)).tag = d ∧ (u.hart.vreg (vd.toNat + j)).dirty = true ∧
        (u.hart.vreg (vd.toNat + j)).pv = q) ∧
      (∀ r < 32, (∀ j < d.count, r ≠ vd.toNat + j) → u.hart.vreg r = s.hart.vreg r) := by
  intro d u
  have hfit : vd.toNat + d.count ≤ 32 := group_fits hg
  refine ⟨?_, fun k hk hw => ?_, fun j hj => ?_, fun r hr hne => Hart.vreg_putGroup_ne _ _ _ _ s.hart hfit hr hne⟩
  · exact (elemAt_putDst q _ hfit (element_in_capacity hn)).trans (bitsAt_setBitsAt_same ..)
  · exact (elemAt_putDst q _ hfit hw).trans (bitsAt_setBitsAt_apart (element_apart hk))
  · rw [show u.hart.vreg (vd.toNat + j) = _ from Hart.vreg_putGroup_in _ _ _ _ s.hart hfit hj]
    exact ⟨rfl, rfl, rfl⟩

end Sys2Proof.Machine
end

section
open Sys2Proof Sys2Proof.Machine Sys2Proof.Safety

/-- Settles O40: a mask result, three element-wise copies, and the two forms that reach one element. -/
theorem vectorComparesAndMoves : Obligations.VectorComparesAndMoves := by
  intro f s t d w g b cond
  have hcond : ∀ c ≤ 9, ∀ x y, cmpCond c w x y = cond c x y := by
    intro c hc x y
    interval_cases c
    · exact beq_eq_decide x y
    · exact (congrArg (!·) (beq_eq_decide x y)).trans decide_not.symm
    all_goals rfl
  refine ⟨fun h1 h8 hsrc hmd => ?_, fun ha hb htag hd hoa hob => ?_, fun ha hd hoa => ?_, fun hvd => ?_, fun hcode hgroup => ?_,
    fun hcode hgroup => ⟨fun hn => ?_, fun hn => ?_⟩⟩
  · have hi : exec (.vcmp f) s = .next (vecForm _ _ _ _ s) := rfl
    rw [vecForm_eq _ (tagReason_ready (ready_of_vsrcs hsrc) rfl (sources_agree hsrc) (by simp) rfl (isInt_of_le h1 h8) ⟨rfl, rfl⟩) rfl] at hi
    have hc (x y : Nat) : cmpCond f.md.toNat (s.tagOf f.va).width x y = cond f.md.toNat x y := hcond _ hmd x y
    simp only [second_pv, second_get, hc] at hi
    exact completes_mask hi rfl
  · have hi : exec (.vsel f) s = .next (vecForm _ _ _ _ s) := rfl
    rw [vecForm_eq _ (tagReason_ready (by simpa using ⟨ha, hb⟩) rfl (by simpa using htag) (by simp) rfl rfl (dst_ready hd rfl))
      (by rw [hoa, hob]; rfl)] at hi
    have hsecond (k : Nat) : (s.vecSrc f.vb).get k = Safety.elemAt s f.vb t k := congrArg (fun d => Safety.elemAt s f.vb d k) htag
    exact completes_group hi hd rfl fun k => by rw [hsecond]; rfl
  · have hi : exec (.vmv f) s = .next (vecForm _ _ _ _ s) := rfl
    rw [vecForm_eq _ (tagReason_ready (by simpa using ha) rfl rfl (by simp) rfl rfl (dst_ready hd rfl)) hoa] at hi
    exact completes_group hi hd rfl fun k => rfl
  · have hi : exec (.vsplat f) s = .next (vecForm _ _ _ _ s) := rfl
    rw [vecForm_eq _ (tagReason_ready (by simpa using hvd) rfl rfl (by simp) rfl rfl ⟨rfl, rfl⟩) rfl] at hi
    exact completes_group hi (destReady_of_ready hvd) rfl fun k => Nat.mod_mod ..
  · have hi : exec (.vext f) s = .next (oneElem _ _ _ s) := rfl
    rw [oneElem_eq _ hcode hgroup] at hi
    intro n x
    have hsigned : isSigned (s.tagOf f.va).code = decide (t.code ≤ 8 ∧ t.code % 2 = 1) := by
      rw [Bool.eq_iff_iff]
      simp only [isSigned, isInt, Bool.and_eq_true, decide_eq_true_eq, beq_iff_eq, t]
      omega
    refine completes_scalar hi ?_ rfl
    simp only [hsigned, decide_eq_true_eq]
    rfl
  · have hi : exec (.vins f) s = .next (oneElem _ _ _ s) := rfl
    rw [oneElem_eq _ hcode hgroup, if_pos hn] at hi
    exact ⟨_, hi, vectorStep_putDst .., elemInserted_putDst _ _ _ hgroup hn⟩
  · have hi : exec (.vins f) s = .next (oneElem _ _ _ s) := rfl
    rw [oneElem_eq _ hcode hgroup, if_neg (Nat.not_lt.mpr hn)] at hi
    exact ⟨_, hi, rfl, hartOnly_of_eq rfl rfl⟩

end

section
/-! SUPPORT. The mask instructions: bits below vl, shifts through MSHOUT, and the first and last set bit (R122, R123). -/

namespace Sys2Proof.Machine

open Sys2Proof.Safety

/-! ### Results at every bit below vl -/

/-- A mask destination whose bits below vl are written whole. -/
theorem maskWritten_putMask {s : State} {md new : Nat} {res : Nat → Bool} (p : PvSet) (h : ∀ k < s.vl, new.testBit k = res k) :
    MaskWritten md (everyElement s) res p s (retire (s.putMask md new p)) := by
  have hbit (k : Nat) : (maskMerge (s.hart.mreg md).bits new s.vl).testBit k = if k < s.vl then new.testBit k else (s.hart.mreg md).bits.testBit k := by
    rw [maskMerge, testBit_setBitsAt]; simp
  have hactive (k : Nat) (hk : k < s.vl) : (everyElement s).act.testBit k = true := by
    rw [everyElement, Nat.testBit_two_pow_sub_one]; exact decide_eq_true hk
  refine maskWritten_setM (fun k hk _ => ?_) (fun k hk ha => ?_) fun k hk => ?_
  · rw [hbit, if_pos hk, h k hk]
  · rw [hactive k hk] at ha; cases ha
  · rw [hbit, if_neg (by omega)]

theorem completes_putMask {i : Instr} {s : State} {md new : Nat} {res : Nat → Bool} {p : PvSet}
    (hi : exec i s = .next (retire (s.putMask md new p))) (h : ∀ k < s.vl, new.testBit k = res k) :
    Completes i s (fun u => VectorStep s u ∧ MaskWritten md (everyElement s) res p s u) :=
  ⟨_, hi, vectorStep_setM ⟨s.hart.vec, rfl⟩ .., maskWritten_putMask p h⟩

/-- A bit below vl of what a mask holds below vl. -/
theorem testBit_below {x vl k : Nat} (hk : k < vl) : (x % 2 ^ vl).testBit k = x.testBit k := by
  rw [Nat.testBit_mod_two_pow, decide_eq_true hk, Bool.true_and]

/-! ### Shifts (R123) -/

/-- MSHL and MSHR: the mask, and MSHOUT with the mask's set. -/
theorem completes_maskShift {i : Instr} {f : VFmt} {op : Nat → Nat → Nat → Nat → Nat × Nat} {s : State} {res out : Nat → Bool}
    (hi : exec i s = .next (maskShift f op s)) :
    let a := s.hart.mreg f.va.toNat
    let n := f.imm.toNat % 128
    let fb := if f.imm.getLsbD 7 then s.hart.csr.mshout.toNat % 2 ^ n else 0
    (∀ k < s.vl, (op (a.bits % 2 ^ s.vl) fb s.vl n).1.testBit k = res k) →
    (∀ j, (op (a.bits % 2 ^ s.vl) fb s.vl n).2.testBit j = (decide (j < n) && out j)) →
    Completes i s (fun u => HartOnly s u ∧
      MaskWritten (f.vd.toNat % 8) (everyElement s) res (a.pv ||| (if f.imm.getLsbD 7 then s.hart.csrPv 0x007 else 0)) s u ∧
      u.hart = past s { s.hart with vec := u.hart.vec, csr := { s.hart.csr with mshout := u.hart.csr.mshout, pv := u.hart.csr.pv } } ∧
      (∀ j < 64, u.hart.csr.mshout.getLsbD j = (decide (j < n) && out j)) ∧
      u.hart.csrPv 0x007 = (u.hart.mreg (f.vd.toNat % 8)).pv) := by
  intro a n fb hbits hout
  refine ⟨_, hi, hartOnly_of_eq rfl rfl, maskWritten_congr (maskWritten_putMask _ hbits) rfl, rfl, fun j hj => ?_, ?_⟩
  · rw [← hout]
    exact (BitVec.getLsbD_ofNat ..).trans (by rw [decide_eq_true hj, Bool.true_and])
  · exact Hart.csrPv_setCsrPv_same ..

/-- Filled in below, a shift to the left is a sum. -/
theorem shift_or_eq_add {n b : Nat} (a : Nat) (h : b < 2 ^ n) : a * 2 ^ n ||| b = a * 2 ^ n + b := by
  rw [Nat.mul_comm, Nat.two_pow_add_eq_or_of_lt h]

/-! ### First and last set bits (R122) -/

/-- The lowest set bit: what a number loses to its predecessor. -/
theorem lowBit_eq {x k : Nat} (hk : x.testBit k = true) (hlow : ∀ j < k, x.testBit j = false) : lowBit x = k := by
  have hzero : x % 2 ^ k = 0 := Nat.eq_of_testBit_eq fun j => by
    rw [Nat.testBit_mod_two_pow, Nat.zero_testBit]
    by_cases hj : j < k
    · rw [hlow j hj, Bool.and_false]
    · rw [decide_eq_false hj, Bool.false_and]
  have hodd : x / 2 ^ k % 2 = 1 := by simpa [Nat.testBit_eq_decide_div_mod_eq] using hk
  obtain ⟨m, hm⟩ : ∃ m, x / 2 ^ k = 2 * m + 1 := ⟨x / 2 ^ k / 2, by omega⟩
  have hx : x = 2 ^ k * (2 * m + 1) + 0 := by rw [← hm, ← hzero, Nat.div_add_mod]
  have hpos : 0 < 2 ^ k := Nat.two_pow_pos k
  have hpred : x - 1 = 2 ^ k * (2 * m) + (2 ^ k - 1) := by rw [hx, Nat.mul_succ]; omega
  have hbit : x ^^^ (x &&& (x - 1)) = 2 ^ k := by
    apply Nat.eq_of_testBit_eq
    intro j
    rw [Nat.testBit_xor, Nat.testBit_and, hpred, hx, Nat.testBit_two_pow_mul_add _ hpos, Nat.testBit_two_pow_mul_add _ (by omega),
      Nat.testBit_two_pow]
    by_cases hj : j < k
    · simp [hj, Nat.ne_of_gt hj]
    · rw [if_neg hj, if_neg hj]
      obtain ⟨i, rfl⟩ : ∃ i, j = k + i := ⟨j - k, by omega⟩
      rw [Nat.add_sub_cancel_left]
      cases i with
      | zero => simp
      | succ i => simp [Nat.testBit_succ, Nat.mul_add_div]
  rw [lowBit, hbit, Nat.log2_two_pow]

/-- The highest set bit. -/
theorem log2_eq_of_testBit {x k : Nat} (hk : x.testBit k = true) (hhigh : ∀ j, k < j → x.testBit j = false) : x.log2 = k := by
  have hle : 2 ^ k ≤ x := Nat.ge_two_pow_of_testBit hk
  have hlt : x < 2 ^ (k + 1) := Nat.lt_pow_two_of_testBit x fun j hj => hhigh j hj
  exact (Nat.log2_eq_iff (by have := Nat.two_pow_pos k; omega)).mpr ⟨hle, hlt⟩

end Sys2Proof.Machine
end

section
open Sys2Proof Sys2Proof.Machine Sys2Proof.Safety

/-- Settles O41: bit by bit below vl; the shifts by the sum that they cut in two. -/
theorem maskInstructionResults : Obligations.MaskInstructionResults := by
  intro f s a b did num n fill bits shifted
  have ha : a.bits % 2 ^ s.vl < 2 ^ s.vl := Nat.mod_lt _ (Nat.two_pow_pos _)
  have hb : b.bits % 2 ^ s.vl < 2 ^ s.vl := Nat.mod_lt _ (Nat.two_pow_pos _)
  have hfill : fill < 2 ^ n := by
    simp only [fill]
    split
    · exact Nat.mod_lt _ (Nat.two_pow_pos n)
    · exact Nat.two_pow_pos n
  have hnot (hnone : ∀ k < s.vl, a.bits.testBit k = false) : bits = 0 := by
    by_contra h
    obtain ⟨k, hk, hset⟩ := (mod_two_pow_ne_zero_iff ..).mp h
    rw [hnone k hk] at hset; cases hset
  have hset {k : Nat} (hk : k < s.vl) (h : a.bits.testBit k = true) : bits.testBit k = true ∧ ¬ (bits == 0) = true := by
    refine ⟨by rw [testBit_below hk, h], fun e => ?_⟩
    exact (mod_two_pow_ne_zero_iff ..).mpr ⟨k, hk, h⟩ (beq_iff_eq.mp e)
  refine ⟨completes_putMask rfl fun k hk => ?_, completes_putMask rfl fun k hk => ?_, completes_putMask rfl fun k hk => ?_,
    completes_putMask rfl fun k hk => ?_, completes_putMask rfl fun k hk => ?_, completes_putMask rfl fun k hk => ?_,
    completes_maskShift rfl (fun k hk => ?_) fun j => ?_, completes_maskShift rfl (fun k hk => ?_) fun j => ?_,
    completes_scalar rfl ?_ rfl, fun hnone => ⟨completes_scalar rfl ?_ rfl, completes_scalar rfl ?_ rfl⟩,
    fun k hk h => ⟨fun hlow => completes_scalar rfl ?_ rfl, fun hhigh => completes_scalar rfl ?_ rfl⟩, completes_scalar rfl ?_ rfl⟩
  · rw [Nat.testBit_and, testBit_below hk, testBit_below hk]
  · rw [Nat.testBit_or, testBit_below hk, testBit_below hk]
  · rw [Nat.testBit_xor, testBit_below hk, testBit_below hk]
  · rw [Nat.testBit_and, testBit_complement hb, testBit_below hk, testBit_below hk, decide_eq_true hk, Bool.true_and]
  · rw [testBit_complement ha, testBit_below hk, decide_eq_true hk, Bool.true_and]
  · split
    · next h => rw [Nat.testBit_two_pow_sub_one, h]; exact decide_eq_true hk
    · next h => rw [Nat.zero_testBit]; exact (Bool.eq_false_iff.mpr h).symm
  · show ((bits * 2 ^ n ||| fill) % 2 ^ s.vl).testBit k = _
    rw [testBit_below hk, shift_or_eq_add _ hfill]
  · show (bitsAt (bits * 2 ^ n ||| fill) s.vl n).testBit j = _
    rw [testBit_bitsAt, shift_or_eq_add _ hfill]
  · show (bitsAt (bits ||| fill * 2 ^ s.vl) n s.vl).testBit k = _
    rw [testBit_bitsAt, decide_eq_true hk, Bool.true_and, Nat.or_comm, shift_or_eq_add _ ha, Nat.add_comm n, Nat.add_comm bits]
  · show (bitsAt (bits ||| fill * 2 ^ s.vl) 0 n).testBit j = _
    rw [testBit_bitsAt, Nat.or_comm, shift_or_eq_add _ ha, Nat.zero_add, Nat.add_comm bits]
  · rw [popCount_eq_countP]
  · exact if_pos (beq_iff_eq.mpr (hnot hnone))
  · exact if_pos (beq_iff_eq.mpr (hnot hnone))
  · refine (if_neg (hset hk h).2).trans (congrArg _ (lowBit_eq (hset hk h).1 fun j hj => ?_))
    rw [testBit_below (hj.trans hk), hlow j hj]
  · refine (if_neg (hset hk h).2).trans (congrArg _ (log2_eq_of_testBit (hset hk h).1 fun j hj => ?_))
    rw [Nat.testBit_mod_two_pow]
    by_cases hv : j < s.vl
    · rw [hhigh j hv hj, Bool.and_false]
    · rw [decide_eq_false hv, Bool.false_and]
  · have hone : bitsAt a.bits (s.getS f.ss).toNat 1 = (a.bits.testBit (s.getS f.ss).toNat).toNat := by
      rw [bitsAt, Nat.toNat_testBit, Nat.shiftRight_eq_div_pow, Nat.pow_one]
    show BitVec.ofNat 64 (if (s.getS f.ss).toNat < 8192 * s.level then bitsAt a.bits (s.getS f.ss).toNat 1 else 0) = _
    rw [hone]
    by_cases hk : (s.getS f.ss).toNat < 8192 * s.level <;> cases a.bits.testBit (s.getS f.ss).toNat <;> simp [hk]

end

section
/-! SUPPORT. The end of an XOP while a load that it has issued waits for its page (R244). -/

namespace Sys2Proof.Machine

/-- Where no issued load can be performed, settling them changes nothing. -/
theorem settleLoads_of_stuck {r : RRun} {s : State} (h : ∀ k i x, loadAt k i r s ≠ some (.ok x)) : settleLoads (r, s) = (r, s) := by
  have hone (k i : Nat) : settleLoad k i (r, s) = (r, s) := by
    unfold settleLoad
    split
    · next hl _ => exact absurd hl (h k i _)
    · rfl
  have hnode (l : List Nat) (k : Nat) : l.foldl (fun x i => settleLoad k i x) (r, s) = (r, s) := by
    induction l with
    | nil => rfl
    | cons i l ih => rw [List.foldl_cons, hone, ih]
  have hnodes (l m : List Nat) : l.foldl (fun x k => m.foldl (fun x i => settleLoad k i x) x) (r, s) = (r, s) := by
    induction l with
    | nil => rfl
    | cons k l ih => rw [List.foldl_cons, hnode, ih]
  unfold settleLoads
  generalize List.range 64 = rounds
  induction rounds with
  | nil => rfl
  | cons n l ih => rw [List.foldl_cons, hnodes, ih]

/-- A stopped XOP whose issued loads wait does not end yet. -/
theorem endXop_waits {r : RRun} {s : State} (f : XFmt) (h : ∀ k i x, loadAt k i r s ≠ some (.ok x)) (hw : loadsWait r s = true) :
    endXop r f s = waitFor .reef (s.mapReef fun x => { x with run := some r }) := by
  rw [endXop, settleLoads_of_stuck h]
  exact if_pos hw

/-- A stopped XOP of the hart goes to its end. -/
theorem exec_xop_stopped {r : RRun} {f : XFmt} {s : State} (allowed : Safety.Allowed (.xop f) s) (hr : s.core.reef.run = some r)
    (mine : r.hart = s.hart.ix) (stopped : (r.phase == .running) = false) : exec (.xop f) s = .next (endXop r f s) := by
  rw [exec_of_allowed (f := _) rfl allowed]
  simp [hr, mine, stopped]

/-- An XOP of slot 0 with no ports. -/
def portlessXop : XFmt := ⟨0, false, 0, 0, 0, false, 0, false, 0, false, 0, false, 0, 0⟩

/-- An opcode of hart 0 that has stopped at the capacity while its one node, a load of 32-bit elements, holds an issued load of address 0. -/
def stoppedLoad : RRun where
  hart := 0
  asid := 0
  slot := 0
  img := ⟨0, 0, 0, 0, [⟨4, 0, 5, 0, false, false, false, 0, 0⟩], []⟩
  ps := [0]
  f := portlessXop
  bound := 0
  gov := 0
  segIn := 0
  segReg := 0
  nodes := [⟨1, 0, [], [], [⟨0, 0⟩], 0⟩]
  edges := []
  vi := []
  vo := []
  ch := []
  mx := ⟨none, 0, false⟩
  set := 0
  flags := 0
  idle := 0
  frozen := false
  phase := .more
  first := none

/-- Reset, with that opcode on the core, the page of address 0 in the host window, and a page request for it open (R467). -/
def awaitingPage : State :=
  { State.reset with
    core := { Core.initial 0 with
      tlb := [⟨0, 0, 0x40000000000, 16, 0x12, .gather 0⟩]
      reef := { Reef.empty with run := some stoppedLoad } }
    pri := [⟨⟨0, 0⟩, 0x40000000, false, 0⟩] }

/-- The entry through which the load finds its page. -/
def hostEntry : TlbEntry := ⟨0, 0, 0x40000000000, 16, 0x12, .gather 0⟩

/-- The load's address lies in the host window. -/
theorem xlatVia_awaitingPage : xlatVia .gather 0 .read awaitingPage = .ok (0x40000000000, hostEntry, awaitingPage) := by
  have found : xlatWith .gather 0 .user 0 .read awaitingPage = .ok (0x40000000000, hostEntry, awaitingPage) := by rfl
  have pinned : awaitingPage.pinned 0 .read = none := by rfl
  have kept : keepPin hostEntry awaitingPage = awaitingPage := by rfl
  rw [xlatVia, pinned, show awaitingPage.hart.csr.ptroot = 0 by rfl, show awaitingPage.hart.mode = .user by rfl, found]
  exact congrArg (fun t => Except.ok (_, _, t)) kept

/-- The one load waits for the answer to its page request (R467). -/
theorem stoppedLoad_at_first : loadAt 0 0 stoppedLoad awaitingPage = some (.error (.inr ())) := by
  have host : awaitingPage.inHost 0x40000000000 = true := by rfl
  have waits : access 0 (typeWidth 5 / 8) .read 7 true awaitingPage = .wait .remote := by
    have answered : (awaitingPage.pri.any fun x => x.who == awaitingPage.hart.id && x.page == 0x40000000000 / 4096 && x.failed) = false := by rfl
    have open_ : (awaitingPage.pri.any fun x => x.page == 0x40000000000 / 4096 && !x.failed) = true := by rfl
    rw [access, show Via.ofAcc .read 7 = .gather by rfl, accessVia, xlatVia_awaitingPage]
    simp only
    rw [show awaitingPage.frameBusy 0x40000000000 = false by rfl, host, answered, open_]
    simp
  have reads : loadAt 0 0 stoppedLoad awaitingPage = some (portAccess stoppedLoad ⟨4, 0, 5, 0, false, false, false, 0, 0⟩ 0 none awaitingPage) := by rfl
  rw [reads, portAccess]
  simp only [waits]
  rfl

theorem stoppedLoad_stuck (k i : Nat) (x : Word × RRun × State) : loadAt k i stoppedLoad awaitingPage ≠ some (.ok x) := by
  match k, i with
  | 0, 0 => rw [stoppedLoad_at_first]; simp
  | 0, i + 1 => exact fun h => nomatch h
  | k + 1, i => exact fun h => nomatch h

theorem stoppedLoad_waits : loadsWait stoppedLoad awaitingPage = true := by
  refine List.any_eq_true.mpr ⟨0, by decide, List.any_eq_true.mpr ⟨0, by decide, ?_⟩⟩
  rw [stoppedLoad_at_first]

/-- The XOP at the head of its hart's items goes on to wait. -/
theorem execXop_waits : exec (.xop portlessXop) awaitingPage = .next (waitFor .reef (awaitingPage.mapReef fun x => { x with run := some stoppedLoad })) := by
  rw [exec_xop_stopped (.inr rfl) rfl rfl rfl, endXop_waits _ stoppedLoad_stuck stoppedLoad_waits]

end Sys2Proof.Machine
end

section
open Sys2Proof Sys2Proof.Machine Sys2Proof.Safety

/-- Refutes O53, in its clause on an XOP that has stopped: an issued load of the opcode still waits for its page, so that the XOP waits
with it (R244), where the statement has it end at once. -/
theorem not_reefForms : ¬ Obligations.ReefForms := by
  unfold Obligations.ReefForms
  rintro ⟨-, ended⟩
  obtain ⟨-, completes⟩ := ended portlessXop awaitingPage stoppedLoad (.inr rfl) rfl rfl
  obtain ⟨t, step, -, -, -, -, -, -, -, gone, -⟩ := completes (.inr rfl)
  rw [execXop_waits] at step
  cases step
  exact nomatch gone

end

section
/-! SUPPORT. The bytes of a vector store: one run, and the runs of a form in the order in which they are performed (R128, R129, R209). -/

namespace Sys2Proof.Machine

open Sys2Proof.Safety

/-! ### One run -/

/-- An aligned run lies within its frame. -/
theorem run_within {a n : Nat} (hn : 65536 % n = 0) (ha : a % n = 0) : a % 65536 + n ≤ 65536 := by
  obtain ⟨y, hy⟩ := Nat.dvd_of_mod_eq_zero hn
  obtain ⟨x, hx⟩ := (Nat.dvd_mod_iff ⟨y, hy⟩).mpr (Nat.dvd_of_mod_eq_zero ha)
  have hlt : n * x < n * y := by rw [← hx, ← hy]; exact Nat.mod_lt _ (by decide)
  calc a % 65536 + n = n * (x + 1) := by rw [hx, Nat.mul_succ]
    _ ≤ n * y := Nat.mul_le_mul_left n (Nat.lt_of_mul_lt_mul_left hlt)
    _ = 65536 := hy.symm

theorem length_runBytes (img : Nat) (r : PRun) : (runBytes img r).length = r.n := length_toLeBytes ..

theorem getElem_runBytes (img : Nat) (r : PRun) (k : Nat) (h : k < (runBytes img r).length) :
    (runBytes img r)[k] = BitVec.ofNat 8 (bitsAt img (8 * (r.off + k)) 8) := by
  have hk : k < r.n := length_runBytes img r ▸ h
  rw [show (runBytes img r)[k] = _ from getElem_toLeBytes _ _ _ h]
  refine BitVec.eq_of_getLsbD_eq fun i hi => ?_
  rw [BitVec.getLsbD_ofNat, BitVec.getLsbD_ofNat, testBit_bitsAt, show 256 ^ k = 2 ^ (8 * k) by rw [Nat.pow_mul], Nat.testBit_div_two_pow,
    testBit_bitsAt, show 8 * r.off + (i + 8 * k) = 8 * (r.off + k) + i by omega]
  simp [hi, show i + 8 * k < 8 * r.n by omega]

/-- One run of a store: its bytes, and no other. -/
theorem homeByte_storeRun {r : PRun} {s : State} (img : Nat) (p : PvSet) (hr : Unredirected r.pa s) (hn : r.pa % 65536 + r.n ≤ 65536)
    (hc : MemoryCanonical s) (a : Nat) :
    (storePa r.pa (runBytes img r) p s).homeByte a = if s.zeroLine a then 0 else storedByte [r] img (s.place a) (s.homeByte a) := by
  have hlen := length_runBytes img r
  obtain ⟨hl, hm⟩ := storePa_layout_mem p hr (b := runBytes img r) (by rwa [hlen])
  rw [State.homeByte, zeroLine_congr hl, place_congr hl, hm]
  refine if_ctx_congr Iff.rfl (fun _ => rfl) fun hz => ?_
  by_cases hin : r.pa ≤ s.place a ∧ s.place a < r.pa + r.n
  · have hk : s.place a - r.pa < (runBytes img r).length := by omega
    have hread := memRead_memWriteList r.pa _ _ s.mem hc hk
    rw [show r.pa + (s.place a - r.pa) = s.place a by omega, getElem_runBytes] at hread
    simp [storedByte, hin, hread]
  · rw [memRead_memWriteList_ne _ _ _ _ hc (by omega)]
    simp [storedByte, hin, State.homeByte, hz]

/-! ### The runs of a form -/

theorem storedByte_cons (r : PRun) (l : List PRun) (img a : Nat) (old : Byte) :
    storedByte (r :: l) img a old = storedByte l img a (storedByte [r] img a old) := by
  unfold storedByte
  rw [List.reverse_cons, List.find?_append]
  cases l.reverse.find? fun r => decide (r.pa ≤ a ∧ a < r.pa + r.n) <;> rfl

/-- The runs of a list have been stored from an image, in that order: the layout of memory and the registers are as before. -/
structure RunsStored (l : List PRun) (img : Nat) (s t : State) : Prop where
  kept : t.kept = s.kept
  bytes : ∀ a, t.homeByte a = if s.zeroLine a then 0 else storedByte l img (s.place a) (s.homeByte a)

theorem runsStored_foldl (img : Nat) (p : PvSet) {l : List PRun} {s : State} (hl : PlainRuns l s) (hc : MemoryCanonical s) :
    RunsStored l img s (l.foldl (fun t r => storePa r.pa (runBytes img r) p t) s) := by
  induction l generalizing s with
  | nil =>
    refine ⟨rfl, fun a => ?_⟩
    rw [List.foldl_nil, State.homeByte]
    split <;> rfl
  | cons r l ih =>
    obtain ⟨-, -, hdiv, halign, hun⟩ := hl r List.mem_cons_self
    have hwithin := run_within hdiv halign
    obtain ⟨hlay, hmem⟩ := storePa_layout_mem p hun (b := runBytes img r) (by rwa [length_runBytes])
    have hplain : PlainRuns l (storePa r.pa (runBytes img r) p s) := fun q hq =>
      let ⟨h1, h8, hd, ha, hu⟩ := hl q (List.mem_cons_of_mem _ hq)
      ⟨h1, h8, hd, ha, unredirected_congr hu hlay⟩
    obtain ⟨hkept, hbytes⟩ := ih hplain (storePa_memWf _ _ _ _ hc)
    refine ⟨hkept.trans (storePa_kept ..), fun a => ?_⟩
    rw [List.foldl_cons, hbytes, zeroLine_congr hlay, place_congr hlay, homeByte_storeRun img p hun hwithin hc]
    refine if_ctx_congr Iff.rfl (fun _ => rfl) fun hz => ?_
    rw [if_neg hz, storedByte_cons r l]

/-- The stored runs, told of a state before that shares layout, memory and registers. -/
theorem runsStored_of_same {l : List PRun} {img : Nat} {s s' t : State} (h : RunsStored l img s t) (hl : s.layout = s'.layout)
    (hm : s.mem = s'.mem) (hk : s.kept = s'.kept) : RunsStored l img s' t :=
  ⟨h.kept.trans hk, fun a => by rw [h.bytes, zeroLine_congr hl, place_congr hl, homeByte_congr hl hm]⟩

/-! ### The order of the runs -/

theorem insertRun_perm (key : Nat → Nat) (r : PRun) (l : List PRun) : (insertRun key r l).Perm (r :: l) := by
  induction l with
  | nil => exact .refl _
  | cons q l ih =>
    rw [insertRun]
    split
    · exact (ih.cons q).trans (.swap r q l)
    · exact .refl _

/-- Whatever the order, each run is performed once. -/
theorem orderRuns_perm (ordered : Bool) (n : Nat) (l : List PRun) : (orderRuns ordered n l).Perm l := by
  have sorted (l : List PRun) : (l.foldr (insertRun (Config.orderKey n)) []).Perm l := by
    induction l with
    | nil => exact .refl _
    | cons r l ih => exact (insertRun_perm _ _ _).trans (ih.cons r)
  unfold orderRuns
  split
  · exact .refl _
  · exact sorted l

theorem orderRuns_ordered (n : Nat) (l : List PRun) : orderRuns true n l = l := rfl

end Sys2Proof.Machine
end

section
/-! SUPPORT. Vector memory forms at the state that translation leaves: what translation keeps, the bytes gathered, and how a load and a store
complete (R112, R124-R129, R207-R209). -/

namespace Sys2Proof.Machine

open Sys2Proof.Safety

/-! ### What translation and ordering keep -/

theorem translateRuns_cons {v : Via} {p : Perm} {acc : Nat} {reads : Bool} {r : MRun} {runs : List MRun} {s u : State} {l : List PRun}
    (h : translateRuns v p acc reads (r :: runs) s = .ok (l, u)) : ∃ pa t m, accessVia v r.at_ r.n p acc reads s = .ok pa t ∧
      translateRuns v p acc reads runs t = .ok (m, u) ∧ l = ⟨r.ix, r.info, pa, r.off, r.n⟩ :: m := by
  rw [translateRuns] at h
  split at h
  · exact nomatch h
  · exact nomatch h
  · next pa t ha =>
    split at h
    · exact nomatch h
    · next m w hw =>
      obtain ⟨rfl, rfl⟩ : _ ∧ _ := by simpa using h
      exact ⟨pa, t, m, ha, hw, rfl⟩

theorem translateRuns_kept {v : Via} {p : Perm} {acc : Nat} {reads : Bool} {runs : List MRun} {s u : State} {l : List PRun}
    (h : translateRuns v p acc reads runs s = .ok (l, u)) : u.kept = s.kept := by
  induction runs generalizing s l with
  | nil =>
    obtain ⟨rfl, rfl⟩ : _ ∧ _ := by simpa [translateRuns] using h
    rfl
  | cons r runs ih =>
    obtain ⟨pa, t, m, ha, ht, -⟩ := translateRuns_cons h
    exact (ih ht).trans (accessVia_kept ha)

/-- The place of a run in the register image. -/
def PRun.slot (r : PRun) : Nat × Nat × Nat := (r.ix, r.off, r.n)

/-- Translation keeps the runs' places in the register image, and their order. -/
theorem translateRuns_slots {v : Via} {p : Perm} {acc : Nat} {reads : Bool} {runs : List MRun} {s u : State} {l : List PRun}
    (h : translateRuns v p acc reads runs s = .ok (l, u)) : l.map PRun.slot = runs.map fun r => (r.ix, r.off, r.n) := by
  induction runs generalizing s l with
  | nil =>
    obtain ⟨rfl, -⟩ : _ ∧ _ := by simpa [translateRuns] using h
    rfl
  | cons r runs ih =>
    obtain ⟨pa, t, m, -, ht, rfl⟩ := translateRuns_cons h
    rw [List.map_cons, List.map_cons, ih ht]
    rfl

theorem acquireRuns_kept (scope : Nat) (l : List PRun) (s : State) : (acquireRuns scope l s).kept = s.kept :=
  foldl_kept (fun s (r : PRun) => acquireAt scope (r.pa / 128) s) (fun s r => acquireAt_kept scope (r.pa / 128) s) l s

theorem releaseRuns_kept (scope : Nat) (l : List PRun) (s : State) : (releaseRuns scope l s).kept = s.kept :=
  foldl_kept (fun s (r : PRun) => releaseAt scope (r.pa / 128) s) (fun s r => releaseAt_kept scope (r.pa / 128) s) l s

theorem releaseRuns_layout (scope : Nat) (l : List PRun) (s : State) : (releaseRuns scope l s).layout = s.layout :=
  foldl_layout (fun s (r : PRun) => releaseAt scope (r.pa / 128) s) (fun s r => releaseAt_layout scope (r.pa / 128) s) l s

theorem releaseRuns_mem (scope : Nat) (l : List PRun) (s : State) : (releaseRuns scope l s).mem = s.mem := by
  unfold releaseRuns
  induction l generalizing s with
  | nil => rfl
  | cons r l ih => rw [List.foldl_cons, ih, releaseAt_mem]

/-- The state in which a load of runs reads: an acquire has had its effect. -/
def acquiring (f : VMFmt) (l : List PRun) (x : State) : State := if f.aqrl then acquireRuns f.scope.toNat l x else x

theorem acquiring_kept (f : VMFmt) (l : List PRun) (x : State) : (acquiring f l x).kept = x.kept := by
  unfold acquiring
  split
  · exact acquireRuns_kept ..
  · rfl

/-- Growing ctx is no matter to what access keeps. -/
theorem addCtx_kept {s u : State} (h : u.kept = s.kept) (p : PvSet) : (u.addCtx p).kept = (s.addCtx p).kept := by
  have hhart : u.hart.bare = s.hart.bare := congrArg Kept.hart h
  have hctx : (u.addCtx p).hart.bare = (s.addCtx p).hart.bare :=
    congrArg (fun x : Hart => { x with ctx := x.ctx ||| p }) hhart
  have hcore : u.core.bare = s.core.bare := congrArg Kept.core h
  have hparts : u.parts = s.parts := congrArg Kept.parts h
  have hchans : u.chans = s.chans := congrArg Kept.chans h
  simp only [State.kept, hctx, State.addCtx_core, State.addCtx_parts, State.addCtx_chans, hcore, hparts, hchans]

/-- What vector forms read of a state beyond memory: the vector file, the level and vl. -/
theorem vector_of_kept {s t : State} (h : t.kept = s.kept) : t.hart.vec = s.hart.vec ∧ t.level = s.level ∧ t.vl = s.vl := by
  obtain ⟨-, -, -, -, hcsr, hvec, -, -⟩ := hartFields_of_kept h
  exact ⟨hvec, congrArg (fun k : Kept => k.core.level) h, congrArg Csrs.vl hcsr⟩

section

variable {s t : State} (h : t.hart.vec = s.hart.vec ∧ t.level = s.level ∧ t.vl = s.vl)

include h

theorem tagOf_congr (r : BitVec 5) : t.tagOf r = s.tagOf r := by
  simp only [State.tagOf, Hart.vreg, h.1]

theorem govern_congr (gm : BitVec 3) : t.govern gm = s.govern gm := by
  simp only [State.govern, Hart.mreg, h.1, h.2.2]

theorem destReady_congr {vd : BitVec 5} {d : Tag} (hd : DestReady vd d s) : DestReady vd d t := by
  unfold DestReady
  rw [h.2.1, h.2.2]
  exact hd

theorem imgOf_congr (r : BitVec 5) : t.imgOf r = s.imgOf r := by
  simp only [State.imgOf, tagOf_congr h, h.2.1, groupImg_congr_v (congrArg VecFile.v h.1)]

end

/-! ### The bytes gathered -/

theorem loadNum_lt (s : State) (pa n : Nat) : s.loadNum pa n < 2 ^ (8 * n) := by
  induction n generalizing pa with
  | zero => exact Nat.one_pos
  | succ n ih =>
    have hb : (s.loadByte pa).toNat < 256 := (s.loadByte pa).isLt
    have hn := ih (pa + 1)
    rw [State.loadNum, show 8 * (n + 1) = 8 * n + 8 by omega, Nat.pow_add]
    omega

/-- A run is the whole of its element of a width. -/
def PRun.Fills (w : Nat) (r : PRun) : Prop := 8 * r.off = r.ix * w ∧ 8 * r.n = w

/-- Runs of other elements leave an element of the image alone. -/
theorem gather_apart {read : Nat → Nat → Nat} {w : Nat} {l : List PRun} (hf : ∀ r ∈ l, r.Fills w) {k : Nat} (hk : k ∉ l.map PRun.ix) (img : Nat) :
    bitsAt (l.foldl (fun x r => setBitsAt x (8 * r.off) (8 * r.n) (read r.pa r.n)) img) (k * w) w = bitsAt img (k * w) w := by
  induction l generalizing img with
  | nil => rfl
  | cons r l ih =>
    obtain ⟨hoff, hn⟩ := hf r List.mem_cons_self
    obtain ⟨hne, hrest⟩ : k ≠ r.ix ∧ k ∉ l.map PRun.ix := by simpa using hk
    rw [List.foldl_cons, ih (fun q hq => hf q (List.mem_cons_of_mem _ hq)) hrest, hoff, hn, bitsAt_setBitsAt_apart (element_apart hne)]

/-- Each element of the image has what its own run read. -/
theorem bitsAt_gather {read : Nat → Nat → Nat} {w : Nat} {l : List PRun} (hf : ∀ r ∈ l, r.Fills w) (hl : (l.map PRun.ix).Nodup) {r : PRun} (hr : r ∈ l) :
    bitsAt (gather read l) (r.ix * w) w = read r.pa r.n % 2 ^ w := by
  unfold gather
  generalize 0 = img
  induction l generalizing img with
  | nil => exact nomatch hr
  | cons q l ih =>
    obtain ⟨hq, hrest⟩ := List.nodup_cons.mp hl
    have hfl : ∀ r ∈ l, r.Fills w := fun x hx => hf x (List.mem_cons_of_mem _ hx)
    rw [List.foldl_cons]
    rcases List.mem_cons.mp hr with rfl | hr
    · obtain ⟨hoff, hn⟩ := hf r List.mem_cons_self
      rw [gather_apart hfl hq, hoff, hn, bitsAt_setBitsAt_same]
    · exact ih hfl hrest hr _

/-- A width of whole bytes, and no more than eight of them. -/
theorem bytes_of_byteWidth {w : Nat} (h : isByteWidth w = true) : w % 8 = 0 ∧ 8 * (w / 8) = w := by
  simp only [isByteWidth, Bool.or_eq_true, beq_iff_eq] at h
  omega

/-- The runs of whole elements, translated. -/
theorem elemRuns_translated {v : Via} {p : Perm} {acc : Nat} {reads : Bool} {w : Nat} {addr : Nat → Word} {els : List Nat} {s u : State}
    {l : List PRun} (h : translateRuns v p acc reads (elemRuns w addr els) s = .ok (l, u)) (hw : 8 * (w / 8) = w) :
    l.map PRun.ix = els ∧ ∀ r ∈ l, r.Fills w := by
  have hslots : l.map PRun.slot = els.map fun i => (i, i * w / 8, w / 8) := by
    rw [translateRuns_slots h, elemRuns, List.map_map]
    rfl
  refine ⟨?_, fun r hr => ?_⟩
  · have := congrArg (List.map Prod.fst) hslots
    simpa [List.map_map, Function.comp_def, PRun.slot] using this
  · obtain ⟨i, -, hi⟩ := List.mem_map.mp (hslots ▸ List.mem_map_of_mem hr)
    obtain ⟨rfl, hoff, hn⟩ : i = r.ix ∧ i * w / 8 = r.off ∧ w / 8 = r.n := by simpa [PRun.slot] using hi
    refine ⟨?_, by omega⟩
    rw [← hoff, ← hw, Nat.mul_left_comm, Nat.mul_div_cancel_left _ (by decide)]

theorem activeOf_nodup (act vl : Nat) : (activeOf act vl).Nodup := List.nodup_range.filter _

/-! ### Loads and stores -/

theorem memChecks_eq {i : Instr} {c : TagCheck} {ovl : Bool} {s : State} (eff : State → State) (hc : tagReason c s = none) (ho : ovl = false) :
    memChecks i c ovl eff s = eff s := by
  simp [memChecks, hc, ho]

theorem memForm_eq {i : Instr} {v : Via} {bad : Option Word} {p : Perm} {acc : Nat} {reads : Bool} {runs : List MRun} {flow : PvSet}
    {eff : List PRun → State → State} {s u : State} {l : List PRun} (hb : bad = none) (h : translateRuns v p acc reads runs s = .ok (l, u)) :
    memForm i v bad p acc reads runs flow eff s = eff l (u.addCtx flow) := by
  simp [memForm, hb, h]

/-- The end of a load: the group of the destination, told of a state with the tag and vl of the form's own. -/
theorem finishLoad_written {f : VMFmt} {wg : Nat} {read : Nat → Nat → Nat} {pv : Nat → PvSet} {l : List PRun} {s b : State}
    (hd : GroupReady f.vd s) (hb : b.hart.vec = s.hart.vec ∧ b.level = s.level ∧ b.vl = s.vl) :
    GroupWritten f.vd (s.tagOf f.vd) (b.govM f wg) (fun k => bitsAt (gather read l) (k * (s.tagOf f.vd).width) (s.tagOf f.vd).width)
      ((s.govern f.gm).2 ||| runsPv pv l) b (retire (finishLoad f wg read pv l b)) := by
  rw [finishLoad, tagOf_congr hb, show (b.govM f wg).pv = (s.govern f.gm).2 from congrArg Prod.snd (govern_congr hb f.gm)]
  exact groupWritten_writeDst _ (destReady_congr hb (destReady_of_ready hd)) rfl fun _ => rfl

/-- A load of a shape whose runs are translated. -/
theorem completes_vload {i : Instr} {f : VMFmt} {sh : Shape} {s u : State} {l : List PRun}
    (hi : exec i s = .next (vload i f sh s)) (hd : GroupReady f.vd s) (hbad : sh.bad (activeOf (s.govern f.gm).1 s.vl) = none)
    (hruns : translateRuns sh.via .read 2 true (sh.runs (activeOf (s.govern f.gm).1 s.vl)) s = .ok (l, u))
    (hel : isByteWidth (s.tagOf f.vd).width = true → ∃ addr, sh.runs = elemRuns (s.tagOf f.vd).width addr) :
    let d := s.tagOf f.vd
    let b := acquiring f l (u.addCtx sh.flow)
    Completes i s (fun t => VectorStep b t ∧
      (isByteWidth d.width = true → ∀ r ∈ l, bitsAt (gather b.loadNum l) (r.ix * d.width) d.width = b.loadNum r.pa (d.width / 8)) ∧
      GroupWritten f.vd d (b.govM f sh.wg) (fun k => bitsAt (gather b.loadNum l) (k * d.width) d.width)
        ((s.govern f.gm).2 ||| runsPv b.loadPv l) b t) := by
  intro d b
  have hkept : b.kept = (s.addCtx sh.flow).kept := (acquiring_kept ..).trans (addCtx_kept (translateRuns_kept hruns) _)
  have hvec : b.hart.vec = s.hart.vec ∧ b.level = s.level ∧ b.vl = s.vl := vector_of_kept (s := s.addCtx sh.flow) hkept
  have heq : vload i f sh s = retire (finishLoad f sh.wg b.loadNum b.loadPv l b) := by
    rw [vload, memForm_eq hbad hruns]
    rfl
  refine ⟨_, hi.trans (congrArg _ heq), vectorStep_writeDst .., fun hbyte r hr => ?_, finishLoad_written hd hvec⟩
  obtain ⟨addr, haddr⟩ := hel hbyte
  have hw := (bytes_of_byteWidth hbyte).2
  obtain ⟨hix, hfills⟩ := elemRuns_translated (haddr ▸ hruns) hw
  have hn : r.n = d.width / 8 := by have := (hfills r hr).2; omega
  have hlt := loadNum_lt b r.pa (d.width / 8)
  rw [bitsAt_gather hfills (hix ▸ activeOf_nodup ..) hr, hn, Nat.mod_eq_of_lt (by rwa [hw] at hlt)]

/-- A memory form that leaves the registers, and completes. -/
theorem memoryStep_retire {s u : State} (h : u.kept = s.kept) : MemoryStep s (retire u) := by
  obtain ⟨hs, hsp, hctx, -, -, hvec, -, -⟩ := hartFields_of_kept h
  exact ⟨passed_retire (going_of_bare (congrArg Kept.hart h)), hvec, hs, hsp, hctx⟩

/-- The state in which a store of runs writes: a release has had its effect. -/
def released (f : VMFmt) (l : List PRun) (t : State) : State := if f.aqrl then releaseRuns f.scope.toNat l t else t

theorem released_same (f : VMFmt) (l : List PRun) (t : State) :
    (released f l t).layout = t.layout ∧ (released f l t).mem = t.mem ∧ (released f l t).kept = t.kept := by
  unfold released
  split
  · exact ⟨releaseRuns_layout .., releaseRuns_mem .., releaseRuns_kept ..⟩
  · exact ⟨rfl, rfl, rfl⟩

/-- The runs stored after a release, in the state before it. -/
theorem runsStored_released {q : List PRun} {img : Nat} {s t : State} (f : VMFmt) (p : PvSet) (l : List PRun) (hc : MemoryCanonical s)
    (hl : PlainRuns q s) (ht : t.layout = s.layout ∧ t.mem = s.mem ∧ t.kept = s.kept) :
    RunsStored q img s (q.foldl (fun v r => storePa r.pa (runBytes img r) p v) (released f l t)) := by
  obtain ⟨hlay, hmem, hkept⟩ := released_same f l t
  refine runsStored_of_same (runsStored_foldl img p (fun r hr => ?_) ?_) (hlay.trans ht.1) (hmem.trans ht.2.1) (hkept.trans ht.2.2)
  · obtain ⟨h1, h8, hdiv, halign, hun⟩ := hl r hr
    exact ⟨h1, h8, hdiv, halign, unredirected_congr hun (hlay.trans ht.1)⟩
  · rwa [MemoryCanonical, hmem, ht.2.1]

/-- A store of a shape whose runs are translated, plain and within their ceilings. -/
theorem completes_vstore {i : Instr} {f : VMFmt} {sh : Shape} {ordered : Bool} {s u : State} {l : List PRun}
    (hi : exec i s = .next (vstore i f sh ordered s)) (hbad : sh.bad (activeOf (s.govern f.gm).1 s.vl) = none)
    (hruns : translateRuns sh.via .write 3 false (sh.runs (activeOf (s.govern f.gm).1 s.vl)) s = .ok (l, u)) :
    let b := u.addCtx sh.flow
    MemoryCanonical b → PlainRuns l b → checkRuns (b.pvOf f.vd ||| (b.govern f.gm).2 ||| b.vlPv ||| b.ctx) 3 b l = none →
    Completes i s (fun t => MemoryStep b t ∧ ∃ q : List PRun, q.Perm l ∧ (ordered = true → q = l) ∧
      ∀ a, t.homeByte a = if b.zeroLine a then 0 else storedByte q (b.imgOf f.vd) (b.place a) (b.homeByte a)) := by
  intro b hc hl hcheck
  set p := b.pvOf f.vd ||| (b.govern f.gm).2 ||| b.vlPv ||| b.ctx
  obtain ⟨n, t, ht, heq⟩ : ∃ n t, (t.layout = b.layout ∧ t.mem = b.mem ∧ t.kept = b.kept) ∧ vstore i f sh ordered s =
      retire ((orderRuns ordered n l).foldl (fun v r => storePa r.pa (runBytes ((released f l t).imgOf f.vd) r) p v) (released f l t)) := by
    rw [vstore, memForm_eq hbad hruns]
    dsimp only
    rw [hcheck]
    refine ⟨(if ordered || !meets l then (0, b) else b.nextFree).1, (if ordered || !meets l then (0, b) else b.nextFree).2, ?_, rfl⟩
    split <;> exact ⟨rfl, rfl, rfl⟩
  have himg : (released f l t).imgOf f.vd = b.imgOf f.vd := imgOf_congr (vector_of_kept ((released_same f l t).2.2.trans ht.2.2)) _
  have hperm := orderRuns_perm ordered n l
  have hstored := runsStored_released (img := b.imgOf f.vd) f p l hc (fun r hr => hl r (hperm.subset hr)) ht
  rw [himg] at heq
  exact ⟨_, hi.trans (congrArg _ heq), memoryStep_retire hstored.kept, _, hperm, fun ho => ho ▸ orderRuns_ordered n l, hstored.bytes⟩

end Sys2Proof.Machine
end

section
/-! SUPPORT. The tag checks and the shapes of the vector memory forms (R109, R125, R208). -/

namespace Sys2Proof.Machine

open Sys2Proof.Safety

/-- A check of groups that are read, all ready, passes. -/
theorem tagReason_reads {c : TagCheck} {s : State} (l : List (BitVec 5)) (a : Bool) (hc : c = { reads := l, accept := a })
    (hl : ∀ r ∈ l, GroupReady r s) (ha : a = true) : tagReason c s = none := by
  subst hc
  exact tagReason_ready hl rfl rfl (by simp) rfl ha ⟨rfl, rfl⟩

theorem strideCheck_ready {f : VMFmt} {s : State} (hd : GroupReady f.vd s) (hw : isByteWidth (s.tagOf f.vd).width = true) :
    tagReason (s.strideCheck f) s = none :=
  tagReason_reads [f.vd] _ rfl (by simpa using hd) hw

theorem indexCheck_ready {f : VMFmt} {s : State} (hd : GroupReady f.vd s) (hw : isByteWidth (s.tagOf f.vd).width = true)
    (hx : GroupReady f.sb s ∧ isInt (s.tagOf f.sb).code = true) : tagReason (s.indexCheck f) s = none :=
  tagReason_reads [f.vd, f.sb] _ rfl (by simpa using ⟨hd, hx.1⟩) (by simp [hw, hx.2])

/-- Unit stride under a width of whole bytes takes whole elements. -/
theorem unitShape_runs (f : VMFmt) (s : State) (hw : isByteWidth (s.tagOf f.vd).width = true) :
    ∃ addr, (s.unitShape f).runs = elemRuns (s.tagOf f.vd).width addr := by
  refine ⟨fun i => vbase f s + BitVec.ofNat 64 (i * (s.tagOf f.vd).width / 8), ?_⟩
  funext l
  have h8 : ((s.tagOf f.vd).width % 8 == 0) = true := by simpa using (bytes_of_byteWidth hw).1
  exact if_pos h8

end Sys2Proof.Machine
end

section
open Sys2Proof Sys2Proof.Machine Sys2Proof.Safety

/-- Settles O46: past its checks each load is the load of its shape, and each store the store of its shape. -/
theorem vectorLoadsAndStores : Obligations.VectorLoadsAndStores := by
  unfold Obligations.VectorLoadsAndStores
  intro f s u l d els byte index apart unit strided indexed reads loaded writes stored hd
  have unitTags {c : TagCheck} (a : Bool) (hc : c = { reads := [f.vd], accept := a }) (ha : a = true) : tagReason c s = none :=
    tagReason_reads [f.vd] a hc (by simpa using hd) ha
  refine ⟨fun ⟨hbad, hr⟩ => ?_, fun ⟨hbad, hr⟩ hw => ?_, fun ⟨hbad, hr⟩ hw hx ho => ?_, fun ⟨hbad, hr⟩ hw hx ho => ?_,
    fun ⟨hbad, hr, hg, hc, hl, hk⟩ hw => ?_, fun ⟨hbad, hr, hg, hc, hl, hk⟩ hw => ?_, fun ⟨hbad, hr, hg, hc, hl, hk⟩ hw hx => ?_,
    fun ⟨hbad, hr, hg, hc, hl, hk⟩ hw hx => ?_⟩
  · exact completes_vload (congrArg _ (memChecks_eq _ (unitTags true rfl rfl) rfl)) hd hbad hr (unitShape_runs f s)
  · exact completes_vload (congrArg _ (memChecks_eq _ (strideCheck_ready hd hw) rfl)) hd hbad hr fun _ => ⟨_, rfl⟩
  · exact completes_vload (congrArg _ (memChecks_eq _ (indexCheck_ready hd hw hx) ho)) hd hbad hr fun _ => ⟨_, rfl⟩
  · exact completes_vload (congrArg _ (memChecks_eq _ (indexCheck_ready hd hw hx) ho)) hd hbad hr fun _ => ⟨_, rfl⟩
  · have accept : ((d.width % 8 == 0) || f.gm == 0) = true := by simpa using hw
    exact completes_vstore (congrArg _ ((watchGateIf_open _ hg).trans (memChecks_eq _ (unitTags _ rfl accept) rfl))) hbad hr hc hl hk
  · exact completes_vstore (congrArg _ ((watchGateIf_open _ hg).trans (memChecks_eq _ (strideCheck_ready hd hw) rfl))) hbad hr hc hl hk
  · exact completes_vstore (congrArg _ ((watchGateIf_open _ hg).trans (memChecks_eq _ (indexCheck_ready hd hw hx) rfl))) hbad hr hc hl hk
  · exact completes_vstore (congrArg _ ((watchGateIf_open _ hg).trans (memChecks_eq _ (indexCheck_ready hd hw hx) rfl))) hbad hr hc hl hk

end

section
/-! SUPPORT. Scale registers in memory (R171, R211), and the three ways of a watched vector load (R131, R447). -/

namespace Sys2Proof.Machine

open Sys2Proof.Safety

/-! ### Scale registers -/

theorem Hart.kreg_setK_same (h : Hart) {r q : Nat} (x : BReg) (e : q % 8 = r % 8) : (h.setK r x).kreg q = x := by
  unfold Hart.kreg Hart.setK
  simp only [Vector.get_eq_getElem, e]
  exact Vector.getElem_set_self ..

theorem Hart.kreg_setK_ne (h : Hart) {r q : Nat} (x : BReg) (e : q % 8 ≠ r % 8) : (h.setK r x).kreg q = h.kreg q := by
  unfold Hart.kreg Hart.setK
  exact Vector.getElem_set_ne (Nat.mod_lt _ (by decide)) (Nat.mod_lt _ (by decide)) (Ne.symm e)

theorem bitsAt_and (x y off w : Nat) : bitsAt (x &&& y) off w = bitsAt x off w &&& bitsAt y off w := by
  apply Nat.eq_of_testBit_eq
  intro i
  simp only [testBit_bitsAt, Nat.testBit_and]
  cases decide (i < w) <;> simp

/-- The mask has the nine low bits of every container. -/
theorem bitsAt_scaleMask {c : Nat} (hc : c < 256) : bitsAt scaleMask (16 * c) 16 = 2 ^ 9 - 1 := by
  have masks (n : Nat) : (List.range n).foldl (fun x c => x + 0x1FF * 2 ^ (16 * c)) 0 < 2 ^ (16 * n) ∧
      ∀ j, ((List.range n).foldl (fun x c => x + 0x1FF * 2 ^ (16 * c)) 0).testBit j = (decide (j < 16 * n) && decide (j % 16 < 9)) := by
    induction n with
    | zero => exact ⟨Nat.one_pos, fun j => by simp⟩
    | succ n ih =>
      rw [List.range_succ, List.foldl_append, List.foldl_cons, List.foldl_nil]
      generalize (List.range n).foldl (fun x c => x + 0x1FF * 2 ^ (16 * c)) 0 = x at ih ⊢
      obtain ⟨hlt, hbits⟩ := ih
      rw [Nat.add_comm, Nat.mul_comm]
      refine ⟨?_, fun j => ?_⟩
      · rw [show 16 * (n + 1) = 16 * n + 16 by omega, Nat.pow_add]
        omega
      · rw [Nat.testBit_two_pow_mul_add _ hlt, show (0x1FF : Nat) = 2 ^ 9 - 1 by rfl, Nat.testBit_two_pow_sub_one, hbits]
        split
        · simp [show j < 16 * (n + 1) by omega, *]
        · have : j - 16 * n < 9 ↔ j < 16 * (n + 1) ∧ j % 16 < 9 := by omega
          simp [this]
  apply Nat.eq_of_testBit_eq
  intro i
  rw [testBit_bitsAt, scaleMask, (masks 256).2, Nat.testBit_two_pow_sub_one]
  have : i < 9 ↔ i < 16 ∧ 16 * c + i < 16 * 256 ∧ (16 * c + i) % 16 < 9 := by omega
  simp [this]

theorem scaleRuns_eq (base : Word) : scaleRuns base = elemRuns 16 (fun c => base + BitVec.ofNat 64 (2 * c)) (List.range 256) := by
  have hoff (c : Nat) : c * 16 / 8 = 2 * c := by omega
  simp only [scaleRuns, elemRuns, hoff]

/-- A container of the bytes gathered for a scale register. -/
theorem bitsAt_gatherScale {read : Nat → Nat → Nat} {v : Via} {p : Perm} {acc : Nat} {reads : Bool} {base : Word} {s u : State} {l : List PRun}
    (h : translateRuns v p acc reads (scaleRuns base) s = .ok (l, u)) {c : Nat} (hc : c < l.length) :
    bitsAt (gather read l &&& scaleMask) (16 * c) 16 = read l[c].pa 2 % 512 := by
  obtain ⟨hix, hfills⟩ := elemRuns_translated (scaleRuns_eq base ▸ h) (by decide)
  have hlen : l.length = 256 := by simpa using congrArg List.length hix
  have hmem : l[c] ∈ l := List.getElem_mem hc
  have hcix : l[c].ix = c := by
    have := congrArg (·[c]?) hix
    simpa [hc, show c < 256 by omega] using this
  have hn : l[c].n = 2 := by have := (hfills _ hmem).2; omega
  have hread := bitsAt_gather (read := read) hfills (hix ▸ List.nodup_range) hmem
  rw [hcix, hn, Nat.mul_comm] at hread
  rw [bitsAt_and, hread, bitsAt_scaleMask (by omega), Nat.and_two_pow_sub_one_eq_mod]
  omega

theorem badScale_even {base : Word} (h : base.toNat % 2 = 0) : badScale base = none := by simp [badScale, h]

/-- KLD, translated. -/
theorem completes_kld {f : VMFmt} {s u : State} {l : List PRun} (heven : (vbase f s).toNat % 2 = 0)
    (hruns : translateRuns .unit .read 2 true (scaleRuns (vbase f s)) s = .ok (l, u)) :
    let r := f.vd.toNat % 8
    let b := acquiring f l (u.addCtx (s.getP f.sa))
    Completes (.kld f) s (fun t => VectorStep b t ∧
      (∀ c, l.length = 256 → ∀ h : c < l.length, bitsAt (t.hart.kreg r).bits (16 * c) 16 = b.loadNum l[c].pa 2 % 512) ∧
      (t.hart.kreg r).pv = runsPv b.loadPv l ||| s.getP f.sa ||| b.ctx ∧ t.hart.vec.v = b.hart.vec.v ∧ t.hart.vec.m = b.hart.vec.m ∧
      (∀ q, q % 8 ≠ r → t.hart.kreg q = b.hart.kreg q)) := by
  intro r b
  have hself : r % 8 = scaleReg f % 8 := rfl
  have hi : exec (.kld f) s = .next (retire (b.mapHart fun h => h.setK (scaleReg f)
      ⟨gather b.loadNum l &&& scaleMask, runsPv b.loadPv l ||| s.getP f.sa ||| b.ctx⟩)) :=
    congrArg Host.Outcome.next (memForm_eq (badScale_even heven) hruns)
  refine ⟨_, hi, vectorStep_of rfl, fun c _ hc => ?_, ?_, rfl, rfl, fun q hq => ?_⟩
  · rw [← bitsAt_gatherScale hruns hc]
    exact congrArg (fun x : BReg => bitsAt x.bits (16 * c) 16) (Hart.kreg_setK_same b.hart _ hself)
  · exact congrArg BReg.pv (Hart.kreg_setK_same b.hart _ hself)
  · exact Hart.kreg_setK_ne b.hart _ (by rwa [← hself, Nat.mod_mod])

/-- KST, translated and within its ceilings. -/
theorem completes_kst {f : VMFmt} {s u : State} {l : List PRun} (heven : (vbase f s).toNat % 2 = 0)
    (hruns : translateRuns .unit .write 3 false (scaleRuns (vbase f s)) s = .ok (l, u)) (hg : f.aqrl = true → GateOpen s) :
    let x := u.addCtx (s.getP f.sa)
    let k := x.hart.kreg (scaleReg f)
    MemoryCanonical x → PlainRuns l x → checkRuns (k.pv ||| s.getP f.sa ||| x.ctx) 3 x l = none →
    Completes (.kst f) s (fun t => MemoryStep x t ∧
        ∀ a, t.homeByte a = if x.zeroLine a then 0 else storedByte l (k.bits &&& scaleMask) (x.place a) (x.homeByte a)) := by
  intro x k hc hl hcheck
  have hstored := runsStored_released (img := k.bits &&& scaleMask) f (k.pv ||| s.getP f.sa ||| x.ctx) l hc hl ⟨rfl, rfl, rfl⟩
  have hi : exec (.kst f) s = .next (retire (l.foldl (fun v r => storePa r.pa (runBytes (k.bits &&& scaleMask) r)
      (k.pv ||| s.getP f.sa ||| x.ctx) v) (released f l x))) := by
    refine congrArg Host.Outcome.next ((watchGateIf_open _ hg).trans ((memForm_eq (badScale_even heven) hruns).trans ?_))
    dsimp only
    rw [show checkRuns (((u.addCtx (s.getP f.sa)).hart.kreg (scaleReg f)).pv ||| s.getP f.sa ||| (u.addCtx (s.getP f.sa)).ctx) 3
      (u.addCtx (s.getP f.sa)) l = none from hcheck]
    rfl
  exact ⟨_, hi, memoryStep_retire hstored.kept, hstored.bytes⟩

/-! ### Watched vector loads -/

theorem footprint_kept (v : Via) (runs : List MRun) (s : State) : (footprint v runs s).2.kept = s.kept := by
  induction runs generalizing s with
  | nil => rfl
  | cons r runs ih =>
    rw [footprint]
    split
    · exact ih s
    · next pa e t hx =>
      have ht : (footprint v runs t).2.kept = s.kept := (ih t).trans (xlatVia_kept hx)
      dsimp only
      split <;> exact ht

theorem groupWritten_congr {vd : BitVec 5} {d : Tag} {g : Gov} {res : Nat → Nat} {p : PvSet} {s t u : State} (h : GroupWritten vd d g res p s t)
    (hv : u.hart.vec = t.hart.vec) (hl : u.level = t.level) : GroupWritten vd d g res p s u :=
  have e : u.hart.vec.v = t.hart.vec.v := congrArg VecFile.v hv
  ⟨groupElems_congr h.elems e hl, groupTagged_congr h.tagged e, hv ▸ h.masks⟩

/-- The end of a load reaches the vector file alone. -/
theorem finishLoad_eq (f : VMFmt) (wg : Nat) (read : Nat → Nat → Nat) (pv : Nat → PvSet) (l : List PRun) (s : State) :
    ∃ x, finishLoad f wg read pv l s = { s with hart := { s.hart with vec := x } } := putDst_eq ..

/-- The state after the footprint of a watched load of `n` elements. -/
def footprinted (sh : Shape) (n : Nat) (b : State) : State := (footprint sh.via (sh.runs (List.range n)) b).2

/-- The entry that a watched load of `n` elements makes. -/
def watchEntry (f : VMFmt) (sh : Shape) (stride : Word) (n : Nat) (s b : State) : WatchEntry :=
  (footprinted sh n b).makeEntry (sh.addr 0) stride (footprinted sh n b).vl (((s.tagOf f.vd).width + 7) / 8)
    (footprint sh.via (sh.runs (List.range n)) b).1

/-- The destination as a load of runs `l` writes it, from a state `b` on which the form `f` of state `s` has its effect. -/
def LoadedGroup (f : VMFmt) (wg : Nat) (l : List PRun) (s : State) (read : Nat → Nat → Nat) (pv : Nat → PvSet) (b t : State) : Prop :=
  GroupWritten f.vd (s.tagOf f.vd) (b.govM f wg) (fun k => bitsAt (gather read l) (k * (s.tagOf f.vd).width) (s.tagOf f.vd).width)
    ((s.govern f.gm).2 ||| runsPv pv l) b t

section

variable {i : Instr} {f : VMFmt} {c : TagCheck} {sh : State → Shape} {stride : State → Word} {s u : State} {l : List PRun}
  (hi : exec i s = .next (watchVector i f c sh stride s)) (hallow : Allowed i s) (hc : tagReason c s = none)
  (hbad : (sh s).bad (activeOf (s.govern f.gm).1 s.vl) = none)
  (hruns : translateRuns (sh s).via .read 5 true ((sh s).runs (activeOf (s.govern f.gm).1 s.vl)) s = .ok (l, u))

include hruns

/-- Translation leaves the vector file, the level and vl. -/
theorem vector_of_translated :
    let b := u.addCtx (sh s).flow
    b.hart.vec = s.hart.vec ∧ b.level = s.level ∧ b.vl = s.vl :=
  vector_of_kept (s := s.addCtx (sh s).flow) (addCtx_kept (translateRuns_kept hruns) _)

include hi hallow hc hbad

/-- In the host window, or with vl = 0, a watched load is a load. -/
theorem completes_watchVector_host (hd : GroupReady f.vd s) (h : s.vl = 0 ∨ ∃ r ∈ l, u.inHost r.pa = true) :
    let b := u.addCtx (sh s).flow
    Completes i s (fun t => VectorStep b t ∧ LoadedGroup f (sh s).wg l s b.loadNum b.loadPv b t) := by
  intro b
  have hb := vector_of_translated hruns
  have hh : ((b.vl == 0) || l.any fun r => b.inHost r.pa) = true := by
    rw [hb.2.2]
    simp only [Bool.or_eq_true, beq_iff_eq, List.any_eq_true]
    exact h
  have heq : exec i s = .next (retire (finishLoad f (sh s).wg b.loadNum b.loadPv l b)) := by
    rw [hi, watchVector, gated_of_allowed _ hallow, memChecks_eq _ hc rfl]
    dsimp only
    rw [memForm_eq hbad hruns, if_pos hh]
  exact ⟨_, heq, vectorStep_writeDst .., finishLoad_written hd hb⟩

section

variable (hvl : s.vl ≠ 0) (hown : ∀ r ∈ l, u.inHost r.pa = false)

include hvl hown

/-- On own memory a watched load counts where the table is full, and records its entry where it is not. -/
theorem watchVector_own :
    let b := u.addCtx (sh s).flow
    let v := footprinted (sh s) s.vl b
    exec i s = .next (if 32 ≤ u.hart.watch.length then retire (countFull (finishLoad f (sh s).wg b.loadNum b.loadPv l b))
      else retire ((finishLoad f (sh s).wg v.watchNum v.watchPv l v).mapHart fun h =>
        { h with watch := h.watch ++ [watchEntry f (sh s) (stride s) s.vl s b] })) := by
  have hn : (u.addCtx (sh s).flow).vl = s.vl := (vector_of_translated hruns).2.2
  have hh : ¬ (((u.addCtx (sh s).flow).vl == 0) || l.any fun r => (u.addCtx (sh s).flow).inHost r.pa) = true := by
    rw [hn]
    simp only [Bool.or_eq_true, beq_iff_eq, List.any_eq_true, not_or, not_exists, not_and, Bool.not_eq_true]
    exact ⟨hvl, hown⟩
  rw [hi, watchVector, gated_of_allowed _ hallow, memChecks_eq _ hc rfl]
  dsimp only
  rw [memForm_eq hbad hruns, if_neg hh, hn]
  rfl

variable (hd : GroupReady f.vd s)

include hd

/-- With the table full: the load, counted. -/
theorem completes_watchVector_full (hfull : 32 ≤ u.hart.watch.length) :
    let b := u.addCtx (sh s).flow
    Completes i s (fun t => LoadedGroup f (sh s).wg l s b.loadNum b.loadPv b t ∧ Passed b t ∧ HartOnly b t ∧ t.hart.watch = b.hart.watch ∧
      t.hart.csr.wfull = if b.hart.csr.wfull = 0xFFFFFFFFFFFFFFFF then b.hart.csr.wfull else b.hart.csr.wfull + 1) := by
  intro b
  have heq : exec i s = .next (retire (countFull (finishLoad f (sh s).wg b.loadNum b.loadPv l b))) :=
    (watchVector_own hi hallow hc hbad hruns hvl hown).trans (congrArg Host.Outcome.next (if_pos hfull))
  rw [countFull_eq] at heq
  have hw : LoadedGroup f (sh s).wg l s b.loadNum b.loadPv b (retire (finishLoad f (sh s).wg b.loadNum b.loadPv l b)) :=
    finishLoad_written hd (vector_of_translated hruns)
  obtain ⟨x, hx⟩ := finishLoad_eq f (sh s).wg b.loadNum b.loadPv l b
  rw [hx] at hw heq
  exact ⟨_, heq, groupWritten_congr hw rfl rfl, passed_retire rfl, hartOnly_of_eq rfl rfl, rfl, rfl⟩

/-- With room in the table: the load of what a watched load reads, and the entry. -/
theorem completes_watchVector_recorded (hroom : u.hart.watch.length < 32) :
    let b := u.addCtx (sh s).flow
    let v := footprinted (sh s) s.vl b
    Completes i s (fun t => Passed b t ∧ t.hart.csr.wfull = b.hart.csr.wfull ∧ t.hart.s = b.hart.s ∧
      LoadedGroup f (sh s).wg l s v.watchNum v.watchPv v t ∧
      ∃ e, t.hart.watch = v.hart.watch ++ [e] ∧ e.base = (sh s).addr 0 ∧ e.stride = stride s ∧ e.count = s.vl ∧
        e.width = ((s.tagOf f.vd).width + 7) / 8 ∧ e.state = .pending ∧ e.pv = 0) := by
  intro b v
  have heq : exec i s = .next (retire ((finishLoad f (sh s).wg v.watchNum v.watchPv l v).mapHart fun h =>
      { h with watch := h.watch ++ [watchEntry f (sh s) (stride s) s.vl s b] })) :=
    (watchVector_own hi hallow hc hbad hruns hvl hown).trans (congrArg Host.Outcome.next (if_neg (Nat.not_le.mpr hroom)))
  have hkept : v.kept = b.kept := footprint_kept ..
  obtain ⟨hs, -, -, -, hcsr, -, -, -⟩ := hartFields_of_kept hkept
  have hwfull : v.hart.csr.wfull = b.hart.csr.wfull := congrArg Csrs.wfull hcsr
  have hgoing : v.hart.going = b.hart.going := going_of_bare (congrArg Kept.hart hkept)
  obtain ⟨hvvec, hvlevel, hvvl⟩ := vector_of_kept hkept
  obtain ⟨hbvec, hblevel, hbvl⟩ := vector_of_translated hruns
  have hvn : v.vl = s.vl := hvvl.trans hbvl
  have hw : LoadedGroup f (sh s).wg l s v.watchNum v.watchPv v (retire (finishLoad f (sh s).wg v.watchNum v.watchPv l v)) :=
    finishLoad_written hd ⟨hvvec.trans hbvec, hvlevel.trans hblevel, hvn⟩
  obtain ⟨x, hx⟩ := finishLoad_eq f (sh s).wg v.watchNum v.watchPv l v
  rw [hx] at hw heq
  exact ⟨_, heq, passed_retire hgoing, hwfull, hs, groupWritten_congr hw rfl rfl,
    _, rfl, rfl, rfl, hvn, rfl, rfl, rfl⟩

end

end

end Sys2Proof.Machine
end

section
open Sys2Proof Sys2Proof.Machine Sys2Proof.Safety

/-- Settles O48: the scale forms by the containers gathered and stored; the watched ones by their three ways, each for both shapes. -/
theorem scaleAndWatchedVectorAccess : Obligations.ScaleAndWatchedVectorAccess := by
  unfold Obligations.ScaleAndWatchedVectorAccess
  constructor
  · intro f s u l base r x b heven
    constructor
    · exact fun hr => completes_kld heven hr
    · exact fun hr hg => completes_kst heven hr hg
  intro f s u l i sh stride ready d els b loaded hform hready hallow hd hbad hruns
  obtain ⟨c, shapeOf, strideOf, hi, hc, rfl, rfl⟩ : ∃ (c : TagCheck) (shapeOf : State → Shape) (strideOf : State → Word),
      exec i s = .next (watchVector i f c shapeOf strideOf s) ∧ tagReason c s = none ∧ sh = shapeOf s ∧ stride = strideOf s := by
    simp only [List.mem_cons, List.not_mem_nil, or_false, Prod.mk.injEq] at hform
    rcases hform with ⟨rfl, rfl, rfl, rfl⟩ | ⟨rfl, rfl, rfl, rfl⟩
    · exact ⟨_, fun s => s.unitShape f, fun s => BitVec.ofNat 64 ((s.tagOf f.vd).width / 8), rfl,
        tagReason_reads [f.vd] true rfl (by simpa using hd) rfl, rfl, rfl⟩
    · exact ⟨_, fun s => s.strideShape f, fun s => s.getS f.sb, rfl, strideCheck_ready hd hready, rfl, rfl⟩
  have host := completes_watchVector_host hi hallow hc hbad hruns hd
  have full := fun h0 hown => completes_watchVector_full hi hallow hc hbad hruns h0 hown hd
  have recorded := fun h0 hown => completes_watchVector_recorded hi hallow hc hbad hruns h0 hown hd
  exact ⟨fun h _ => host h, fun h0 _ hown => full h0 hown, fun h0 _ hown => recorded h0 hown⟩

end

section
/-! SUPPORT. The element-wise effect with flags and generator threaded through it, and the completion of the floating-point forms of one
to three sources (R112, R179, R180, R186). -/

namespace Sys2Proof.Machine

open Sys2Proof.Safety

/-! ### The element-wise effect with something carried along -/

section

variable {σ : Type} (g : Gov) (wd : Nat) (eff : Nat → σ → Nat × σ) (st : σ)

/-- What the elements carry does not depend on the image: the effect writes each element's result on what the elements below it carry. -/
theorem elemRun_before (n i img : Nat) : elemRun g wd eff n i (img, before g.act eff st i) =
    (g.run wd (fun k => (eff k (before g.act eff st k)).1) n i img, before g.act eff st (i + n)) := by
  induction n generalizing i img with
  | zero => rfl
  | succ n ih =>
    have hnext : i + (n + 1) = i + 1 + n := by omega
    rw [elemRun, Gov.run_succ, hnext, ← ih, before, Gov.put]
    split
    · rfl
    · split <;> rfl

theorem elemRun_eq_elemwise (img : Nat) : elemRun g wd eff g.vl 0 (img, st) =
    (elemwise g wd (fun k => (eff k (before g.act eff st k)).1) img, before g.act eff st g.vl) := by
  have h := elemRun_before g wd eff st g.vl 0 img
  rwa [Nat.zero_add] at h

end

/-! ### The end of a floating-point form (R179, R180) -/

/-- Flags and generator join a state that differs from the start in the vector file alone. -/
theorem flagsJoined_fpEnd {s u : State} {x : VecFile} (h : u = { s with hart := { s.hart with vec := x } }) (st : FpSt) (p : PvSet) :
    FlagsJoined st p s (retire (u.fpEnd st p)) := by
  subst h
  exact ⟨rfl, rfl, Hart.csrPv_setCsrPv_same .., rfl, hartOnly_of_eq rfl rfl⟩

/-- The element-wise floating-point effect: the group, then the flags with the group's new set. -/
theorem fpStep_fpEffect {f : VFmt} {d : Tag} {s : State} (wg : Nat) (p : PvSet) (eff : Nat → FpSt → Nat × FpSt)
    (hd : DestReady f.vd d s) :
    FpStep f.vd d (s.gov f wg) eff (p ||| (s.gov f wg).pv) s (retire (fpEffect f d wg p eff s)) := by
  dsimp only [fpEffect]
  rw [elemRun_eq_elemwise (s.gov f wg) d.width eff s.fpStart]
  obtain ⟨_, hx⟩ := putDst_eq ..
  exact ⟨groupWritten_congr (groupWritten_writeDst _ hd rfl fun _ => rfl) rfl rfl, flagsJoined_fpEnd hx _ _⟩

/-! ### Floating-point forms of one to three sources (R187, R189, R192) -/

/-- The types of VFP have a format, in which zero is no signalling NaN. -/
theorem isSig_zero {t : Nat} (h : isFloat t = true) : ((fmtOf t).getD fp64).isSig 0 = false := by
  obtain ⟨h9, h12⟩ : 9 ≤ t ∧ t ≤ 12 := by simpa [isFloat] using h
  obtain rfl | rfl | rfl | rfl : t = 9 ∨ t = 10 ∨ t = 11 ∨ t = 12 := by omega
  all_goals rfl

/-- The operand that stands for a source that a form does not have raises nothing. -/
theorem operand_zero {s : State} {r : BitVec 5} (h : isFloat (s.tagOf r).code = true) (st : FpSt) :
    (st.operand (s.fmtAt r) 0).2 = st := by
  simp [FpSt.operand, State.fmtAt, isSig_zero h]

/-- The registers that a floating-point form reads. -/
def fpReads (f : VFmt) (three two : Bool) : List (BitVec 5) := (if two then vsrcs f else [f.va]) ++ (if three then [f.vc] else [])

/-- The second source of a floating-point form; zeros stand for one that it does not have. -/
def fpSecond (f : VFmt) (two : Bool) (s : State) : Src := if two then s.second f (s.tagOf f.va).width else ⟨fun _ => 0, pvEmpty⟩

/-- The third source of a floating-point form; zeros stand for one that it does not have. -/
def fpThird (f : VFmt) (three : Bool) (s : State) : Src := if three then s.vecSrc f.vc else ⟨fun _ => 0, pvEmpty⟩

/-- A source of a floating-point form passes its checks (R109, R110, R163): it is ready, has the tag of `va`, and is apart from the
destination. -/
def FpSource (f : VFmt) (s : State) (r : BitVec 5) : Prop :=
  GroupReady r s ∧ s.tagOf r = s.tagOf f.va ∧ s.overlapSrc f.vd (s.tagOf f.va) r = false

/-- The sources of a two-source form pass their checks. -/
theorem fpSource_of_vsrcs {f : VFmt} {s : State} (hsrc : SourcesReady f s) (hap : Apart f (s.tagOf f.va) s) :
    ∀ r ∈ vsrcs f, FpSource f s r := by
  obtain ⟨ha, hb⟩ := hsrc
  obtain ⟨hoa, hob⟩ := hap
  unfold vsrcs
  cases hsb : f.sb
  · simpa using ⟨⟨ha, rfl, hoa⟩, (hb hsb).1, (hb hsb).2, hob hsb⟩
  · simpa using ⟨ha, rfl, hoa⟩

section

variable {i : Instr} {f : VFmt} {s : State} {op : FFmt → FVal → FVal → FVal → FpSt → Nat × FpSt}

/-- A form whose sources pass their checks is the element-wise effect of its operation on the decoded operands. -/
theorem completes_fpForm {three two : Bool} {eff : Nat → FpSt → Nat × FpSt}
    {p : PvSet} (hi : exec i s = .next (fpForm i f three two op s)) (hfloat : isFloat (s.tagOf f.va).code = true)
    (hregs : ∀ r ∈ fpReads f three two, FpSource f s r) (hd : DestReady f.vd (s.tagOf f.va) s)
    (heff : ∀ k st,
      let x := st.operand (s.fmtAt f.va) (firstAt f s k)
      let y := x.2.operand (s.fmtAt f.va) ((fpSecond f two s).get k)
      let z := y.2.operand (s.fmtAt f.va) ((fpThird f three s).get k)
      op (s.fmtAt f.va) x.1 y.1 z.1 z.2 = eff k st)
    (hp : s.pvOf f.va ||| (fpSecond f two s).pv ||| (fpThird f three s).pv = p) :
    Completes i s (FpStep f.vd (s.tagOf f.va) (s.gov f (s.tagOf f.va).width) eff (p ||| (s.gov f (s.tagOf f.va).width).pv) s) := by
  subst hp
  obtain rfl := funext fun k => funext fun st => heff k st
  rw [fpForm, vecForm_eq] at hi
  · exact ⟨_, hi, fpStep_fpEffect _ _ _ hd⟩
  · exact tagReason_ready (fun r hr => (hregs r hr).1) rfl (List.all_eq_true.mpr fun r hr => beq_iff_eq.mpr (hregs r hr).2.1) (by simp) rfl
      hfloat (dst_ready hd rfl)
  · exact List.any_eq_false.mpr fun r hr => Bool.eq_false_iff.mp (hregs r hr).2.2

/-- A rounding form is the form that rounds its operation's exact value. -/
theorem fpRounding_eq (three two : Bool) (op : Bool → FVal → FVal → FVal → FVal × Nat) : fpRounding i f three two op s =
    fpForm i f three two (fun fm x y z => fpRound fm (s.rmode f.md) (op (decide (s.rmode f.md = 2)) x y z)) s := by
  rw [← beq_eq_decide]
  rfl

variable {t : Tag} {fm : FFmt}

/-- A form of one source whose operation is `row`. -/
theorem completes_fpUnary {row : FVal → FpSt → Nat × FpSt}
    (hi : exec i s = .next (fpForm i f false false op s)) (ht : s.tagOf f.va = t) (hfm : s.fmtAt f.va = fm) (hfloat : isFloat t.code = true)
    (hsrc : FpSource f s f.va) (hd : DestReady f.vd t s) (hop : ∀ x y z st, op fm x y z st = row x st) :
    Completes i s (FpStep f.vd t (s.gov f t.width)
      (fun k st => row (fm.decode (firstAt f s k)) (st.operand fm (firstAt f s k)).2) (s.pvOf f.va ||| (s.gov f t.width).pv) s) := by
  subst ht hfm
  refine completes_fpForm hi hfloat (List.forall_mem_singleton.mpr hsrc) hd (fun k st => ?_) (by simp [fpSecond, fpThird, pvEmpty])
  simp only [fpSecond, fpThird, Bool.false_eq_true, if_false, operand_zero hfloat, hop]
  rfl

/-- A form of two sources whose operation is `row`. -/
theorem completes_fpBinary {row : FVal → FVal → FpSt → Nat × FpSt}
    (hi : exec i s = .next (fpForm i f false true op s)) (ht : s.tagOf f.va = t) (hfm : s.fmtAt f.va = fm) (hfloat : isFloat t.code = true)
    (hsrc : ∀ r ∈ vsrcs f, FpSource f s r) (hd : DestReady f.vd t s) (hop : ∀ x y z st, op fm x y z st = row x y st) :
    Completes i s (FpStep f.vd t (s.gov f t.width)
      (fun k st => row (fm.decode (firstAt f s k)) (fm.decode (secondAt f t.width s k))
        ((st.operand fm (firstAt f s k)).2.operand fm (secondAt f t.width s k)).2)
      (s.pvOf f.va ||| secondPv f s ||| (s.gov f t.width).pv) s) := by
  subst ht hfm
  refine completes_fpForm hi hfloat (by simpa [fpReads] using hsrc) hd (fun k st => ?_) (by simp [fpSecond, fpThird, pvEmpty, second_pv])
  simp only [fpSecond, fpThird, Bool.false_eq_true, if_false, if_true, operand_zero hfloat, hop, second_get]
  rfl

/-- A form of three sources whose operation is `row`. -/
theorem completes_fpTernary {row : FVal → FVal → FVal → FpSt → Nat × FpSt}
    (hi : exec i s = .next (fpForm i f true true op s)) (ht : s.tagOf f.va = t) (hfm : s.fmtAt f.va = fm) (hfloat : isFloat t.code = true)
    (hsrc : ∀ r ∈ vsrcs f, FpSource f s r) (hc : FpSource f s f.vc) (hd : DestReady f.vd t s)
    (hop : ∀ x y z st, op fm x y z st = row x y z st) :
    Completes i s (FpStep f.vd t (s.gov f t.width)
      (fun k st => row (fm.decode (firstAt f s k)) (fm.decode (secondAt f t.width s k)) (fm.decode (Safety.elemAt s f.vc t k))
        (((st.operand fm (firstAt f s k)).2.operand fm (secondAt f t.width s k)).2.operand fm (Safety.elemAt s f.vc t k)).2)
      (s.pvOf f.va ||| secondPv f s ||| s.pvOf f.vc ||| (s.gov f t.width).pv) s) := by
  subst ht hfm
  have hregs : ∀ r ∈ fpReads f true true, FpSource f s r :=
    List.forall_mem_append.mpr ⟨hsrc, List.forall_mem_singleton.mpr hc⟩
  refine completes_fpForm hi hfloat hregs hd (fun k st => ?_) (by simp [fpSecond, fpThird, second_pv, State.vecSrc])
  have hthird : (s.vecSrc f.vc).get k = Safety.elemAt s f.vc (s.tagOf f.va) k := congrArg (fun t => Safety.elemAt s f.vc t k) hc.2.1
  simp only [fpSecond, fpThird, if_true, hop, second_get, hthird]
  rfl

end

end Sys2Proof.Machine
end

section
open Sys2Proof Sys2Proof.Machine Sys2Proof.Safety

/-- Settles O42: each form is the one floating-point form of one, two or three sources, and its operation is that of its row. -/
theorem vectorFloatResults : Obligations.VectorFloatResults := by
  intro f s t w fm g m a b c sig one two three rounded down exact h9 h12 hd hva hov
  have hfloat : isFloat t.code = true := by simp [isFloat, h9, h12]
  have unary {i : Instr} {op : FFmt → FVal → FVal → FVal → FpSt → Nat × FpSt} {row : FVal → FpSt → Nat × FpSt}
      (hi : exec i s = .next (fpForm i f false false op s)) (hop : ∀ x y z st, op fm x y z st = row x st) : one i row :=
    completes_fpUnary hi rfl rfl hfloat ⟨hva, rfl, hov⟩ hd hop
  have binary (hsrc : SourcesReady f s) (hap : Apart f t s) {i : Instr} {op : FFmt → FVal → FVal → FVal → FpSt → Nat × FpSt}
      {row : FVal → FVal → FpSt → Nat × FpSt} (hi : exec i s = .next (fpForm i f false true op s))
      (hop : ∀ x y z st, op fm x y z st = row x y st) : two i row :=
    completes_fpBinary hi rfl rfl hfloat (fpSource_of_vsrcs hsrc hap) hd hop
  have ternary (hsrc : SourcesReady f s) (hap : Apart f t s) (hc : FpSource f s f.vc) {i : Instr}
      {op : FFmt → FVal → FVal → FVal → FpSt → Nat × FpSt} {row : FVal → FVal → FVal → FpSt → Nat × FpSt}
      (hi : exec i s = .next (fpForm i f true true op s)) (hop : ∀ x y z st, op fm x y z st = row x y z st) : three i row :=
    completes_fpTernary hi rfl rfl hfloat (fpSource_of_vsrcs hsrc hap) hc hd hop
  have rounds {i : Instr} {x y : Bool} {op : Bool → FVal → FVal → FVal → FVal × Nat} (hi : exec i s = .next (fpRounding i f x y op s)) :
      exec i s = .next (fpForm i f x y (fun fm x y z => fpRound fm m (op down x y z)) s) :=
    hi.trans (congrArg Host.Outcome.next (fpRounding_eq ..))
  clear_value one two three
  refine ⟨?_, fun hsrc hap => ?_, fun hsrc hap hvc htag hoc => ?_⟩
  · and_intros
    iterate 5 exact unary (rounds rfl) fun _ _ _ _ => rfl
    iterate 2 exact unary rfl fun _ _ _ _ => rfl
  · and_intros
    iterate 4 exact binary hsrc hap (rounds rfl) fun _ _ _ _ => rfl
    iterate 2 exact binary hsrc hap rfl fun _ _ _ _ => rfl
  · and_intros
    iterate 4 exact ternary hsrc hap ⟨hvc, htag, hoc⟩ (rounds rfl) fun _ _ _ _ => rfl

end

section
/-! SUPPORT. Groups that are written under the tag they carry, element by element or from a list, and the permuting and pixel forms
(R109, R112, R204-R206). -/

namespace Sys2Proof.Machine

open Sys2Proof.Safety

/-! ### Groups written under their own tag (R109) -/

/-- A group that is written under the tag that it carries is uniform, aligned, and holds vl elements. -/
def TaggedReady (r : BitVec 5) (s : State) : Prop := s.groupOk r = true ∧ s.holdsElems r s.vl = true

theorem taggedReady_of_ready {r : BitVec 5} {s : State} (h : GroupReady r s) : TaggedReady r s := h.2

theorem destReady_of_tagged {r : BitVec 5} {s : State} (h : TaggedReady r s) : DestReady r (s.tagOf r) s := by
  obtain ⟨hgroup, hholds⟩ := h
  simp only [State.groupOk, Bool.and_eq_true, beq_iff_eq] at hgroup
  exact ⟨hgroup.1, by simpa [State.holdsElems] using hholds⟩

/-- A check of groups that are read and ready, and of groups that are written under their own tag and may be, passes. -/
theorem tagReason_tagged {c : TagCheck} {s : State} (hreads : ∀ r ∈ c.reads, GroupReady r s) (htagged : ∀ r ∈ c.tagged, TaggedReady r s)
    (hagree : c.agree = true) (hholds : ∀ x ∈ c.holds, s.holdsElems x.1 x.2 = true) (hscale : c.unscaled = false) (haccept : c.accept = true)
    (hdst : c.dst = none) : tagReason c s = none := by
  have hgroups : ∀ r ∈ c.reads ++ c.tagged, TaggedReady r s := fun r hr =>
    (List.mem_append.mp hr).elim (fun h => taggedReady_of_ready (hreads r h)) (htagged r)
  have hcode : (c.reads.any fun r => (s.tagOf r).code == 0) = false := by
    simpa only [List.any_eq_false, beq_iff_eq] using fun r hr => (hreads r hr).1
  have hgroup : ((c.reads ++ c.tagged).any fun r => !s.groupOk r) = false :=
    List.any_eq_false.mpr fun r hr => by rw [(hgroups r hr).1]; exact Bool.false_ne_true
  have hvl : ((c.reads ++ c.tagged).any fun r => !c.short.contains r && !s.holdsElems r s.vl) = false :=
    List.any_eq_false.mpr fun r hr => by rw [(hgroups r hr).2, Bool.not_true, Bool.and_false]; exact Bool.false_ne_true
  have hall : (c.holds.any fun x => !s.holdsElems x.1 x.2) = false :=
    List.any_eq_false.mpr fun x hx => by rw [hholds x hx]; exact Bool.false_ne_true
  simp only [tagReason, hcode, hagree, hgroup, hvl, hall, hscale, haccept, TagCheck.dstStart, TagCheck.dstHolds, hdst, Bool.not_true,
    Bool.or_self, Bool.false_eq_true, if_false]

/-! ### Lists of elements -/

/-- The elements that a group holds lie in its registers. -/
theorem element_held {r : BitVec 5} {n k : Nat} {s : State} (h : s.holdsElems r n = true) (hk : k < n) :
    (k + 1) * (s.tagOf r).width ≤ 8192 * s.level * (s.tagOf r).count := by
  rcases (Bool.or_eq_true_iff.mp h : _ ∨ _) with h0 | hcap
  · rw [beq_iff_eq.mp h0]; exact Nat.zero_le _
  · exact element_in_capacity (hk.trans_le (of_decide_eq_true hcap))

theorem bitsAt_putElems_apart (w : Nat) {out : List Nat} {j lo n img : Nat} (h : lo + n ≤ j * w ∨ (j + out.length) * w ≤ lo) :
    bitsAt (putElems w j out img) lo n = bitsAt img lo n := by
  induction out generalizing j img with
  | nil => rfl
  | cons x xs ih =>
    have hj : (j + 1) * w = j * w + w := Nat.succ_mul j w
    have hle : (j + 1) * w ≤ (j + 1 + xs.length) * w := Nat.mul_le_mul_right w (Nat.le_add_right ..)
    rw [List.length_cons, show j + (xs.length + 1) = j + 1 + xs.length by omega] at h
    rw [putElems, ih (by omega), bitsAt_setBitsAt_apart (by omega)]

/-- Each element of the list stands at its place. -/
theorem bitsAt_putElems (w : Nat) {out : List Nat} {j k img : Nat} (hk : k < out.length) :
    bitsAt (putElems w j out img) ((j + k) * w) w = out[k] % 2 ^ w := by
  induction out generalizing j k img with
  | nil => exact nomatch hk
  | cons x xs ih =>
    rw [putElems]
    cases k with
    | zero =>
      exact (bitsAt_putElems_apart w (.inl (Nat.succ_mul j w).ge)).trans (bitsAt_setBitsAt_same ..)
    | succ k =>
      rw [show j + (k + 1) = j + 1 + k by omega]
      exact ih (Nat.lt_of_succ_lt_succ hk)

/-- A list of elements written to a group that holds them. -/
theorem listWritten_writeDst {s : State} {vd : BitVec 5} {d : Tag} {out : List Nat} (p : PvSet) (hfit : vd.toNat + d.count ≤ 32)
    (hcap : ∀ k < out.length, (k + 1) * d.width ≤ 8192 * s.level * d.count) :
    ListWritten vd d out p s (retire (s.writeDst vd d (putElems d.width 0 out (s.dstImg vd d)) p)) where
  listed j hj := by
    rw [elemAt_writeDst _ p hfit (hcap j hj), ← bitsAt_putElems d.width (j := 0) hj, Nat.zero_add]
  rest k hk hw := by
    rw [elemAt_writeDst _ p hfit hw]
    exact bitsAt_putElems_apart d.width (.inr (by rw [Nat.zero_add]; exact Nat.mul_le_mul_right _ hk))
  tagged := groupTagged_writeDst _ p hfit
  masks := putGroup_masks ..

/-- The completion of a form that writes a list of elements. -/
theorem completes_list {i : Instr} {s : State} {vd : BitVec 5} {out : List Nat} {p : PvSet} {n : Nat}
    (hi : exec i s = .next (retire (s.writeDst vd (s.tagOf vd) (putElems (s.tagOf vd).width 0 out (s.dstImg vd (s.tagOf vd))) p)))
    (hg : s.groupOk vd = true) (hn : s.holdsElems vd n = true) (hout : out.length ≤ n) :
    Completes i s (fun u => VectorStep s u ∧ ListWritten vd (s.tagOf vd) out p s u) :=
  ⟨_, hi, vectorStep_writeDst .., listWritten_writeDst p (group_fits hg) fun _ hk => element_held hn (hk.trans_le hout)⟩

/-! ### The permuting and pixel forms (R204-R206) -/

section

variable {i : Instr} {f : VFmt} {s : State}

/-- A permuting form that passes its checks has its effect. -/
theorem permForm_eq {reads : List (BitVec 5)} {agree accept : Bool} {holds : List (BitVec 5 × Nat)} (eff : State → State)
    (hreads : ∀ r ∈ reads, GroupReady r s ∧ s.overlapAny f.vd (s.tagOf f.vd) r = false) (hvd : TaggedReady f.vd s)
    (htype : (s.tagOf f.vd).ty = (s.tagOf f.va).ty ∧ (s.tagOf f.vd).bl = (s.tagOf f.va).bl ∧ isPerm (s.tagOf f.va).code = true)
    (hagree : agree = true) (haccept : accept = true) (hholds : ∀ x ∈ holds, s.holdsElems x.1 x.2 = true) :
    permForm i f reads agree accept holds eff s = retire (eff s) := by
  obtain ⟨hty, hbl, hperm⟩ := htype
  refine vecForm_eq eff (tagReason_tagged (fun r hr => (hreads r hr).1) (by simpa using hvd) ?_ hholds rfl ?_ rfl) ?_
  · simp only [hagree, hty, hbl, beq_self_eq_true, Bool.and_self]
  · rw [hperm, haccept, Bool.and_self]
  · exact List.any_eq_false.mpr fun r hr => Bool.eq_false_iff.mp (hreads r hr).2

/-- An index or shift operand, as the row of the form names it. -/
theorem shiftArg_eq (f : VFmt) (s : State) :
    s.shiftArg f = (if f.sb then (s.getS f.ss).toNat else f.imm.toNat, if f.sb then s.getP f.ss else 0) := by
  unfold State.shiftArg
  split <;> rfl

/-- VSLIDEUP: the element-wise effect, but for the elements below `n`, which take back what they held. -/
theorem slidUp_writeDst {g : Gov} {n : Nat} {a : Nat → Nat} (p : PvSet) (hvd : TaggedReady f.vd s) (hg : g.vl = s.vl)
    (ha : ∀ k, a k < 2 ^ (s.tagOf f.vd).width) :
    let d := s.tagOf f.vd
    let old := s.dstImg f.vd d
    let u := retire (s.writeDst f.vd d (setBitsAt (elemwise g d.width (fun k => a (k - n)) old) 0 (min n s.vl * d.width) old) p)
    (∀ k < s.vl, Safety.elemAt u f.vd d k = if k < n then Safety.elemAt s f.vd d k else if g.act.testBit k then a (k - n)
      else if g.zeroes k then 0 else Safety.elemAt s f.vd d k) ∧
    (∀ k, s.vl ≤ k → (k + 1) * d.width ≤ 8192 * s.level * d.count → Safety.elemAt u f.vd d k = Safety.elemAt s f.vd d k) := by
  intro d old u
  have hd : DestReady f.vd d s := destReady_of_tagged hvd
  have apart {k : Nat} (hk : min n s.vl ≤ k) (x : Nat) :
      bitsAt (setBitsAt x 0 (min n s.vl * d.width) old) (k * d.width) d.width = bitsAt x (k * d.width) d.width :=
    bitsAt_setBitsAt_apart (.inr (by rw [Nat.zero_add]; exact Nat.mul_le_mul_right _ hk))
  constructor
  · intro k hk
    rw [elemAt_writeDst _ p (dest_fits hd) (element_within hd hk)]
    split
    · next hn =>
      have hin : (k + 1) * d.width ≤ min n s.vl * d.width := Nat.mul_le_mul_right _ (by omega)
      rw [Nat.succ_mul] at hin
      refine Nat.eq_of_testBit_eq fun j => ?_
      rw [testBit_bitsAt, testBit_setBitsAt, Safety.elemAt, testBit_bitsAt]
      by_cases hj : j < d.width
      · rw [if_pos ⟨Nat.zero_le _, by omega⟩, Nat.sub_zero]
      · simp [hj]
    · next hn =>
      rw [apart (by omega), bitsAt_elemwise _ _ _ _ (hg ▸ hk), Gov.result, Nat.mod_eq_of_lt (ha _)]
      rfl
  · intro k hk hw
    rw [elemAt_writeDst _ p (dest_fits hd) hw, apart (by omega)]
    exact bitsAt_elemwise_tail g _ _ _ (hg ▸ hk)

/-- A packed pixel, saturated where the form says so, as the row of VPACKPX gives it. -/
theorem packed_eq (md : BitVec 4) (sh w x : Nat) :
    (if md.getLsbD 3 && decide (2 ^ w ≤ x >>> sh) then 2 ^ w - 1 else x >>> sh % 2 ^ w) % 2 ^ w =
      (if md.getLsbD 3 then min (x / 2 ^ sh) (2 ^ w - 1) else x / 2 ^ sh) % 2 ^ w := by
  have hpos : 0 < 2 ^ w := Nat.two_pow_pos w
  rw [Nat.shiftRight_eq_div_pow]
  cases md.getLsbD 3
  · exact Nat.mod_mod ..
  · by_cases hx : 2 ^ w ≤ x / 2 ^ sh
    · simp [hx, Nat.min_eq_right (show 2 ^ w - 1 ≤ x / 2 ^ sh by omega)]
    · simp [hx, Nat.min_eq_left (show x / 2 ^ sh ≤ 2 ^ w - 1 by omega)]

/-- A pixel form that passes its checks is element-wise. -/
theorem completes_pixel {accept : Bool} {op res : Nat → Nat} (hi : exec i s = .next (pixForm i f accept op s)) (ha : GroupReady f.va s)
    (hvd : TaggedReady f.vd s) (hov : s.overlapAny f.vd (s.tagOf f.vd) f.va = false) (haccept : accept = true)
    (hop : ∀ x, op x % 2 ^ (s.tagOf f.vd).width = res x % 2 ^ (s.tagOf f.vd).width) :
    Completes i s (fun u => VectorStep s u ∧ GroupWritten f.vd (s.tagOf f.vd) (s.gov f (max (s.tagOf f.va).width (s.tagOf f.vd).width))
      (fun k => res (firstAt f s k)) (s.pvOf f.va ||| (s.govern f.gm).2) s u) := by
  rw [pixForm, vecForm_eq _ (tagReason_tagged (by simpa using ha) (by simpa using hvd) rfl (by simp) rfl haccept rfl) hov] at hi
  exact completes_group hi (destReady_of_tagged hvd) rfl fun k => hop _

end

end Sys2Proof.Machine
end

section
open Sys2Proof Sys2Proof.Machine Sys2Proof.Safety

/-- Settles O45: past the checks of the one permuting form each row is an element-wise effect or a list of elements. -/
theorem permutationResults : Obligations.PermutationResults := by
  intro f s t d a act gp g n np or0 kept did lists
  have harg : s.shiftArg f = (n, np) := shiftArg_eq f s
  refine ⟨fun ⟨hty, hbl, hperm, hva, hgroup, hholds, hov⟩ => ?_, fun ⟨hty, hbl, hperm, hva, hgroup, hholds, hov⟩ hvb hob => ?_,
    fun hva hgroup hholds hov => ⟨fun hpx hwide hsh => ?_, fun hwide hpx hsh => ?_⟩⟩
  · have hvd : TaggedReady f.vd s := ⟨hgroup, hholds⟩
    have hd := destReady_of_tagged hvd
    have one {i : Instr} {eff : State → State} (hi : exec i s = .next (permForm i f [f.va] true true [] eff s)) :
        exec i s = .next (retire (eff s)) :=
      hi.trans (congrArg _ (permForm_eq eff (by simpa using ⟨hva, hov⟩) hvd ⟨hty, hbl, hperm⟩ rfl rfl (by simp)))
    refine ⟨?_, ?_, ?_, ?_, ?_⟩
    · have hi := one (i := .vslidedn f) rfl
      simp only [harg] at hi
      exact completes_group hi hd rfl fun _ => rfl
    · have hi := one (i := .vbcast f) rfl
      simp only [harg] at hi
      exact completes_group hi hd rfl fun _ => rfl
    · exact completes_list (one (i := .vunzip f) rfl) hgroup hholds (by simp; omega)
    · refine completes_list (one (i := .vcompress f) rfl) hgroup hholds ?_
      rw [List.length_map]
      exact (List.length_filter_le ..).trans List.length_range.le
    · have hi := one (i := .vslideup f) rfl
      simp only [harg] at hi
      have hwidth : d.width = t.width := congrArg (fun x : BitVec 5 => typeWidth x.toNat) hty
      exact ⟨_, hi, vectorStep_writeDst .., groupTagged_writeDst _ _ (dest_fits hd), (putGroup_masks ..).1, (putGroup_masks ..).2,
        slidUp_writeDst _ hvd rfl fun k => by rw [hwidth]; exact elemAt_lt ..⟩
  · have hvd : TaggedReady f.vd s := ⟨hgroup, hholds⟩
    have two {i : Instr} {agree accept : Bool} {holds : List (BitVec 5 × Nat)} {eff : State → State}
        (hi : exec i s = .next (permForm i f [f.va, f.vb] agree accept holds eff s)) (hagree : agree = true) (haccept : accept = true)
        (hh : ∀ x ∈ holds, s.holdsElems x.1 x.2 = true) : exec i s = .next (retire (eff s)) :=
      hi.trans (congrArg _ (permForm_eq eff (by simpa using ⟨⟨hva, hov⟩, hvb, hob⟩) hvd ⟨hty, hbl, hperm⟩ hagree haccept hh))
    refine ⟨fun hint => ?_, fun hvbt hlong => ?_⟩
    · exact completes_group (two (i := .vperm f) rfl rfl hint (by simp)) (destReady_of_tagged hvd) rfl fun _ => rfl
    · have hi := two (i := .vzip f) rfl (beq_iff_eq.mpr hvbt) rfl (by simpa using hlong)
      have hb (k : Nat) : (s.vecSrc f.vb).get k = Safety.elemAt s f.vb t k := congrArg (fun t => Safety.elemAt s f.vb t k) hvbt
      simp only [hb, beq_iff_eq] at hi
      exact completes_list hi hgroup hlong (by simp)
  · have haccept : (isPixel t.code && isPixWide d.code && decide (f.imm.toNat % 32 ≤ d.width - t.width)) = true := by
      simpa only [hpx, hwide, Bool.true_and] using decide_eq_true hsh
    exact completes_pixel (i := .vunpk f) (res := fun x => x * 2 ^ (f.imm.toNat % 32)) rfl hva ⟨hgroup, hholds⟩ hov haccept fun x => by
      rw [Nat.shiftLeft_eq]
  · have haccept : (isPixWide t.code && isPixel d.code && decide (f.imm.toNat % 32 ≤ t.width - 1)) = true := by
      simpa only [hpx, hwide, Bool.true_and] using decide_eq_true hsh
    exact completes_pixel (i := .vpackpx f) rfl hva ⟨hgroup, hholds⟩ hov haccept (packed_eq f.md (f.imm.toNat % 32) d.width)

end

section
/-! SUPPORT. Segments, and what reductions and scans combine in each (R199-R202). -/

namespace Sys2Proof.Machine

open Sys2Proof.Safety

/-! ### Segments (R199) -/

theorem segmentsFrom_length (mask vl n first i : Nat) :
    (segmentsFrom mask vl n first i).length ≤ n + if i = first then 0 else 1 := by
  induction n generalizing first i with
  | zero =>
    rw [segmentsFrom]
    by_cases h : i = first <;> simp [h]
  | succ n ih =>
    rw [segmentsFrom]
    by_cases h : i = first
    · simpa [h] using ih first (first + 1)
    · have hopen := ih i (i + 1)
      have hon := ih first (i + 1)
      rw [if_neg h]
      split
      · rw [List.length_cons]
        split at hopen <;> omega
      · split at hon <;> omega

/-- There are no more segments than elements. -/
theorem segments_length (s : State) : s.segments.length ≤ s.vl := segmentsFrom_length ..

/-- The number of an element's segment counts the bits that open one, from element 1 up to it. -/
theorem segOf_succ (mask k : Nat) : segOf mask (k + 1) = segOf mask k + if mask.testBit (k + 1) then 1 else 0 := by
  have count (n : Nat) : segOf mask n = (List.range n).countP fun j => mask.testBit (1 + j) := by
    refine (popCount_eq_countP ..).trans (List.countP_congr fun j hj => ?_)
    rw [testBit_bitsAt, decide_eq_true (List.mem_range.mp hj), Bool.true_and]
  rw [count, count, List.range_succ, List.countP_append, List.countP_singleton, Nat.add_comm 1 k]

theorem segOf_mono (mask : Nat) : Monotone (segOf mask) :=
  monotone_nat_of_le_succ fun k => (segOf_succ mask k).symm ▸ Nat.le_add_right ..

/-! ### Integer reductions (R200) -/

/-- The elements of a list as the op of a reduction combines them, exactly. -/
def redFold (op t w : Nat) (l : List Nat) : Int := l.foldl (fun x e => redStep op x (redElem op t w e)) (redInit op w)

/-- A reduction over a run of elements combines the active ones. -/
theorem redOver_eq_foldl (op t w : Nat) (get : Nat → Nat) (act i n : Nat) (x : Int) : redOver op t w get act i n x =
    ((((List.range n).map (i + ·)).filter (act.testBit ·)).map get).foldl (fun x e => redStep op x (redElem op t w e)) x := by
  induction n generalizing i x with
  | zero => rfl
  | succ n ih =>
    have hnext : (List.range n).map ((i + ·) ∘ Nat.succ) = (List.range n).map (i + 1 + ·) :=
      List.map_congr_left fun k _ => by simp only [Function.comp_apply]; omega
    rw [redOver, ih, List.range_succ_eq_map, List.map_cons, List.map_map, hnext, List.filter_cons, Nat.add_zero]
    cases act.testBit i <;> rfl

/-- What a reduction writes of a list of elements: the exact combination by each op, or the op's inactive value (R200). -/
def combined (op t w : Nat) (sat : Bool) (l : List Nat) : Nat :=
  let v (x : Nat) : Int := if t % 2 = 1 then sint w x else ((x % 2 ^ w : Nat) : Int)
  let all : Nat := 2 ^ w - 1
  let clamp (x : Int) : Int := if t % 2 = 1 then max (-((2 ^ (w - 1) : Nat) : Int)) (min (((2 ^ (w - 1) : Nat) : Int) - 1) x)
    else max 0 (min ((all : Nat) : Int) x)
  match op with
  | 0 => intMod w (if sat then clamp (l.map v).sum else (l.map v).sum)
  | 1 => l.foldl (· &&& ·) all | 2 => l.foldl (· ||| ·) 0 | 3 => l.foldl (· ^^^ ·) 0
  | 4 => intMod w ((l.map (sint w)).foldl min (((2 ^ (w - 1) : Nat) : Int) - 1))
  | 5 => intMod w ((l.map (sint w)).foldl max (-((2 ^ (w - 1) : Nat) : Int)))
  | 6 => l.foldl min all | _ => l.foldl max 0

theorem intMod_natCast (w n : Nat) : intMod w (n : Int) = n % 2 ^ w := by
  rw [intMod, ← Int.natCast_emod, Int.toNat_natCast]

theorem foldl_add_eq_sum (g : Nat → Int) (l : List Nat) (c : Int) : l.foldl (fun x e => x + g e) c = c + (l.map g).sum := by
  induction l generalizing c with
  | nil => simp
  | cons e l ih => rw [List.foldl_cons, ih, List.map_cons, List.sum_cons, Int.add_assoc]

/-- A fold over integers that are natural numbers throughout. -/
theorem foldl_natCast {h : Int → Nat → Int} {g : Nat → Nat → Nat} {l : List Nat} (hl : ∀ e ∈ l, ∀ a : Nat, h a e = g a e) (c : Nat) :
    l.foldl h c = (l.foldl g c : Nat) := by
  induction l generalizing c with
  | nil => rfl
  | cons e l ih =>
    rw [List.foldl_cons, List.foldl_cons, hl e List.mem_cons_self, ih fun x hx => hl x (List.mem_cons_of_mem _ hx)]

/-- What the model writes of a fold is the exact combination. -/
theorem redOut_redFold {op t w : Nat} (sat : Bool) (h1 : 1 ≤ t) (h8 : t ≤ 8) {l : List Nat} (hl : ∀ e ∈ l, e < 2 ^ w) :
    redOut op t w sat (redFold op t w l) % 2 ^ w = combined op t w sat l % 2 ^ w := by
  have hall : ((2 ^ w - 1 : Nat) : Int) = ((2 ^ w : Nat) : Int) - 1 := by
    have := Nat.two_pow_pos w; omega
  have natural {h : Int → Nat → Int} {g : Nat → Nat → Nat} {c : Int} (n : Nat) (hc : c = n)
      (hg : ∀ e < 2 ^ w, ∀ a : Nat, h a e = g a e) : intMod w (l.foldl h c) % 2 ^ w = l.foldl g n % 2 ^ w := by
    rw [hc, foldl_natCast fun e he => hg e (hl e he), intMod_natCast, Nat.mod_mod]
  match op with
  | 0 =>
    have hfold : redFold 0 t w l = (l.map fun x => if t % 2 = 1 then sint w x else ((x % 2 ^ w : Nat) : Int)).sum := by
      refine (foldl_add_eq_sum (perTag t w) l 0).trans ?_
      rw [Int.zero_add, funext (perTag_eq h1 h8 w)]
    cases sat
    · simp only [redOut, combined, hfold, Bool.and_false, Bool.false_eq_true, if_false]
    · simp only [redOut, combined, hfold, hall, saturate_eq_max_min h1 h8, beq_self_eq_true, Bool.and_self, if_true]
      split <;> rfl
  | 1 => exact natural _ hall.symm fun e he a => by simp [redStep, redElem, Nat.mod_eq_of_lt he]
  | 2 => exact natural 0 rfl fun e he a => by simp [redStep, redElem, Nat.mod_eq_of_lt he]
  | 3 => exact natural 0 rfl fun e he a => by simp [redStep, redElem, Nat.mod_eq_of_lt he]
  | 4 => exact congrArg (fun x => intMod w x % 2 ^ w) List.foldl_map.symm
  | 5 => exact congrArg (fun x => intMod w x % 2 ^ w) List.foldl_map.symm
  | 6 => exact natural _ hall.symm fun e he a => by simp [redStep, redElem, Nat.mod_eq_of_lt he]
  | op + 7 => exact natural 0 rfl fun e he a => by simp [redStep, redElem, Nat.mod_eq_of_lt he]

/-! ### Integer scans (R200) -/

/-- What a scan carries along: the segment that it is in, one up, and the running value. -/
def scanStep (op t w : Nat) (sat : Bool) (get : Nat → Nat) (mask i : Nat) (st : Nat × Int) : Nat × (Nat × Int) :=
  let j := segOf mask i
  let x := redStep op (if st.1 == j + 1 then st.2 else redInit op w) (redElem op t w (get i))
  (redOut op t w sat x, (j + 1, x))

/-- The active elements below `n` of a segment. -/
def segmentBelow (act mask c n : Nat) : List Nat := (List.range n).filter fun j => act.testBit j && segOf mask j == c

theorem segmentBelow_succ (act mask c n : Nat) : segmentBelow act mask c (n + 1) =
    segmentBelow act mask c n ++ if act.testBit n && segOf mask n == c then [n] else [] := by
  rw [segmentBelow, List.range_succ, List.filter_append, List.filter_singleton, Bool.cond_eq_ite]
  rfl

/-- A segment that has not begun has no elements yet. -/
theorem segmentBelow_eq_nil {act mask c n : Nat} (h : ∀ j < n, segOf mask j < c) : segmentBelow act mask c n = [] :=
  List.filter_eq_nil_iff.mpr fun j hj hp => by
    have := h j (List.mem_range.mp hj)
    simp only [Bool.and_eq_true, beq_iff_eq] at hp
    omega

theorem redFold_append (op t w : Nat) (l : List Nat) (e : Nat) :
    redFold op t w (l ++ [e]) = redStep op (redFold op t w l) (redElem op t w e) := by
  rw [redFold, List.foldl_append]; rfl

/-- Before element `k`, what the scan carries is the combination of the elements of its segment, and nothing of a segment not begun. -/
theorem before_scanStep (op t w : Nat) (sat : Bool) (get : Nat → Nat) (act mask : Nat) {k c : Nat} (hc : segOf mask k ≤ c) :
    let st := before act (scanStep op t w sat get mask) (0, 0) k
    (if st.1 == c + 1 then st.2 else redInit op w) = redFold op t w ((segmentBelow act mask c k).map get) := by
  induction k generalizing c with
  | zero => rfl
  | succ k ih =>
    have hle : segOf mask k ≤ segOf mask (k + 1) := segOf_mono mask k.le_succ
    rw [segmentBelow_succ, before]
    cases act.testBit k
    · simpa using ih (hle.trans hc)
    · obtain rfl | hlt := (hle.trans hc).eq_or_lt
      · simpa [scanStep, redFold_append] using congrArg (redStep op · _) (ih le_rfl)
      · have hnil : segmentBelow act mask c k = [] :=
          segmentBelow_eq_nil fun j hj => (segOf_mono mask hj.le).trans_lt hlt
        simp [scanStep, hnil, hlt.ne, redFold]

/-- An active element of a scan takes the combination of its segment up to it. -/
theorem scanStep_value (op t w : Nat) (sat : Bool) (get : Nat → Nat) {act mask k : Nat} (hk : act.testBit k = true) :
    (scanStep op t w sat get mask k (before act (scanStep op t w sat get mask) (0, 0) k)).1 =
      redOut op t w sat (redFold op t w ((segmentBelow act mask (segOf mask k) (k + 1)).map get)) := by
  rw [segmentBelow_succ, hk, Bool.true_and, beq_self_eq_true, if_pos rfl, List.map_append, List.map_singleton, redFold_append,
    ← before_scanStep op t w sat get act mask le_rfl]
  rfl

/-! ### Writing the results -/

/-- Elements are written by their low bits. -/
theorem putElems_map_congr {α : Type} (w : Nat) {l : List α} {a b : α → Nat} (h : ∀ x, a x % 2 ^ w = b x % 2 ^ w) (j img : Nat) :
    putElems w j (l.map a) img = putElems w j (l.map b) img := by
  induction l generalizing j img with
  | nil => rfl
  | cons x l ih =>
    rw [List.map_cons, List.map_cons, putElems, putElems, ih, show setBitsAt img (j * w) w (a x) = setBitsAt img (j * w) w (b x) by
      rw [setBitsAt, setBitsAt, h]]

/-- Results matter on active elements alone. -/
theorem groupElems_of_active {vd : BitVec 5} {d : Tag} {g : Gov} {a b : Nat → Nat} {s t : State} (h : GroupElems vd d g a s t)
    (hab : ∀ k < s.vl, g.act.testBit k = true → a k % 2 ^ d.width = b k % 2 ^ d.width) : GroupElems vd d g b s t :=
  ⟨fun k hk ha => (h.active k hk ha).trans (hab k hk ha), h.masked, h.tail⟩

/-- A list in a group is read from the vector file and the level alone. -/
theorem listWritten_congr {vd : BitVec 5} {d : Tag} {out : List Nat} {p : PvSet} {s t u : State} (h : ListWritten vd d out p s t)
    (hv : u.hart.vec = t.hart.vec) (hl : u.level = t.level) : ListWritten vd d out p s u := by
  have hat := elemAt_congr (congrArg VecFile.v hv) hl
  refine ⟨?_, ?_, groupTagged_congr h.tagged (congrArg VecFile.v hv), by rw [hv]; exact h.masks⟩ <;> rw [hat]
  · exact h.listed
  · exact h.rest

/-- What the tag checks assure of the groups that a form reads or writes under their own tags. -/
theorem ready_of_tagReason {c : TagCheck} {s : State} (h : tagReason c s = none) :
    (∀ r ∈ c.reads ++ c.tagged, s.groupOk r = true ∧ (c.short.contains r = false → s.holdsElems r s.vl = true)) ∧
      ∀ x ∈ c.holds, s.holdsElems x.1 x.2 = true := by
  simp only [tagReason] at h
  split_ifs at h with hcode hagree hgroup hholds haccept
  simp only [Bool.or_eq_true, not_or, Bool.not_eq_true, List.any_eq_false, Bool.not_eq_true', Bool.and_eq_false_iff, Bool.not_eq_false',
    Bool.not_eq_false] at hgroup hholds
  obtain ⟨⟨⟨hvl, hall⟩, -⟩, -⟩ := hholds
  refine ⟨fun r hr => ⟨hgroup.1 r hr, fun hs => ?_⟩, fun x hx => hall x hx⟩
  simpa only [hs, Bool.true_eq_false, false_or, Bool.not_false, Bool.false_eq_true] using hvl r hr

end Sys2Proof.Machine
end

section
/-! SUPPORT. Floating-point reductions and scans, and the completion of every reducing and scanning form (R200-R202). -/

namespace Sys2Proof.Machine

open Sys2Proof.Safety

section

variable {f : VFmt} {s : State}

/-- Elements of the first source are below the width. -/
theorem elements_lt (l : List Nat) : ∀ e ∈ l.map (firstAt f s), e < 2 ^ (s.tagOf f.va).width := by
  intro e he
  obtain ⟨k, -, rfl⟩ := List.mem_map.mp he
  exact elemAt_lt s f.va _ k

/-- VRED past its checks. -/
theorem completes_vred (ha : GroupReady f.va s) (hd : TaggedReady f.vd s) (ht : s.tagOf f.vd = s.tagOf f.va)
    (h1 : 1 ≤ (s.tagOf f.va).code) (h8 : (s.tagOf f.va).code ≤ 8) (hov : s.overlapAny f.vd (s.tagOf f.va) f.va = false) :
    let t := s.tagOf f.va
    Completes (.vred f) s (fun u => VectorStep s u ∧ ListWritten f.vd t
      (s.segments.map fun g => combined (f.imm.toNat % 8) t.code t.width (f.md.getLsbD 3)
        ((((List.range g.2).map (g.1 + ·)).filter ((s.govern f.gm).1.testBit ·)).map (firstAt f s)))
      (s.pvOf f.va ||| (s.govern f.gm).2 ||| s.segBits.2) s u) := by
  intro t
  have hi : exec (.vred f) s = .next (vecForm _ _ _ _ s) := rfl
  rw [vecForm_eq _ (tagReason_tagged (by simpa using ha) (by simpa using hd) (beq_iff_eq.mpr ht) (by simp) rfl (isInt_of_le h1 h8) rfl) hov]
    at hi
  have hvalue (g : Nat × Nat) := redOut_redFold (op := f.imm.toNat % 8) (f.md.getLsbD 3) h1 h8
    (elements_lt (f := f) (s := s) (((List.range g.2).map (g.1 + ·)).filter ((s.govern f.gm).1.testBit ·)))
  simp only [redFold, ← redOver_eq_foldl] at hvalue
  replace hi := hi.trans (congrArg (fun img => Host.Outcome.next (retire (s.writeDst f.vd t img
    (s.pvOf f.va ||| (s.govern f.gm).2 ||| s.segBits.2)))) (putElems_map_congr t.width hvalue 0 (s.dstImg f.vd t)))
  have hlist := completes_list (vd := f.vd) (hi.trans (by rw [ht])) hd.1 hd.2 (by rw [List.length_map]; exact segments_length s)
  rwa [ht] at hlist

/-- VSCAN past its checks. -/
theorem completes_vscan (ha : GroupReady f.va s) (hd : TaggedReady f.vd s) (ht : s.tagOf f.vd = s.tagOf f.va)
    (h1 : 1 ≤ (s.tagOf f.va).code) (h8 : (s.tagOf f.va).code ≤ 8) (hov : s.overlapSrc f.vd (s.tagOf f.va) f.va = false) :
    let t := s.tagOf f.va
    let mask := s.segBits.1
    Completes (.vscan f) s (fun u => VectorStep s u ∧ GroupWritten f.vd t (s.gov f t.width)
      (fun k => combined (f.imm.toNat % 8) t.code t.width (f.md.getLsbD 3)
        ((segmentBelow (s.govern f.gm).1 mask (segOf mask k) (k + 1)).map (firstAt f s)))
      (s.pvOf f.va ||| (s.govern f.gm).2 ||| s.segBits.2) s u) := by
  intro t mask
  have hi : exec (.vscan f) s = .next (vecForm _ _ _ _ s) := rfl
  rw [vecForm_eq _ (tagReason_tagged (by simpa using ha) (by simpa using hd) (beq_iff_eq.mpr ht) (by simp) rfl (isInt_of_le h1 h8) rfl) hov]
    at hi
  have heff := elemRun_eq_elemwise (s.gov f t.width) t.width
    (scanStep (f.imm.toNat % 8) t.code t.width (f.md.getLsbD 3) (firstAt f s) mask) (0, 0) (s.dstImg f.vd t)
  have hdest : DestReady f.vd t s := by
    have := destReady_of_tagged hd
    rwa [ht] at this
  obtain ⟨u, hu, hstep, hw⟩ := completes_group (hi.trans (congrArg (fun x : Nat × (Nat × Int) =>
    Host.Outcome.next (retire (s.writeDst f.vd t x.1 (s.pvOf f.va ||| (s.govern f.gm).2 ||| s.segBits.2)))) heff)) hdest rfl fun _ => rfl
  refine ⟨u, hu, hstep, groupElems_of_active hw.elems fun k _ hk => ?_, hw.tagged, hw.masks⟩
  rw [scanStep_value _ _ _ _ _ hk]
  exact redOut_redFold (f.md.getLsbD 3) h1 h8 (elements_lt _)

theorem FRed.segs_length (r : FRed) (act j : Nat) (l : List (Nat × Nat)) (st : FpSt) : (r.segs act j l st).1.length = l.length := by
  induction l generalizing j st with
  | nil => rfl
  | cons g l ih => exact congrArg Nat.succ (ih ..)

/-- The groups of a starting operand and the source are apart from the destination. -/
theorem start_apart {overlap : BitVec 5 → Bool} (ha : overlap f.va = false)
    (hb : f.imm.getLsbD 4 = true → f.sb = false → overlap f.vb = false) :
    (overlap f.va || (f.imm.getLsbD 4 && !f.sb && overlap f.vb)) = false := by
  rw [ha, Bool.false_or]
  cases hstart : f.imm.getLsbD 4
  · rfl
  · cases hsb : f.sb
    · exact hb hstart hsb
    · rfl

theorem mem_fredReads (f : VFmt) (s : State) : f.vd ∈ (s.fredReads f).reads ++ (s.fredReads f).tagged := by
  unfold State.fredReads State.fredCheck
  dsimp only
  split <;> simp

/-- The destination of VFSCAN holds vl elements: only a start that is another group may hold fewer. -/
theorem fredReads_ready (h : tagReason (s.fredReads f) s = none) : TaggedReady f.vd s := by
  obtain ⟨hgroup, hholds⟩ := (ready_of_tagReason h).1 f.vd (mem_fredReads f s)
  refine ⟨hgroup, hholds ?_⟩
  have hshort : (s.fredReads f).short = if f.imm.getLsbD 4 && !f.sb && f.vb != f.vd then [f.vb] else [] := by
    unfold State.fredReads State.fredCheck
    dsimp only
    split <;> rfl
  rw [hshort]
  split
  · next hne =>
    simp only [Bool.and_eq_true, bne_iff_ne] at hne
    simpa using fun e => hne.2 e.symm
  · rfl

/-- The destination of VFRED holds an element per segment. -/
theorem vfredCheck_ready (h : tagReason (s.vfredCheck f) s = none) : s.groupOk f.vd = true ∧ s.holdsElems f.vd s.segments.length = true := by
  obtain ⟨hgroups, hholds⟩ := ready_of_tagReason h
  exact ⟨(hgroups f.vd (mem_fredReads f s)).1, hholds (f.vd, s.nseg) List.mem_cons_self⟩

/-- A group written, then flags and generator with the group's new set. -/
theorem written_fpEnd (s : State) (vd : BitVec 5) (d : Tag) (img : Nat) (p : PvSet) (st : FpSt) :
    let v := s.writeDst vd d img p
    let u := retire (v.fpEnd st (v.setOfDst vd))
    u.hart.vec = (retire v).hart.vec ∧ u.level = (retire v).level ∧ FlagsJoined st (u.hart.vreg vd.toNat).pv s u := by
  obtain ⟨_, hx⟩ := putDst_eq s vd d (s.hart.groupPv vd.toNat d.count ||| p ||| s.vlPv ||| s.ctx) img
  exact ⟨rfl, rfl, flagsJoined_fpEnd hx _ _⟩

/-- VFRED past its checks. -/
theorem completes_vfred (hc : tagReason (s.vfredCheck f) s = none) (hov : s.overlapAny f.vd (s.tagOf f.vd) f.va = false)
    (hob : f.imm.getLsbD 4 = true → f.sb = false → s.overlapAny f.vd (s.tagOf f.vd) f.vb = false) :
    let x := (s.fred f).segs (s.govern f.gm).1 0 s.segments s.fpStart
    Completes (.vfred f) s (fun u => ListWritten f.vd (s.tagOf f.vd) x.1
      (s.pvOf f.va ||| (s.govern f.gm).2 ||| s.segBits.2 ||| s.startPv f) s u ∧ FlagsJoined x.2 (u.hart.vreg f.vd.toNat).pv s u) := by
  have hi : exec (.vfred f) s = .next (vecForm _ _ _ _ s) := rfl
  rw [vecForm_eq _ hc (start_apart hov hob)] at hi
  obtain ⟨hgroup, hholds⟩ := vfredCheck_ready hc
  have hlen := (s.fred f).segs_length (s.govern f.gm).1 0 s.segments s.fpStart
  dsimp only at hi ⊢
  generalize (s.fred f).segs (s.govern f.gm).1 0 s.segments s.fpStart = x at hi hlen ⊢
  obtain ⟨hv, hl, hflags⟩ := written_fpEnd s f.vd (s.tagOf f.vd) (putElems (s.tagOf f.vd).width 0 x.1 (s.dstImg f.vd (s.tagOf f.vd)))
    (s.pvOf f.va ||| (s.govern f.gm).2 ||| s.segBits.2 ||| s.startPv f) x.2
  exact ⟨_, hi, listWritten_congr (listWritten_writeDst _ (group_fits hgroup) fun k hk =>
    element_held hholds (hk.trans_eq hlen)) hv hl, hflags⟩

/-- What VFSCAN carries along: flags and generator, and the running value of the segment that it is in (R201). -/
def FRed.scanStep (r : FRed) (act mask k : Nat) (x : FpSt × Nat × Option Nat) : Nat × (FpSt × Nat × Option Nat) :=
  let j := segOf mask k
  if r.op == 0 && !r.asc then
    let y := r.value act j (segFirst mask k) (k + 1 - segFirst mask k) x.1
    (y.1, (y.2, x.2))
  else
    let w := if x.2.1 == j + 1 then (x.2.2, x.1) else r.starts j x.1
    let y := toAcc r.fs r.fd (r.get k) w.2
    let z := runStep r.fd r.op r.mode w.1 y.1 y.2
    (z.1, (z.2, j + 1, some z.1))

/-- VFSCAN past its checks. -/
theorem completes_vfscan (hc : tagReason (s.fredReads f) s = none) (hov : s.overlapSrc f.vd (s.tagOf f.vd) f.va = false)
    (hob : f.imm.getLsbD 4 = true → f.sb = false → s.overlapSrc f.vd (s.tagOf f.vd) f.vb = false) :
    let g := s.gov f (max (s.tagOf f.va).width (s.tagOf f.vd).width)
    let eff := (s.fred f).scanStep (s.govern f.gm).1 s.segBits.1
    Completes (.vfscan f) s (fun u =>
      GroupWritten f.vd (s.tagOf f.vd) g (fun k => (eff k (before (s.govern f.gm).1 eff (s.fpStart, 0, none) k)).1)
        (s.pvOf f.va ||| g.pv ||| s.segBits.2 ||| s.startPv f) s u ∧
      FlagsJoined (before (s.govern f.gm).1 eff (s.fpStart, 0, none) s.vl).1 (u.hart.vreg f.vd.toNat).pv s u) := by
  intro g eff
  have hi : exec (.vfscan f) s = .next (vecForm _ _ _ _ s) := rfl
  rw [vecForm_eq _ hc (start_apart hov hob)] at hi
  have heff := elemRun_eq_elemwise g (s.tagOf f.vd).width eff (s.fpStart, 0, none) (s.dstImg f.vd (s.tagOf f.vd))
  replace hi := hi.trans (congrArg (fun x : Nat × (FpSt × Nat × Option Nat) =>
    let v := s.writeDst f.vd (s.tagOf f.vd) x.1 (s.pvOf f.va ||| g.pv ||| s.segBits.2 ||| s.startPv f)
    Host.Outcome.next (retire (v.fpEnd x.2.1 (v.setOfDst f.vd)))) heff)
  obtain ⟨hv, hl, hflags⟩ := written_fpEnd s f.vd (s.tagOf f.vd)
    (elemwise g (s.tagOf f.vd).width (fun k => (eff k (before g.act eff (s.fpStart, 0, none) k)).1) (s.dstImg f.vd (s.tagOf f.vd)))
    (s.pvOf f.va ||| g.pv ||| s.segBits.2 ||| s.startPv f) (before g.act eff (s.fpStart, 0, none) g.vl).1
  exact ⟨_, hi, groupWritten_congr (groupWritten_writeDst _ (destReady_of_tagged (fredReads_ready hc)) rfl fun _ => rfl) hv hl, hflags⟩

/-- VSEGPACK past its checks. -/
theorem completes_vsegpack (hd : TaggedReady f.vd s) (h1 : 1 ≤ (s.tagOf f.vd).code) (h8 : (s.tagOf f.vd).code ≤ 8) :
    Completes (.vsegpack f) s (fun u => VectorStep s u ∧ ListWritten f.vd (s.tagOf f.vd)
      (s.segments.map fun g => if f.imm.getLsbD 0 then ((List.range g.2).countP fun k => (s.govern f.gm).1.testBit (g.1 + k)) else g.1)
      ((s.govern f.gm).2 ||| s.segBits.2) s u) := by
  have count (act : Nat) (g : Nat × Nat) : popCount (bitsAt act g.1 g.2) g.2 = (List.range g.2).countP fun k => act.testBit (g.1 + k) := by
    refine (popCount_eq_countP ..).trans (List.countP_congr fun k hk => ?_)
    rw [testBit_bitsAt, decide_eq_true (List.mem_range.mp hk), Bool.true_and]
  have hi : exec (.vsegpack f) s = .next (vecForm _ _ _ _ s) := rfl
  rw [vecForm_eq _ (tagReason_tagged (by simp) (by simpa using hd) rfl (by simp) rfl (isInt_of_le h1 h8) rfl) rfl] at hi
  simp only [count] at hi
  exact completes_list hi hd.1 hd.2 (by rw [List.length_map]; exact segments_length s)

end

end Sys2Proof.Machine
end

section
open Sys2Proof Sys2Proof.Machine Sys2Proof.Safety

/-- Settles O44: the integer forms by the exact combination of a segment's active elements, the floating-point ones by the shared one. -/
theorem reductionsAndScans : Obligations.ReductionsAndScans := by
  intro f s t d w op a act v all clamp combine mask sp
  refine ⟨fun ha hgroup hholds hdt h1 h8 => ⟨fun hov => ?_, fun hov => ?_⟩, fun hc hov hob => ?_, fun hc hov hob => ?_,
    fun h1 h8 hgroup hholds => ?_⟩
  · exact completes_vred ha ⟨hgroup, hholds⟩ hdt h1 h8 hov
  · exact completes_vscan ha ⟨hgroup, hholds⟩ hdt h1 h8 hov
  · exact completes_vfred hc hov hob
  · intro r g tree eff
    have heff : (s.fred f).scanStep act mask = eff := by
      funext k x
      have htree : ((s.fred f).op == 0 && !(s.fred f).asc) = decide tree := by
        simp only [Bool.decide_and, beq_eq_decide, ← Bool.not_eq_true', Bool.decide_eq_true, tree]
        rfl
      simp only [FRed.scanStep, htree, decide_eq_true_eq, beq_iff_eq]
      rfl
    rw [← heff]
    exact completes_vfscan hc hov hob
  · exact completes_vsegpack ⟨hgroup, hholds⟩ h1 h8

end

section
/-! SUPPORT. Floating-point compares, classes and conversions, and the scale registers that VQUANT writes (R190-R197). -/

namespace Sys2Proof.Machine

open Sys2Proof.Safety

/-! ### Effects that differ in what they write, not in what they carry -/

theorem before_congr {σ : Type} {act : Nat} {e e' : Nat → σ → Nat × σ} (h : ∀ k x, (e k x).2 = (e' k x).2) (st : σ) (n : Nat) :
    before act e st n = before act e' st n := by
  induction n with
  | zero => rfl
  | succ n ih => rw [before, before, ih, h]

/-- A mask register written by the element-wise effect. -/
theorem maskWritten_writeMask {s : State} {md : Nat} {g : Gov} {b : Nat → Bool} (p : PvSet) (hg : g.vl = s.vl) :
    MaskWritten md g b p s (retire (s.writeMask md (elemwise g 1 (fun k => if b k then 1 else 0) (s.hart.mreg md).bits) p)) := by
  refine maskWritten_setM (fun k hk ha => ?_) (fun k hk ha => ?_) fun k hk => testBit_elemwise_tail g _ _ (hg ▸ hk)
  · rw [testBit_elemwise g b _ (hg ▸ hk), if_pos ha]
  · rw [testBit_elemwise g b _ (hg ▸ hk), if_neg (by simp [ha])]

/-! ### The substitution flag (R54) -/

section

variable {s t : State} {vd : BitVec 5} {d : Tag}

theorem destReady_setFsub (b : Bool) (h : DestReady vd d s) : DestReady vd d (setFsub b s) := by cases b <;> exact h

theorem gov_setFsub (b : Bool) (f : VFmt) (wg : Nat) (s : State) : (setFsub b s).gov f wg = s.gov f wg := by cases b <;> rfl

theorem vector_setFsub (b : Bool) (s : State) : (setFsub b s).hart.vec = s.hart.vec := by cases b <;> rfl

theorem groupPv_congr_v {g h : Hart} (e : g.vec.v = h.vec.v) (r n : Nat) : g.groupPv r n = h.groupPv r n := by
  induction n generalizing r with
  | zero => rfl
  | succ n ih => rw [Hart.groupPv, Hart.groupPv, ih, Hart.vreg, e]; rfl

theorem vecSrc_setFsub (b : Bool) (r : BitVec 5) (s : State) : (setFsub b s).vecSrc r = s.vecSrc r := by
  have hv := vector_setFsub b s
  have htag : (setFsub b s).tagOf r = s.tagOf r := by simp only [State.tagOf, Hart.vreg, hv]
  have hlevel : (setFsub b s).level = s.level := by cases b <;> rfl
  simp only [State.vecSrc, State.imgOf, State.pvOf, htag, hlevel, groupImg_congr_v (congrArg VecFile.v hv),
    groupPv_congr_v (congrArg VecFile.v hv)]

theorem fmtAt_setFsub (b : Bool) (r : BitVec 5) (s : State) : (setFsub b s).fmtAt r = s.fmtAt r := by cases b <;> rfl
theorem kreg_setFsub (b : Bool) (r : Nat) (s : State) : (setFsub b s).hart.kreg r = s.hart.kreg r := by cases b <;> rfl
theorem fpStart_setFsub (b : Bool) (s : State) : (setFsub b s).fpStart = s.fpStart := by cases b <;> rfl
theorem vl_setFsub (b : Bool) (s : State) : (setFsub b s).vl = s.vl := by cases b <;> rfl

theorem groupElems_setFsub {b : Bool} {g : Gov} {res : Nat → Nat} (h : GroupElems vd d g res (setFsub b s) t) : GroupElems vd d g res s t := by
  have hat : Safety.elemAt (setFsub b s) = Safety.elemAt s :=
    elemAt_congr (congrArg VecFile.v (vector_setFsub b s)) (by cases b <;> rfl)
  have hmasked := h.masked
  have htail := h.tail
  rw [hat] at hmasked htail
  cases b <;> exact ⟨h.active, hmasked, htail⟩

theorem groupTagged_setFsub {b : Bool} {p : PvSet} (h : GroupTagged vd d p (setFsub b s) t) : GroupTagged vd d p s t := by
  have hgroup := h.group
  simp only [groupPv_congr_v (congrArg VecFile.v (vector_setFsub b s))] at hgroup
  cases b <;> exact ⟨hgroup, h.others⟩

end

/-! ### The forms -/

section

variable {f : VFmt} {s : State}

/-- A condition of an accepted form, as its check decides it. -/
theorem implies_beq {b : Bool} {m n : Nat} (h : b = true → m = n) : (!b || m == n) = true := by
  cases b
  · rfl
  · exact beq_iff_eq.mpr (h rfl)

/-- Saturation as a conversion accepts it: to an integer, or to E5M2. -/
theorem saturates_ok {sat : Bool} {d : Nat} (h : sat = true → isInt d = true ∨ d = 14) : (!sat || isInt d || d == 14) = true := by
  cases sat
  · rfl
  · simpa using h rfl

/-- VFCMP past its checks. -/
theorem completes_vfcmp (hsrc : SourcesReady f s) (hfloat : isFloat (s.tagOf f.va).code = true) :
    let fm := s.fmtAt f.va
    let w := (s.tagOf f.va).width
    let g := s.gov f w
    let md := f.vd.toNat % 8
    let x (k : Nat) := fm.decode (firstAt f s k)
    let y (k : Nat) := fm.decode (secondAt f w s k)
    let cmp (k : Nat) (st : FpSt) : Nat × FpSt :=
      let st := ((st.operand fm (firstAt f s k)).2.operand fm (secondAt f w s k)).2
      (0, if 2 ≤ f.md.toNat ∧ f.md.toNat ≤ 5 ∧ ((x k).isNan = true ∨ (y k).isNan = true) then st.raise flagNV else st)
    Completes (.vfcmp f) s (fun u =>
      MaskWritten md g (fun k => fcmpCond f.md.toNat (x k) (y k)) (s.pvOf f.va ||| secondPv f s ||| g.pv) s u ∧
      FlagsJoined (before g.act cmp s.fpStart s.vl) (u.hart.mreg md).pv s u) := by
  intro fm w g md x y cmp
  have hi : exec (.vfcmp f) s = .next (vecForm _ _ _ _ s) := rfl
  rw [vecForm_eq _ (tagReason_ready (ready_of_vsrcs hsrc) rfl (sources_agree hsrc) (by simp) rfl hfloat ⟨rfl, rfl⟩) rfl] at hi
  dsimp only at hi
  rw [second_pv, elemRun_eq_elemwise, before_congr (e' := cmp) fun k st => ?carried] at hi
  case carried =>
    simp only [second_get, cmp, Bool.and_eq_true, Bool.or_eq_true, decide_eq_true_eq, and_assoc]
    rfl
  simp only [second_get] at hi
  exact ⟨_, hi, maskWritten_congr (maskWritten_writeMask _ rfl) rfl, flagsJoined_fpEnd rfl _ _⟩

/-- An element-wise floating-point form past its checks, in the state that its substitution flag leaves. -/
theorem completes_fpEffect {i : Instr} {d : Tag} {wg : Nat} {p : PvSet} {eff : Nat → FpSt → Nat × FpSt} {b : Bool}
    (hi : exec i s = .next (retire (fpEffect f d wg p eff (setFsub b s)))) (hd : DestReady f.vd d s) :
    Completes i s (FpStep f.vd d (s.gov f wg) eff (p ||| (s.gov f wg).pv) (setFsub b s)) := by
  refine ⟨_, hi, ?_⟩
  rw [← gov_setFsub b]
  exact fpStep_fpEffect wg p eff (destReady_setFsub b hd)

theorem isFloat_of_le {t : Nat} (h9 : 9 ≤ t) (h12 : t ≤ 12) : isFloat t = true := by simp [isFloat, h9, h12]

/-- The unsigned type of VFCLASS's result has the width of the float type. -/
theorem classType_width {t : Nat} (h9 : 9 ≤ t) (h12 : t ≤ 12) :
    typeWidth (if typeWidth t = 16 then 4 else if typeWidth t = 32 then 6 else 8 : BitVec 5).toNat = typeWidth t := by
  obtain rfl | rfl | rfl | rfl : t = 9 ∨ t = 10 ∨ t = 11 ∨ t = 12 := by omega
  all_goals rfl

/-- VFCLASS past its checks: the result tag has the width and the grouping of the source. -/
theorem completes_vfclass (hva : GroupReady f.va s) (h9 : 9 ≤ (s.tagOf f.va).code) (h12 : (s.tagOf f.va).code ≤ 12) :
    let t := s.tagOf f.va
    let d : Tag := ⟨if t.width = 16 then 4 else if t.width = 32 then 6 else 8, t.g, 0⟩
    DestReady f.vd d s → s.overlapSrc f.vd d f.va = false → Completes (.vfclass f) s (FpStep f.vd d (s.gov f t.width)
      (fun k st => (2 ^ (s.fmtAt f.va).classOf (firstAt f s k), st)) (s.pvOf f.va ||| (s.gov f t.width).pv) s) := by
  intro t d hd hov
  have hwidth : d.width = t.width := classType_width h9 h12
  have hi : exec (.vfclass f) s = .next (vecForm _ _ _ _ s) := rfl
  simp only [beq_iff_eq] at hi
  rw [vecForm_eq _ (tagReason_ready (by simpa using hva) rfl rfl (by simp) rfl (isFloat_of_le h9 h12) ?dst) hov] at hi
  case dst => exact dst_ready hd (congrArg (fun w => some (f.vd, t.count, w, s.vl)) hwidth.symm)
  exact completes_fpEffect (b := false) hi hd

/-- VSCALE past its checks. -/
theorem completes_vscale (hva : GroupReady f.va s) (hscaled : isScaled (s.tagOf f.va).code = true) :
    let t := s.tagOf f.va
    let x := tagImm f.imm.toNat
    let k := s.hart.kreg f.vc.toNat
    let g := s.gov f (max t.width x.tag.width)
    x.ok = true → isFloat x.ty = true → beyondScale (s.govern f.gm).1 t.bl.toNat = false → DestReady f.vd x.tag s →
    s.overlapSrc f.vd x.tag f.va = false → Completes (.vscale f) s (FpStep f.vd x.tag g
      (fun i st => fpRound ((Machine.fmtOf x.ty).getD fp64) (s.rmode f.md)
        (scaled (s.fmtAt f.va) (firstAt f s i) (container k (i / 2 ^ t.bl.toNat))) st) (s.pvOf f.va ||| k.pv ||| g.pv) s) := by
  intro t x k g hok hfloat hbeyond hd hov
  have haccept : (isScaled t.code && x.ok && isFloat x.ty) = true := by
    rw [show isScaled t.code = true from hscaled, hok, hfloat]; rfl
  have hi : exec (.vscale f) s = .next (vecForm _ _ _ _ s) := rfl
  rw [vecForm_eq _ (tagReason_ready (by simpa using hva) rfl rfl (by simp) hbeyond haccept (dst_ready hd rfl)) hov] at hi
  simp only [Nat.shiftRight_eq_div_pow] at hi
  exact completes_fpEffect (b := false) hi hd

/-- A conversion past its checks. -/
theorem completes_convert {i : Instr} {d : Tag} {has accept sub sat : Bool} {mode : Nat}
    (hi : exec i s = .next (convertForm i f d has accept sub mode sat s)) (hva : GroupReady f.va s) (haccept : accept = true)
    (hd : DestReady f.vd d s) (hov : s.overlapSrc f.vd d f.va = false) :
    let t := s.tagOf f.va
    let g := s.gov f (max t.width d.width)
    Completes i s (FpStep f.vd d g (fun k st => convert t.code t.width d.code d.width mode sat (firstAt f s k) st)
      (s.pvOf f.va ||| g.pv) (setFsub sub s)) := by
  intro t g
  rw [convertForm, vecForm_eq _ (tagReason_ready (by simpa using hva) rfl rfl (by simp) rfl haccept ?dst) hov] at hi
  case dst =>
    cases has
    · exact ⟨rfl, rfl⟩
    · exact dst_ready hd rfl
  exact completes_fpEffect hi hd

/-- The effect of VQUANT: a group, the scale register with the group's new set, and flags and generator. -/
def State.quantized (s : State) (f : VFmt) (d : Tag) (g : Gov) (eff : Nat → FpSt → Nat × FpSt) (st : FpSt) (k : BReg) (p : PvSet) : State :=
  let x := elemRun g d.width eff g.vl 0 (s.dstImg f.vd d, st)
  let v := s.writeDst f.vd d x.1 p
  (v.mapHart fun h => h.setK f.vc.toNat ⟨k.bits, k.pv ||| v.setOfDst f.vd⟩).fpEnd x.2 (v.setOfDst f.vd)

/-- A scale register and flags beside a group that was written. -/
theorem scaleAndFlags_written {s v : State} {vd : BitVec 5} {d : Tag} {g : Gov} {res : Nat → Nat} {p : PvSet} (n : Nat) (k : BReg) (st : FpSt)
    (hv : ∃ x, v = { s with hart := { s.hart with vec := x } }) (hw : GroupWritten vd d g res p s (retire v)) :
    let u := retire ((v.mapHart fun h => h.setK n ⟨k.bits, k.pv ||| v.setOfDst vd⟩).fpEnd st (v.setOfDst vd))
    GroupElems vd d g res s u ∧ GroupTagged vd d p s u ∧ u.hart.vec.m = s.hart.vec.m ∧
      u.hart.kreg n = ⟨k.bits, k.pv ||| (u.hart.vreg vd.toNat).pv⟩ ∧ (∀ r, r % 8 ≠ n % 8 → u.hart.kreg r = s.hart.kreg r) ∧
      FlagsJoined st (u.hart.vreg vd.toNat).pv s u := by
  have hk : v.hart.vec.k = s.hart.vec.k := hw.masks.2
  refine ⟨groupElems_congr hw.elems rfl rfl, groupTagged_congr hw.tagged rfl, hw.masks.1, Hart.kreg_setK_same _ _ rfl,
    fun r hr => (Hart.kreg_setK_ne v.hart _ hr).trans (by rw [Hart.kreg, hk]; rfl), ?_⟩
  obtain ⟨x, rfl⟩ := hv
  exact flagsJoined_fpEnd rfl _ _

theorem quantized_written {d : Tag} {g : Gov} (eff : Nat → FpSt → Nat × FpSt) (st : FpSt) (k : BReg) (p : PvSet) (hd : DestReady f.vd d s)
    (hg : g.vl = s.vl) :
    let u := retire (s.quantized f d g eff st k p)
    GroupElems f.vd d g (fun k => (eff k (before g.act eff st k)).1) s u ∧ GroupTagged f.vd d p s u ∧ u.hart.vec.m = s.hart.vec.m ∧
      u.hart.kreg f.vc.toNat = ⟨k.bits, k.pv ||| (u.hart.vreg f.vd.toNat).pv⟩ ∧
      (∀ r, r % 8 ≠ f.vc.toNat % 8 → u.hart.kreg r = s.hart.kreg r) ∧
      FlagsJoined (before g.act eff st g.vl) (u.hart.vreg f.vd.toNat).pv s u := by
  rw [State.quantized, elemRun_eq_elemwise]
  exact scaleAndFlags_written f.vc.toNat k _ (putDst_eq ..) (groupWritten_writeDst p hd hg fun _ => rfl)

/-- VQUANT past its checks: the group, the scale register beside it, and flags and generator. -/
theorem completes_vquant (hva : GroupReady f.va s) (hfloat : isFloat (s.tagOf f.va).code = true) :
    let t := s.tagOf f.va
    let fm := s.fmtAt f.va
    let x := tagImm f.imm.toNat
    let sat := f.md.getLsbD 3
    let base := setFsub x.sub s
    let old := s.hart.kreg f.vc.toNat
    let q := quantScales fm (firstAt f s) (s.govern f.gm).1 (if x.ty = 13 then 448 else if x.ty = 14 then 57344 else 6) x.bl s.vl 0
      (s.vl / 2 ^ x.bl + 1) (old.bits, 0)
    let eff (k : Nat) (st : FpSt) : Nat × FpSt :=
      let v := divVal (fm.decode (firstAt f s k)) (e4m5.decode (container ⟨q.1, old.pv⟩ (k / 2 ^ x.bl)))
      ((st.operand fm (firstAt f s k)).2.raise v.2).round ((Machine.fmtOf x.ty).getD e2m1) (s.rmode f.md) sat v.1
    let g := s.gov f (max t.width x.tag.width)
    x.ok = true → isScaled x.ty = true → (sat = true → x.ty = 14) → beyondScale (s.govern f.gm).1 x.bl = false →
    DestReady f.vd x.tag s → s.overlapSrc f.vd x.tag f.va = false →
    Completes (.vquant f) s (fun u =>
      GroupElems f.vd x.tag g (fun k => (eff k (before g.act eff (s.fpStart.raise q.2) k)).1) s u ∧
      GroupTagged f.vd x.tag (s.pvOf f.va ||| g.pv) s u ∧ u.hart.vec.m = s.hart.vec.m ∧
      u.hart.kreg f.vc.toNat = ⟨q.1, old.pv ||| (u.hart.vreg f.vd.toNat).pv⟩ ∧
      (∀ r, r % 8 ≠ f.vc.toNat % 8 → u.hart.kreg r = s.hart.kreg r) ∧
      FlagsJoined (before g.act eff (s.fpStart.raise q.2) s.vl) (u.hart.vreg f.vd.toNat).pv base u) := by
  intro t fm x sat base old q eff g hok hscaled hsat hbeyond hd hov
  have haccept : (isFloat t.code && x.ok && isScaled x.ty && (!sat || x.ty == 14)) = true := by
    rw [show isFloat t.code = true from hfloat, hok, hscaled, Bool.true_and, Bool.true_and, Bool.true_and]
    exact implies_beq hsat
  have hi : exec (.vquant f) s = .next (vecForm _ _ _ _ s) := rfl
  rw [vecForm_eq _ (tagReason_ready (by simpa using hva) rfl rfl (by simp) (by rw [hbeyond, Bool.and_false]) haccept (dst_ready hd rfl)) hov]
    at hi
  dsimp only at hi
  simp only [vecSrc_setFsub, fmtAt_setFsub, kreg_setFsub, fpStart_setFsub, vl_setFsub, gov_setFsub, beq_iff_eq, Nat.shiftRight_eq_div_pow] at hi
  obtain ⟨helems, htagged, hm, hsame, hothers, hflags⟩ := quantized_written (f := f) eff (s.fpStart.raise q.2) ⟨q.1, old.pv⟩
    (s.pvOf f.va ||| g.pv) (destReady_setFsub x.sub hd) (g := g) (vl_setFsub x.sub s).symm
  refine ⟨_, hi, groupElems_setFsub helems, groupTagged_setFsub htagged, hm.trans (by rw [vector_setFsub]), hsame,
    fun r hr => (hothers r hr).trans (kreg_setFsub ..), hflags⟩

end

end Sys2Proof.Machine
end

section
open Sys2Proof Sys2Proof.Machine Sys2Proof.Safety

/-- Settles O43: compares by their mask and flags, classes and conversions by the one element-wise effect, VQUANT by its scales. -/
theorem vectorFloatComparesAndConversions : Obligations.VectorFloatComparesAndConversions := by
  intro f s t w fm a b g sig md x sat converts cmp
  refine ⟨fun h9 h12 hsrc => completes_vfcmp hsrc (isFloat_of_le h9 h12), fun hva => ⟨fun h9 h12 => ?_, fun ht hok hx hsat hd hov => ?_,
    fun ht hg hd hov => ?_, fun d hdn h0 hsat hd hov => ?_, fun ht hok h9 h12 hscale hd hov => ?_, fun h9 h12 hok hx hsat hscale hd hov => ?_⟩⟩
  · exact completes_vfclass hva h9 h12
  · refine completes_convert (i := .vcvt f) rfl hva ?_ hd hov
    rw [show isCvt t.code = true from ht, show x.ok = true from hok, show isCvt x.ty = true from hx]
    exact saturates_ok hsat
  · refine completes_convert (i := .vwiden f) (sub := false) rfl hva ?_ hd hov
    rw [Bool.and_eq_true_iff, bne_iff_ne, bne_iff_ne]
    exact ⟨ht, hg⟩
  · subst hdn
    have hi : exec (.vnarrow f) s = .next (convertForm _ f _ _ _ _ _ _ s) := rfl
    simp only [beq_iff_eq] at hi
    refine completes_convert (sub := false) hi hva ?_ hd hov
    rw [Bool.and_eq_true_iff, bne_iff_ne]
    exact ⟨h0, saturates_ok hsat⟩
  · exact completes_vscale hva ht hok (isFloat_of_le h9 h12) hscale hd hov
  · exact completes_vquant hva (isFloat_of_le h9 h12) hok hx hsat hscale hd hov

end

section
/-! SUPPORT. The write of an atomic at its home, and the elements of a vector atomic one after another (R210, R358). -/

namespace Sys2Proof.Machine

open Sys2Proof.Safety

/-! ### The write of an atomic -/

/-- The home has taken the sectors of a write: its page's set has grown, the checks for its lines are settled, and no core owns it (R450). -/
def State.takenHome (s : State) (pa n : Nat) (p : PvSet) : State :=
  let (l0, ln) := units 128 pa n
  let (x0, xn) := units 32 pa n
  let s := forRange settleChecks l0 ln (growCur pa p s)
  if s.inHost pa then s else forRange (homeSector none) x0 xn s

theorem takenHome_same (s : State) (pa n : Nat) (p : PvSet) :
    (s.takenHome pa n p).layout = s.layout ∧ (s.takenHome pa n p).mem = s.mem ∧ (s.takenHome pa n p).kept = s.kept := by
  unfold State.takenHome
  dsimp only
  have hgrown (l0 ln : Nat) : (forRange settleChecks l0 ln (growCur pa p s)).layout = s.layout ∧
      (forRange settleChecks l0 ln (growCur pa p s)).mem = s.mem ∧ (forRange settleChecks l0 ln (growCur pa p s)).kept = s.kept := by
    rw [forRange_same State.layout _ settleChecks_layout, forRange_same State.mem _ settleChecks_mem,
      forRange_same State.kept _ settleChecks_kept]
    exact ⟨growCur_layout .., growCur_mem .., growCur_kept ..⟩
  split
  · exact hgrown ..
  · rw [forRange_same State.layout _ (homeSector_layout none), forRange_same State.mem _ (homeSector_mem none),
      forRange_same State.kept _ (homeSector_kept none)]
    exact hgrown ..

/-- The write of an atomic, step by step: its bytes land once the home has taken them. -/
theorem storeAtomic_eq (pa n : Nat) (b : List Byte) (p : PvSet) (s : State) :
    let u := unzero pa n s
    let a := u.place pa
    ∃ who, storeAtomic pa n (some b) p s = forRange (wakeLine who) (units 128 a n).1 (units 128 a n).2
      (clearPoison a n (landBytes a b (holdLines a n (u.takenHome a n p)))) := ⟨_, rfl⟩

theorem storeAtomic_kept (pa n : Nat) (b : List Byte) (p : PvSet) (s : State) : (storeAtomic pa n (some b) p s).kept = s.kept := by
  obtain ⟨who, h⟩ := storeAtomic_eq pa n b p s
  obtain ⟨-, -, htaken⟩ := takenHome_same (unzero pa n s) ((unzero pa n s).place pa) n p
  rw [h, forRange_same State.kept _ (wakeLine_kept who)]
  exact (landBytes_kept ..).trans ((holdLines_kept ..).trans (htaken.trans (unzero_kept ..)))

/-- Past the lines that leave the zero map, the write of an atomic leaves the layout. -/
theorem storeAtomic_layout (pa n : Nat) (b : List Byte) (p : PvSet) (s : State) :
    (storeAtomic pa n (some b) p s).layout = (unzero pa n s).layout := by
  obtain ⟨who, h⟩ := storeAtomic_eq pa n b p s
  rw [h, forRange_same State.layout _ (wakeLine_layout who)]
  exact (landBytes_layout ..).trans ((holdLines_layout ..).trans (takenHome_same ..).1)

theorem unzero_pkg (pa n : Nat) (s : State) : (unzero pa n s).pkg = s.pkg := by
  unfold unzero
  split
  · rfl
  · refine forRange_same State.pkg _ (fun l s => ?_) _ _ s
    dsimp only
    split <;> rfl

/-- At an address that is not redirected the bytes are written where it is. -/
theorem storeAtomic_mem {pa : Nat} {b : List Byte} (p : PvSet) {s : State} (ha : Unredirected pa s) (hb : pa % 65536 + b.length ≤ 65536) :
    (storeAtomic pa b.length (some b) p s).mem = memWriteList pa b s.mem := by
  obtain ⟨who, h⟩ := storeAtomic_eq pa b.length b p s
  rw [h, forRange_same State.mem _ (wakeLine_mem who), unzero_of_unredirected ha, place_of_unredirected ha]
  obtain ⟨hl, hm, -⟩ := takenHome_same s pa b.length p
  have hheld : Unredirected pa (holdLines pa b.length (s.takenHome pa b.length p)) := unredirected_congr ha ((holdLines_layout ..).trans hl)
  exact (landBytes_mem b hheld hb).trans (by rw [holdLines_mem, hm])

/-- The bytes that an atomic writes at an address which is not redirected, within its frame. -/
theorem bytesStored_storeAtomic {pa n : Nat} (v : Nat) (p : PvSet) {s : State} (ha : Unredirected pa s) (hn : pa % 65536 + n ≤ 65536)
    (hc : MemoryCanonical s) : BytesStored pa n v s (storeAtomic pa n (some (toLeBytes n v)) p s) := by
  have hlen : (toLeBytes n v).length = n := length_toLeBytes n v
  have hb : pa % 65536 + (toLeBytes n v).length ≤ 65536 := by rwa [hlen]
  obtain ⟨hl, hm⟩ := storePa_layout_mem p ha hb
  have hatomic := storeAtomic_mem p ha hb
  rw [hlen] at hatomic
  refine bytesStored_congr (bytesStored_storePa v p ha hn hc) (homeByte_congr ?_ (hatomic.trans hm.symm))
  rw [storeAtomic_layout, unzero_of_unredirected ha, hl]

/-! ### Numbers at their home -/

theorem homeNum_congr {s t : State} {pa n : Nat} (h : ∀ k < n, t.homeByte (pa + k) = s.homeByte (pa + k)) : t.homeNum pa n = s.homeNum pa n := by
  induction n generalizing pa with
  | zero => rfl
  | succ n ih =>
    rw [State.homeNum, State.homeNum, ih fun k hk => by rw [show pa + 1 + k = pa + (k + 1) by omega]; exact h _ (by omega)]
    rw [show t.homeByte pa = s.homeByte pa from h 0 n.succ_pos]

theorem homeNum_retire (s : State) (pa n : Nat) : (retire s).homeNum pa n = s.homeNum pa n := homeNum_congr fun _ _ => rfl

theorem homeNum_of_bytes {t : State} {pa n v : Nat} (h : ∀ k < n, t.homeByte (pa + k) = BitVec.ofNat 8 (v / 256 ^ k)) :
    t.homeNum pa n = v % 256 ^ n := by
  induction n generalizing pa v with
  | zero => rw [Nat.pow_zero, Nat.mod_one]; rfl
  | succ n ih =>
    have hfirst : t.homeByte pa = BitVec.ofNat 8 v := by simpa using h 0 n.succ_pos
    have hrest : t.homeNum (pa + 1) n = v / 256 % 256 ^ n := ih fun k hk => by
      rw [show pa + 1 + k = pa + (k + 1) by omega, h _ (by omega), Nat.pow_succ', Nat.div_div_eq_div_mul]
    rw [State.homeNum, hfirst, hrest, Nat.pow_succ', Nat.mod_mul, BitVec.toNat_ofNat]

theorem homeNum_lt (s : State) (pa n : Nat) : s.homeNum pa n < 256 ^ n := by
  induction n generalizing pa with
  | zero => exact Nat.one_pos
  | succ n ih =>
    have hb : (s.homeByte pa).toNat < 256 := (s.homeByte pa).isLt
    have hn := ih (pa + 1)
    rw [State.homeNum, Nat.pow_succ]
    omega

/-! ### One element -/

theorem perform_kept (q : VReq) (e : VElem) (s : State) : (e.perform q s).kept = s.kept := by
  unfold VElem.perform
  split
  · exact storeAtomic_kept ..
  · rfl

theorem perform_pkg (q : VReq) (e : VElem) (s : State) : (e.perform q s).pkg = s.pkg := by
  unfold VElem.perform
  split
  · exact (congrArg Prod.fst (storeAtomic_layout ..)).trans (unzero_pkg ..)
  · rfl

/-- Whether an element lies outside the package is a matter of the package alone. -/
theorem isRemote_congr {s t : State} (h : t.pkg = s.pkg) (a : Nat) : t.isRemote a = s.isRemote a := by
  unfold State.isRemote State.inHost State.inPeer
  rw [h]

/-- An operation of a vector atomic, on numbers of its width. -/
def Operates (op w : Nat) (g : Nat → Nat → Nat) : Prop :=
  ∀ old < 2 ^ w, ∀ b < 2 ^ w, amoNew op w old b 0 = some (g old b % 2 ^ w)

/-- An address is aligned to the `n` bytes at it, which a frame holds whole, and not redirected. -/
def PlainAt (n pa : Nat) (s : State) : Prop := 65536 % n = 0 ∧ pa % n = 0 ∧ Unredirected pa s

theorem plainAt_congr {n pa : Nat} {s t : State} (h : PlainAt n pa s) (hl : t.layout = s.layout) : PlainAt n pa t :=
  ⟨h.1, h.2.1, unredirected_congr h.2.2 hl⟩

/-- Aligned addresses that differ are apart. -/
theorem aligned_apart {n a b : Nat} (ha : a % n = 0) (hb : b % n = 0) (h : a ≠ b) : a + n ≤ b ∨ b + n ≤ a := by
  obtain ⟨x, rfl⟩ := Nat.dvd_of_mod_eq_zero ha
  obtain ⟨y, rfl⟩ := Nat.dvd_of_mod_eq_zero hb
  have hxy : x ≠ y := fun e => h (by rw [e])
  rcases element_apart (w := n) hxy with h | h
  · exact .inl (by rwa [Nat.mul_comm n x, Nat.mul_comm n y])
  · exact .inr (by rwa [Nat.mul_comm n x, Nat.mul_comm n y])

/-- Elements performed one after another: each location has the old value combined with their operands in turn, and every byte outside
the locations is as before. -/
structure Combined (g : Nat → Nat → Nat) (n : Nat) (l : List VElem) (s t : State) : Prop where
  layout : t.layout = s.layout
  canonical : MemoryCanonical t
  nums : ∀ pa, PlainAt n pa s → t.homeNum pa n =
    (l.filter fun e => e.pa == pa).foldl (fun old e => g old e.val.toNat % 256 ^ n) (s.homeNum pa n)
  outside : ∀ a, (∀ e ∈ l, s.place a < e.pa ∨ e.pa + n ≤ s.place a) → t.homeByte a = s.homeByte a

theorem perform_combined {q : VReq} {g : Nat → Nat → Nat} {e : VElem} {s : State} (hop : Operates q.op (8 * q.n) g)
    (hv : e.val.toNat < 2 ^ (8 * q.n)) (he : PlainAt q.n e.pa s) (hc : MemoryCanonical s) : Combined g q.n [e] s (e.perform q s) := by
  obtain ⟨hdiv, halign, hun⟩ := he
  have hwithin := run_within hdiv halign
  have hpow : 256 ^ q.n = 2 ^ (8 * q.n) := by rw [Nat.pow_mul]
  have hlt := homeNum_lt s e.pa q.n
  rw [hpow] at hlt
  have heq : e.perform q s = storeAtomic e.pa q.n (some (toLeBytes q.n (g (s.homeNum e.pa q.n) e.val.toNat % 2 ^ (8 * q.n)))) q.pv s := by
    rw [VElem.perform, hop _ hlt _ hv]
  have hbytes := bytesStored_storeAtomic (g (s.homeNum e.pa q.n) e.val.toNat % 2 ^ (8 * q.n)) q.pv hun hwithin hc
  rw [heq]
  refine ⟨by rw [storeAtomic_layout, unzero_of_unredirected hun], storeAtomic_memWf _ _ _ _ _ hc, fun pa hpa => ?_,
    fun a ha => hbytes.outside a (by rw [place_of_unredirected hun]; exact ha e List.mem_cons_self)⟩
  by_cases h : e.pa = pa
  · subst h
    rw [List.filter_cons_of_pos (by simp), homeNum_of_bytes hbytes.stored, hpow, Nat.mod_mod]
    rfl
  · obtain ⟨-, hpa, hunpa⟩ := hpa
    rw [List.filter_cons_of_neg (by simpa using h)]
    have hframe := run_within hdiv hpa
    refine homeNum_congr fun k hk => hbytes.outside _ ?_
    rw [place_of_unredirected hun, place_of_unredirected (unredirected_of_frame hunpa (by omega))]
    have := aligned_apart halign hpa h
    omega

theorem foldl_combined {q : VReq} {g : Nat → Nat → Nat} {l : List VElem} {s : State} (hop : Operates q.op (8 * q.n) g)
    (hl : ∀ e ∈ l, e.val.toNat < 2 ^ (8 * q.n) ∧ PlainAt q.n e.pa s) (hc : MemoryCanonical s) :
    Combined g q.n l s (l.foldl (fun s e => e.perform q s) s) := by
  induction l generalizing s with
  | nil => exact ⟨rfl, hc, fun _ _ => rfl, fun _ _ => rfl⟩
  | cons e l ih =>
    obtain ⟨hv, he⟩ := hl e List.mem_cons_self
    have hone := perform_combined hop hv he hc
    have hrest := ih (s := e.perform q s) (fun x hx =>
      let ⟨hv, hx⟩ := hl x (List.mem_cons_of_mem _ hx)
      ⟨hv, plainAt_congr hx hone.layout⟩) hone.canonical
    refine ⟨hrest.layout.trans hone.layout, hrest.canonical, fun pa hpa => ?_, fun a ha => ?_⟩
    · rw [List.foldl_cons, hrest.nums pa (plainAt_congr hpa hone.layout), hone.nums pa hpa, ← List.foldl_append, ← List.filter_append]
      rfl
    · rw [List.foldl_cons, hrest.outside a fun x hx => by rw [place_congr hone.layout]; exact ha x (List.mem_cons_of_mem _ hx)]
      exact hone.outside a fun x hx => ha x (by rw [List.mem_singleton.mp hx]; exact List.mem_cons_self)

end Sys2Proof.Machine
end

section
/-! SUPPORT. Vector atomics: on own memory, with requests outside the package, and as their requests end (R210, R358, R477, R478). -/

namespace Sys2Proof.Machine

open Sys2Proof.Safety

/-! ### The forms and their operations -/

/-- The ordered or unordered form of the operation of number `k`. -/
def vamoForm (f : VMFmt) (o : Bool) (k : Nat) : Instr :=
  ((if o then [Instr.vamooadd f, .vamooand f, .vamooor f, .vamooxor f, .vamoomin f, .vamoomax f, .vamoominu f, .vamoomaxu f, .vamooswap f]
    else [Instr.vamoadd f, .vamoand f, .vamoor f, .vamoxor f, .vamomin f, .vamomax f, .vamominu f, .vamomaxu f, .vamoswap f])[k]?).getD .nop

/-- Each form is the one vector atomic, under the SAMO number of its operation. -/
theorem exec_vamoForm (f : VMFmt) (o : Bool) {k : Nat} (hk : k < 9) (s : State) :
    exec (vamoForm f o k) s = .next (vamo (vamoForm f o k) f (k + 1) o s) := by
  interval_cases k <;> cases o <;> rfl

section

variable (w : Nat)

theorem operates_add : Operates 1 w fun x y => x + y := fun old _ b hb => by rw [amoNew, Nat.mod_eq_of_lt hb]
theorem operates_and : Operates 2 w fun x y => x &&& y := fun old _ b hb => by
  rw [amoNew, Nat.mod_eq_of_lt hb, Nat.mod_eq_of_lt (Nat.and_lt_two_pow old hb)]
theorem operates_or : Operates 3 w fun x y => x ||| y := fun old ho b hb => by
  rw [amoNew, Nat.mod_eq_of_lt hb, Nat.mod_eq_of_lt (Nat.or_lt_two_pow ho hb)]
theorem operates_xor : Operates 4 w fun x y => x ^^^ y := fun old ho b hb => by
  rw [amoNew, Nat.mod_eq_of_lt hb, Nat.mod_eq_of_lt (Nat.xor_lt_two_pow ho hb)]
theorem operates_minSigned : Operates 5 w fun x y => if sint w y < sint w x then y else x := fun old ho b hb => by
  have hlt : (if sint w b < sint w old then b else old) < 2 ^ w := by split <;> assumption
  rw [amoNew, Nat.mod_eq_of_lt hb, Nat.mod_eq_of_lt hlt]
theorem operates_maxSigned : Operates 6 w fun x y => if sint w x < sint w y then y else x := fun old ho b hb => by
  have hlt : (if sint w old < sint w b then b else old) < 2 ^ w := by split <;> assumption
  rw [amoNew, Nat.mod_eq_of_lt hb, Nat.mod_eq_of_lt hlt]
theorem operates_min : Operates 7 w min := fun old ho b hb => by
  have hmin : (if b < old then b else old) = min old b := by split <;> omega
  rw [amoNew, Nat.mod_eq_of_lt hb, hmin, Nat.mod_eq_of_lt (min_lt_of_left_lt ho)]
theorem operates_max : Operates 8 w max := fun old ho b hb => by
  have hmax : (if old < b then b else old) = max old b := by split <;> omega
  rw [amoNew, Nat.mod_eq_of_lt hb, hmax, Nat.mod_eq_of_lt (max_lt ho hb)]
theorem operates_swap : Operates 9 w fun _ y => y := fun _ _ _ _ => rfl

end

/-! ### The elements -/

/-- An element of a vector atomic, from a run and the image of the operands. -/
def PRun.elem (img w : Nat) (r : PRun) : VElem := ⟨r.info, r.pa, BitVec.ofNat 64 (bitsAt img (r.ix * w) w)⟩

theorem elem_val {w : Nat} (hw : w ≤ 64) (img : Nat) (r : PRun) : (r.elem img w).val.toNat = bitsAt img (r.ix * w) w := by
  rw [PRun.elem, BitVec.toNat_ofNat]
  exact Nat.mod_eq_of_lt ((bitsAt_lt ..).trans_le (Nat.pow_le_pow_right (by decide) hw))

/-- The numbers at the locations, told of the runs. -/
theorem nums_of_combined {g : Nat → Nat → Nat} {img w n pa : Nat} {l : List PRun} {s t : State} (hw : w ≤ 64) (hn : 8 * n = w)
    (h : Combined g n (l.map (PRun.elem img w)) s t) (hpa : PlainAt n pa s) : t.homeNum pa n =
      (l.filter fun x => x.pa == pa).foldl (fun old x => g old (bitsAt img (x.ix * w) w) % 2 ^ w) (s.homeNum pa n) := by
  have hnum := h.nums pa hpa
  rw [show 256 = 2 ^ 8 from rfl, ← Nat.pow_mul, hn, List.filter_map, List.foldl_map] at hnum
  simp only [elem_val hw] at hnum
  exact hnum

theorem performAll_kept (q : VReq) (l : List VElem) (s : State) : (l.foldl (fun s e => e.perform q s) s).kept = s.kept :=
  foldl_kept _ (fun s e => perform_kept q e s) l s

/-- A hart without requests stays as it is when they are cleared. -/
theorem clearRequests_eq {s : State} (h : s.hart.vreq = none) : (s.mapHart fun h => { h with vreq := none }) = s := by
  rw [State.mapHart, ← h]

/-- On own memory an ordered atomic performs every element in order, and completes. -/
theorem runElems_own {q : VReq} {l : List VElem} {s : State} (hl : ∀ e ∈ l, s.isRemote e.pa = false) :
    runElems q l s = retire ((l.foldl (fun s e => e.perform q s) s).mapHart fun h => { h with vreq := none }) := by
  induction l generalizing s with
  | nil => rfl
  | cons e l ih =>
    rw [runElems, if_neg (by rw [hl e List.mem_cons_self]; exact Bool.false_ne_true)]
    exact ih fun x hx => (isRemote_congr (perform_pkg q e s) _).trans (hl x (List.mem_cons_of_mem _ hx))

/-- On own memory an unordered atomic performs every element, and completes. -/
theorem sendElems_own {q : VReq} {l : List VElem} {s : State} (hl : ∀ e ∈ l, s.isRemote e.pa = false) :
    sendElems q l s = retire (l.foldl (fun s e => e.perform q s) s) := by
  have hfar : (l.filter fun e => s.isRemote e.pa) = [] :=
    List.filter_eq_nil_iff.mpr fun e he => by rw [hl e he]; exact Bool.false_ne_true
  simp only [sendElems, hfar, List.isEmpty_nil, if_true]

/-- The hart waits at the instruction for the answers to its requests, which are those for the addresses; the atomic counts all its
elements. -/
structure Requested (total : Nat) (addrs : List Nat) (s t : State) : Prop where
  status : t.hart.status = .waiting .remote
  pc : t.hart.pc = s.hart.pc
  request : ∃ q, t.hart.vreq = some q ∧ q.total = total ∧ q.out.map (fun x => x.r.addr) = addrs

theorem requested_congr {total : Nat} {addrs : List Nat} {s t u : State} (h : Requested total addrs t u) (hp : t.hart.pc = s.hart.pc) :
    Requested total addrs s u := ⟨h.status, h.pc.trans hp, h.request⟩

theorem pc_of_kept {s t : State} (h : t.kept = s.kept) : t.hart.pc = s.hart.pc :=
  let ⟨_, _, _, hpc, _⟩ := hartFields_of_kept h
  hpc

theorem send_kept (e : VElem) (q : VReq) (s : State) : (e.send q s).kept = s.kept := by
  unfold VElem.send sendPacket
  split <;> rfl

/-- An ordered atomic goes as far as its first element outside the package. -/
theorem runElems_far {q : VReq} {l : List VElem} {s : State} (hl : (l.filter fun e => s.isRemote e.pa) ≠ []) :
    Requested q.total (((l.filter fun e => s.isRemote e.pa).map VElem.pa).take 1) s (runElems q l s) := by
  induction l generalizing s with
  | nil => exact absurd rfl hl
  | cons e l ih =>
    rw [runElems]
    cases he : s.isRemote e.pa
    · rw [List.filter_cons_of_neg (by simp [he])] at hl ⊢
      have hsame : (fun x : VElem => (e.perform q s).isRemote x.pa) = fun x => s.isRemote x.pa :=
        funext fun x => isRemote_congr (perform_pkg q e s) x.pa
      have hrest := ih (s := e.perform q s) (by rwa [hsame])
      rw [hsame] at hrest
      exact requested_congr hrest (pc_of_kept (perform_kept q e s))
    · rw [List.filter_cons_of_pos (by simp [he]), if_pos rfl]
      have hpc := pc_of_kept (send_kept e q s)
      exact ⟨rfl, hpc, _, rfl, rfl, rfl⟩

/-- An unordered atomic sends the requests of all its elements outside the package. -/
theorem sendElems_far {q : VReq} {l : List VElem} {s : State} (hl : (l.filter fun e => s.isRemote e.pa) ≠ []) :
    Requested q.total ((l.filter fun e => s.isRemote e.pa).map VElem.pa) s (sendElems q l s) := by
  rw [sendElems, if_neg (by simpa using hl)]
  have hpc (far : List VElem) (near : List (VElem × Nat)) := pc_of_kept
    ((foldl_kept _ (fun s e => send_kept e q s) far (near.foldl (fun s x => x.1.perform q s) s.nextFree.2)).trans
      (foldl_kept _ (fun s x => perform_kept q x.1 s) near s.nextFree.2))
  exact ⟨rfl, hpc _ _, _, rfl, rfl, by rw [List.map_map]; rfl⟩

/-! ### From the instruction to its elements -/

section

variable {f : VMFmt} {s u : State} {l : List PRun}

/-- The data set of a vector atomic. -/
def atomicPv (f : VMFmt) (b : State) : PvSet := b.pvOf f.vd ||| b.pvOf f.sb ||| (b.govern f.gm).2 ||| b.vlPv ||| b.ctx

/-- A vector atomic may act: its tags are legal, its addresses aligned, translated and within their ceilings, and it has sent nothing. -/
structure AtomicReady (f : VMFmt) (s u : State) (l : List PRun) : Prop where
  data : GroupReady f.vd s
  index : GroupReady f.sb s
  type : 5 ≤ (s.tagOf f.vd).code ∧ (s.tagOf f.vd).code ≤ 8
  indexType : isInt (s.tagOf f.sb).code = true
  gate : f.aqrl = true → GateOpen s
  aligned : (s.indexShape f).bad (activeOf (s.govern f.gm).1 s.vl) = none
  runs : translateRuns (s.indexShape f).via .write 4 true ((s.indexShape f).runs (activeOf (s.govern f.gm).1 s.vl)) s = .ok (l, u)
  idle : s.hart.vreq = none
  acts : u.dry = false
  allowed : checkRuns (atomicPv f (u.addCtx (s.indexShape f).flow)) 4 (u.addCtx (s.indexShape f).flow) l = none

/-- A vector atomic that may act comes to its runs. -/
theorem vamo_eq_amoRuns {i : Instr} {op : Nat} {o : Bool} (h : AtomicReady f s u l)
    (hhost : (∃ r ∈ l, u.inHost r.pa = true) → hostAmo op = true) :
    vamo i f op o s = amoRuns i f op o l (atomicPv f (u.addCtx (s.indexShape f).flow)) (u.addCtx (s.indexShape f).flow) := by
  have hok : (decide (5 ≤ (s.tagOf f.vd).code) && decide ((s.tagOf f.vd).code ≤ 8) && isInt (s.tagOf f.sb).code) = true := by
    simp only [h.type, h.indexType, decide_true, Bool.and_self]
  have hallowed : ¬ (l.any (fun r => (u.addCtx (s.indexShape f).flow).inHost r.pa) && !hostAmo op) = true := by
    rw [Bool.and_eq_true, List.any_eq_true, Bool.not_eq_true']
    exact fun ⟨hany, hno⟩ => Bool.false_ne_true (hno.symm.trans (hhost hany))
  have hcheck := h.allowed
  rw [atomicPv] at hcheck
  rw [vamo, h.idle]
  rw [watchGateIf_open _ h.gate, memChecks_eq _ (tagReason_reads [f.vd, f.sb] _ rfl (by simpa using ⟨h.data, h.index⟩) hok) rfl,
    memForm_eq h.aligned h.runs]
  dsimp only
  rw [if_neg hallowed, hcheck]
  rfl

/-- The current sets of the pages of a list of runs grow, and nothing that access keeps, nor where bytes lie, nor memory. -/
theorem growRuns_same (l : List PRun) (p : PvSet) (s : State) :
    let t := l.foldl (fun t r => growCur r.pa p t) s
    t.layout = s.layout ∧ t.mem = s.mem ∧ t.kept = s.kept :=
  ⟨foldl_layout (fun (t : State) (r : PRun) => growCur r.pa p t) (fun t r => growCur_layout r.pa p t) l s,
    foldl_mem (fun (t : State) (r : PRun) => growCur r.pa p t) (fun t r => growCur_mem r.pa p t) l s,
    foldl_kept (fun (t : State) (r : PRun) => growCur r.pa p t) (fun t r => growCur_kept r.pa p t) l s⟩

/-- The state in which the elements act, and the elements: the pages' sets have grown, and a release has had its effect. -/
theorem amoRuns_elems {i : Instr} {op : Nat} {o : Bool} {p : PvSet} {b : State} (hdry : b.dry = false) :
    ∃ (ql : List PRun) (q : VReq) (t : State), ql.Perm l ∧ (o = true → ql = l) ∧ q.op = op ∧ q.n = (b.tagOf f.vd).width / 8 ∧ q.total = l.length ∧
      t.layout = b.layout ∧ t.mem = b.mem ∧ t.kept = b.kept ∧
      amoRuns i f op o l p b =
        if o then runElems q (ql.map (PRun.elem (b.imgOf f.vd) (b.tagOf f.vd).width)) t
        else sendElems q (ql.map (PRun.elem (b.imgOf f.vd) (b.tagOf f.vd).width)) t := by
  have hfree : ∀ x : Nat × State, x = (if o || !meets l then (0, b) else b.nextFree) →
      x.2.layout = b.layout ∧ x.2.mem = b.mem ∧ x.2.kept = b.kept := by
    rintro x rfl
    split <;> exact ⟨rfl, rfl, rfl⟩
  unfold amoRuns
  rw [if_neg (by rw [hdry]; exact Bool.false_ne_true)]
  dsimp only
  generalize (if o || !meets l then (0, b) else b.nextFree) = x at hfree
  obtain ⟨hl, hm, hk⟩ := hfree x rfl
  obtain ⟨hl', hm', hk'⟩ := growRuns_same l p x.2
  obtain ⟨hl'', hm'', hk''⟩ := released_same f l (l.foldl (fun t r => growCur r.pa p t) x.2)
  have hperm := orderRuns_perm o x.1 l
  refine ⟨orderRuns o x.1 l, ⟨_, op, _, p, _, [], []⟩, released f l (l.foldl (fun t r => growCur r.pa p t) x.2), hperm,
    fun ho => ho ▸ orderRuns_ordered x.1 l, rfl, rfl, ?_, hl''.trans (hl'.trans hl), hm''.trans (hm'.trans hm), hk''.trans (hk'.trans hk), rfl⟩
  rw [List.length_map]
  exact hperm.length_eq

section

variable (h : AtomicReady f s u l)

include h

/-- The width of an atomic's elements is of whole bytes, and its runs are whole elements. -/
theorem atomic_widths : (s.tagOf f.vd).width ≤ 64 ∧ 8 * ((s.tagOf f.vd).width / 8) = (s.tagOf f.vd).width ∧
    ∀ r ∈ l, r.n = (s.tagOf f.vd).width / 8 := by
  have hw : (s.tagOf f.vd).width = 32 ∨ (s.tagOf f.vd).width = 64 := by
    obtain ⟨h5, h8⟩ := h.type
    obtain e | e | e | e : (s.tagOf f.vd).code = 5 ∨ (s.tagOf f.vd).code = 6 ∨ (s.tagOf f.vd).code = 7 ∨ (s.tagOf f.vd).code = 8 := by omega
    · exact .inl (congrArg typeWidth e)
    · exact .inl (congrArg typeWidth e)
    · exact .inr (congrArg typeWidth e)
    · exact .inr (congrArg typeWidth e)
  have hbytes : 8 * ((s.tagOf f.vd).width / 8) = (s.tagOf f.vd).width := by omega
  refine ⟨by omega, hbytes, fun r hr => ?_⟩
  have hfills := ((elemRuns_translated h.runs hbytes).2 r hr).2
  omega

/-- The state that translation leaves has what access keeps, no requests, and the tag of the operands. -/
theorem atomic_kept : let b := u.addCtx (s.indexShape f).flow
    b.hart.pc = s.hart.pc ∧ b.hart.vreq = none ∧ b.tagOf f.vd = s.tagOf f.vd := by
  have hkept := addCtx_kept (translateRuns_kept h.runs) (s.indexShape f).flow
  exact ⟨pc_of_kept (s := s.addCtx _) hkept, (congrArg (fun k : Kept => k.hart.vreq) hkept).trans h.idle, tagOf_congr (vector_of_kept hkept) f.vd⟩

/-- On own memory a form of either kind performs its elements one after another, and completes. -/
theorem exec_vamo_own {o : Bool} {k : Nat} (hk : k < 9) (hown : ∀ r ∈ l, u.isRemote r.pa = false) :
    let w := (s.tagOf f.vd).width
    let b := u.addCtx (s.indexShape f).flow
    ∃ (ql : List PRun) (q : VReq) (t : State), ql.Perm l ∧ (o = true → ql = l) ∧ q.op = k + 1 ∧ q.n = w / 8 ∧
      t.layout = b.layout ∧ t.mem = b.mem ∧ t.kept = b.kept ∧
      exec (vamoForm f o k) s = .next (retire ((ql.map (PRun.elem (b.imgOf f.vd) w)).foldl (fun s e => e.perform q s) t)) := by
  intro w b
  obtain ⟨-, hidle, htag⟩ := atomic_kept h
  have hhost : (∃ r ∈ l, u.inHost r.pa = true) → hostAmo (k + 1) = true := fun ⟨r, hr, hin⟩ =>
    absurd (hown r hr) (by rw [State.isRemote, hin]; exact Bool.noConfusion)
  obtain ⟨ql, q, t, hperm, hord, hop, hn, -, hlay, hmem, hkept, heq⟩ :=
    amoRuns_elems (i := vamoForm f o k) (op := k + 1) (o := o) (p := atomicPv f b) (f := f) (l := l) (b := b) h.acts
  rw [htag] at hn heq
  refine ⟨ql, q, t, hperm, hord, hop, hn, hlay, hmem, hkept, ?_⟩
  have hnear : ∀ e ∈ ql.map (PRun.elem (b.imgOf f.vd) w), t.isRemote e.pa = false := fun e he => by
    obtain ⟨r, hr, rfl⟩ := List.mem_map.mp he
    exact (isRemote_congr (congrArg Prod.fst hlay) _).trans (hown r (hperm.subset hr))
  rw [exec_vamoForm f o hk, vamo_eq_amoRuns h hhost, heq]
  cases o
  · exact congrArg Host.Outcome.next (sendElems_own hnear)
  · have hdone := (performAll_kept q (ql.map (PRun.elem (b.imgOf f.vd) w)) t).trans hkept
    rw [if_pos rfl, runElems_own hnear, clearRequests_eq ((congrArg (fun k : Kept => k.hart.vreq) hdone).trans hidle)]

/-- On own memory, each location has the old value combined with the elements that address it, in the order in which they act. -/
theorem completes_vamo_own {o : Bool} {k : Nat} {g : Nat → Nat → Nat} (hk : k < 9) (hop : Operates (k + 1) (s.tagOf f.vd).width g)
    (hown : ∀ r ∈ l, u.isRemote r.pa = false) :
    let w := (s.tagOf f.vd).width
    let n := w / 8
    let b := u.addCtx (s.indexShape f).flow
    MemoryCanonical b → PlainRuns l b → Completes (vamoForm f o k) s (fun t => MemoryStep b t ∧
      ∃ q : List PRun, q.Perm l ∧ (o = true → q = l) ∧
        (∀ r ∈ l, t.homeNum r.pa n =
          (q.filter fun x => x.pa == r.pa).foldl (fun old x => g old (bitsAt (b.imgOf f.vd) (x.ix * w) w) % 2 ^ w) (b.homeNum r.pa n)) ∧
        (∀ a, (∀ r ∈ l, b.place a < r.pa ∨ r.pa + n ≤ b.place a) → t.homeByte a = b.homeByte a)) := by
  intro w n b hc hl
  obtain ⟨hw64, hbytes, hruns⟩ := atomic_widths h
  have hval := elem_val (w := w) hw64
  obtain ⟨ql, q, t, hperm, hord, hqop, hqn, hlay, hmem, hkept, hfinal⟩ := exec_vamo_own h (o := o) hk hown
  have hplain (r : PRun) (hr : r ∈ l) : PlainAt q.n r.pa t := by
    obtain ⟨-, -, hdiv, halign, hun⟩ := hl r hr
    rw [hruns r hr, ← hqn] at hdiv halign
    exact ⟨hdiv, halign, unredirected_congr hun hlay⟩
  have hcomb := foldl_combined (q := q) (g := g) (l := ql.map (PRun.elem (b.imgOf f.vd) w)) (s := t) (by rwa [hqop, hqn, hbytes]) (fun e he => by
    obtain ⟨r, hr, rfl⟩ := List.mem_map.mp he
    exact ⟨by rw [hval, hqn, hbytes]; exact bitsAt_lt .., hplain r (hperm.subset hr)⟩) (by rwa [MemoryCanonical, hmem])
  refine ⟨_, hfinal, memoryStep_retire ((performAll_kept ..).trans hkept), ql, hperm, hord, fun r hr => ?_, fun a ha => ?_⟩
  · have hbefore : t.homeNum r.pa n = b.homeNum r.pa n := homeNum_congr fun k _ => homeByte_congr hlay hmem (r.pa + k)
    rw [hqn] at hcomb hplain
    rw [homeNum_retire, ← hbefore]
    exact nums_of_combined hw64 hbytes hcomb (hplain r hr)
  · refine (hcomb.outside a fun e he => ?_).trans (homeByte_congr hlay hmem a)
    obtain ⟨r, hr, rfl⟩ := List.mem_map.mp he
    rw [place_congr hlay, hqn]
    exact ha r (hperm.subset hr)

/-- With elements outside the package, the requests leave and the hart waits. -/
theorem completes_vamo_far {o : Bool} {k : Nat} (hk : k < 9) (hhost : (∃ r ∈ l, u.inHost r.pa = true) → k = 0 ∨ k = 8) :
    let far := (l.filter fun r => u.isRemote r.pa).map PRun.pa
    far ≠ [] → Completes (vamoForm f o k) s (fun t => t.hart.status = .waiting .remote ∧ t.hart.pc = s.hart.pc ∧ ∃ q, t.hart.vreq = some q ∧
      q.total = l.length ∧ (o = false → (q.out.map fun x => x.r.addr).Perm far) ∧ (o = true → (q.out.map fun x => x.r.addr) = far.take 1)) := by
  intro far hfar
  have hhost' : (∃ r ∈ l, u.inHost r.pa = true) → hostAmo (k + 1) = true := fun hin => by
    rcases hhost hin with rfl | rfl <;> rfl
  obtain ⟨ql, q, t, hperm, hord, -, -, htotal, hlay, -, hkept, heq⟩ := amoRuns_elems (i := vamoForm f o k) (op := k + 1) (o := o)
    (p := atomicPv f (u.addCtx (s.indexShape f).flow)) (f := f) (l := l) (b := u.addCtx (s.indexShape f).flow) h.acts
  set es := ql.map (PRun.elem ((u.addCtx (s.indexShape f).flow).imgOf f.vd) ((u.addCtx (s.indexShape f).flow).tagOf f.vd).width)
  have hpc : t.hart.pc = s.hart.pc := (pc_of_kept hkept).trans (atomic_kept h).1
  have hout : ((es.filter fun e => t.isRemote e.pa).map VElem.pa) = (ql.filter fun r => u.isRemote r.pa).map PRun.pa := by
    have hsame : (fun e : VElem => t.isRemote e.pa) = fun e => u.isRemote e.pa :=
      funext fun e => isRemote_congr (congrArg Prod.fst hlay) e.pa
    rw [hsame, List.filter_map, List.map_map]
    rfl
  have hqfar : ((ql.filter fun r => u.isRemote r.pa).map PRun.pa).Perm far := (hperm.filter _).map _
  have hne : (es.filter fun e => t.isRemote e.pa) ≠ [] := fun e => by
    rw [e, List.map_nil] at hout
    exact hfar (hout ▸ hqfar).nil_eq.symm
  refine ⟨_, (exec_vamoForm f o hk s).trans (congrArg _ ((vamo_eq_amoRuns h hhost').trans heq)), ?_⟩
  cases o
  · obtain ⟨hstatus, hpc', q', hq, htotal', haddr⟩ := requested_congr (sendElems_far (q := q) hne) hpc
    exact ⟨hstatus, hpc', q', hq, htotal'.trans htotal, fun _ => by rw [haddr, hout]; exact hqfar, fun e => absurd e Bool.false_ne_true⟩
  · obtain ⟨hstatus, hpc', q', hq, htotal', haddr⟩ := requested_congr (runElems_far (q := q) hne) hpc
    exact ⟨hstatus, hpc', q', hq, htotal'.trans htotal, fun e => absurd e.symm Bool.false_ne_true, fun _ => by rw [haddr, hout, hord rfl]⟩

end

end

/-! ### How the requests end (R210, R478) -/

section

variable {q : VReq} {o : Bool} {s : State}

/-- With no request refused and one unanswered, the hart waits on. -/
theorem moreElems_waits (hnone : ∀ x ∈ q.out, x.r.failed = none) (hopen : ∃ x ∈ q.out, x.r.answer = none) :
    moreElems q o s = waitFor .remote s := by
  have hfind : (q.out.find? fun x => x.r.failed.isSome) = none :=
    List.find?_eq_none.mpr fun x hx => by rw [hnone x hx]; exact Bool.false_ne_true
  have hany : (q.out.any fun x => x.r.open_) = true := by
    obtain ⟨x, hx, ha⟩ := hopen
    exact List.any_eq_true.mpr ⟨x, hx, by rw [Remote.open_, ha, hnone x hx]; rfl⟩
  rw [moreElems, hfind]
  exact if_pos hany

/-- With every request answered and nothing left to do, the form completes. -/
theorem moreElems_done (hall : ∀ x ∈ q.out, x.r.failed = none ∧ x.r.answer ≠ none) (htodo : q.todo = []) :
    moreElems q o s = retire (s.mapHart fun h => { h with vreq := none }) := by
  have hfind : (q.out.find? fun x => x.r.failed.isSome) = none :=
    List.find?_eq_none.mpr fun x hx => by rw [(hall x hx).1]; exact Bool.false_ne_true
  have hany : ¬ (q.out.any fun x => x.r.open_) = true := by
    rw [List.any_eq_true]
    rintro ⟨x, hx, ho⟩
    rw [Remote.open_, Bool.and_eq_true] at ho
    exact (hall x hx).2 (Option.isNone_iff_eq_none.mp ho.1)
  rw [moreElems, hfind]
  dsimp only
  rw [if_neg hany, htodo]
  cases o <;> rfl

/-- The first request refused raises the data-error trap, once every other is refused or answered. -/
theorem moreElems_refused {l l' : List Flight} {x : Flight} {e : Nat} (hout : q.out = l ++ x :: l') (hx : x.r.failed = some e)
    (hl : ∀ y ∈ l, y.r.failed = none) (hall : ∀ y ∈ q.out, y.r.failed ≠ none ∨ y.r.answer ≠ none) :
    moreElems q o s = vtrap ⟨20, x.info, e, 4⟩ q.word { s with hart := { s.hart with vreq := none } } := by
  have hfind : (q.out.find? fun x => x.r.failed.isSome) = some x := by
    have hbefore : (l.find? fun x => x.r.failed.isSome) = none :=
      List.find?_eq_none.mpr fun y hy => by rw [hl y hy]; exact Bool.false_ne_true
    rw [hout, List.find?_append, hbefore, List.find?_cons_of_pos (by rw [hx]; rfl)]
    rfl
  have hopen : (q.out.filter fun x => x.r.open_) = [] := List.filter_eq_nil_iff.mpr fun y hy ho => by
    rw [Remote.open_, Bool.and_eq_true, Option.isNone_iff_eq_none, Option.isNone_iff_eq_none] at ho
    exact (hall y hy).elim (· ho.2) (· ho.1)
  rw [moreElems, hfind]
  dsimp only
  rw [hopen, hx]
  rfl

end

end Sys2Proof.Machine
end

section
open Sys2Proof Sys2Proof.Machine Sys2Proof.Safety

/-- Settles O47: on own memory by the elements one after another, outside it by the requests sent, and by how those end. -/
theorem vectorAtomics : Obligations.VectorAtomics := by
  intro f s form
  have hexec (o : Bool) {k : Nat} (hk : k < 9) : exec (form o k) s = .next (vamo (form o k) f (k + 1) o s) := exec_vamoForm f o hk s
  constructor
  · intro u l d w n sh els b lt did far hd hx h5 h8 hint hg hbad hruns hreq hdry hcheck
    have h : AtomicReady f s u l := ⟨hd, hx, ⟨h5, h8⟩, hint, hg, hbad, hruns, hreq, hdry, hcheck⟩
    refine ⟨fun hfar hc hl o => ?_, fun hfar o k hk hhost => completes_vamo_far h hk hhost hfar⟩
    have hown : ∀ r ∈ l, u.isRemote r.pa = false := fun r hr => by
      simpa using List.filter_eq_nil_iff.mp (List.map_eq_nil_iff.mp hfar) r hr
    have own {k : Nat} {g : Nat → Nat → Nat} (hk : k < 9) (hop : Operates (k + 1) w g) : did o k g := completes_vamo_own h hk hop hown hc hl
    exact ⟨own (by decide) (operates_add w), own (by decide) (operates_and w), own (by decide) (operates_or w),
      own (by decide) (operates_xor w), own (by decide) (operates_minSigned w), own (by decide) (operates_maxSigned w),
      own (by decide) (operates_min w), own (by decide) (operates_max w), own (by decide) (operates_swap w)⟩
  · intro q o hq k hk
    have hmore : exec (form o k) s = .next (moreElems q o s) := (hexec o hk).trans (by rw [vamo, hq])
    refine ⟨fun hnone hopen => hmore.trans (congrArg _ (moreElems_waits hnone hopen)), fun hall htodo => ?_, fun l l' x e hout hx hl hall =>
      hmore.trans (congrArg _ (moreElems_refused hout hx hl hall))⟩
    exact ⟨_, hmore.trans (congrArg _ (moreElems_done hall htodo)), rfl, hartOnly_of_eq rfl rfl⟩

end

section
/-! SUPPORT. A hart context is looked up by a key, of which a ninth hart of one core and the first hart of the next have the same: what that
brings into focus where the current hart is listed a second time, for a drain that stays for the reef (R292, R312). -/

namespace Sys2Proof.Machine

/-- A second context of the current hart, found under the key of another identity, stands in the current hart's place once that identity has
been acted on. -/
theorem asHart_of_shared_key {i : HartId} {h : Hart} {s : State} (other : s.hart.id ≠ i) (found : findBy Hart.key (hidKey i) s.harts = some h)
    (twin : h.id = s.hart.id) : (asHart i (fun t => t) s).hart = h := by
  have elsewhere : (s.hart.core == i.core && s.hart.ix == i.hart) = false := by
    rw [Bool.eq_false_iff]
    intro e
    rw [Bool.and_eq_true, beq_iff_eq, beq_iff_eq] at e
    exact other ((hart_id_eq_iff _ _).2 e)
  have acted : (focus i s).hart = h := by rw [focus_hart, hartAt_of_ne elsewhere, found, Option.getD_some]
  obtain ⟨core, ix⟩ := (hart_id_eq_iff _ _).1 twin
  rw [asHart, focusCore_hart, onHart, focus_hart, State.hartAt, acted, core, ix]
  simp

/-- A drain to the reef, of a hart that has not been saved, stays as it is: its hart is acted on, and nothing is done. -/
theorem runDrain_toReef {s : State} {n : Nat} {rest : List Nat} {c : AccConf} {x : MqItem} (drains : s.isl.drains = n :: rest)
    (conf : (s.isl.acc n).conf = some c) (drain : (s.isl.acc n).drain = some x) (reef : c.tgt = 2) (here : s.isSaved x.who = false) :
    runDrain s = asHart x.who (fun t => t) s := by
  have waits (t : State) : drainTo (s.isl.acc n) c x t = .wait := by simp only [drainTo, reef]
  simp [runDrain, drains, conf, drain, here, reef, waits]

/-- A word posted under the name of a ninth hart of core 0, whose key is that of hart 0 of core 1. -/
def ninthHartWord : MqItem where
  who := ⟨0, 8⟩
  at_ := 0
  word := 0
  a := 0
  b := 0
  pa := pvEmpty
  ctx := pvEmpty
  ptroot := 0
  mode := .user
  pages := []
  hdr := 0
  seq := 0

/-- A configuration that drains one step's FP32 results to the reef (R307). -/
def toReefConf : AccConf where
  int := false
  cf := 10
  sat := false
  k := 1
  tgt := 2
  reg := 0
  half := false
  addr := 0
  pitch := 0
  owner := ⟨0, 0⟩

/-- Accumulator 0 with that configuration and a pending drain, set off by that word. -/
def toReefAccum : Accum where
  num := 0
  live := true
  asid := 0
  elems := 0
  count := 1
  conf := some toReefConf
  pv := pvEmpty
  drain := some ninthHartWord
  writing := false

/-- A second context of hart 0 of core 1, at another pc than the current one. -/
def twinHart : Hart := { Hart.initial 1 0 with pc := 8 }

/-- Reset, with hart 0 of core 1 current and listed a second time, and that drain pending on core 0. -/
def twiceListed : State :=
  { State.reset with
    hart := Hart.initial 1 0
    harts := [twinHart]
    core := { Core.initial 0 with isl := { Island.empty with accs := [toReefAccum], drains := [0] } } }

/-- The drain stays, and the second context of the current hart comes to stand in its place. -/
theorem twiceListed_drain_hart : (onCore 0 runDrain twiceListed).hart = twinHart := by
  have focused : focusCore 0 twiceListed = twiceListed := by rfl
  have stays : runDrain twiceListed = asHart ninthHartWord.who (fun t => t) twiceListed :=
    runDrain_toReef (n := 0) (rest := []) (c := toReefConf) rfl rfl rfl rfl rfl
  rw [onCore, focused, focusCore_hart, stays]
  exact asHart_of_shared_key (by decide) (by rfl) rfl

end Sys2Proof.Machine
end

section
open Sys2Proof Sys2Proof.Machine Sys2Proof.Safety

/-- Refutes O57, in its clause on a drain that stays for the reef: the current hart does not remain as it was. The statement bounds the core
of the hart that set off the drain, but not its number on the core, and it does not ask that the current hart be listed once: here the drain's
word names hart 8 of core 0, whose key is that of hart 0 of core 1, the current hart; a second context of that hart stands under the key, and
the drain leaves it current. -/
theorem not_reefIslandChannelAndEngineSteps : ¬ Obligations.ReefIslandChannelAndEngineSteps := by
  unfold Obligations.ReefIslandChannelAndEngineSteps
  rintro ⟨-, island, -⟩
  obtain ⟨-, -, -, -, -, -, drains, -⟩ := island 0 twiceListed
  obtain ⟨-, toReef, -⟩ := drains 0 [] toReefConf ninthHartWord rfl rfl rfl rfl
  obtain ⟨t, step, drained⟩ := toReef rfl
  have kept : t.hart.pc = 0 := congrArg Hart.pc drained.hart
  cases step
  rw [twiceListed_drain_hart] at kept
  exact absurd kept (by decide)

end

section
/-! SUPPORT. A WMPUB to a peer's memory whose translation walks: the request leaves from the state before the walk, and the walk's marks in
the page table are not in the state that it answers (R266, R322, R477). -/

namespace Sys2Proof.Machine

open Sys2Proof.Safety

/-- WMPUB to a peer's memory sends its request from the state before the translation of its address. -/
theorem exec_wmpub_peer {f : RFmt} {s u : State} {pa : Nat} (aligned : (s.getS f.sa).toNat % 8 = 0) (idle : s.hart.remote = none)
    (gate : GateOpen s) (goes : access (s.getS f.sa) 8 .write 3 false s = .ok pa u) (own : u.inHost pa = false) (peer : u.inPeer pa = true)
    (checked : writeCheck (s.getS f.sa) pa (s.getP f.sb ||| (u.ctx ||| s.getP f.sa)) 3 u = none) :
    exec (.wmpub f) s =
      .next (sendAmo ⟨8, 8, s.getS f.sb, 0, s.getP f.sb ||| (u.ctx ||| s.getP f.sa)⟩ true (f.sc.toNat % 8) pa s) := by
  have grown : (u.addCtx (s.getP f.sa)).ctx = u.ctx ||| s.getP f.sa := rfl
  have checked' : writeCheck (s.getS f.sa) pa (s.getP f.sb ||| (u.ctx ||| s.getP f.sa)) 3 (u.addCtx (s.getP f.sa)) = none := checked
  have peer' : (u.addCtx (s.getP f.sa)).inPeer pa = true := peer
  show execWmpub f s = _
  simp [execWmpub, idle, watchGate_open _ gate, aligned, goes, own, grown, checked', peer']

/-- A publish at address s1 of the value in s2. -/
def peerPublish : RFmt := ⟨0, 1, 2, 0⟩

/-- Reset, with s1 at the second GiB, and with page tables at 0: entry 0 names the table at 0 again, and entry 1 is a leaf of 1 GiB, readable
and writable by the user, at the first frame of package 1, with A and M clear (R319-R322). -/
def unmarkedPeerPage : State :=
  { State.reset with
    hart := (Hart.initial 0 0).setS 1 0x40000000 0
    mem := [(0, 0x01), (8, 0x17), (9, 0x01), (13, 0x08)] }

theorem gateOpen_unmarkedPeerPage : GateOpen unmarkedPeerPage := ⟨rfl, rfl, rfl⟩

/-- That state past the walk of a write at the second GiB. -/
def markedPeerPage : State := touch 0x40000000 .write unmarkedPeerPage

/-- A write there goes ahead, at the first byte of package 1. -/
theorem access_unmarkedPeerPage : access 0x40000000 8 .write 3 false unmarkedPeerPage = .ok (2 ^ 43) markedPeerPage := by rfl

/-- The walk has set A and M in the leaf (R322). -/
theorem markedPeerPage_mem : markedPeerPage.mem = [(0, 0x01), (8, 0xD7), (9, 0x01), (13, 0x08)] := by decide

/-- Data with the empty set may leave, though package 1 is outside the zone (R439). -/
theorem writeCheck_markedPeerPage : writeCheck 0x40000000 (2 ^ 43) 0 3 markedPeerPage = none := by decide

end Sys2Proof.Machine
end

section
open Sys2Proof Sys2Proof.Machine Sys2Proof.Safety

/-- Refutes O50, in its clause on WMPUB to a peer: memory after it is not memory as the translation of its address leaves it. The walk sets A
and M in the leaf that names the peer's page (R322), but the model sends the request from the state before the translation, so that the marks
are lost; the scalar atomics, whose requests travel alike (R477), keep them. -/
theorem not_barriersAndWatermarks : ¬ Obligations.BarriersAndWatermarks := by
  unfold Obligations.BarriersAndWatermarks
  rintro ⟨-, watermarks⟩
  obtain ⟨-, publishes, -⟩ := watermarks peerPublish unmarkedPeerPage markedPeerPage (2 ^ 43)
  obtain ⟨-, outside⟩ := publishes (by decide) rfl gateOpen_unmarkedPeerPage access_unmarkedPeerPage
  obtain ⟨toPeer, -⟩ := outside rfl writeCheck_markedPeerPage
  obtain ⟨t, step, -, -, -, -, marked⟩ := toPeer rfl
  rw [exec_wmpub_peer (f := peerPublish) (by decide) rfl gateOpen_unmarkedPeerPage access_unmarkedPeerPage rfl rfl writeCheck_markedPeerPage] at step
  cases step
  have unmarked : [(0, 0x01), (8, 0x17), (9, 0x01), (13, 0x08)] = markedPeerPage.mem := (sendAmo_mem ..).symm.trans marked
  rw [markedPeerPage_mem] at unmarked
  exact absurd unmarked (by decide)

end

section
/-! SUPPORT. The matrix forms at commit: posting a word, claims, fills and the status word (R285, R294-R313). -/

namespace Sys2Proof.Machine

open Sys2Proof.Safety

section Posting

variable {i : Instr} {a b : Word} {p : PvSet} {pages : List (Nat × Nat)} {hdr : Nat} {s t : State}

/-! ### Posting a word (R285) -/

/-- While the matrix queue has room, a word is posted at once. -/
theorem postMatrix_posts (room : s.hart.mq.length < 64) : Posts i a b p pages hdr s (postMatrix i a b p pages hdr s) := by
  unfold postMatrix
  rw [if_neg (Nat.not_le.mpr room)]
  exact ⟨rfl, hartOnly_of_eq rfl rfl⟩

/-- A word whose names are all claimed is posted (R296, R297). -/
theorem postClaimed_posts {names : List Nat} (claimed : ∀ n ∈ names, s.claims n = true) (room : s.hart.mq.length < 64) :
    Posts i 0 0 0 [] 0 s (postClaimed i names s) := by
  unfold postClaimed
  rw [if_pos (List.all_eq_true.mpr claimed)]
  exact postMatrix_posts room

/-- A word with an unclaimed name traps with reason 2 (R297). -/
theorem postClaimed_unclaimed {names : List Nat} {n : Nat} (named : n ∈ names) (free : s.claims n = false) :
    postClaimed i names s = matrixTrap 2 s := by
  unfold postClaimed
  exact if_neg fun h => Bool.false_ne_true (free.symm.trans (List.all_eq_true.mp h n named))

/-- What is posted once the claims have changed is what would be posted before; the change stays. -/
theorem posts_of_mapIsl {g : Island → Island} (h : Posts i a b p pages hdr (s.mapIsl g) t) :
    t.isl = g s.isl ∧ t.hart.csr.ptroot = s.hart.csr.ptroot ∧ t.hart.mq = s.hart.mq ++ [posted i a b p pages hdr s] ∧ Passed s t ∧
      t.hart.s = s.hart.s ∧ t.mem = s.mem := by
  obtain ⟨hart, ⟨rest, -⟩⟩ := h
  have isl : t.isl = g s.isl := by rw [rest]; rfl
  have mem : t.mem = s.mem := by rw [rest]; rfl
  have passed : Passed s t := ⟨congrArg Hart.pc hart, congrArg (·.csr.instret) hart, congrArg Hart.status hart,
    (congrArg Hart.mode hart :), (congrArg Hart.core hart :), (congrArg Hart.ix hart :)⟩
  exact ⟨isl, congrArg (·.csr.ptroot) hart, congrArg Hart.mq hart, passed, (congrArg Hart.s hart :), mem⟩

end Posting

section Forms

variable {f : TFmt} {i : Instr} {s : State}

/-! ### Steps, drains and settings (R295, R306-R312) -/

/-- The three steps name their accumulator and both slots. -/
theorem exec_matrixStep (h : i ∈ [Instr.mma f, .mman f, .mmab f]) (allowed : Allowed i s) :
    exec i s = .next (postClaimed i [32 + f.acc.toNat, f.slotA.toNat, f.slotB.toNat] s) := by
  refine exec_of_allowed ?_ allowed
  simp only [List.mem_cons, List.not_mem_nil, or_false] at h
  obtain rfl | rfl | rfl := h <;> rfl

/-- MDRAIN and MZERO name their accumulator alone. -/
theorem exec_drainOrZero (h : i ∈ [Instr.mdrain f, .mzero f]) (allowed : Allowed i s) :
    exec i s = .next (postClaimed i [32 + f.acc.toNat] s) := by
  refine exec_of_allowed ?_ allowed
  simp only [List.mem_cons, List.not_mem_nil, or_false] at h
  obtain rfl | rfl := h <;> rfl

theorem mhdr_posts (allowed : Allowed (.mhdr f) s) (claimed : s.claims f.slotA.toNat = true) (room : s.hart.mq.length < 64) :
    Completes (.mhdr f) s (Posts (.mhdr f) (s.getS f.sa) 0 (s.getP f.sa) [] 0 s) := by
  refine ⟨_, exec_of_allowed rfl allowed, ?_⟩
  rw [claimed]
  exact postMatrix_posts room

/-- MACINIT posts its two registers, in the state in which FSUB and ctx have grown (R54, R309); only with memory as the drain's target
are they an address and a pitch, which must be aligned (R308). -/
theorem macinit_posts (allowed : Allowed (.macinit f) s) (claimed : s.claims (32 + f.acc.toNat) = true) (room : s.hart.mq.length < 64)
    (aligned : let sz := if f.imm.getLsbD 2 = true ∨ f.imm.toNat / 16 % 32 = 10 then 4 else 2
      f.imm.toNat % 4 = 1 → (s.getS f.sa).toNat % sz = 0 ∧ (s.getS f.sb).toNat % sz = 0) :
    Completes (.macinit f) s (Posts (.macinit f) (s.getS f.sa) (s.getS f.sb) 0 [] 0
      ((setFsub (isFp6 (f.imm.toNat / 16 % 32)) s).addCtx (s.getP f.sa ||| s.getP f.sb))) := by
  refine ⟨_, exec_of_allowed rfl allowed, ?_⟩
  dsimp only
  rw [claimed, if_neg (by simp), if_neg (by simpa [-Nat.mod_two_not_eq_zero] using aligned), if_neg (Nat.not_le.mpr room), setFsub_eq]
  exact postMatrix_posts room

/-! ### Fills (R301-R305) -/

/-- A fill whose pages are translated is posted in the state that translation leaves, with FSUB and ctx grown. -/
theorem postFill_posts {parts : List (Word × Nat)} {l : List (Nat × Nat)} {fsub header : Bool} {u : State} (room : s.hart.mq.length < 64)
    (kept : u.hart.mq = s.hart.mq) (goes : fillPages parts s = .ok (l, u)) :
    Posts i (s.getS f.sa) (s.getS f.sb) (s.getP f.sa ||| s.getP f.sb) l (if header then l.head?.elim 0 fun y => u.homeNum y.1 64 else 0)
      ((setFsub fsub u).addCtx (s.getP f.sa ||| s.getP f.sb)) (postFill i f parts fsub header s) := by
  unfold postFill
  simp only [goes]
  rw [if_neg (Nat.not_le.mpr room), setFsub_eq]
  have posts := postMatrix_posts (i := i) (a := s.getS f.sa) (b := s.getS f.sb) (p := s.getP f.sa ||| s.getP f.sb) (pages := l)
    (hdr := if header then l.head?.elim 0 fun y => u.homeNum y.1 64 else 0)
    (s := (u.mapHart (Hart.joinFsub fsub)).addCtx (s.getP f.sa ||| s.getP f.sb)) (kept ▸ room)
  cases header <;> cases l <;> exact posts

/-- MLOAD of a 16-bit format or of E2M1 has an even address and pitch; its word carries the translated pages (R302). -/
theorem mload_posts {u : State} {l : List (Nat × Nat)} (allowed : Allowed (.mload f) s) (claimed : s.claims f.slotA.toNat = true)
    (room : s.hart.mq.length < 64) (kept : u.hart.mq = s.hart.mq)
    (aligned : let fmt := fp6 (f.imm.toNat / 8 % 32)
      fmt = 11 ∨ fmt = 12 ∨ fmt = 17 → (s.getS f.sa).toNat % 2 = 0 ∧ (s.getS f.sb).toNat % 2 = 0)
    (goes : fillPages (mloadParts (f.imm.toNat % 8) (fp6 (f.imm.toNat / 8 % 32)) (s.getS f.sa) (s.getS f.sb)) s = .ok (l, u)) :
    Completes (.mload f) s (Posts (.mload f) (s.getS f.sa) (s.getS f.sb) (s.getP f.sa ||| s.getP f.sb) l 0
      ((setFsub (isFp6 (f.imm.toNat / 8 % 32)) u).addCtx (s.getP f.sa ||| s.getP f.sb))) := by
  refine ⟨_, exec_of_allowed rfl allowed, ?_⟩
  dsimp only
  rw [claimed, if_neg (by simp), if_neg (by simpa [-Nat.mod_two_not_eq_zero, or_assoc] using aligned)]
  exact postFill_posts (header := false) room kept goes

/-- MFILL reads the index area of a vector-sparse tile, which the first byte of the header tells; the header itself travels with the
word (R304; log entry 68). -/
theorem mfill_posts {u x : State} {l : List (Nat × Nat)} {pb : Nat} (allowed : Allowed (.mfill f) s) (claimed : s.claims f.slotA.toNat = true)
    (room : s.hart.mq.length < 64) (kept : u.hart.mq = s.hart.mq)
    (alignedA : (s.getS f.sa).toNat % 64 = 0) (alignedB : (s.getS f.sb).toNat % 64 = 0) (header : access (s.getS f.sb) 64 .read 6 true s = .ok pb x)
    (goes : fillPages ((s.getS f.sb, 64) :: pageParts 2 (s.getS f.sa) 32768 ++
      (if (x.homeByte pb).toNat = 2 then pageParts 2 (s.getS f.sa + 32768) 2048 else [])) s = .ok (l, u)) :
    Completes (.mfill f) s (Posts (.mfill f) (s.getS f.sa) (s.getS f.sb) (s.getP f.sa ||| s.getP f.sb) l
      (l.head?.elim 0 fun y => u.homeNum y.1 64) (u.addCtx (s.getP f.sa ||| s.getP f.sb))) := by
  refine ⟨_, exec_of_allowed rfl allowed, ?_⟩
  have kind : bitsAt (x.homeNum pb 1) 0 8 = (x.homeByte pb).toNat := Nat.mod_eq_of_lt (x.homeByte pb).isLt
  dsimp only
  rw [claimed, alignedA, alignedB, header]
  simp only [kind, beq_iff_eq, bne_self_eq_false, Bool.not_true, Bool.false_eq_true, if_false]
  exact postFill_posts (fsub := false) (header := true) room kept goes

/-! ### Claims (R299, R300) -/

/-- The name of MCLAIM and MRELS: an accumulator, or a slot. -/
def claimedName (f : TFmt) : Nat := if f.imm.getLsbD 1 then 32 + f.acc.toNat else f.slotA.toNat

/-- An island with a claim added, or replaced. -/
def Island.putClaim (c : Claim) (i : Island) : Island := { i with claims := putBy Claim.num c i.claims }
/-- An island without the claim on a name. -/
def Island.dropClaim (n : Nat) (i : Island) : Island := { i with claims := eraseBy Claim.num n i.claims }

theorem Island.claimOf_putClaim (c : Claim) (i : Island) : (i.putClaim c).claimOf c.num = some c := findBy_putBy_same ..
theorem Island.claimOf_dropClaim (n : Nat) (i : Island) : (i.dropClaim n).claimOf n = none := findBy_eraseBy_same ..

/-- A name is claimed by the process whose claim the island holds. -/
theorem claims_of_claimOf {n : Nat} {c : Claim} (held : s.isl.claimOf n = some c) (own : c.asid = asidOf s.hart.csr.ptroot) :
    s.claims n = true := by
  simp only [State.claims, held, own, beq_self_eq_true]

/-- A free name within the limit of its kind is claimed, and the word posted. -/
theorem exec_mclaim_free (allowed : Allowed (.mclaim f) s) (room : s.hart.mq.length < 64) (free : s.isl.claimOf (claimedName f) = none)
    (within : (s.isl.claims.filter fun c => c.asid == asidOf s.hart.csr.ptroot && (decide (32 ≤ c.num) == f.imm.getLsbD 1)).length <
      s.claimLimit (f.imm.getLsbD 1)) :
    exec (.mclaim f) s = .next (postMatrix (.mclaim f) 0 0 0 [] 0
      (s.mapIsl (Island.putClaim ⟨claimedName f, asidOf s.hart.csr.ptroot, f.imm.getLsbD 0⟩))) := by
  refine (exec_of_allowed rfl allowed).trans (congrArg _ ?_)
  dsimp only
  rw [← claimedName.eq_def f, free, if_neg (by simpa using within), if_neg (Nat.not_le.mpr room)]
  rfl

/-- A claimed name traps with reason 1, whoever claims it (R299). -/
theorem exec_mclaim_claimed (allowed : Allowed (.mclaim f) s) (taken : (s.isl.claimOf (claimedName f)).isSome = true) :
    exec (.mclaim f) s = .next (matrixTrap 1 s) := by
  refine (exec_of_allowed rfl allowed).trans (congrArg _ ?_)
  dsimp only
  rw [← claimedName.eq_def f, taken]
  rfl

/-- A name of the process's own is given back, and the word posted. -/
theorem exec_mrels_claimed (allowed : Allowed (.mrels f) s) (room : s.hart.mq.length < 64) (claimed : s.claims (claimedName f) = true) :
    exec (.mrels f) s = .next (postMatrix (.mrels f) 0 0 0 [] 0 (s.mapIsl (Island.dropClaim (claimedName f)))) := by
  refine (exec_of_allowed rfl allowed).trans (congrArg _ ?_)
  dsimp only
  rw [← claimedName.eq_def f, claimed, if_neg (by simp), if_neg (Nat.not_le.mpr room)]
  rfl

theorem mclaim_claims (allowed : Allowed (.mclaim f) s) (room : s.hart.mq.length < 64) (free : s.isl.claimOf (claimedName f) = none)
    (within : (s.isl.claims.filter fun c => c.asid == asidOf s.hart.csr.ptroot && (decide (32 ≤ c.num) == f.imm.getLsbD 1)).length <
      s.claimLimit (f.imm.getLsbD 1)) :
    Completes (.mclaim f) s fun t => t.claims (claimedName f) = true ∧ t.hart.mq = s.hart.mq ++ [posted (.mclaim f) 0 0 0 [] 0 s] ∧
      Passed s t ∧ t.hart.s = s.hart.s ∧ t.mem = s.mem := by
  obtain ⟨isl, ptroot, rest⟩ := posts_of_mapIsl (postMatrix_posts room)
  exact ⟨_, exec_mclaim_free allowed room free within, claims_of_claimOf (isl ▸ Island.claimOf_putClaim ..) (congrArg asidOf ptroot.symm), rest⟩

theorem mrels_releases (allowed : Allowed (.mrels f) s) (room : s.hart.mq.length < 64) (claimed : s.claims (claimedName f) = true) :
    Completes (.mrels f) s fun t => t.isl.claimOf (claimedName f) = none ∧ t.hart.mq = s.hart.mq ++ [posted (.mrels f) 0 0 0 [] 0 s] ∧
      Passed s t ∧ t.hart.s = s.hart.s ∧ t.mem = s.mem := by
  obtain ⟨isl, -, rest⟩ := posts_of_mapIsl (postMatrix_posts room)
  exact ⟨_, exec_mrels_claimed allowed room claimed, isl ▸ Island.claimOf_dropClaim .., rest⟩

end Forms

/-! ### The status word (R294, R313) -/

/-- The busy bits stand above bit 15 of the status word. -/
theorem dvd_busyBits (busy : Nat → Bool) (l : List Nat) {b : Nat} (h : 65536 ∣ b) :
    65536 ∣ l.foldl (fun b n => if busy n then b + 2 ^ (16 + n) else b) b := by
  induction l generalizing b with
  | nil => exact h
  | cons n l ih =>
    refine ih ?_
    dsimp only
    split
    · exact Nat.dvd_add h ⟨2 ^ n, Nat.pow_add 2 16 n⟩
    · exact h

/-- The status word below its busy bits: the error bits and the length of the queue. -/
theorem mstatWord_eq (s : State) : ∃ busy, s.mstatWord = BitVec.ofNat 64 (65536 * busy + 512 * s.hart.mq.length + s.hart.mstat.toNat) := by
  obtain ⟨busy, h⟩ := dvd_busyBits (fun n => s.isl.stepInto (BitVec.ofNat 3 n) || (s.isl.acc n).drain.isSome || (s.isl.acc n).writing ||
    (s.allHarts.foldl (fun l h => if h.core == s.core.num then l ++ h.mq else l) s.isl.order).any fun x => x.worksOn == some n)
    (List.range 8) (Nat.dvd_zero 65536)
  exact ⟨busy, by rw [← h]; rfl⟩

theorem mstatWord_errors {s : State} : s.mstatWord.extractLsb' 0 9 = s.hart.mstat := by
  obtain ⟨busy, h⟩ := mstatWord_eq s
  have := s.hart.mstat.isLt
  apply BitVec.eq_of_toNat_eq
  rw [h, BitVec.extractLsb'_toNat, BitVec.toNat_ofNat, Nat.shiftRight_zero]
  omega

theorem mstatWord_length {s : State} (within : s.hart.mq.length ≤ 64) : (s.mstatWord.extractLsb' 9 7).toNat = s.hart.mq.length := by
  obtain ⟨busy, h⟩ := mstatWord_eq s
  have := s.hart.mstat.isLt
  rw [h, BitVec.extractLsb'_toNat, BitVec.toNat_ofNat, Nat.shiftRight_eq_div_pow]
  omega

/-- A hart whose error bits that a word names are cleared; their set goes with the last of them (R313). -/
def Hart.clearErrors (b : Word) (h : Hart) : Hart :=
  { h with mstat := h.mstat &&& ~~~ (b.extractLsb' 0 9),
           mset := if (h.mstat &&& ~~~ (b.extractLsb' 0 9)) == 0 then pvEmpty else h.mset }

theorem Hart.clearErrors_mset {b : Word} {h : Hart} (none : (h.clearErrors b).mstat = 0) : (h.clearErrors b).mset = 0 :=
  if_pos (beq_iff_eq.mpr none)

theorem exec_mstat {f : TFmt} {s : State} (allowed : Allowed (.mstat f) s) :
    exec (.mstat f) s = .next (retire ((s.mapHart (Hart.clearErrors (s.getS f.sb))).setS f.sa s.mstatWord
      (s.hart.mset ||| s.getP f.sb ||| s.ctx))) :=
  exec_of_allowed rfl allowed

theorem mstat_answers {f : TFmt} {s : State} (allowed : Allowed (.mstat f) s) :
    Completes (.mstat f) s fun t => Wrote f.sa s.mstatWord (s.hart.mset ||| s.getP f.sb ||| s.ctx) s t ∧
      t.hart.mstat = s.hart.mstat &&& ~~~ ((s.getS f.sb).extractLsb' 0 9) ∧ (t.hart.mstat = 0 → t.hart.mset = 0) ∧ Passed s t ∧ HartOnly s t := by
  refine ⟨_, exec_mstat allowed, wrote_retire (wrote_of_same (u := s.mapHart (Hart.clearErrors (s.getS f.sb))) rfl rfl (setS_wrote ..)), ?_,
    fun none => ?_, passed_retire (setS_going ..), hartOnly_of_eq rfl (congrArg Hart.mode (Hart.setS_eq ..) :)⟩
  · exact Hart.setS_mstat ..
  · exact (Hart.setS_mset ..).trans (Hart.clearErrors_mset ((Hart.setS_mstat ..).symm.trans none))

end Sys2Proof.Machine
end

section
open Sys2Proof Sys2Proof.Machine Sys2Proof.Safety

/-- Settles O52: each form, past the decoder's checks and its own, comes to one posting of its word, MCLAIM and MRELS after the change of
the claims; MSTAT's word is read below its busy bits. -/
theorem matrixWordsArePosted : Obligations.MatrixWordsArePosted := by
  unfold Obligations.MatrixWordsArePosted
  intro f s
  refine ⟨fun i step allowed => ⟨fun acc slotA slotB room => ?_, fun free => ?_⟩, fun i form allowed acc room => ?_, mhdr_posts, macinit_posts,
    fun allowed within => ⟨s.mstatWord, mstatWord_errors, mstatWord_length within, mstat_answers allowed⟩,
    ⟨mclaim_claims, exec_mclaim_claimed, mrels_releases⟩, fun u l claimed room kept => ?_⟩
  · exact ⟨_, exec_matrixStep step allowed, postClaimed_posts (by simp [acc, slotA, slotB]) room⟩
  · exact (exec_matrixStep step allowed).trans (congrArg _ (postClaimed_unclaimed (List.mem_cons_self ..) free))
  · exact ⟨_, exec_drainOrZero form allowed, postClaimed_posts (by simp [acc]) room⟩
  · have mq : u.hart.mq = s.hart.mq := by rw [kept]
    exact ⟨fun allowed aligned => mload_posts allowed claimed room mq aligned,
      fun allowed alignedA alignedB _ _ header => mfill_posts allowed claimed room mq alignedA alignedB header⟩

end

section
/-! SUPPORT. What the translation of an access leaves alone (R320, R322): the hart but for its event flag, the package, and memory outside the
leaf entry that it marks. -/

namespace Sys2Proof.Machine

open Sys2Proof.Safety

/-! ### What the write of an entry leaves alone -/

/-- What no walk of the current hart changes: every field of the hart but the event flag, the package's number and its partitions. -/
def State.steady (s : State) : Hart × Nat × List Part := ({ s.hart with event := false }, s.pkg, s.parts)

theorem steady_hart {s t : State} (h : t.steady = s.steady) : t.hart = { s.hart with event := t.hart.event } := by
  have hh : { t.hart with event := false } = { s.hart with event := false } := congrArg Prod.fst h
  exact congrArg (fun k : Hart => { k with event := t.hart.event }) hh

theorem dry_congr {s t : State} (h : t.steady = s.steady) : t.dry = s.dry := by
  rw [State.dry, steady_hart h]; rfl

theorem onCore_steady (n : Nat) {f : State → State} (hf : ∀ u, (f u).steady = u.steady) (s : State) : (onCore n f s).steady = s.steady := by
  have hfocus (m : Nat) (u : State) : (focusCore m u).steady = u.steady := by
    obtain ⟨l, h⟩ := focusCore_eq m u; rw [h]; rfl
  rw [onCore, hfocus, hf, hfocus]

theorem evictCopies_steady (p : Copy → Bool) (s : State) : (evictCopies p s).steady = s.steady := by
  obtain ⟨x, y, h⟩ := evictCopies_eq p s; rw [h]; rfl

theorem holdLines_steady (pa n : Nat) (s : State) : (holdLines pa n s).steady = s.steady := by
  unfold holdLines
  split
  · refine forRange_same State.steady _ (fun l s => ?_) _ _ s
    dsimp only
    split
    · rfl
    · split
      · rfl
      · exact onCore_steady _ (evictCopies_steady _) s
  · rfl

theorem unzero_steady (pa n : Nat) (s : State) : (unzero pa n s).steady = s.steady := by
  unfold unzero
  split
  · rfl
  · refine forRange_same State.steady _ (fun l s => ?_) _ _ s
    dsimp only
    split <;> rfl

theorem landBytes_steady (pa : Nat) (b : List Byte) (s : State) : (landBytes pa b s).steady = s.steady := by
  induction b generalizing pa s with
  | nil => rfl
  | cons v b ih => exact ih (pa + 1) _

theorem wakeLine_steady (w : Option HartId) (line : Nat) (s : State) : (wakeLine w line s).steady = s.steady := by
  refine Prod.ext ?_ rfl
  simp only [State.steady, wakeLine, State.mapHarts]
  split <;> rfl

/-- A page's set does not grow by the empty set, so no watch entry is struck (R436). -/
theorem growCur_pvEmpty (pa : Nat) (s : State) : growCur pa pvEmpty s = s := by
  simp [growCur, pvEmpty]

/-- The homes take the sectors of a write before its bytes land (R450). -/
def State.atHomes (s : State) (pa n : Nat) : State :=
  if (startClear pa s).inHost pa then startClear pa s else forRange (homeSector none) (units 32 pa n).1 (units 32 pa n).2 (startClear pa s)

/-- A view that the clear of a frame and the taking of a sector keep. -/
theorem atHomes_same {α : Type} (view : State → α) (hclear : ∀ a u, view (startClear a u) = view u)
    (htake : ∀ x u, view (homeSector none x u) = view u) (s : State) (pa n : Nat) : view (s.atHomes pa n) = view s := by
  unfold State.atHomes
  split
  · exact hclear pa s
  · exact (forRange_same view _ htake _ _ _).trans (hclear pa s)

/-- The write of a table entry, which carries the empty set, step by step. -/
theorem storeHome_pvEmpty (pa : Nat) (b : List Byte) (s : State) :
    let u := unzero pa b.length s
    let a := u.place pa
    storeHome pa b pvEmpty s = forRange (wakeLine none) (units 128 a b.length).1 (units 128 a b.length).2
      (clearPoison a b.length (landBytes a b (holdLines a b.length (u.atHomes a b.length)))) := by
  simp only [storeHome, growCur_pvEmpty, State.atHomes]

theorem storeHome_steady (pa : Nat) (b : List Byte) (s : State) : (storeHome pa b pvEmpty s).steady = s.steady := by
  rw [storeHome_pvEmpty, forRange_same State.steady _ (wakeLine_steady none)]
  refine (landBytes_steady ..).trans ((holdLines_steady ..).trans ?_)
  rw [atHomes_same State.steady (fun a u => by rw [startClear_eq]; rfl) (fun _ _ => rfl), unzero_steady]

/-- At an address that is not redirected the layout stays, and the bytes are written where the address is. -/
theorem storeHome_layout_mem {pa : Nat} {b : List Byte} {s : State} (ha : Unredirected pa s) (hb : pa % 65536 + b.length ≤ 65536) :
    (storeHome pa b pvEmpty s).layout = s.layout ∧ (storeHome pa b pvEmpty s).mem = memWriteList pa b s.mem := by
  rw [storeHome_pvEmpty, unzero_of_unredirected ha, place_of_unredirected ha, forRange_same State.layout _ (wakeLine_layout none),
    forRange_same State.mem _ (wakeLine_mem none)]
  have hl : (holdLines pa b.length (s.atHomes pa b.length)).layout = s.layout :=
    (holdLines_layout ..).trans (atHomes_same State.layout startClear_layout (homeSector_layout none) ..)
  have hm : (holdLines pa b.length (s.atHomes pa b.length)).mem = s.mem :=
    (holdLines_mem ..).trans (atHomes_same State.mem startClear_mem (homeSector_mem none) ..)
  exact ⟨(landBytes_layout ..).trans hl, (landBytes_mem b (unredirected_congr ha hl) hb).trans (by rw [hm])⟩

/-- Every byte outside the `n` bytes at an address is as before. -/
def SameOutside (pa n : Nat) (s t : State) : Prop :=
  ∀ a, (s.place a < s.place pa ∨ s.place pa + n ≤ s.place a) → t.homeByte a = s.homeByte a

theorem sameOutside_storeHome {pa : Nat} {b : List Byte} {s : State} (ha : Unredirected pa s) (hb : pa % 65536 + b.length ≤ 65536)
    (hc : MemoryCanonical s) : SameOutside pa b.length s (storeHome pa b pvEmpty s) := by
  intro a hout
  obtain ⟨hl, hm⟩ := storeHome_layout_mem ha hb
  rw [place_of_unredirected ha] at hout
  unfold State.homeByte
  rw [zeroLine_congr hl, place_congr hl, hm, memRead_memWriteList_ne _ _ _ _ hc hout]

/-! ### The walk -/

/-- The leaf that a table entry is stands where the entry was read. -/
theorem readEntry_leaf {s : State} {a level : Nat} {l : Leaf} (h : s.readEntry a level = .ok (.inl l)) : l.at_ = a := by
  unfold State.readEntry at h
  dsimp only at h
  repeat' split at h
  all_goals cases h
  rfl

theorem readEntry_table_aligned {s : State} {a level t : Nat} (h : s.readEntry a level = .ok (.inr t)) : t % 8 = 0 := by
  unfold State.readEntry at h
  dsimp only at h
  repeat' split at h
  all_goals cases h
  omega

/-- A walk from a table on an 8-byte boundary finds its leaf on one (R320). -/
theorem walkFrom_aligned {s : State} {va n table : Nat} {l : Leaf} (ht : table % 8 = 0) (h : s.walkFrom va n table = .ok l) :
    l.at_ % 8 = 0 := by
  induction n generalizing table with
  | zero =>
    unfold State.walkFrom at h
    split at h
    · cases h
    · next hr => cases h; rw [readEntry_leaf hr]; omega
    · cases h
  | succ n ih =>
    unfold State.walkFrom at h
    split at h
    · cases h
    · next hr => cases h; rw [readEntry_leaf hr]; omega
    · next hr => exact ih (readEntry_table_aligned hr) h

/-! ### The TLB -/

theorem tlbPut_eq (e : TlbEntry) (u : TlbUnit) (s : State) : ∃ c k, tlbPut e u s = { s with core := c, freeCtr := k } := by
  unfold tlbPut
  dsimp only
  split
  · exact ⟨_, _, rfl⟩
  · split
    · exact ⟨_, _, rfl⟩
    · exact ⟨s.core, s.freeCtr, rfl⟩

theorem tlbFill_eq (v : Via) (va : Nat) (e : TlbEntry) (s : State) : ∃ c k, tlbFill v va e s = { s with core := c, freeCtr := k } := by
  unfold tlbFill
  induction v.firsts s.hart.ix va e.bits generalizing s with
  | nil => exact ⟨s.core, s.freeCtr, rfl⟩
  | cons u l ih =>
    obtain ⟨c, k, hput⟩ := tlbPut_eq e u s
    rw [List.foldl_cons, hput]
    exact ih _

/-- A leaf that is installed has its entry written with its marks, where they are new, and enters the TLB (R322, R324). -/
theorem installLeaf_eq (v : Via) (asid va : Nat) (p : Perm) (l : Leaf) (s : State) : ∃ m c k,
    (m = s ∨ ∃ w, m = storeHome l.at_ (toLeBytes 8 w) pvEmpty s) ∧ (installLeaf v asid va p l s).1 = { m with core := c, freeCtr := k } := by
  have hfill (e : TlbEntry) (f : Core → Core) (m : State) :
      ∃ c k, tlbFill v va e (tlbPut e .second (m.mapCore f)) = { m with core := c, freeCtr := k } := by
    obtain ⟨c, k, hput⟩ := tlbPut_eq e .second (m.mapCore f)
    rw [hput]
    exact tlbFill_eq ..
  obtain ⟨c, k, h⟩ := hfill _ _ _
  exact ⟨_, c, k, (ite_eq_or_eq _ _ _).imp_right fun hw => ⟨_, hw⟩, h⟩

theorem installLeaf_steady (v : Via) (asid va : Nat) (p : Perm) (l : Leaf) (s : State) :
    (installLeaf v asid va p l s).1.steady = s.steady := by
  obtain ⟨m, c, k, hm, h⟩ := installLeaf_eq v asid va p l s
  rw [h]
  rcases hm with rfl | ⟨w, rfl⟩
  · rfl
  · exact storeHome_steady ..

theorem sameOutside_installLeaf (v : Via) (asid va : Nat) (p : Perm) {l : Leaf} {s : State} (hl : Unredirected l.at_ s)
    (aligned : l.at_ % 8 = 0) (hc : MemoryCanonical s) : SameOutside l.at_ 8 s (installLeaf v asid va p l s).1 := by
  obtain ⟨m, c, k, hm, h⟩ := installLeaf_eq v asid va p l s
  rw [h]
  rcases hm with rfl | ⟨w, rfl⟩
  · exact fun _ _ => rfl
  · have hlen : (toLeBytes 8 w).length = 8 := length_toLeBytes 8 w
    have hstored := sameOutside_storeHome (b := toLeBytes 8 w) hl (by rw [hlen]; omega) hc
    rw [hlen] at hstored
    exact hstored

/-! ### Translation and access, by what they found -/

/-- What a translation has done to the state: the TLB alone, or the leaf of the walk installed. -/
def Found (v : Via) (ptroot va : Word) (p : Perm) (s t : State) : Prop :=
  (∃ c k, t = { s with core := c, freeCtr := k }) ∨
  ∃ l, s.walkFrom (vaNum va) 4 (rootOf ptroot) = .ok l ∧ t = (installLeaf v (asidOf ptroot) (vaNum va) p l s).1

theorem found_steady {v : Via} {ptroot va : Word} {p : Perm} {s t : State} (h : Found v ptroot va p s t) : t.steady = s.steady := by
  rcases h with ⟨c, k, rfl⟩ | ⟨l, -, rfl⟩
  · rfl
  · exact installLeaf_steady ..

theorem xlatWith_found {v : Via} {ptroot : Word} {m : Mode} {va : Word} {p : Perm} {s : State} {x : Nat × TlbEntry × State}
    (hx : xlatWith v ptroot m va p s = .ok x) : Found v ptroot va p s x.2.2 := by
  unfold xlatWith at hx
  dsimp only at hx
  split at hx
  · cases hx
  split at hx
  · split at hx
    · cases hx
      refine .inl ?_
      dsimp only
      split
      · exact ⟨s.core, s.freeCtr, rfl⟩
      · exact tlbFill_eq ..
    · cases hx
  split at hx
  · cases hx
  next l hwalk =>
    split at hx
    · cases hx
    split at hx
    · cases hx
    · cases hx
      exact .inr ⟨l, hwalk, rfl⟩

/-- Outside the check of a convoy no translation is kept. -/
theorem xlatVia_found {v : Via} {va : Word} {p : Perm} {s : State} {x : Nat × TlbEntry × State} (hx : xlatVia v va p s = .ok x)
    (dry : s.dry = false) : Found v s.hart.csr.ptroot va p s x.2.2 := by
  unfold xlatVia at hx
  split at hx
  · next a b t _ hw => cases hx; exact xlatWith_found (x := (a, b, t)) hw
  · cases hx; exact .inl ⟨s.core, s.freeCtr, rfl⟩
  · next e t _ hw =>
    cases hx
    have hfound := xlatWith_found hw
    have hdry : t.dry = false := (dry_congr (found_steady hfound)).trans dry
    rw [keepPin, hdry]
    exact hfound
  · cases hx

/-- An access that goes ahead has translated, and then notes the frame, its clear and its page of the host window (R336, R458, R465). -/
theorem accessVia_ok {v : Via} {va : Word} {n : Nat} {p : Perm} {acc : Nat} {r : Bool} {s u : State} {pa : Nat}
    (ha : accessVia v va n p acc r s = .ok pa u) :
    ∃ e t, xlatVia v va p s = .ok (pa, e, t) ∧ u = fillAts pa (startClear pa (recordTide pa e t)) := by
  unfold accessVia at ha
  split at ha
  · cases ha
  · next hx =>
    repeat' split at ha
    all_goals cases ha
    exact ⟨_, _, hx, rfl⟩

theorem recordTide_layout (pa : Nat) (e : TlbEntry) (s : State) : (recordTide pa e s).layout = s.layout := by
  unfold recordTide
  split
  · refine setTide_layout _ _ ?_ ?_ <;> dsimp only <;> rw [tideAt_frame]
  · rfl

theorem recordTide_steady (pa : Nat) (e : TlbEntry) (s : State) : (recordTide pa e s).steady = s.steady := by
  unfold recordTide; split <;> rfl

theorem fillAts_eq (pa : Nat) (s : State) : ∃ l, fillAts pa s = { s with ats := l } := by
  unfold fillAts
  dsimp only
  split
  · exact ⟨_, rfl⟩
  · exact ⟨s.ats, rfl⟩

/-- What an access notes past its translation. -/
theorem noted_same (pa : Nat) (e : TlbEntry) (t : State) :
    (fillAts pa (startClear pa (recordTide pa e t))).steady = t.steady ∧ (fillAts pa (startClear pa (recordTide pa e t))).layout = t.layout ∧
      (fillAts pa (startClear pa (recordTide pa e t))).mem = t.mem := by
  obtain ⟨l, h⟩ := fillAts_eq pa (startClear pa (recordTide pa e t))
  rw [h, startClear_eq]
  exact ⟨recordTide_steady .., recordTide_layout .., recordTide_mem ..⟩

theorem access_found {va : Word} {n : Nat} {p : Perm} {acc : Nat} {r : Bool} {s u : State} {pa : Nat}
    (ha : access va n p acc r s = .ok pa u) (dry : s.dry = false) :
    ∃ t, Found (Via.ofAcc p acc) s.hart.csr.ptroot va p s t ∧ u.steady = t.steady ∧ u.layout = t.layout ∧ u.mem = t.mem := by
  obtain ⟨e, t, hx, rfl⟩ := accessVia_ok ha
  exact ⟨t, xlatVia_found hx dry, noted_same pa e t⟩

end Sys2Proof.Machine
end

section
open Sys2Proof Sys2Proof.Machine Sys2Proof.Safety

/-- Settles O25: a translation fills the TLB alone or installs the leaf of its walk, and the one write of the latter is the 8 bytes of
the leaf's entry, which lie in one frame. -/
theorem translationEffects : Obligations.TranslationEffects := by
  unfold Obligations.TranslationEffects
  intro va n p acc reads s u pa hc ha dry
  obtain ⟨t, hfound, hsteady, hlayout, hmem⟩ := access_found ha dry
  have hs : u.steady = s.steady := hsteady.trans (found_steady hfound)
  refine ⟨steady_hart hs, congrArg (·.2.1) hs, congrArg (·.2.2) hs, ?_⟩
  rcases hfound with ⟨c, k, rfl⟩ | ⟨l, hwalk, rfl⟩
  · split
    · exact hmem
    · exact fun _ a _ => homeByte_congr hlayout hmem a
  · rw [hwalk]
    intro hl a hout
    have aligned : l.at_ % 8 = 0 := walkFrom_aligned (by unfold rootOf; omega) hwalk
    exact (homeByte_congr hlayout hmem a).trans (sameOutside_installLeaf _ _ _ _ hl aligned hc a hout)

end

section
/-! SUPPORT. What the writes at a home leave alone beyond memory, the harts and the cores, and the bytes that they write (R327, R450). -/

namespace Sys2Proof.Machine

open Sys2Proof.Safety

/-! ### What no write changes -/

/-- The state without what a write can change: of the current hart its watch tables and event flag, the other harts, the cores, memory with
its words, directory, marks and frames, and the count of free values. -/
def State.apart (s : State) : State :=
  { s with hart := s.hart.bare, core := Core.initial 0, harts := [], cores := [], mem := [], prov := [], sectors := [], stamps := [],
           poison := [], clearing := [], tide := [], freeCtr := 0 }

theorem mapHarts_apart {f : Hart → Hart} (s : State) (hf : ∀ h, (f h).bare = h.bare) : (s.mapHarts f).apart = s.apart := by
  simp only [State.apart, State.mapHarts, hf]

theorem focusCore_apart (n : Nat) (s : State) : (focusCore n s).apart = s.apart := by
  obtain ⟨l, h⟩ := focusCore_eq n s; rw [h]; rfl

theorem onCore_apart (n : Nat) {f : State → State} (hf : ∀ u, (f u).apart = u.apart) (s : State) : (onCore n f s).apart = s.apart := by
  rw [onCore, focusCore_apart, hf, focusCore_apart]

theorem growCur_apart (pa : Nat) (p : PvSet) (s : State) : (growCur pa p s).apart = s.apart := by
  unfold growCur
  dsimp only
  split
  · rfl
  · split
    · rfl
    · exact mapHarts_apart _ fun _ => rfl

theorem startClear_apart (pa : Nat) (s : State) : (startClear pa s).apart = s.apart := by rw [startClear_eq]; rfl

theorem homeSector_apart (w : Option Nat) (n : Nat) (s : State) : (homeSector w n s).apart = s.apart := rfl

theorem wakeLine_apart (w : Option HartId) (line : Nat) (s : State) : (wakeLine w line s).apart = s.apart :=
  mapHarts_apart s fun h => by split <;> rfl

theorem evictCopies_apart (p : Copy → Bool) (s : State) : (evictCopies p s).apart = s.apart := by
  obtain ⟨x, y, h⟩ := evictCopies_eq p s; rw [h]; rfl

theorem holdLines_apart (pa n : Nat) (s : State) : (holdLines pa n s).apart = s.apart := by
  unfold holdLines
  split
  · refine forRange_same State.apart _ (fun l s => ?_) _ _ s
    dsimp only
    split
    · rfl
    · refine Eq.trans (b := (ite _ s _).apart) rfl ?_
      split
      · rfl
      · exact onCore_apart _ (evictCopies_apart _) s
  · rfl

theorem unzero_apart (pa n : Nat) (s : State) : (unzero pa n s).apart = s.apart := by
  unfold unzero
  split
  · rfl
  · refine forRange_same State.apart _ (fun l s => ?_) _ _ s
    dsimp only
    split <;> rfl

theorem landBytes_apart (pa : Nat) (b : List Byte) (s : State) : (landBytes pa b s).apart = s.apart := by
  induction b generalizing pa s with
  | nil => rfl
  | cons v b ih => exact ih (pa + 1) _

/-! ### Writes at a home, step by step -/

/-- The home has taken the sectors of a write, and its page's set has grown (R436, R450). -/
def State.grownHome (s : State) (pa n : Nat) (p : PvSet) : State :=
  let u := growCur pa p (startClear pa s)
  if u.inHost pa then u else forRange (homeSector none) (units 32 pa n).1 (units 32 pa n).2 u

/-- A view that the clear of a frame, the growth of a set and the taking of a sector keep. -/
theorem grownHome_same {α : Type} (view : State → α) (hclear : ∀ a u, view (startClear a u) = view u)
    (hgrow : ∀ a p u, view (growCur a p u) = view u) (htake : ∀ x u, view (homeSector none x u) = view u) (s : State) (pa n : Nat)
    (p : PvSet) : view (s.grownHome pa n p) = view s := by
  have hgrown : view (growCur pa p (startClear pa s)) = view s := (hgrow ..).trans (hclear ..)
  unfold State.grownHome
  dsimp only
  split
  · exact hgrown
  · exact (forRange_same view _ htake _ _ _).trans hgrown

theorem storeHome_eq (pa : Nat) (b : List Byte) (p : PvSet) (s : State) :
    let u := unzero pa b.length s
    let a := u.place pa
    storeHome pa b p s = forRange (wakeLine none) (units 128 a b.length).1 (units 128 a b.length).2
      (clearPoison a b.length (landBytes a b (holdLines a b.length (u.grownHome a b.length p)))) := rfl

theorem storeHome_apart (pa : Nat) (b : List Byte) (p : PvSet) (s : State) : (storeHome pa b p s).apart = s.apart := by
  rw [storeHome_eq, forRange_same State.apart _ (wakeLine_apart none)]
  refine (landBytes_apart ..).trans ((holdLines_apart ..).trans ?_)
  rw [grownHome_same State.apart startClear_apart growCur_apart (homeSector_apart none), unzero_apart]

/-! ### The bytes of a write at a home -/

/-- Bytes that land at addresses none of which is redirected. -/
theorem landBytes_mem_of_plain {a : Nat} (b : List Byte) {s : State} (ha : ∀ k < b.length, Unredirected (a + k) s) :
    (landBytes a b s).mem = memWriteList a b s.mem := by
  induction b generalizing a s with
  | nil => rfl
  | cons v b ih =>
    have hfirst : s.place a = a := place_of_unredirected (ha 0 (Nat.succ_pos _))
    rw [landBytes, hfirst]
    refine ih fun k hk => unredirected_congr ?_ rfl
    rw [Nat.add_assoc, Nat.add_comm 1 k]
    exact ha (k + 1) (Nat.succ_lt_succ hk)

/-- The whole of a run within a frame is where its first byte is. -/
theorem unredirected_run {pa n : Nat} {s : State} (ha : Unredirected pa s) (hn : pa % 65536 + n ≤ 65536) : ∀ k < n, Unredirected (pa + k) s :=
  fun k hk => unredirected_of_frame ha (by omega)

/-- A write at a home none of whose addresses is redirected: the layout stays, and the bytes are written where they are named. -/
theorem storeHome_plain {pa : Nat} {b : List Byte} (p : PvSet) {s : State} (ha : Unredirected pa s) (hb : ∀ k < b.length, Unredirected (pa + k) s) :
    (storeHome pa b p s).layout = s.layout ∧ (storeHome pa b p s).mem = memWriteList pa b s.mem := by
  rw [storeHome_eq, unzero_of_unredirected ha, place_of_unredirected ha, forRange_same State.layout _ (wakeLine_layout none),
    forRange_same State.mem _ (wakeLine_mem none)]
  have hl : (holdLines pa b.length (s.grownHome pa b.length p)).layout = s.layout :=
    (holdLines_layout ..).trans (grownHome_same State.layout startClear_layout growCur_layout (homeSector_layout none) ..)
  have hm : (holdLines pa b.length (s.grownHome pa b.length p)).mem = s.mem :=
    (holdLines_mem ..).trans (grownHome_same State.mem startClear_mem growCur_mem (homeSector_mem none) ..)
  exact ⟨(landBytes_layout ..).trans hl, (landBytes_mem_of_plain b fun k hk => unredirected_congr (hb k hk) hl).trans (by rw [hm])⟩

/-- A byte of a little-endian number. -/
theorem getElem_eq_leBytes (b : List Byte) (k : Nat) (h : k < b.length) : b[k] = BitVec.ofNat 8 (leBytes b / 256 ^ k) := by
  induction b generalizing k with
  | nil => exact absurd h (Nat.not_lt_zero k)
  | cons v b ih =>
    have hv : v.toNat < 256 := v.isLt
    cases k with
    | zero => exact BitVec.eq_of_toNat_eq (by simp [leBytes]; omega)
    | succ k =>
      rw [List.getElem_cons_succ, ih, Nat.pow_succ', ← Nat.div_div_eq_div_mul]
      congr 2
      simp [leBytes]
      omega

/-- Bytes written where they are named, in a state of the same layout. -/
theorem bytesStored_of_written {pa : Nat} {b : List Byte} {s t : State} (ha : Unredirected pa s) (hb : ∀ k < b.length, Unredirected (pa + k) s)
    (hc : MemoryCanonical s) (hl : t.layout = s.layout) (hm : t.mem = memWriteList pa b s.mem) : BytesStored pa b.length (leBytes b) s t := by
  refine ⟨fun k hk => ?_, fun a hout => ?_⟩
  · rw [homeByte_of_unredirected (unredirected_congr (hb k hk) hl), hm, memRead_memWriteList pa k _ _ hc hk, getElem_eq_leBytes]
  · rw [place_of_unredirected ha] at hout
    unfold State.homeByte
    rw [zeroLine_congr hl, place_congr hl, hm, memRead_memWriteList_ne _ _ _ _ hc hout]

theorem bytesStored_storeHome {pa : Nat} {b : List Byte} (p : PvSet) {s : State} (ha : Unredirected pa s)
    (hb : ∀ k < b.length, Unredirected (pa + k) s) (hc : MemoryCanonical s) :
    BytesStored pa b.length (leBytes b) s (storeHome pa b p s) := by
  obtain ⟨hl, hm⟩ := storeHome_plain p ha hb
  exact bytesStored_of_written ha hb hc hl hm

/-- The bytes of a number, written at a home within a frame. -/
theorem bytesStored_storeHome_toLeBytes {pa n : Nat} (v : Nat) (p : PvSet) {s : State} (ha : Unredirected pa s) (hn : pa % 65536 + n ≤ 65536)
    (hc : MemoryCanonical s) : BytesStored pa n v s (storeHome pa (toLeBytes n v) p s) := by
  have hlen : (toLeBytes n v).length = n := length_toLeBytes n v
  obtain ⟨stored, outside⟩ := bytesStored_storeHome p ha (by rw [hlen]; exact unredirected_run ha hn) hc
  rw [hlen] at stored outside
  exact ⟨fun k hk => (stored k hk).trans (by rw [← getElem_eq_leBytes _ k (by rwa [hlen]), getElem_toLeBytes]), outside⟩

end Sys2Proof.Machine
end

section
/-! SUPPORT. The provenance words: what a growth, a write at a home and the write of an atomic leave as the set of a page (R434-R436). -/

namespace Sys2Proof.Machine

open Sys2Proof.Safety

/-- The word of an address is that of the frame in which its bytes lie. -/
theorem provAt_frame (s : State) (pa : Nat) : (s.provAt pa).frame = s.place pa / 65536 := by
  unfold State.provAt
  dsimp only
  cases h : findBy ProvWord.frame (s.place pa / 65536) s.prov with
  | some w => exact findBy_key h
  | none =>
    rw [Option.getD_none, State.provBase]
    split <;> rfl

section

variable {s t : State}

theorem provAt_congr (hl : t.layout = s.layout) (hp : t.prov = s.prov) (pa : Nat) : t.provAt pa = s.provAt pa := by
  have hpkg : t.pkg = s.pkg := congrArg Prod.fst hl
  unfold State.provAt State.provBase State.inPeer
  rw [place_congr hl, hp, hpkg]

theorem inHost_congr (hl : t.layout = s.layout) (pa : Nat) : t.inHost pa = s.inHost pa := by
  have hpkg : t.pkg = s.pkg := congrArg Prod.fst hl
  unfold State.inHost
  rw [hpkg]

theorem curAt_congr (hl : t.layout = s.layout) (hp : t.prov = s.prov) (pa : Nat) : t.curAt pa = s.curAt pa := by
  unfold State.curAt
  rw [inHost_congr hl, provAt_congr hl hp]

end

/-- The word that has been set for the frame of an address, listed or not. -/
theorem provAt_setProv {s : State} {w : ProvWord} {pa : Nat} (h : w.frame = s.place pa / 65536) : (s.setProv w).provAt pa = w := by
  have hplace : (s.setProv w).place pa / 65536 = w.frame := h.symm
  unfold State.provAt
  dsimp only
  rw [hplace, State.setProv]
  dsimp only
  split
  · next hbase => rw [findBy_eraseBy_same]; exact (beq_iff_eq.mp hbase).symm
  · rw [findBy_putBy_same]; rfl

/-- A growth of a page's set by what it holds is none. -/
theorem curAt_growCur {pa : Nat} {s : State} (p : PvSet) (h : s.inHost pa = false) : (growCur pa p s).curAt pa = s.curAt pa ||| p := by
  have hcur (u : State) (hu : u.inHost pa = false) : u.curAt pa = (u.provAt pa).cur := by rw [State.curAt, hu]; rfl
  rw [hcur s h, hcur _ ((inHost_congr (growCur_layout pa p s) pa).trans h), growCur, h]
  dsimp only
  rw [if_neg Bool.false_ne_true]
  split
  · next hsame => exact (beq_iff_eq.mp hsame).symm
  · have hset := provAt_setProv (s := s) (w := { s.provAt pa with cur := (s.provAt pa).cur ||| p }) (provAt_frame s pa)
    exact (congrArg ProvWord.cur (provAt_congr (s := s.setProv _) rfl rfl pa)).trans (congrArg ProvWord.cur hset)

theorem settleChecks_prov (line : Nat) (s : State) : (settleChecks line s).prov = s.prov := rfl
theorem homeSector_prov (w : Option Nat) (n : Nat) (s : State) : (homeSector w n s).prov = s.prov := rfl
theorem wakeLine_prov (w : Option HartId) (line : Nat) (s : State) : (wakeLine w line s).prov = s.prov := rfl

theorem holdLines_prov (pa n : Nat) (s : State) : (holdLines pa n s).prov = s.prov := by
  unfold holdLines
  split
  · refine forRange_same State.prov _ (fun l s => ?_) _ _ s
    dsimp only
    split
    · rfl
    · refine Eq.trans (b := (ite _ s _).prov) rfl ?_
      split
      · rfl
      · have hfocus (m : Nat) (u : State) : (focusCore m u).prov = u.prov := by obtain ⟨l, h⟩ := focusCore_eq m u; rw [h]
        have hevict (p : Copy → Bool) (u : State) : (evictCopies p u).prov = u.prov := by obtain ⟨x, y, h⟩ := evictCopies_eq p u; rw [h]
        rw [onCore, hfocus, hevict, hfocus]
  · rfl

theorem landBytes_prov (pa : Nat) (b : List Byte) (s : State) : (landBytes pa b s).prov = s.prov := by
  induction b generalizing pa s with
  | nil => rfl
  | cons v b ih => exact ih (pa + 1) _

/-- The set of the page of a location that an atomic writes, or reads alone, has grown by its data set. -/
theorem curAt_storeAtomic {pa n : Nat} {b : Option (List Byte)} {p : PvSet} {s : State} (ha : Unredirected pa s) (hh : s.inHost pa = false) :
    (storeAtomic pa n b p s).curAt pa = s.curAt pa ||| p := by
  have htaken : (s.takenHome pa n p).curAt pa = s.curAt pa ||| p := by
    rw [← curAt_growCur p hh]
    refine curAt_congr ((takenHome_same s pa n p).1.trans (growCur_layout pa p s).symm) ?_ pa
    unfold State.takenHome
    dsimp only
    split
    · exact forRange_same State.prov _ settleChecks_prov _ _ _
    · exact (forRange_same State.prov _ (homeSector_prov none) _ _ _).trans (forRange_same State.prov _ settleChecks_prov _ _ _)
  rw [← htaken]
  cases b with
  | none =>
    have hplain : storeAtomic pa n none p s = s.takenHome (s.place pa) n p := rfl
    rw [hplain, place_of_unredirected ha]
  | some b =>
    obtain ⟨who, h⟩ := storeAtomic_eq pa n b p s
    rw [unzero_of_unredirected ha, place_of_unredirected ha] at h
    refine curAt_congr ?_ ?_ pa
    · rw [h, forRange_same State.layout _ (wakeLine_layout who)]
      exact (landBytes_layout ..).trans (holdLines_layout ..)
    · rw [h, forRange_same State.prov _ (wakeLine_prov who)]
      exact (landBytes_prov ..).trans (holdLines_prov ..)

end Sys2Proof.Machine
end

section
/-! SUPPORT. Scalar atomics: the gate of a compare-and-swap, what a release and an acquire leave, the write at the home, the request that
leaves the package, and the answer (R347, R356-R360, R477). -/

namespace Sys2Proof.Machine

open Sys2Proof.Safety

/-! ### Order -/

theorem releaseAt_mergeKept (scope line : Nat) (s : State) : MergeKept s (releaseAt scope line s) := by
  unfold releaseAt
  dsimp only
  split
  · exact .refl s
  · split
    · exact ⟨rfl⟩
    · exact mergeCore_mergeKept ..

theorem acquireAt_mergeKept (scope line : Nat) (s : State) : MergeKept s (acquireAt scope line s) := by
  unfold acquireAt
  split
  · exact .refl s
  · obtain ⟨hmerged, -, -⟩ := mergeAll_spec (s.recorded.filter fun r => r.1 == s.lineOf (line * 128)) s
    dsimp only
    split
    · exact hmerged.trans (dropRemote_mergeKept _)
    · exact hmerged

theorem orderAmo_mergeKept (writes aq rl : Bool) (scope line : Nat) (s : State) : MergeKept s (orderAmo writes aq rl scope line s) := by
  have hreleased : MergeKept s (if rl then (if writes then releaseAt scope line s else releaseFence scope s) else s) := by
    split
    · split
      · exact releaseAt_mergeKept ..
      · exact (releaseFence_spec scope s).1
    · exact .refl s
  unfold orderAmo
  dsimp only
  split
  · exact hreleased.trans (acquireAt_mergeKept ..)
  · exact hreleased

theorem MergeKept.layout_mem_prov {s t : State} (h : MergeKept s t) : t.layout = s.layout ∧ t.mem = s.mem ∧ t.prov = s.prov := by
  rw [h.rest]; exact ⟨rfl, rfl, rfl⟩

theorem MergeKept.kept {s t : State} (h : MergeKept s t) : t.kept = s.kept := by rw [h.rest]; rfl

/-! ### The result -/

theorem signedWord_mod (n x : Nat) : signedWord n (x % 2 ^ (8 * n)) = signedWord n x := by
  rw [signedWord, signedWord, BitVec.eq_of_toNat_eq (x := BitVec.ofNat (8 * n) (x % 2 ^ (8 * n))) (y := BitVec.ofNat (8 * n) x) (by simp)]

/-- The end of an instruction that writes a scalar register, from a state that holds the registers and the progress of the hart of `u`. -/
theorem wrote_passed_setS {u w : State} (sd : BitVec 5) (v : Word) (p : PvSet) (hs : w.hart.s = u.hart.s) (hsp : w.hart.sp = u.hart.sp)
    (hgoing : w.hart.going = u.hart.going) : Wrote sd v p u (retire (w.setS sd v p)) ∧ Passed u (retire (w.setS sd v p)) := by
  have hw := wrote_retire (setS_wrote w sd v p)
  refine ⟨⟨hw.result, hw.zero, fun r hr => ?_⟩, passed_retire ((setS_going ..).trans hgoing)⟩
  obtain ⟨hword, hset⟩ := hw.others r hr
  refine ⟨hword.trans ?_, hset.trans ?_⟩
  · simp only [State.getS, Hart.getS, hs]
  · simp only [State.getP, Hart.getP, hsp]

/-- The end of an atomic, from a state that holds the hart of `u` with the address register's set in ctx. -/
theorem finishAmo_done {f : MFmt} {n pa old : Nat} {p c : PvSet} {u w : State} (hn : 0 < n) (hk : w.kept = (u.addCtx c).kept) :
    Wrote f.sd (signedWord n old) (w.curAt pa ||| p) u (finishAmo f n pa old p w) ∧ Passed u (finishAmo f n pa old p w) ∧
      (finishAmo f n pa old p w).ctx = u.ctx ||| c ∧ (finishAmo f n pa old p w).hart.vec = u.hart.vec ∧
      (finishAmo f n pa old p w).hart.remote = u.hart.remote := by
  obtain ⟨hs, hsp, hctx, -, -, hvec, -, -⟩ := hartFields_of_kept hk
  have hbare : w.hart.bare = (u.addCtx c).hart.bare := congrArg Kept.hart hk
  have hgoing : w.hart.going = u.hart.going := (going_of_bare hbare).trans rfl
  have hremote : w.hart.remote = u.hart.remote := congrArg (·.remote) hbare
  have hval : extendLoad n true old = signedWord n old := extendLoad_eq hn true old
  have hhart := Hart.setS_eq w.hart f.sd (signedWord n old) (w.curAt pa ||| p)
  obtain ⟨hwrote, hpassed⟩ := wrote_passed_setS (u := u) f.sd (signedWord n old) (w.curAt pa ||| p) hs hsp hgoing
  rw [finishAmo, hval]
  exact ⟨hwrote, hpassed, (congrArg Hart.ctx hhart).trans hctx, (congrArg Hart.vec hhart).trans hvec, (congrArg Hart.remote hhart).trans hremote⟩

theorem finishAmo_homeByte (f : MFmt) (n pa old : Nat) (p : PvSet) (s : State) (a : Nat) :
    (finishAmo f n pa old p s).homeByte a = s.homeByte a := rfl

/-! ### The forms -/

/-- The scalar atomics with the number of their operation (R47). -/
def amoForms (f : MFmt) (d aq rl : Bool) : List (Instr × Nat) :=
  [(.amoadd f d aq rl, 1), (.amoand f d aq rl, 2), (.amoor f d aq rl, 3), (.amoxor f d aq rl, 4), (.amomin f d aq rl, 5),
    (.amomax f d aq rl, 6), (.amominu f d aq rl, 7), (.amomaxu f d aq rl, 8), (.amoswap f d aq rl, 9), (.amocas f d aq rl, 10)]

theorem exec_amoForms {f : MFmt} {d aq rl : Bool} {i : Instr} {op : Nat} (h : (i, op) ∈ amoForms f d aq rl) (s : State) :
    exec i s = .next (amoScalar i f op d aq rl s) := by
  simp only [amoForms, List.mem_cons, Prod.mk.injEq, List.not_mem_nil, or_false] at h
  rcases h with ⟨rfl, rfl⟩ | ⟨rfl, rfl⟩ | ⟨rfl, rfl⟩ | ⟨rfl, rfl⟩ | ⟨rfl, rfl⟩ | ⟨rfl, rfl⟩ | ⟨rfl, rfl⟩ | ⟨rfl, rfl⟩ | ⟨rfl, rfl⟩ |
    ⟨rfl, rfl⟩ <;> rfl

/-- The bytes of a location. -/
def amoBytes (d : Bool) : Nat := if d then 8 else 4

theorem amoBytes_pos (d : Bool) : 0 < amoBytes d := by cases d <;> decide

theorem amoBytes_le (d : Bool) : 8 * amoBytes d ≤ 64 := by cases d <;> decide

theorem amoBytes_dvd (d : Bool) : 65536 % amoBytes d = 0 := by cases d <;> rfl

/-- The data set of an atomic with the set `x` of ctx: those of its operands too (R356). -/
def amoSet (f : MFmt) (op : Nat) (x : PvSet) (s : State) : PvSet := s.getP f.sb ||| (if op == 10 then s.getP f.sc else pvEmpty) ||| x

/-- The request of an atomic. -/
def amoReq (f : MFmt) (d : Bool) (op : Nat) (x : PvSet) (s : State) : AmoReq := ⟨op, amoBytes d, s.getS f.sb, s.getS f.sc, amoSet f op x s⟩

/-- What an atomic finds at its location, stored or not. -/
def amoOut (f : MFmt) (d : Bool) (op pa : Nat) (s u : State) : Option Nat :=
  amoNew op (8 * amoBytes d) (u.homeNum pa (amoBytes d)) (s.getS f.sb).toNat (s.getS f.sc).toNat

section

variable {i : Instr} {f : MFmt} {d aq rl : Bool} {op pa : Nat} {s u : State} (hr : s.hart.remote = none) (hg : rl = true → GateOpen s)
  (hn : (effective f s).toNat % amoBytes d = 0) (ha : access (effective f s) (amoBytes d) .write 4 true s = .ok pa u)

include hr hg hn ha

/-- An aligned atomic whose address is translated and whose checks pass, up to the fence of a compare-and-swap. -/
theorem amoScalar_eq (hhost : u.inHost pa = true → hostAmo op = true)
    (hw : writeCheck (effective f s) pa (amoSet f op (u.ctx ||| s.getP f.sa) s) 4 u = none) :
    amoScalar i f op d aq rl s = casGate (op == 10 && rl && (u.inHost pa || u.inPeer pa || !(amoOut f d op pa s u).isSome))
      (fun t => if u.inHost pa || u.inPeer pa then sendAmo (amoReq f d op (u.ctx ||| s.getP f.sa) s) rl f.scope.toNat pa t
        else localAmo f (amoReq f d op (u.ctx ||| s.getP f.sa) s) aq rl pa t) (u.addCtx (s.getP f.sa)) := by
  have hm : memAddr f s = effective f s := rfl
  have hw' : writeCheck (effective f s) pa (amoSet f op (u.ctx ||| s.getP f.sa) s) 4 (u.addCtx (s.getP f.sa)) = none := hw
  have hh : ((u.addCtx (s.getP f.sa)).inHost pa && !hostAmo op) = false := by
    show (u.inHost pa && !hostAmo op) = false
    cases h : u.inHost pa with
    | false => rfl
    | true => rw [hhost h]; rfl
  have hnum : (u.addCtx (s.getP f.sa)).homeNum pa (amoBytes d) = u.homeNum pa (amoBytes d) := homeNum_congr fun _ _ => rfl
  simp only [amoSet, amoBytes] at hw' hn ha hnum
  simp only [amoScalar, hr, watchGateIf_open _ hg, hm, hn, ha, hh, hnum, bne_self_eq_false, Bool.false_eq_true, if_false]
  rw [show (u.addCtx (s.getP f.sa)).ctx = u.ctx ||| s.getP f.sa from rfl, hw']
  rfl

/-- Host memory takes three operations only (R358). -/
theorem amoScalar_refused (hhost : u.inHost pa = true) (hop : hostAmo op = false) :
    amoScalar i f op d aq rl s = scalarTrap ⟨17, encode i, 3, 4⟩ s := by
  have hm : memAddr f s = effective f s := rfl
  have hh : ((u.addCtx (s.getP f.sa)).inHost pa && !hostAmo op) = true := by
    show (u.inHost pa && !hostAmo op) = true
    rw [hhost, hop]; rfl
  simp only [amoBytes] at hn ha
  simp only [amoScalar, hr, watchGateIf_open _ hg, hm, hn, ha, hh, bne_self_eq_false, Bool.false_eq_true, if_false, if_true]

end

theorem casGate_open {on : Bool} {s : State} (f : State → State) (h : on = true → FenceOpen true true s) : casGate on f s = f s := by
  unfold casGate
  split
  · next hon => exact fenceGate_open (h hon)
  · rfl

theorem casGate_closed {on : Bool} {s : State} (f : State → State) (hon : on = true) (h : ¬ FenceOpen true true s) :
    casGate on f s = waitFor .drain s := by
  rw [casGate, if_pos hon, fenceGate_closed h]

/-! ### Requests that leave the package -/

/-- A request has left, and the hart waits for its answer. -/
theorem sendAmo_waits (r : AmoReq) (rl : Bool) (scope pa : Nat) (b : State) :
    (sendAmo r rl scope pa b).hart = { b.hart with status := .waiting .remote, remote := some ⟨pa, r, none, none, 0, b.clk⟩ } ∧
      (sendAmo r rl scope pa b).sent =
        if b.inPeer pa then .packet (b.portTo (paPkg pa) (pa / 128)) (amoPacket b.hart.id r pa) :: b.sent else b.sent := by
  have hordered : MergeKept b (if rl then releaseAt scope (pa / 128) (if r.op == 10 then releaseFence scope b else b) else b) := by
    split
    · refine MergeKept.trans ?_ (releaseAt_mergeKept ..)
      split
      · exact (releaseFence_spec scope b).1
      · exact .refl b
    · exact .refl b
  unfold sendAmo
  dsimp only
  generalize (if rl then releaseAt scope (pa / 128) (if r.op == 10 then releaseFence scope b else b) else b) = v at hordered
  have hhart : v.hart = b.hart := by rw [hordered.rest]
  have hin : v.inPeer pa = b.inPeer pa := by rw [hordered.rest]; rfl
  have hclk : v.clk = b.clk := by rw [hordered.rest]
  have hsent : v.sent = b.sent := by rw [hordered.rest]
  have hport : v.portTo (paPkg pa) (pa / 128) = b.portTo (paPkg pa) (pa / 128) := by rw [hordered.rest]; rfl
  rw [sendPacket, hin]
  split
  · exact ⟨by rw [← hhart, ← hclk]; rfl, by rw [← hhart, ← hport, ← hsent]; rfl⟩
  · exact ⟨by rw [← hhart, ← hclk]; rfl, hsent⟩

/-! ### The location in own memory -/

/-- A scalar atomic has completed on the location `pa`: the old value, the grown sets, and on. -/
def AmoDone (f : MFmt) (n pa : Nat) (p c : PvSet) (u t : State) : Prop :=
  Wrote f.sd (signedWord n (u.homeNum pa n)) (u.curAt pa ||| p) u t ∧ Passed u t ∧ t.ctx = c ∧ t.hart.vec = u.hart.vec

theorem storeAtomic_none_same {pa n : Nat} {p : PvSet} {s : State} (ha : Unredirected pa s) :
    (storeAtomic pa n none p s).layout = s.layout ∧ (storeAtomic pa n none p s).mem = s.mem ∧ (storeAtomic pa n none p s).kept = s.kept := by
  have hplain : storeAtomic pa n none p s = s.takenHome (s.place pa) n p := rfl
  rw [hplain, place_of_unredirected ha]
  exact takenHome_same ..

theorem localAmo_done {f : MFmt} {r : AmoReq} {aq rl : Bool} {pa : Nat} {c : PvSet} {u : State} (hn : 0 < r.n) (ha : Unredirected pa u)
    (hh : u.inHost pa = false) : AmoDone f r.n pa r.pv (u.ctx ||| c) u (localAmo f r aq rl pa (u.addCtx c)) := by
  have hnum : (u.addCtx c).homeNum pa r.n = u.homeNum pa r.n := homeNum_congr fun _ _ => rfl
  generalize hm : amoNew r.op (8 * r.n) (u.homeNum pa r.n) r.b.toNat r.c.toNat = m
  obtain ⟨hl, -, hp⟩ := (orderAmo_mergeKept m.isSome aq rl f.scope.toNat (pa / 128) (u.addCtx c)).layout_mem_prov
  have hk := (orderAmo_mergeKept m.isSome aq rl f.scope.toNat (pa / 128) (u.addCtx c)).kept
  have hun : Unredirected pa (orderAmo m.isSome aq rl f.scope.toNat (pa / 128) (u.addCtx c)) := unredirected_congr ha hl
  have hcur := curAt_storeAtomic (n := r.n) (b := m.map (toLeBytes r.n)) (p := r.pv) hun ((inHost_congr hl pa).trans hh)
  rw [curAt_congr (s := u) hl hp] at hcur
  have hkept : (storeAtomic pa r.n (m.map (toLeBytes r.n)) r.pv (orderAmo m.isSome aq rl f.scope.toNat (pa / 128) (u.addCtx c))).kept =
      (u.addCtx c).kept := by
    refine Eq.trans ?_ hk
    cases m with
    | none => exact (storeAtomic_none_same hun).2.2
    | some v => exact storeAtomic_kept ..
  obtain ⟨hwrote, hpassed, hctx, hvec, -⟩ := finishAmo_done (f := f) (pa := pa) (old := u.homeNum pa r.n) (p := r.pv) hn hkept
  rw [hcur, BitVec.or_assoc, BitVec.or_self] at hwrote
  unfold localAmo
  dsimp only
  rw [hnum, hm]
  exact ⟨hwrote, hpassed, hctx, hvec⟩

/-- Bytes stored, told of the number that they are the low bits of. -/
theorem bytesStored_of_mod {pa n v : Nat} {s t : State} (h : BytesStored pa n (v % 2 ^ (8 * n)) s t) : BytesStored pa n v s t := by
  refine ⟨fun k hk => (h.stored k hk).trans (BitVec.eq_of_toNat_eq ?_), h.outside⟩
  have hpow : 2 ^ (8 * n) = 256 ^ k * (256 * 256 ^ (n - k - 1)) := by
    rw [Nat.pow_mul, ← Nat.pow_succ', ← Nat.pow_add]; congr 1; omega
  rw [BitVec.toNat_ofNat, BitVec.toNat_ofNat, hpow, Nat.mod_mul_right_div_self, Nat.mod_mod_of_dvd _ (Nat.dvd_mul_right ..)]

theorem localAmo_stores {f : MFmt} {r : AmoReq} {aq rl : Bool} {pa v : Nat} {c : PvSet} {u : State} (ha : Unredirected pa u)
    (hn : pa % 65536 + r.n ≤ 65536) (hc : MemoryCanonical u)
    (hm : amoNew r.op (8 * r.n) (u.homeNum pa r.n) r.b.toNat r.c.toNat = some (v % 2 ^ (8 * r.n))) :
    BytesStored pa r.n v u (localAmo f r aq rl pa (u.addCtx c)) := by
  have hnum : (u.addCtx c).homeNum pa r.n = u.homeNum pa r.n := homeNum_congr fun _ _ => rfl
  obtain ⟨hl, hmem, -⟩ := (orderAmo_mergeKept true aq rl f.scope.toNat (pa / 128) (u.addCtx c)).layout_mem_prov
  have hbytes := bytesStored_storeAtomic (v % 2 ^ (8 * r.n)) r.pv (unredirected_congr ha hl) hn
    (s := orderAmo true aq rl f.scope.toNat (pa / 128) (u.addCtx c)) (by rw [MemoryCanonical, hmem]; exact hc)
  unfold localAmo
  dsimp only
  rw [hnum, hm]
  exact bytesStored_congr (bytesStored_of_same (bytesStored_of_mod hbytes) hl hmem) fun _ => rfl

theorem localAmo_keeps {f : MFmt} {r : AmoReq} {aq rl : Bool} {pa : Nat} {c : PvSet} {u : State} (ha : Unredirected pa u)
    (hm : amoNew r.op (8 * r.n) (u.homeNum pa r.n) r.b.toNat r.c.toNat = none) (a : Nat) :
    (localAmo f r aq rl pa (u.addCtx c)).homeByte a = u.homeByte a := by
  have hnum : (u.addCtx c).homeNum pa r.n = u.homeNum pa r.n := homeNum_congr fun _ _ => rfl
  obtain ⟨hl, hmem, -⟩ := (orderAmo_mergeKept false aq rl f.scope.toNat (pa / 128) (u.addCtx c)).layout_mem_prov
  have hun : Unredirected pa (orderAmo false aq rl f.scope.toNat (pa / 128) (u.addCtx c)) := unredirected_congr ha hl
  obtain ⟨hl', hmem', -⟩ := storeAtomic_none_same (n := r.n) (p := r.pv) hun
  unfold localAmo
  dsimp only
  rw [hnum, hm]
  rw [finishAmo_homeByte]
  exact (homeByte_congr hl' hmem' a).trans (homeByte_congr (t := orderAmo false ..) (s := u.addCtx c) hl hmem a)

/-! ### Values -/

/-- The operations of two operands do not read the third, and the second only at its width. -/
theorem amoNew_of_operates {op w old b : Nat} {g : Nat → Nat → Nat} (hop : Operates op w g) (hlt : op < 10) (h0 : 0 < op) (ho : old < 2 ^ w)
    (c : Nat) : amoNew op w old b c = some (g old (b % 2 ^ w) % 2 ^ w) := by
  rw [← hop old ho (b % 2 ^ w) (Nat.mod_lt _ (Nat.two_pow_pos w))]
  interval_cases op <;> simp [amoNew]

theorem signedWord_toInt {n : Nat} (hn : 0 < n) (h : 8 * n ≤ 64) (x : Nat) : (signedWord n x).toInt = sint (8 * n) x := by
  rw [signedWord, BitVec.toInt_signExtend_of_le h, toInt_ofNat_eq_sint (by omega)]

end Sys2Proof.Machine
end

section
/-! SUPPORT. The completions of the scalar atomics (R356-R360, R477). -/

namespace Sys2Proof.Machine

open Sys2Proof.Safety

/-! ### On the answer -/

section

variable {i : Instr} {f : MFmt} {d aq rl : Bool} {op : Nat} {s : State} {q : Remote}

theorem amoScalar_answered (hr : s.hart.remote = some q) : amoScalar i f op d aq rl s =
    amoAnswered (effective f s) 4 q (fun old t => finishAmo f (amoBytes d) q.addr (old.toNat % 2 ^ (8 * amoBytes d)) q.req.pv
      (orderAmo true aq false f.scope.toNat (q.addr / 128) (t.addCtx (s.getP f.sa)))) s := by
  rw [amoScalar, hr]; rfl

theorem completes_amoAnswer (hi : (i, op) ∈ amoForms f d aq rl) (hr : s.hart.remote = some q) (hf : q.failed = none) {v : Word}
    (hv : q.answer = some v) : Completes i s (fun t => Wrote f.sd (signedWord (amoBytes d) v.toNat) (s.curAt q.addr ||| q.req.pv) s t ∧
      Passed s t ∧ t.ctx = s.ctx ||| s.getP f.sa ∧ t.hart.remote = none ∧ t.mem = s.mem) := by
  have hordered := orderAmo_mergeKept true aq false f.scope.toNat (q.addr / 128)
    ((s.mapHart fun h => { h with remote := none }).addCtx (s.getP f.sa))
  obtain ⟨hl, hm, hp⟩ := hordered.layout_mem_prov
  obtain ⟨hwrote, hpassed, hctx, -, hremote⟩ := finishAmo_done (f := f) (pa := q.addr) (old := v.toNat % 2 ^ (8 * amoBytes d)) (p := q.req.pv)
    (amoBytes_pos d) hordered.kept
  rw [curAt_congr (s := s) hl hp, signedWord_mod] at hwrote
  refine ⟨_, (exec_amoForms hi s).trans (congrArg Host.Outcome.next (amoScalar_answered hr)), ?_⟩
  simp only [amoAnswered, hf, hv]
  refine ⟨⟨hwrote.result, hwrote.zero, hwrote.others⟩, passed_of_going (w := s.mapHart fun h => { h with remote := none }) rfl hpassed, hctx,
    hremote, hm⟩

theorem exec_amoFailed (hi : (i, op) ∈ amoForms f d aq rl) (hr : s.hart.remote = some q) {x : Nat} (hf : q.failed = some x)
    (hd : s.postedDone = true) : exec i s = .next (trapAt ⟨20, effective f s, x, 4⟩ { s with hart := { s.hart with remote := none } }) := by
  rw [exec_amoForms hi, amoScalar_answered hr]
  simp only [amoAnswered, hf, hd]
  rfl

theorem exec_amoUnanswered (hi : (i, op) ∈ amoForms f d aq rl) (hr : s.hart.remote = some q) (hf : q.failed = none) (ha : q.answer = none) :
    exec i s = .next (waitFor .remote s) := by
  rw [exec_amoForms hi, amoScalar_answered hr]
  simp only [amoAnswered, hf, ha]

end

section

variable {i : Instr} {f : MFmt} {d aq rl : Bool} {op pa : Nat} {s u : State} (hr : s.hart.remote = none) (hg : rl = true → GateOpen s)
  (hn : (effective f s).toNat % amoBytes d = 0) (ha : access (effective f s) (amoBytes d) .write 4 true s = .ok pa u)
  (hi : (i, op) ∈ amoForms f d aq rl)

include hr hg hn ha hi

/-! ### Outside the package -/

section

variable (hfar : u.inHost pa = true ∨ u.inPeer pa = true) (hhost : u.inHost pa = true → hostAmo op = true)
  (hw : writeCheck (effective f s) pa (amoSet f op (u.ctx ||| s.getP f.sa) s) 4 u = none)

include hfar hhost hw

theorem completes_amoSent (hfence : op = 10 → rl = true → FenceOpen true true u) :
    Completes i s (fun t => t.hart.status = .waiting .remote ∧
      t.hart.remote = some ⟨pa, amoReq f d op (u.ctx ||| s.getP f.sa) s, none, none, 0, u.clk⟩ ∧ t.hart.s = s.hart.s ∧ t.hart.pc = s.hart.pc ∧
      t.mem = u.mem ∧ t.sent = if u.inPeer pa then
        .packet (u.portTo (paPkg pa) (pa / 128)) (amoPacket u.hart.id (amoReq f d op (u.ctx ||| s.getP f.sa) s) pa) :: u.sent else u.sent) := by
  have hout : (u.inHost pa || u.inPeer pa) = true := Bool.or_eq_true_iff.mpr hfar
  obtain ⟨hs, -, -, hpc, -, -, -, -⟩ := hartFields_of_kept (access_kept ha)
  obtain ⟨hhart, hsent⟩ := sendAmo_waits (amoReq f d op (u.ctx ||| s.getP f.sa) s) rl f.scope.toNat pa (u.addCtx (s.getP f.sa))
  refine ⟨_, (exec_amoForms hi s).trans (congrArg Host.Outcome.next (amoScalar_eq hr hg hn ha hhost hw)), ?_⟩
  rw [casGate_open _ fun hon => ?_]
  · simp only [hout, if_true]
    rw [hhart]
    exact ⟨rfl, rfl, hs, hpc, sendAmo_mem .., hsent⟩
  · simp only [Bool.and_eq_true, beq_iff_eq] at hon
    exact hfence hon.1.1 hon.1.2

theorem completes_amoFenced (hop : op = 10) (hrl : rl = true) (hfence : ¬ FenceOpen true true u) :
    Completes i s (fun t => t.hart.status = .waiting .drain ∧ t.hart.s = s.hart.s ∧ t.hart.pc = s.hart.pc ∧ t.mem = u.mem) := by
  obtain ⟨hs, -, -, hpc, -, -, -, -⟩ := hartFields_of_kept (access_kept ha)
  refine ⟨_, (exec_amoForms hi s).trans (congrArg Host.Outcome.next (amoScalar_eq hr hg hn ha hhost hw)), ?_⟩
  rw [casGate_closed (s := u.addCtx (s.getP f.sa)) _ (by rw [Bool.or_eq_true_iff.mpr hfar, hop, hrl]; rfl) hfence]
  exact ⟨rfl, hs, hpc, rfl⟩

end

/-! ### On own memory -/

section

variable (hown : u.inHost pa = false) (hpeer : u.inPeer pa = false)
  (hw : writeCheck (effective f s) pa (amoSet f op (u.ctx ||| s.getP f.sa) s) 4 u = none)

include hown hpeer hw

/-- An atomic on own memory that its gate lets through is the one operation at the location. -/
theorem exec_amoLocal (hfence : op = 10 → rl = true → amoOut f d op pa s u = none → FenceOpen true true u) :
    exec i s = .next (localAmo f (amoReq f d op (u.ctx ||| s.getP f.sa) s) aq rl pa (u.addCtx (s.getP f.sa))) := by
  rw [exec_amoForms hi, amoScalar_eq hr hg hn ha (fun h => absurd (hown.symm.trans h) Bool.false_ne_true) hw, casGate_open _ fun hon => ?_]
  · rw [hown, hpeer]; rfl
  · simp only [hown, hpeer, Bool.false_or, Bool.and_eq_true, beq_iff_eq, Bool.not_eq_true', Option.isSome_eq_false_iff,
      Option.isNone_iff_eq_none] at hon
    exact hfence hon.1.1 hon.1.2 hon.2

/-- An atomic that stores `v`. -/
theorem completes_amoStore (hun : Unredirected pa u) (hal : pa % amoBytes d = 0) (hc : MemoryCanonical u) {v : Nat}
    (hv : amoOut f d op pa s u = some (v % 2 ^ (8 * amoBytes d))) :
    Completes i s (fun t => AmoDone f (amoBytes d) pa (amoSet f op (u.ctx ||| s.getP f.sa) s) (u.ctx ||| s.getP f.sa) u t ∧
      BytesStored pa (amoBytes d) v u t) := by
  have hdone := localAmo_done (f := f) (r := amoReq f d op (u.ctx ||| s.getP f.sa) s) (aq := aq) (rl := rl) (c := s.getP f.sa)
    (amoBytes_pos d) hun hown
  have hstores := localAmo_stores (f := f) (r := amoReq f d op (u.ctx ||| s.getP f.sa) s) (aq := aq) (rl := rl) (c := s.getP f.sa)
    hun (run_within (amoBytes_dvd d) hal) hc hv
  exact ⟨_, exec_amoLocal hr hg hn ha hi hown hpeer hw fun _ _ h => absurd (hv.symm.trans h) (Option.some_ne_none _), hdone, hstores⟩

/-- An atomic of two operands stores what its operation gives. -/
theorem completes_amoOperation (hun : Unredirected pa u) (hal : pa % amoBytes d = 0) (hc : MemoryCanonical u) {g : Nat → Nat → Nat}
    (hop : Operates op (8 * amoBytes d) g) (hlt : op < 10) (h0 : 0 < op) :
    Completes i s (fun t => AmoDone f (amoBytes d) pa (amoSet f op (u.ctx ||| s.getP f.sa) s) (u.ctx ||| s.getP f.sa) u t ∧
      BytesStored pa (amoBytes d) (g (u.homeNum pa (amoBytes d)) ((s.getS f.sb).toNat % 2 ^ (8 * amoBytes d))) u t) := by
  have hnum : u.homeNum pa (amoBytes d) < 2 ^ (8 * amoBytes d) := by rw [Nat.pow_mul]; exact homeNum_lt ..
  exact completes_amoStore hr hg hn ha hi hown hpeer hw hun hal hc (amoNew_of_operates hop hlt h0 hnum _)

/-- An atomic that stores nothing. -/
theorem completes_amoKept (hun : Unredirected pa u) (hv : amoOut f d op pa s u = none) (hfence : rl = true → FenceOpen true true u) :
    Completes i s (fun t => AmoDone f (amoBytes d) pa (amoSet f op (u.ctx ||| s.getP f.sa) s) (u.ctx ||| s.getP f.sa) u t ∧
      ∀ a, t.homeByte a = u.homeByte a) := by
  have hdone := localAmo_done (f := f) (r := amoReq f d op (u.ctx ||| s.getP f.sa) s) (aq := aq) (rl := rl) (c := s.getP f.sa)
    (amoBytes_pos d) hun hown
  have hkeeps := localAmo_keeps (f := f) (r := amoReq f d op (u.ctx ||| s.getP f.sa) s) (aq := aq) (rl := rl) (c := s.getP f.sa) hun hv
  exact ⟨_, exec_amoLocal hr hg hn ha hi hown hpeer hw fun _ hrl _ => hfence hrl, hdone, hkeeps⟩

end

/-- One that releases is a release fence, and waits as one. -/
theorem completes_amoKeptFenced (hown : u.inHost pa = false)
    (hw : writeCheck (effective f s) pa (amoSet f op (u.ctx ||| s.getP f.sa) s) 4 u = none) (hv : amoOut f d op pa s u = none) (hop : op = 10)
    (hrl : rl = true) (hfence : ¬ FenceOpen true true u) :
    Completes i s (fun t => t.hart.status = .waiting .drain ∧ t.hart.s = s.hart.s ∧ t.hart.pc = s.hart.pc ∧ t.mem = u.mem) := by
  obtain ⟨hs, -, -, hpc, -, -, -, -⟩ := hartFields_of_kept (access_kept ha)
  refine ⟨_, (exec_amoForms hi s).trans (congrArg Host.Outcome.next
    (amoScalar_eq hr hg hn ha (fun h => absurd (hown.symm.trans h) Bool.false_ne_true) hw)), ?_⟩
  rw [casGate_closed (s := u.addCtx (s.getP f.sa)) _ (by rw [hop, hrl, ← hop, hv]; simp) hfence]
  exact ⟨rfl, hs, hpc, rfl⟩

end

end Sys2Proof.Machine
end

section
open Sys2Proof Sys2Proof.Machine Sys2Proof.Safety

/-- Settles O30: by the answer where a request is out, by the request where the location lies outside the package, and on own memory by the
one write at the home, whose value is that of the form's operation. -/
theorem scalarAtomics : Obligations.ScalarAtomics := by
  intro f d aq rl s n forms
  refine ⟨fun q hq i op hi => ⟨fun v hf hv => completes_amoAnswer hi hq hf hv, fun x hf hd => exec_amoFailed hi hq hf hd,
    fun hf hv => exec_amoUnanswered hi hq hf hv⟩, ?_⟩
  intro u pa b c x old lt ready did two three hr hg hn ha
  have hset (op : Nat) : amoSet f op x s = if op = 10 then three else two := by
    unfold amoSet
    simp only [beq_iff_eq]
    split <;> rfl
  refine ⟨?_, fun hown hpeer hal hc hun => ?_⟩
  · intro hfar i op hi p r
    have hp : amoSet f op x s = p := hset op
    have hreq : amoReq f d op x s = r := by rw [amoReq, hp]; rfl
    refine ⟨fun hh hop => ?_, fun hhost hready hfence => ?_, fun hop hrl hready hfence => ?_⟩
    · have hrefused : hostAmo op = false := by simpa [hostAmo, and_assoc] using hop
      rw [exec_amoForms hi, amoScalar_refused hr hg hn ha hh hrefused]
    · have hsent := completes_amoSent hr hg hn ha hi hfar (fun hh => by simpa [hostAmo, hh, or_assoc] using hhost) (by rw [hp]; exact hready) hfence
      rwa [hreq] at hsent
    · exact completes_amoFenced hr hg hn ha hi hfar (fun _ => by rw [hop]; rfl) (by rw [hp]; exact hready) hop hrl hfence
  · have hpow : 256 ^ n = 2 ^ (8 * amoBytes d) := by rw [Nat.pow_mul]; rfl
    have hb : (s.getS f.sb).toNat % 2 ^ (8 * amoBytes d) = b := by rw [← hpow]
    have hlt (y z : Nat) : lt y z ↔ sint (8 * amoBytes d) y < sint (8 * amoBytes d) z := by
      rw [← signedWord_toInt (amoBytes_pos d) (amoBytes_le d), ← signedWord_toInt (amoBytes_pos d) (amoBytes_le d)]; rfl
    have operation {i : Instr} {op : Nat} {g : Nat → Nat → Nat} (hready : ready two) (hi : (i, op) ∈ amoForms f d aq rl)
        (hop : Operates op (8 * amoBytes d) g) (hlt : op < 10) (h0 : 0 < op) {v : Nat} (hv : g old b = v) :
        Completes i s (fun t => did two t ∧ BytesStored pa n v u t) := by
      have hp : amoSet f op x s = two := (hset op).trans (if_neg (by omega))
      have hdone := completes_amoOperation hr hg hn ha hi hown hpeer (by rw [hp]; exact hready) hun hal hc hop hlt h0
      rw [hp, hb] at hdone
      rw [← hv]
      exact hdone
    have hi : (Instr.amocas f d aq rl, 10) ∈ amoForms f d aq rl := by simp [amoForms]
    have hp : amoSet f 10 x s = three := hset 10
    have hcas : amoOut f d 10 pa s u = if old = b then some (c % 2 ^ (8 * amoBytes d)) else none := by
      have hc : (s.getS f.sc).toNat % 2 ^ (8 * amoBytes d) = c := by rw [← hpow]
      have hout : amoOut f d 10 pa s u = if old == (s.getS f.sb).toNat % 2 ^ (8 * amoBytes d) then
        some ((s.getS f.sc).toNat % 2 ^ (8 * amoBytes d)) else none := rfl
      rw [hout, hb, hc, ← hc, Nat.mod_mod]
      simp only [beq_iff_eq]
    refine ⟨fun hready i v hi => ?_, fun hready => ⟨fun h => ?_, fun h => ?_, fun h => ?_, fun h => ?_⟩,
      fun hready => ⟨fun h => ?_, fun h hfence => ?_, fun h hrl hfence => ?_⟩⟩
    · simp only [List.mem_cons, Prod.mk.injEq, List.not_mem_nil, or_false] at hi
      rcases hi with ⟨rfl, rfl⟩ | ⟨rfl, rfl⟩ | ⟨rfl, rfl⟩ | ⟨rfl, rfl⟩ | ⟨rfl, rfl⟩ | ⟨rfl, rfl⟩ | ⟨rfl, rfl⟩
      · exact operation hready (by simp [amoForms]) (operates_add _) (by decide) (by decide) rfl
      · exact operation hready (by simp [amoForms]) (operates_and _) (by decide) (by decide) rfl
      · exact operation hready (by simp [amoForms]) (operates_or _) (by decide) (by decide) rfl
      · exact operation hready (by simp [amoForms]) (operates_xor _) (by decide) (by decide) rfl
      · exact operation hready (by simp [amoForms]) (operates_min _) (by decide) (by decide) rfl
      · exact operation hready (by simp [amoForms]) (operates_max _) (by decide) (by decide) rfl
      · exact operation hready (by simp [amoForms]) (operates_swap _) (by decide) (by decide) rfl
    · exact operation hready (by simp [amoForms]) (operates_minSigned _) (by decide) (by decide) (if_pos ((hlt b old).mp h))
    · exact operation hready (by simp [amoForms]) (operates_minSigned _) (by decide) (by decide) (if_neg fun k => h ((hlt b old).mpr k))
    · exact operation hready (by simp [amoForms]) (operates_maxSigned _) (by decide) (by decide) (if_pos ((hlt old b).mp h))
    · exact operation hready (by simp [amoForms]) (operates_maxSigned _) (by decide) (by decide) (if_neg fun k => h ((hlt old b).mpr k))
    · have hdone := completes_amoStore hr hg hn ha hi hown hpeer (by rw [hp]; exact hready) hun hal hc (hcas.trans (if_pos h))
      rw [hp] at hdone
      exact hdone
    · have hdone := completes_amoKept hr hg hn ha hi hown hpeer (by rw [hp]; exact hready) hun (hcas.trans (if_neg h)) hfence
      rw [hp] at hdone
      exact hdone
    · exact completes_amoKeptFenced hr hg hn ha hi hown (by rw [hp]; exact hready) (hcas.trans (if_neg h)) rfl hrl hfence

end

section
/-! SUPPORT. Engine instructions: the job that is handed over, the tags, and the record that LAUNCH appends (R362-R365, R372, R384). -/

namespace Sys2Proof.Machine

open Sys2Proof.Safety

/-! ### Traps keep the count of jobs -/

theorem deliver_jobSeq (t : TrapRec) (pc : Word) (s : State) : (deliver t pc s).jobSeq = s.jobSeq := by
  have hclear (r va : Word) (u : State) : (walkClear r va u).jobSeq = u.jobSeq := by
    unfold walkClear
    split
    · rfl
    · generalize u.tableReads (va.extractLsb' 0 57).toNat 4 ((r.extractLsb' 12 40).toNat * 4096) = l
      exact List.foldlRecOn l _ (motive := fun v : State => v.jobSeq = u.jobSeq) rfl fun v hv a _ => by rw [startClear_eq]; exact hv
  unfold deliver
  dsimp only
  have hcleared : (if (t.cause == 8) = true then walkClear (leaveReef s).hart.csr.ptroot t.info (leaveReef s) else leaveReef s).jobSeq = s.jobSeq := by
    split
    · exact hclear ..
    · rfl
  generalize (if (t.cause == 8) = true then walkClear (leaveReef s).hart.csr.ptroot t.info (leaveReef s) else leaveReef s) = u at hcleared ⊢
  rw [← hcleared]
  split
  · split <;> rfl
  · rfl

theorem scalarTrap_jobSeq (t : TrapRec) (s : State) : (scalarTrap t s).jobSeq = s.jobSeq := by
  unfold scalarTrap trapBehind
  split
  · rfl
  · split
    · exact deliver_jobSeq ..
    · rfl

/-! ### Issue -/

/-- The engine instructions with the kinds of their jobs. -/
def engForms (f : RFmt) : List (Instr × Nat) := [(.copy f, 1), (.decomp f, 2), (.sread f, 3), (.gate f, 4)]

/-- The operands that a control block at `pa` gives. -/
def blockOps (u : State) (pa : Nat) : List Word := (List.range 6).map fun k => BitVec.ofNat 64 (bitsAt (u.loadNum pa 64) (64 * k) 64)

/-- An operand of a control block as a number. -/
def opNat (ops : List Word) (k : Nat) : Nat := (ops[k]?.getD 0).toNat

/-- An SREAD asks for more blocks than its controller transfers at once (R480). -/
def TooLong (kind : Nat) (ops : List Word) (u : State) : Prop :=
  kind = 3 ∧ ∃ ctl nsid p, u.nsAt (opNat ops 1) = some (ctl, nsid, p) ∧ maxBlocks ctl nsid < opNat ops 3

/-- The state in which a job is handed over: its tag is running, and the next job has the next number. -/
def handedOver (n : Nat) (j : EngJob) (s u : State) : State :=
  enqueueJob j { u.mapHart fun h => { h with tags := putBy EngTag.num ⟨n, .running, s.jobSeq, j.pv⟩ h.tags } with jobSeq := s.jobSeq + 1 }

/-- What a job carries of the instruction that issued it. -/
structure JobOf (kind : Nat) (a : Word) (ops : List Word) (c : PvSet) (s : State) (j : EngJob) : Prop where
  uid : j.uid = s.jobSeq
  kind : j.kind = kind
  who : j.who = s.hart.id
  block : j.block = a
  ops : j.ops = ops
  ptroot : j.ptroot = s.hart.csr.ptroot
  mode : j.mode = s.hart.mode
  pv : j.pv &&& c = c

theorem or_and_self_left (q p : PvSet) : (q ||| p) &&& q = q := by
  ext k hk
  rw [BitVec.getElem_and, BitVec.getElem_or]
  cases q[k]
  · exact Bool.and_false _
  · rfl

section

variable {kind : Nat} {ops : List Word} {s u : State} (hns : kind = 3 → (u.nsAt (opNat ops 1)).isSome = true)

include hns

theorem bound_of_isSome : (kind == 3 && (u.nsAt (opNat ops 1)).isNone) = false := by
  rw [Bool.and_eq_false_iff, beq_eq_false_iff_ne, Option.isNone_eq_false_iff]
  exact (Classical.em (kind = 3)).symm.imp id fun h => hns h

/-- A block within its limits asks for no more than either bound. -/
theorem within_of_not_tooLong (hok : blockOk kind ops s = true) (hbig : ¬ TooLong kind ops u) :
    (kind == 3 && decide (min 65536 (maxBlocks ((u.nsAt (opNat ops 1)).getD (0, 0, pvEmpty)).1
      ((u.nsAt (opNat ops 1)).getD (0, 0, pvEmpty)).2.1) < opNat ops 3)) = false := by
  by_cases hk : kind = 3
  · subst hk
    have hlimit : opNat ops 3 ≤ 65536 := by
      simp only [blockOk, Bool.and_eq_true, decide_eq_true_eq] at hok
      exact hok.2.2
    obtain ⟨⟨ctl, nsid, p⟩, hat⟩ := Option.isSome_iff_exists.mp (hns rfl)
    have hmax : ¬ maxBlocks ctl nsid < opNat ops 3 := fun h => hbig ⟨rfl, ctl, nsid, p, hat, h⟩
    rw [hat, Option.getD_some, Bool.and_eq_false_iff, decide_eq_false_iff_not]
    exact .inr (by simp only; omega)
  · rw [beq_eq_false_iff_ne.mpr hk, Bool.false_and]

end

section

variable {i : Instr} {f : RFmt} {kind pa : Nat} {s u : State} (hal : (s.getS f.sa).toNat % 64 = 0)
  (ha : access (s.getS f.sa) 64 .read 2 true s = .ok pa u) (hok : blockOk kind (blockOps u pa) s = true)
  (hns : kind = 3 → (u.nsAt (opNat (blockOps u pa) 1)).isSome = true)

include hal ha hok hns

theorem engIssue_tooLong (hbig : TooLong kind (blockOps u pa) u) : engIssue i kind f s = scalarTrap ⟨19, encode i, 2, 0⟩ s := by
  obtain ⟨rfl, ctl, nsid, p, hat, hmax⟩ := hbig
  have hat' : (u.addCtx (s.getP f.sa ||| u.loadPv pa)).nsAt (opNat (blockOps u pa) 1) = some (ctl, nsid, p) := hat
  have hlong : min 65536 (maxBlocks ctl nsid) < opNat (blockOps u pa) 3 := by omega
  simp only [opNat, blockOps] at hat' hlong hok
  simp only [engIssue, hal, ha, hok, hat', bne_self_eq_false, Bool.not_true, Bool.false_eq_true, if_false, Option.isNone_some, Bool.and_false,
    Option.getD_some, beq_self_eq_true, Bool.true_and, decide_eq_true hlong, if_true, engTrap]

theorem engIssue_full (hbig : ¬ TooLong kind (blockOps u pa) u) (hfree : s.hart.freeTag = none) :
    engIssue i kind f s = scalarTrap ⟨19, encode i, 1, 0⟩ s := by
  have hlen := within_of_not_tooLong hns hok hbig
  have hmissing : (kind == 3 && (u.nsAt (opNat (blockOps u pa) 1)).isNone) = false := bound_of_isSome hns
  simp only [opNat, blockOps] at hmissing hlen hok
  simp only [engIssue, hal, ha, hok, bne_self_eq_false, Bool.not_true, Bool.false_eq_true, if_false, hfree, engTrap]
  rw [if_neg (by rw [← Bool.not_eq_true] at hmissing; exact hmissing), if_neg (by rw [← Bool.not_eq_true] at hlen; exact hlen)]

theorem engIssue_issued (hbig : ¬ TooLong kind (blockOps u pa) u) {n : Nat} (hfree : s.hart.freeTag = some n) : ∃ j : EngJob,
    JobOf kind (s.getS f.sa) (blockOps u pa) (u.ctx ||| (s.getP f.sa ||| u.loadPv pa)) s j ∧
    engIssue i kind f s = retire ((handedOver n j s (u.addCtx (s.getP f.sa ||| u.loadPv pa))).setS f.sd (BitVec.ofNat 64 n)
      (handedOver n j s (u.addCtx (s.getP f.sa ||| u.loadPv pa))).ctx) := by
  have hlen := within_of_not_tooLong hns hok hbig
  have hmissing : (kind == 3 && (u.nsAt (opNat (blockOps u pa) 1)).isNone) = false := bound_of_isSome hns
  simp only [opNat, blockOps] at hmissing hlen hok
  simp only [engIssue, hal, ha, hok, bne_self_eq_false, Bool.not_true, Bool.false_eq_true, if_false, hfree]
  rw [if_neg (by rw [← Bool.not_eq_true] at hmissing; exact hmissing), if_neg (by rw [← Bool.not_eq_true] at hlen; exact hlen)]
  refine ⟨_, ?_, rfl⟩
  refine ⟨rfl, rfl, rfl, rfl, rfl, rfl, rfl, ?_⟩
  dsimp only
  split
  · exact or_and_self_left ..
  · exact BitVec.and_self

end

/-- An engine instruction has taken tag `n` and handed over a job with the operands of its block (R364, R365). -/
def EngineIssued (f : RFmt) (kind n : Nat) (ops : List Word) (c : PvSet) (s u t : State) : Prop :=
  Wrote f.sd (BitVec.ofNat 64 n) c u t ∧ Passed u t ∧ t.ctx = c ∧ t.mem = u.mem ∧ t.jobSeq = s.jobSeq + 1 ∧
    (∃ g ∈ t.hart.tags, g.num = n ∧ g.state = .running ∧ g.uid = s.jobSeq) ∧
    ∃ j ∈ t.engq ++ t.sreads ++ t.gateq, j.uid = s.jobSeq ∧ j.kind = kind ∧ j.who = s.hart.id ∧ j.block = s.getS f.sa ∧ j.ops = ops ∧
      j.ptroot = s.hart.csr.ptroot ∧ j.mode = s.hart.mode ∧ j.pv &&& c = c

/-- A job stands in one of the queues, and nothing else has changed. -/
theorem enqueueJob_eq (j : EngJob) (s : State) : ∃ x y z, j ∈ x ++ y ++ z ∧ enqueueJob j s = { s with engq := x, sreads := y, gateq := z } := by
  unfold enqueueJob
  split <;> exact ⟨_, _, _, by simp, rfl⟩

theorem handedOver_eq (n : Nat) (j : EngJob) (s u : State) (q : PvSet) : ∃ x y z, j ∈ x ++ y ++ z ∧ handedOver n j s (u.addCtx q) =
    { u with hart := { u.hart with ctx := u.ctx ||| q, tags := putBy EngTag.num ⟨n, .running, s.jobSeq, j.pv⟩ u.hart.tags },
             jobSeq := s.jobSeq + 1, engq := x, sreads := y, gateq := z } :=
  enqueueJob_eq j _

theorem engineIssued_handedOver {f : RFmt} {kind n : Nat} {ops : List Word} {q : PvSet} {s u : State} {j : EngJob}
    (hj : JobOf kind (s.getS f.sa) ops (u.ctx ||| q) s j) :
    EngineIssued f kind n ops (u.ctx ||| q) s u
      (retire ((handedOver n j s (u.addCtx q)).setS f.sd (BitVec.ofNat 64 n) (handedOver n j s (u.addCtx q)).ctx)) := by
  obtain ⟨x, y, z, hmem, heq⟩ := handedOver_eq n j s u q
  have hset := Hart.setS_eq { u.hart with ctx := u.ctx ||| q, tags := putBy EngTag.num ⟨n, .running, s.jobSeq, j.pv⟩ u.hart.tags }
    f.sd (BitVec.ofNat 64 n) (u.ctx ||| q)
  rw [heq]
  refine ⟨?_, passed_retire ((setS_going ..).trans rfl), congrArg Hart.ctx hset, rfl, rfl, ⟨⟨n, .running, s.jobSeq, j.pv⟩, ?_, rfl, rfl, rfl⟩,
    j, hmem, hj.uid, hj.kind, hj.who, hj.block, hj.ops, hj.ptroot, hj.mode, hj.pv⟩
  · have hw := wrote_retire (setS_wrote { u with hart :=
      { u.hart with ctx := u.ctx ||| q, tags := putBy EngTag.num ⟨n, .running, s.jobSeq, j.pv⟩ u.hart.tags } } f.sd (BitVec.ofNat 64 n)
      (u.ctx ||| q))
    exact ⟨hw.result, hw.zero, hw.others⟩
  · exact Eq.subst (motive := fun l => _ ∈ l) (congrArg Hart.tags hset).symm (mem_putBy_self EngTag.num ..)

/-- A release fence after the issue changes none of it. -/
theorem engineIssued_of_mergeKept {f : RFmt} {kind n : Nat} {ops : List Word} {c : PvSet} {s u t t' : State}
    (h : EngineIssued f kind n ops c s u t) (hk : MergeKept t t') : EngineIssued f kind n ops c s u t' := by
  obtain ⟨hw, hp, hrest⟩ := h
  rw [hk.rest]
  exact ⟨⟨hw.result, hw.zero, hw.others⟩, ⟨hp.pc, hp.instret, hp.running, hp.mode, hp.place⟩, hrest⟩

/-- GATE releases after its issue, and only after it (R371). -/
theorem exec_gate {f : RFmt} {s : State} (h : Allowed (.gate f) s) (hg : GateOpen s) :
    exec (.gate f) s = .next (if (engIssue (.gate f) 4 f s).jobSeq != s.jobSeq then releaseFence 5 (engIssue (.gate f) 4 f s)
      else engIssue (.gate f) 4 f s) := by
  have hi : exec (.gate f) s = .next (gated (.gate f) (watchGate fun s =>
    if (engIssue (.gate f) 4 f s).jobSeq != s.jobSeq then releaseFence 5 (engIssue (.gate f) 4 f s) else engIssue (.gate f) 4 f s) s) := rfl
  rw [exec_of_allowed hi h, watchGate_open _ hg]

section

variable {i : Instr} {f : RFmt} {kind : Nat} {s : State} (hi : (i, kind) ∈ engForms f) (h : Allowed i s) (hg : kind = 4 → GateOpen s)

include hi h hg

theorem exec_engTrap {r : TrapRec} (ht : engIssue i kind f s = scalarTrap r s) : exec i s = .next (scalarTrap r s) := by
  simp only [engForms, List.mem_cons, Prod.mk.injEq, List.not_mem_nil, or_false] at hi
  rcases hi with ⟨rfl, rfl⟩ | ⟨rfl, rfl⟩ | ⟨rfl, rfl⟩ | ⟨rfl, rfl⟩
  · exact (exec_of_allowed rfl h).trans (congrArg _ ht)
  · exact (exec_of_allowed rfl h).trans (congrArg _ ht)
  · exact (exec_of_allowed rfl h).trans (congrArg _ ht)
  · rw [exec_gate h (hg rfl), ht, scalarTrap_jobSeq, bne_self_eq_false, if_neg Bool.false_ne_true]

theorem completes_engIssue {n : Nat} {ops : List Word} {c : PvSet} {u : State} (hd : EngineIssued f kind n ops c s u (engIssue i kind f s)) :
    Completes i s (EngineIssued f kind n ops c s u) := by
  simp only [engForms, List.mem_cons, Prod.mk.injEq, List.not_mem_nil, or_false] at hi
  rcases hi with ⟨rfl, rfl⟩ | ⟨rfl, rfl⟩ | ⟨rfl, rfl⟩ | ⟨rfl, rfl⟩
  · exact ⟨_, exec_of_allowed rfl h, hd⟩
  · exact ⟨_, exec_of_allowed rfl h, hd⟩
  · exact ⟨_, exec_of_allowed rfl h, hd⟩
  · refine ⟨_, exec_gate h (hg rfl), ?_⟩
    split
    · exact engineIssued_of_mergeKept hd (releaseFence_spec ..).1
    · exact hd

end

/-! ### Tags -/

section

variable {f : RFmt} {s : State} {v : Word} {p : PvSet}

/-- The tag that TWAIT reads is free afterwards. -/
theorem completes_twait (h : Allowed (.twait f) s) (ha : s.tagAnswer (s.getS f.sa).toNat = .word v p) :
    Completes (.twait f) s (fun t => Wrote f.sd v (p ||| s.getP f.sa ||| (s.ctx ||| s.getP f.sa)) s t ∧ HartOnly s t ∧
      t.ctx = s.ctx ||| s.getP f.sa ∧ Passed s t ∧ ((s.getS f.sa).toNat < 64 → ∀ g ∈ t.hart.tags, g.num ≠ (s.getS f.sa).toNat)) := by
  refine ⟨_, exec_of_allowed rfl h, ?_⟩
  simp only [ha]
  have hfreed (x : State) (hh : ∃ l, x = { s with hart := { s.hart with ctx := s.ctx ||| s.getP f.sa, tags := l } } ∧
      ((s.getS f.sa).toNat < 64 → ∀ g ∈ l, g.num ≠ (s.getS f.sa).toNat)) (q : PvSet) :
      let t := retire (x.setS f.sd v q)
      Wrote f.sd v q s t ∧ HartOnly s t ∧ t.ctx = s.ctx ||| s.getP f.sa ∧ Passed s t ∧
        ((s.getS f.sa).toNat < 64 → ∀ g ∈ t.hart.tags, g.num ≠ (s.getS f.sa).toNat) := by
    obtain ⟨l, rfl, hl⟩ := hh
    have hset := Hart.setS_eq { s.hart with ctx := s.ctx ||| s.getP f.sa, tags := l } f.sd v q
    have hw := wrote_retire (setS_wrote { s with hart := { s.hart with ctx := s.ctx ||| s.getP f.sa, tags := l } } f.sd v q)
    refine ⟨⟨hw.result, hw.zero, hw.others⟩, hartOnly_of_eq rfl (Hart.setS_mode ..), Hart.setS_ctx ..,
      passed_retire ((setS_going ..).trans rfl), fun hn g hg => hl hn g ?_⟩
    exact Eq.subst (motive := fun l => g ∈ l) (congrArg Hart.tags hset) hg
  split
  · exact hfreed _ ⟨_, rfl, fun _ g hg => by simpa using (List.mem_filter.mp hg).2⟩ _
  · next hn => exact hfreed _ ⟨_, rfl, fun h => absurd h hn⟩ _

theorem completes_tpoll (h : Allowed (.tpoll f) s) (ha : s.tagAnswer (s.getS f.sa).toNat = .word v p) :
    Completes (.tpoll f) s (ScalarStep f.sd v (p ||| s.getP f.sa ||| s.ctx) s.ctx s) := by
  have hi := exec_of_allowed (i := .tpoll f) rfl h
  simp only [ha] at hi
  exact completes_scalar hi rfl rfl

theorem completes_tpollRunning (h : Allowed (.tpoll f) s) (ha : s.tagAnswer (s.getS f.sa).toNat = .running p) :
    Completes (.tpoll f) s (ScalarStep f.sd 0 (p ||| s.getP f.sa ||| s.ctx) s.ctx s) := by
  have hi := exec_of_allowed (i := .tpoll f) rfl h
  simp only [ha] at hi
  exact completes_scalar hi rfl rfl

end

/-! ### LAUNCH -/

section

variable {f : RFmt} {q pa : Nat} {d : QDesc} {s u : State} (ha : access (s.getS f.sa) 64 .read 2 true (releaseFence 3 s) = .ok pa u)

include ha

/-- A queue without room answers 1 (R362). -/
theorem launchTo_full (hfull : d.size ≤ (d.tail - d.head).toNat) :
    let b := u.addCtx (s.getP f.sa ||| s.getP f.sb)
    launchTo f q d s = retire (b.setS f.sd 1 (s.getP f.sb ||| b.ctx)) := by
  have hhart : (releaseFence 3 s).hart = s.hart := by rw [(releaseFence_spec 3 s).1.rest]
  have hS (r : BitVec 5) : (releaseFence 3 s).getS r = s.getS r := by rw [State.getS, hhart]; rfl
  have hP (r : BitVec 5) : (releaseFence 3 s).getP r = s.getP r := by rw [State.getP, hhart]; rfl
  simp only [launchTo, ha, hP, if_pos hfull]

theorem launchTo_room (hroom : (d.tail - d.head).toNat < d.size) :
    let b := u.addCtx (s.getP f.sa ||| s.getP f.sb)
    let slot := d.base + 64 * (d.tail.toNat % d.size)
    let p := b.loadPv pa ||| s.getP f.sa ||| s.getP f.sb ||| b.ctx
    b.deadFrame slot 64 = none → writeCheck (BitVec.ofNat 64 slot) slot p 3 b = none →
    let t := storeHome (s.qtable.getD 0 + 64 * q + 32) (toLeBytes 8 (d.tail + 1).toNat) pvEmpty (storePa slot (toLeBytes 64 (b.loadNum pa 64)) p b)
    launchTo f q d s = retire (t.setS f.sd 0 (s.getP f.sb ||| t.ctx)) := by
  intro b slot p hdead hcheck
  have hhart : (releaseFence 3 s).hart = s.hart := by rw [(releaseFence_spec 3 s).1.rest]
  have hqtable : (releaseFence 3 s).qtable = s.qtable := by rw [(releaseFence_spec 3 s).1.rest]
  have hP (r : BitVec 5) : (releaseFence 3 s).getP r = s.getP r := by rw [State.getP, hhart]; rfl
  simp only [b, slot, p] at hdead hcheck
  simp only [launchTo, ha, hP, hqtable, if_neg (Nat.not_le.mpr hroom), hdead, hcheck]
  rfl

end

/-- A record and the tail behind it have been written where they are named, and nothing else. -/
theorem launchWrites {slot tail v w : Nat} {p : PvSet} {b : State} (hc : MemoryCanonical b) (hs : slot % 64 = 0) (ht : tail % 8 = 0)
    (hus : Unredirected slot b) (hut : Unredirected tail b) (hapart : slot + 64 ≤ tail ∨ tail + 8 ≤ slot) :
    let t := storeHome tail (toLeBytes 8 w) pvEmpty (storePa slot (toLeBytes 64 v) p b)
    (∀ k < 64, t.homeByte (slot + k) = BitVec.ofNat 8 (v / 256 ^ k)) ∧ t.homeNum tail 8 = w % 2 ^ 64 ∧
      (∀ x, (b.place x < slot ∨ slot + 64 ≤ b.place x) → (b.place x < tail ∨ tail + 8 ≤ b.place x) → t.homeByte x = b.homeByte x) ∧
      t.kept = b.kept := by
  have hslot : slot % 65536 + 64 ≤ 65536 := run_within (by decide) hs
  have htail : tail % 65536 + 8 ≤ 65536 := run_within (by decide) ht
  obtain ⟨hl, -⟩ := storePa_layout_mem (b := toLeBytes 64 v) p hus (by rwa [length_toLeBytes])
  have hfirst := bytesStored_storePa v p hus hslot hc
  have hsecond := bytesStored_storeHome_toLeBytes w pvEmpty (unredirected_congr hut hl) htail (storePa_memWf slot (toLeBytes 64 v) p b hc)
  have houtside (x : Nat) (h : b.place x < tail ∨ tail + 8 ≤ b.place x) :=
    hsecond.outside x (by rw [place_congr hl, place_congr hl, place_of_unredirected hut]; exact h)
  refine ⟨fun k hk => (houtside _ ?_).trans (hfirst.stored k hk), homeNum_of_bytes hsecond.stored, fun x h1 h2 => (houtside x h2).trans ?_,
    (storeHome_kept ..).trans (storePa_kept ..)⟩
  · rw [place_of_unredirected (unredirected_run hus hslot k hk)]
    omega
  · exact hfirst.outside x (by rw [place_of_unredirected hus]; exact h1)

theorem exec_launch {f : RFmt} {s : State} {d : QDesc} (h : Allowed (.launch f) s) (hal : (s.getS f.sa).toNat % 64 = 0)
    (hq : (s.getS f.sb).toNat < 256) (hd : s.qdesc (s.getS f.sb).toNat = some d) (hdev : d.dev = true)
    (hpart : s.part.map Part.num = some d.part) (hg : GateOpen s) :
    exec (.launch f) s = .next (launchTo f (s.getS f.sb).toNat d s) := by
  rw [exec_of_allowed (i := .launch f) rfl h]
  simp only [hal, if_pos hq, hd, hdev, hpart, bne_self_eq_false, Bool.not_true, Bool.false_or, Bool.false_eq_true, if_false, watchGate_open _ hg]

end Sys2Proof.Machine
end

section
open Sys2Proof Sys2Proof.Machine Sys2Proof.Safety

/-- Settles O51: the issue by the job that it hands over, whose tag is the free one; TWAIT and TPOLL by what the tag answers; LAUNCH by its two
writes. -/
theorem enginesAreIssued : Obligations.EnginesAreIssued := by
  refine ⟨?_, fun f s => ⟨fun h => ⟨fun ha => ?_, fun p ha => ?_, fun v p ha => completes_twait h ha⟩,
    fun h => ⟨fun ha => ?_, fun p ha => completes_tpollRunning h ha, fun v p ha => completes_tpoll h ha⟩⟩, ?_⟩
  · intro f i kind s u pa n hi a ops c at_ h hal ha hok hns hg big
    refine ⟨fun hbig => exec_engTrap hi h hg (engIssue_tooLong hal ha hok hns hbig),
      fun hbig hfree => exec_engTrap hi h hg (engIssue_full hal ha hok hns hbig hfree), fun hbig hfree => ?_⟩
    obtain ⟨j, hj, hissued⟩ := engIssue_issued (i := i) hal ha hok hns hbig hfree
    exact completes_engIssue hi h hg (hissued ▸ engineIssued_handedOver hj)
  · rw [exec_of_allowed (i := .twait f) rfl h]
    simp only [ha]
    rfl
  · rw [exec_of_allowed (i := .twait f) rfl h]
    simp only [ha]
  · rw [exec_of_allowed (i := .tpoll f) rfl h]
    simp only [ha]
    rfl
  · intro f s u pa d a q b slot tail h hal hq hd hdev hpart hg ha
    have hexec := exec_launch h hal hq hd hdev hpart hg
    refine ⟨fun hfull => ?_, fun hroom hc hs ht hus hut hapart hdead hcheck => ?_⟩
    · exact ⟨_, hexec.trans (congrArg _ (launchTo_full ha hfull)), scalarStep_of b f.sd 1 (s.getP f.sb ||| b.ctx)⟩
    · refine ⟨_, hexec.trans (congrArg _ (launchTo_room ha hroom hdead hcheck)), ?_⟩
      obtain ⟨hrecord, htail, hrest, hk⟩ := launchWrites (v := b.loadNum pa 64) (w := (d.tail + 1).toNat)
        (p := b.loadPv pa ||| s.getP f.sa ||| s.getP f.sb ||| b.ctx) (b := b) hc hs ht hus hut hapart
      obtain ⟨hS, hP, hctx, -, -, -, -, -⟩ := hartFields_of_kept hk
      obtain ⟨hwrote, hpassed⟩ := wrote_passed_setS f.sd 0 (s.getP f.sb ||| b.ctx) hS hP (going_of_bare (congrArg Kept.hart hk))
      rw [show State.ctx _ = b.ctx from hctx]
      exact ⟨hwrote, hpassed, hrecord, htail.trans (Nat.mod_eq_of_lt (BitVec.isLt _)), hrest⟩

end

section
/-! SUPPORT. Areas in memory: the pieces that an area is stored in, and the end of the forms that save one (R373, R376). -/

namespace Sys2Proof.Machine

open Sys2Proof.Safety

/-! ### The pieces of a range -/

theorem pageParts_zero (n : Nat) (va : Word) : pageParts n va 0 = [] := by cases n <;> rfl

/-- The pieces of a range hold it whole, when there are as many as its pages. -/
theorem sum_pageParts {n len : Nat} {va : Word} (h : len + va.toNat % 65536 ≤ 65536 * n) : ((pageParts n va len).map Prod.snd).sum = len := by
  induction n generalizing va len with
  | zero => exact (Nat.eq_zero_of_add_eq_zero_right (Nat.le_zero.mp h)).symm
  | succ n ih =>
    rw [pageParts]
    split
    · next hz => exact (beq_iff_eq.mp hz).symm
    · dsimp only
      rw [List.map_cons, List.sum_cons]
      by_cases hshort : len ≤ 65536 - va.toNat % 65536
      · rw [Nat.min_eq_left hshort, Nat.sub_self, pageParts_zero]
        rfl
      · have hpage : (va + BitVec.ofNat 64 (65536 - va.toNat % 65536)).toNat % 65536 = 0 := by
          rw [BitVec.toNat_add, BitVec.toNat_ofNat]
          omega
        rw [Nat.min_eq_right (by omega), ih (by omega)]
        omega

/-- The places of an area are its pieces, in order. -/
theorem areaWrite_lengths {p : PvSet} {x : List (Word × Nat)} {s u : State} {l : List (Nat × Nat)} (h : areaWrite p x s = .ok (l, u)) :
    l.map Prod.snd = x.map Prod.snd := by
  induction x generalizing s l u with
  | nil =>
    injection h with h
    injection h with hl
    rw [← hl]
    rfl
  | cons y x ih =>
    obtain ⟨va, n⟩ := y
    rw [areaWrite] at h
    split at h
    · exact nomatch h
    · exact nomatch h
    · split at h
      · exact nomatch h
      · split at h
        · exact nomatch h
        · next hrest =>
          injection h with h
          injection h with hl
          rw [← hl, List.map_cons, List.map_cons, ih hrest]

/-! ### The bytes of an area -/

/-- A cut of some bytes, as a run takes it from their number. -/
theorem runBytes_leBytes {b : List Byte} {off n : Nat} (pa : Nat) (h : off + n ≤ b.length) :
    runBytes (leBytes b) ⟨0, 0, pa, off, n⟩ = (b.drop off).take n := by
  have hlen : (runBytes (leBytes b) ⟨0, 0, pa, off, n⟩).length = n := length_runBytes ..
  refine List.ext_getElem ?_ fun j hj hj' => ?_
  · rw [hlen, List.length_take, List.length_drop]
    omega
  · rw [hlen] at hj
    have hpow : 256 ^ (off + j) = 2 ^ (8 * (off + j)) := by rw [Nat.pow_mul]
    rw [getElem_runBytes, List.getElem_take, List.getElem_drop, getElem_eq_leBytes b (off + j) (by omega), hpow, bitsAt,
      Nat.shiftRight_eq_div_pow]
    exact BitVec.eq_of_toNat_eq (by simp)

/-- The pieces of an area have been stored: the bytes, and of the hart and the core what a store leaves. -/
theorem areaStore_stores {p : PvSet} {b : List Byte} {l : List (Nat × Nat)} {off : Nat} {s : State} (hlen : off + (l.map Prod.snd).sum ≤ b.length)
    (hl : PlainArea l s) (hc : MemoryCanonical s) :
    RunsStored (areaRuns off l) (leBytes b) s (areaStore p l (b.drop off) s) := by
  induction l generalizing off s with
  | nil =>
    refine ⟨rfl, fun a => ?_⟩
    rw [areaStore, State.homeByte]
    split <;> rfl
  | cons x l ih =>
    obtain ⟨pa, n⟩ := x
    obtain ⟨hwithin, hun⟩ := hl (pa, n) List.mem_cons_self
    rw [List.map_cons, List.sum_cons] at hlen
    have hrun := runBytes_leBytes pa (b := b) (off := off) (n := n) (by omega)
    have hcut : ((b.drop off).take n).length = n := by rw [← hrun, length_runBytes]
    obtain ⟨hlay, -⟩ := storePa_layout_mem p hun (b := (b.drop off).take n) (by rwa [hcut])
    have hplain : PlainArea l (storePa pa ((b.drop off).take n) p s) := fun y hy =>
      let ⟨hw, hu⟩ := hl y (List.mem_cons_of_mem _ hy)
      ⟨hw, unredirected_congr hu hlay⟩
    obtain ⟨hkept, hbytes⟩ := ih (off := off + n) (by omega) hplain (storePa_memWf _ _ _ _ hc)
    have hone := homeByte_storeRun (r := ⟨0, 0, pa, off, n⟩) (leBytes b) p hun hwithin hc
    rw [hrun] at hone
    rw [areaStore, List.drop_drop]
    refine ⟨hkept.trans (storePa_kept ..), fun a => ?_⟩
    rw [hbytes, zeroLine_congr hlay, place_congr hlay, hone]
    refine if_ctx_congr Iff.rfl (fun _ => rfl) fun hz => ?_
    rw [if_neg hz]
    exact (storedByte_cons ..).symm

/-! ### The end of a save -/

/-- What a form does once its area is stored leaves the registers, the progress and memory. -/
structure AfterSave (v t : State) : Prop where
  s : t.hart.s = v.hart.s
  sp : t.hart.sp = v.hart.sp
  ctx : t.hart.ctx = v.hart.ctx
  going : t.hart.going = v.hart.going
  bytes : ∀ a, t.homeByte a = v.homeByte a

/-- A form that saves an area: the bytes stand at its pieces, and the register has their count. -/
theorem completes_saveArea {i : Instr} {f : RFmt} {bytes : List Byte} {p : PvSet} {after : State → State} {s0 s u : State} {l : List (Nat × Nat)}
    {post : State → Prop} (hexec : exec i s0 = .next (saveArea f bytes p after s)) (hal : (s.getS f.sa).toNat % 64 = 0)
    (hw : areaWrite (p ||| (s.ctx ||| s.getP f.sa)) (pageParts (bytes.length / 65536 + 2) (s.getS f.sa) bytes.length) (s.addCtx (s.getP f.sa)) =
      .ok (l, u)) (hc : MemoryCanonical u) (hl : PlainArea l u) (hafter : ∀ v, v.kept = u.kept → AfterSave v (after v))
    (hpost : ∀ v, v.kept = u.kept → ∀ r, post (retire ((after v).setS f.sd r (after v).ctx))) :
    Completes i s0 (fun t => Wrote f.sd (BitVec.ofNat 64 bytes.length) u.ctx u t ∧ Passed u t ∧ AreaStored l bytes u t ∧ post t) := by
  have hsum : 0 + (l.map Prod.snd).sum ≤ bytes.length := by
    rw [areaWrite_lengths hw, sum_pageParts (by omega), Nat.zero_add]
  obtain ⟨hkept, hbytes⟩ := areaStore_stores (p := p ||| (s.ctx ||| s.getP f.sa)) hsum hl hc
  rw [List.drop_zero] at hkept hbytes
  have hdone := hafter _ hkept
  have hended := hpost _ hkept (BitVec.ofNat 64 bytes.length)
  obtain ⟨hS, hP, hctx, -, -, -, -, -⟩ := hartFields_of_kept hkept
  have hctx' : (after (areaStore (p ||| (s.ctx ||| s.getP f.sa)) l bytes u)).ctx = u.ctx := hdone.ctx.trans hctx
  obtain ⟨hwrote, hpassed⟩ := wrote_passed_setS f.sd (BitVec.ofNat 64 bytes.length) u.ctx (hdone.s.trans hS) (hdone.sp.trans hP)
    (hdone.going.trans (going_of_bare (congrArg Kept.hart hkept)))
  have heq : saveArea f bytes p after s = retire ((after (areaStore (p ||| (s.ctx ||| s.getP f.sa)) l bytes u)).setS f.sd
      (BitVec.ofNat 64 bytes.length) (after (areaStore (p ||| (s.ctx ||| s.getP f.sa)) l bytes u)).ctx) := by
    have hw' : areaWrite (p ||| (s.addCtx (s.getP f.sa)).ctx) (pageParts (bytes.length / 65536 + 2) (s.getS f.sa) bytes.length)
      (s.addCtx (s.getP f.sa)) = .ok (l, u) := hw
    simp only [saveArea, hal, hw', bne_self_eq_false, Bool.false_eq_true, if_false]
    rfl
  refine ⟨_, hexec.trans (congrArg _ heq), ?_, ?_, fun a => (hdone.bytes a).trans (hbytes a), hended⟩
  · rwa [hctx']
  · rwa [hctx']

end Sys2Proof.Machine
end

section
/-! SUPPORT. The forms that save and restore: VSAVE, VRESTORE, FRSAVE, FRLOAD, XFREEZE, XTHAW and GATEINST (R373-R378, R382). -/

namespace Sys2Proof.Machine

open Sys2Proof.Safety

/-! ### Saves -/

theorem afterSave_refl (v : State) : AfterSave v v := ⟨rfl, rfl, rfl, rfl, fun _ => rfl⟩

theorem exec_vsave {f : RFmt} {s : State} (h : Allowed (.vsave f) s) (hq : s.hart.queue = []) :
    exec (.vsave f) s = .next (saveArea f (vsaveBytes s) s.hart.vec.union (fun t => t) s) := by
  rw [exec_of_allowed (i := .vsave f) rfl h]
  simp only [hq, List.isEmpty_nil, Bool.not_true, Bool.false_eq_true, if_false]

/-- The bytes of the frame that FRSAVE stores (log entry 9). -/
def frameBytesOf (s : State) : List Byte :=
  opaqueBytes s.freeCtr (if s.hart.queue.isEmpty && s.unbegun.isEmpty then 64 else 64 + (Config.freeWord s.freeCtr).toNat % 32705) s.fw.frameFmt

theorem length_frameBytesOf (s : State) : 64 ≤ (frameBytesOf s).length := by
  have hlen (c n : Nat) (w : Word) (hn : 64 ≤ n) : (opaqueBytes c n w).length = n := by
    simp only [opaqueBytes, List.length_append, length_toLeBytes, List.length_map, List.length_range]
    omega
  unfold frameBytesOf
  split
  · exact (hlen _ _ _ (Nat.le_refl 64)).ge
  · rw [hlen _ _ _ (by omega)]; omega

/-- The record that FRSAVE keeps of what its area holds. -/
def savedFrameOf (s : State) : SavedFrame :=
  ⟨frameBytesOf s, s.hart.queue, s.unbegun, if s.hart.heldBy.isSome then s.hart.resume else 0, 0, [], none, [], s.hart.partLanes s.core.level⟩

theorem exec_frsave {f : RFmt} {s : State} (h : Allowed (.frsave f) s) :
    exec (.frsave f) s = .next (saveArea f (frameBytesOf s) s.framePv
      (fun t => dropFrameItems { t with freeCtr := t.freeCtr + 1, savedFrames := t.savedFrames ++ [savedFrameOf s] }) s) := by
  have hform : execFrsave f s = .next (gated (.frsave f) (fun s => saveArea f (frameBytesOf s) s.framePv
    (fun t => dropFrameItems { t with freeCtr := t.freeCtr + 1, savedFrames := t.savedFrames ++ [savedFrameOf s] }) s) s) := rfl
  exact hform.trans (congrArg _ (gated_of_allowed _ h))

theorem setFr_eq (b : Bool) (s : State) : ∃ csr : Csrs, csr.instret = s.hart.csr.instret ∧
    setFr b s = { s with hart := { s.hart with csr := csr } } := by
  refine ⟨_, ?_, rfl⟩
  split <;> rfl

theorem dropFrameItems_eq (s : State) : ∃ (csr : Csrs) (c : Core), csr.instret = s.hart.csr.instret ∧ dropFrameItems s =
    { s with core := c, hart := { s.hart with csr := csr, queue := [], mq := [], heldBy := none, resume := 0 } } := by
  obtain ⟨csr, hin, heq⟩ := setFr_eq false ((s.mapIsl fun i => { i with order := i.order.filter fun x => x.who != s.hart.id }).mapHart
    fun h => { h with queue := [], mq := [], heldBy := none, resume := 0 })
  exact ⟨csr, _, hin, heq⟩

/-- The frame leaves the hart, and of it only that. -/
theorem afterSave_dropFrameItems (v : State) (c : Nat) (l : List SavedFrame) :
    AfterSave v (dropFrameItems { v with freeCtr := c, savedFrames := l }) := by
  obtain ⟨csr, core, hin, heq⟩ := dropFrameItems_eq { v with freeCtr := c, savedFrames := l }
  rw [heq]
  exact ⟨rfl, rfl, rfl, by simp only [Hart.going, hin], fun _ => rfl⟩

/-- What FRSAVE leaves of the frame, and what it keeps of it. -/
theorem frameSaved_after (v : State) (c : Nat) (x : SavedFrame) (r : BitVec 5) (w : Word) (p : PvSet) :
    let t := retire ((dropFrameItems { v with freeCtr := c, savedFrames := v.savedFrames ++ [x] }).setS r w p)
    t.hart.queue = [] ∧ t.hart.mq = [] ∧ t.hart.heldBy = none ∧ x ∈ t.savedFrames := by
  obtain ⟨csr, core, -, heq⟩ := dropFrameItems_eq { v with freeCtr := c, savedFrames := v.savedFrames ++ [x] }
  rw [heq]
  exact ⟨Hart.setS_queue .., Hart.setS_mq .., Hart.setS_heldBy .., List.mem_append_right _ (List.mem_singleton_self x)⟩

/-- The running opcode of the process on the current core. -/
def frozenRun (w : State) : Option RRun :=
  match w.core.reef.run with | some x => if x.asid == w.asid then some x else none | none => none

/-- The addresses of the images that the process has bound. -/
def boundAddrs (w : State) : List Word := (List.range 16).map fun k => match w.bindOf w.asid k with | some b => b.addr | none => 0

/-- The bytes of the area that XFREEZE stores (R378). -/
def frozenBytes (w : State) : List Byte := freezeBytes w.freeCtr w.fw.freezeFmt w.asid (boundAddrs w)

/-- The set of what XFREEZE takes away. -/
def frozenPv (w : State) : PvSet :=
  ((frozenRun w).toList ++ w.core.reef.conts.filter fun x => x.asid == w.asid).foldl (fun p x => p ||| x.set) pvEmpty

/-- The record that XFREEZE keeps of what its area holds. -/
def frozenFrameOf (w : State) : SavedFrame :=
  ⟨frozenBytes w, [], [], 0, w.asid, boundAddrs w, frozenRun w, w.core.reef.conts.filter fun x => x.asid == w.asid, []⟩

/-- The state in which XFREEZE acts: the accesses of the opcode of its process performed as far as they can be. -/
def frozenFrom (s : State) : State := if s.core.reef.run.any (fun r => r.asid == s.asid) then freezeRun s else s

theorem exec_xfreeze {f : RFmt} {s : State} (h : Allowed (.xfreeze f) s) : exec (.xfreeze f) s =
    .next (if s.core.reef.run.any (fun r => r.asid == s.asid) && (frozenFrom s).runWaits then waitFor .reef (frozenFrom s)
      else saveArea f (frozenBytes (frozenFrom s)) (frozenPv (frozenFrom s)) (fun t => dropReef (frozenFrom s).asid
        { t with freeCtr := t.freeCtr + 1, savedFrames := t.savedFrames ++ [frozenFrameOf (frozenFrom s)] }) (frozenFrom s)) :=
  exec_of_allowed (i := .xfreeze f) rfl h

theorem leNum_eq_leBytes (l : List Byte) : leNum l = leBytes l := by
  induction l with
  | nil => rfl
  | cons b l ih => rw [leNum, leBytes, ih]

theorem leNum_toLeBytes (n x : Nat) : leNum (toLeBytes n x) = x % 256 ^ n := by rw [leNum_eq_leBytes, leBytes_toLeBytes]

/-- A double among doubles. -/
theorem take_drop_doubles {l : List Word} {r : List Byte} {k : Nat} (hk : k < l.length) :
    (((l.flatMap fun a => toLeBytes 8 a.toNat) ++ r).drop (8 * k)).take 8 = toLeBytes 8 l[k].toNat := by
  induction l generalizing k with
  | nil => exact absurd hk (Nat.not_lt_zero k)
  | cons a l ih =>
    have hlen : (toLeBytes 8 a.toNat).length = 8 := length_toLeBytes ..
    rw [List.flatMap_cons, List.append_assoc]
    cases k with
    | zero => rw [Nat.mul_zero, List.drop_zero, List.take_append_of_le_length hlen.ge, List.take_of_length_le hlen.le]; rfl
    | succ k =>
      rw [show 8 * (k + 1) = (toLeBytes 8 a.toNat).length + 8 * k by omega, List.drop_length_add_append, List.getElem_cons_succ]
      exact ih (Nat.lt_of_succ_lt_succ hk)

theorem frozenBytes_spec (w : State) : 144 ≤ (frozenBytes w).length ∧ leNum (((frozenBytes w).drop 8).take 8) = w.asid % 2 ^ 64 ∧
    ∀ k < 16, leNum (((frozenBytes w).drop (16 + 8 * k)).take 8) = (w.bindOf w.asid k).elim 0 fun b => b.addr.toNat := by
  have hlen (n x : Nat) : (toLeBytes n x).length = n := length_toLeBytes ..
  have haddrs : (boundAddrs w).length = 16 := by rw [boundAddrs, List.length_map, List.length_range]
  have hdoubles (l : List Word) : (l.flatMap fun a => toLeBytes 8 a.toNat).length = 8 * l.length := by
    induction l with
    | nil => rfl
    | cons a l ih => rw [List.flatMap_cons, List.length_append, ih, hlen, List.length_cons]; omega
  obtain ⟨r, hr⟩ : ∃ r, frozenBytes w = toLeBytes 8 w.fw.freezeFmt.toNat ++ (toLeBytes 8 w.asid ++
      ((boundAddrs w).flatMap (fun a => toLeBytes 8 a.toNat) ++ r)) :=
    ⟨_, by simp only [frozenBytes, freezeBytes, List.append_assoc]; rfl⟩
  have hdrop : (frozenBytes w).drop 8 = toLeBytes 8 w.asid ++ ((boundAddrs w).flatMap (fun a => toLeBytes 8 a.toNat) ++ r) := by
    rw [hr]; exact List.drop_left' (hlen ..)
  have hdrop' : (frozenBytes w).drop 16 = (boundAddrs w).flatMap (fun a => toLeBytes 8 a.toNat) ++ r := by
    rw [show 16 = 8 + 8 from rfl, ← List.drop_drop, hdrop]; exact List.drop_left' (hlen ..)
  refine ⟨?_, ?_, fun k hk => ?_⟩
  · rw [hr]
    simp only [List.length_append, hlen, hdoubles, haddrs]
    omega
  · rw [hdrop, List.take_append_of_le_length (hlen ..).ge, List.take_of_length_le (hlen ..).le, leNum_toLeBytes]; rfl
  · rw [← List.drop_drop, hdrop', take_drop_doubles (by omega), leNum_toLeBytes, Nat.mod_eq_of_lt (b := 256 ^ 8) (BitVec.isLt _)]
    simp only [boundAddrs, List.getElem_map, List.getElem_range]
    cases w.bindOf w.asid k <;> rfl

/-! ### Restores -/

theorem completes_vrestore {f : RFmt} {s u u0 : State} {hd b : List Byte} {p p0 : PvSet} (hal : (s.getS f.sa).toNat % 64 = 0)
    (h : Allowed (.vrestore f) s) (hq : s.hart.queue = []) (hhd : loadArea (s.getS f.sa) 256 s = .ok (hd, p0, u0))
    (hb : loadArea (s.getS f.sa) (areaSize hd.toArray) s = .ok (b, p, u)) :
    let x := u.addCtx (s.getP f.sa)
    Completes (.vrestore f) s (QuietStep (vrestoreHart b.toArray p s.core.level x.hart) x) := by
  intro x
  have hexec : exec (.vrestore f) s = .next (retire (x.mapHart (vrestoreHart b.toArray p s.core.level))) := by
    rw [exec_of_allowed (i := .vrestore f) rfl h]
    simp only [hal, hq, hhd, hb, bne_self_eq_false, List.isEmpty_nil, Bool.not_true, Bool.false_eq_true, if_false]
    rfl
  have hmode : (vrestoreHart b.toArray p s.core.level x.hart).mode = x.hart.mode := by
    unfold vrestoreHart
    dsimp only
    split <;> rfl
  refine ⟨_, hexec, ?_, hartOnly_of_eq rfl hmode⟩
  unfold retire State.mapHart past nextPc
  dsimp only
  unfold vrestoreHart
  dsimp only
  split <;> rfl

theorem putLanes_eq (p : PvSet) (h : Hart) (l : List (Nat × Nat × Nat)) : ∃ v, h.putLanes p l = { h with vec := v } :=
  List.foldlRecOn l _ (motive := fun g : Hart => ∃ v, g = { h with vec := v }) ⟨h.vec, rfl⟩ fun _ hg _ _ => by
    obtain ⟨v, rfl⟩ := hg; exact ⟨_, rfl⟩

/-- The items of a saved frame, as they come back. -/
def SavedFrame.itemsBack (f : SavedFrame) (p : PvSet) : List Item := f.items.map fun it => { it with sp := it.sp.map (· ||| p) }

/-- The matrix words of a saved frame, as they come back to a hart. -/
def SavedFrame.wordsBack (f : SavedFrame) (p : PvSet) (who : HartId) : List MqItem :=
  f.mq.map fun x => { x with who := who, pa := x.pa ||| p }

/-- The items, the matrix words and the resume address of a frame are back. -/
def withFrame (f : SavedFrame) (p : PvSet) (s : State) : State :=
  s.mapHart fun h =>
    { h.putLanes p f.lanes with
      queue := f.itemsBack p, mq := f.wordsBack p s.hart.id, heldSeq := s.jobSeq, resume := f.resume,
      heldBy := if f.resume != 0 || !(f.itemsBack p).isEmpty || !(f.wordsBack p s.hart.id).isEmpty then some s.hart.mode else none }

theorem loadFrame_cases (f : SavedFrame) (p : PvSet) (s : State) : loadFrame f p s =
    if f.resume == 0 then withFrame f p s
    else if s.hart.mode == .hypervisor then
      ((setFr true (withFrame f p s)).mapCsr fun c => { c with htr := { c.htr with pc := f.resume } }).mapHart fun h => h.setCsrPv 0x203 (p ||| h.ctx)
    else ((setFr true (withFrame f p s)).mapCsr fun c => { c with tr := { c.tr with pc := f.resume } }).mapHart fun h => h.setCsrPv 0x102 (p ||| h.ctx) :=
  rfl

/-- A frame that comes back changes the vector side, the queues and control registers, but no progress. -/
theorem loadFrame_eq (f : SavedFrame) (p : PvSet) (s : State) : ∃ (vec : VecFile) (csr : Csrs) (held : Option Mode),
    csr.instret = s.hart.csr.instret ∧ loadFrame f p s = { s with hart :=
      { s.hart with vec := vec, csr := csr, queue := f.itemsBack p, mq := f.wordsBack p s.hart.id, heldBy := held, heldSeq := s.jobSeq,
                    resume := f.resume } } := by
  obtain ⟨v, hv⟩ := putLanes_eq p s.hart f.lanes
  obtain ⟨csr, hin, hcsr⟩ := setFr_eq true (withFrame f p s)
  simp only [loadFrame_cases, hcsr]
  simp only [withFrame, State.mapHart, hv] at hin ⊢
  split
  · exact ⟨_, _, _, rfl, rfl⟩
  · split
    · refine ⟨_, _, _, ?_, rfl⟩
      exact hin
    · refine ⟨_, _, _, ?_, rfl⟩
      exact hin

theorem completes_frload {f : RFmt} {s u : State} {x : SavedFrame} {p : PvSet} (hal : (s.getS f.sa).toNat % 64 = 0) (h : Allowed (.frload f) s)
    (hx : findSaved (s.getS f.sa) (s.savedFrames.filter fun x => x.addrs.isEmpty) s = .ok (some (x, p, u)))
    (hfmt : leNum (x.bytes.take 8) = s.fw.frameFmt.toNat) (hq : s.hart.queue = []) (hmq : s.hart.mq = []) :
    Completes (.frload f) s (fun t => t.hart.queue.map Item.words = x.items.map Item.words ∧ t.hart.mq.map MqItem.word = x.mq.map MqItem.word ∧
      t.hart.resume = x.resume ∧ t.hart.s = u.hart.s ∧ t.mem = u.mem ∧ Passed u t) := by
  have hexec : exec (.frload f) s = .next (retire (loadFrame x p (u.addCtx (s.getP f.sa)))) := by
    rw [exec_of_allowed (i := .frload f) rfl h]
    simp only [hal, hx, hfmt, hq, hmq, bne_self_eq_false, List.isEmpty_nil, Bool.not_true, Bool.or_self, Bool.false_eq_true, if_false]
  obtain ⟨vec, csr, held, hin, heq⟩ := loadFrame_eq x p (u.addCtx (s.getP f.sa))
  rw [heq] at hexec
  refine ⟨_, hexec, ?_, ?_, rfl, rfl, rfl, passed_retire ?_⟩
  · exact (List.map_map ..).trans rfl
  · exact (List.map_map ..).trans rfl
  · simp only [Hart.going, hin]
    rfl

/-- Making room takes images off the core, and nothing else. -/
theorem evictFor_eq (im : RImage) (n : Nat) (s : State) : ∃ r, evictFor im n s = { s with core := { s.core with reef := r } } := by
  induction n generalizing s with
  | zero => exact ⟨s.core.reef, rfl⟩
  | succ n ih =>
    rw [evictFor]
    split
    · exact ⟨s.core.reef, rfl⟩
    · split
      · exact ⟨s.core.reef, rfl⟩
      · obtain ⟨r, hr⟩ := ih _
        exact ⟨r, hr⟩

theorem placeImage_eq (asid slot : Nat) (im : RImage) (s : State) : ∃ r, placeImage asid slot im s = { s with core := { s.core with reef := r } } := by
  unfold placeImage
  dsimp only
  split
  · exact ⟨_, rfl⟩
  · obtain ⟨r, hr⟩ := evictFor_eq im (s.core.reef.placed.length + 1) s
    rw [hr]
    exact ⟨_, rfl⟩

theorem placeImages_eq (l : List RRun) (s : State) :
    ∃ r, l.foldl (fun t r => placeImage r.asid r.slot r.img t) s = { s with core := { s.core with reef := r } } :=
  List.foldlRecOn l _ (motive := fun t : State => ∃ r, t = { s with core := { s.core with reef := r } }) ⟨s.core.reef, rfl⟩ fun _ ht x _ => by
    obtain ⟨r, rfl⟩ := ht
    obtain ⟨q, hq⟩ := placeImage_eq x.asid x.slot x.img { s with core := { s.core with reef := r } }
    exact ⟨q, hq⟩

theorem completes_xthaw {f : RFmt} {s u : State} {x : SavedFrame} {p : PvSet} (hal : (s.getS f.sa).toNat % 64 = 0) (h : Allowed (.xthaw f) s)
    (hx : findSaved (s.getS f.sa) (s.savedFrames.filter fun x => !x.addrs.isEmpty) s = .ok (some (x, p, u)))
    (hfmt : leNum (x.bytes.take 8) = s.fw.freezeFmt.toNat) :
    Completes (.xthaw f) s (fun t => t.hart.s = u.hart.s ∧ t.mem = u.mem ∧ Passed u t ∧
      ∀ r ∈ x.run.toList ++ x.conts, s.stillBound x r = true → ∃ y ∈ t.core.reef.conts, y.asid = r.asid ∧ y.slot = r.slot ∧ y.hart = r.hart) := by
  have hexec := exec_of_allowed (i := .xthaw f) rfl h
  simp only [hal, hx, hfmt, bne_self_eq_false, Bool.false_eq_true, if_false] at hexec
  obtain ⟨q, hq⟩ := placeImages_eq (((x.run.toList ++ x.conts).filter (s.stillBound x)).map (RRun.thaw p)) (u.addCtx (s.getP f.sa))
  rw [hq] at hexec
  refine ⟨_, hexec, rfl, rfl, passed_retire rfl, fun r hr hbound => ⟨r.thaw p, ?_, rfl, rfl, rfl⟩⟩
  exact List.mem_append_left _ (List.mem_map_of_mem (List.mem_filter.mpr ⟨hr, hbound⟩))

/-! ### GATEINST -/

/-- A policy that is installed stands in the table, and nothing else has changed. -/
theorem installPolicy_eq {pol : Policy} {s v w : State} (h : installPolicy pol s = (.ok v, w)) :
    ∃ l, pol ∈ l ∧ v = { s with policies := l } := by
  unfold installPolicy at h
  dsimp only at h
  split at h
  · exact nomatch h
  · split at h
    · injection h with h
      injection h with h
      exact ⟨_, List.mem_append_right _ (List.mem_singleton_self _), h.symm⟩
    · split at h
      · injection h with h
        injection h with h
        exact ⟨_, List.mem_append_right _ (List.mem_singleton_self _), h.symm⟩
      · exact nomatch h

section

variable {f : RFmt} {s u u0 : State} {hd d : List Byte} {p p0 : PvSet} (hal : (s.getS f.sa).toNat % 64 = 0) (h : Allowed (.gateinst f) s)
  (hhd : readParts [(s.getS f.sa, 64)] s = .ok (hd, p0, u0)) (hok : (PolicyDoc.of hd.toArray).ok hd.toArray s.roster = true)
  (hd' : readParts (pageParts 2 (s.getS f.sa) ((PolicyDoc.of hd.toArray).body + 96 * (PolicyDoc.of hd.toArray).nparty)) s = .ok (d, p, u))

include hal h hhd hok hd'

theorem completes_gateinst {pol : Policy} {v w : State} (hpol : checkPolicy d.toArray s = .ok pol) (hin : installPolicy pol u = (.ok v, w)) :
    Completes (.gateinst f) s (fun t => pol ∈ t.policies ∧
      Wrote f.sd (BitVec.ofNat 64 pol.id) (s.getP f.sa ||| p ||| (u.ctx ||| s.getP f.sa)) u t ∧ Passed u t ∧ t.mem = u.mem) := by
  have hexec := exec_of_allowed (i := .gateinst f) rfl h
  simp only [hal, hhd, hok, hd', hpol, hin, bne_self_eq_false, Bool.not_true, Bool.false_eq_true, if_false] at hexec
  obtain ⟨l, hmem, rfl⟩ := installPolicy_eq hin
  have hend := wrote_passed_setS (u := u) (w := ({ u with policies := l } : State).addCtx (s.getP f.sa)) f.sd (BitVec.ofNat 64 pol.id)
    (s.getP f.sa ||| p ||| (u.ctx ||| s.getP f.sa)) rfl rfl rfl
  exact ⟨_, hexec, hmem, hend.1, hend.2, rfl⟩

theorem completes_gateinstRefused {c : Nat} (hpol : checkPolicy d.toArray s = .error c) :
    Completes (.gateinst f) s (ScalarStep f.sd (BitVec.ofNat 64 (2 ^ 63 + c)) (s.getP f.sa ||| p ||| (u.ctx ||| s.getP f.sa))
      (u.ctx ||| s.getP f.sa) u) := by
  have hexec := exec_of_allowed (i := .gateinst f) rfl h
  simp only [hal, hhd, hok, hd', hpol, bne_self_eq_false, Bool.not_true, Bool.false_eq_true, if_false] at hexec
  exact ⟨_, hexec, scalarStep_addCtx ..⟩

end

end Sys2Proof.Machine
end

section
/-! SUPPORT. RESERVE, MIGRATE, TLBINV and PGFREE (R336, R379-R383). -/

namespace Sys2Proof.Machine

open Sys2Proof.Safety

/-! ### Translations dropped -/

/-- Entries go from the current core, where its hart is its own. -/
theorem dropTlb_tlb {bad : TlbEntry → Bool} {s : State} (h : s.core.num = s.hart.core) :
    (dropTlb bad s).core.tlb = s.core.tlb.filter fun e => !bad e := by
  have hmine : ((s.partOfCore s.core.num).map Part.num == s.part.map Part.num) = true := by rw [State.part, h, beq_self_eq_true]
  unfold dropTlb State.mapCores
  simp only [hmine, if_true]

theorem exec_tlbinv {f : RFmt} {s : State} {gone : TlbEntry → Bool} (h : Allowed (.tlbinv f) s) (hlt : (s.getS f.sb).toNat < 2 ^ 32)
    (hzero : (s.getS f.sb).toNat / 4 % 2 ^ 14 = 0) (hkind : (s.getS f.sb).toNat % 4 ≠ 3)
    (hgone : ∀ e, gone e = if (s.getS f.sb).toNat % 4 = 0 then canonical (s.getS f.sa) && decide ((s.getS f.sb).toNat / 65536 < 4096) &&
        (e.asid == (s.getS f.sb).toNat / 65536 || e.flags.getLsbD 5) && e.va / 2 ^ e.bits == vaNum (s.getS f.sa) / 2 ^ e.bits
      else if (s.getS f.sb).toNat % 4 = 1 then e.asid == (s.getS f.sb).toNat / 65536 && !e.flags.getLsbD 5 else true) :
    exec (.tlbinv f) s = .next (if s.entriesUsed gone then waitFor .drain s else retire (dropTlb gone (s.addCtx (s.getP f.sa ||| s.getP f.sb)))) := by
  obtain rfl := funext hgone
  have hhigh : (s.getS f.sb).toNat / 2 ^ 32 = 0 := Nat.div_eq_of_lt hlt
  have hlegal : ((s.getS f.sb).toNat / 2 ^ 32 != 0 || (s.getS f.sb).toNat / 4 % 2 ^ 14 != 0 || (s.getS f.sb).toNat % 4 == 3) = false := by
    rw [hhigh, hzero, beq_eq_false_iff_ne.mpr hkind]; rfl
  have hform := exec_of_allowed (i := .tlbinv f) rfl h
  simp only [hlegal, Bool.false_eq_true, if_false, beq_iff_eq] at hform
  exact hform

theorem completes_tlbinv {f : RFmt} {s : State} {gone : TlbEntry → Bool}
    (hexec : exec (.tlbinv f) s = .next (retire (dropTlb gone (s.addCtx (s.getP f.sa ||| s.getP f.sb))))) (hcore : s.core.num = s.hart.core) :
    Completes (.tlbinv f) s (fun t => t.core.tlb = s.core.tlb.filter (fun e => !gone e) ∧ t.ctx = s.ctx ||| (s.getP f.sa ||| s.getP f.sb) ∧
      t.hart.s = s.hart.s ∧ Passed s t ∧ t.mem = s.mem) :=
  ⟨_, hexec, dropTlb_tlb (s := s.addCtx (s.getP f.sa ||| s.getP f.sb)) hcore, rfl, rfl, passed_retire rfl, rfl⟩

/-! ### PGFREE -/

/-- Unscrubbed frames read as zeros, and every byte outside them reads as before. -/
theorem homeByte_unscrub {s : State} (lo n x : Nat) (hc : MemoryCanonical s) : (unscrub lo n s).homeByte x =
    if lo * 65536 ≤ s.place x ∧ s.place x < lo * 65536 + n * 65536 then 0 else s.homeByte x := by
  have hl : (unscrub lo n s).layout = s.layout := rfl
  have hm : (unscrub lo n s).mem = memErase (lo * 65536) (n * 65536) s.mem := rfl
  rw [State.homeByte, zeroLine_congr hl, place_congr hl, hm, memRead_memErase _ _ _ _ hc, State.homeByte]
  split
  · rw [ite_self]
  · rfl

theorem completes_pgfree {f : RFmt} {s : State} {p : Part} (h : Allowed (.pgfree f) s) (hal : (s.getS f.sa).toNat % 65536 = 0)
    (hp : s.part = some p) (howns : p.owns ((s.getS f.sa).toNat / 65536) (s.getS f.sb).toNat = true) (hc : MemoryCanonical s) :
    let a := s.getS f.sa
    let n := (s.getS f.sb).toNat
    Completes (.pgfree f) s (fun t => (∀ x, a.toNat ≤ s.place x → s.place x < a.toNat + n * 65536 → t.homeByte x = 0) ∧
      (∀ x, (s.place x < a.toNat ∨ a.toNat + n * 65536 ≤ s.place x) → t.homeByte x = s.homeByte x) ∧ (a.toNat / 65536, n) ∈ t.unscrubbed ∧
      t.ctx = s.ctx ||| (s.getP f.sa ||| s.getP f.sb) ∧ t.hart.s = s.hart.s ∧ Passed s t) := by
  intro a n
  have hform := exec_of_allowed (i := .pgfree f) rfl h
  simp only [hal, hp, howns, bne_self_eq_false, Bool.not_true, Bool.false_eq_true, if_false] at hform
  have hlo : a.toNat / 65536 * 65536 = a.toNat := Nat.div_mul_cancel (Nat.dvd_of_mod_eq_zero hal)
  have hbyte (x : Nat) : (retire (strikeSectors (fun x => a.toNat / 65536 <= x / 2048 && x / 2048 < a.toNat / 65536 + n) pvEmpty
      (unscrub (a.toNat / 65536) n (s.addCtx (s.getP f.sa ||| s.getP f.sb))))).homeByte x =
        if a.toNat ≤ s.place x ∧ s.place x < a.toNat + n * 65536 then 0 else s.homeByte x := by
    have hfreed := homeByte_unscrub (s := s.addCtx (s.getP f.sa ||| s.getP f.sb)) (a.toNat / 65536) n x hc
    rw [hlo] at hfreed
    exact hfreed
  exact ⟨_, hform, fun x h1 h2 => (hbyte x).trans (if_pos ⟨h1, h2⟩), fun x hx => (hbyte x).trans (if_neg (by omega)), List.mem_cons_self, rfl, rfl,
    passed_retire rfl⟩

/-! ### RESERVE -/

theorem length_filter_or {α : Type} (p q : α → Bool) (l : List α) (h : ∀ x ∈ l, p x = true → q x = false) :
    (l.filter fun x => p x || q x).length = (l.filter p).length + (l.filter q).length := by
  rw [← List.countP_eq_length_filter, ← List.countP_eq_length_filter, ← List.countP_eq_length_filter]
  induction l with
  | nil => rfl
  | cons x l ih =>
    have hrest := ih fun y hy => h y (List.mem_cons_of_mem _ hy)
    have hx := h x List.mem_cons_self
    simp only [List.countP_cons, hrest]
    cases hp : p x with
    | true => simp only [hx hp, Bool.or_false, if_true, Bool.false_eq_true, if_false]; omega
    | false => simp only [Bool.false_or, Bool.false_eq_true, if_false]; omega

/-- Those of a list of distinct elements that stand in a part of it. -/
theorem length_filter_contains {α : Type} [BEq α] [LawfulBEq α] {l m : List α} (hl : l.Nodup) (h : m.Sublist l) :
    (l.filter fun x => m.contains x).length = m.length := by
  refine ((List.perm_ext_iff_of_nodup (hl.filter _) (hl.sublist h)).mpr fun x => ?_).length_eq
  rw [List.mem_filter, List.contains_iff_mem]
  exact ⟨fun hx => hx.2, fun hx => ⟨h.subset hx, hx⟩⟩

/-- What a list of distinct elements keeps without its tail. -/
theorem filter_not_drop {α : Type} [BEq α] [LawfulBEq α] {l : List α} (hl : l.Nodup) (n : Nat) :
    (l.filter fun x => !(l.drop n).contains x) = l.take n := by
  have hparts := List.take_append_drop n l
  have hapart : ∀ x ∈ l.take n, x ∉ l.drop n := fun x hx hd => (List.nodup_append'.mp (hparts.symm ▸ hl)).2.2 hx hd
  refine (congrArg (List.filter fun x => !(l.drop n).contains x) hparts.symm).trans ?_
  rw [List.filter_append, List.filter_eq_self.mpr fun x hx => by simpa using hapart x hx, List.filter_eq_nil_iff.mpr fun x hx => by simpa using hx,
    List.append_nil]

end Sys2Proof.Machine
end

section
/-! SUPPORT. RESERVE: the slots that a partition gains and gives up (R332, R379). -/

namespace Sys2Proof.Machine

open Sys2Proof.Safety

/-- The slots of a die that no partition holds. -/
def State.freeSlots (s : State) (die : Nat) : List Nat := (List.range 12).filter fun k => s.slots.all fun x => !(x.die == die && x.slot == k)

/-- The end of RESERVE: the register has the slots held, and a mark where the request failed. -/
def reserveEnd (f : RFmt) (die part : Nat) (ok : Bool) (t : State) : State :=
  retire (t.setS f.sd (BitVec.ofNat 64 ((t.slotsOf die part).foldl (fun w k => w + 2 ^ k) 0 + if ok then 0 else 2 ^ 63)) t.ctx)

/-- What RESERVE answers, and what it leaves alone. -/
def ReserveGives (f : RFmt) (die part : Nat) (ok : Bool) (c : PvSet) (s t : State) : Prop :=
  Wrote f.sd (BitVec.ofNat 64 ((t.slotsOf die part).foldl (fun w k => w + 2 ^ k) 0 + if ok then 0 else 2 ^ 63)) c s t ∧ Passed s t ∧ t.ctx = c ∧
    t.mem = s.mem

theorem reserveEnd_gives {f : RFmt} {die part : Nat} {ok : Bool} {c : PvSet} {s t : State} (hh : t.hart = { s.hart with ctx := s.ctx ||| c })
    (hm : t.mem = s.mem) : ReserveGives f die part ok (s.ctx ||| c) s (reserveEnd f die part ok t) := by
  have hctx : t.ctx = s.ctx ||| c := congrArg Hart.ctx hh
  obtain ⟨hwrote, hpassed⟩ := wrote_passed_setS (u := s) (w := t) f.sd
    (BitVec.ofNat 64 ((t.slotsOf die part).foldl (fun w k => w + 2 ^ k) 0 + if ok then 0 else 2 ^ 63)) t.ctx (by rw [hh]) (by rw [hh])
    (by rw [hh]; rfl)
  rw [← hctx]
  exact ⟨hwrote, hpassed, Hart.setS_ctx .., hm⟩

theorem nodup_slotsOf (s : State) (die part : Nat) : (s.slotsOf die part).Nodup := List.nodup_range.filter _

/-- Free slots that a partition takes join those that it holds. -/
theorem length_slotsOf_taken (s : State) (die part m : Nat) (hm : m ≤ (s.freeSlots die).length) :
    (({ s with slots := s.slots ++ ((s.freeSlots die).take m).map fun k => ⟨die, k, part⟩ } : State).slotsOf die part).length =
      (s.slotsOf die part).length + m := by
  have hor : (({ s with slots := s.slots ++ ((s.freeSlots die).take m).map fun k => ⟨die, k, part⟩ } : State).slotsOf die part) =
      (List.range 12).filter fun k => (s.slots.any fun x => x.die == die && x.slot == k && x.part == part) || ((s.freeSlots die).take m).contains k := by
    refine List.filter_congr fun k _ => ?_
    rw [List.any_append, List.any_map]
    congr 1
    rw [Bool.eq_iff_iff, List.any_eq_true, List.contains_iff_mem]
    simp
  have htaken : ((s.freeSlots die).take m).Sublist (List.range 12) := (List.take_sublist ..).trans List.filter_sublist
  rw [hor, length_filter_or _ _ _ fun k _ hheld => ?_, length_filter_contains List.nodup_range htaken, List.length_take, Nat.min_eq_left hm]
  · rfl
  · rw [Bool.eq_false_iff]
    intro hfree
    obtain ⟨x, hx, hxk⟩ := List.any_eq_true.mp hheld
    have hnone := (List.mem_filter.mp (List.mem_of_mem_take (List.contains_iff_mem.mp hfree))).2
    have hnot := List.all_eq_true.mp hnone x hx
    simp only [Bool.and_eq_true] at hxk
    rw [hxk.1.1, hxk.1.2] at hnot
    exact absurd hnot (by decide)

/-- A partition that gives slots up keeps the others. -/
theorem slotsOf_giveUp (s : State) (die : Nat) (l : List Nat) :
    (giveUp die l s).slotsOf die s.partNum = (s.slotsOf die s.partNum).filter fun k => !l.contains k := by
  have hslots : (giveUp die l s).slots = s.slots.filter fun x => !(x.die == die && x.part == s.partNum && l.contains x.slot) := rfl
  unfold State.slotsOf
  rw [List.filter_filter]
  refine List.filter_congr fun k _ => ?_
  rw [hslots, Bool.eq_iff_iff, Bool.and_eq_true, List.any_eq_true, List.any_eq_true]
  simp only [List.mem_filter, Bool.and_eq_true, beq_iff_eq, Bool.not_eq_true', Bool.and_eq_false_iff, beq_eq_false_iff_ne]
  constructor
  · rintro ⟨x, ⟨hx, hkept⟩, ⟨hdie, hslot⟩, hpart⟩
    rw [← hslot]
    exact ⟨hkept.resolve_left fun hne => hne.elim (· hdie) (· hpart), x, hx, ⟨hdie, rfl⟩, hpart⟩
  · rintro ⟨hkept, x, hx, ⟨hdie, hslot⟩, hpart⟩
    exact ⟨x, ⟨hx, .inr (hslot ▸ hkept)⟩, ⟨hdie, hslot⟩, hpart⟩

/-- Frames without HELD lines, none of which another hart holds back, need no backing. -/
theorem spillFrames_of_released {l : List TideFrame} {s : State} (h : ∀ x ∈ l, x.held = 0 ∧ s.frameBusy (x.frame * 65536) = false) :
    spillFrames l s = .ok s := by
  induction l with
  | nil => rfl
  | cons x l ih =>
    obtain ⟨hheld, hbusy⟩ := h x List.mem_cons_self
    rw [spillFrames]
    simp only [hbusy, hheld, beq_self_eq_true, Bool.or_true, Bool.false_eq_true, if_false, if_true]
    exact ih fun y hy => h y (List.mem_cons_of_mem _ hy)

section

variable {f : RFmt} {s : State} (h : Allowed (.reserve f) s) (hdie : (s.getS f.sa).toNat < 8) (hn : (s.getS f.sb).toNat ≤ 12)

include h hdie hn

theorem exec_reserve :
    let die := (s.getS f.sa).toNat
    let n := (s.getS f.sb).toNat
    let held := s.slotsOf die s.partNum
    let t := s.addCtx (s.getP f.sa ||| s.getP f.sb)
    (held.length ≤ n → n - held.length ≤ (s.freeSlots die).length → exec (.reserve f) s = .next (reserveEnd f die s.partNum true
      { t with slots := t.slots ++ ((s.freeSlots die).take (n - held.length)).map fun k => ⟨die, k, s.partNum⟩ })) ∧
    (held.length ≤ n → (s.freeSlots die).length < n - held.length → exec (.reserve f) s = .next (reserveEnd f die s.partNum false t)) ∧
    (n < held.length → (s.tide.filter fun x => s.frameIn die (held.drop n) x.frame).any TideFrame.elastic = false →
      (s.inFlight fun a k => s.inTide a && s.frameIn die (held.drop n) (a / 65536) && k != 0) = false →
      spillFrames (s.tide.filter fun x => s.frameIn die (held.drop n) x.frame) t = .ok t →
      exec (.reserve f) s = .next (reserveEnd f die s.partNum true (giveUp die (held.drop n) t))) := by
  have hlegal : (decide (8 ≤ (s.getS f.sa).toNat) || decide (12 < (s.getS f.sb).toNat)) = false := by simp; omega
  have hform := exec_of_allowed (i := .reserve f) rfl h
  simp only [hlegal, Bool.false_eq_true, if_false] at hform
  refine ⟨fun hle hroom => ?_, fun hle hroom => ?_, fun hlt helastic hflight hspill => ?_⟩
  · rw [State.freeSlots] at hroom
    rw [hform, if_pos hle, if_neg (Nat.not_lt.mpr hroom)]
    rfl
  · rw [State.freeSlots] at hroom
    rw [hform, if_pos hle, if_pos hroom]
    rfl
  · simp only [if_neg (Nat.not_le.mpr hlt), helastic, hflight, hspill, Bool.false_eq_true, if_false] at hform
    exact hform

end

end Sys2Proof.Machine
end

section
/-! SUPPORT. MIGRATE: the frame that moves, and the leaf entry that is redirected (R335, R380). -/

namespace Sys2Proof.Machine

open Sys2Proof.Safety

/-- What a completion is told by: the registers, ctx and the progress of a hart. -/
def Hart.regs (h : Hart) : Vector Word 32 × Vector PvSet 32 × VecFile × PvSet × Bool × Word × Word × Mode × Nat × Nat :=
  (h.s, h.sp, h.vec, h.ctx, h.going)

theorem regs_of_bare {g h : Hart} (e : g.bare = h.bare) : g.regs = h.regs := by
  have hrest := congrArg (fun x : Hart => (x.s, x.sp, x.vec, x.ctx)) e
  simp only [Hart.bare, Prod.mk.injEq] at hrest
  simp only [Hart.regs, going_of_bare e, hrest]

/-- A spill frame goes back to its pool by writes at their homes. -/
theorem returnSpill_spec (p : Option Part) (f : Nat) {s : State} (hc : memWf s.mem = true) :
    (returnSpill p f s).pkg = s.pkg ∧ memWf (returnSpill p f s).mem = true ∧ (returnSpill p f s).hart.bare = s.hart.bare := by
  have hpkg (a : Nat) (b : List Byte) (u : State) : (storeHome a b pvEmpty u).pkg = u.pkg := congrArg (·.pkg) (storeHome_apart a b pvEmpty u)
  have hbare (a : Nat) (b : List Byte) (u : State) : (storeHome a b pvEmpty u).hart.bare = u.hart.bare :=
    congrArg Kept.hart (storeHome_kept a b pvEmpty u)
  unfold returnSpill
  split
  · exact ⟨rfl, hc, rfl⟩
  · dsimp only
    split
    · exact ⟨rfl, hc, rfl⟩
    · exact ⟨(hpkg ..).trans (hpkg ..), storeHome_memWf _ _ _ _ (storeHome_memWf _ _ _ _ hc), (hbare ..).trans (hbare ..)⟩

/-- The first part of a move: the entries that watch either frame are struck, the poison marks move, and a spill frame goes back. -/
def vacated (from_ dst : Nat) (s : State) : State :=
  let wf := s.provAt (from_ * 65536)
  let u := strikeSectors (fun x => x / 2048 == wf.frame) wf.cur
    (strikeSectors (fun x => x / 2048 == dst) ((s.provAt (dst * 65536)).cur ||| wf.cur) s)
  match (s.tideAt from_).state with
  | .backed f => returnSpill u.part f (movePoison f dst u)
  | _ => movePoison from_ dst u

/-- The second part: the frames' records, copies and owners, and the bytes at their new place. -/
def landed (from_ dst : Nat) (s v : State) : State :=
  let old := (s.provAt (from_ * 65536)).frame
  let v := v.setTide { s.tideAt from_ with state := .resident, held := 0, zmap := 0, chan := none, backer := none }
  let v := v.setTide { s.tideAt dst with state := .resident, held := 0, zmap := 0, backer := none }
  let v := v.mapCores fun c => { c with copies := c.copies.filter fun k => k.line / 512 != old && k.line / 512 != dst }
  let v := endOwners (fun x => x / 2048 == old || x / 2048 == dst) v
  { v with mem := memWriteList (dst * 65536) (s.frameBytes from_) (memErase (from_ * 65536) 65536 v.mem) }

/-- The record of the new frame takes over that of the old one. -/
def recordOf (t n : TideFrame) : TideFrame :=
  { n with
    held := (match t.state with | .backed _ => (List.range 512).foldl (fun h j => if t.zmap.testBit j then h else h + 2 ^ j) 0 | _ => t.held)
    gen := t.gen, d := t.d, pol := t.pol, task := t.task, first := t.first, chan := t.chan }

/-- The first two parts, with the record of the new frame. -/
def settled (from_ dst : Nat) (s v : State) : State :=
  (landed from_ dst s v).setTide (recordOf (s.tideAt from_) ((landed from_ dst s v).tideAt dst))

/-- The last part: the word of the frame, and the accesses and rings that named it. -/
def renamed (from_ dst : Nat) (s v : State) : State :=
  let wf := s.provAt (from_ * 65536)
  let cur := (s.provAt (dst * 65536)).cur ||| wf.cur
  let v := (v.setProv ⟨dst, wf.ceil ||| cur, cur⟩).mapPlaces fun a => if a / 65536 == from_ then dst * 65536 + a % 65536 else a
  { v with chans := v.chans.map fun c => { c with ringFrames := c.ringFrames.map fun x => if x == from_ then dst else x } }

theorem renamed_same (from_ dst : Nat) (s v : State) : (renamed from_ dst s v).mem = v.mem ∧ (renamed from_ dst s v).pkg = v.pkg ∧
    (renamed from_ dst s v).tide = v.tide ∧ (renamed from_ dst s v).hart.regs = v.hart.regs := ⟨rfl, rfl, rfl, rfl⟩

theorem moveFrame_eq {from_ dst : Nat} {s : State} (h : from_ ≠ dst) :
    moveFrame from_ dst s = renamed from_ dst s (settled from_ dst s (vacated from_ dst s)) := by
  unfold moveFrame
  rw [if_neg (by simpa using h)]
  rfl

theorem vacated_spec (from_ dst : Nat) {s : State} (hc : memWf s.mem = true) :
    (vacated from_ dst s).pkg = s.pkg ∧ memWf (vacated from_ dst s).mem = true ∧ (vacated from_ dst s).hart.bare = s.hart.bare := by
  unfold vacated
  dsimp only
  split
  · exact returnSpill_spec _ _ hc
  · exact ⟨rfl, hc, rfl⟩

theorem landed_spec (from_ dst : Nat) (s v : State) :
    (landed from_ dst s v).mem = memWriteList (dst * 65536) (s.frameBytes from_) (memErase (from_ * 65536) 65536 v.mem) ∧
      (landed from_ dst s v).pkg = v.pkg ∧ ((landed from_ dst s v).tideAt dst).state = .resident ∧ (landed from_ dst s v).hart = v.hart := by
  refine ⟨?_, rfl, ?_, rfl⟩
  · simp only [landed, setTide_mem, endOwners, State.mapCores]
  · have hrecord := tideAt_setTide_of_frame (v.setTide { s.tideAt from_ with state := .resident, held := 0, zmap := 0, chan := none, backer := none })
      (t := { s.tideAt dst with state := .resident, held := 0, zmap := 0, backer := none }) (tideAt_frame s dst)
    exact congrArg TideFrame.state hrecord

theorem settled_spec (from_ dst : Nat) (s v : State) :
    (settled from_ dst s v).mem = memWriteList (dst * 65536) (s.frameBytes from_) (memErase (from_ * 65536) 65536 v.mem) ∧
      (settled from_ dst s v).pkg = v.pkg ∧ ((settled from_ dst s v).tideAt dst).state = .resident ∧
      ((settled from_ dst s v).tideAt dst).gen = (s.tideAt from_).gen ∧ (settled from_ dst s v).hart = v.hart := by
  obtain ⟨hm, hp, hstate, hh⟩ := landed_spec from_ dst s v
  have hrecord : (settled from_ dst s v).tideAt dst = recordOf (s.tideAt from_) ((landed from_ dst s v).tideAt dst) :=
    tideAt_setTide_of_frame _ (tideAt_frame (landed from_ dst s v) dst)
  rw [hrecord]
  exact ⟨(setTide_mem ..).trans hm, hp, hstate, rfl, hh⟩

/-- A page that moves to another frame: its bytes stand there from now on, in a resident frame of its generation. -/
theorem moveFrame_spec {from_ dst : Nat} {s : State} (h : from_ ≠ dst) (hc : memWf s.mem = true) :
    (∃ m, memWf m = true ∧ (moveFrame from_ dst s).mem = memWriteList (dst * 65536) (s.frameBytes from_) m) ∧
      (moveFrame from_ dst s).pkg = s.pkg ∧ ((moveFrame from_ dst s).tideAt dst).state = .resident ∧
      ((moveFrame from_ dst s).tideAt dst).gen = (s.tideAt from_).gen ∧ (moveFrame from_ dst s).hart.regs = s.hart.regs := by
  obtain ⟨hpkg, hmem, hbare⟩ := vacated_spec from_ dst hc
  obtain ⟨hbytes, hpkg', hstate, hgen, hhart⟩ := settled_spec from_ dst s (vacated from_ dst s)
  obtain ⟨hm, hp, ht, hr⟩ := renamed_same from_ dst s (settled from_ dst s (vacated from_ dst s))
  have htide : (renamed from_ dst s (settled from_ dst s (vacated from_ dst s))).tideAt dst =
      (settled from_ dst s (vacated from_ dst s)).tideAt dst := by rw [State.tideAt, ht]; rfl
  rw [moveFrame_eq h, hm, hp, htide, hr, hhart]
  exact ⟨⟨_, memWf_memErase _ _ _ hmem, hbytes⟩, hpkg'.trans hpkg, hstate, hgen, regs_of_bare hbare⟩

/-- A write outside the tidepool changes no frame's record. -/
theorem storeHome_tide {pa : Nat} (b : List Byte) (p : PvSet) {s : State} (h : s.inTide pa = false) : (storeHome pa b p s).tide = s.tide := by
  have ha : Unredirected pa s := .inl h
  have hgrow (a : Nat) (q : PvSet) (u : State) : (growCur a q u).tide = u.tide := by
    unfold growCur
    dsimp only
    split
    · rfl
    · split <;> rfl
  have hgrown : (s.grownHome pa b.length p).tide = s.tide :=
    grownHome_same State.tide (fun a u => by rw [startClear_eq]) hgrow (fun _ _ => rfl) s pa b.length p
  have hnone : (s.grownHome pa b.length p).inTide pa = false :=
    (inTide_congr (grownHome_same State.layout startClear_layout growCur_layout (homeSector_layout none) s pa b.length p) pa).trans h
  have hwake (w : Option HartId) (line : Nat) (u : State) : (wakeLine w line u).tide = u.tide := rfl
  have hland (l : List Byte) (a : Nat) (u : State) : (landBytes a l u).tide = u.tide := by
    induction l generalizing a u with
    | nil => rfl
    | cons v l ih => exact ih (a + 1) _
  rw [storeHome_eq, unzero_of_unredirected ha, place_of_unredirected ha, forRange_same State.tide _ (hwake none), holdLines, if_neg (by simp [hnone])]
  exact (hland ..).trans hgrown

/-- The page has moved, and its leaf entry names the new frame. -/
def migrated (from_ dst at_ pte : Nat) (s : State) : State :=
  storeHome at_ (toLeBytes 8 (setBitsAt pte 16 36 dst)) pvEmpty (moveFrame from_ dst s)

theorem migrated_spec {from_ dst at_ pte : Nat} {s : State} (h : from_ ≠ dst) (hc : MemoryCanonical s) (hdst : s.inTide (dst * 65536) = true)
    (hat : s.inTide at_ = false) (hal : at_ % 8 = 0) :
    (∀ k < 65536, (migrated from_ dst at_ pte s).homeByte (dst * 65536 + k) = s.homeByte (from_ * 65536 + k)) ∧
      (migrated from_ dst at_ pte s).homeNum at_ 8 = setBitsAt pte 16 36 dst % 2 ^ 64 ∧
      ((migrated from_ dst at_ pte s).tideAt dst).gen = (s.tideAt from_).gen ∧ (migrated from_ dst at_ pte s).hart.regs = s.hart.regs := by
  obtain ⟨⟨m, hm, hbytes⟩, hpkg, hstate, hgen, hregs⟩ := moveFrame_spec h hc
  have hin (a : Nat) : (moveFrame from_ dst s).inTide a = s.inTide a := by rw [State.inTide, hpkg]; rfl
  have hcanonical : MemoryCanonical (moveFrame from_ dst s) := by rw [MemoryCanonical, hbytes]; exact memWf_memWriteList _ _ _ hm
  have hentry : Unredirected at_ (moveFrame from_ dst s) := .inl ((hin at_).trans hat)
  have hwithin : at_ % 65536 + 8 ≤ 65536 := run_within (by decide) hal
  obtain ⟨hstored, houtside⟩ := bytesStored_storeHome_toLeBytes (setBitsAt pte 16 36 dst) pvEmpty hentry hwithin hcanonical
  have hframe : at_ / 65536 ≠ dst := fun he => by
    have hsame := inTide_of_frame (a := at_) (b := dst * 65536) s (by omega)
    rw [hat, hdst] at hsame
    exact Bool.false_ne_true hsame
  refine ⟨fun k hk => ?_, homeNum_of_bytes hstored, ?_, ?_⟩
  · have hplain : Unredirected (dst * 65536 + k) (moveFrame from_ dst s) := .inr fun f => by
      rw [show (dst * 65536 + k) / 65536 = dst by omega, hstate]; exact nofun
    have hlen : (s.frameBytes from_).length = 65536 := by rw [State.frameBytes, List.length_map, List.length_range]
    have hread := memRead_memWriteList (dst * 65536) k (s.frameBytes from_) m hm (by rw [hlen]; exact hk)
    refine (houtside _ ?_).trans ?_
    · rw [place_of_unredirected hplain, place_of_unredirected hentry]
      omega
    · rw [homeByte_of_unredirected hplain, hbytes, hread]
      simp only [State.frameBytes, List.getElem_map, List.getElem_range]
  · rw [migrated, State.tideAt, storeHome_tide _ _ ((hin at_).trans hat)]
    exact hgen
  · exact (regs_of_bare (congrArg Kept.hart (storeHome_kept ..))).trans hregs

theorem completes_migrate {f : RFmt} {s : State} {l : Leaf} {pa : Nat} (h : Allowed (.migrate f) s) (hcanon : canonical (s.getS f.sa) = true)
    (hwalk : s.walkFrom (vaNum (s.getS f.sa)) 4 (rootOf s.hart.csr.ptroot) = .ok l) (hd : l.pte.testBit 9 = true)
    (hpa : pa = bitsAt l.pte 16 36 * 65536) (hslot : s.slotOk (s.part.map Part.num) pa = true) (hin : s.inTide (s.getS f.sb).toNat = true)
    (hex : s.paExists (s.getS f.sb).toNat = true)
    (hheld : (s.slotsOf (dieOfTide (paLocal (s.getS f.sb).toNat)) s.partNum).contains ((s.getS f.sb).toNat / 65536 % 65536 / 160) = true)
    (hbusy : s.frameBusy pa = false) (hbusy' : s.frameBusy (s.getS f.sb).toNat = false)
    (helastic : (s.tideAt ((s.getS f.sb).toNat / 65536)).elastic = false) (hne : pa / 65536 ≠ (s.getS f.sb).toNat / 65536)
    (hat : s.inTide l.at_ = false) (hal : l.at_ % 8 = 0) (hc : MemoryCanonical s) :
    let dst := (s.getS f.sb).toNat
    Completes (.migrate f) s (fun t => (∀ k < 65536, t.homeByte (dst / 65536 * 65536 + k) = s.homeByte (pa + k)) ∧
      t.homeNum l.at_ 8 = setBitsAt l.pte 16 36 (dst / 65536) % 2 ^ 64 ∧ (t.tideAt (dst / 65536)).gen = (s.tideAt (pa / 65536)).gen ∧
      t.ctx = s.ctx ||| (s.getP f.sa ||| s.getP f.sb) ∧ t.hart.s = s.hart.s ∧ t.hart.vec = s.hart.vec ∧ Passed s t) := by
  intro dst
  have hform := exec_of_allowed (i := .migrate f) rfl h
  simp only [hcanon, hwalk, hd, ← hpa, hslot, hin, hex, hheld, hbusy, hbusy', helastic, Bool.not_true, Bool.and_self, Bool.or_self,
    Bool.false_eq_true, if_false] at hform
  have hframe : pa / 65536 * 65536 = pa := by omega
  have hdst : s.inTide (dst / 65536 * 65536) = true := (inTide_of_frame s (by omega)).trans hin
  obtain ⟨hbytes, hnum, hgen, hregs⟩ := migrated_spec (pte := l.pte) (s := s.addCtx (s.getP f.sa ||| s.getP f.sb)) hne hc hdst hat hal
  rw [hframe] at hbytes
  simp only [Hart.regs, Prod.mk.injEq] at hregs
  obtain ⟨hs, -, hvec, hctx, hgoing⟩ := hregs
  refine ⟨_, hform, hbytes, hnum, hgen, hctx, hs, hvec, passed_retire hgoing⟩

end Sys2Proof.Machine
end

section
open Sys2Proof Sys2Proof.Machine Sys2Proof.Safety

/-- Settles O54: the forms that save by the one end of a save, those that restore by the state that they put back, RESERVE by its slots,
MIGRATE by the move and the write of its leaf entry, TLBINV and PGFREE by what they drop. -/
theorem supervisorFormsComplete : Obligations.SupervisorFormsComplete := by
  intro f s u a n sp both saves
  refine ⟨fun hal => ⟨?vsave, ⟨frameBytesOf s, length_frameBytesOf s, ?frsave⟩, ?xfreeze,
      fun hd p0 u0 b p h hq hhd hb => completes_vrestore hal h hq hhd hb, fun x p h hx hfmt hq hmq => completes_frload hal h hx hfmt hq hmq,
      fun x p h hx hfmt => completes_xthaw hal h hx hfmt, ?gateinst⟩, ?reserve, ?migrate, ?tlbinv, fun p h hal hp howns hc =>
      completes_pgfree h hal hp howns hc⟩
  case vsave =>
    intro hq l h hl hw hc hp
    refine completes_saveArea (exec_vsave h hq) hl hw hc hp (fun v _ => afterSave_refl v) fun v hv r => ?_
    obtain ⟨-, -, -, -, -, hvec, -, -⟩ := hartFields_of_kept hv
    exact (Hart.setS_vec ..).trans hvec
  case frsave =>
    intro l h hl hw hc hp
    refine completes_saveArea (exec_frsave h) hl hw hc hp (fun v _ => afterSave_dropFrameItems ..) fun v _ r => ?_
    obtain ⟨hq, hmq, hheld, hsaved⟩ := frameSaved_after v (v.freeCtr + 1) (savedFrameOf s) f.sd r
      (dropFrameItems { v with freeCtr := v.freeCtr + 1, savedFrames := v.savedFrames ++ [savedFrameOf s] }).ctx
    exact ⟨hq, hmq, hheld, savedFrameOf s, hsaved, rfl, rfl, rfl⟩
  case xfreeze =>
    intro mine w
    have hw : frozenFrom s = w := rfl
    refine ⟨fun hmine hwaits h => ?_, fun hready => ?_⟩
    · rw [exec_xfreeze h, hw, hwaits, show s.core.reef.run.any (fun r => r.asid == s.asid) = true from hmine]
      rfl
    · obtain ⟨hlen, hasid, haddrs⟩ := frozenBytes_spec w
      refine ⟨frozenBytes w, frozenPv w, hlen, hasid, haddrs, fun l h hl hwrite hc hp => ?_⟩
      have hopen : (s.core.reef.run.any (fun r => r.asid == s.asid) && (frozenFrom s).runWaits) = false :=
        Bool.and_eq_false_imp.mpr hready
      have hexec := exec_xfreeze h
      rw [hopen, if_neg Bool.false_ne_true] at hexec
      refine completes_saveArea hexec hl hwrite hc hp (fun v _ => ⟨rfl, rfl, rfl, rfl, fun _ => rfl⟩) fun v _ r => ?_
      refine ⟨fun x hx => ?_, fun x hx => ?_, frozenFrameOf w, List.mem_append_right _ (List.mem_singleton_self _), rfl, rfl⟩
      · exact bne_iff_ne.mp (List.mem_filter.mp hx).2
      · exact bne_iff_ne.mp (List.mem_filter.mp hx).2
  case gateinst =>
    intro hd p0 u0 d p pol v w h hhd doc hdoc hd'
    exact ⟨fun hpol hin => completes_gateinst hal h hhd hdoc hd' hpol hin, fun c hpol => completes_gateinstRefused hal h hhd hdoc hd' hpol⟩
  case reserve =>
    intro held free gives h hdie hn
    obtain ⟨htakes, hfails, hgives⟩ := exec_reserve h hdie hn
    refine ⟨fun hle hroom => ?_, fun hle hroom => ?_, fun hlt hflight htide => ?_⟩
    · have hlen := length_slotsOf_taken s a.toNat s.partNum (n - held.length) hroom
      refine ⟨_, htakes hle hroom, reserveEnd_gives rfl rfl, hlen.trans (Nat.add_sub_cancel' hle), fun x hx => List.mem_append_left _ hx⟩
    · exact ⟨_, hfails hle hroom, reserveEnd_gives rfl rfl, rfl⟩
    · refine ⟨_, hgives hlt ?_ hflight ?_, reserveEnd_gives rfl rfl, ?_⟩
      · rw [List.any_eq_false]
        exact fun x hx => by simp [(htide x (List.mem_filter.mp hx).1).2.1]
      · exact spillFrames_of_released fun x hx => let ⟨hheld, _, hbusy⟩ := htide x (List.mem_filter.mp hx).1; ⟨hheld, hbusy⟩
      · exact (slotsOf_giveUp (s.addCtx (s.getP f.sa ||| s.getP f.sb)) a.toNat (held.drop n)).trans (filter_not_drop (nodup_slotsOf ..) n)
  case migrate =>
    intro l pa dst frame h hcanon hwalk hd hpa hslot hin hex hheld hbusy hbusy' helastic hne hat hal hc
    exact completes_migrate h hcanon hwalk hd hpa hslot hin hex hheld hbusy hbusy' helastic hne hat hal hc
  case tlbinv =>
    intro h hlt hzero hkind hcore gone
    have hexec := exec_tlbinv (gone := gone) h hlt hzero hkind fun e => rfl
    refine ⟨fun hused => ?_, fun hused => ?_⟩
    · rw [hexec, if_pos hused]
    · rw [hused] at hexec
      exact completes_tlbinv hexec hcore

end

section
/-! SUPPORT. What is the same throughout a frame, and the clears that the reads of a range start (R320, R336, R434). -/

namespace Sys2Proof.Machine

open Sys2Proof.Safety

/-! ### Frames -/

/-- The frames that a range meets are those of its bytes. -/
theorem mem_units_iff (a n x : Nat) :
    ((units 65536 a n).1 ≤ x ∧ x < (units 65536 a n).1 + (units 65536 a n).2) ↔ ∃ b, a ≤ b ∧ b < a + n ∧ x = b / 65536 := by
  have heq : units 65536 a n = if n = 0 then (a / 65536, 0) else (a / 65536, (a + n - 1) / 65536 - a / 65536 + 1) := by simp [units]
  rw [heq]
  split
  · exact ⟨fun h => by simp at h; omega, fun ⟨b, h⟩ => by omega⟩
  · refine ⟨fun h => ⟨max a (x * 65536), ?_⟩, fun ⟨b, h⟩ => ?_⟩ <;> dsimp only at * <;> omega

/-- What holds of every frame that a range meets. -/
theorem forall_units_iff (a n : Nat) (P : Nat → Prop) :
    (∀ k < (units 65536 a n).2, P ((units 65536 a n).1 + k)) ↔ ∀ b, a ≤ b ∧ b < a + n → P (b / 65536) := by
  refine ⟨fun h b hb => ?_, fun h k hk => ?_⟩
  · obtain ⟨hlo, hhi⟩ := (mem_units_iff a n (b / 65536)).mpr ⟨b, hb.1, hb.2, rfl⟩
    have hk := h (b / 65536 - (units 65536 a n).1) (by omega)
    rwa [Nat.add_sub_cancel' hlo] at hk
  · obtain ⟨b, hlo, hhi, hx⟩ := (mem_units_iff a n ((units 65536 a n).1 + k)).mp ⟨by omega, by omega⟩
    rw [hx]
    exact h b ⟨hlo, hhi⟩

section

variable {a b : Nat} (s : State) (h : a / 65536 = b / 65536)
include h

/-- The bytes of a frame lie in one frame. -/
theorem place_of_frame : s.place a / 65536 = s.place b / 65536 := by
  unfold State.place
  rw [inTide_of_frame s h, h]
  split
  · split <;> omega
  · exact h

theorem inHost_of_frame : s.inHost a = s.inHost b := by
  have hhost (x : Nat) : spaceOf x = .host ↔ 0x40000000000 ≤ x ∧ x < 0x60000000000 := by
    unfold spaceOf
    split_ifs <;> simp only [false_iff, true_iff] <;> omega
  unfold State.inHost
  rw [Bool.eq_iff_iff]
  simp only [Bool.and_eq_true, beq_iff_eq, hhost, paLocal, paPkg]
  rw [show a / 2 ^ 43 = b / 2 ^ 43 by omega]
  omega

theorem curAt_of_frame : s.curAt a = s.curAt b := by
  unfold State.curAt State.provAt
  rw [inHost_of_frame s h, place_of_frame s h]

/-- An access of no bytes meets no line whose second read failed. -/
theorem deadFrame_of_frame : s.deadFrame a 0 = s.deadFrame b 0 := by
  have hnone (x : Nat) : (s.rereads.any fun y => y.1 == s.hart.id && x ≤ y.2 && y.2 < x + 0) = false := by
    rw [List.any_eq_false]
    intro y _ hy
    simp at hy
    omega
  have hpkg : paPkg a = paPkg b := by unfold paPkg; omega
  simp only [State.deadFrame, units, beq_self_eq_true, if_true, hnone, place_of_frame s h, hpkg]

end

/-! ### The clears of a range -/

/-- The clear of the frame of an address has been started, where the frame was unscrubbed; nothing else has. -/
theorem startClear_spec (a : Nat) (s : State) :
    (∀ x, x ∈ (startClear a s).clearing → x ∈ s.clearing ∨ x = s.place a / 65536) ∧ (∀ x ∈ s.clearing, x ∈ (startClear a s).clearing) ∧
    ((s.unscrubbed.any fun r => r.1 ≤ s.place a / 65536 && s.place a / 65536 < r.1 + r.2) = true → s.place a / 65536 ∈ (startClear a s).clearing) := by
  unfold startClear
  dsimp only
  split
  · exact ⟨fun x hx => (List.mem_cons.mp hx).symm, fun x hx => List.mem_cons_of_mem _ hx, fun _ => List.mem_cons_self⟩
  · next hnot =>
    refine ⟨fun x hx => .inl hx, fun x hx => hx, fun hun => ?_⟩
    simpa [hun] using hnot

theorem clearFrames_spec (n : Nat) : ∀ (f : Nat) (s : State), ∃ c, forRange (fun x s => startClear (x * 65536) s) f n s = { s with clearing := c } ∧
    (∀ x ∈ c, x ∈ s.clearing ∨ ∃ k, f ≤ k ∧ k < f + n ∧ x = s.place (k * 65536) / 65536) ∧ (∀ x ∈ s.clearing, x ∈ c) ∧
    (∀ k, f ≤ k → k < f + n → (s.unscrubbed.any fun r => r.1 ≤ s.place (k * 65536) / 65536 && s.place (k * 65536) / 65536 < r.1 + r.2) = true →
      s.place (k * 65536) / 65536 ∈ c) := by
  induction n with
  | zero => exact fun f s => ⟨s.clearing, rfl, fun x hx => .inl hx, fun x hx => hx, fun k _ _ => by omega⟩
  | succ n ih =>
    intro f s
    obtain ⟨hnew, hkept, hstarted⟩ := startClear_spec (f * 65536) s
    have hplace (a : Nat) : (startClear (f * 65536) s).place a = s.place a := place_congr (startClear_layout _ s) a
    have hun : (startClear (f * 65536) s).unscrubbed = s.unscrubbed := by rw [startClear_eq]
    obtain ⟨c, heq, hc, hkeep, hall⟩ := ih (f + 1) (startClear (f * 65536) s)
    simp only [hplace, hun] at hc hall
    refine ⟨c, heq.trans (by rw [startClear_eq]), fun x hx => ?_, fun x hx => hkeep x (hkept x hx), fun k hlo hhi h => ?_⟩
    · rcases hc x hx with h | ⟨k, hlo, hhi, hk⟩
      · exact (hnew x h).imp_right fun h => ⟨f, by omega, by omega, h⟩
      · exact .inr ⟨k, by omega, by omega, hk⟩
    · by_cases hk : k = f
      · subst hk
        exact hkeep _ (hstarted h)
      · exact hall k (by omega) (by omega) h

/-- Reads of a range start the clears of the unscrubbed frames in which its bytes lie, and change nothing else. -/
theorem clearRange_spec (pa n : Nat) (s : State) : ∃ c, clearRange pa n s = { s with clearing := c } ∧
    (∀ x ∈ c, x ∈ s.clearing ∨ ∃ a, (pa ≤ a ∧ a < pa + n) ∧ x = s.place a / 65536) ∧
    (∀ a, pa ≤ a ∧ a < pa + n → (s.unscrubbed.any fun r => r.1 ≤ s.place a / 65536 && s.place a / 65536 < r.1 + r.2) = true →
      s.place a / 65536 ∈ c) := by
  obtain ⟨c, heq, hnew, -, hall⟩ := clearFrames_spec (units 65536 pa n).2 (units 65536 pa n).1 s
  have hframe (a : Nat) : s.place (a / 65536 * 65536) / 65536 = s.place a / 65536 := place_of_frame s (by omega)
  refine ⟨c, heq, fun x hx => (hnew x hx).imp_right ?_, fun a ha h => ?_⟩
  · rintro ⟨k, hlo, hhi, rfl⟩
    obtain ⟨a, h1, h2, rfl⟩ := (mem_units_iff pa n k).mp ⟨hlo, hhi⟩
    exact ⟨a, ⟨h1, h2⟩, hframe a⟩
  · obtain ⟨hlo, hhi⟩ := (mem_units_iff pa n (a / 65536)).mpr ⟨a, ha.1, ha.2, rfl⟩
    have := hall _ hlo hhi
    rw [hframe] at this
    exact this h

end Sys2Proof.Machine
end

section
/-! SUPPORT. Host requests and page requests: what each answers (R466, R467). -/

namespace Sys2Proof.Machine

open Sys2Proof.Safety

/-! ### The host link -/

/-- The host's range lies in the package's own Ezmos memory: none of it is redirected. -/
theorem unredirected_own {pa : Nat} (s : State) (h : pa ≤ 0x12000000000) : Unredirected (s.own + pa) s := by
  left
  have hlocal : paLocal (s.own + pa) = pa := by unfold paLocal State.own; omega
  have hspace : spaceOf pa ≠ .tide := by rw [Ne, spaceOf_eq_tide_iff]; omega
  rw [State.inTide, hlocal, beq_eq_false_iff_ne.mpr hspace]
  rfl

/-- A host read shows the bytes where every set is empty and every frame and sector can be read, and poisoned zeros otherwise. -/
theorem hostRead_eq (a n : Nat) (s : State) :
    let shown := (∀ b, a ≤ b ∧ b < a + n → s.curAt b = 0 ∧ s.deadFrame b 0 = none) ∧ s.poisoned a n = false
    (shown → s.hostRead a n = .hostData ((List.range n).map fun i => s.homeByte (a + i)) false) ∧
    (¬ shown → s.hostRead a n = .hostData (List.replicate n 0) true) := by
  intro shown
  have hframes : ((List.range (units 65536 a n).2).any fun i => s.curAt (((units 65536 a n).1 + i) * 65536) != pvEmpty ||
      (s.deadFrame (((units 65536 a n).1 + i) * 65536) 0).isSome) = false ↔ ∀ b, a ≤ b ∧ b < a + n → s.curAt b = 0 ∧ s.deadFrame b 0 = none := by
    rw [List.any_eq_false]
    simp only [List.mem_range, Bool.not_eq_true, Bool.or_eq_false_iff, bne_eq_false_iff_eq, Option.isSome_eq_false_iff, Option.isNone_iff_eq_none]
    rw [forall_units_iff a n fun x => s.curAt (x * 65536) = pvEmpty ∧ s.deadFrame (x * 65536) 0 = none]
    refine forall₂_congr fun b _ => ?_
    rw [curAt_of_frame s (a := b / 65536 * 65536) (b := b) (by omega), deadFrame_of_frame s (a := b / 65536 * 65536) (b := b) (by omega)]
    rfl
  have hshown : shown ↔ ((List.range (units 65536 a n).2).any fun i => s.curAt (((units 65536 a n).1 + i) * 65536) != pvEmpty ||
      (s.deadFrame (((units 65536 a n).1 + i) * 65536) 0).isSome) = false ∧ s.poisoned a n = false := and_congr_left' hframes.symm
  have heq : s.hostRead a n = if (((List.range (units 65536 a n).2).any fun i => s.curAt (((units 65536 a n).1 + i) * 65536) != pvEmpty ||
      (s.deadFrame (((units 65536 a n).1 + i) * 65536) 0).isSome) || s.poisoned a n) = true then .hostData (List.replicate n 0) true
      else .hostData ((List.range n).map fun i => s.homeByte (a + i)) false := rfl
  rw [hshown, heq, ← Bool.or_eq_false_iff]
  exact ⟨fun h => by rw [h]; rfl, fun h => by rw [Bool.not_eq_false] at h; rw [h]; rfl⟩

theorem hostRequest_read {pa n : Nat} {s : State} (hpa : pa + n ≤ 0x12000000000) (hb : s.boot ≠ .failed) :
    exec (.hostCxlMemRequest pa (.read n)) s =
      .next { clearRange (s.own + pa) n s with sent := s.hostRead (s.own + pa) n :: (clearRange (s.own + pa) n s).sent } := by
  have hboot : (s.boot == .failed) = false := beq_eq_false_iff_ne.mpr hb
  have heq : exec (.hostCxlMemRequest pa (.read n)) s = if pa + n ≤ 0x12000000000 then .next (if (s.boot == .failed) = true then s
      else { clearRange (s.own + pa) n s with sent := s.hostRead (s.own + pa) n :: (clearRange (s.own + pa) n s).sent })
      else .fault .reservedAddress := rfl
  rw [heq, if_pos hpa, hboot]
  rfl

theorem hostRequest_write {pa : Nat} {bytes : List Byte} {s : State} (hpa : pa + bytes.length ≤ 0x12000000000) (hb : s.boot ≠ .failed)
    (hd : s.deadFrame (s.own + pa) 0 = none) :
    exec (.hostCxlMemRequest pa (.write bytes)) s = .next (storeHome (s.own + pa) bytes pvEmpty s) := by
  have hboot : (s.boot == .failed) = false := beq_eq_false_iff_ne.mpr hb
  have heq : exec (.hostCxlMemRequest pa (.write bytes)) s = if pa + bytes.length ≤ 0x12000000000 then .next (if (s.boot == .failed) = true then s
      else if (s.deadFrame (s.own + pa) 0).isSome = true then s else storeHome (s.own + pa) bytes pvEmpty s) else .fault .reservedAddress := rfl
  rw [heq, if_pos hpa, hboot, hd]
  rfl

/-- A host request after a boot that failed, or beyond the memory, is none. -/
theorem hostRequest_refused (pa n : Nat) (op : CxlOp) (s : State) (hn : n = match op with | .read n => n | .write bytes => bytes.length) :
    (pa + n ≤ 0x12000000000 → s.boot = .failed → exec (.hostCxlMemRequest pa op) s = .next s) ∧
    (0x12000000000 < pa + n → exec (.hostCxlMemRequest pa op) s = .fault .reservedAddress) := by
  subst hn
  exact ⟨fun h hb => (if_pos h).trans (by rw [hb]; rfl), fun h => if_neg (Nat.not_le.mpr h)⟩

theorem hostMemRequests (pa n : Nat) (bytes : List Byte) (s : State) :
    (pa + n ≤ 0x12000000000 → s.boot = .failed → exec (.hostCxlMemRequest pa (.read n)) s = .next s) ∧
    (pa + n ≤ 0x12000000000 → s.boot ≠ .failed →
      let inRange (a : Nat) : Prop := s.own + pa ≤ a ∧ a < s.own + pa + n
      let shown := (∀ a, inRange a → s.curAt a = 0 ∧ s.deadFrame a 0 = none) ∧ s.poisoned (s.own + pa) n = false
      Completes (.hostCxlMemRequest pa (.read n)) s (fun t => t = { s with clearing := t.clearing, sent := t.sent } ∧
        (shown → t.sent = .hostData ((List.range n).map fun i => s.homeByte (s.own + pa + i)) false :: s.sent) ∧
        (¬ shown → t.sent = .hostData (List.replicate n 0) true :: s.sent) ∧
        (∀ frame ∈ t.clearing, frame ∈ s.clearing ∨ ∃ a, inRange a ∧ frame = s.place a / 65536) ∧
        (∀ a, inRange a → (s.unscrubbed.any fun r => r.1 ≤ s.place a / 65536 && s.place a / 65536 < r.1 + r.2) = true →
          s.place a / 65536 ∈ t.clearing))) ∧
    (0x12000000000 < pa + n → exec (.hostCxlMemRequest pa (.read n)) s = .fault .reservedAddress) ∧
    (0x12000000000 < pa + bytes.length → exec (.hostCxlMemRequest pa (.write bytes)) s = .fault .reservedAddress) ∧
    (pa + bytes.length ≤ 0x12000000000 → s.boot = .failed → exec (.hostCxlMemRequest pa (.write bytes)) s = .next s) ∧
    (pa + bytes.length ≤ 0x12000000000 → MemoryCanonical s → s.boot ≠ .failed → s.deadFrame (s.own + pa) 0 = none →
      Completes (.hostCxlMemRequest pa (.write bytes)) s (BytesStored (s.own + pa) bytes.length (leBytes bytes) s)) := by
  obtain ⟨hreadOff, hreadFar⟩ := hostRequest_refused pa n (.read n) s rfl
  obtain ⟨hwriteOff, hwriteFar⟩ := hostRequest_refused pa bytes.length (.write bytes) s rfl
  refine ⟨hreadOff, fun hpa hb => ?read, hreadFar, hwriteFar, hwriteOff, fun hpa hc hb hd => ?write⟩
  case read =>
    intro inRange shown
    obtain ⟨c, hclear, hnew, hall⟩ := clearRange_spec (s.own + pa) n s
    obtain ⟨hshown, hnot⟩ := hostRead_eq (s.own + pa) n s
    refine ⟨_, hostRequest_read hpa hb, ?_⟩
    rw [hclear]
    exact ⟨rfl, fun h => congrArg (· :: s.sent) (hshown h), fun h => congrArg (· :: s.sent) (hnot h), hnew, hall⟩
  case write =>
    refine ⟨_, hostRequest_write hpa hb hd, bytesStored_storeHome _ (unredirected_own s (by omega)) (fun k hk => ?_) hc⟩
    rw [Nat.add_assoc]
    exact unredirected_own s (by omega)

theorem priRequests (who : HartId) (off : Nat) (s : State) :
    (2 ^ 41 ≤ off → exec (.priPageRequest who off) s = .fault .reservedAddress) ∧
    (off < 2 ^ 41 → Completes (.priPageRequest who off) s (fun t => t = { s with pri := t.pri } ∧ (∀ x ∈ s.pri, x ∈ t.pri) ∧
      ∃ x ∈ t.pri, x.who = who ∧ x.page = (s.own + 0x40000000000 + off) / 4096)) ∧
    Completes (.priResponse who true) s (fun t => t = { s with pri := t.pri } ∧ ∀ x, x ∈ t.pri ↔ x ∈ s.pri ∧ (x.who ≠ who ∨ x.failed = true)) ∧
    Completes (.priResponse who false) s (fun t => t = { s with pri := t.pri } ∧ (∀ x ∈ t.pri, x.who = who → x.failed = true) ∧
      ∀ x ∈ s.pri, x.who ≠ who → x ∈ t.pri) := by
  refine ⟨fun h => if_pos h, fun h => ⟨_, if_neg (Nat.not_le.mpr h), rfl, ?listed⟩, ⟨_, rfl, rfl, fun x => ?answered⟩, ⟨_, rfl, rfl, ?failed⟩⟩
  case listed =>
    dsimp only
    split
    · next hany =>
      obtain ⟨x, hx, hkey⟩ := List.any_eq_true.mp hany
      simp only [Bool.and_eq_true, beq_iff_eq] at hkey
      exact ⟨fun x hx => hx, x, hx, hkey⟩
    · exact ⟨fun x hx => List.mem_append_left _ hx, _, List.mem_append_right _ (List.mem_singleton.mpr rfl), rfl, rfl⟩
  case answered => simp [List.mem_filter]
  case failed =>
    simp only [Bool.false_eq_true, if_false, List.mem_map]
    refine ⟨?_, fun x hx hne => ⟨x, hx, if_neg (by simpa using hne)⟩⟩
    rintro x ⟨y, -, rfl⟩ hwho
    by_cases hy : (y.who == who) = true
    · rw [if_pos hy]
    · rw [if_neg hy] at hwho
      simp [hwho] at hy

end Sys2Proof.Machine
end

section
/-! SUPPORT. The operation packets of peers, and the flits that bring them (R357, R476, R477, R481). -/

namespace Sys2Proof.Machine

open Sys2Proof.Safety

/-- The set of the page of a write at a home has grown by the write's data set. -/
theorem curAt_storeHome {pa : Nat} {b : List Byte} {p : PvSet} {s : State} (ha : Unredirected pa s) (hh : s.inHost pa = false) :
    (storeHome pa b p s).curAt pa = s.curAt pa ||| p := by
  have hcleared : (startClear pa s).curAt pa = s.curAt pa := curAt_congr (startClear_layout _ _) (by rw [startClear_eq]) pa
  have htaken : (s.grownHome pa b.length p).curAt pa = s.curAt pa ||| p := by
    rw [← hcleared, ← curAt_growCur p ((inHost_congr (startClear_layout pa s) pa).trans hh)]
    unfold State.grownHome
    dsimp only
    split
    · rfl
    · exact curAt_congr (forRange_same State.layout _ (homeSector_layout none) _ _ _) (forRange_same State.prov _ (homeSector_prov none) _ _ _) pa
  rw [← htaken, storeHome_eq, unzero_of_unredirected ha, place_of_unredirected ha]
  refine curAt_congr ?_ ?_ pa
  · rw [forRange_same State.layout _ (wakeLine_layout none)]
    exact (landBytes_layout ..).trans (holdLines_layout ..)
  · rw [forRange_same State.prov _ (wakeLine_prov none)]
    exact (landBytes_prov ..).trans (holdLines_prov ..)

/-- Bytes that a write stores, counted from a state whose bytes read the same. -/
theorem bytesStored_from {pa n v : Nat} {s u t : State} (hl : u.layout = s.layout) (hm : u.mem = s.mem) (h : BytesStored pa n v u t) :
    BytesStored pa n v s t :=
  ⟨h.stored, fun a ha => (h.outside a (by rwa [place_congr hl, place_congr hl])).trans (homeByte_congr hl hm a)⟩

/-! ### Operation packets -/

/-- A packet that is performed names an aligned location of the package's own Ezmos memory. -/
theorem home_of_takes {p : PeerPacket} {s : State} (h : s.takes p = true) :
    Unredirected p.addr s ∧ s.inHost p.addr = false ∧ p.addr % 65536 + packetBytes p ≤ 65536 := by
  simp only [State.takes, Bool.and_eq_true, beq_iff_eq] at h
  obtain ⟨⟨⟨⟨⟨⟨-, haligned⟩, -⟩, hezmos⟩, -⟩, -⟩, -⟩ := h
  refine ⟨.inl ?_, ?_, ?_⟩
  · rw [State.inTide, hezmos]; rfl
  · rw [State.inHost, hezmos]; rfl
  · have hn : packetBytes p = 4 ∨ packetBytes p = 8 := by unfold packetBytes; split <;> simp
    rcases hn with hn | hn <;> rw [hn] at haligned ⊢ <;> omega

/-- What a packet that is performed does at its home, where `made` is the value that its operation writes, if any. -/
def State.peerWritten (s : State) (p : PeerPacket) (made : Option Nat) : State :=
  match made with
  | some v => storeHome p.addr (toLeBytes (packetBytes p) v) p.pv (growCur p.addr p.pv s)
  | none => forRange (homeSector none) (units 32 p.addr (packetBytes p)).1 (units 32 p.addr (packetBytes p)).2 (growCur p.addr p.pv s)

/-- The value that a packet's operation writes at a home that holds `old`. -/
def peerMade (p : PeerPacket) (old : Nat) : Option Nat :=
  amoNew p.op.toNat (8 * packetBytes p) old (p.opa.toNat % 2 ^ (8 * packetBytes p)) p.opb.toNat

theorem peerOp_taken {p : PeerPacket} {s : State} (h : s.takes p = true) :
    let old := s.homeNum p.addr (packetBytes p)
    peerOp p s = respond p 0 old (s.peerWritten p (peerMade p old)) := if_pos h

theorem peerWritten_apart (p : PeerPacket) (made : Option Nat) (s : State) : (s.peerWritten p made).apart = s.apart := by
  cases made with
  | none => exact (forRange_same State.apart _ (homeSector_apart none) _ _ _).trans (growCur_apart ..)
  | some v => exact (storeHome_apart ..).trans (growCur_apart ..)

theorem curAt_peerWritten {p : PeerPacket} {s : State} (h : s.takes p = true) (made : Option Nat) :
    (s.peerWritten p made).curAt p.addr = s.curAt p.addr ||| p.pv := by
  obtain ⟨ha, hh, -⟩ := home_of_takes h
  rw [← curAt_growCur p.pv hh]
  cases made with
  | none =>
    exact curAt_congr (forRange_same State.layout _ (homeSector_layout none) _ _ _) (forRange_same State.prov _ (homeSector_prov none) _ _ _) _
  | some v =>
    refine (curAt_storeHome (unredirected_congr ha (growCur_layout ..)) ((inHost_congr (growCur_layout ..) _).trans hh)).trans ?_
    rw [curAt_growCur p.pv hh, BitVec.or_assoc, BitVec.or_self]

theorem peerPackets (p : PeerPacket) (s : State) :
    let n := packetBytes p
    let made := amoNew p.op.toNat (8 * n) (s.homeNum p.addr n) (p.opa.toNat % 2 ^ (8 * n)) p.opb.toNat
    let answer (status value : Nat) (set : PvSet) : Outgoing := .packet (s.portTo p.src (p.addr / 128))
      (toLeBytes 1 5 ++ toLeBytes 1 status ++ toLeBytes 2 set.toNat ++ toLeBytes 2 p.tag.toNat ++ toLeBytes 2 0 ++ toLeBytes 8 value)
    (s.takes p = false → exec (.peerOperationPacket p) s = .next { s with sent := answer 1 0 (s.curAt p.addr) :: s.sent }) ∧
    (s.takes p = true → MemoryCanonical s → Completes (.peerOperationPacket p) s (fun t => t.curAt p.addr = s.curAt p.addr ||| p.pv ∧
      t.sent = answer 0 (s.homeNum p.addr n) (s.curAt p.addr ||| p.pv) :: s.sent ∧
      (∀ v, made = some v → BytesStored p.addr n v s t) ∧ (made = none → t.mem = s.mem))) := by
  intro n made answer
  have hexec : exec (.peerOperationPacket p) s = .next (peerOp p s) := rfl
  refine ⟨fun h => hexec.trans (congrArg _ (if_neg (by rw [h]; exact Bool.false_ne_true))),
    fun h hc => ⟨respond p 0 (s.homeNum p.addr n) (s.peerWritten p made), hexec.trans (congrArg _ (peerOp_taken h)), ?set, ?sent, ?wrote, ?kept⟩⟩
  case set => exact curAt_peerWritten h made
  case sent =>
    have hports : (s.peerWritten p made).portTo p.src (p.addr / 128) = s.portTo p.src (p.addr / 128) :=
      (congrArg (State.portTo · p.src (p.addr / 128)) (peerWritten_apart p made s) :)
    have hsent : (s.peerWritten p made).sent = s.sent := (congrArg State.sent (peerWritten_apart p made s) :)
    have heq : (respond p 0 (s.homeNum p.addr n) (s.peerWritten p made)).sent = .packet ((s.peerWritten p made).portTo p.src (p.addr / 128))
        (toLeBytes 1 5 ++ toLeBytes 1 0 ++ toLeBytes 2 ((s.peerWritten p made).curAt p.addr).toNat ++ toLeBytes 2 p.tag.toNat ++ toLeBytes 2 0 ++
          toLeBytes 8 (s.homeNum p.addr n)) :: (s.peerWritten p made).sent := rfl
    exact heq.trans (by rw [hports, hsent, curAt_peerWritten h])
  case wrote =>
    intro v hv
    obtain ⟨ha, -, hframe⟩ := home_of_takes h
    have hgrown := growCur_mem p.addr p.pv s
    have hstored := bytesStored_storeHome_toLeBytes v p.pv (unredirected_congr ha (growCur_layout p.addr p.pv s)) hframe
      (by unfold MemoryCanonical; rw [hgrown]; exact hc)
    refine bytesStored_from (growCur_layout ..) hgrown (u := growCur p.addr p.pv s) ?_
    have hmade : s.peerWritten p made = storeHome p.addr (toLeBytes n v) p.pv (growCur p.addr p.pv s) := by rw [hv]; rfl
    rw [← hmade] at hstored
    exact ⟨hstored.stored, hstored.outside⟩
  case kept =>
    intro hnone
    have hmem : (s.peerWritten p none).mem = s.mem :=
      (forRange_same State.mem _ (homeSector_mem none) _ _ _).trans (growCur_mem ..)
    rw [← hnone] at hmem
    exact hmem

/-! ### Flits -/

theorem flits (port : Nat) (p : PeerPacket) (l : List PeerPacket) (s : State) : exec (.flitReceive port false l) s = .next s ∧
    exec (.flitReceive port true []) s = .next s ∧
    (36 ≤ port ∨ 7 < l.length → ∀ b, exec (.flitReceive port b l) s = .next s) ∧
    (port < 36 → l.length < 7 → ∀ u, exec (.peerOperationPacket p) s = .next u → exec (.flitReceive port true (p :: l)) s = exec (.flitReceive port true l) u) ∧
    (port < 36 → l.length ≤ 7 → Completes (.flitReceive port true l) s (fun t => t = l.foldl (fun s p => peerOp p s) s)) := by
  have hexec (b : Bool) (m : List PeerPacket) (u : State) : exec (.flitReceive port b m) u =
      .next (if port < mladzarPorts ∧ b = true ∧ m.length ≤ 7 then m.foldl (fun s p => peerOp p s) u else u) := by
    refine congrArg Host.Outcome.next ?_
    simp only [Bool.and_eq_true, decide_eq_true_eq, and_assoc]
  refine ⟨?corrupt, ?empty, fun h b => ?refused, fun hport hl u hu => ?first, fun hport hl => ⟨_, hexec true l s, if_pos ⟨hport, rfl, hl⟩⟩⟩
  case corrupt => rw [hexec, if_neg (by simp)]
  case empty => rw [hexec, List.foldl_nil, ite_self]
  case refused =>
    have hports : mladzarPorts = 36 := rfl
    rw [hexec, if_neg (by omega)]
  case first =>
    rw [hexec, hexec, if_pos ⟨hport, rfl, Nat.succ_le_of_lt hl⟩, if_pos ⟨hport, rfl, Nat.le_of_lt hl⟩]
    injection hu with hu
    rw [List.foldl_cons, ← hu]

end Sys2Proof.Machine
end

section
/-! SUPPORT. What the memory system leaves of the harts and the cores other than the current ones: the harts' identities, and all of a core
but copies, of which it can lose some (R326, R333, R436, R450). -/

namespace Sys2Proof.Machine

open Sys2Proof.Safety

/-- The harts of one state are those of the other. -/
def SameHarts (s t : State) : Prop := t.hart.id = s.hart.id ∧ t.harts.map Hart.id = s.harts.map Hart.id

/-- A core as it was, but for its translations and for its copies, each of which stands where one stood. -/
structure Core.Shrinks (c d : Core) : Prop where
  bare : d.bare = c.bare
  places : ∀ k ∈ d.copies, ∃ j ∈ c.copies, j.line = k.line ∧ j.way = k.way

theorem Core.Shrinks.refl (c : Core) : c.Shrinks c := ⟨rfl, fun k hk => ⟨k, hk, rfl, rfl⟩⟩
theorem Core.Shrinks.trans {c d e : Core} (h : c.Shrinks d) (k : d.Shrinks e) : c.Shrinks e := by
  refine ⟨k.bare.trans h.bare, fun x hx => ?_⟩
  obtain ⟨y, hy, hline, hway⟩ := k.places x hx
  obtain ⟨z, hz, hline', hway'⟩ := h.places y hy
  exact ⟨z, hz, hline'.trans hline, hway'.trans hway⟩

/-- A change of each copy that leaves it in its place. -/
theorem Core.Shrinks.map_copies {f : Copy → Copy} (hf : ∀ k, (f k).line = k.line ∧ (f k).way = k.way) (c : Core) :
    c.Shrinks { c with copies := c.copies.map f } := by
  refine ⟨rfl, fun k hk => ?_⟩
  obtain ⟨j, hj, rfl⟩ := List.mem_map.mp hk
  exact ⟨j, hj, (hf j).1.symm, (hf j).2.symm⟩

/-- From `s` to `t` the memory system has worked: the harts are the same ones, and each core has at most lost copies. -/
structure MemoryWork (s t : State) : Prop where
  harts : SameHarts s t
  cores : ∀ n, (s.coreAt n).Shrinks (t.coreAt n)

namespace MemoryWork

theorem refl (s : State) : MemoryWork s s := ⟨⟨rfl, rfl⟩, fun _ => .refl _⟩
theorem trans {s t u : State} (h : MemoryWork s t) (k : MemoryWork t u) : MemoryWork s u :=
  ⟨⟨k.harts.1.trans h.harts.1, k.harts.2.trans h.harts.2⟩, fun n => (h.cores n).trans (k.cores n)⟩
theorem ite {c : Prop} [Decidable c] {s t u : State} (ht : MemoryWork s t) (hu : MemoryWork s u) : MemoryWork s (if c then t else u) := by
  split <;> assumption

/-- A change of neither the harts nor the cores. -/
theorem of_same {s t : State} (h : (t.hart, t.harts, t.core, t.cores) = (s.hart, s.harts, s.core, s.cores)) : MemoryWork s t := by
  simp only [Prod.mk.injEq] at h
  obtain ⟨hhart, hharts, hcore, hcores⟩ := h
  have hat (n : Nat) : t.coreAt n = s.coreAt n := by unfold State.coreAt; rw [hcore, hcores]
  exact ⟨⟨by rw [hhart], by rw [hharts]⟩, fun n => hat n ▸ .refl _⟩

theorem forRange {f : Nat → State → State} (hf : ∀ l s, MemoryWork s (f l s)) (lo n : Nat) (s : State) : MemoryWork s (forRange f lo n s) := by
  induction n generalizing lo s with
  | zero => exact refl s
  | succ n ih => exact (hf lo s).trans (ih (lo + 1) _)

theorem mapHarts {f : Hart → Hart} (hf : ∀ h, (f h).id = h.id) (s : State) : MemoryWork s (s.mapHarts f) :=
  ⟨⟨hf s.hart, by simp only [State.mapHarts, List.map_map]; exact List.map_congr_left fun h _ => hf h⟩, fun _ => .refl _⟩

theorem mapCores {f : Core → Core} (hf : ∀ c : Core, c.Shrinks (f c)) (s : State) : MemoryWork s (s.mapCores f) := by
  have hnum (c : Core) : (f c).num = c.num := (congrArg Core.num (hf c).bare :)
  refine ⟨⟨rfl, rfl⟩, fun n => ?_⟩
  unfold State.coreAt State.mapCores
  simp only [hnum, findBy_map Core.num f hnum]
  split
  · exact hf _
  · cases findBy Core.num n s.cores with
    | none => exact .refl _
    | some c => exact hf c

theorem focusCore (n : Nat) (s : State) : MemoryWork s (focusCore n s) :=
  ⟨⟨by rw [focusCore_hart], by rw [focusCore_harts]⟩, fun k => (coreAt_focusCore n k s).symm ▸ .refl _⟩

theorem onCore (n : Nat) {f : State → State} (hf : ∀ u, MemoryWork u (f u)) (s : State) : MemoryWork s (onCore n f s) :=
  ((focusCore n s).trans (hf _)).trans (focusCore _ _)

theorem evictCopies (p : Copy → Bool) (s : State) : MemoryWork s (evictCopies p s) := by
  obtain ⟨⟨x, h⟩, -⟩ := evictCopies_spec p s
  have hcore : (s.core).Shrinks { s.core with copies := s.core.copies.filter fun k => !p k } :=
    ⟨rfl, fun k hk => ⟨k, (List.mem_filter.mp hk).1, rfl, rfl⟩⟩
  have hat (n : Nat) : (Machine.evictCopies p s).coreAt n = if n = s.core.num then { s.core with copies := s.core.copies.filter fun k => !p k }
      else s.coreAt n := by
    rw [h]; exact coreAt_mapCore (fun c => { c with copies := c.copies.filter fun k => !p k }) s rfl n
  refine ⟨by rw [h]; exact ⟨rfl, rfl⟩, fun n => ?_⟩
  rw [hat]
  split
  · next hn => rw [State.coreAt, hn, beq_self_eq_true, if_pos rfl]; exact hcore
  · exact .refl _

theorem strikeSectors (hit : Nat → Bool) (p : PvSet) (s : State) : MemoryWork s (strikeSectors hit p s) := by
  unfold Machine.strikeSectors
  exact mapHarts (fun _ => by rfl) s

theorem strikeFrame (frame : Nat) (p : PvSet) (s : State) : MemoryWork s (strikeFrame frame p s) :=
  trans (t := { s with stamps := putBy Prod.fst (frame, s.stampOf frame + 1) s.stamps }) (of_same rfl) (strikeSectors ..)

theorem growCur (pa : Nat) (p : PvSet) (s : State) : MemoryWork s (growCur pa p s) := by
  unfold Machine.growCur
  refine ite (refl s) (ite (refl s) ?_)
  have hcopies (w : ProvWord) (c : Core) : c.Shrinks (c.orCopies w.frame w.cur) :=
    Core.Shrinks.map_copies (fun k => by split <;> exact ⟨rfl, rfl⟩) c
  let w := { s.provAt pa with cur := (s.provAt pa).cur ||| p }
  have hset : MemoryWork s ((s.setProv w).mapCores (Core.orCopies w.frame w.cur)) := trans (t := s.setProv w) (of_same rfl) (mapCores (hcopies w) _)
  exact hset.trans (strikeFrame ..)

theorem settleChecks (line : Nat) (s : State) : MemoryWork s (settleChecks line s) := by
  unfold Machine.settleChecks
  exact mapHarts (fun h => by split <;> rfl) s
theorem wakeLine (w : Option HartId) (line : Nat) (s : State) : MemoryWork s (wakeLine w line s) := mapHarts (fun h => by split <;> rfl) s

theorem ghostOthers (e : Option Nat) (line : Nat) (s : State) : MemoryWork s (ghostOthers e line s) := by
  unfold Machine.ghostOthers
  refine mapCores (fun c => ?_) s
  split
  · exact .refl c
  · refine Core.Shrinks.map_copies (fun k => ?_) c
    split
    · exact ⟨rfl, rfl⟩
    · split <;> exact ⟨rfl, rfl⟩

theorem homeSector (w : Option Nat) (n : Nat) (s : State) : MemoryWork s (homeSector w n s) :=
  (ghostOthers w (n / 4) s).trans (of_same rfl)

theorem holdLines (pa n : Nat) (s : State) : MemoryWork s (holdLines pa n s) := by
  unfold Machine.holdLines
  split
  · refine forRange (fun l s => ?_) _ _ s
    dsimp only
    split
    · exact refl s
    · exact trans (ite (refl s) (onCore _ (evictCopies _) s)) (of_same rfl)
  · exact refl s

theorem unzero (pa n : Nat) (s : State) : MemoryWork s (unzero pa n s) := by
  unfold Machine.unzero
  split
  · exact refl s
  · refine forRange (fun l s => ?_) _ _ s
    dsimp only
    exact ite (of_same rfl) (refl s)

theorem landBytes (pa : Nat) (b : List Byte) (s : State) : MemoryWork s (landBytes pa b s) := by
  induction b generalizing pa s with
  | nil => exact refl s
  | cons v b ih => exact trans (t := { s with mem := memWrite (s.place pa) v s.mem }) (of_same rfl) (ih (pa + 1) _)

theorem startClear (pa : Nat) (s : State) : MemoryWork s (startClear pa s) := by rw [startClear_eq]; exact of_same rfl

theorem storeHome (pa : Nat) (b : List Byte) (p : PvSet) (s : State) : MemoryWork s (storeHome pa b p s) := by
  have hgrown (a n : Nat) (u : State) : MemoryWork u (u.grownHome a n p) := by
    unfold State.grownHome
    exact ite ((startClear _ u).trans (growCur ..)) (((startClear _ u).trans (growCur ..)).trans (forRange (homeSector none) ..))
  rw [storeHome_eq]
  refine trans ?_ (forRange (wakeLine none) ..)
  exact trans ((((unzero ..).trans (hgrown ..)).trans (holdLines ..)).trans (landBytes ..)) (of_same rfl)

theorem storeAtomic (pa n : Nat) (b : Option (List Byte)) (p : PvSet) (s : State) : MemoryWork s (storeAtomic pa n b p s) := by
  have htaken (a : Nat) (u : State) : MemoryWork u (u.takenHome a n p) := by
    have hsettled (l0 ln : Nat) := (growCur a p u).trans (forRange settleChecks l0 ln _)
    unfold State.takenHome
    exact ite (hsettled ..) ((hsettled ..).trans (forRange (homeSector none) ..))
  cases b with
  | none => exact htaken (s.place pa) s
  | some b =>
    obtain ⟨who, h⟩ := storeAtomic_eq pa n b p s
    rw [h]
    refine trans ?_ (forRange (wakeLine who) ..)
    exact trans ((((unzero ..).trans (htaken ..)).trans (holdLines ..)).trans (landBytes ..)) (of_same rfl)

theorem performRemote (r : Remote) (old : Word) (s : State) : MemoryWork s (performRemote r old s) := by
  unfold Machine.performRemote
  dsimp only
  split
  · exact (growCur ..).trans (storeAtomic ..)
  · exact ((growCur ..).trans (storeAtomic ..)).trans (landBytes ..)

theorem remoteMaybe (r : Remote) (s : State) : MemoryWork s (remoteMaybe r s).2 := by
  have hcount : MemoryWork s { s with freeCtr := s.freeCtr + 1 } := of_same rfl
  unfold Machine.remoteMaybe State.nextFree
  dsimp only
  split
  · exact hcount.trans (performRemote ..)
  · exact hcount

theorem logEvent (kind cls unit addr : Nat) (s : State) : MemoryWork s (logEvent kind cls unit addr s) := by
  unfold Machine.logEvent
  dsimp only
  split
  · exact of_same rfl
  · exact trans (t := { s with elogSeq := s.elogSeq + 1 }) (of_same rfl) (storeHome ..)

end MemoryWork

end Sys2Proof.Machine
end

section
/-! SUPPORT. The answers to requests outside the package: what they leave of the hart that waits for them (R358, R477, R478). -/

namespace Sys2Proof.Machine

open Sys2Proof.Safety

/-! ### Acting on another hart -/

/-- The harts of equal identities stand at the same places. -/
theorem SameHarts.hartAt_id {s t : State} (h : SameHarts s t) (i : HartId) : (t.hartAt i).id = (s.hartAt i).id := by
  obtain ⟨hcurrent, hlist⟩ := h
  have hfound (l : List Hart) : ((findBy Hart.key (hidKey i) l).getD (Hart.initial i.core i.hart)).id =
      ((l.map Hart.id).find? fun j => hidKey j == hidKey i).getD (Hart.initial i.core i.hart).id := by
    rw [List.find?_map, Option.getD_map]
    rfl
  have hhere : (t.hart.core == i.core && t.hart.ix == i.hart) = (s.hart.core == i.core && s.hart.ix == i.hart) := by
    rw [Hart.id, Hart.id, HartId.mk.injEq] at hcurrent
    rw [hcurrent.1, hcurrent.2]
  unfold State.hartAt
  rw [hhere]
  split
  · exact hcurrent
  · rw [hfound, hfound, hlist]

/-- The hart that was current before another came into focus stands in the list. -/
theorem hartAt_focus_other {i : HartId} {s : State} (hi : (s.hartAt i).id = i) (hne : s.hart.id ≠ i) : (focus i s).hartAt s.hart.id = s.hart := by
  have hout : (s.hart.core == i.core && s.hart.ix == i.hart) = false := by
    rw [Bool.eq_false_iff]
    intro e
    simp only [Bool.and_eq_true, beq_iff_eq] at e
    exact hne ((hart_id_eq_iff _ _).mpr e)
  have hback : ((s.hartAt i).core == s.hart.id.core && (s.hartAt i).ix == s.hart.id.hart) = false := by
    rw [((hart_id_eq_iff _ _).mp hi).1, ((hart_id_eq_iff _ _).mp hi).2, Bool.eq_false_iff]
    intro e
    simp only [Bool.and_eq_true, beq_iff_eq] at e
    exact hne ((hart_id_eq_iff _ _).mpr ⟨e.1.symm, e.2.symm⟩)
  rw [focus, hout, if_neg Bool.false_ne_true, focusCore_hartAt]
  exact (hartAt_of_ne hback).trans (by rw [hidKey_id, findBy_putBy_same]; rfl)

/-- The hart in focus stands at its place once another is in focus. -/
theorem hartAt_focus_self {i : HartId} {s : State} (h : (s.hartAt i).id = i) : (focus i s).hartAt s.hart.id = s.hart := by
  by_cases hi : s.hart.id = i
  · have hhere := (hart_id_eq_iff _ _).mp hi
    have hsame : (focus i s).hart = s.hart := by rw [focus_hart]; simp [State.hartAt, hhere]
    have hat : (focus i s).hartAt s.hart.id = (focus i s).hart := by unfold State.hartAt; rw [hsame]; simp [Hart.id]
    rw [hat, hsame]
  · exact hartAt_focus_other h hi

/-- What an act on a hart that comes to `u` leaves of it and of memory, where the harts of `u` are the same ones. -/
theorem onHart_hart {who : HartId} {f : State → State} {s u : State} (hid : (s.hartAt who).id = who) (hu : f (focus who s) = u)
    (hf : SameHarts (focus who s) u) : (onHart who f s).hartAt who = u.hart ∧ (onHart who f s).mem = u.mem := by
  subst hu
  refine ⟨?_, focus_mem ..⟩
  have hwho : (f (focus who s)).hart.id = who := hf.1.trans ((congrArg Hart.id (focus_hart who s)).trans hid)
  have hback : ((f (focus who s)).hartAt s.hart.id).id = s.hart.id := by
    rw [hf.hartAt_id]
    by_cases hsame : s.hart.id = who
    · have hat := (hart_id_eq_iff _ _).mp (((congrArg Hart.id (focus_hart who s)).trans hid).trans hsame.symm)
      unfold State.hartAt
      rw [hat.1, hat.2, beq_self_eq_true, beq_self_eq_true, Bool.and_self, if_pos rfl]
      exact (hart_id_eq_iff _ _).mpr hat
    · rw [hartAt_focus_other hid hsame]
  have hself := hartAt_focus_self hback
  rwa [hwho] at hself

/-! ### The scalar unit's request -/

/-- An act on a request: what the request becomes, and what the act does besides. -/
abbrev RemoteAct : Type := Remote → State → Remote × State

section

variable {who : HartId} {mine : Nat → Bool} {f : RemoteAct} {s : State}

/-- The request that the scalar unit has outside the package, without an answer yet, is the one acted on. -/
theorem answerRemote_scalar {r : Remote} (hr : (s.hartAt who).remote = some r) (hmine : mine r.addr = true) (ha : r.answer = none)
    (hfl : r.failed = none) :
    answerRemote who mine f s = onHart who (fun s => (f r s).2.mapHart fun h => { h with remote := some (f r s).1 }) s := by
  have hopen : (mine r.addr && r.open_) = true := by rw [hmine, Remote.open_, ha, hfl]; rfl
  unfold answerRemote
  dsimp only
  rw [hr, Option.filter_some, hopen, if_pos rfl]

/-- What an act on the scalar unit's request leaves of the hart. -/
theorem answerRemote_stands {r : Remote} (hid : (s.hartAt who).id = who) (hr : (s.hartAt who).remote = some r) (hmine : mine r.addr = true)
    (ha : r.answer = none) (hfl : r.failed = none) (hf : MemoryWork (focus who s) (f r (focus who s)).2) :
    (answerRemote who mine f s).hartAt who = { (f r (focus who s)).2.hart with remote := some (f r (focus who s)).1 } ∧
    (answerRemote who mine f s).mem = (f r (focus who s)).2.mem := by
  rw [answerRemote_scalar hr hmine ha hfl]
  exact onHart_hart (f := fun s => (f r s).2.mapHart fun h => { h with remote := some (f r s).1 }) hid rfl hf.harts

/-- A hart without a request outside the package has none to act on. -/
theorem answerRemote_none (hr : (s.hartAt who).remote = none) (hv : (s.hartAt who).vreq = none) : answerRemote who mine f s = s := by
  unfold answerRemote
  dsimp only
  rw [hr, hv]
  rfl

end

theorem scalarAnswers (who : HartId) (r : Remote) (status : Byte) (cur : PvSet) (old : Word) (s : State) (hid : (s.hartAt who).id = who)
    (hr : (s.hartAt who).remote = some r) (ha : r.answer = none) (hf : r.failed = none) :
    let maybe := remoteMaybe r (focus who s)
    let stands (x : Remote) (u t : State) : Prop := t.hartAt who = { u.hart with remote := some x } ∧ t.mem = u.mem
    (s.inHost r.addr = true →
      Completes (.atomicopCompletion who true old) s
        (stands { r with cur := pvEmpty, answer := some old } (performRemote { r with cur := pvEmpty } old (focus who s))) ∧
      Completes (.atomicopCompletion who false old) s (HartBecomes who { s.hartAt who with remote := some { r with failed := some 2 } } s)) ∧
    (s.inPeer r.addr = true →
      Completes (.peerResponse who 0 cur old) s
        (stands { r with cur := cur, answer := some old } (performRemote { r with cur := cur } old (focus who s))) ∧
      (status ≠ 0 → Completes (.peerResponse who status cur old) s (stands { r with failed := some 1, answer := if maybe.1 then some 0 else none } maybe.2)) ∧
      Completes (.peerResponseTimeout who) s (stands { r with failed := some 1, answer := if maybe.1 then some 0 else none } maybe.2)) := by
  have hdone (mine : Nat → Bool) (hmine : mine r.addr = true) (set : PvSet) :=
    answerRemote_stands (f := remoteDone set old) hid hr hmine ha hf (MemoryWork.performRemote { r with cur := set } old _)
  have hfailed (hpeer : s.inPeer r.addr = true) := answerRemote_stands (f := peerFailed) hid hr hpeer ha hf (MemoryWork.remoteMaybe r _)
  intro maybe stands
  refine ⟨fun hhost => ⟨⟨_, rfl, hdone _ hhost pvEmpty⟩, _, rfl, ?refused⟩,
    fun hpeer => ⟨⟨_, rfl, hdone _ hpeer cur⟩, fun hstatus => ⟨_, ?failed, hfailed hpeer⟩, _, rfl, hfailed hpeer⟩⟩
  case refused =>
    exact (answerRemote_scalar hr hhost ha hf).symm ▸ onHart_mapHart who (fun h => { h with remote := some { r with failed := some 2 } }) s hid hid
  case failed =>
    have hnot : (status == 0) = false := beq_eq_false_iff_ne.mpr hstatus
    have heq : exec (.peerResponse who status cur old) s =
        .next (answerRemote who s.inPeer (if (status == 0) = true then remoteDone cur old else peerFailed) s) := rfl
    rw [heq, hnot]
    rfl

theorem unaskedAnswers (who : HartId) (ok : Bool) (status : Byte) (cur : PvSet) (old : Word) (s : State)
    (hr : (s.hartAt who).remote = none) (hv : (s.hartAt who).vreq = none) :
    exec (.atomicopCompletion who ok old) s = .next s ∧ exec (.peerResponse who status cur old) s = .next s ∧
    exec (.peerResponseTimeout who) s = .next s :=
  ⟨congrArg _ (answerRemote_none hr hv), congrArg _ (answerRemote_none hr hv), congrArg _ (answerRemote_none hr hv)⟩

/-! ### The requests of a vector atomic -/

/-- The one request of a vector atomic that may be answered is the one acted on. -/
theorem answerRemote_vector {who : HartId} {mine : Nat → Bool} {f : RemoteAct} {q : VReq} {k : Nat} {s : State} (hr : (s.hartAt who).remote = none)
    (hv : (s.hartAt who).vreq = some q) (hk : q.answerable mine = [k]) :
    answerRemote who mine f s = answerFlight who k f { s with freeCtr := s.freeCtr + 1 } := by
  unfold answerRemote
  dsimp only
  rw [hr, hv]
  dsimp only [Option.filter, Option.elim]
  rw [hk]
  dsimp only [State.nextFree]
  rw [List.length_nil, Nat.zero_add, Nat.mod_one]
  rfl

/-- What an act on a request of a vector atomic leaves of the hart. -/
theorem answerFlight_stands {who : HartId} {f : RemoteAct} {q : VReq} {k : Nat} {x : Flight} {s : State} (hid : (s.hartAt who).id = who)
    (hv : (s.hartAt who).vreq = some q) (hx : q.out[k]? = some x) (hf : MemoryWork (focus who s) (f x.r (focus who s)).2) :
    (answerFlight who k f s).hartAt who =
      { (f x.r (focus who s)).2.hart with vreq := some { q with out := q.out.set k { x with r := (f x.r (focus who s)).1 } } } ∧
    (answerFlight who k f s).mem = (f x.r (focus who s)).2.mem := by
  let u := (f x.r (focus who s)).2.mapHart fun h => { h with vreq := some { q with out := q.out.set k { x with r := (f x.r (focus who s)).1 } } }
  refine onHart_hart (u := u) hid ?_ hf.harts
  dsimp only
  rw [focus_hart, hv]
  dsimp only
  rw [hx]

theorem vectorAnswers (who : HartId) (cur : PvSet) (old : Word) (q : VReq) (k : Nat) (x : Flight) (s : State) (hid : (s.hartAt who).id = who)
    (hr : (s.hartAt who).remote = none) (hv : (s.hartAt who).vreq = some q) (hx : q.out[k]? = some x) :
    let done (set : PvSet) (u t : State) : Prop := t.mem = u.mem ∧
      (t.hartAt who).vreq = some { q with out := q.out.set k { x with r := { x.r with cur := set, answer := some old } } }
    (q.answerable s.inHost = [k] → Completes (.atomicopCompletion who true old) s
      (done 0 (performRemote { x.r with cur := 0 } old (focus who { s with freeCtr := s.freeCtr + 1 })))) ∧
    (q.answerable s.inPeer = [k] → Completes (.peerResponse who 0 cur old) s
      (done cur (performRemote { x.r with cur := cur } old (focus who { s with freeCtr := s.freeCtr + 1 })))) := by
  intro done
  have hdone (set : PvSet) (mine : Nat → Bool) (hk : q.answerable mine = [k]) :
      done set (performRemote { x.r with cur := set } old (focus who { s with freeCtr := s.freeCtr + 1 }))
        (answerRemote who mine (remoteDone set old) s) := by
    obtain ⟨hhart, hmem⟩ := answerFlight_stands (f := remoteDone set old) (s := { s with freeCtr := s.freeCtr + 1 }) hid hv hx
      (MemoryWork.performRemote { x.r with cur := set } old _)
    rw [answerRemote_vector hr hv hk]
    exact ⟨hmem, by rw [hhart]; rfl⟩
  exact ⟨fun hk => ⟨_, rfl, hdone 0 _ hk⟩, fun hk => ⟨_, rfl, hdone cur _ hk⟩⟩

end Sys2Proof.Machine
end

section
/-! SUPPORT. Errors that are logged, packages that come and go, the traffic of the network and the reset of a partition (R423, R475, R479, R484,
R489, R492). -/

namespace Sys2Proof.Machine

open Sys2Proof.Safety

/-! ### The error log -/

/-- A logged event is counted; past the count it is a write at the ring, if one has been placed. -/
theorem logEvent_apart (kind cls unit addr : Nat) (s : State) :
    (logEvent kind cls unit addr s).apart = { s with elogSeq := s.elogSeq + 1 }.apart := by
  unfold logEvent
  dsimp only
  split
  · rfl
  · exact storeHome_apart ..

theorem logEvent_elogSeq (kind cls unit addr : Nat) (s : State) : (logEvent kind cls unit addr s).elogSeq = s.elogSeq + 1 :=
  (congrArg State.elogSeq (logEvent_apart kind cls unit addr s) :)

/-! ### A package that cannot be reached (R489) -/

theorem failRemote_eq (pkg : Nat) (r : Remote) :
    failRemote pkg r = if paPkg r.addr = pkg ∧ r.answer = none then { r with failed := some 1 } else r := by
  unfold failRemote
  simp only [Bool.and_eq_true, beq_iff_eq, Option.isNone_iff_eq_none]

/-- A vector atomic whose requests to a package have failed. -/
def VReq.failTo (pkg : Nat) (q : VReq) : VReq := { q with out := q.out.map fun x => { x with r := failRemote pkg x.r } }

theorem foreign_iff (pkg : Nat) (s : State) : (pkg == s.pkg || decide (432 ≤ pkg)) = true ↔ pkg = s.pkg ∨ 432 ≤ pkg := by simp

/-- A package that cannot be reached leaves the zone, with an event logged, and the requests to it fail. -/
theorem packageUnreachable_spec {pkg : Nat} {s : State} (hp : pkg ≠ s.pkg) (hk : pkg < 432) : Completes (.packageUnreachable pkg) s (fun t =>
    pkg ∈ t.unreachable_ ∧ pkg ∉ t.zone ∧ t.elogSeq = s.elogSeq + 1 ∧ t.hart.remote = s.hart.remote.map (failRemote pkg) ∧
    t.hart.vreq = s.hart.vreq.map (VReq.failTo pkg)) := by
  have hlog := logEvent_apart 14 2 pkg 0 s
  refine ⟨_, congrArg Host.Outcome.next (if_neg (by rw [foreign_iff]; omega)), List.mem_cons_self, ?_, (congrArg State.elogSeq hlog :),
    congrArg (Option.map (failRemote pkg)) (congrArg (fun x : State => x.hart.remote) hlog :),
    congrArg (Option.map (VReq.failTo pkg)) (congrArg (fun x : State => x.hart.vreq) hlog :)⟩
  intro hmem
  have hne := (List.mem_filter.mp hmem).2
  simp at hne

theorem domainAssembly_spec {pkg : Nat} (ports : List Nat) (report : List Byte) {s : State} (hp : pkg ≠ s.pkg) (hk : pkg < 432) :
    Completes (.domainAssembly pkg ports report) s (fun t => t.hart = s.hart ∧
        (reportOk pkg report = false ∨ pkg ∉ s.unreachable_ → t.mem = s.mem) ∧
        (reportOk pkg report = true → pkg ∈ s.unreachable_ → ∀ c, c ∈ t.mem ↔ c ∈ s.mem ∧ paPkg c.1 ≠ pkg) ∧
        findBy Prod.fst pkg t.routes = some (pkg, ports.filter fun x => decide (x < 36)) ∧ (reportOk pkg report = true → pkg ∈ t.zone ∧ pkg ∉ t.unreachable_) ∧
        (reportOk pkg report = false → pkg ∉ t.zone)) := by
  have hroute (l : List (Nat × List Nat)) : findBy Prod.fst pkg (putBy Prod.fst (pkg, ports.filter fun x => decide (x < mladzarPorts)) l) =
      some (pkg, ports.filter fun x => decide (x < 36)) := findBy_putBy_same Prod.fst (pkg, _) l
  have hgone (l : List Nat) : pkg ∉ l.filter (· != pkg) := fun h => by simpa using (List.mem_filter.mp h).2
  have hlisted (l : List Nat) : pkg ∈ if l.contains pkg then l else pkg :: l := by
    split
    · next h => exact List.contains_iff_mem.mp h
    · exact List.mem_cons_self
  refine ⟨_, congrArg Host.Outcome.next (if_neg (by rw [foreign_iff]; omega)), ?_⟩
  dsimp only
  cases hok : reportOk pkg report with
  | false =>
    rw [if_neg Bool.false_ne_true]
    exact ⟨rfl, fun _ => rfl, nofun, hroute _, nofun, fun _ => hgone _⟩
  | true =>
    rw [if_pos rfl]
    by_cases hun : pkg ∈ s.unreachable_
    · rw [if_pos (List.contains_iff_mem.mpr hun)]
      refine ⟨rfl, fun h => ?_, fun _ _ c => ?_, hroute _, fun _ => ⟨hlisted _, hgone _⟩, nofun⟩
      · rcases h with h | h
        · exact absurd h (by simp)
        · exact absurd hun h
      · refine List.mem_filter.trans (and_congr_right fun _ => ?_)
        simp
    · rw [if_neg (by rw [List.contains_iff_mem]; exact hun)]
      exact ⟨rfl, fun _ => rfl, fun _ h => absurd h hun, hroute _, fun _ => ⟨hlisted _, hgone _⟩, nofun⟩

theorem packages (pkg : Nat) (ports : List Nat) (report : List Byte) (s : State) :
    (pkg = s.pkg ∨ 432 ≤ pkg → exec (.packageUnreachable pkg) s = .next s ∧ exec (.domainAssembly pkg ports report) s = .next s) ∧
    (pkg ≠ s.pkg → pkg < 432 → Completes (.packageUnreachable pkg) s (fun t => pkg ∈ t.unreachable_ ∧ pkg ∉ t.zone ∧
        t.elogSeq = s.elogSeq + 1 ∧ ∀ r, s.hart.remote = some r → t.hart.remote =
          if paPkg r.addr = pkg ∧ r.answer = none then some { r with failed := some 1 } else some r) ∧
      (let failed (x : Flight) : Flight := if paPkg x.r.addr = pkg ∧ x.r.answer = none then { x with r := { x.r with failed := some 1 } } else x
       Completes (.packageUnreachable pkg) s (fun t => ∀ q, s.hart.vreq = some q → t.hart.vreq = some { q with out := q.out.map failed })) ∧
      Completes (.domainAssembly pkg ports report) s (fun t => t.hart = s.hart ∧
        (reportOk pkg report = false ∨ pkg ∉ s.unreachable_ → t.mem = s.mem) ∧
        (reportOk pkg report = true → pkg ∈ s.unreachable_ → ∀ c, c ∈ t.mem ↔ c ∈ s.mem ∧ paPkg c.1 ≠ pkg) ∧
        findBy Prod.fst pkg t.routes = some (pkg, ports.filter fun x => decide (x < 36)) ∧ (reportOk pkg report = true → pkg ∈ t.zone ∧ pkg ∉ t.unreachable_) ∧
        (reportOk pkg report = false → pkg ∉ t.zone))) := by
  refine ⟨fun h => ?own, fun hp hk => ?other⟩
  case own => exact ⟨congrArg _ (if_pos ((foreign_iff ..).mpr h)), congrArg _ (if_pos ((foreign_iff ..).mpr h))⟩
  case other =>
    obtain ⟨t, hexec, hun, hzone, hlog, hremote, hvreq⟩ := packageUnreachable_spec hp hk
    refine ⟨⟨t, hexec, hun, hzone, hlog, fun r hr => ?_⟩, ⟨t, hexec, fun q hq => ?_⟩, domainAssembly_spec ports report hp hk⟩
    · rw [hremote, hr, Option.map_some, failRemote_eq]
      split <;> rfl
    · rw [hvreq, hq, Option.map_some]
      simp only [VReq.failTo, failRemote_eq]
      refine congrArg some (congrArg (fun l => { q with out := l }) (List.map_congr_left fun x _ => ?_))
      split <;> rfl

end Sys2Proof.Machine
end

section
/-! SUPPORT. The traffic of the network, and the reset of a partition (R367, R423, R475, R479, R485). -/

namespace Sys2Proof.Machine

open Sys2Proof.Safety

/-! ### Scale-out (R479) -/

/-- The data of a range may leave: each of its frames has an empty set and can be read, and no sector is poisoned. -/
def State.shows (s : State) (p : Part) (pa len : Nat) : Prop :=
  p.owns (units 65536 pa len).1 (units 65536 pa len).2 = true ∧
  (∀ k < (units 65536 pa len).2, s.curAt (((units 65536 pa len).1 + k) * 65536) = 0 ∧ s.deadFrame (((units 65536 pa len).1 + k) * 65536) 0 = none) ∧
  s.poisoned pa len = false

theorem shows_iff (s : State) (p : Part) (pa len : Nat) : (s.openRange p pa len && !s.poisoned pa len) = true ↔ s.shows p pa len := by
  unfold State.openRange State.shows
  simp only [Bool.and_eq_true, List.all_eq_true, List.mem_range, beq_iff_eq, Option.isNone_iff_eq_none, Bool.not_eq_true', and_assoc]
  rfl

theorem clearRange_sent (pa n : Nat) (s : State) (o : Outgoing) :
    { clearRange pa n s with sent := o :: (clearRange pa n s).sent } = { s with clearing := (clearRange pa n s).clearing, sent := o :: s.sent } := by
  obtain ⟨c, heq, -⟩ := clearRange_spec pa n s
  rw [heq]

section

variable {qp pa len : Nat} {p : Part} {set : PvSet} {s : State} (hq : s.qp qp = some (p, set))
include hq

theorem roceRead_eq : exec (.roceReadRequest qp pa len) s = .next (if s.qpLost qp then s
      else if s.openRange p pa len && !s.poisoned pa len then
        { clearRange pa len s with sent := .readAnswer qp ((List.range len).map fun i => s.homeByte (pa + i)) :: (clearRange pa len s).sent }
      else { s with sent := .remoteAccessError qp :: s.sent }) := by
  have heq : exec (.roceReadRequest qp pa len) s = execRoceReadRequest qp pa len s := rfl
  rw [heq, execRoceReadRequest, hq]

theorem hostWork_eq : exec (.hostWorkRequest qp pa len) s = .next (if s.qpLost qp then { s with sent := .transportError qp :: s.sent }
      else if s.openRange p pa len && !s.poisoned pa len then
        { clearRange pa len s with sent := .workData qp ((List.range len).map fun i => s.homeByte (pa + i)) :: (clearRange pa len s).sent }
      else { s with sent := .localProtectionError qp :: s.sent }) := by
  have heq : exec (.hostWorkRequest qp pa len) s = execHostWorkRequest qp pa len s := rfl
  rw [heq, execHostWorkRequest, hq]

theorem incoming_eq {bytes : List Byte} : exec (.roceIncomingData qp pa bytes) s =
    .next (if !s.qpLost qp && p.owns (units 65536 pa bytes.length).1 (units 65536 pa bytes.length).2 &&
        (List.range (units 65536 pa bytes.length).2).all fun k =>
          (writeCheck 0 (((units 65536 pa bytes.length).1 + k) * 65536) set 6 s).isNone &&
            (s.deadFrame (((units 65536 pa bytes.length).1 + k) * 65536) 0).isNone then
      (pageParts ((units 65536 pa bytes.length).2 + 1) (BitVec.ofNat 64 pa) bytes.length).foldl (fun (x : List Byte × State) a =>
        (x.1.drop a.2, storeHome a.1.toNat (x.1.take a.2) set x.2)) (bytes, s) |>.2
      else s) := by
  have heq : exec (.roceIncomingData qp pa bytes) s = execRoceIncomingData qp pa bytes s := rfl
  rw [heq, execRoceIncomingData, hq]

/-- Incoming data of one frame are written there, where the partition owns it, its ceiling takes the set and it can be read. -/
theorem incoming_frame {bytes : List Byte} (hlost : s.qpLost qp = false) (hne : bytes ≠ []) (hpa : pa < 2 ^ 64)
    (hlen : pa % 65536 + bytes.length ≤ 65536) :
    exec (.roceIncomingData qp pa bytes) s = .next (if p.owns (pa / 65536) 1 && (writeCheck 0 (pa / 65536 * 65536) set 6 s).isNone &&
      (s.deadFrame (pa / 65536 * 65536) 0).isNone then storeHome pa bytes set s else s) := by
  have hpos : bytes.length ≠ 0 := by rwa [Ne, List.length_eq_zero_iff]
  have hunits : units 65536 pa bytes.length = (pa / 65536, 1) := by
    have hone : (pa + bytes.length - 1) / 65536 - pa / 65536 + 1 = 1 := by omega
    rw [units, if_neg (by rwa [beq_iff_eq]), hone]
  have hnat : (BitVec.ofNat 64 pa).toNat = pa := BitVec.toNat_ofNat .. ▸ Nat.mod_eq_of_lt hpa
  have hmin : min bytes.length (65536 - pa % 65536) = bytes.length := by omega
  have hparts : pageParts 2 (BitVec.ofNat 64 pa) bytes.length = [(BitVec.ofNat 64 pa, bytes.length)] := by
    simp only [pageParts, hnat, hmin, beq_iff_eq, if_neg hpos, Nat.sub_self, if_true]
  rw [incoming_eq hq, hlost, hunits]
  dsimp only
  rw [hparts]
  simp only [List.foldl_cons, List.foldl_nil, hnat, List.take_length, List.range_one, List.all_cons, List.all_nil, Nat.add_zero, Bool.and_true,
    Bool.not_false, Bool.true_and, Bool.and_assoc]

end

theorem networkTraffic (qp pa len : Nat) (bytes : List Byte) (s : State) :
    (s.qp qp = none → exec (.roceReadRequest qp pa len) s = .next s ∧ exec (.hostWorkRequest qp pa len) s = .next s ∧
      exec (.roceIncomingData qp pa bytes) s = .next s) ∧
    (∀ p set, s.qp qp = some (p, set) →
      let data := (List.range len).map fun i => s.homeByte (pa + i)
      (s.qpLost qp = true → exec (.roceReadRequest qp pa len) s = .next s ∧ exec (.roceIncomingData qp pa bytes) s = .next s ∧
        exec (.hostWorkRequest qp pa len) s = .next { s with sent := .transportError qp :: s.sent }) ∧
      (s.qpLost qp = false → s.shows p pa len →
        Completes (.roceReadRequest qp pa len) s (fun t => t = { s with clearing := t.clearing, sent := .readAnswer qp data :: s.sent }) ∧
        Completes (.hostWorkRequest qp pa len) s (fun t => t = { s with clearing := t.clearing, sent := .workData qp data :: s.sent })) ∧
      (s.qpLost qp = false → ¬ s.shows p pa len → exec (.roceReadRequest qp pa len) s = .next { s with sent := .remoteAccessError qp :: s.sent } ∧
        exec (.hostWorkRequest qp pa len) s = .next { s with sent := .localProtectionError qp :: s.sent })) ∧
    (∀ p set, s.qp qp = some (p, set) → s.qpLost qp = false → bytes ≠ [] → pa < 2 ^ 64 → pa % 65536 + bytes.length ≤ 65536 →
      let frame := pa / 65536
      (p.owns frame 1 = false → exec (.roceIncomingData qp pa bytes) s = .next s) ∧
      (p.owns frame 1 = true → writeCheck 0 (frame * 65536) set 6 s = none → s.deadFrame (frame * 65536) 0 = none → MemoryCanonical s →
        Unredirected pa s → Completes (.roceIncomingData qp pa bytes) s (BytesStored pa bytes.length (leBytes bytes) s))) := by
  refine ⟨fun hq => ?unbound, fun p set hq => ⟨fun hlost => ?lost, fun hlost hshown => ?shown, fun hlost hnot => ?refused⟩,
    fun p set hq hlost hne hpa hlen => ⟨fun hown => ?foreign, fun hown hceil hdead hc ha => ?stored⟩⟩
  case unbound =>
    have hread : exec (.roceReadRequest qp pa len) s = execRoceReadRequest qp pa len s := rfl
    have hwork : exec (.hostWorkRequest qp pa len) s = execHostWorkRequest qp pa len s := rfl
    have hin : exec (.roceIncomingData qp pa bytes) s = execRoceIncomingData qp pa bytes s := rfl
    rw [hread, hwork, hin, execRoceReadRequest, execHostWorkRequest, execRoceIncomingData, hq]
    exact ⟨rfl, rfl, rfl⟩
  case lost =>
    rw [roceRead_eq hq, hostWork_eq hq, incoming_eq hq, hlost]
    exact ⟨rfl, rfl, rfl⟩
  case shown =>
    have hopen := (shows_iff s p pa len).mpr hshown
    refine ⟨⟨_, roceRead_eq hq, ?_⟩, _, hostWork_eq hq, ?_⟩ <;>
    · rw [hlost, if_neg Bool.false_ne_true, if_pos hopen]
      exact clearRange_sent ..
  case refused =>
    rw [← shows_iff] at hnot
    rw [roceRead_eq hq, hostWork_eq hq, hlost, if_neg Bool.false_ne_true, if_neg hnot, if_neg Bool.false_ne_true, if_neg hnot]
    exact ⟨rfl, rfl⟩
  case foreign =>
    rw [incoming_frame hq hlost hne hpa hlen, hown]
    rfl
  case stored =>
    refine ⟨_, incoming_frame hq hlost hne hpa hlen, ?_⟩
    rw [hown, hceil, hdead]
    exact bytesStored_storeHome set ha (unredirected_run ha hlen) hc

/-! ### The reset of a partition (R423) -/

/-- What the frames, the marks and the log of a reset leave alone: the tasks, the bindings and the partitions. -/
def State.roll (s : State) : List Task × List Binding × List Part := (s.tasks, s.binds, s.parts)

theorem strikeSectors_roll (hit : Nat → Bool) (p : PvSet) (s : State) : (strikeSectors hit p s).roll = s.roll := rfl
theorem bumpGen_roll (n : Nat) (s : State) : (bumpGen n s).roll = s.roll := rfl
theorem storeHome_roll (pa : Nat) (b : List Byte) (p : PvSet) (s : State) : (storeHome pa b p s).roll = s.roll :=
  (congrArg State.roll (storeHome_apart pa b p s) :)

theorem resetFrame_roll (n : Nat) (s : State) : (resetFrame n s).roll = s.roll := by
  have hline (l : Nat) (u : State) : (dropLine l u).roll = u.roll := by
    unfold dropLine
    dsimp only
    split <;> rfl
  unfold resetFrame dropFrame
  dsimp only
  rw [strikeSectors_roll, bumpGen_roll, forRange_same State.roll _ hline]
  rfl

theorem foldl_roll {α : Type} (f : State → α → State) (hf : ∀ u x, (f u x).roll = u.roll) (l : List α) (s : State) : (l.foldl f s).roll = s.roll := by
  induction l generalizing s with
  | nil => rfl
  | cons x l ih => rw [List.foldl_cons, ih, hf]

/-- The entries of the reset log are writes. -/
theorem resetLog_roll (a : Nat) (log : List (List Byte)) (s : State) :
    ((log.take 2048).zipIdx.foldl (fun s e => storeHome (a + 32 * e.2) e.1 pvEmpty s) s).roll = s.roll :=
  foldl_roll _ (fun _ _ => storeHome_roll ..) _ _

/-- The frames of a reset leave the roll, and its partition is recorded anew. -/
theorem resetFrames_roll (q : Part) (listed others : List Nat) (frames : List (Nat × Nat)) (u : State) :
    ((frames.foldl (fun s r => strikeSectors (fun x => r.1 <= x / 2048 && x / 2048 < r.1 + r.2) pvEmpty (unscrub r.1 r.2 s))
      (others.foldl (fun s t => bumpGen t s) (listed.foldl (fun s t => resetFrame t s) u))).setPart q).roll =
      (u.tasks, u.binds, putBy Part.num q u.parts) := by
  have hset (w : State) (hw : w.roll = u.roll) : (w.setPart q).roll = (u.tasks, u.binds, putBy Part.num q u.parts) :=
    congrArg (fun r : List Task × List Binding × List Part => (r.1, r.2.1, putBy Part.num q r.2.2)) hw
  refine hset _ ((foldl_roll _ (fun _ _ => by rfl) _ _).trans ?_)
  exact (foldl_roll _ (fun _ _ => by rfl) _ _).trans (foldl_roll _ (fun _ _ => resetFrame_roll ..) _ _)

/-- A partition that is reset keeps its number, its coves and its frames, and loses what it had set up. -/
def Part.afterReset (p : Part) : Part :=
  { p with roster := [], ns := [], qps := [], hfmask := 0, hfmaskPv := pvEmpty, htvec := 0, htvecPv := pvEmpty }

theorem resetPart_roll {n : Nat} {p : Part} {s : State} (hp : s.partAt n = some p) : ∃ (tasks : List Task) (binds : List Binding) (parts : List Part),
    (resetPart n s).roll = (tasks.filter fun t => t.part != n, binds.filter fun b => b.part != n, putBy Part.num p.afterReset parts) := by
  unfold resetPart
  rw [hp]
  dsimp only
  split
  · exact ⟨_, _, _, (resetLog_roll ..).trans (resetFrames_roll p.afterReset _ _ _ _)⟩
  · exact ⟨_, _, _, resetFrames_roll p.afterReset _ _ _ _⟩

theorem partitionResets (n : Nat) (s : State) : exec (.functionLevelReset 0) s = .next s ∧
    (s.partAt n = none → exec (.functionLevelReset (n + 1)) s = .next s) ∧
    (∀ p, s.partAt n = some p → Completes (.functionLevelReset (n + 1)) s (fun t => (∀ x ∈ t.tasks, x.part ≠ n) ∧
      (∀ x ∈ t.binds, x.part ≠ n) ∧ ∃ q, t.partAt n = some q ∧ q.roster = [] ∧ q.ns = [] ∧ q.qps = [] ∧ q.hfmask = 0 ∧ q.htvec = 0 ∧
        q.coves = p.coves ∧ q.frames = p.frames)) := by
  have hexec : exec (.functionLevelReset (n + 1)) s = .next (resetPart n s) := rfl
  refine ⟨rfl, fun hp => ?absent, fun p hp => ⟨_, hexec, ?reset⟩⟩
  case absent => rw [hexec, resetPart, hp]
  case reset =>
    obtain ⟨tasks, binds, parts, hroll⟩ := resetPart_roll hp
    simp only [State.roll, Prod.mk.injEq] at hroll
    obtain ⟨htasks, hbinds, hparts⟩ := hroll
    have hnum : p.num = n := findBy_key hp
    have hsame : p.afterReset.num = n := hnum
    rw [htasks, hbinds, State.partAt, hparts, ← hsame]
    refine ⟨fun x hx => ?_, fun x hx => ?_, p.afterReset, findBy_putBy_same .., rfl, rfl, rfl, rfl, rfl, rfl, rfl⟩ <;>
    · exact bne_iff_ne.mp (List.mem_filter.mp hx).2

end Sys2Proof.Machine
end

section
/-! SUPPORT. Errors: what is logged, what is poisoned, the core that fails and the frame that is retired (R425, R426, R481-R484). -/

namespace Sys2Proof.Machine

open Sys2Proof.Safety

/-! ### Where bytes lie, past an event -/

/-- What decides where the byte of an address lies: the package, and of each tidepool frame its state. -/
def State.placing (s : State) : Nat × (Nat → TideState) := (s.pkg, fun f => (s.tideAt f).state)

theorem placing_of_layout {s t : State} (h : t.layout = s.layout) : t.placing = s.placing :=
  congrArg (fun x : Nat × (Nat → TideState × Nat) => (x.1, fun f => (x.2 f).1)) h

theorem place_of_placing {s t : State} (h : t.placing = s.placing) (a : Nat) : t.place a = s.place a := by
  have hpkg : t.pkg = s.pkg := (congrArg Prod.fst h :)
  have hstate (f : Nat) : (t.tideAt f).state = (s.tideAt f).state := (congrArg (fun x : Nat × (Nat → TideState) => x.2 f) h :)
  unfold State.place State.inTide
  rw [hpkg, hstate]

/-- A frame whose zero map alone changes stays in its place. -/
theorem setZmap_placing (f z : Nat) (s : State) : (s.setTide { s.tideAt f with zmap := z }).placing = s.placing := by
  refine Prod.ext rfl (funext fun g => ?_)
  by_cases hg : g = (s.tideAt f).frame
  · subst hg
    have hself : s.tideAt (s.tideAt f).frame = s.tideAt f := by rw [tideAt_frame]
    exact (congrArg TideFrame.state (tideAt_setTide_same s { s.tideAt f with zmap := z })).trans (congrArg TideFrame.state hself).symm
  · exact congrArg TideFrame.state (tideAt_setTide_ne s { s.tideAt f with zmap := z } g hg)

theorem unzero_placing (pa n : Nat) (s : State) : (unzero pa n s).placing = s.placing := by
  unfold unzero
  split
  · rfl
  · refine forRange_same State.placing _ (fun l s => ?_) _ _ s
    dsimp only
    split
    · exact setZmap_placing (l / 512) _ { s with mem := _ }
    · rfl

theorem storeHome_place (pa : Nat) (b : List Byte) (p : PvSet) (s : State) (a : Nat) : (storeHome pa b p s).place a = s.place a := by
  refine place_of_placing ?_ a
  rw [storeHome_eq]
  refine Eq.trans (placing_of_layout ?_) (unzero_placing pa b.length s)
  rw [forRange_same State.layout _ (wakeLine_layout none)]
  refine (landBytes_layout ..).trans ((holdLines_layout ..).trans ?_)
  exact grownHome_same State.layout startClear_layout growCur_layout (homeSector_layout none) ..

theorem logEvent_place (kind cls unit addr : Nat) (s : State) (a : Nat) : (logEvent kind cls unit addr s).place a = s.place a := by
  unfold logEvent
  dsimp only
  split
  · rfl
  · exact storeHome_place ..

/-- Without a ring an event is counted alone. -/
theorem logEvent_without_ring {s : State} (h : s.elog = none) (kind cls unit addr : Nat) :
    logEvent kind cls unit addr s = { s with elogSeq := s.elogSeq + 1 } := by
  unfold logEvent
  dsimp only
  rw [h]

/-! ### Sectors that are lost (R483) -/

theorem poisonSector_apart (x : Nat) (s : State) : (poisonSector x s).apart = { s with elogSeq := s.elogSeq + 1 }.apart := logEvent_apart ..

/-- The sectors of a list that are lost are logged, and change nothing else that is not a write's. -/
theorem poisonSome_apart (l : List Nat) (s : State) :
    ∃ n, s.elogSeq ≤ n ∧ (poisonSome l s).apart = { s with elogSeq := n }.apart := by
  have hfold (c : Nat) (l : List Nat) : ∀ u : State, ∃ n, u.elogSeq ≤ n ∧
      (l.foldl (fun s x => if Config.orderKey c x % 2 == 1 then poisonSector x s else s) u).apart = { u with elogSeq := n }.apart := by
    induction l with
    | nil => exact fun u => ⟨_, le_refl _, rfl⟩
    | cons x l ih =>
      intro u
      rw [List.foldl_cons]
      split
      · obtain ⟨n, hn, h⟩ := ih (poisonSector x u)
        have hx := poisonSector_apart x u
        have hseq : (poisonSector x u).elogSeq = u.elogSeq + 1 := (congrArg State.elogSeq hx :)
        exact ⟨n, by omega, h.trans (congrArg (fun v : State => { v with elogSeq := n }) hx :)⟩
      · exact ih u
  unfold poisonSome
  split
  · exact ⟨_, le_refl _, rfl⟩
  · exact hfold s.freeCtr l { s with freeCtr := s.freeCtr + 1 }

/-! ### An error that is retried -/

/-- A core that fails: the step in its array is undone, to be run again first. -/
def Core.stopped (c : Core) : Core := { c with failing := true, isl := { c.isl with step := none, order := c.isl.step.toList ++ c.isl.order } }

theorem failCore_apart (core : Nat) (s : State) : (failCore core s).apart = s.apart :=
  onCore_apart core (f := fun u => u.mapCore Core.stopped) (fun _ => rfl) s

theorem failCore_becomes (core : Nat) (s : State) : CoreBecomes core (s.coreAt core).stopped s (failCore core s) :=
  onCore_mapCore core Core.stopped s (coreAt_num s core)

/-- From `s` to `t` an event has been counted; without a ring nothing else has changed but the count of free values. -/
structure Counted (s t : State) : Prop where
  seq : s.elogSeq + 1 ≤ t.elogSeq
  alone : s.elog = none → t = { s with elogSeq := s.elogSeq + 1, freeCtr := t.freeCtr }

theorem counted_logEvent (kind cls unit addr : Nat) {s u : State} (hu : u = { s with freeCtr := u.freeCtr }) :
    Counted s (logEvent kind cls unit addr u) := by
  refine ⟨by rw [logEvent_elogSeq, hu], fun h => ?_⟩
  rw [hu, logEvent_without_ring (s := { s with freeCtr := u.freeCtr }) h]

/-- An error whose retry succeeds is counted alone, so no sector is poisoned but by a write at the ring. -/
theorem Counted.retried {s t : State} (h : Counted s t) (ok : Bool) : s.elogSeq + 1 ≤ t.elogSeq ∧
    (ok = true → t.poison = s.poison ∨ s.elog ≠ none) ∧
    (ok = true → s.elog = none → t = { s with elogSeq := s.elogSeq + 1, freeCtr := t.freeCtr }) := by
  refine ⟨h.seq, fun _ => ?_, fun _ => h.alone⟩
  by_cases hnone : s.elog = none
  · left; rw [h.alone hnone]
  · exact .inr hnone

theorem errorRetries (site : ErrorSite) (ok : Bool) (s : State) : Completes (.errorRetry site ok) s (fun t => s.elogSeq + 1 ≤ t.elogSeq ∧
    (ok = true → t.poison = s.poison ∨ s.elog ≠ none) ∧
    (ok = true → s.elog = none → t = { s with elogSeq := s.elogSeq + 1, freeCtr := t.freeCtr })) := by
  cases site with
  | ezmos pa => exact ⟨_, rfl, (counted_logEvent _ _ _ _ rfl).retried ok⟩
  | flit port => exact ⟨_, rfl, (counted_logEvent _ _ _ _ rfl).retried ok⟩
  | sram core pa =>
    let u : State := { s with freeCtr := s.freeCtr + 1 }
    let t := logEvent 2 (errorClass ok (u.used 5 (core + 320 * Config.sramGroup s.freeCtr) < 2)) core pa u
    have hcounted : Counted s t := counted_logEvent _ _ _ _ rfl
    have hexec : exec (.errorRetry (.sram core pa) ok) s = .next (if ok = true then t else poisonSome (t.dirtyIn core pa) t) := rfl
    refine ⟨_, hexec, ?_⟩
    split
    · exact hcounted.retried ok
    · next hlost =>
      obtain ⟨n, hn, hpoisoned⟩ := poisonSome_apart (t.dirtyIn core pa) t
      have hseq : (poisonSome (t.dirtyIn core pa) t).elogSeq = n := (congrArg State.elogSeq hpoisoned :)
      exact ⟨hseq ▸ hcounted.seq.trans hn, fun h => absurd h hlost, fun h => absurd h hlost⟩
  | residue core =>
    let t := logEvent 4 (errorClass ok (s.sparesUsed (core / 40) < 2)) core 0 s
    have hcounted : Counted s t := counted_logEvent _ _ _ _ rfl
    have hexec : exec (.errorRetry (.residue core) ok) s = .next (if (ok || decide (320 ≤ core)) = true then t else failCore core t) := rfl
    refine ⟨_, hexec, ?_⟩
    split
    · exact hcounted.retried ok
    · next hfails =>
      have hok : ok ≠ true := fun h => hfails (by rw [h]; rfl)
      have hseq : (failCore core t).elogSeq = t.elogSeq := (congrArg State.elogSeq (failCore_apart core t) :)
      exact ⟨hseq ▸ hcounted.seq, fun h => absurd h hok, fun h => absurd h hok⟩

/-- A core that has failed its residue check twice begins nothing more, and the step in its array is to be run again. -/
theorem residueFailure (core : Nat) (s : State) (hcore : core < 320) : Completes (.errorRetry (.residue core) false) s (fun t =>
    (t.coreAt core).failing = true ∧ (t.coreAt core).isl.step = none ∧ (t.coreAt core).isl.order = (s.coreAt core).isl.step.toList ++ (s.coreAt core).isl.order ∧
    ((t.coreAt core).isl.accs = (s.coreAt core).isl.accs)) := by
  let u := logEvent 4 (errorClass false (s.sparesUsed (core / 40) < 2)) core 0 s
  have hexec : exec (.errorRetry (.residue core) false) s = .next (failCore core u) :=
    congrArg Host.Outcome.next (if_neg (by simp; exact hcore))
  have hisl : (u.coreAt core).isl = (s.coreAt core).isl := (congrArg Core.isl ((MemoryWork.logEvent ..).cores core).bare :)
  refine ⟨_, hexec, ?_⟩
  beta_reduce
  rw [(failCore_becomes core u).core, ← hisl]
  exact ⟨rfl, rfl, rfl, rfl⟩

end Sys2Proof.Machine
end

section
/-! SUPPORT. Lines that are read again, and spares that are used (R425, R426, R485). -/

namespace Sys2Proof.Machine

open Sys2Proof.Safety

/-! ### A line that is read again -/

/-- The cores in whose slices a line has copies. -/
def State.holdersOf (s : State) (line : Nat) : List Nat := ((s.core :: s.cores).filter fun c => c.copies.any fun k => k.line == line).map Core.num

/-- The copies of a line have been dropped from a slice, and the read is logged. -/
def rereadAt (core pa : Nat) (again : Reread) (s : State) : State :=
  logEvent 2 (if again == .good then 0 else 2) (if (s.holdersOf (s.lineOf pa)).isEmpty then homeOf pa else core) pa
    (onCore core (fun u => u.mapCore fun c => { c with copies := c.copies.filter fun k => k.line != s.lineOf pa }) s)

/-- A frame has been retired, and the harts that waited are to raise the data error. -/
def retireFrame (pa : Nat) (waiting : List HartId) (s : State) : State :=
  let f := s.place pa / 65536
  if s.retired.contains f then s
  else logEvent 11 2 (dieOf pa) (f * 65536) { s with retired := f :: s.retired, rereads := s.rereads ++ waiting.map fun w => (w, s.place pa / 128) }

/-- A read that is repeated drops the copy of a holder, if there is one, and retires the frame where it fails. -/
def rereadNext (core pa : Nat) (again : Reread) (s : State) : State :=
  match again with
  | .good => rereadAt core pa again s
  | .failed waiting => retireFrame pa waiting (rereadAt core pa again s)

theorem uncorrectableReread_eq (pa : Nat) (again : Reread) (s : State) :
    let holders := s.holdersOf (s.lineOf pa)
    let x := if holders.isEmpty then (0, s) else s.nextFree
    let core := (holders[Config.orderKey x.1 0 % holders.length]?).getD 0
    exec (.uncorrectableReread pa again) s =
      .next (if !holders.isEmpty && !(x.2.dirtyIn core pa).isEmpty then x.2 else rereadNext core pa again x.2) := by
  intro holders x core
  have hexec : exec (.uncorrectableReread pa again) s = execUncorrectableReread pa again s := rfl
  have hlists : x.2.holdersOf (x.2.lineOf pa) = holders ∧ x.2.lineOf pa = s.lineOf pa := by
    dsimp only [x]
    split <;> exact ⟨rfl, rfl⟩
  rw [hexec, execUncorrectableReread]
  refine congrArg Host.Outcome.next ?_
  dsimp only
  refine congrArg (ite _ x.2) ?_
  cases again <;> (dsimp only [rereadNext, rereadAt]; rw [hlists.1, hlists.2]; rfl)

/-- Without a holder the line is read again as it is. -/
theorem uncorrectableReread_unheld {pa : Nat} {s : State} (h : s.holdersOf (s.lineOf pa) = []) (again : Reread) :
    exec (.uncorrectableReread pa again) s = .next (rereadNext 0 pa again s) := by
  rw [uncorrectableReread_eq, h]
  rfl

/-- One holder is chosen: its copy goes where no sector of it is dirty. -/
theorem uncorrectableReread_held {pa : Nat} {s : State} (h : s.holdersOf (s.lineOf pa) ≠ []) : ∃ core ∈ s.holdersOf (s.lineOf pa), ∀ again : Reread,
    exec (.uncorrectableReread pa again) s = .next (if s.dirtyIn core pa = [] then rereadNext core pa again { s with freeCtr := s.freeCtr + 1 }
      else { s with freeCtr := s.freeCtr + 1 }) := by
  have hpos : 0 < (s.holdersOf (s.lineOf pa)).length := List.length_pos_iff.mpr h
  have hlt := Nat.mod_lt (Config.orderKey s.freeCtr 0) hpos
  have hempty : (s.holdersOf (s.lineOf pa)).isEmpty = false := List.isEmpty_eq_false_iff.mpr h
  refine ⟨((s.holdersOf (s.lineOf pa))[Config.orderKey s.freeCtr 0 % (s.holdersOf (s.lineOf pa)).length]?).getD 0, ?_, fun again => ?_⟩
  · rw [List.getElem?_eq_getElem hlt]
    exact List.getElem_mem hlt
  · rw [uncorrectableReread_eq, hempty, if_neg Bool.false_ne_true]
    refine congrArg Host.Outcome.next ?_
    split
    · next hd =>
      rw [Bool.not_false, Bool.true_and, Bool.not_eq_true', List.isEmpty_eq_false_iff] at hd
      exact (if_neg hd).symm
    · next hd =>
      rw [Bool.not_false, Bool.true_and, Bool.not_eq_true', Bool.not_eq_false, List.isEmpty_iff] at hd
      exact (if_pos hd).symm

/-- What the read of a line leaves: the slice holds no copy of it, and no frame has been retired. -/
theorem rereadAt_spec (core pa : Nat) (again : Reread) (s : State) : let t := rereadAt core pa again s
    (∀ c ∈ (t.coreAt core).copies, c.line ≠ s.lineOf pa) ∧ t.retired = s.retired ∧ t.rereads = s.rereads ∧ t.place pa = s.place pa := by
  let drop (c : Core) : Core := { c with copies := c.copies.filter fun k => k.line != s.lineOf pa }
  have hbecomes := onCore_mapCore core drop s (coreAt_num s core)
  have hapart : (rereadAt core pa again s).apart = { onCore core (fun u => u.mapCore drop) s with
      elogSeq := (onCore core (fun u => u.mapCore drop) s).elogSeq + 1 }.apart := logEvent_apart ..
  have hdropped := onCore_apart core (f := fun u => u.mapCore drop) (fun _ => rfl) s
  refine ⟨fun c hc => ?_, ?_, ?_, ?_⟩
  · obtain ⟨j, hj, hline, -⟩ := ((MemoryWork.logEvent ..).cores core).places c hc
    rw [hbecomes.core] at hj
    rw [← hline]
    exact bne_iff_ne.mp (List.mem_filter.mp hj).2
  · exact (congrArg State.retired hapart :).trans (congrArg State.retired hdropped :)
  · exact (congrArg State.rereads hapart :).trans (congrArg State.rereads hdropped :)
  · have hfocus (n : Nat) (u : State) : (focusCore n u).place pa = u.place pa := by
      obtain ⟨l, h⟩ := focusCore_eq n u; rw [h]; rfl
    refine (logEvent_place ..).trans ?_
    rw [onCore, hfocus]
    exact hfocus core s

theorem retireFrame_spec (pa : Nat) (waiting : List HartId) (s : State) : let t := retireFrame pa waiting s
    MemoryWork s t ∧ s.place pa / 65536 ∈ t.retired ∧ (s.place pa / 65536 ∉ s.retired → t.retired = s.place pa / 65536 :: s.retired ∧
      t.rereads = s.rereads ++ waiting.map fun w => (w, s.place pa / 128)) := by
  unfold retireFrame
  dsimp only
  split
  · next h =>
    rw [List.contains_iff_mem] at h
    exact ⟨.refl s, h, fun hnot => absurd h hnot⟩
  · let u : State := { s with retired := s.place pa / 65536 :: s.retired, rereads := s.rereads ++ waiting.map fun w => (w, s.place pa / 128) }
    have hwork : MemoryWork s u := .of_same rfl
    have hapart := logEvent_apart 11 2 (dieOf pa) (s.place pa / 65536 * 65536) u
    have hretired := (congrArg State.retired hapart :)
    refine ⟨hwork.trans (.logEvent ..), ?_, fun _ => ⟨hretired, (congrArg State.rereads hapart :)⟩⟩
    exact hretired.symm ▸ List.mem_cons_self

/-- What a repeated read does to the slice and, where it fails, to the frame. -/
theorem rereadNext_spec (core pa : Nat) (again : Reread) (s : State) : let t := rereadNext core pa again s
    (∀ c ∈ (t.coreAt core).copies, c.line ≠ s.lineOf pa) ∧ (again = .good → t.retired = s.retired ∧ t.rereads = s.rereads) ∧
    ∀ waiting, again = .failed waiting → s.place pa / 65536 ∈ t.retired ∧ (s.place pa / 65536 ∉ s.retired →
      t.retired = s.place pa / 65536 :: s.retired ∧ ∀ w, (w, s.place pa / 128) ∈ t.rereads ↔ w ∈ waiting ∨ (w, s.place pa / 128) ∈ s.rereads) := by
  obtain ⟨hcopies, hretired, hrereads, hplace⟩ := rereadAt_spec core pa again s
  cases again with
  | good => exact ⟨hcopies, fun _ => ⟨hretired, hrereads⟩, nofun⟩
  | failed waiting =>
    obtain ⟨hwork, hmem, hnew⟩ := retireFrame_spec pa waiting (rereadAt core pa (.failed waiting) s)
    rw [hplace] at hmem hnew
    rw [hretired, hrereads] at hnew
    refine ⟨fun c hc => ?_, nofun, fun w hw => ?_⟩
    · obtain ⟨j, hj, hline, -⟩ := (hwork.cores core).places c hc
      exact hline ▸ hcopies j hj
    · cases hw
      refine ⟨hmem, fun hnot => ⟨(hnew hnot).1, fun v => ?_⟩⟩
      have heq : (rereadNext core pa (.failed waiting) s).rereads = s.rereads ++ waiting.map fun w => (w, s.place pa / 128) := (hnew hnot).2
      rw [heq, List.mem_append, or_comm]
      simp

theorem rereads (pa : Nat) (s : State) :
    let line := s.lineOf pa
    let frame := s.place pa / 65536
    let holders := ((s.core :: s.cores).filter fun c => c.copies.any fun k => k.line == line).map Core.num
    (holders ≠ [] → (∀ k ∈ holders, s.dirtyIn k pa ≠ []) → ∀ again, exec (.uncorrectableReread pa again) s =
      .next { s with freeCtr := s.freeCtr + 1 }) ∧
    ((∀ k ∈ holders, s.dirtyIn k pa = []) → ∀ again, Completes (.uncorrectableReread pa again) s (fun t =>
      (holders = [] ∨ ∃ k ∈ holders, ∀ c ∈ (t.coreAt k).copies, c.line ≠ line) ∧ (again = .good → t.retired = s.retired ∧ t.rereads = s.rereads) ∧
      (∀ waiting, again = .failed waiting → frame ∈ t.retired ∧
        (frame ∉ s.retired → t.retired = frame :: s.retired ∧ ∀ w, (w, s.place pa / 128) ∈ t.rereads ↔ w ∈ waiting ∨ (w, s.place pa / 128) ∈ s.rereads)))) := by
  intro line frame holders
  refine ⟨fun hheld hdirty again => ?dirty, fun hclean again => ?clean⟩
  case dirty =>
    obtain ⟨core, hcore, hexec⟩ := uncorrectableReread_held (pa := pa) hheld
    rw [hexec again, if_neg (hdirty core hcore)]
  case clean =>
    by_cases hheld : holders = []
    · obtain ⟨-, hgood, hfailed⟩ := rereadNext_spec 0 pa again s
      exact ⟨_, uncorrectableReread_unheld hheld again, .inl hheld, hgood, hfailed⟩
    · obtain ⟨core, hcore, hexec⟩ := uncorrectableReread_held (pa := pa) hheld
      obtain ⟨hcopies, hgood, hfailed⟩ := rereadNext_spec core pa again { s with freeCtr := s.freeCtr + 1 }
      exact ⟨_, (hexec again).trans (congrArg _ (if_pos (hclean core hcore))), .inr ⟨core, hcore, hcopies⟩, hgood, hfailed⟩

end Sys2Proof.Machine
end

section
/-! SUPPORT. The spares that repairs use, power, and the firmware that boots and is replaced (R485, R490, R493, R496, R497). -/

namespace Sys2Proof.Machine

open Sys2Proof.Safety

/-! ### Spares (R485) -/

/-- One spare of a kind is used at a place where one is left, and the fault is logged. -/
theorem repair_spec (kind place : Nat) (left : Bool) (log unit addr : Nat) (s : State) : let t := repair kind place left log unit addr s
    t.elogSeq = s.elogSeq + 1 ∧ t.repairs = s.repairs ++ if left = true then [⟨kind, place, s.used kind place + 1⟩] else [] := by
  have hlogged (cls : Nat) (u : State) : (logEvent log cls unit addr u).repairs = u.repairs :=
    (congrArg State.repairs (logEvent_apart log cls unit addr u) :)
  cases left with
  | true => exact ⟨logEvent_elogSeq .., hlogged ..⟩
  | false => exact ⟨logEvent_elogSeq .., (hlogged ..).trans (List.append_nil _).symm⟩

/-- Data that a repair loses are logged, and use no spare. -/
theorem loseData_spec (pa : Nat) (s : State) : s.elogSeq ≤ (loseData pa s).elogSeq ∧ (loseData pa s).repairs = s.repairs := by
  have hsector (x : Nat) (u : State) : u.elogSeq ≤ (poisonSector x u).elogSeq ∧ (poisonSector x u).repairs = u.repairs := by
    have h := poisonSector_apart x u
    exact ⟨(Nat.le_succ _).trans (le_of_eq (congrArg State.elogSeq h).symm), (congrArg State.repairs h :)⟩
  unfold loseData State.nextFree
  dsimp only
  split
  · exact ⟨le_refl _, rfl⟩
  · split
    · exact hsector (pa / 32) { s with freeCtr := s.freeCtr + 1 }
    · split
      · exact ⟨le_refl _, rfl⟩
      · have h := logEvent_apart 11 2 (dieOf pa) (pa / 65536 * 65536) { s with retired := pa / 65536 :: s.retired, freeCtr := s.freeCtr + 1 }
        exact ⟨(Nat.le_succ _).trans (le_of_eq (congrArg State.elogSeq h).symm), (congrArg State.repairs h :)⟩

/-- A spare that is used for a failing row or bank, with the data that the copy loses. -/
theorem repair_loseData_spec (kind place : Nat) (left : Bool) (log unit addr pa : Nat) (s : State) :
    let t := loseData pa (repair kind place left log unit addr s)
    s.elogSeq + 1 ≤ t.elogSeq ∧ t.repairs = s.repairs ++ if left = true then [⟨kind, place, s.used kind place + 1⟩] else [] := by
  obtain ⟨hseq, hrepairs⟩ := repair_spec kind place left log unit addr s
  obtain ⟨hseq', hrepairs'⟩ := loseData_spec pa (repair kind place left log unit addr s)
  exact ⟨hseq ▸ hseq', hrepairs'.trans hrepairs⟩

theorem spares (u : RepairUnit) (core : Nat) (s : State) :
    let group := core + 320 * Config.sramGroup s.freeCtr
    let spare : Option (Nat × Nat × Bool) := match u with
      | .row stack pa => if stack < 16 then some (2, Config.bankOf pa, decide (s.used 2 (Config.bankOf pa) < 32)) else none
      | .bank stack _ => if stack < 16 then some (3, stack, decide (s.used 3 stack < 2)) else none
      | .lane port => if port < 36 then some (4, port, decide (s.used 4 port < 1)) else none
      | .sramRow c => if c = core ∧ core < 320 then some (5, group, decide (s.used 5 group < 2)) else none
      | _ => none
    ∀ x, spare = some x → Completes (.lastingFaultRepair u) s (fun t => s.elogSeq + 1 ≤ t.elogSeq ∧
      t.repairs = s.repairs ++ if x.2.2 = true then [⟨x.1, x.2.1, s.used x.1 x.2.1 + 1⟩] else []) := by
  intro group spare x hx
  cases u with
  | row stack pa =>
    obtain ⟨hstack, hsome⟩ := Option.ite_none_right_eq_some.mp hx
    cases hsome
    exact ⟨_, congrArg Host.Outcome.next (if_pos hstack), repair_loseData_spec ..⟩
  | bank stack pa =>
    obtain ⟨hstack, hsome⟩ := Option.ite_none_right_eq_some.mp hx
    cases hsome
    exact ⟨_, congrArg Host.Outcome.next (if_pos hstack), repair_loseData_spec ..⟩
  | lane port =>
    obtain ⟨hport, hsome⟩ := Option.ite_none_right_eq_some.mp hx
    cases hsome
    obtain ⟨hseq, hrepairs⟩ := repair_spec 4 port (decide (s.used 4 port < 1)) 8 port 0 s
    exact ⟨_, congrArg Host.Outcome.next (if_pos hport), le_of_eq hseq.symm, hrepairs⟩
  | sramRow c =>
    obtain ⟨⟨rfl, hcore⟩, hsome⟩ := Option.ite_none_right_eq_some.mp hx
    cases hsome
    obtain ⟨hseq, hrepairs⟩ := repair_spec 5 group (decide (s.used 5 group < 2)) 9 c 0 { s with freeCtr := s.freeCtr + 1 }
    exact ⟨_, congrArg Host.Outcome.next (if_pos hcore), le_of_eq hseq.symm, hrepairs⟩
  | hostLane => exact absurd hx nofun
  | ethernetLane port => exact absurd hx nofun
  | sliceWay c bank => exact absurd hx nofun

/-! ### A way of a bank (R485) -/

/-- No copy that a slice has given up is in it. -/
theorem copies_onCore_evictCopies (core : Nat) (out : Copy → Bool) (s : State) : ∀ k ∈ ((onCore core (evictCopies out) s).coreAt core).copies,
    out k = false := by
  obtain ⟨⟨x, h⟩, -⟩ := evictCopies_spec out (focusCore core s)
  have hat : (evictCopies out (focusCore core s)).coreAt core =
      { (focusCore core s).core with copies := (focusCore core s).core.copies.filter fun k => !out k } := by
    have hnum : (focusCore core s).core.num = core := (congrArg Core.num (focusCore_core core s)).trans (coreAt_num s core)
    rw [h]
    exact (coreAt_mapCore (fun c => { c with copies := c.copies.filter fun k => !out k }) (focusCore core s) rfl core).trans (if_pos hnum.symm)
  intro k hk
  rw [onCore, coreAt_focusCore, hat] at hk
  simpa using (List.mem_filter.mp hk).2

/-- Without a spare way the loss is logged; the first way that is lost is recorded and holds no copy any more. -/
theorem loseWay_spec (core bank : Nat) (s : State) : let t := loseWay core bank s
    t.elogSeq = s.elogSeq + 1 ∧ (1 ≤ s.used 6 (core * 8 + bank) → t.repairs = s.repairs) ∧
    (s.used 6 (core * 8 + bank) < 1 → ∃ way < 16, t.repairs = s.repairs ++ [⟨6, core * 8 + bank, way⟩] ∧
      ∀ k ∈ (t.coreAt core).copies, linePlace k.line % 8 = bank → k.way ≠ way) := by
  unfold loseWay State.nextFree
  dsimp only
  split
  · next hleft =>
    let way := Config.orderKey s.freeCtr 0 % 16
    let u : State := { s with repairs := s.repairs ++ [⟨6, core * 8 + bank, way⟩], freeCtr := s.freeCtr + 1 }
    let out (c : Copy) : Bool := linePlace c.line % 8 == bank && (c.way == way || (c.way == 12 && u.tideHolds core (linePlace c.line) 12))
    have hevicted := onCore_apart core (f := evictCopies out) (evictCopies_apart out) u
    have hlogged := logEvent_apart 10 1 core 0 (onCore core (evictCopies out) u)
    refine ⟨(congrArg State.elogSeq hlogged :).trans (congrArg (fun v : State => v.elogSeq + 1) hevicted :), fun h => absurd hleft (by omega),
      fun _ => ⟨way, Nat.mod_lt _ (by decide), (congrArg State.repairs hlogged :).trans (congrArg State.repairs hevicted :), fun k hk hbank hway => ?_⟩⟩
    obtain ⟨j, hj, hline, hjway⟩ := ((MemoryWork.logEvent 10 1 core 0 (onCore core (evictCopies out) u)).cores core).places k hk
    have hcleared := copies_onCore_evictCopies core out u j hj
    dsimp only [out] at hcleared
    rw [hline, hjway, hbank, hway, beq_self_eq_true, beq_self_eq_true] at hcleared
    exact absurd hcleared nofun
  · next hnone =>
    exact ⟨logEvent_elogSeq .., fun _ => (congrArg State.repairs (logEvent_apart 10 2 core 0 s) :), fun h => absurd h hnone⟩

theorem sliceWays (core bank : Nat) (s : State) :
    let group := core + 320 * Config.sramGroup s.freeCtr
    (core < 320 → bank < 8 → Completes (.lastingFaultRepair (.sliceWay core bank)) s (fun t => t.elogSeq = s.elogSeq + 1 ∧
      (s.used 5 group < 2 → t.repairs = s.repairs ++ [⟨5, group, s.used 5 group + 1⟩]) ∧
      (2 ≤ s.used 5 group → 1 ≤ s.used 6 (core * 8 + bank) → t.repairs = s.repairs) ∧
      (2 ≤ s.used 5 group → s.used 6 (core * 8 + bank) < 1 → ∃ way < 16, t.repairs = s.repairs ++ [⟨6, core * 8 + bank, way⟩] ∧
        ∀ k ∈ (t.coreAt core).copies, linePlace k.line % 8 = bank → k.way ≠ way))) ∧
    (320 ≤ core ∨ 8 ≤ bank → exec (.lastingFaultRepair (.sliceWay core bank)) s = .next s) := by
  intro group
  have hexec : exec (.lastingFaultRepair (.sliceWay core bank)) s =
      .next (if (decide (core < 320) && decide (bank < 8)) = true then rowOrWay core bank s else s) := rfl
  have hrow : rowOrWay core bank s =
      if s.used 5 group < 2 then repair 5 group true 9 core 0 { s with freeCtr := s.freeCtr + 1 } else loseWay core bank s := rfl
  refine ⟨fun hcore hbank => ⟨rowOrWay core bank s, hexec.trans (congrArg _ (if_pos (by simp [hcore, hbank]))), ?lost⟩, fun hnone => ?absent⟩
  case lost =>
    rw [hrow]
    by_cases hspare : s.used 5 group < 2
    · rw [if_pos hspare]
      obtain ⟨hseq, hrepairs⟩ := repair_spec 5 group true 9 core 0 { s with freeCtr := s.freeCtr + 1 }
      exact ⟨hseq, fun _ => hrepairs, fun h => absurd hspare (by omega), fun h => absurd hspare (by omega)⟩
    · rw [if_neg hspare]
      obtain ⟨hseq, hkept, hlost⟩ := loseWay_spec core bank s
      exact ⟨hseq, fun h => absurd h hspare, fun _ => hkept, fun _ => hlost⟩
  case absent =>
    rw [hexec, if_neg]
    simp only [Bool.and_eq_true, decide_eq_true_eq]
    omega

/-- A unit that goes on with less is recorded, and logged. -/
theorem narrow_spec (kind place unit : Nat) (s : State) : (narrow kind place unit s).elogSeq = s.elogSeq + 1 ∧
    (narrow kind place unit s).repairs = s.repairs ++ [⟨kind, place, s.used kind place + 1⟩] := by
  have h := logEvent_apart 3 2 unit 0 { s with repairs := s.repairs ++ [⟨kind, place, s.used kind place + 1⟩] }
  exact ⟨(congrArg State.elogSeq h :), (congrArg State.repairs h :)⟩

/-! ### Firmware (R490, R493) -/

/-- Every core of the package after a change that leaves a core that has done nothing as it was. -/
theorem coreAt_mapCores {f : Core → Core} (hnum : ∀ c, (f c).num = c.num) (s : State) (n : Nat) :
    (s.mapCores f).coreAt n = f (s.coreAt n) ∨ (s.mapCores f).coreAt n = Core.initial n := by
  unfold State.coreAt State.mapCores
  simp only [hnum, findBy_map Core.num f hnum]
  split
  · exact .inl rfl
  · cases findBy Core.num n s.cores with
    | none => exact .inr rfl
    | some c => exact .inl rfl

/-- Past the new firmware no core holds a translation or a placed form. -/
theorem switchFirmware_cores (f : Firmware) (s : State) (n : Nat) :
    ((switchFirmware f s).coreAt n).tlb = [] ∧ ((switchFirmware f s).coreAt n).reef.placed = [] := by
  have hat : (switchFirmware f s).coreAt n = (s.mapCores fun c => { c with tlb := [], reef := { c.reef with placed := [] } }).coreAt n := rfl
  rw [hat]
  rcases coreAt_mapCores (f := fun c => { c with tlb := [], reef := { c.reef with placed := [] } }) (fun _ => rfl) s n with h | h <;>
  · rw [h]
    exact ⟨rfl, rfl⟩

theorem boots (images : List (List Byte)) (s : State) :
    (images ≠ [] → s.boot = .notBooted → Completes (.boot images) s (fun t => t.mem = s.mem ∧ t.hart = s.hart ∧
      (imagesNamed images = true → images.all (imageOk s.fusedSvn) = true → t.boot = .booted ∧ t.fw = firmwareOf images) ∧
      (imagesNamed images = false ∨ images.all (imageOk s.fusedSvn) = false → t.boot = .failed ∧ t.fw = s.fw))) ∧
    (s.boot ≠ .notBooted ∨ images = [] → exec (.boot images) s = .next s) := by
  have hidle : (s.boot != .notBooted || images.isEmpty) = true ↔ s.boot ≠ .notBooted ∨ images = [] := by simp
  refine ⟨fun hne hboot => ?loaded, fun h => congrArg _ (if_pos (hidle.mpr h))⟩
  case loaded =>
    refine ⟨_, congrArg Host.Outcome.next (if_neg fun h => ?_), ?_⟩
    · exact (hidle.mp h).elim (absurd hboot) (absurd · hne)
    · by_cases hok : (imagesNamed images && images.all (imageOk s.fusedSvn)) = true
      · rw [if_pos hok]
        rw [Bool.and_eq_true] at hok
        exact ⟨rfl, rfl, fun _ _ => ⟨rfl, rfl⟩, fun h => by simp [hok.1, hok.2] at h⟩
      · rw [if_neg hok]
        rw [Bool.and_eq_true] at hok
        exact ⟨rfl, rfl, fun hn ha => absurd ⟨hn, ha⟩ hok, fun _ => ⟨rfl, rfl⟩⟩

theorem activations (s : State) :
    (s.activate = false → exec .fwupdateActivate s = .next s) ∧
    (s.activate = true → s.staged = none → exec .fwupdateActivate s = .next { s with activate := false }) ∧
    (∀ f, s.activate = true → s.staged = some f → s.tasks = [] → Completes .fwupdateActivate s (fun t => t.fw = f ∧ t.staged = none ∧
      t.activate = false ∧ t.fusedSvn = min 64 (max s.fusedSvn f.svn) ∧ t.zone = [] ∧ t.mem = s.mem ∧ t.hart = s.hart ∧
      ∀ n, (t.coreAt n).tlb = [] ∧ (t.coreAt n).reef.placed = [])) := by
  have hexec : exec .fwupdateActivate s = .next (activateStep s) := rfl
  refine ⟨fun hoff => ?_, fun hon hnone => ?_, fun f hon hstaged htasks => ?_⟩
  · rw [hexec, activateStep, hoff]
    rfl
  · rw [hexec, activateStep, hon, hnone]
    rfl
  · refine ⟨switchFirmware f s, ?_, rfl, rfl, rfl, rfl, rfl, rfl, rfl, switchFirmware_cores f s⟩
    rw [hexec, activateStep, hon, hstaged]
    dsimp only
    rw [htasks, List.filter_nil, List.foldl_nil, htasks]
    rfl

theorem powerSteps (s : State) : Completes (.lastingFaultRepair .hostLane) s (fun t => t.elogSeq = s.elogSeq + 1 ∧
      t.repairs = s.repairs ++ [⟨8, 0, s.used 8 0 + 1⟩]) ∧
    (∀ port < 16, Completes (.lastingFaultRepair (.ethernetLane port)) s (fun t => t.elogSeq = s.elogSeq + 1 ∧
      t.repairs = s.repairs ++ [⟨7, port, s.used 7 port + 1⟩])) ∧
    (∀ die, Completes (.thermalLimit die) s (fun t => t.forcedNeap = true ∧ t.power = .neap ∧ t.limitAt = s.clk ∧ t.elogSeq = s.elogSeq + 1)) ∧
    (∀ die, Completes (.thermalStop die) s (fun t => t.stopped = true ∧ t.grants = [] ∧ t.vgrants = [])) ∧
    (s.forcedNeap = true → 2 ^ 32 ≤ (s.clk - s.limitAt).toNat → Completes .neapExit s (fun t => t = { s with forcedNeap := false, power := if s.powerCmd = 1 then .neap else .nominal })) ∧
    (s.forcedNeap = false ∨ (s.clk - s.limitAt).toNat < 2 ^ 32 → exec .neapExit s = .next s) ∧
    Completes (.springStateChange true) s (fun t => t = { s with power := t.power } ∧
      t.power = if s.powerCmd = 2 ∧ s.forcedNeap = false then .spring else s.power) ∧
    Completes (.springStateChange false) s (fun t => t = { s with power := t.power } ∧
      t.power = if s.power = .spring then .nominal else s.power) := by
  have hcold : (s.forcedNeap && decide (2 ^ 32 ≤ (s.clk - s.limitAt).toNat)) = true ↔ s.forcedNeap = true ∧ 2 ^ 32 ≤ (s.clk - s.limitAt).toNat := by
    rw [Bool.and_eq_true, decide_eq_true_eq]
  refine ⟨⟨_, rfl, narrow_spec 8 0 0 s⟩, fun port hport => ⟨_, congrArg Host.Outcome.next (if_pos hport), narrow_spec 7 port port s⟩, fun die => ?limit,
    fun die => ⟨_, rfl, rfl, rfl, rfl⟩, fun hforced hcool => ?cooled, fun hhot => ?hot, ⟨_, rfl, ?raised⟩, ⟨_, rfl, ?lowered⟩⟩
  case limit =>
    have h := logEvent_apart 13 0 die 0 { s with forcedNeap := true, power := .neap, limitAt := s.clk }
    exact ⟨_, rfl, (congrArg State.forcedNeap h :), (congrArg State.power h :), (congrArg State.limitAt h :), (congrArg State.elogSeq h :)⟩
  case cooled =>
    refine ⟨_, congrArg Host.Outcome.next (if_pos (hcold.mpr ⟨hforced, hcool⟩)), ?_⟩
    rw [powerOf]
    simp only [beq_iff_eq]
  case hot =>
    refine congrArg Host.Outcome.next (if_neg fun h => ?_)
    obtain ⟨hforced, hcool⟩ := hcold.mp h
    rcases hhot with hhot | hhot
    · rw [hhot] at hforced
      exact absurd hforced nofun
    · omega
  case raised =>
    simp only [if_true, Bool.and_eq_true, beq_iff_eq, Bool.not_eq_true']
    split <;> exact ⟨rfl, rfl⟩
  case lowered =>
    simp only [Bool.false_eq_true, if_false, beq_iff_eq]
    split <;> exact ⟨rfl, rfl⟩

end Sys2Proof.Machine
end

section
open Sys2Proof Sys2Proof.Machine Sys2Proof.Safety

/-- Settles O59: each arrival and step by the lemma that says what it does; the writes at homes store their bytes, and what a write may change
does not reach what an answer, an event or a repair records. -/
theorem linkReliabilityAndBootSteps : Obligations.LinkReliabilityAndBootSteps := by
  unfold Obligations.LinkReliabilityAndBootSteps
  refine ⟨hostMemRequests, priRequests, scalarAnswers, unaskedAnswers, vectorAnswers, peerPackets, flits, packages, networkTraffic, partitionResets, errorRetries, residueFailure, rereads,
    fun u core bank s => ⟨spares u core s, sliceWays core bank s⟩, fun s => ?power⟩
  case power =>
    obtain ⟨hhost, hlane, hlimit, hstop, hcool, hhot, hraised, hlowered⟩ := powerSteps s
    exact ⟨hhost, hlane, hlimit, hstop, hcool, hhot, hraised, hlowered, fun images => (boots images s).1, fun images => (boots images s).2,
      activations s⟩

end
